-- ==== Sys2Proof/Word.lean ====
section
/-! DEFINITION. The word types of the KX-960 and their plainest arithmetic (R1, R2, R41). -/

namespace Sys2Proof

/-- One byte of memory. -/
abbrev Byte := BitVec 8

/-- A scalar register, a scalar word or a 32-bit field. -/
abbrev Word := BitVec 32

/-- A lane register value or a 64-bit field. -/
abbrev DWord := BitVec 64

/-- One bit for each of the 96 lanes of a crew, bit i for lane i (R41). -/
abbrev LaneMask := BitVec 96

/-- The number of lanes of a crew (R41). -/
abbrev laneCount : Nat := 96

/-- All 96 lanes. -/
abbrev allLanes : LaneMask := BitVec.allOnes 96

end Sys2Proof
end

