-- ==== Sys2Proof/Syntax.lean ====
section
/-! DEFINITION. The operations of the KX-960, one constructor of Instr for each row of the opcode table: scalar words,
CSR sub-operations, lane instructions, and the operations and events of the engines, the fabric, the timetable, the
switch, translation, checkpoint, start and power. Beside it, the records that events carry. -/

namespace Sys2Proof

/-- The number of a scalar register, s0 to s31 (R94). -/
abbrev RegNo := BitVec 5

/-- The fields of a 96-bit lane instruction but for its opcode (R99). REP keeps its word in the same shape (R109). -/
structure LaneFields where
  /-- [87:80] destination code. -/
  dst : BitVec 8
  /-- [79:72] source a code. -/
  sa : BitVec 8
  /-- [71:64] source b code. -/
  sb : BitVec 8
  /-- [63:56] source c code. -/
  sc : BitVec 8
  /-- [55:53] full/empty policy, bit 0 for SA, bit 1 for SB, bit 2 for SC. -/
  fe : BitVec 3
  /-- [52:48] format or integer type. -/
  fmt : BitVec 5
  /-- [47:45] rounding. -/
  rnd : BitVec 3
  /-- [44:41] guard predicate. -/
  pred : BitVec 4
  /-- [40] invert the guard. -/
  pneg : BitVec 1
  /-- [39:32] instruction modifier MOD. -/
  md : BitVec 8
  /-- [31:0] immediate. -/
  imm : BitVec 32
  deriving DecidableEq, Repr

/-- What a trap reports (R201, R202). -/
structure TrapInfo where
  /-- CODE: the cause. -/
  code : BitVec 8
  /-- DETAIL. -/
  detail : BitVec 16
  /-- TRAPADDR. -/
  addr : Word
  /-- TRAPOPND. -/
  opnd : Word
  /-- LOW of TRAPRUN: lowest lane in which the cause arose, 0x7F for none. -/
  low : BitVec 7
  /-- TRAPAHI (R348). -/
  addrHi : Word
  deriving DecidableEq, Repr

/-- A packet of the fabric (R350): the request header, the data and the marks. -/
structure Packet where
  /-- KIND code. -/
  kind : BitVec 8
  /-- HEAT: bits [15:0] of the sender's heat number. -/
  heat : BitVec 16
  /-- SRC: the peer that sends it. -/
  src : Nat
  /-- DST: the peer it is sent to. -/
  dst : Nat
  /-- REQID. -/
  reqid : DWord
  /-- ADDR of the request header. -/
  addr : DWord
  /-- SENDT of the request header, time base in ns. -/
  sendt : DWord
  /-- OPW of the request header. -/
  opw : Word
  /-- LEN of the request header: bytes of the access; of a poisoned response the remote DETAIL. -/
  len : Nat
  /-- WTID: the window table the request names at the target (R346). -/
  wtid : Nat
  /-- The data bytes. -/
  data : List Byte
  /-- For each byte of data, whether it was read from a poisoned source granule (PPOIS0, PPOIS1 of R332). -/
  pois : List Bool
  /-- AUX bit 63 of a progress report: the request is held (R388). -/
  held : Bool
  deriving DecidableEq, Repr

/-- A flit (R332), its fields in the order of the wire. -/
structure Flit where
  ctl : BitVec 8
  kind : BitVec 8
  heat : BitVec 16
  src : BitVec 16
  dst : BitVec 16
  fseq : Word
  len : BitVec 16
  lseq : BitVec 16
  aux : DWord
  payload : BitVec 1024
  ack : Word
  crc : Word
  deriving DecidableEq, Repr

/-- A heat sheet entry (R366), its fields by name. -/
structure HeatEntry where
  start : DWord
  dur : DWord
  heatno : Word
  job : Word
  kind : BitVec 8
  flags : BitVec 8
  parts : BitVec 16
  failpeer : BitVec 16
  res30 : BitVec 16
  deadline : DWord
  cmap : Word
  memb : Word
  seq : Word
  res52 : DWord
  crc : Word
  deriving DecidableEq, Repr

/-- A heat sheet entry with the package that sent it (R365). -/
structure SentEntry where
  peer : Nat
  entry : HeatEntry
  deriving DecidableEq, Repr

/-- The sender of a starter's message: its package and its epoch (R371). -/
structure Sender where
  peer : Nat
  epoch : DWord
  deriving DecidableEq, Repr

/-- A sprint grant record (R392). -/
structure Grant where
  gtime : DWord
  limit : DWord
  gseq : Word
  heatno : Word
  cmap : Word
  res28 : BitVec 224
  seq : Word
  crc : Word
  deriving DecidableEq, Repr

/-- A cohort directive of a launch (R125, R128): the index and the blocks of the cohort. -/
structure CohortSpec where
  index : Nat
  blocks : List Nat
  /-- HBM byte (channel and byte) of the member list where the cohort spans packages (R59). -/
  plist : Nat
  deriving DecidableEq, Repr

/-- An entry of the process-group table (R62). -/
structure RankSpec where
  peer : Nat
  /-- The buddy peer; none for 0xFFFF. -/
  buddy : Option Nat
  share : Nat
  deriving DecidableEq, Repr

/-- A binding of a region to a sync object (R27): scalar addresses and a length in granules. -/
structure BindSpec where
  obj : Word
  base : Word
  len : Nat
  deriving DecidableEq, Repr

/-- A field of a section that the loader relocates (R117, R127): section (0 `.scalar`, 1 `.lane`, 2 `.data`, 3 `.sdata`,
4 `.bdata`), first bit and width in it; whether the label lies in `.data` or else in `.sdata`, its offset there with what the
source adds, and the right shift that the source applies. -/
structure RelocSpec where
  sect : Nat
  bit : Nat
  width : Nat
  ofData : Bool
  off : Nat
  shift : Nat
  deriving DecidableEq, Repr

/-- The graph that the loader builds from a launch's `.node` directives (R125, R294): the fields of its header as R295
gives them, and its node and overflow records, each with its virtual address. -/
structure GraphSpec where
  ncnt : List Nat
  nbase : List Nat
  obase : Nat
  fq : Nat
  tbmem : Nat
  tspill : Nat
  records : List (Nat × List Byte)
  deriving DecidableEq, Repr

/-- What the loader takes from a launch record and its sections (R125, R126). -/
structure JobSpec where
  /-- The job id (R366). -/
  job : Nat
  blocks : Nat
  crews : Nat
  /-- Block memory of a block in KiB. -/
  bmem : Nat
  /-- Spill stack of a crew in KiB. -/
  spill : Nat
  /-- Scratchpad rows of a block. -/
  srows : Nat
  /-- Byte offset of the trap handler in .scalar, 0 for none. -/
  trap : Nat
  /-- Deterministic launch. -/
  det : Bool
  /-- Privileged launch (R209). -/
  priv : Bool
  /-- SPC of the entry, a byte offset. -/
  entrySpc : Nat
  /-- LPC of the entry, a lane-instruction index. -/
  entryLpc : Nat
  scalarBytes : List Byte
  laneBytes : List Byte
  /-- The HBM image, and the launch's data base, a virtual address (R125). -/
  data : List Byte
  dataAt : Nat
  sdata : List Byte
  bdata : List Byte
  relocs : List RelocSpec
  /-- The graph of the `.node` directives; none where the launch has none. -/
  graph : Option GraphSpec
  cohorts : List CohortSpec
  pgroup : List RankSpec
  binds : List BindSpec
  /-- TROOT of the job context (R398). -/
  troot : Nat
  /-- HBM addresses (physical) of the headers of the job's fault queues (R234), by fault queue number. -/
  faultQueues : List (Nat × Nat)
  /-- Virtual address at which the loader registered the launch record, for LAUNCH nodes (R298). -/
  recordAt : Option Nat
  /-- Ordering log enabled (R422). -/
  logging : Bool
  deriving DecidableEq, Repr

/-- A partition's quota on one core (R407). -/
structure QuotaSpec where
  /-- Core in the package, 64 × die + core. -/
  core : Nat
  /-- Crew slots, bit 6 × seat + slot. -/
  slots : BitVec 24
  /-- First block-memory byte and bytes. -/
  bmemLo : Nat
  bmemLen : Nat
  /-- First scratchpad row of the slice and rows. -/
  rowLo : Nat
  rows : Nat
  deriving DecidableEq, Repr

/-- What the host-die operating system writes to make a partition (R406). -/
structure PartSpec where
  sprint : Bool
  quotas : List QuotaSpec
  /-- HBM channel sets in ascending order (R409). -/
  sets : List Nat
  deriving DecidableEq, Repr

/-- One operation of the KX-960: every row of the opcode table. -/
inductive Instr where
  /-- NOP, R134: Scalar no-operation with no effect. -/
  | nop
  /-- NOP_HINT, R135: Asks the shared instruction cache to prefetch n lines of the scalar or lane stream; it has no architectural effect. -/
  | nopHint (k : BitVec 1) (n : BitVec 9)
  /-- BR, R134: Branches unconditionally to SPC plus four times the sign-extended offset. -/
  | br (o : BitVec 26)
  /-- BRC, R134: Branches when scalar predicate sp_N XOR COND holds, and continues at the next word otherwise. -/
  | brc (c : BitVec 4) (p : BitVec 4) (o : BitVec 18)
  /-- BSPL, R48: Waits for earlier lane work, then divides the active lanes by a lane predicate into a new split or a reconvergence-stack entry. -/
  | bspl (c : BitVec 4) (a : BitVec 4) (o : BitVec 18)
  /-- JOIN, R50: Waits at a meeting point until the other splits are at a JOIN, are waiting or have exited, then pops a stack entry or merges the splits. -/
  | join
  /-- CALL, R134: Writes SPC + 4 to s31 and branches to the offset target. -/
  | call (o : BitVec 26)
  /-- RET, R134: Sets SPC to the value of sA. -/
  | ret (a : RegNo)
  /-- YIELD, R139: Drains the store window and makes the split's ready cycle the current cycle, so that older ready splits issue first. -/
  | yield
  /-- YIELD_SEQ, R139: Drains the window, then waits until the queue's sequence value covers the ticket and acquires the entries up to it. -/
  | yieldSeq (a : RegNo) (q : BitVec 4)
  /-- YIELD_JN, R139: Drains the window, then waits until the crew's join count is zero and acquires its children's writes. -/
  | yieldJn
  /-- YIELD_TIME, R139: Drains the window, then waits until the time base reaches the absolute time held in a register pair. -/
  | yieldTime (a : RegNo)
  /-- EXIT, R138: Waits for the crew's lane work, drains the window, performs the deterministic flush point and ends the split, ending the crew when no split is left. -/
  | exit (a : RegNo)
  /-- TRAP, R137: Raises the precise software trap, with the 21-bit immediate in TRAPOPND. -/
  | trap (i : BitVec 21)
  /-- ERET, R208: Waits for the handler's lane work, restores mask, FMTR, LPC and repeat state, requeues or drops the held entries and resumes the crew at TRAPSPC. -/
  | eret
  /-- ADD, R141: Sets sD to sA + sB modulo 2^32. -/
  | add (d : RegNo) (a : RegNo) (b : RegNo)
  /-- SUB, R141: Sets sD to sA − sB modulo 2^32. -/
  | sub (d : RegNo) (a : RegNo) (b : RegNo)
  /-- MUL, R141: Sets sD to the low 32 bits of sA × sB. -/
  | mul (d : RegNo) (a : RegNo) (b : RegNo)
  /-- MULH, R141: Sets sD to the high 32 bits of the signed or unsigned 64-bit product. -/
  | mulh (d : RegNo) (a : RegNo) (b : RegNo) (u : BitVec 1)
  /-- DIV, R141: Sets sD to the signed or unsigned quotient rounded toward zero; division by zero gives all ones. -/
  | div (d : RegNo) (a : RegNo) (b : RegNo) (u : BitVec 1)
  /-- AND, R141: Sets sD to the bitwise AND of sA and sB. -/
  | andS (d : RegNo) (a : RegNo) (b : RegNo)
  /-- OR, R141: Sets sD to the bitwise OR of sA and sB. -/
  | orS (d : RegNo) (a : RegNo) (b : RegNo)
  /-- XOR, R141: Sets sD to the bitwise XOR of sA and sB. -/
  | xorS (d : RegNo) (a : RegNo) (b : RegNo)
  /-- SHL, R144: Shifts sA left by sB[4:0]. -/
  | shl (d : RegNo) (a : RegNo) (b : RegNo)
  /-- SHL_IMM, R144: Shifts sA left by an immediate amount. -/
  | shlImm (d : RegNo) (a : RegNo) (n : BitVec 5)
  /-- SHR, R144: Shifts sA right logically by sB[4:0]. -/
  | shr (d : RegNo) (a : RegNo) (b : RegNo)
  /-- SHR_IMM, R144: Shifts sA right logically by an immediate amount. -/
  | shrImm (d : RegNo) (a : RegNo) (n : BitVec 5)
  /-- SRA, R144: Shifts sA right arithmetically by sB[4:0]. -/
  | sra (d : RegNo) (a : RegNo) (b : RegNo)
  /-- SRA_IMM, R144: Shifts sA right arithmetically by an immediate amount. -/
  | sraImm (d : RegNo) (a : RegNo) (n : BitVec 5)
  /-- ROL, R144: Rotates sA left by sB[4:0]. -/
  | rol (d : RegNo) (a : RegNo) (b : RegNo)
  /-- ROL_IMM, R144: Rotates sA left by an immediate amount. -/
  | rolImm (d : RegNo) (a : RegNo) (n : BitVec 5)
  /-- ROR, R144: Rotates sA right by sB[4:0]. -/
  | ror (d : RegNo) (a : RegNo) (b : RegNo)
  /-- ROR_IMM, R144: Rotates sA right by an immediate amount. -/
  | rorImm (d : RegNo) (a : RegNo) (n : BitVec 5)
  /-- CMP, R143: Compares sA with sB, signed or unsigned, and writes the truth to sD and to scalar predicate sp_N. -/
  | cmp (d : RegNo) (a : RegNo) (b : RegNo) (n : BitVec 3) (u : BitVec 1) (c : BitVec 3)
  /-- SEL, R143: Sets sD to sA if sp_N holds, else to sB. -/
  | sel (d : RegNo) (a : RegNo) (b : RegNo) (n : BitVec 3)
  /-- ADDI, R142: Sets sD to sA plus the sign-extended 16-bit immediate. -/
  | addi (d : RegNo) (a : RegNo) (i : BitVec 16)
  /-- LI, R142: Sets sD to the sign-extended 21-bit immediate. -/
  | li (d : RegNo) (i : BitVec 21)
  /-- LUI, R142: Replaces the upper half of sD with a 16-bit immediate. -/
  | lui (d : RegNo) (i : BitVec 16)
  /-- BFX, R145: Extracts a bit field of sA, zero- or sign-extended. -/
  | bfx (d : RegNo) (a : RegNo) (b : RegNo) (s : BitVec 1)
  /-- BFI, R145: Inserts the low bits of sA into a field of sD. -/
  | bfi (d : RegNo) (a : RegNo) (b : RegNo)
  /-- CLZ, R145: Counts the leading zeros of sA. -/
  | clz (d : RegNo) (a : RegNo)
  /-- POPC, R145: Counts the set bits of sA. -/
  | popc (d : RegNo) (a : RegNo)
  /-- BREV, R145: Reverses the bit order of sA. -/
  | brev (d : RegNo) (a : RegNo)
  /-- FXCK, R153: Waits for the crew's lane work, then raises the flag-check trap if FSUM AND the mask is non-zero. -/
  | fxck (m : BitVec 6)
  /-- SLD, R146: Loads a scalar value of the width in the address, from the window or the array. -/
  | sld (d : RegNo) (a : RegNo) (i : BitVec 16)
  /-- SST, R146: Stores the low bytes of sD into the store window as an ordinary store. -/
  | sst (d : RegNo) (a : RegNo) (i : BitVec 16)
  /-- SATM, R147: Performs a scalar atomic at the array, or buffers it in a deterministic launch. -/
  | satm (d : RegNo) (a : RegNo) (b : RegNo) (s : BitVec 3) (w : BitVec 3) (o : BitVec 3)
  /-- LRUN, R148: Enqueues n lane instructions from the split's LPC into the lane queue, waiting for free entries. -/
  | lrun (a : RegNo) (n : BitVec 16)
  /-- LJMP, R149: Sets the split's LPC to a lane-instruction index. -/
  | ljmp (o : BitVec 26)
  /-- MOVM_READ, R150: Reads mask word m_b of the issuing split into sD. -/
  | movmRead (d : RegNo) (b : BitVec 2)
  /-- MOVM_WRITE, R150: Writes sA into mask word m_b, clearing non-member lanes. -/
  | movmWrite (a : RegNo) (b : BitVec 2)
  /-- MOVM_PRED, R150: Waits for lane work, then reads one beat of lane predicate p_N into sD. -/
  | movmPred (d : RegNo) (n : BitVec 4) (b : BitVec 2)
  /-- FMTS, R151: Reads FMTR into sD and writes a checked value from sA into it. -/
  | fmts (d : RegNo) (a : RegNo)
  /-- FMTS_READ, R151: Reads FMTR into sD without changing it. -/
  | fmtsRead (d : RegNo)
  /-- RDRD, R152: Waits for the reduction with the given sequence number and reads its ring entry into a register pair. -/
  | rdrd (d : RegNo) (a : RegNo)
  /-- BAR, R30: Performs a full release, waits for the cohort barrier in the named slot and then acquires. -/
  | bar (n : BitVec 2)
  /-- ACQ_X, R28: Drains the bound entries and waits to take a sync object exclusively. -/
  | acqX (a : RegNo)
  /-- ACQ_S, R28: Drains the bound entries and waits to take a sync object shared. -/
  | acqS (a : RegNo)
  /-- ACQ_W, R28: Waits until a sync object's release count reaches n, acquiring without ownership. -/
  | acqW (a : RegNo) (b : RegNo)
  /-- REL, R28: Gives up ownership of a sync object, drains its bound entries and increments COUNT. -/
  | rel (a : RegNo)
  /-- FENCE, R29: Waits for earlier lane work, drains the window and orders the crew's accesses at the named scope, waiting for remote acknowledgements at PKG or GANG scope. -/
  | fence (s : BitVec 3)
  /-- FENCE_FLUSH, R36: Acts as the deterministic flush point at BLOCK scope, applying the buffered atomics. -/
  | fenceFlush
  /-- QFNC, R31: Orders later entries of the named queues after every earlier entry of those queues. -/
  | qfnc (m : BitVec 7)
  /-- XFNC, R33: Waits for lane work and earlier scalar accesses and drains the window, so that later engine issues see the stores. -/
  | xfnc
  /-- WSEQ, R140: Waits until a queue's sequence value covers the ticket, then acquires, without draining the window. -/
  | wseq (a : RegNo) (q : BitVec 4)
  /-- CPY, R223: Builds a byte-copy chain entry in a copy queue and returns its ticket. -/
  | cpy (d : RegNo) (a : RegNo) (b : RegNo) (q : BitVec 4) (e : BitVec 3) (s : BitVec 3)
  /-- TCPY, R225: Issues a strided tensor copy described by a 256-byte descriptor into a copy queue. -/
  | tcpy (d : RegNo) (a : RegNo) (q : BitVec 4)
  /-- DCPY, R229: Issues an entropy-decoding copy described by a 256-byte descriptor into a copy queue. -/
  | dcpy (d : RegNo) (a : RegNo) (q : BitVec 4)
  /-- TTSK, R247: Waits for lane work, checks a tile-task record and issues it into mq, holding a pinned tile. -/
  | ttsk (d : RegNo) (a : RegNo)
  /-- CAINF, R279: Issues an ordered inference entry into the clause array queue aq. -/
  | cainf (d : RegNo) (a : RegNo)
  /-- CAINF_LIVE, R289: Issues an inference entry that reads the cells beside a running step through a second port. -/
  | cainfLive (d : RegNo) (a : RegNo)
  /-- CATRN, R280: Issues a training entry into aq. -/
  | catrn (d : RegNo) (a : RegNo)
  /-- CAMOV_LOAD, R281: Issues an aq entry that loads the selected parts of an array image into the clause array. -/
  | camovLoad (d : RegNo) (a : RegNo) (p : BitVec 3)
  /-- CAMOV_STORE, R281: Issues an aq entry that stores the selected parts of the clause array into an image. -/
  | camovStore (d : RegNo) (a : RegNo) (p : BitVec 3)
  /-- GLCH, R311: Reads a graph header, takes the lowest free handle and starts the graph load, or returns a refusal code. -/
  | glch (d : RegNo) (a : RegNo)
  /-- SPWN, R309: Checks a task record, waits for a GS slot and a bank entry, and enters a spawned child task, raising the join count. -/
  | spwn (d : RegNo) (a : RegNo)
  /-- JNWT, R310: Waits until the crew's join count is zero, acquires the children's writes and returns the number of cancelled children. -/
  | jnwt (d : RegNo)
  /-- GCTL_STATUS, R312: Returns the graph status word of a handle. -/
  | gctlStatus (d : RegNo) (a : RegNo)
  /-- GCTL_LEFT, R312: Returns the number of nodes of the graph that are neither DONE nor CANCELLED. -/
  | gctlLeft (d : RegNo) (a : RegNo)
  /-- GCTL_NODE, R312: Returns a node's live header, with its remaining count. -/
  | gctlNode (d : RegNo) (a : RegNo) (b : RegNo)
  /-- GCTL_FREE, R312: Returns the status word and frees the handle if the graph has ended. -/
  | gctlFree (d : RegNo) (a : RegNo)
  /-- GCTL_WAIT, R312: Waits until the graph has ended, then returns the status word and acquires the writes of every node that became DONE. -/
  | gctlWait (d : RegNo) (a : RegNo)
  /-- XMEM_LD, R356: Sends a remote read and waits for its response, trapping on a poisoned response. -/
  | xmemLd (d : RegNo) (a : RegNo) (w : BitVec 3)
  /-- XMEM_ST, R356: Sends a remote write and waits for its acknowledgement. -/
  | xmemSt (a : RegNo) (b : RegNo) (w : BitVec 3)
  /-- XATM, R357: Sends a remote atomic at PKG or GANG scope and waits for the old value. -/
  | xatm (d : RegNo) (a : RegNo) (b : RegNo) (s : BitVec 3) (w : BitVec 3) (o : BitVec 3)
  /-- XPUT, R358: Issues a replicated put to up to 64 targets into xq. -/
  | xput (d : RegNo) (a : RegNo)
  /-- COLL, R360: Issues a cohort collective of the selected kind into xq. -/
  | coll (d : RegNo) (a : RegNo) (n : BitVec 2) (k : BitVec 3)
  /-- LNK_STAT, R344: Returns a fibre group's status word. -/
  | lnkStat (d : RegNo) (a : RegNo)
  /-- LNK_SQ, R344: Places the partition's hold on a fibre group, which squares it. -/
  | lnkSq (d : RegNo) (a : RegNo)
  /-- LNK_RLS, R344: Ends the partition's hold on a fibre group. -/
  | lnkRls (d : RegNo) (a : RegNo)
  /-- LNK_SLOT, R344: Returns the light start of the first slot linking to a peer at least sB ns ahead. -/
  | lnkSlot (d : RegNo) (a : RegNo) (b : RegNo)
  /-- LNK_WAIT, R344: Returns the light start as LNK slot does and waits until it. -/
  | lnkWait (d : RegNo) (a : RegNo) (b : RegNo)
  /-- HEAT, R375: Returns the crew's heat number, its entry's START or end, or the starter, TSUSP and sprint bit. -/
  | heat (d : RegNo) (s : BitVec 3)
  /-- HEAT_CKPT, R376: Waits for lane work and remote acknowledgements, joins the job's gather and marks checkpoint step sA when every live crew has arrived. -/
  | heatCkpt (d : RegNo) (a : RegNo)
  /-- CSR_RD, R155: Reads a control and status register into sD. -/
  | csrRd (d : RegNo) (n : BitVec 12)
  /-- CSR_WR, R155: Returns the old value of a CSR and writes sA into it, for registers without behaviour of their own. -/
  | csrWr (d : RegNo) (a : RegNo) (n : BitVec 12)
  /-- FSUM_READ, R155: A CSR read of FSUM waits for the crew's lane work before returning the flag summary. -/
  | fsumRead (d : RegNo)
  /-- FSUM_WRITE, R155: A CSR write of FSUM waits for the crew's lane work, then replaces FSUM and leaves the lane flag words. -/
  | fsumWrite (d a : RegNo)
  /-- SPP_WRITE, R155: A CSR write of SPP sets the spill pointer, or raises the illegal-CSR trap if it is misaligned or outside the spill stack. -/
  | sppWrite (d a : RegNo)
  /-- ASYNCF_WRITE, R155: A write-one-to-clear CSR write clears the selected async-fault bits. -/
  | asyncfWrite (d a : RegNo)
  /-- TRAPSPC_WRITE, R207: A handler's write of TRAPSPC sets the scalar resume point, or traps if the value is not a word address in .scalar. -/
  | trapspcWrite (d a : RegNo)
  /-- TRAPLPC_WRITE, R207: A handler's write of TRAPLPC sets the lane resume point, or traps if the value is not an instruction in .lane. -/
  | traplpcWrite (d a : RegNo)
  /-- QTAIL_WRITE, R220: A write of QTAILn waits as XFNC does, checks the value and issues the chain entries up to the new issue count. -/
  | qtailWrite (n : BitVec 2) (d a : RegNo)
  /-- BNDCMD_BIND, R156: A BNDCMD write of command 1 drains the window and binds the region at BNDBASE to the object at BNDOBJ, or sets the error bit. -/
  | bndcmdBind (d a : RegNo)
  /-- BNDCMD_UNBIND, R156: A BNDCMD write of command 2 drains the window and removes a binding, or sets the error bit. -/
  | bndcmdUnbind (d a : RegNo)
  /-- LNOP, R158: Lane no-operation that occupies the seat for 3 cycles and advances the logical clock. -/
  | lnop (f : LaneFields)
  /-- REP, R110: Prefix that repeats the split's next lane instruction up to 64 times, stepping the named register fields. -/
  | rep (f : LaneFields)
  /-- IADD, R163: Integer add, wrapping or saturating. -/
  | iadd (f : LaneFields)
  /-- ISUB, R163: Integer subtract, wrapping or saturating. -/
  | isub (f : LaneFields)
  /-- IMUL, R163: Low w bits of the integer product. -/
  | imul (f : LaneFields)
  /-- IMULH, R163: High w bits of the integer product. -/
  | imulh (f : LaneFields)
  /-- IMAD, R163: Integer multiply-add. -/
  | imad (f : LaneFields)
  /-- IDIV, R163: Integer divide rounded toward zero. -/
  | idiv (f : LaneFields)
  /-- IMIN, R163: Integer minimum. -/
  | imin (f : LaneFields)
  /-- IMAX, R163: Integer maximum. -/
  | imax (f : LaneFields)
  /-- IABS, R163: Integer absolute value. -/
  | iabs (f : LaneFields)
  /-- AND_LANE, R163: Lane bitwise AND. -/
  | andLane (f : LaneFields)
  /-- OR_LANE, R163: Lane bitwise OR. -/
  | orLane (f : LaneFields)
  /-- XOR_LANE, R163: Lane bitwise XOR. -/
  | xorLane (f : LaneFields)
  /-- LOP3, R163: Three-input bitwise function given by an 8-bit table. -/
  | lop3 (f : LaneFields)
  /-- SHL_LANE, R163: Lane shift left by b mod w. -/
  | shlLane (f : LaneFields)
  /-- SHR_LANE, R163: Lane logical shift right. -/
  | shrLane (f : LaneFields)
  /-- SRA_LANE, R163: Lane arithmetic shift right. -/
  | sraLane (f : LaneFields)
  /-- ROT, R163: Lane rotate left within w bits. -/
  | rot (f : LaneFields)
  /-- POPC_LANE, R163: Lane population count. -/
  | popcLane (f : LaneFields)
  /-- CLZ_LANE, R163: Lane count of leading zeros. -/
  | clzLane (f : LaneFields)
  /-- BFX_LANE, R164: Lane bit-field extract. -/
  | bfxLane (f : LaneFields)
  /-- BFI_LANE, R164: Lane bit-field insert. -/
  | bfiLane (f : LaneFields)
  /-- ICMP, R165: Integer compare writing 0 or 1 and a lane predicate. -/
  | icmp (f : LaneFields)
  /-- ISAD, R163: Absolute difference plus accumulate. -/
  | isad (f : LaneFields)
  /-- MULW, R163: Full 2w-bit integer product. -/
  | mulw (f : LaneFields)
  /-- ADDC, R163: Add with carry-in and carry-out to a predicate. -/
  | addc (f : LaneFields)
  /-- MOV, R166: Copies a 64-bit value. -/
  | mov (f : LaneFields)
  /-- MOVI, R166: Combines an immediate high word with a low word. -/
  | movi (f : LaneFields)
  /-- SEL_LANE, R166: Selects one of two sources by a lane predicate. -/
  | selLane (f : LaneFields)
  /-- LSPC, R166: Returns the lane's rank, the executing count, the lowest executing lane or the mask word. -/
  | lspc (f : LaneFields)
  /-- LDC, R166: Reads inline constant k_j selected per lane. -/
  | ldc (f : LaneFields)
  /-- PMOV, R166: Reads the lane predicates into a register and optionally writes them. -/
  | pmov (f : LaneFields)
  /-- PRMT, R166: Permutes bytes of two sources by an immediate selector. -/
  | prmt (f : LaneFields)
  /-- SHFL, R167: Reads source a from another member lane by index, up, down or xor. -/
  | shfl (f : LaneFields)
  /-- BCST, R168: Broadcasts one lane's value to the executing lanes. -/
  | bcst (f : LaneFields)
  /-- LROT, R168: Rotates values across the 96 lanes. -/
  | lrot (f : LaneFields)
  /-- VOTE, R169: Computes any, all or a ballot word of a predicate over the executing lanes. -/
  | vote (f : LaneFields)
  /-- PLOP, R170: Computes a predicate from three predicates by a table. -/
  | plop (f : LaneFields)
  /-- FADD, R171: Floating add, rounded once. -/
  | fadd (f : LaneFields)
  /-- FSUB, R171: Floating subtract, rounded once. -/
  | fsub (f : LaneFields)
  /-- FMUL, R171: Floating multiply, rounded once. -/
  | fmul (f : LaneFields)
  /-- FFMA, R171: Fused multiply-add, rounded once. -/
  | ffma (f : LaneFields)
  /-- FMIN, R171: IEEE minimumNumber. -/
  | fmin (f : LaneFields)
  /-- FMAX, R171: IEEE maximumNumber. -/
  | fmax (f : LaneFields)
  /-- FCMP, R172: Floating compare writing 0 or 1 and a predicate. -/
  | fcmp (f : LaneFields)
  /-- FCLS, R172: Classifies a floating value into one class bit. -/
  | fcls (f : LaneFields)
  /-- FRND, R173: Rounds to an integral value of the format. -/
  | frnd (f : LaneFields)
  /-- FSCL, R171: Scales a value by a power of two. -/
  | fscl (f : LaneFields)
  /-- FGEX, R173: Returns the binary exponent as a value of the format. -/
  | fgex (f : LaneFields)
  /-- FREM, R173: Exact IEEE remainder. -/
  | frem (f : LaneFields)
  /-- FNXT, R171: Next value after a toward b. -/
  | fnxt (f : LaneFields)
  /-- FADD3, R171: Three-operand add, rounded once. -/
  | fadd3 (f : LaneFields)
  /-- FSPL, R174: Exact rounding error of an addition. -/
  | fspl (f : LaneFields)
  /-- FCPS, R174: Exact rounding error of a product. -/
  | fcps (f : LaneFields)
  /-- FDIV, R175: Correctly rounded division, a long-latency producer. -/
  | fdiv (f : LaneFields)
  /-- FSQRT, R175: Correctly rounded square root. -/
  | fsqrt (f : LaneFields)
  /-- FRSQ, R176: Correctly rounded reciprocal square root. -/
  | frsq (f : LaneFields)
  /-- FRCP, R175: Correctly rounded reciprocal. -/
  | frcp (f : LaneFields)
  /-- FEXP, R175: Correctly rounded e^a. -/
  | fexp (f : LaneFields)
  /-- FEXP2, R175: Correctly rounded 2^a. -/
  | fexp2 (f : LaneFields)
  /-- FLOG, R175: Correctly rounded natural logarithm. -/
  | flog (f : LaneFields)
  /-- FLOG2, R175: Correctly rounded base-2 logarithm. -/
  | flog2 (f : LaneFields)
  /-- FSIN, R175: Correctly rounded sine. -/
  | fsin (f : LaneFields)
  /-- FCOS, R175: Correctly rounded cosine. -/
  | fcos (f : LaneFields)
  /-- FTANH, R175: Correctly rounded hyperbolic tangent. -/
  | ftanh (f : LaneFields)
  /-- FSIGM, R175: Correctly rounded logistic sigmoid. -/
  | fsigm (f : LaneFields)
  /-- FERF, R175: Correctly rounded error function. -/
  | ferf (f : LaneFields)
  /-- FPOW, R175: Correctly rounded power a^b. -/
  | fpow (f : LaneFields)
  /-- FATAN, R175: Correctly rounded atan or atan2. -/
  | fatan (f : LaneFields)
  /-- FHYP, R175: Correctly rounded hypotenuse. -/
  | fhyp (f : LaneFields)
  /-- DOT2, R177: Two-element dot product with accumulate, formats from FMTR. -/
  | dot2 (f : LaneFields)
  /-- DOT4, R177: Four-element dot product with accumulate. -/
  | dot4 (f : LaneFields)
  /-- DOT8, R177: Eight-element dot product with accumulate. -/
  | dot8 (f : LaneFields)
  /-- FDOT2, R178: Two-element dot product into F32. -/
  | fdot2 (f : LaneFields)
  /-- HADD2, R179: Packed add of two half-width elements. -/
  | hadd2 (f : LaneFields)
  /-- HMUL2, R179: Packed multiply of two half-width elements. -/
  | hmul2 (f : LaneFields)
  /-- HFMA2, R179: Packed fused multiply-add. -/
  | hfma2 (f : LaneFields)
  /-- HMNX2, R179: Packed minimum and maximum. -/
  | hmnx2 (f : LaneFields)
  /-- CVTF, R180: Converts between floating formats. -/
  | cvtf (f : LaneFields)
  /-- CVFI, R180: Converts floating to integer. -/
  | cvfi (f : LaneFields)
  /-- CVIF, R180: Converts integer to floating. -/
  | cvif (f : LaneFields)
  /-- CVII, R180: Converts between integer types, wrapping or saturating. -/
  | cvii (f : LaneFields)
  /-- CVTS, R180: Scales and converts, rounding once. -/
  | cvts (f : LaneFields)
  /-- PACK, R181: Converts two values and packs them into a register slot. -/
  | pack (f : LaneFields)
  /-- UNPK, R181: Unpacks one narrow element. -/
  | unpk (f : LaneFields)
  /-- TDEC, R182: Decodes a tapered word to F32. -/
  | tdec (f : LaneFields)
  /-- TENC, R182: Encodes F32 into a tapered word. -/
  | tenc (f : LaneFields)
  /-- QNT, R183: Quantises lanes into a block format with a derived scale. -/
  | qnt (f : LaneFields)
  /-- DQNT, R184: Dequantises a block-format element to F32. -/
  | dqnt (f : LaneFields)
  /-- LRND, R186: Draws from or reseeds the lane random stream. -/
  | lrnd (f : LaneFields)
  /-- RADD, R187: Tree reduction sum over the executing lanes into the ring. -/
  | radd (f : LaneFields)
  /-- RMIN, R187: Tree reduction minimum. -/
  | rmin (f : LaneFields)
  /-- RMAX, R187: Tree reduction maximum. -/
  | rmax (f : LaneFields)
  /-- RAND, R187: Bitwise AND reduction. -/
  | rand (f : LaneFields)
  /-- RIOR, R187: Bitwise OR reduction. -/
  | rior (f : LaneFields)
  /-- RXOR, R187: Bitwise XOR reduction. -/
  | rxor (f : LaneFields)
  /-- RCNT, R187: Counts the executing lanes with a non-zero value. -/
  | rcnt (f : LaneFields)
  /-- RARG, R187: Returns the lowest lane holding the least or greatest value. -/
  | rarg (f : LaneFields)
  /-- SCAN, R188: Sequential inclusive or exclusive prefix scan. -/
  | scan (f : LaneFields)
  /-- CMPX, R189: Compare-exchange step of a sorting network. -/
  | cmpx (f : LaneFields)
  /-- LDB, R191: Lane load from block memory, long-latency. -/
  | ldb (f : LaneFields)
  /-- STB, R191: Lane store to block memory into the window. -/
  | stb (f : LaneFields)
  /-- LDS, R191: Lane load from own-die scratchpad, long-latency. -/
  | lds (f : LaneFields)
  /-- STS, R191: Lane store to own-die scratchpad into the window. -/
  | sts (f : LaneFields)
  /-- LDSR, R193: Row-form scratchpad load, one element per lane. -/
  | ldsr (f : LaneFields)
  /-- STSR, R193: Row-form scratchpad store. -/
  | stsr (f : LaneFields)
  /-- LDSB, R193: One scratchpad read broadcast to every executing lane. -/
  | ldsb (f : LaneFields)
  /-- PUSHV, R194: Pushes a register frame onto the spill stack, keeping poison in tags. -/
  | pushv (f : LaneFields)
  /-- POPV, R194: Pops a register frame from the spill stack. -/
  | popv (f : LaneFields)
  /-- ATB, R195: Lane atomic on block memory. -/
  | atb (f : LaneFields)
  /-- CASB, R195: Lane compare-and-swap on block memory. -/
  | casb (f : LaneFields)
  /-- ATS, R195: Lane atomic on scratchpad. -/
  | ats (f : LaneFields)
  /-- CASS, R195: Lane compare-and-swap on scratchpad. -/
  | cass (f : LaneFields)
  /-- ATF, R196: Lane floating atomic add, min or max on scratchpad. -/
  | atf (f : LaneFields)
  /-- FLRD, R197: Waits for lane work and reads the lane flag word. -/
  | flrd (f : LaneFields)
  /-- FLCL, R197: Clears selected flags in the lane flag words and FSUM. -/
  | flcl (f : LaneFields)
  /-- FLST, R197: Sets the lane flag words and ORs them into FSUM. -/
  | flst (f : LaneFields)
  /-- HASH, R198: Mixes two values with mix32. -/
  | hash (f : LaneFields)
  /-- CRC, R198: Advances a CRC-32C register over the bytes of b. -/
  | crc (f : LaneFields)
  /-- LSAV, R199: Privileged save of one register's complete state to block memory. -/
  | lsav (f : LaneFields)
  /-- LRST, R199: Privileged restore of one register's complete state. -/
  | lrst (f : LaneFields)
  /-- POIS, R200: Privileged write of poisoned zero. -/
  | pois (f : LaneFields)
  /-- LBRK, R200: Privileged breakpoint trap. -/
  | lbrk (f : LaneFields)
  /-- LDA, R261: Loads a pinned accumulator tile element, waiting while the tile is held. -/
  | lda (f : LaneFields)
  /-- LDA_STATUS, R261: Loads a pinned tile's status word. -/
  | ldaStatus (f : LaneFields)
  /-- STA, R261: Stores accumulator tile elements. -/
  | sta (f : LaneFields)
  /-- STA_STATUS, R261: Writes a pinned tile's status word. -/
  | staStatus (f : LaneFields)
  /-- SCLW, R256: Pushes block or tensor scales into the core's scale FIFO, optionally closing a batch. -/
  | sclw (f : LaneFields)
  /-- IDXW, R253: Writes lane values into an index slot. -/
  | idxw (f : LaneFields)
  /-- LITP, R285: Reads 64 include bits of a clause at a boundary. -/
  | litp (f : LaneFields)
  /-- CAVR, R285: Reads CAC, SEED and STEP, or the feedback table. -/
  | cavr (f : LaneFields)
  /-- CACL, R285: Reads eight cell counters. -/
  | cacl (f : LaneFields)
  /-- CAWD, R285: Writes eight cell counters. -/
  | cawd (f : LaneFields)
  /-- LONG_LATENCY_ARRIVAL, R107: A long-latency producer's value arrives in a lane and marks its destination full. -/
  | longLatencyArrival (slot lane : Nat)
  /-- LANE_TRAP, R203: A lane-stream trap completes the entries ahead, holds the later ones, stops the scalar streams, drains the window and enters the handler or ends the crew. -/
  | laneTrap (t : TrapInfo)
  /-- SCALAR_TRAP, R204: A scalar-stream trap completes the begun lane entries, holds the rest, stops the splits and drains the window before entering the handler or ending the crew. -/
  | scalarTrap (t : TrapInfo)
  /-- CREW_TERMINATION, R210: A trap with no handler or inside the handler discards the held entries, completes begun work, forms the exit status, frees the slot and posts a termination record. -/
  | crewTermination (status : Word)
  /-- REGISTER_ECC_ERROR, R213: An uncorrectable SECDED error on a register lane read poisons that lane. -/
  | registerEccError (slot row lane : Nat)
  /-- MEMORY_ECC_ERROR, R213: An uncorrectable error in block memory or scratchpad poisons its granule. -/
  | memoryEccError (spad : Bool) (granule : Nat)
  /-- BLOCK_PLACEMENT, R56: The launch logic places a block once its crews, block memory and rows fit, clears the slots and starts the crews. -/
  | blockPlacement (core : Nat)
  /-- COPY_ENTRY_START, R219: A copy entry starts in its turn, reads and checks its chain entry and descriptor, and moves data. -/
  | copyEntryStart (part core q : Nat)
  /-- COPY_ENTRY_COMPLETE, R219: A copy entry's writes are performed, its release object is released, STAT becomes complete and S advances. -/
  | copyEntryComplete (part core q : Nat)
  /-- COPY_ENTRY_RESUME, R233: The host-die operating system resumes a faulted copy entry from PROG. -/
  | copyEntryResume (part core q : Nat)
  /-- COPY_ENTRY_RETIRE, R233: The host-die operating system retires a faulted copy entry, advancing S and setting the issuer's ASYNCF bit. -/
  | copyEntryRetire (part core q : Nat)
  /-- MTS_TASK_START, R248: The matrix task scheduler starts a tile task on an engine once its order, fences, wait objects and engine allow, preparing the tile. -/
  | mtsTaskStart (part core q : Nat)
  /-- TILE_K_STEP, R258: A tile task waits for its panel, computes one K-step exactly, updates status and releases the ring's EMPTY object. -/
  | tileKStep (core : Nat) (mismatch : Bool)
  /-- TILE_TASK_COMPLETE, R251: A tile task drains, writes its completion word, releases its signal object, ends its hold and advances S. -/
  | tileTaskComplete (core : Nat)
  /-- TILE_TASK_RESUME, R264: The host-die operating system resumes a faulted tile task at step PROG. -/
  | tileTaskResume (part core q : Nat) (ticket : Word)
  /-- TILE_TASK_RETIRE, R264: The host-die operating system retires a faulted tile task, writing its completion word without drain. -/
  | tileTaskRetire (part core q : Nat) (ticket : Word)
  /-- CLAUSE_ENTRY_START, R278: An aq entry starts and checks its record and configuration. -/
  | clauseEntryStart (core : Nat)
  /-- TRAINING_STEP, R274: The array processes one training sample and updates counters by the feedback table. -/
  | trainingStep (core : Nat)
  /-- INFERENCE_SAMPLE, R279: The array evaluates one sample and writes its vote row and bitmap. -/
  | inferenceSample (core k : Nat)
  /-- CAMOV_OPERATION, R281: The array loads or stores the selected image parts as one operation. -/
  | camovOperation (core : Nat)
  /-- CLAUSE_ENTRY_COMPLETE, R276: An aq entry's outputs are written, its release object is released and S advances. -/
  | clauseEntryComplete (core : Nat)
  /-- CLAUSE_ENTRY_RETIRE, R283: The host-die operating system retires a faulted array entry. -/
  | clauseEntryRetire (core : Nat)
  /-- CLAUSE_GRANULE_ACCESS, R288: A copy granule of space 6 is performed at the first array boundary after its arrival. -/
  | clauseGranuleAccess (core : Nat)
  /-- CELL_SOFT_ERROR, R292: A SECDED error in the cells is corrected or poisons its clause row. -/
  | cellSoftError (core word : Nat) (correctable : Bool) (left : DWord)
  /-- GRAPH_LOAD_COMPLETE, R299: Every die has loaded its node table, so nodes with no remaining count become READY, or the load fails. -/
  | graphLoadComplete (part handle : Nat)
  /-- TOKEN, R300: A completion token sets a node's arrived bit and may make it READY. -/
  | token (die : Nat)
  /-- NODE_DONE, R301: A node whose crews or entry have finished releases LINK, becomes DONE and sends its tokens. -/
  | nodeDone (part handle node : Nat)
  /-- NODE_ENTER_BANK, R303: A READY node enters its TQU bank once an entry is free. -/
  | nodeEnterBank (part handle node : Nat)
  /-- PREFETCH_FILL, R304: The TQU fills a core's prefetch buffer with the chosen eligible task. -/
  | prefetchFill (core : Nat)
  /-- TQU_AGING, R305: An entry that has waited 8,192 cycles moves up one priority class. -/
  | tquAging (die part index : Nat)
  /-- ENGINE_NODE_ISSUE, R308: The GS issues a ready engine node into its graph queue once it has room. -/
  | engineNodeIssue (part handle node : Nat)
  /-- GRAPH_END, R327: A graph with no live work ends as DONE or PARTIAL, writes back headers, frees slots and releases DONEOBJ. -/
  | graphEnd (part handle : Nat)
  /-- NODE_FAULT, R314: A node becomes FAULTED, stops its own work and opens its cone, or the fault is absorbed. -/
  | nodeFault (part handle node : Nat) (cause : BitVec 8) (ticket : Word)
  /-- CONE_VISIT, R317: The cancel walk visits one cone member and cancels or stops it. -/
  | coneVisit (part handle head : Nat)
  /-- CREW_STOP, R318: A cone member's crew is stopped at an instruction boundary and ends with class 0x05. -/
  | crewStop (slot head : Nat)
  /-- CONE_RESOLVE, R321: A quiet oldest pending cone is retried or abandoned by the head's budget. -/
  | coneResolve (part handle : Nat)
  /-- HEAD_RELEASE, R321: The host-die operating system releases a head that faulted on translation or link, letting it become READY. -/
  | headRelease (part handle node : Nat)
  /-- ROTOR_SLOT_START, R330: A rotor slot begins with dark time and the next matching. -/
  | rotorSlotStart
  /-- LINK_CONTROL, R334: Link-control beats received in setup fix the link width and credits. -/
  | linkControl (fibre width : Nat) (space : List Nat) (ack : Word)
  /-- IDLE_LINK_CONTROL, R334: An idle link end sends a link-control beat every 64 beat times. -/
  | idleLinkControl (fibre : Nat)
  /-- FLIT_EGRESS, R338: A flit entering egress is routed directly or through a relay peer. -/
  | flitEgress
  /-- FLIT_SEND, R337: A port sends the flit of the highest-priority VC with credit at a flit boundary. -/
  | flitSend (fibre : Nat)
  /-- VC_STARVATION, R337: A VC ready for 64 flit times without sending sends one flit next. -/
  | vcStarvation (fibre vc : Nat)
  /-- FLIT_RECEIVE, R332: A received flit is checked, acknowledged, deduplicated, relayed or delivered. -/
  | flitReceive (fibre : Nat) (x : Flit)
  /-- LIGHT_END, R335: At the end of light, unacknowledged flits stay queued and are routed again. -/
  | lightEnd
  /-- SQUARE_START, R342: A fibre group starts lighting its parked wavelengths when depth reaches WTHR or a hold is placed. -/
  | squareStart (group : Nat)
  /-- WIDTH_HANDSHAKE, R342: A 100 ns width handshake with the partner runs during light. -/
  | widthHandshake (group : Nat)
  /-- SQUARE_COMPLETE, R342: LIT becomes 8 at the first flit boundary after the handshake. -/
  | squareComplete (group : Nat)
  /-- FEATHER_START, R341: A group idle for FHOLD with no hold starts feathering to FMIN. -/
  | featherStart (group : Nat)
  /-- FEATHER_PARK, R341: The group narrows to FMIN at a flit boundary and parks its other lasers. -/
  | featherPark (group : Nat)
  /-- READ_REQUEST, R348: A target checks a remote read and answers with data or a poisoned response. -/
  | readRequest (p : Packet)
  /-- WRITE_REQUEST, R349: A target checks and performs a remote write and acknowledges it. -/
  | writeRequest (p : Packet)
  /-- ATOMIC_REQUEST, R354: A target performs a remote atomic once, caching its response by REQID. -/
  | atomicRequest (p : Packet)
  /-- XPUT_DATA, R359: A target performs XPUT data, releases the signal object if asked and acknowledges. -/
  | xputData (p : Packet)
  /-- COLLECTIVE_DATA, R361: A participant receives collective data and acknowledges it. -/
  | collectiveData (p : Packet)
  /-- FORWARDED_REQUEST, R351: A new peer performs a request forwarded from a moved window and answers the requester. -/
  | forwardedRequest (p : Packet)
  /-- PROBE, R353: A target answers a probe with a progress report or the cached atomic response. -/
  | probe (p : Packet)
  /-- READ_RESPONSE, R356: A requester receives read data for its request. -/
  | readResponse (p : Packet)
  /-- WRITE_ACK, R356: A requester receives a write acknowledgement. -/
  | writeAck (p : Packet)
  /-- ATOMIC_RESPONSE, R357: A requester receives an atomic's old value. -/
  | atomicResponse (p : Packet)
  /-- XPUT_ACK, R359: An XPUT target's acknowledgement sets its PROG bit. -/
  | xputAck (p : Packet)
  /-- COLLECTIVE_ACK, R362: A participant receives acknowledgement of collective data it sent. -/
  | collectiveAck (p : Packet)
  /-- BUSY, R352: A busy answer restarts the request timer and schedules a resend. -/
  | busy (p : Packet)
  /-- BUSY_RETRY, R352: The backoff after busy expires and the request is sent again with a new SENDT. -/
  | busyRetry (reqid : DWord)
  /-- PROGRESS_REPORT, R389: A progress report restarts the timer, or stops it for a held request. -/
  | progressReport (p : Packet)
  /-- POISONED_RESPONSE, R348: A poisoned response ends the request with its remote DETAIL. -/
  | poisonedResponse (p : Packet)
  /-- REQUEST_PROBE_TIMER, R353: A request timer reaching 200 µs sends a probe. -/
  | requestProbeTimer (reqid : DWord)
  /-- REQUEST_TIMEOUT, R353: A request timer reaching 400 µs drops the request with a timeout-poisoned response. -/
  | requestTimeout (reqid : DWord)
  /-- HELD_REQUEST_PERFORM, R388: When a heat runs again, its held requests are performed in arrival order. -/
  | heldRequestPerform
  /-- XQ_ENTRY_START, R359: An xq entry starts, reads its descriptor and sends its XPUT or collective packets. -/
  | xqEntryStart (part core : Nat)
  /-- XQ_ENTRY_COMPLETE, R362: An xq entry completes when acknowledged, releases RELOBJ and advances S. -/
  | xqEntryComplete (part core : Nat)
  /-- XQ_ENTRY_RESUME, R359: The host-die operating system resumes a faulted xq entry, sending only to unacknowledged targets. -/
  | xqEntryResume (part core : Nat)
  /-- XQ_ENTRY_RETIRE, R359: The host-die operating system retires a faulted xq entry, posting kind 0x0F. -/
  | xqEntryRetire (part core : Nat)
  /-- PTP_MESSAGE, R363: An IEEE 1588 message with its port timestamp, in 2^-16 ns, is taken by the time servo. -/
  | ptpMessage (fibre : Nat) (x : Flit) (stamp : Nat)
  /-- TIME_SERVO_CORRECTION, R364: The servo corrects the time base and sets or clears TSUSP: the offset it has estimated in
  2^-16 ns, the correction in ns and 2^-16 ns. -/
  | timeServoCorrection (offset step : Int) (fraction : BitVec 16)
  /-- HEAT_SHEET_PUBLISH, R365: The starter publishes a heat sheet entry to every member's window 255. -/
  | heatSheetPublish (e : HeatEntry)
  /-- HEAT_SHEET_ENTRY, R367: A member checks an arriving entry and answers ACK or NAK, or drops it. -/
  | heatSheetEntry (e : SentEntry)
  /-- ACK, R372: The starter records a member's ACK and sends COMMIT once all have arrived before DEADLINE. -/
  | ack (peer : Nat) (heat seq : Word)
  /-- NAK, R372: The starter records a NAK, so no COMMIT is sent for that SEQ. -/
  | nak (peer : Nat) (heat seq : Word) (reason : Nat)
  /-- COMMIT, R372: A member records COMMIT for an entry before its START. -/
  | commit (sender : Sender) (heat seq : Word)
  /-- HEAT_START, R368: At START, mapped cores catch the named partitions and run, restore, start fresh or idle. -/
  | heatStart (seq : Word)
  /-- HEARTBEAT_SEND, R371: The starter sends heartbeats every 100 µs. -/
  | heartbeatSend
  /-- HEARTBEAT, R371: A heartbeat is received and answered. -/
  | heartbeat (peer : Nat) (epoch : DWord) (fromStarter : Bool)
  /-- HEARTBEAT_LOSS, R371: 300 µs without a starter heartbeat raises the epoch and sends candidacy. -/
  | heartbeatLoss
  /-- CANDIDACY, R371: A package adopts a higher epoch and answers with its own candidacy. -/
  | candidacy (epoch : DWord) (priority peer : Nat)
  /-- ELECTION_TIMER, R371: 25.6 µs after its first candidacy a package takes the least candidate as starter. -/
  | electionTimer
  /-- ELECTION_RESULT, R371: A package accepts the new starter. -/
  | electionResult (epoch : DWord) (priority peer : Nat)
  /-- MEMBER_FAILURE_REPORT, R373: The starter publishes an abort entry for the heat within 200 µs of the first report. -/
  | memberFailureReport (heat : Word) (failed : Nat) (detail : Nat)
  /-- ENTRY_REQUEST, R370: The starter publishes entries again from a given SEQ. -/
  | entryRequest (peer : Nat) (seq : Word)
  /-- ABORT, R374: At an abort START, the members catch, end and discard every part of the job. -/
  | abort (seq : Word)
  /-- CATCH, R377: A core stops the job at an instruction boundary, completing begun work, draining windows and stopping engines. -/
  | catchCore (core part : Nat)
  /-- DEADLINE_RESET, R380: A catch not complete after 3,000 cycles resets the job's crews on the core with class 0x03. -/
  | deadlineReset (core part : Nat)
  /-- SAVE, R382: The outgoing job's state is written to its save areas. -/
  | save (core part : Nat)
  /-- DRAIN_AND_TAG, R386: After the remote wait, outstanding requests are parked or given up and the heats change. -/
  | drainAndTag (core part : Nat)
  /-- PARKED_RESPONSE, R386: A response to a parked request is written into its record. -/
  | parkedResponse (p : Packet)
  /-- SWITCH_RESTORE, R384: A RESUME switch-in restores the parts marked VALID, or idles on a JOB mismatch. -/
  | switchRestore (core part : Nat) (seq : Word)
  /-- FRESH_START, R384: A fresh start zeroes the job's memory and queues and loads the .sdata image. -/
  | freshStart (part : Nat) (j : JobSpec) (more : List JobSpec)
  /-- SWITCH_START, R390: Crews are placed, abandoned words issued again and engines restarted. -/
  | switchStart (core part : Nat)
  /-- SPRINT_GRANT_RECORD, R393: A member checks an arriving grant record and refuses or accepts it. -/
  | sprintGrantRecord (g : Grant)
  /-- SPRINT_GRANT, R394: At G a member catches the claimed cores and stops their tasks. -/
  | sprintGrant (core : Nat)
  /-- ACCUMULATOR_DRAIN, R394: The claimed core's accumulators are saved and zeroed and the pinned tiles go to the sprint partition. -/
  | accumulatorDrain (core : Nat)
  /-- SPRINT_START, R394: Sprint crews are placed in the reserve slots. -/
  | sprintStart (core : Nat)
  /-- SPRINT_LIMIT, R396: At G + LIMIT the remaining sprint crews end with class 0x03. -/
  | sprintLimit
  /-- SPRINT_END, R396: The claimed core reloads the accumulators, restarts copies and resumes the running job. -/
  | sprintEnd (core : Nat)
  /-- SPRINT_REQUEST, R392: The starter writes a grant record on a member's privileged request. -/
  | sprintRequest (g : Grant)
  /-- TRANSLATION_WALK, R401: A translation miss walks the four-level table. -/
  | translationWalk (part : Nat) (va : DWord)
  /-- TRANSLATION_INVALIDATE, R404: The operating system drops cached translations for a range of a table,
  and without a table for all of the partition. -/
  | translationInvalidate (part : Nat) (troot : Option Nat) (lo hi : Nat)
  /-- PARTITION_CREATE, R411: A partition is made and zeroed before it is reported ready. -/
  | partitionCreate (part : Nat) (q : PartSpec)
  /-- PARTITION_TAKEDOWN, R412: A partition's crews end with class 0x06, its entries retire and its resources are freed. -/
  | partitionTakedown (part : Nat)
  /-- ARRAY_ASSIGN, R268: The operating system gives a core's clause array to a partition and zeroes it. -/
  | arrayAssign (core part : Nat)
  /-- PINNED_TILE_ASSIGN, R240: The operating system gives a core's pinned tiles to a partition and zeroes them. -/
  | pinnedTileAssign (core part : Nat)
  /-- COPY_ON_WRITE, R415: A write to an uncopied unit first copies the unit as it stood at the mark. -/
  | copyOnWrite (part unit : Nat)
  /-- COPY_ON_WRITE_TIMEOUT, R415: A write waiting 2 µs for its unit's copy proceeds. -/
  | copyOnWriteTimeout (part unit : Nat)
  /-- CHECKPOINT_COMPLETE, R417: A step complete on every member becomes final and posts kind 0x12. -/
  | checkpointComplete (job : Nat)
  /-- CHECKPOINT_FAIL, R417: A step fails on a member and posts kind 0x13. -/
  | checkpointFail (job : Nat) (cause : Nat)
  /-- CHECKPOINT_TIMEOUT, R416: A step not complete 1 s after its mark fails. -/
  | checkpointTimeout (job : Nat)
  /-- RESTORE, R420: Members report their shards and restore the newest step all hold. -/
  | restore (job part : Nat) (held : List (Nat × List Word))
  /-- REPLAY, R423: The job is replayed from a kept step with the ordering log. -/
  | replay (job part : Nat)
  /-- STEP_BACK, R424: A replay runs until crew k reaches clock c and catches the job. -/
  | stepBack (job slot : Nat) (clock : DWord)
  /-- FREEZE_N, R425: A pulse on FREEZE_N stops every island clock and keeps the state. -/
  | freezeN
  /-- TAP_READ, R426: A frozen module's state is read through the test access port. -/
  | tapRead (target address : Nat)
  /-- COLD_RESET, R427: Power-on or a cold reset runs the start sequence from stage 1. -/
  | coldReset (cause : Nat)
  /-- STAGE_COMPLETE, R427: A start stage succeeds and the next one begins. -/
  | stageComplete
  /-- STAGE_FAILURE, R427: A stage fails or passes its deadline, so the stage is recorded and the module reset. -/
  | stageFailure (code : BitVec 8)
  /-- MEASUREMENT_EXTEND, R428: A measurement register is extended with a digest. -/
  | measurementExtend (index : Nat) (digest : BitVec 256)
  /-- ATTESTATION_REPORT, R429: The boot ROM returns a signed report for a nonce. -/
  | attestationReport (nonce : BitVec 256)
  /-- CLEAR_AND_RESTART, R430: The host clears FAILCNT and cold-resets the module. -/
  | clearAndRestart
  /-- BASIC_REGISTER_WRITE, R432: A control block's basic register is written, reloading the expert registers from a preset. -/
  | basicRegisterWrite (block : Nat) (value : Word)
  /-- EXPERT_REGISTER_WRITE, R432: An expert register write is accepted pending, or ignored. -/
  | expertRegisterWrite (block reg : Nat) (value : Word)
  /-- EXPERT_WRITE_EFFECT, R432: A pending expert write takes effect when the block has no work in hand. -/
  | expertWriteEffect (block : Nat)
  /-- ISLAND_LEVEL_CHANGE, R434: An island changes its voltage and frequency level within 10 µs. -/
  | islandLevelChange (island level : Nat)
  /-- PRE_START_RAISE, R435: Islands of mapped cores go to 2.0 GHz 20 µs before a START or G. -/
  | preStartRaise (core : Nat)
  /-- POWER_SAMPLE, R436: Island power is sampled every 1 µs and the busiest islands are lowered. -/
  | powerSample
  /-- POWER_TRIP, R436: More than 4,600 W for 1 ms resets the module with CAUSE 4. -/
  | powerTrip
  /-- TIME_WAKE, R139: When the time base reaches the absolute time that a YIELD.time split waits for, the split is woken within 64 cycles. -/
  | timeWake (slot split : Nat)
  /-- LIGHT_START, R330: At 1,600k + 100 ns the light of slot k begins, the ports send their link-control beats on λ0, and LNK wait splits waiting for that light start are woken. -/
  | lightStart
  /-- SETUP_END, R334: At the end of the 20 ns setup, a port that received no valid link-control beat sends nothing on that link for the rest of the slot, and otherwise the flit beat grid begins. -/
  | setupEnd (fibre : Nat)
  /-- MEMBER_HEARTBEAT_MISSED, R373: A member of a committed heat that has sent no heartbeat for 300 µs is taken as failed, and the observing package sends a member failure report. -/
  | memberHeartbeatMissed (peer : Nat)
  /-- CXL_MEM_ACCESS, R433: A host access through CXL.mem to exported partition HBM is checked as an engine's access is and then performed. -/
  | cxlMemAccess (part : Nat) (write : Bool) (offset : Nat) (data : List Byte)
  deriving DecidableEq, Repr

end Sys2Proof
end

