-- ==== Sys2Proof/WellFormed.lean ====
section
/-! DEFINITION. Which terms of Instr stand for an operation of the KX-960: numbers in range, and each CSR word and
status form under its own constructor. -/

namespace Sys2Proof

/-- A partition number (R406). -/
def partOk (n : Nat) : Bool := n < 16
/-- A core of the package, 64 × die + core (R10). -/
def coreOk (n : Nat) : Bool := n < 256
/-- A compute die (R10). -/
def dieOk (n : Nat) : Bool := n < 4
/-- A graph handle (R294). -/
def handleOk (n : Nat) : Bool := n < 64
/-- A fibre of the package (R10). -/
def fibreOk (n : Nat) : Bool := n < 512
/-- A fibre group (R340). -/
def groupOk (n : Nat) : Bool := n < 64
/-- A crew slot of the package, 24 × core + 6 × seat + slot. -/
def slotOk (n : Nat) : Bool := n < 6144
/-- A split of a crew (R47). -/
def splitOk (n : Nat) : Bool := n < 4
/-- A lane (R41). -/
def laneOk (n : Nat) : Bool := n < 96
/-- A peer (R346). -/
def peerOk (n : Nat) : Bool := n < 4096
/-- A node id (R296). -/
def nodeOk (n : Nat) : Bool := n < 67108864
/-- A queue of a partition on a core: crew queues 0 to 6 (R11), graph queues 7 to 9 (R308). -/
def queueOk (n : Nat) : Bool := n < 10
/-- A packet whose peers exist and whose data has one poison mark for each byte (R350). -/
def packetOk (p : Packet) : Bool := p.src < 4096 && p.dst < 4096 && p.data.length == p.pois.length
/-- The form bit of LDA and STA that names the status word (R261). -/
def statusForm (f : LaneFields) : Bool := f.md.getLsbD 0
/-- A CSR number that a read word has no constructor of its own for (R155). -/
def csrReadPlain (n : BitVec 12) : Bool := n != 0x020#12
/-- A CSR number that a write word has no constructor of its own for (R155, R207, R220). -/
def csrWritePlain (n : BitVec 12) : Bool :=
  n != 0x020#12 && n != 0x022#12 && n != 0x028#12 && n != 0x011#12 && n != 0x012#12 &&
    n != 0x040#12 && n != 0x041#12 && n != 0x042#12 && n != 0x043#12

/-- The well-formed terms.  -/
def wellFormed : Instr → Bool
  | .csrRd _ n => csrReadPlain n
  | .csrWr _ _ n => csrWritePlain n
  | .lda f => statusForm f == false
  | .ldaStatus f => statusForm f
  | .sta f => statusForm f == false
  | .staStatus f => statusForm f
  | .longLatencyArrival slot lane => slotOk slot && laneOk lane
  | .registerEccError slot _ lane => slotOk slot && laneOk lane
  | .blockPlacement core => coreOk core
  | .copyEntryStart part core q => partOk part && coreOk core && queueOk q
  | .copyEntryComplete part core q => partOk part && coreOk core && queueOk q
  | .copyEntryResume part core q => partOk part && coreOk core && queueOk q
  | .copyEntryRetire part core q => partOk part && coreOk core && queueOk q
  | .mtsTaskStart part core q => partOk part && coreOk core && queueOk q
  | .tileKStep core _ => coreOk core
  | .tileTaskComplete core => coreOk core
  | .tileTaskResume part core q _ => partOk part && coreOk core && queueOk q
  | .tileTaskRetire part core q _ => partOk part && coreOk core && queueOk q
  | .clauseEntryStart core => coreOk core
  | .trainingStep core => coreOk core
  | .inferenceSample core _ => coreOk core
  | .camovOperation core => coreOk core
  | .clauseEntryComplete core => coreOk core
  | .clauseEntryRetire core => coreOk core
  | .clauseGranuleAccess core => coreOk core
  | .cellSoftError core _ _ _ => coreOk core
  | .graphLoadComplete part handle => partOk part && handleOk handle
  | .token die => dieOk die
  | .nodeDone part handle node => partOk part && handleOk handle && nodeOk node
  | .nodeEnterBank part handle node => partOk part && handleOk handle && nodeOk node
  | .prefetchFill core => coreOk core
  | .tquAging die part _ => dieOk die && partOk part
  | .engineNodeIssue part handle node => partOk part && handleOk handle && nodeOk node
  | .graphEnd part handle => partOk part && handleOk handle
  | .nodeFault part handle node _ _ => partOk part && handleOk handle && nodeOk node
  | .coneVisit part handle head => partOk part && handleOk handle && nodeOk head
  | .crewStop slot head => slotOk slot && nodeOk head
  | .coneResolve part handle => partOk part && handleOk handle
  | .headRelease part handle node => partOk part && handleOk handle && nodeOk node
  | .linkControl fibre _ _ _ => fibreOk fibre
  | .idleLinkControl fibre => fibreOk fibre
  | .flitSend fibre => fibreOk fibre
  | .vcStarvation fibre _ => fibreOk fibre
  | .flitReceive fibre _ => fibreOk fibre
  | .squareStart group => groupOk group
  | .widthHandshake group => groupOk group
  | .squareComplete group => groupOk group
  | .featherStart group => groupOk group
  | .featherPark group => groupOk group
  | .readRequest p => packetOk p
  | .writeRequest p => packetOk p
  | .atomicRequest p => packetOk p
  | .xputData p => packetOk p
  | .collectiveData p => packetOk p
  | .forwardedRequest p => packetOk p
  | .probe p => packetOk p
  | .readResponse p => packetOk p
  | .writeAck p => packetOk p
  | .atomicResponse p => packetOk p
  | .xputAck p => packetOk p
  | .collectiveAck p => packetOk p
  | .busy p => packetOk p
  | .progressReport p => packetOk p
  | .poisonedResponse p => packetOk p
  | .xqEntryStart part core => partOk part && coreOk core
  | .xqEntryComplete part core => partOk part && coreOk core
  | .xqEntryResume part core => partOk part && coreOk core
  | .xqEntryRetire part core => partOk part && coreOk core
  | .ptpMessage fibre _ _ => fibreOk fibre
  | .heatSheetEntry e => peerOk e.peer
  | .commit sender _ _ => peerOk sender.peer
  | .ack peer _ _ => peerOk peer
  | .nak peer _ _ _ => peerOk peer
  | .heartbeat peer _ _ => peerOk peer
  | .candidacy _ _ peer => peerOk peer
  | .electionResult _ _ peer => peerOk peer
  | .entryRequest peer _ => peerOk peer
  | .catchCore core part => coreOk core && partOk part
  | .deadlineReset core part => coreOk core && partOk part
  | .save core part => coreOk core && partOk part
  | .drainAndTag core part => coreOk core && partOk part
  | .parkedResponse p => packetOk p
  | .switchRestore core part _ => coreOk core && partOk part
  | .freshStart part _ _ => partOk part
  | .switchStart core part => coreOk core && partOk part
  | .sprintGrant core => coreOk core
  | .accumulatorDrain core => coreOk core
  | .sprintStart core => coreOk core
  | .sprintEnd core => coreOk core
  | .translationWalk part _ => partOk part
  | .translationInvalidate part _ _ _ => partOk part
  | .partitionCreate part _ => partOk part
  | .partitionTakedown part => partOk part
  | .arrayAssign core part => coreOk core && partOk part
  | .pinnedTileAssign core part => coreOk core && partOk part
  | .copyOnWrite part _ => partOk part
  | .copyOnWriteTimeout part _ => partOk part
  | .restore _ part _ => partOk part
  | .replay _ part => partOk part
  | .stepBack _ slot _ => slotOk slot
  | .preStartRaise core => coreOk core
  | .timeWake slot split => slotOk slot && splitOk split
  | .setupEnd fibre => fibreOk fibre
  | .memberHeartbeatMissed peer => peerOk peer
  | .cxlMemAccess part _ _ _ => partOk part
  | .nop | .nopHint _ _ | .br _ | .brc _ _ _ | .bspl _ _ _ | .join | .call _ | .ret _ | .yield | .yieldSeq _ _ |
    .yieldJn | .yieldTime _ | .exit _ | .trap _ | .eret | .add _ _ _ | .sub _ _ _ | .mul _ _ _ | .mulh _ _ _ _ |
    .div _ _ _ _ | .andS _ _ _ | .orS _ _ _ | .xorS _ _ _ | .shl _ _ _ | .shlImm _ _ _ | .shr _ _ _ |
    .shrImm _ _ _ | .sra _ _ _ | .sraImm _ _ _ | .rol _ _ _ | .rolImm _ _ _ | .ror _ _ _ | .rorImm _ _ _ |
    .cmp _ _ _ _ _ _ | .sel _ _ _ _ | .addi _ _ _ | .li _ _ | .lui _ _ | .bfx _ _ _ _ | .bfi _ _ _ | .clz _ _ |
    .popc _ _ | .brev _ _ | .fxck _ | .sld _ _ _ | .sst _ _ _ | .satm _ _ _ _ _ _ | .lrun _ _ | .ljmp _ |
    .movmRead _ _ | .movmWrite _ _ | .movmPred _ _ _ | .fmts _ _ | .fmtsRead _ | .rdrd _ _ | .bar _ | .acqX _ |
    .acqS _ | .acqW _ _ | .rel _ | .fence _ | .fenceFlush | .qfnc _ | .xfnc | .wseq _ _ | .cpy _ _ _ _ _ _ |
    .tcpy _ _ _ | .dcpy _ _ _ | .ttsk _ _ | .cainf _ _ | .cainfLive _ _ | .catrn _ _ | .camovLoad _ _ _ |
    .camovStore _ _ _ | .glch _ _ | .spwn _ _ | .jnwt _ | .gctlStatus _ _ | .gctlLeft _ _ | .gctlNode _ _ _ |
    .gctlFree _ _ | .gctlWait _ _ | .xmemLd _ _ _ | .xmemSt _ _ _ | .xatm _ _ _ _ _ _ | .xput _ _ | .coll _ _ _ _ |
    .lnkStat _ _ | .lnkSq _ _ | .lnkRls _ _ | .lnkSlot _ _ _ | .lnkWait _ _ _ | .heat _ _ | .heatCkpt _ _ |
    .fsumRead _ | .fsumWrite _ _ | .sppWrite _ _ | .asyncfWrite _ _ | .trapspcWrite _ _ | .traplpcWrite _ _ |
    .qtailWrite _ _ _ | .bndcmdBind _ _ | .bndcmdUnbind _ _ | .lnop _ | .rep _ | .iadd _ | .isub _ | .imul _ |
    .imulh _ | .imad _ | .idiv _ | .imin _ | .imax _ | .iabs _ | .andLane _ | .orLane _ | .xorLane _ | .lop3 _ |
    .shlLane _ | .shrLane _ | .sraLane _ | .rot _ | .popcLane _ | .clzLane _ | .bfxLane _ | .bfiLane _ | .icmp _ |
    .isad _ | .mulw _ | .addc _ | .mov _ | .movi _ | .selLane _ | .lspc _ | .ldc _ | .pmov _ | .prmt _ | .shfl _ |
    .bcst _ | .lrot _ | .vote _ | .plop _ | .fadd _ | .fsub _ | .fmul _ | .ffma _ | .fmin _ | .fmax _ | .fcmp _ |
    .fcls _ | .frnd _ | .fscl _ | .fgex _ | .frem _ | .fnxt _ | .fadd3 _ | .fspl _ | .fcps _ | .fdiv _ | .fsqrt _ |
    .frsq _ | .frcp _ | .fexp _ | .fexp2 _ | .flog _ | .flog2 _ | .fsin _ | .fcos _ | .ftanh _ | .fsigm _ |
    .ferf _ | .fpow _ | .fatan _ | .fhyp _ | .dot2 _ | .dot4 _ | .dot8 _ | .fdot2 _ | .hadd2 _ | .hmul2 _ |
    .hfma2 _ | .hmnx2 _ | .cvtf _ | .cvfi _ | .cvif _ | .cvii _ | .cvts _ | .pack _ | .unpk _ | .tdec _ | .tenc _ |
    .qnt _ | .dqnt _ | .lrnd _ | .radd _ | .rmin _ | .rmax _ | .rand _ | .rior _ | .rxor _ | .rcnt _ | .rarg _ |
    .scan _ | .cmpx _ | .ldb _ | .stb _ | .lds _ | .sts _ | .ldsr _ | .stsr _ | .ldsb _ | .pushv _ | .popv _ |
    .atb _ | .casb _ | .ats _ | .cass _ | .atf _ | .flrd _ | .flcl _ | .flst _ | .hash _ | .crc _ | .lsav _ |
    .lrst _ | .pois _ | .lbrk _ | .sclw _ | .idxw _ | .litp _ | .cavr _ | .cacl _ | .cawd _ | .laneTrap _ |
    .scalarTrap _ | .crewTermination _ | .memoryEccError _ _ | .rotorSlotStart | .flitEgress | .lightEnd |
    .busyRetry _ | .requestProbeTimer _ | .requestTimeout _ | .heldRequestPerform | .timeServoCorrection _ _ _ |
    .heatSheetPublish _ | .heatStart _ | .heartbeatSend | .heartbeatLoss |
    .electionTimer | .memberFailureReport _ _ _ | .abort _ | .sprintGrantRecord _ | .sprintLimit |
    .sprintRequest _ | .checkpointComplete _ | .checkpointFail _ _ | .checkpointTimeout _ | .freezeN |
    .tapRead _ _ | .coldReset _ | .stageComplete | .stageFailure _ | .measurementExtend _ _ |
    .attestationReport _ | .clearAndRestart | .basicRegisterWrite _ _ | .expertRegisterWrite _ _ _ |
    .expertWriteEffect _ | .islandLevelChange _ _ | .powerSample | .powerTrip | .lightStart => true

end Sys2Proof
end

