-- ==== Sys2Proof/Decode.lean ====
section
/-! DEFINITION. The encodings of scalar words (R92 to R98) and lane instructions (R99, R111): decoders that are total
and reject by name, and the encoders. A word that no row of the tables gives is rejected with the field number and
value that the illegal-instruction trap reports (R201). -/

namespace Sys2Proof

/-- Why a word is no instruction: the field number of R201 and the field's value. -/
structure Reject where
  field : Nat
  value : Nat
  deriving DecidableEq, Repr

/-- Goes on when a field holds what it must. -/
def need (ok : Bool) (field value : Nat) (k : Except Reject Instr) : Except Reject Instr :=
  if ok then k else .error ⟨field, value⟩

/-- The instruction of a scalar word (R93, R97): reserved and unused fields are zero (R6, R94), and a field that an
instruction leaves open in value is checked when it executes. -/
def decodeScalar (w : Word) : Except Reject Instr :=
  let op := w.extractLsb' 26 6
  let d := w.extractLsb' 21 5
  let a := w.extractLsb' 16 5
  let b := w.extractLsb' 11 5
  let fn := w.extractLsb' 0 11
  let q := w.extractLsb' 7 4
  let fn7 := w.extractLsb' 0 7
  let imm16 := w.extractLsb' 0 16
  let d0 := need (d == 0) 1 d.toNat
  let a0 := need (a == 0) 2 a.toNat
  let b0 := need (b == 0) 3 b.toNat
  let fnIs (n : Nat) (i : Instr) := need (fn.toNat == n) 9 fn.toNat (.ok i)
  let fnTop (n : Nat) (i : Instr) := need (fn.toNat < 2 ^ n) 9 fn.toNat (.ok i)
  let qIs (n : Nat) (i : Instr) := need (q.toNat == n) 11 q.toNat (.ok i)
  match op.toNat with
  | 0x01 => d0 <| a0 <| b0 <| if fn.getLsbD 10 then .ok (.nopHint (fn.extractLsb' 9 1) (fn.extractLsb' 0 9)) else fnIs 0 .nop
  | 0x02 => .ok (.br (w.extractLsb' 0 26))
  | 0x03 => .ok (.brc (w.extractLsb' 22 4) (w.extractLsb' 18 4) (w.extractLsb' 0 18))
  | 0x04 => .ok (.bspl (w.extractLsb' 22 4) (w.extractLsb' 18 4) (w.extractLsb' 0 18))
  | 0x05 => d0 <| a0 <| b0 <| fnIs 0 .join
  | 0x06 => .ok (.call (w.extractLsb' 0 26))
  | 0x07 => d0 <| b0 <| fnIs 0 (.ret a)
  | 0x08 =>
    match fn7.toNat with
    | 0 => d0 <| a0 <| b0 <| qIs 0 .yield
    | 1 => d0 <| b0 <| .ok (.yieldSeq a q)
    | 2 => d0 <| a0 <| b0 <| qIs 0 .yieldJn
    | 3 => d0 <| b0 <| qIs 0 (.yieldTime a)
    | _ => .error ⟨9, fn7.toNat⟩
  | 0x09 => d0 <| b0 <| fnIs 0 (.exit a)
  | 0x0A => d0 <| .ok (.trap (w.extractLsb' 0 21))
  | 0x0B => d0 <| a0 <| b0 <| fnIs 0 .eret
  | 0x0C => fnIs 0 (.add d a b)
  | 0x0D => fnIs 0 (.sub d a b)
  | 0x0E => fnIs 0 (.mul d a b)
  | 0x0F => fnTop 1 (.mulh d a b (fn.extractLsb' 0 1))
  | 0x10 => fnTop 1 (.div d a b (fn.extractLsb' 0 1))
  | 0x11 => fnIs 0 (.andS d a b)
  | 0x12 => fnIs 0 (.orS d a b)
  | 0x13 => fnIs 0 (.xorS d a b)
  | 0x14 =>
    if fn.getLsbD 3 then
      let n := fn.extractLsb' 4 5
      b0 <| need (fn.extractLsb' 9 2 == 0) 9 fn.toNat <|
        match (fn.extractLsb' 0 3).toNat with
        | 0 => .ok (.shlImm d a n)
        | 1 => .ok (.shrImm d a n)
        | 2 => .ok (.sraImm d a n)
        | 3 => .ok (.rolImm d a n)
        | 4 => .ok (.rorImm d a n)
        | _ => .error ⟨9, fn.toNat⟩
    else
      match fn.toNat with
      | 0 => .ok (.shl d a b)
      | 1 => .ok (.shr d a b)
      | 2 => .ok (.sra d a b)
      | 3 => .ok (.rol d a b)
      | 4 => .ok (.ror d a b)
      | _ => .error ⟨9, fn.toNat⟩
  | 0x15 => fnTop 7 (.cmp d a b (fn.extractLsb' 4 3) (fn.extractLsb' 3 1) (fn.extractLsb' 0 3))
  | 0x16 => fnTop 3 (.sel d a b (fn.extractLsb' 0 3))
  | 0x17 => .ok (.addi d a imm16)
  | 0x18 => .ok (.li d (w.extractLsb' 0 21))
  | 0x19 => need (a == 0) 10 (w.extractLsb' 0 21).toNat <| .ok (.lui d imm16)
  | 0x1A =>
    if fn.extractLsb' 0 3 == 0 then fnTop 4 (.bfx d a b (fn.extractLsb' 3 1))
    else match fn.toNat with
      | 1 => .ok (.bfi d a b)
      | 2 => b0 <| .ok (.clz d a)
      | 3 => b0 <| .ok (.popc d a)
      | 4 => b0 <| .ok (.brev d a)
      | _ => .error ⟨9, fn.toNat⟩
  | 0x1B => d0 <| a0 <| need (imm16.extractLsb' 6 10 == 0) 10 imm16.toNat <| .ok (.fxck (imm16.extractLsb' 0 6))
  | 0x1C => .ok (.sld d a imm16)
  | 0x1D => .ok (.sst d a imm16)
  | 0x1E => fnTop 9 (.satm d a b (fn.extractLsb' 6 3) (fn.extractLsb' 3 3) (fn.extractLsb' 0 3))
  | 0x1F => d0 <| .ok (.lrun a imm16)
  | 0x20 => .ok (.ljmp (w.extractLsb' 0 26))
  | 0x21 =>
    match (fn.extractLsb' 0 2).toNat with
    | 0 => a0 <| b0 <| fnTop 4 (.movmRead d (fn.extractLsb' 2 2))
    | 1 => d0 <| b0 <| fnTop 4 (.movmWrite a (fn.extractLsb' 2 2))
    | 2 => a0 <| b0 <| fnTop 8 (.movmPred d (fn.extractLsb' 4 4) (fn.extractLsb' 2 2))
    | _ => .error ⟨9, fn.toNat⟩
  | 0x22 => b0 <| if fn == 1 then a0 (.ok (.fmtsRead d)) else fnIs 0 (.fmts d a)
  | 0x23 => b0 <| fnIs 0 (.rdrd d a)
  | 0x24 => d0 <| a0 <| b0 <| fnTop 2 (.bar (fn.extractLsb' 0 2))
  | 0x25 =>
    d0 <| match fn.toNat with
    | 0 => b0 (.ok (.acqX a))
    | 1 => b0 (.ok (.acqS a))
    | 2 => .ok (.acqW a b)
    | _ => .error ⟨9, fn.toNat⟩
  | 0x26 => d0 <| b0 <| fnIs 0 (.rel a)
  | 0x27 => d0 <| a0 <| b0 <| if fn == 8 then .ok .fenceFlush else fnTop 3 (.fence (fn.extractLsb' 0 3))
  | 0x28 => d0 <| a0 <| b0 <| fnTop 7 (.qfnc (fn.extractLsb' 0 7))
  | 0x29 => d0 <| a0 <| b0 <| fnIs 0 .xfnc
  | 0x2A => d0 <| b0 <| need (fn7 == 0) 9 fn7.toNat <| .ok (.wseq a q)
  | 0x2B => need (!fn7.getLsbD 6) 9 fn7.toNat <| .ok (.cpy d a b q (fn7.extractLsb' 3 3) (fn7.extractLsb' 0 3))
  | 0x2C => b0 <| need (fn7 == 0) 9 fn7.toNat <| .ok (.tcpy d a q)
  | 0x2D => b0 <| need (fn7 == 0) 9 fn7.toNat <| .ok (.dcpy d a q)
  | 0x2E => need (q == 4) 11 q.toNat <| b0 <| need (fn7 == 0) 9 fn7.toNat <| .ok (.ttsk d a)
  | 0x2F =>
    b0 <| if fn7 == 0 then qIs 5 (.cainf d a) else if fn7 == 1 then qIs 5 (.cainfLive d a) else .error ⟨9, fn7.toNat⟩
  | 0x30 => b0 <| need (fn7 == 0) 9 fn7.toNat <| qIs 5 (.catrn d a)
  | 0x31 =>
    b0 <| match (fn7.extractLsb' 3 4).toNat with
    | 0 => qIs 5 (.camovLoad d a (fn7.extractLsb' 0 3))
    | 1 => qIs 5 (.camovStore d a (fn7.extractLsb' 0 3))
    | _ => .error ⟨9, fn7.toNat⟩
  | 0x32 => b0 <| fnIs 0 (.glch d a)
  | 0x33 => b0 <| fnIs 0 (.spwn d a)
  | 0x34 => a0 <| b0 <| fnIs 0 (.jnwt d)
  | 0x35 =>
    match fn.toNat with
    | 0 => b0 (.ok (.gctlStatus d a))
    | 1 => b0 (.ok (.gctlLeft d a))
    | 2 => .ok (.gctlNode d a b)
    | 3 => b0 (.ok (.gctlFree d a))
    | 4 => b0 (.ok (.gctlWait d a))
    | _ => .error ⟨9, fn.toNat⟩
  | 0x36 =>
    if fn.getLsbD 0 then d0 <| fnTop 4 (.xmemSt a b (fn.extractLsb' 1 3))
    else b0 <| fnTop 4 (.xmemLd d a (fn.extractLsb' 1 3))
  | 0x37 => fnTop 9 (.xatm d a b (fn.extractLsb' 6 3) (fn.extractLsb' 3 3) (fn.extractLsb' 0 3))
  | 0x38 => b0 <| need (fn7 == 0) 9 fn7.toNat <| qIs 6 (.xput d a)
  | 0x39 =>
    b0 <| need (fn7.extractLsb' 5 2 == 0) 9 fn7.toNat <| qIs 6 (.coll d a (fn7.extractLsb' 3 2) (fn7.extractLsb' 0 3))
  | 0x3A =>
    match fn.toNat with
    | 0 => b0 (.ok (.lnkStat d a))
    | 1 => b0 (.ok (.lnkSq d a))
    | 2 => b0 (.ok (.lnkRls d a))
    | 3 => .ok (.lnkSlot d a b)
    | 4 => .ok (.lnkWait d a b)
    | _ => .error ⟨9, fn.toNat⟩
  | 0x3B =>
    if fn.extractLsb' 3 8 == 0 then a0 <| b0 <| .ok (.heat d (fn.extractLsb' 0 3))
    else b0 <| fnIs 8 (.heatCkpt d a)
  | 0x3C =>
    need (imm16.extractLsb' 12 3 == 0) 10 imm16.toNat <|
      let n := imm16.extractLsb' 0 12
      if imm16.getLsbD 15 then
        .ok (match n.toNat with
          | 0x020 => .fsumWrite d a
          | 0x022 => .sppWrite d a
          | 0x028 => .asyncfWrite d a
          | 0x011 => .trapspcWrite d a
          | 0x012 => .traplpcWrite d a
          | 0x040 => .qtailWrite 0 d a
          | 0x041 => .qtailWrite 1 d a
          | 0x042 => .qtailWrite 2 d a
          | 0x043 => .qtailWrite 3 d a
          | _ => .csrWr d a n)
      else a0 <| .ok (if n == 0x020 then .fsumRead d else .csrRd d n)
  | _ => .error ⟨0, op.toNat⟩

/-- The fields of a lane instruction (R99). -/
def laneFields (w : BitVec 96) : LaneFields :=
  { dst := w.extractLsb' 80 8, sa := w.extractLsb' 72 8, sb := w.extractLsb' 64 8, sc := w.extractLsb' 56 8,
    fe := w.extractLsb' 53 3, fmt := w.extractLsb' 48 5, rnd := w.extractLsb' 45 3, pred := w.extractLsb' 41 4,
    pneg := w.extractLsb' 40 1, md := w.extractLsb' 32 8, imm := w.extractLsb' 0 32 }

/-- The opcode of a lane instruction (R99). -/
def laneOpcode (w : BitVec 96) : BitVec 8 := w.extractLsb' 88 8

/-- The instruction of a lane word (R111); opcodes 0x84 to 0xFF are reserved (R112). -/
def decodeLane (w : BitVec 96) : Except Reject Instr :=
  let f := laneFields w
  match (laneOpcode w).toNat with
  | 0x00 => .ok (.lnop f)
  | 0x01 => .ok (.rep f)
  | 0x02 => .ok (.iadd f)
  | 0x03 => .ok (.isub f)
  | 0x04 => .ok (.imul f)
  | 0x05 => .ok (.imulh f)
  | 0x06 => .ok (.imad f)
  | 0x07 => .ok (.idiv f)
  | 0x08 => .ok (.imin f)
  | 0x09 => .ok (.imax f)
  | 0x0A => .ok (.iabs f)
  | 0x0B => .ok (.andLane f)
  | 0x0C => .ok (.orLane f)
  | 0x0D => .ok (.xorLane f)
  | 0x0E => .ok (.lop3 f)
  | 0x0F => .ok (.shlLane f)
  | 0x10 => .ok (.shrLane f)
  | 0x11 => .ok (.sraLane f)
  | 0x12 => .ok (.rot f)
  | 0x13 => .ok (.popcLane f)
  | 0x14 => .ok (.clzLane f)
  | 0x15 => .ok (.bfxLane f)
  | 0x16 => .ok (.bfiLane f)
  | 0x17 => .ok (.icmp f)
  | 0x18 => .ok (.mov f)
  | 0x19 => .ok (.movi f)
  | 0x1A => .ok (.selLane f)
  | 0x1B => .ok (.shfl f)
  | 0x1C => .ok (.bcst f)
  | 0x1D => .ok (.lrot f)
  | 0x1E => .ok (.vote f)
  | 0x1F => .ok (.lspc f)
  | 0x20 => .ok (.fadd f)
  | 0x21 => .ok (.fsub f)
  | 0x22 => .ok (.fmul f)
  | 0x23 => .ok (.ffma f)
  | 0x24 => .ok (.fdiv f)
  | 0x25 => .ok (.fsqrt f)
  | 0x26 => .ok (.frsq f)
  | 0x27 => .ok (.frcp f)
  | 0x28 => .ok (.fmin f)
  | 0x29 => .ok (.fmax f)
  | 0x2A => .ok (.fcmp f)
  | 0x2B => .ok (.fcls f)
  | 0x2C => .ok (.frnd f)
  | 0x2D => .ok (.fscl f)
  | 0x2E => .ok (.fgex f)
  | 0x2F => .ok (.frem f)
  | 0x30 => .ok (.fexp f)
  | 0x31 => .ok (.fexp2 f)
  | 0x32 => .ok (.flog f)
  | 0x33 => .ok (.flog2 f)
  | 0x34 => .ok (.fsin f)
  | 0x35 => .ok (.fcos f)
  | 0x36 => .ok (.ftanh f)
  | 0x37 => .ok (.fsigm f)
  | 0x38 => .ok (.ferf f)
  | 0x39 => .ok (.fpow f)
  | 0x3A => .ok (.fatan f)
  | 0x3B => .ok (.fhyp f)
  | 0x3C => .ok (.dot2 f)
  | 0x3D => .ok (.dot4 f)
  | 0x3E => .ok (.dot8 f)
  | 0x3F => .ok (.fnxt f)
  | 0x40 => .ok (.cvtf f)
  | 0x41 => .ok (.cvfi f)
  | 0x42 => .ok (.cvif f)
  | 0x43 => .ok (.cvii f)
  | 0x44 => .ok (.pack f)
  | 0x45 => .ok (.unpk f)
  | 0x46 => .ok (.qnt f)
  | 0x47 => .ok (.dqnt f)
  | 0x48 => .ok (.cvts f)
  | 0x49 => .ok (.tdec f)
  | 0x4A => .ok (.tenc f)
  | 0x4B => .ok (.lrnd f)
  | 0x4C => .ok (.radd f)
  | 0x4D => .ok (.rmin f)
  | 0x4E => .ok (.rmax f)
  | 0x4F => .ok (.rand f)
  | 0x50 => .ok (.rior f)
  | 0x51 => .ok (.rxor f)
  | 0x52 => .ok (.rcnt f)
  | 0x53 => .ok (.rarg f)
  | 0x54 => .ok (.ldb f)
  | 0x55 => .ok (.stb f)
  | 0x56 => .ok (.lds f)
  | 0x57 => .ok (.sts f)
  | 0x58 => .ok (.ldsr f)
  | 0x59 => .ok (.stsr f)
  | 0x5A => .ok (.pushv f)
  | 0x5B => .ok (.popv f)
  | 0x5C => .ok (.ldc f)
  | 0x5D => .ok (.atb f)
  | 0x5E => .ok (.casb f)
  | 0x5F => .ok (.ats f)
  | 0x60 => .ok (.cass f)
  | 0x61 => .ok (.atf f)
  | 0x62 => .ok (.flrd f)
  | 0x63 => .ok (.flcl f)
  | 0x64 => .ok (.flst f)
  | 0x65 => .ok (.plop f)
  | 0x66 => .ok (.pmov f)
  | 0x67 => .ok (.prmt f)
  | 0x68 => .ok (.litp f)
  | 0x69 => .ok (.cavr f)
  | 0x6A => .ok (.cacl f)
  | 0x6B => .ok (.cawd f)
  | 0x6C => .ok (.hadd2 f)
  | 0x6D => .ok (.hmul2 f)
  | 0x6E => .ok (.hfma2 f)
  | 0x6F => .ok (.hmnx2 f)
  | 0x70 => .ok (if statusForm f then .ldaStatus f else .lda f)
  | 0x71 => .ok (if statusForm f then .staStatus f else .sta f)
  | 0x72 => .ok (.sclw f)
  | 0x73 => .ok (.idxw f)
  | 0x74 => .ok (.hash f)
  | 0x75 => .ok (.crc f)
  | 0x76 => .ok (.cmpx f)
  | 0x77 => .ok (.scan f)
  | 0x78 => .ok (.isad f)
  | 0x79 => .ok (.mulw f)
  | 0x7A => .ok (.addc f)
  | 0x7B => .ok (.fadd3 f)
  | 0x7C => .ok (.fdot2 f)
  | 0x7D => .ok (.fspl f)
  | 0x7E => .ok (.fcps f)
  | 0x7F => .ok (.ldsb f)
  | 0x80 => .ok (.lsav f)
  | 0x81 => .ok (.lrst f)
  | 0x82 => .ok (.pois f)
  | 0x83 => .ok (.lbrk f)
  | n => .error ⟨0, n⟩

/-- The 96 bits of an opcode and fields (R99). -/
def laneWord (op : BitVec 8) (f : LaneFields) : BitVec 96 :=
  op ++ f.dst ++ f.sa ++ f.sb ++ f.sc ++ f.fe ++ f.fmt ++ f.rnd ++ f.pred ++ f.pneg ++ f.md ++ f.imm

/-- The opcode and fields of a lane instruction. -/
def laneForm : Instr → Option (BitVec 8 × LaneFields)
  | .lnop f => some (0x00#8, f)
  | .rep f => some (0x01#8, f)
  | .iadd f => some (0x02#8, f)
  | .isub f => some (0x03#8, f)
  | .imul f => some (0x04#8, f)
  | .imulh f => some (0x05#8, f)
  | .imad f => some (0x06#8, f)
  | .idiv f => some (0x07#8, f)
  | .imin f => some (0x08#8, f)
  | .imax f => some (0x09#8, f)
  | .iabs f => some (0x0A#8, f)
  | .andLane f => some (0x0B#8, f)
  | .orLane f => some (0x0C#8, f)
  | .xorLane f => some (0x0D#8, f)
  | .lop3 f => some (0x0E#8, f)
  | .shlLane f => some (0x0F#8, f)
  | .shrLane f => some (0x10#8, f)
  | .sraLane f => some (0x11#8, f)
  | .rot f => some (0x12#8, f)
  | .popcLane f => some (0x13#8, f)
  | .clzLane f => some (0x14#8, f)
  | .bfxLane f => some (0x15#8, f)
  | .bfiLane f => some (0x16#8, f)
  | .icmp f => some (0x17#8, f)
  | .mov f => some (0x18#8, f)
  | .movi f => some (0x19#8, f)
  | .selLane f => some (0x1A#8, f)
  | .shfl f => some (0x1B#8, f)
  | .bcst f => some (0x1C#8, f)
  | .lrot f => some (0x1D#8, f)
  | .vote f => some (0x1E#8, f)
  | .lspc f => some (0x1F#8, f)
  | .fadd f => some (0x20#8, f)
  | .fsub f => some (0x21#8, f)
  | .fmul f => some (0x22#8, f)
  | .ffma f => some (0x23#8, f)
  | .fdiv f => some (0x24#8, f)
  | .fsqrt f => some (0x25#8, f)
  | .frsq f => some (0x26#8, f)
  | .frcp f => some (0x27#8, f)
  | .fmin f => some (0x28#8, f)
  | .fmax f => some (0x29#8, f)
  | .fcmp f => some (0x2A#8, f)
  | .fcls f => some (0x2B#8, f)
  | .frnd f => some (0x2C#8, f)
  | .fscl f => some (0x2D#8, f)
  | .fgex f => some (0x2E#8, f)
  | .frem f => some (0x2F#8, f)
  | .fexp f => some (0x30#8, f)
  | .fexp2 f => some (0x31#8, f)
  | .flog f => some (0x32#8, f)
  | .flog2 f => some (0x33#8, f)
  | .fsin f => some (0x34#8, f)
  | .fcos f => some (0x35#8, f)
  | .ftanh f => some (0x36#8, f)
  | .fsigm f => some (0x37#8, f)
  | .ferf f => some (0x38#8, f)
  | .fpow f => some (0x39#8, f)
  | .fatan f => some (0x3A#8, f)
  | .fhyp f => some (0x3B#8, f)
  | .dot2 f => some (0x3C#8, f)
  | .dot4 f => some (0x3D#8, f)
  | .dot8 f => some (0x3E#8, f)
  | .fnxt f => some (0x3F#8, f)
  | .cvtf f => some (0x40#8, f)
  | .cvfi f => some (0x41#8, f)
  | .cvif f => some (0x42#8, f)
  | .cvii f => some (0x43#8, f)
  | .pack f => some (0x44#8, f)
  | .unpk f => some (0x45#8, f)
  | .qnt f => some (0x46#8, f)
  | .dqnt f => some (0x47#8, f)
  | .cvts f => some (0x48#8, f)
  | .tdec f => some (0x49#8, f)
  | .tenc f => some (0x4A#8, f)
  | .lrnd f => some (0x4B#8, f)
  | .radd f => some (0x4C#8, f)
  | .rmin f => some (0x4D#8, f)
  | .rmax f => some (0x4E#8, f)
  | .rand f => some (0x4F#8, f)
  | .rior f => some (0x50#8, f)
  | .rxor f => some (0x51#8, f)
  | .rcnt f => some (0x52#8, f)
  | .rarg f => some (0x53#8, f)
  | .ldb f => some (0x54#8, f)
  | .stb f => some (0x55#8, f)
  | .lds f => some (0x56#8, f)
  | .sts f => some (0x57#8, f)
  | .ldsr f => some (0x58#8, f)
  | .stsr f => some (0x59#8, f)
  | .pushv f => some (0x5A#8, f)
  | .popv f => some (0x5B#8, f)
  | .ldc f => some (0x5C#8, f)
  | .atb f => some (0x5D#8, f)
  | .casb f => some (0x5E#8, f)
  | .ats f => some (0x5F#8, f)
  | .cass f => some (0x60#8, f)
  | .atf f => some (0x61#8, f)
  | .flrd f => some (0x62#8, f)
  | .flcl f => some (0x63#8, f)
  | .flst f => some (0x64#8, f)
  | .plop f => some (0x65#8, f)
  | .pmov f => some (0x66#8, f)
  | .prmt f => some (0x67#8, f)
  | .litp f => some (0x68#8, f)
  | .cavr f => some (0x69#8, f)
  | .cacl f => some (0x6A#8, f)
  | .cawd f => some (0x6B#8, f)
  | .hadd2 f => some (0x6C#8, f)
  | .hmul2 f => some (0x6D#8, f)
  | .hfma2 f => some (0x6E#8, f)
  | .hmnx2 f => some (0x6F#8, f)
  | .lda f => some (0x70#8, f)
  | .ldaStatus f => some (0x70#8, f)
  | .sta f => some (0x71#8, f)
  | .staStatus f => some (0x71#8, f)
  | .sclw f => some (0x72#8, f)
  | .idxw f => some (0x73#8, f)
  | .hash f => some (0x74#8, f)
  | .crc f => some (0x75#8, f)
  | .cmpx f => some (0x76#8, f)
  | .scan f => some (0x77#8, f)
  | .isad f => some (0x78#8, f)
  | .mulw f => some (0x79#8, f)
  | .addc f => some (0x7A#8, f)
  | .fadd3 f => some (0x7B#8, f)
  | .fdot2 f => some (0x7C#8, f)
  | .fspl f => some (0x7D#8, f)
  | .fcps f => some (0x7E#8, f)
  | .ldsb f => some (0x7F#8, f)
  | .lsav f => some (0x80#8, f)
  | .lrst f => some (0x81#8, f)
  | .pois f => some (0x82#8, f)
  | .lbrk f => some (0x83#8, f)
  | _ => none

/-- The word of a scalar instruction (R93). The two binding commands are values of a register, not words. -/
def encodeScalar : Instr → Option Word
  | .nop => some (0x4000000#32)
  | .nopHint k n => some (0x10001#22 ++ k ++ n)
  | .br o => some (0x2#6 ++ o)
  | .brc c p o => some (0x3#6 ++ c ++ p ++ o)
  | .bspl c a o => some (0x4#6 ++ c ++ a ++ o)
  | .join => some (0x14000000#32)
  | .call o => some (0x6#6 ++ o)
  | .ret a => some (0xE0#11 ++ a ++ 0x0#16)
  | .yield => some (0x20000000#32)
  | .yieldSeq a q => some (0x100#11 ++ a ++ 0x0#5 ++ q ++ 0x1#7)
  | .yieldJn => some (0x20000002#32)
  | .yieldTime a => some (0x100#11 ++ a ++ 0x3#16)
  | .exit a => some (0x120#11 ++ a ++ 0x0#16)
  | .trap i => some (0x140#11 ++ i)
  | .eret => some (0x2C000000#32)
  | .add d a b => some (0xC#6 ++ d ++ a ++ b ++ 0x0#11)
  | .sub d a b => some (0xD#6 ++ d ++ a ++ b ++ 0x0#11)
  | .mul d a b => some (0xE#6 ++ d ++ a ++ b ++ 0x0#11)
  | .mulh d a b u => some (0xF#6 ++ d ++ a ++ b ++ 0x0#10 ++ u)
  | .div d a b u => some (0x10#6 ++ d ++ a ++ b ++ 0x0#10 ++ u)
  | .andS d a b => some (0x11#6 ++ d ++ a ++ b ++ 0x0#11)
  | .orS d a b => some (0x12#6 ++ d ++ a ++ b ++ 0x0#11)
  | .xorS d a b => some (0x13#6 ++ d ++ a ++ b ++ 0x0#11)
  | .shl d a b => some (0x14#6 ++ d ++ a ++ b ++ 0x0#11)
  | .shlImm d a n => some (0x14#6 ++ d ++ a ++ 0x0#7 ++ n ++ 0x8#4)
  | .shr d a b => some (0x14#6 ++ d ++ a ++ b ++ 0x1#11)
  | .shrImm d a n => some (0x14#6 ++ d ++ a ++ 0x0#7 ++ n ++ 0x9#4)
  | .sra d a b => some (0x14#6 ++ d ++ a ++ b ++ 0x2#11)
  | .sraImm d a n => some (0x14#6 ++ d ++ a ++ 0x0#7 ++ n ++ 0xA#4)
  | .rol d a b => some (0x14#6 ++ d ++ a ++ b ++ 0x3#11)
  | .rolImm d a n => some (0x14#6 ++ d ++ a ++ 0x0#7 ++ n ++ 0xB#4)
  | .ror d a b => some (0x14#6 ++ d ++ a ++ b ++ 0x4#11)
  | .rorImm d a n => some (0x14#6 ++ d ++ a ++ 0x0#7 ++ n ++ 0xC#4)
  | .cmp d a b n u c => some (0x15#6 ++ d ++ a ++ b ++ 0x0#4 ++ n ++ u ++ c)
  | .sel d a b n => some (0x16#6 ++ d ++ a ++ b ++ 0x0#8 ++ n)
  | .addi d a i => some (0x17#6 ++ d ++ a ++ i)
  | .li d i => some (0x18#6 ++ d ++ i)
  | .lui d i => some (0x19#6 ++ d ++ 0x0#5 ++ i)
  | .bfx d a b s => some (0x1A#6 ++ d ++ a ++ b ++ 0x0#7 ++ s ++ 0x0#3)
  | .bfi d a b => some (0x1A#6 ++ d ++ a ++ b ++ 0x1#11)
  | .clz d a => some (0x1A#6 ++ d ++ a ++ 0x2#16)
  | .popc d a => some (0x1A#6 ++ d ++ a ++ 0x3#16)
  | .brev d a => some (0x1A#6 ++ d ++ a ++ 0x4#16)
  | .fxck m => some (0x1B00000#26 ++ m)
  | .sld d a i => some (0x1C#6 ++ d ++ a ++ i)
  | .sst d a i => some (0x1D#6 ++ d ++ a ++ i)
  | .satm d a b s w o => some (0x1E#6 ++ d ++ a ++ b ++ 0x0#2 ++ s ++ w ++ o)
  | .lrun a n => some (0x3E0#11 ++ a ++ n)
  | .ljmp o => some (0x20#6 ++ o)
  | .movmRead d b => some (0x21#6 ++ d ++ 0x0#17 ++ b ++ 0x0#2)
  | .movmWrite a b => some (0x420#11 ++ a ++ 0x0#12 ++ b ++ 0x1#2)
  | .movmPred d n b => some (0x21#6 ++ d ++ 0x0#13 ++ n ++ b ++ 0x2#2)
  | .fmts d a => some (0x22#6 ++ d ++ a ++ 0x0#16)
  | .fmtsRead d => some (0x22#6 ++ d ++ 0x1#21)
  | .rdrd d a => some (0x23#6 ++ d ++ a ++ 0x0#16)
  | .bar n => some (0x24000000#30 ++ n)
  | .acqX a => some (0x4A0#11 ++ a ++ 0x0#16)
  | .acqS a => some (0x4A0#11 ++ a ++ 0x1#16)
  | .acqW a b => some (0x4A0#11 ++ a ++ b ++ 0x2#11)
  | .rel a => some (0x4C0#11 ++ a ++ 0x0#16)
  | .fence s => some (0x13800000#29 ++ s)
  | .fenceFlush => some (0x9C000008#32)
  | .qfnc m => some (0x1400000#25 ++ m)
  | .xfnc => some (0xA4000000#32)
  | .wseq a q => some (0x540#11 ++ a ++ 0x0#5 ++ q ++ 0x0#7)
  | .cpy d a b q e s => some (0x2B#6 ++ d ++ a ++ b ++ q ++ 0x0#1 ++ e ++ s)
  | .tcpy d a q => some (0x2C#6 ++ d ++ a ++ 0x0#5 ++ q ++ 0x0#7)
  | .dcpy d a q => some (0x2D#6 ++ d ++ a ++ 0x0#5 ++ q ++ 0x0#7)
  | .ttsk d a => some (0x2E#6 ++ d ++ a ++ 0x200#16)
  | .cainf d a => some (0x2F#6 ++ d ++ a ++ 0x280#16)
  | .cainfLive d a => some (0x2F#6 ++ d ++ a ++ 0x281#16)
  | .catrn d a => some (0x30#6 ++ d ++ a ++ 0x280#16)
  | .camovLoad d a p => some (0x31#6 ++ d ++ a ++ 0x50#13 ++ p)
  | .camovStore d a p => some (0x31#6 ++ d ++ a ++ 0x51#13 ++ p)
  | .glch d a => some (0x32#6 ++ d ++ a ++ 0x0#16)
  | .spwn d a => some (0x33#6 ++ d ++ a ++ 0x0#16)
  | .jnwt d => some (0x34#6 ++ d ++ 0x0#21)
  | .gctlStatus d a => some (0x35#6 ++ d ++ a ++ 0x0#16)
  | .gctlLeft d a => some (0x35#6 ++ d ++ a ++ 0x1#16)
  | .gctlNode d a b => some (0x35#6 ++ d ++ a ++ b ++ 0x2#11)
  | .gctlFree d a => some (0x35#6 ++ d ++ a ++ 0x3#16)
  | .gctlWait d a => some (0x35#6 ++ d ++ a ++ 0x4#16)
  | .xmemLd d a w => some (0x36#6 ++ d ++ a ++ 0x0#12 ++ w ++ 0x0#1)
  | .xmemSt a b w => some (0x6C0#11 ++ a ++ b ++ 0x0#7 ++ w ++ 0x1#1)
  | .xatm d a b s w o => some (0x37#6 ++ d ++ a ++ b ++ 0x0#2 ++ s ++ w ++ o)
  | .xput d a => some (0x38#6 ++ d ++ a ++ 0x300#16)
  | .coll d a n k => some (0x39#6 ++ d ++ a ++ 0x18#11 ++ n ++ k)
  | .lnkStat d a => some (0x3A#6 ++ d ++ a ++ 0x0#16)
  | .lnkSq d a => some (0x3A#6 ++ d ++ a ++ 0x1#16)
  | .lnkRls d a => some (0x3A#6 ++ d ++ a ++ 0x2#16)
  | .lnkSlot d a b => some (0x3A#6 ++ d ++ a ++ b ++ 0x3#11)
  | .lnkWait d a b => some (0x3A#6 ++ d ++ a ++ b ++ 0x4#11)
  | .heat d s => some (0x3B#6 ++ d ++ 0x0#18 ++ s)
  | .heatCkpt d a => some (0x3B#6 ++ d ++ a ++ 0x8#16)
  | .csrRd d n => some (0x3C#6 ++ d ++ 0x0#9 ++ n)
  | .csrWr d a n => some (0x3C#6 ++ d ++ a ++ 0x8#4 ++ n)
  | .fsumRead d => some (0x3C#6 ++ d ++ 0x0#5 ++ 0x0020#16)
  | .fsumWrite d a => some (0x3C#6 ++ d ++ a ++ 0x8020#16)
  | .sppWrite d a => some (0x3C#6 ++ d ++ a ++ 0x8022#16)
  | .asyncfWrite d a => some (0x3C#6 ++ d ++ a ++ 0x8028#16)
  | .trapspcWrite d a => some (0x3C#6 ++ d ++ a ++ 0x8011#16)
  | .traplpcWrite d a => some (0x3C#6 ++ d ++ a ++ 0x8012#16)
  | .qtailWrite n d a => some (0x3C#6 ++ d ++ a ++ 0x2010#14 ++ n)
  | _ => none

/-- The 96-bit word of a lane instruction. -/
def encodeLane (i : Instr) : Option (BitVec 96) := (laneForm i).map fun x => laneWord x.1 x.2

/-- The words of an instruction, in the order in which they are stored (R2, R99). Engine operations have none. -/
def encode (i : Instr) : List Word :=
  match encodeScalar i with
  | some w => [w]
  | none =>
    match encodeLane i with
    | some w => [w.extractLsb' 0 32, w.extractLsb' 32 32, w.extractLsb' 64 32]
    | none => []

/-- The instruction that words spell: one word of `.scalar`, or three of `.lane`. -/
def decodeWords : List Word → Except Reject Instr
  | [w] => decodeScalar w
  | [w0, w1, w2] => decodeLane (w2 ++ w1 ++ w0)
  | _ => .error ⟨0, 0⟩

/-- The instruction the decoder reads from a word numbered as the opcode table numbers its bits: 32 bits are a scalar
word, 96 bits a lane instruction. -/
def decodeTableWord (nbits w : Nat) : Option Instr :=
  if nbits = 32 then (decodeScalar (BitVec.ofNat 32 w)).toOption
  else if nbits = 96 then (decodeLane (BitVec.ofNat 96 w)).toOption
  else none

end Sys2Proof
end

