-- ==== Sys2Proof/Machine/Maps.lean ====
section
/-! DEFINITION. Sparse maps in one canonical form: a list of (key, value) pairs, keys strictly rising, no entry equal to
the value d that an unlisted key reads as. Memories, register files and tables of the state are such lists. -/

namespace Sys2Proof.Machine

/-- The value at key k; an unlisted key reads as d. -/
def mapGet {α : Type} (d : α) : List (Nat × α) → Nat → α
  | [], _ => d
  | (k', v) :: rest, k => if k' = k then v else mapGet d rest k

/-- The list with key k taken out. -/
def mapErase {α : Type} : List (Nat × α) → Nat → List (Nat × α)
  | [], _ => []
  | (k', v) :: rest, k => if k' = k then mapErase rest k else (k', v) :: mapErase rest k

/-- The list with (k, v) put in before the first greater key; k is not listed. -/
def mapInsert {α : Type} : List (Nat × α) → Nat → α → List (Nat × α)
  | [], k, v => [(k, v)]
  | (k', v') :: rest, k, v => if k < k' then (k, v) :: (k', v') :: rest else (k', v') :: mapInsert rest k v

/-- The map with v at key k; writing d takes the entry out. -/
def mapSet {α : Type} [DecidableEq α] (d : α) (m : List (Nat × α)) (k : Nat) (v : α) : List (Nat × α) :=
  if v = d then mapErase m k else mapInsert (mapErase m k) k v

/-- Keys strictly rising above lo, no entry equal to d. -/
def mapWfFrom {α : Type} [DecidableEq α] (d : α) : Nat → List (Nat × α) → Bool
  | _, [] => true
  | lo, (k, v) :: rest => decide (lo ≤ k) && decide (v ≠ d) && mapWfFrom d (k + 1) rest

/-- The canonical form. -/
def mapWf {α : Type} [DecidableEq α] (d : α) (m : List (Nat × α)) : Bool := mapWfFrom d 0 m

/-- Byte memory: unlisted addresses read as zero (log entry 3). -/
abbrev Memory := List Host.Cell

/-- The byte at an address. -/
def memGet (m : Memory) (a : Nat) : Byte := mapGet 0#8 m a

/-- The memory with one byte written. -/
def memSet (m : Memory) (a : Nat) (b : Byte) : Memory := mapSet 0#8 m a b

/-- The canonical form of a memory. -/
abbrev Memory.wf (m : Memory) : Prop := mapWf 0#8 m = true

/-- n bytes from address a, the lowest address first. -/
def memBytes (m : Memory) (a : Nat) : Nat → List Byte
  | 0 => []
  | n + 1 => memGet m a :: memBytes m (a + 1) n

/-- The bytes written from address a upward. -/
def memPut (m : Memory) (a : Nat) : List Byte → Memory
  | [] => m
  | b :: rest => memPut (memSet m a b) (a + 1) rest

/-- The number that little-endian bytes hold (R2). -/
def leNat : List Byte → Nat
  | [] => 0
  | b :: rest => b.toNat + 256 * leNat rest

/-- The n little-endian bytes of a number (R2). -/
def leBytes : Nat → Nat → List Byte
  | 0, _ => []
  | n + 1, v => BitVec.ofNat 8 v :: leBytes n (v / 256)

/-- The n-byte little-endian number at address a. -/
def memNat (m : Memory) (a n : Nat) : Nat := leNat (memBytes m a n)

/-- The memory with the n-byte little-endian number v at address a. -/
def memPutNat (m : Memory) (a n v : Nat) : Memory := memPut m a (leBytes n v)

/-- The memory with n bytes zeroed from address a: the entries in the range taken out. -/
def memZero (m : Memory) (a n : Nat) : Memory := m.filter fun c => c.1 < a || a + n ≤ c.1

/-- The flags with those of the range [a, a + n) cleared. -/
def flagsClear (m : List (Nat × Bool)) (a n : Nat) : List (Nat × Bool) := m.filter fun c => c.1 < a || a + n ≤ c.1

/-- An element put before the first that it may precede. -/
def insertBy {α : Type} (le : α → α → Bool) (x : α) : List α → List α
  | [] => [x]
  | y :: ys => if le x y then x :: y :: ys else y :: insertBy le x ys

/-- A list in order; elements that may precede each other keep their places. -/
def sortBy {α : Type} (le : α → α → Bool) : List α → List α
  | [] => []
  | x :: xs => insertBy le x (sortBy le xs)

/-- The elements of a list with the i-th replaced by f of it. -/
def listModify {α : Type} (f : α → α) : List α → Nat → List α
  | [], _ => []
  | x :: xs, 0 => f x :: xs
  | x :: xs, i + 1 => x :: listModify f xs i

end Sys2Proof.Machine
end

