-- ==== Sys2Proof/Machine/Flags.lean ====
section
/-! DEFINITION. Number formats, rounding and the exception flags (R69 to R91): what a bit pattern means, how an exact
result is rounded into a format, and which flags that raises. A finite number is ± mant × 2^exp; an exact result that
is not a dyadic number carries a sticky bit: its magnitude then lies strictly between mant × 2^exp and
(mant + 1) × 2^exp. -/

namespace Sys2Proof.Machine

/-- The six exception flags (R86). -/
abbrev Flags := BitVec 6

/-- Inexact. -/
def flagNX : Flags := 0x01#6
/-- Underflow. -/
def flagUF : Flags := 0x02#6
/-- Overflow. -/
def flagOF : Flags := 0x04#6
/-- Division by zero. -/
def flagDZ : Flags := 0x08#6
/-- Invalid operation. -/
def flagIV : Flags := 0x10#6
/-- Narrow saturation. -/
def flagNS : Flags := 0x20#6

/-- A floating format (R69): field widths, bias, ignored low bits, and which special values it has. -/
structure FloatFmt where
  code : Nat
  ebits : Nat
  fbits : Nat
  bias : Int
  /-- Low bits of the container that are ignored and written zero (F19). -/
  pad : Nat
  hasInf : Bool
  /-- 0 no NaN, 1 NaN as in IEEE 754, 2 NaN in S.1111.111 only. -/
  nan : Nat
  deriving DecidableEq, Repr

/-- The floating formats by code (R69); codes above 9 read as E2M1 and are refused before use. -/
def floatFmt : Nat → FloatFmt
  | 0 => ⟨0, 11, 52, 1023, 0, true, 1⟩
  | 1 => ⟨1, 8, 23, 127, 0, true, 1⟩
  | 2 => ⟨2, 8, 10, 127, 13, true, 1⟩
  | 3 => ⟨3, 8, 7, 127, 0, true, 1⟩
  | 4 => ⟨4, 5, 10, 15, 0, true, 1⟩
  | 5 => ⟨5, 5, 2, 15, 0, true, 1⟩
  | 6 => ⟨6, 4, 3, 7, 0, false, 2⟩
  | 7 => ⟨7, 3, 2, 3, 0, false, 0⟩
  | 8 => ⟨8, 2, 3, 1, 0, false, 0⟩
  | _ => ⟨9, 2, 1, 1, 0, false, 0⟩

/-- Width in bits of a value of operand format code c (R69 to R71, R75); block formats by their element. -/
def fmtWidth : Nat → Nat
  | 0 => 64 | 1 => 32 | 2 => 32 | 3 => 16 | 4 => 16 | 5 => 8 | 6 => 8 | 7 => 6 | 8 => 6 | 9 => 4
  | 10 => 8 | 11 => 8 | 12 => 8 | 13 => 6 | 14 => 6 | 15 => 8 | 16 => 8 | 17 => 4 | 18 => 4 | 19 => 16
  | 20 => 32 | 21 => 1 | 22 => 8 | 23 => 8 | 24 => 6 | 25 => 6 | 26 => 4 | 27 => 8 | 28 => 8 | 29 => 6
  | 30 => 4 | _ => 4

/-- What a bit pattern means. A NaN's fraction is left-aligned to 52 bits. -/
inductive Val where
  | nan (neg : Bool) (frac : Nat) (signalling : Bool)
  | inf (neg : Bool)
  | num (neg : Bool) (mant : Nat) (exp : Int)
  deriving DecidableEq, Repr

/-- A zero. -/
def Val.zero (neg : Bool) : Val := .num neg 0 0

/-- Whether a value is a NaN. -/
def Val.isNan : Val → Bool
  | .nan _ _ _ => true
  | _ => false

/-- The sign of a value. -/
def Val.neg : Val → Bool
  | .nan n _ _ => n
  | .inf n => n
  | .num n _ _ => n

/-- The value with the sign replaced. -/
def Val.withSign (n : Bool) : Val → Val
  | .nan _ f s => .nan n f s
  | .inf _ => .inf n
  | .num _ m e => .num n m e

/-- Reading a pattern of a floating format (R69, R84). -/
def decodeFloat (f : FloatFmt) (w : Nat) : Val :=
  let w := w >>> f.pad
  let frac := w % 2 ^ f.fbits
  let e := (w >>> f.fbits) % 2 ^ f.ebits
  let neg := (w >>> (f.fbits + f.ebits)) % 2 == 1
  let top := 2 ^ f.ebits - 1
  if f.nan = 1 && e == top then
    if frac = 0 then .inf neg
    else .nan neg (frac <<< (52 - f.fbits)) (frac >>> (f.fbits - 1) == 0)
  else if f.nan = 2 && e == top && frac == 2 ^ f.fbits - 1 then .nan neg (2 ^ 51) false
  else if e = 0 then .num neg frac (1 - f.bias - f.fbits)
  else .num neg (frac + 2 ^ f.fbits) ((e : Int) - f.bias - f.fbits)

/-- Whether a finite non-zero value is subnormal in a format. -/
def isSubnormal (f : FloatFmt) : Val → Bool
  | .num _ m e => decide (m ≠ 0) && decide ((Nat.log2 m : Int) + e < 1 - f.bias)
  | _ => false

/-- The rounding in force: mode (R79), the top 16 bits of the draw of R81, and FTZ, NSAT and NANM of FMTR (R88). -/
structure Rnd where
  mode : Nat
  draw : Nat
  ftz : Bool
  nsat : Bool
  nanm : Bool
  deriving DecidableEq, Repr

/-- RNE, no flush, no saturation, payloads kept. -/
def Rnd.rne : Rnd := ⟨0, 0, false, false, false⟩

/-- mant × 2^exp cut at 2^q: the kept integer, the 16 bits below it, and whether anything lies below those. -/
def cutAt (mant : Nat) (exp q : Int) (sticky : Bool) : Nat × Nat × Bool :=
  if q ≤ exp then (mant <<< (exp - q).toNat, 0, sticky)
  else
    let d := (q - exp).toNat
    let low := (mant % 2 ^ d) <<< 16
    (mant >>> d, low >>> d, sticky || low % 2 ^ d != 0)

/-- Whether the kept integer goes up by one (R79, R81). -/
def roundsUp (mode : Nat) (neg : Bool) (lo t : Nat) (rest : Bool) (u : Nat) : Bool :=
  match mode with
  | 0 => decide (t > 0x8000) || (t == 0x8000 && (rest || lo % 2 == 1))
  | 1 => false
  | 2 => (t != 0 || rest) && !neg
  | 3 => (t != 0 || rest) && neg
  | 4 => decide (t ≥ 0x8000)
  | _ => decide (u < t)

/-- ± mant × 2^exp rounded to a multiple of 2^q: the integer and whether the result is inexact. -/
def roundAt (r : Rnd) (neg : Bool) (mant : Nat) (exp q : Int) (sticky : Bool) : Nat × Bool :=
  let c := cutAt mant exp q sticky
  (c.1 + (roundsUp r.mode neg c.1 c.2.1 c.2.2 r.draw).toNat, c.2.1 != 0 || c.2.2)

/-- A sign bit over the other bits of a format. -/
def packSign (f : FloatFmt) (neg : Bool) (w : Nat) : Nat :=
  (w + (if neg then 2 ^ (f.ebits + f.fbits) else 0)) <<< f.pad

/-- A pattern with the ignored low bits of its container zero (R69). -/
def cleanBits (f : FloatFmt) (w : Nat) : Nat := (w >>> f.pad) <<< f.pad

/-- The infinity of a format. -/
def infBits (f : FloatFmt) (neg : Bool) : Nat := packSign f neg ((2 ^ f.ebits - 1) <<< f.fbits)

/-- The largest finite magnitude of a format, sign apart. -/
def maxBits (f : FloatFmt) (neg : Bool) : Nat :=
  packSign f neg
    (if f.nan = 1 then ((2 ^ f.ebits - 1) <<< f.fbits) - 1
     else if f.nan = 2 then 2 ^ (f.ebits + f.fbits) - 2 else 2 ^ (f.ebits + f.fbits) - 1)

/-- The canonical NaN of a format (R84); zero for a format without NaN. -/
def canonicalNan (f : FloatFmt) : Nat :=
  if f.nan = 1 then infBits f false + (2 ^ (f.fbits - 1)) <<< f.pad
  else if f.nan = 2 then 0x7F else 0

/-- A quiet NaN with the sign and fraction given, cut to a format (R84, R85). -/
def nanBits (f : FloatFmt) (r : Rnd) (neg : Bool) (frac : Nat) : Nat × Flags :=
  if f.nan = 0 then (0, flagIV)
  else if f.nan = 2 then (if r.nanm then 0x7F else packSign f neg 0x7F, 0)
  else if r.nanm then (canonicalNan f, 0)
  else (packSign f neg (((2 ^ f.ebits - 1) <<< f.fbits) + (frac ||| 2 ^ 51) >>> (52 - f.fbits)), 0)

/-- The result of an invalid operation (R84 item 2). -/
def invalidBits (f : FloatFmt) : Nat × Flags := (canonicalNan f, flagIV)

/-- What an overflow gives (R80). -/
def overflowBits (f : FloatFmt) (r : Rnd) (neg : Bool) : Nat × Flags :=
  if !f.hasInf || (r.nsat && decide (3 ≤ f.code)) then (maxBits f neg, flagNS ||| flagNX)
  else
    let toInf := match r.mode with
      | 1 => false
      | 2 => !neg
      | 3 => neg
      | _ => true
    (if toInf then infBits f neg else maxBits f neg, flagOF ||| flagNX)

/-- ± mant × 2^exp, with sticky, rounded once into a format (R79 to R83). DESIGN CHOICE: below the smallest normal, where
R81 states no value that the format holds, RSTO takes lo and t at the subnormal unit (log entry 119). -/
def roundFloat (f : FloatFmt) (r : Rnd) (neg : Bool) (mant : Nat) (exp : Int) (sticky : Bool) : Nat × Flags :=
  if mant = 0 then (packSign f neg 0, 0)
  else
    let e := (Nat.log2 mant : Int) + exp
    let emin := 1 - f.bias
    let q := max (e - f.fbits) (emin - f.fbits)
    let (n, inexact) := roundAt r neg mant exp q sticky
    let carry := n == 2 ^ (f.fbits + 1)
    let m := if carry then 2 ^ f.fbits else n
    let q := if carry then q + 1 else q
    let tiny := decide (e < emin) &&
      !(decide (e = emin - 1) && (roundAt r neg mant exp (e - f.fbits) sticky).1 == 2 ^ (f.fbits + 1))
    let biased := q + f.fbits + f.bias
    let top : Int := 2 ^ f.ebits - 1
    let isOver := if f.nan = 1 then decide (top ≤ biased)
      else if f.nan = 2 then decide (top < biased) || (decide (biased = top) && m == 2 ^ (f.fbits + 1) - 1)
      else decide (top < biased)
    if isOver then overflowBits f r neg
    else
      let nx : Flags := if inexact then flagNX else 0
      let uf : Flags := if tiny && inexact then flagUF else 0
      if m < 2 ^ f.fbits then
        if r.ftz && decide (f.code ≤ 4) && m != 0 then (packSign f neg 0, flagUF ||| flagNX)
        else (packSign f neg m, nx ||| uf)
      else (packSign f neg ((biased.toNat <<< f.fbits) + (m - 2 ^ f.fbits)), nx ||| uf)

/-- A value, already exact, written into a format: NaN, infinity and finite cases (R80, R84, R85). -/
def roundVal (f : FloatFmt) (r : Rnd) (v : Val) : Nat × Flags :=
  match v with
  | .nan n frac sig =>
    let (b, fl) := nanBits f r n frac
    (b, fl ||| (if sig then flagIV else 0))
  | .inf n => if f.hasInf then (infBits f n, 0) else (maxBits f n, flagNS)
  | .num n m e => roundFloat f r n m e false

/-- The operand as the lane floating instructions read it: under FTZ a subnormal reads as a zero (R83). -/
def readFloat (f : FloatFmt) (r : Rnd) (w : Nat) : Val :=
  let v := decodeFloat f w
  if r.ftz && decide (f.code ≤ 4) && isSubnormal f v then .zero v.neg else v

/-- IV when any operand is a signalling NaN. -/
def sigFlags : List Val → Flags
  | [] => 0
  | .nan _ _ true :: _ => flagIV
  | _ :: rest => sigFlags rest

/-- The first NaN operand, quieted (R84 item 1). -/
def firstNan : List Val → Option Val
  | [] => none
  | .nan n f _ :: _ => some (.nan n f false)
  | _ :: rest => firstNan rest

/-- A result of operands with a NaN among them, or the result g otherwise (R84). -/
def withNans (f : FloatFmt) (r : Rnd) (ops : List Val) (g : Nat × Flags) : Nat × Flags :=
  match firstNan ops with
  | some (.nan n frac _) => ((nanBits f r n frac).1, (nanBits f r n frac).2 ||| sigFlags ops)
  | _ => g

/-- The signed integer mantissa of a finite value at exponent q, which is not above its own. -/
def intAt (neg : Bool) (mant : Nat) (exp q : Int) : Int :=
  let m : Int := (mant <<< (exp - q).toNat : Nat)
  if neg then -m else m

/-- An exact sum of signed terms m × 2^e, with the sign rule of IEEE 754 for an exact zero: negZero says that every
term was a negative zero or the mode is RDN. -/
structure Exact where
  num : Int
  exp : Int
  deriving DecidableEq, Repr

/-- The exact sum of two. -/
def Exact.add (a b : Exact) : Exact :=
  let q := min a.exp b.exp
  ⟨a.num * 2 ^ (a.exp - q).toNat + b.num * 2 ^ (b.exp - q).toNat, q⟩

/-- The exact product of two. -/
def Exact.mul (a b : Exact) : Exact := ⟨a.num * b.num, a.exp + b.exp⟩

/-- A finite value as an exact number; others read as zero. -/
def Val.exact : Val → Exact
  | .num n m e => ⟨if n then -(m : Int) else m, e⟩
  | _ => ⟨0, 0⟩

/-- An exact number rounded; zeroNeg is the sign of an exact zero. -/
def roundExact (f : FloatFmt) (r : Rnd) (x : Exact) (zeroNeg : Bool) : Nat × Flags :=
  if x.num = 0 then (packSign f zeroNeg 0, 0)
  else roundFloat f r (decide (x.num < 0)) x.num.natAbs x.exp false

/-- A quotient p ÷ d × 2^exp of positive numbers, to at least 140 bits, with sticky. -/
def quotient (p d : Nat) (exp : Int) : Nat × Int × Bool :=
  let s := 140 + Nat.log2 d + 1 - min (Nat.log2 p) (140 + Nat.log2 d + 1)
  let n := p <<< s
  (n / d, exp - s, n % d != 0)

/-- The integer square root by Newton's steps from above. -/
def isqrtFrom : Nat → Nat → Nat → Nat
  | 0, _, x => x
  | fuel + 1, n, x =>
    let y := (x + n / x) / 2
    if y < x then isqrtFrom fuel n y else x

/-- The integer square root. -/
def isqrt (n : Nat) : Nat := if n = 0 then 0 else isqrtFrom (Nat.log2 n + 4) n (2 ^ (Nat.log2 n / 2 + 1))

/-- The square root of mant × 2^exp, to at least 140 bits, with sticky. -/
def sqrtExact (mant : Nat) (exp : Int) : Nat × Int × Bool :=
  let odd : Nat := (exp % 2).toNat
  let m := mant <<< odd
  let s := 150
  let n := m <<< (2 * s)
  let root := isqrt n
  (root, (exp - odd) / 2 - s, root * root != n)

/-- An integer type of R78: width and signedness. -/
structure IntTy where
  width : Nat
  signed : Bool
  deriving DecidableEq, Repr

/-- The integer types by code (R78). -/
def intTy : Nat → IntTy
  | 0 => ⟨32, true⟩ | 1 => ⟨32, false⟩ | 2 => ⟨64, true⟩ | 3 => ⟨64, false⟩
  | 4 => ⟨16, true⟩ | 5 => ⟨16, false⟩ | 6 => ⟨8, true⟩ | _ => ⟨8, false⟩

/-- The integer in the low bits of a register (R78). -/
def intOf (t : IntTy) (w : Nat) : Int :=
  let v := w % 2 ^ t.width
  if t.signed && decide (2 ^ (t.width - 1) ≤ v) then (v : Int) - 2 ^ t.width else v

/-- An integer wrapped to a type and extended to 64 bits (R78). -/
def intBits (t : IntTy) (v : Int) : DWord := BitVec.ofInt 64 (intOf t (v % 2 ^ t.width).toNat)

/-- The least value of a type. -/
def intMin (t : IntTy) : Int := if t.signed then -(2 ^ (t.width - 1)) else 0

/-- The greatest value of a type. -/
def intMax (t : IntTy) : Int := if t.signed then 2 ^ (t.width - 1) - 1 else 2 ^ t.width - 1

/-- A value clamped to a type, and whether it was out of range. -/
def intClamp (t : IntTy) (v : Int) : Int × Bool :=
  if v < intMin t then (intMin t, true) else if intMax t < v then (intMax t, true) else (v, false)

/-- A floating value rounded to an integer of a type (R85): NX in range and inexact, IV on saturation and on NaN. -/
def roundToInt (t : IntTy) (r : Rnd) (v : Val) : Int × Flags :=
  match v with
  | .nan _ _ _ => (0, flagIV)
  | .inf n => (if n then intMin t else intMax t, flagIV)
  | .num n m e =>
    let (k, inexact) := roundAt r n m e 0 false
    let (c, out) := intClamp t (if n then -(k : Int) else k)
    (c, if out then flagIV else if inexact then flagNX else 0)

/-- Rounding to an integral element with NS on saturation (R80, R183): the integer-element formats. -/
def roundToElem (t : IntTy) (r : Rnd) (neg : Bool) (m : Nat) (e : Int) (sticky : Bool) : Int × Flags :=
  let (k, inexact) := roundAt r neg m e 0 sticky
  let (c, out) := intClamp t (if neg then -(k : Int) else k)
  (c, if out then flagNS ||| flagNX else if inexact then flagNX else 0)

/-- A tapered format (R75): bits and exponent bits. -/
structure TaperFmt where
  bits : Nat
  es : Nat
  deriving DecidableEq, Repr

/-- The tapered formats by code 10 to 14 (R75); block elements 28 and 29 are T8E1 and T6E1. -/
def taperFmt : Nat → TaperFmt
  | 10 => ⟨8, 0⟩ | 11 => ⟨8, 1⟩ | 12 => ⟨8, 2⟩ | 13 => ⟨6, 0⟩ | 14 => ⟨6, 1⟩ | 28 => ⟨8, 1⟩ | _ => ⟨6, 1⟩

/-- The length of the run of bits equal to bit from bit i - 1 down. -/
def runLen (w : Nat) (bit : Bool) : Nat → Nat
  | 0 => 0
  | i + 1 => if w.testBit i == bit then runLen w bit i + 1 else 0

/-- Decoding a tapered word (R75). -/
def decodeTaper (t : TaperFmt) (w : Nat) : Val :=
  let w := w % 2 ^ t.bits
  if w = 0 then .zero false
  else if w = 2 ^ (t.bits - 1) then .nan false (2 ^ 51) false
  else
    let neg := w.testBit (t.bits - 1)
    let b := (if neg then 2 ^ t.bits - w else w) % 2 ^ (t.bits - 1)
    let n := t.bits - 1
    let r := b.testBit (n - 1)
    let m := runLen b r n
    let k : Int := if r then (m : Int) - 1 else -(m : Int)
    let left := n - m - 1
    let rest := b % 2 ^ left
    let eb := min t.es left
    let e := (rest >>> (left - eb)) <<< (t.es - eb)
    let fb := left - eb
    .num neg (2 ^ fb + rest % 2 ^ fb) (k * 2 ^ t.es + e - fb)

/-- Encoding ± mant × 2^exp (mant > 0) into a tapered format (R77). -/
def encodeTaper (t : TaperFmt) (r : Rnd) (neg : Bool) (mant : Nat) (exp : Int) (sticky : Bool) : Nat × Flags :=
  let n := t.bits - 1
  let lg := Nat.log2 mant
  let e := (lg : Int) + exp
  let k := e / 2 ^ t.es
  let eb := (e - k * 2 ^ t.es).toNat
  let gl := if 0 ≤ k then k.toNat + 2 else (-k).toNat + 1
  let g := if 0 ≤ k then 2 ^ (k.toNat + 2) - 2 else 1
  let str := ((g <<< t.es) + eb) * 2 ^ lg + (mant - 2 ^ lg)
  let len := gl + t.es + lg
  let c := cutAt str (-(len : Int)) (-(n : Int)) sticky
  let v := c.1 + (roundsUp r.mode neg c.1 c.2.1 c.2.2 r.draw).toNat
  let v := if v = 0 then 1 else if 2 ^ n ≤ v then 2 ^ n - 1 else v
  let out := if neg then 2 ^ t.bits - v else v
  -- the magnitude against maxpos = 2^top and minpos = 2^-top (R77)
  let top : Int := (t.bits - 2 : Nat) * 2 ^ t.es
  let isPow := mant == 2 ^ lg && !sticky
  let ns : Flags := if e < -top || top < e || (e == top && !isPow) then flagNS else 0
  let same := match decodeTaper t v with
    | .num _ m2 e2 =>
      let q := min exp e2
      !sticky && mant <<< (exp - q).toNat == m2 <<< (e2 - q).toNat
    | _ => false
  (out, ns ||| (if same then 0 else flagNX))

/-- A value encoded into a tapered format (R77): NaN and infinities become NAV. -/
def roundTaper (t : TaperFmt) (r : Rnd) (v : Val) : Nat × Flags :=
  match v with
  | .nan _ _ sig => (2 ^ (t.bits - 1), if sig then flagIV else 0)
  | .inf _ => (2 ^ (t.bits - 1), flagIV)
  | .num n m e => if m = 0 then (0, 0) else encodeTaper t r n m e false

/-- The mixing function of R185. -/
def mix32 (x : Word) : Word :=
  let x := x ^^^ (x >>> 16)
  let x := x * 0x6A09E667#32
  let x := x ^^^ (x >>> 15)
  let x := x * 0xBB67AE85#32
  x ^^^ (x >>> 16)

/-- Draw number n of the stream with seed sigma (R185). -/
def drawAt (sigma n : Word) : Word := mix32 (sigma ^^^ mix32 n)

/-- One step of the CRC-32C register over a byte (R198). -/
def crcByte (crc : Word) (y : Byte) : Word :=
  (List.range 8).foldl (fun c _ => (c >>> 1) ^^^ (if c.getLsbD 0 then 0x82F63B78#32 else 0)) (crc ^^^ y.setWidth 32)

/-- The CRC-32C register advanced over bytes (R198). -/
def crcBytes (crc : Word) (bs : List Byte) : Word := bs.foldl crcByte crc

/-- CRC-32C with the standard's inversions. -/
def crc32c (bs : List Byte) : Word := ~~~(crcBytes 0xFFFFFFFF#32 bs)

end Sys2Proof.Machine
end

