-- ==== Sys2Proof/Machine/Arith.lean ====
section
/-! DEFINITION. Arithmetic on values of the formats (R171 to R174, R177 to R184): exact sums and products rounded once,
comparisons, remainders, next values, conversions. Each gives the result bits and the flags. -/

namespace Sys2Proof.Machine

/-- The comparison key of a finite value against another: the sign of a - b. -/
def cmpFinite (a b : Exact) : Int := (a.add ⟨-b.num, b.exp⟩).num

/-- Whether a < b, for values that are not NaN; zeros of both signs are equal. -/
def valLt : Val → Val → Bool
  | .inf n, .inf m => n && !m
  | .inf n, _ => n
  | _, .inf m => !m
  | a, b => decide (cmpFinite a.exact b.exact < 0)

/-- Whether a = b, for values that are not NaN; zeros of both signs are equal. -/
def valEq (a b : Val) : Bool := !valLt a b && !valLt b a

/-- The exact product; none for infinity times zero. NaNs are dealt with before. -/
def valMul (a b : Val) : Option Val :=
  match a, b with
  | .num n m e, .num n' m' e' => some (.num (n != n') (m * m') (e + e'))
  | .num n m _, .inf n' => if m = 0 then none else some (.inf (n != n'))
  | .inf n, .num n' m _ => if m = 0 then none else some (.inf (n != n'))
  | a, b => some (.inf (a.neg != b.neg))

/-- The product of lists of factors, summed: the terms, or none when one is invalid. -/
def termsOf : List (Option Val) → Option (List Val)
  | [] => some []
  | none :: _ => none
  | some v :: rest => (termsOf rest).map (v :: ·)

/-- The exact sum of finite terms. -/
def sumExact : List Val → Exact
  | [] => ⟨0, 0⟩
  | [v] => v.exact
  | v :: rest => v.exact.add (sumExact rest)

/-- What a sum of non-NaN terms comes to. -/
inductive Sum where
  | invalid
  | inf (neg : Bool)
  | fin (x : Exact) (zeroNeg : Bool)
  deriving DecidableEq, Repr

/-- The sum of non-NaN terms, with the sign of an exact zero under the mode (IEEE 754). -/
def sumTerms (mode : Nat) (ts : List Val) : Sum :=
  let isInf (n : Bool) := ts.any fun v => v == .inf n
  if isInf true && isInf false then .invalid
  else if isInf true then .inf true
  else if isInf false then .inf false
  else .fin (sumExact ts) (if ts.all Val.neg then true else if ts.all (!·.neg) then false else mode == 3)

/-- A sum written into a format. -/
def roundSum (f : FloatFmt) (r : Rnd) (s : Sum) : Nat × Flags :=
  match s with
  | .invalid => invalidBits f
  | .inf n => roundVal f r (.inf n)
  | .fin x z => roundExact f r x z

/-- a + b (R171). -/
def fAdd (f : FloatFmt) (r : Rnd) (a b : Nat) : Nat × Flags :=
  let ops := [readFloat f r a, readFloat f r b]
  withNans f r ops (roundSum f r (sumTerms r.mode ops))

/-- a - b (R171). -/
def fSub (f : FloatFmt) (r : Rnd) (a b : Nat) : Nat × Flags :=
  let x := readFloat f r a
  let y := readFloat f r b
  withNans f r [x, y] (roundSum f r (sumTerms r.mode [x, y.withSign (!y.neg)]))

/-- a + b + c (R171). -/
def fAdd3 (f : FloatFmt) (r : Rnd) (a b c : Nat) : Nat × Flags :=
  let ops := [readFloat f r a, readFloat f r b, readFloat f r c]
  withNans f r ops (roundSum f r (sumTerms r.mode ops))

/-- a × b (R171). -/
def fMul (f : FloatFmt) (r : Rnd) (a b : Nat) : Nat × Flags :=
  let x := readFloat f r a
  let y := readFloat f r b
  withNans f r [x, y]
    (match valMul x y with
     | none => invalidBits f
     | some p => roundVal f r p)

/-- a × b + c, with ∞ × 0 invalid: a quiet NaN c is then the result, otherwise the canonical NaN (R171). -/
def fFma (f : FloatFmt) (r : Rnd) (a b c : Nat) : Nat × Flags :=
  let x := readFloat f r a
  let y := readFloat f r b
  let z := readFloat f r c
  if x.isNan || y.isNan then withNans f r [x, y, z] (0, 0)
  else match valMul x y with
    | none =>
      match z with
      | .nan n frac false => ((nanBits f r n frac).1, flagIV)
      | _ => invalidBits f
    | some p => withNans f r [x, y, z] (roundSum f r (sumTerms r.mode [p, z]))

/-- minimumNumber or maximumNumber (R171). -/
def fMinMax (isMax : Bool) (f : FloatFmt) (r : Rnd) (a b : Nat) : Nat × Flags :=
  let x := readFloat f r a
  let y := readFloat f r b
  let sig := sigFlags [x, y]
  if x.isNan && y.isNan then withNans f r [x, y] (0, 0)
  else if x.isNan then ((roundVal f .rne y).1, sig)
  else if y.isNan then ((roundVal f .rne x).1, sig)
  else
    let less := valLt x y || (valEq x y && x.neg && !y.neg)
    ((roundVal f .rne (if less != isMax then x else y)).1, 0)

/-- The relation cond (0 eq, 1 ne, 2 lt, 3 le, 4 gt, 5 ge, 6 un) and its flags (R172). -/
def fCmp (cond : Nat) (f : FloatFmt) (r : Rnd) (a b : Nat) : Bool × Flags :=
  let x := readFloat f r a
  let y := readFloat f r b
  if x.isNan || y.isNan then
    (cond == 1 || cond == 6, if 2 ≤ cond && cond ≤ 5 then flagIV else sigFlags [x, y])
  else
    (match cond with
     | 0 => valEq x y
     | 1 => !valEq x y
     | 2 => valLt x y
     | 3 => !valLt y x
     | 4 => valLt y x
     | 5 => !valLt x y
     | _ => false, 0)

/-- The class bit of a value (R172); FTZ is ignored. -/
def fClass (f : FloatFmt) (a : Nat) : Nat :=
  match decodeFloat f a with
  | .nan _ _ s => if s then 1 else 2
  | .inf n => if n then 4 else 512
  | .num n m e =>
    if m = 0 then (if n then 32 else 64)
    else if isSubnormal f (.num n m e) then (if n then 16 else 128)
    else if n then 8 else 256

/-- a rounded to an integral value (R173): no flag but IV on a signalling NaN. -/
def fRound (f : FloatFmt) (r : Rnd) (a : Nat) : Nat × Flags :=
  match readFloat f r a with
  | .nan n frac s => withNans f r [.nan n frac s] (0, 0)
  | .inf n => (infBits f n, 0)
  | .num n m e =>
    let k := (roundAt r n m e 0 false).1
    ((roundFloat f .rne n k 0 false).1, 0)

/-- a × 2^n written into format g; n is cut to ±8192, beyond which every format over- or underflows alike (R171, R180). -/
def fScale (f g : FloatFmt) (r : Rnd) (a : Nat) (n : Int) : Nat × Flags :=
  match readFloat f r a with
  | .num s m e => roundFloat g r s m (e + max (-8192) (min 8192 n)) false
  | .inf s => roundVal g r (.inf s)
  | v => withNans g r [v] (0, 0)

/-- ⌊log2 |a|⌋ as a value of the format (R173). -/
def fExponent (f : FloatFmt) (r : Rnd) (a : Nat) : Nat × Flags :=
  match readFloat f r a with
  | .nan n frac s => withNans f r [.nan n frac s] (0, 0)
  | .inf _ => (infBits f false, 0)
  | .num _ m e =>
    if m = 0 then (infBits f true, flagDZ)
    else roundExact f r ⟨(Nat.log2 m : Int) + e, 0⟩ false

/-- The IEEE remainder (R173). -/
def fRem (f : FloatFmt) (r : Rnd) (a b : Nat) : Nat × Flags :=
  let x := readFloat f r a
  let y := readFloat f r b
  withNans f r [x, y]
    (match x, y with
     | .inf _, _ => invalidBits f
     | .num _ _ _, .num _ 0 _ => invalidBits f
     | .num n m e, .inf _ => roundFloat f r n m e false
     | .num n m e, .num _ m' e' =>
       let q := min e e'
       let p := m <<< (e - q).toNat
       let d := m' <<< (e' - q).toNat
       let k := p / d
       let rest := p % d
       let up := decide (d < 2 * rest) || (2 * rest == d && k % 2 == 1)
       let s : Int := if up then (rest : Int) - d else rest
       roundExact f r ⟨if n then -s else s, q⟩ n
     | .num n m e, _ => roundFloat f r n m e false
     | _, _ => invalidBits f)

/-- The next value after a toward b (R171). -/
def fNext (f : FloatFmt) (r : Rnd) (a b : Nat) : Nat × Flags :=
  let x := readFloat f r a
  let y := readFloat f r b
  withNans f r [x, y]
    (if valEq x y then ((roundVal f .rne y).1, 0)
     else
       let bits := (roundVal f .rne x).1 >>> f.pad
       let half := 2 ^ (f.ebits + f.fbits)
       let mag := bits % half
       let up := valLt x y
       let zero := mag == 0
       let neg := if zero then !up else x.neg
       let mag := if zero then 1 else if up != x.neg then mag + 1 else mag - 1
       if r.ftz && mag != 0 && decide (mag < 2 ^ f.fbits) then (packSign f neg 0, flagUF ||| flagNX)
       else (packSign f neg mag, 0))

/-- The rounding error of a sum (R174): exact, no flag; invalid when an operand or RNE(a + b) is infinite. DEDUCED: FTZ
flushes its operands and not its result, which R174 calls always exact and without a flag (log entry 117). -/
def fSplit (f : FloatFmt) (r : Rnd) (a b : Nat) : Nat × Flags :=
  let x := readFloat f r a
  let y := readFloat f r b
  withNans f r [x, y]
    (match sumTerms 0 [x, y] with
     | .fin v z =>
       match decodeFloat f (roundExact f .rne v z).1 with
       | .num n m e => ((roundExact f .rne (v.add (Val.num (!n) m e).exact) false).1, 0)
       | _ => invalidBits f
     | _ => invalidBits f)

/-- The rounding error of a product (R174): rounded RNE, UF and NX when it underflows. -/
def fProdErr (f : FloatFmt) (r : Rnd) (a b : Nat) : Nat × Flags :=
  let x := readFloat f r a
  let y := readFloat f r b
  withNans f r [x, y]
    (match valMul x y with
     | some (.num n m e) =>
       match decodeFloat f (roundFloat f .rne n m e false).1 with
       | .num n' m' e' =>
         roundExact f r ((Val.num n m e).exact.add (Val.num (!n') m' e').exact) false
       | _ => invalidBits f
     | _ => invalidBits f)

/-- a ÷ b (R175). -/
def fDivVal (f : FloatFmt) (r : Rnd) (x y : Val) : Nat × Flags :=
  withNans f r [x, y]
    (match x, y with
     | .inf _, .inf _ => invalidBits f
     | .inf n, v => (infBits f (n != v.neg), 0)
     | v, .inf n => (packSign f (v.neg != n) 0, 0)
     | .num n m e, .num n' m' e' =>
       if m' = 0 then (if m = 0 then invalidBits f else (infBits f (n != n'), flagDZ))
       else if m = 0 then (packSign f (n != n') 0, 0)
       else
         let (q, ex, st) := quotient m m' (e - e')
         roundFloat f r (n != n') q ex st
     | _, _ => invalidBits f)

/-- The value 1. -/
def Val.one : Val := .num false 1 0

/-- √a (R175). -/
def fSqrt (f : FloatFmt) (r : Rnd) (a : Nat) : Nat × Flags :=
  let x := readFloat f r a
  withNans f r [x]
    (match x with
     | .inf n => if n then invalidBits f else (infBits f false, 0)
     | .num n m e =>
       if m = 0 then (packSign f n 0, 0)
       else if n then invalidBits f
       else
         let (q, ex, st) := sqrtExact m e
         roundFloat f r false q ex st
     | _ => invalidBits f)

/-- 1 ÷ √a (R175, R176): the root of 1 ÷ a, with sticky from both. -/
def fRsqrt (f : FloatFmt) (r : Rnd) (a : Nat) : Nat × Flags :=
  let x := readFloat f r a
  withNans f r [x]
    (match x with
     | .inf n => if n then invalidBits f else (packSign f false 0, 0)
     | .num n m e =>
       if m = 0 then (infBits f n, flagDZ)
       else if n then invalidBits f
       else
         -- m odd-adjusted to an even exponent: 1/√(m 2^e) = √(2^(2k) / m) 2^(-k - e/2)
         let odd := (e % 2).toNat
         let m := m <<< odd
         let k := 150 + Nat.log2 m
         let p := 2 ^ (2 * k)
         let root := isqrt (p / m)
         roundFloat f r false root (-(k : Int) - (e - odd) / 2) (p % m != 0 || root * root != p / m)
     | _ => invalidBits f)

/-- √(a² + b²) (R175): an infinity wins over a NaN. -/
def fHypot (f : FloatFmt) (r : Rnd) (a b : Nat) : Nat × Flags :=
  let x := readFloat f r a
  let y := readFloat f r b
  let isInf (v : Val) := v == .inf true || v == .inf false
  if isInf x || isInf y then (infBits f false, sigFlags [x, y])
  else withNans f r [x, y]
    (let s := x.exact.mul x.exact |>.add (y.exact.mul y.exact)
     if s.num = 0 then (packSign f false 0, 0)
     else
       let (q, ex, st) := sqrtExact s.num.natAbs s.exp
       roundFloat f r false q ex st)

/-- An element of operand format code c, scale apart (R69 to R75). -/
def decodeElem (c w : Nat) : Val :=
  let int (t : IntTy) : Val := let v := intOf t w; .num (decide (v < 0)) v.natAbs 0
  if c ≤ 9 then decodeFloat (floatFmt c) w
  else if c ≤ 14 then decodeTaper (taperFmt c) w
  else match c with
    | 15 => int ⟨8, true⟩
    | 16 => int ⟨8, false⟩
    | 17 => int ⟨4, true⟩
    | 18 => int ⟨4, false⟩
    | 19 => int ⟨16, true⟩
    | 20 => int ⟨32, true⟩
    | 21 => .num (w % 2 == 0) 1 0
    | 22 => decodeFloat (floatFmt 6) w
    | 23 => decodeFloat (floatFmt 5) w
    | 24 => decodeFloat (floatFmt 7) w
    | 25 => decodeFloat (floatFmt 8) w
    | 26 => decodeFloat (floatFmt 9) w
    | 27 => let v := intOf ⟨8, true⟩ w; .num (decide (v < 0)) v.natAbs (-6)
    | 28 => decodeTaper (taperFmt 28) w
    | 29 => decodeTaper (taperFmt 29) w
    | 30 => decodeFloat (floatFmt 9) w
    | _ => int ⟨4, true⟩

/-- The integer type of an integer operand format code 15 to 20 (R70). -/
def elemInt : Nat → IntTy
  | 15 => ⟨8, true⟩ | 16 => ⟨8, false⟩ | 17 => ⟨4, true⟩ | 18 => ⟨4, false⟩ | 19 => ⟨16, true⟩ | _ => ⟨32, true⟩

/-- Whether a code is one of the integer or one-bit formats of R70. -/
def isIntElem (c : Nat) : Bool := 15 ≤ c && c ≤ 21

/-- A value divided by nothing, rounded into the element format of code c (R80, R84, R85, R77): the form QNT, DQNT,
stores and the copy engine share. -/
def roundElem (c : Nat) (r : Rnd) (v : Val) (sticky : Bool) : Nat × Flags :=
  let base := match c with
    | 22 => 6 | 23 => 5 | 24 => 7 | 25 => 8 | 26 => 9 | 30 => 9 | _ => c
  if base ≤ 9 then
    let f := floatFmt base
    match v with
    | .num n m e => if sticky then roundFloat f r n m e true else roundVal f r (.num n m e)
    | .nan n fr s => (let p := nanBits f r n fr; (p.1, p.2 ||| (if s then flagIV else 0)))
    | v => roundVal f r v
  else if base ≤ 14 || base == 28 || base == 29 then
    match v with
    | .num n m e => if m = 0 then (0, 0) else encodeTaper (taperFmt base) r n m e sticky
    | v => roundTaper (taperFmt base) r v
  else
    let t := if base == 27 then ⟨8, true⟩ else if base == 31 then ⟨4, true⟩ else elemInt base
    let up : Int := if base == 27 then 6 else 0
    match v with
    | .nan _ _ _ => (0, flagIV)
    | .inf n => (((if n then intMin t else intMax t) % 2 ^ t.width).toNat, flagNS)
    | .num n m e =>
      let (k, fl) := roundToElem t r n m (e + up) sticky
      ((k % 2 ^ t.width).toNat, fl)

/-- The value of an E8M0 scale byte (R72). -/
def scaleE8M0 (e : Nat) : Val := if e = 255 then .nan false 0 false else .num false 1 ((e : Int) - 127)

/-- The value of a UE5M3 scale byte (R72). -/
def scaleUE5M3 (u : Nat) : Val :=
  if u = 255 then .nan false 0 false
  else
    let e := u / 8
    let f := u % 8
    if e = 0 then .num false f (-17) else .num false (8 + f) ((e : Int) - 18)

/-- An element times its scales (R72): NaN scales make NaNs, infinity times zero is invalid. -/
def scaledElem (el : Val) (scales : List Val) : Option Val :=
  if scales.any Val.isNan then some (.nan false 0 false)
  else if el.isNan then some el
  else scales.foldl (fun acc s => match acc with | some v => valMul v s | none => none) (some el)

/-- ±(p ÷ d) × 2^exp rounded into UE5M3, d > 0: RNE or RUP, saturating at 0xFE (R183). -/
def roundUE5M3 (up : Bool) (p d : Nat) (exp : Int) : Nat :=
  if p = 0 then 0
  else
    let (q, ex, st) := quotient p d exp
    let e := (Nat.log2 q : Int) + ex
    let quant := max (e - 3) (-17)
    let n := (roundAt ⟨if up then 2 else 0, 0, false, false, false⟩ false q ex quant st).1
    let code := if n < 8 then (n : Int) else if n = 16 then (quant + 19) * 8 else (quant + 18) * 8 + (n - 8)
    if code ≤ 254 then code.toNat else 254

/-- The totalOrder key of a pattern (R189). -/
def totalKey (f : FloatFmt) (w : Nat) : Int :=
  let w := w >>> f.pad
  let half := 2 ^ (f.ebits + f.fbits)
  let mag := w % half
  if w / half % 2 = 1 then -(mag : Int) - 1 else mag

end Sys2Proof.Machine
end

