-- ==== Sys2Proof/Config.lean ====
section
/-! DEFINITION. What the specification leaves open or an implementation fixes: every constant here has no usable
body, so that nothing can be proved of its value. The marks and risks stand in notes/assumptions. -/

namespace Sys2Proof.Config

/-- The time, in ns, that the n-th step takes (log entry 2). -/
opaque elapsed : Nat → Nat

/-- The choice the device makes at the n-th place where a rule lists several outcomes (R8; log entry 12). -/
opaque choice : Nat → Bool

/-- The largest logical clock with which a crew of another package arrived at a barrier or a gather over packages, at the
n-th such choice (R65; log entry 18). -/
opaque farClock : Nat → DWord

/-- A correctly rounded function whose interval refinement has not separated the result from a rounding boundary:
function code, operand bits, format code and rounding code give the result bits (log entry 13). -/
opaque slowPathResult : Nat → Nat → Nat → Nat → Nat

/-- The flags that go with slowPathResult (log entry 13). -/
opaque slowPathFlags : Nat → Nat → Nat → Nat → BitVec 6

/-- The ECDSA P-256 signature of a digest under the module's fused key (R429; log entry 15). -/
opaque signature : BitVec 256 → BitVec 512

/-- The device identity in the fuses (R429; log entry 15). -/
opaque deviceId : BitVec 128

/-- The digest that measurement register i is extended with in the start sequence, by the state of the debug fuse and the
count of choices (R427, R428; log entry 15). -/
opaque imageDigest : Nat → Bool → Nat → BitVec 256

/-- The power, in mW, that island i draws in the n-th sample at a level in MHz and a voltage in mV (R20, R434, R436; log
entry 16). -/
opaque islandPower : Nat → Nat → Nat → Nat → Nat

/-- The voltage, in mV, at which island i runs at a level in MHz (R20, R434; log entry 16). -/
opaque islandVolts : Nat → Nat → Nat

/-- The units of 64 MiB of the band size that the firmware fixes: B is 64 MiB × (bandUnits mod 31 + 1) (R409; log entry
5). -/
opaque bandUnits : Nat

/-- The value of preset p of expert register r of control block b (R432; log entry 17). -/
opaque preset : Nat → Nat → Nat → Word

/-- The UE5M3 block scale of QNT code 30 for amax bits, tensor-scale bits and mode, where the tensor scale is a NaN, a
negative number or -0 and R183 states no quotient (log entry 21). -/
opaque quantScale : Nat → Nat → Nat → BitVec 8

/-- Instruction-cache misses of a crew between two reads of its slip counter, by the count of choices (R155; log entry
29). -/
opaque misses : Nat → Word

/-- The domain origin of the time base as an IEEE 1588 timestamp in ns, which the domain configuration fixes (R363; log
entry 5). -/
opaque domainOrigin : Nat

/-- The crew slots of a core that stage 4 reports present, bit 6 × seat + slot (R67, R68; log entry 5). -/
opaque banksPresent : Nat → BitVec 24

/-- Whether stage 4 has mapped out a bank of a core (R67, R68; log entry 5). -/
opaque banksMapped : Nat → Bool

/-- What stage 6 loads: the own peer number, the rotor map by 8 × fibre + matching, the maps of the domain's other
packages, and the package's priority as a candidate (R331, R427; log entry 5). -/
opaque ownPeer : Nat
/-- The rotor map, each pair's peer + 1. -/
opaque rotorMap : List (Nat × Nat)
/-- The other packages' maps by 4096 × package + peer, each pair's matching + 1. -/
opaque domainMaps : List (Nat × Nat)
/-- The priority of the package in a candidacy. -/
opaque priority : Nat
/-- priority1 of the package, its clockQuality and priority2, and the part of its clockIdentity above the peer number, as
an IEEE 1588 clock (R363; log entry 44). -/
opaque priority1 : BitVec 8
/-- clockClass, clockAccuracy, offsetScaledLogVariance and priority2. -/
opaque clockQuality : BitVec 40
/-- The upper 48 bits of a clockIdentity. -/
opaque clockPrefix : BitVec 48
/-- ns after which a clock that has sent no Announce is no longer the best (R363; log entry 44). -/
opaque announceTimeout : Nat

end Sys2Proof.Config
end

