-- ==== Sys2Proof/Machine/State.lean ====
section
/-! DEFINITION. The state of one KX-960 package: every register, memory, queue and record the specification gives it,
as plain data, and its value at reset. Tables are sparse (Machine/Maps.lean): a key that is not listed reads as the
value the accessor names. Cores are numbered 0 to 255 over the package (64 × die + core on the die), crew slots
24 × core + 6 × seat + slot. -/

namespace Sys2Proof.Machine

/-- One lane's copy of an o or v register: 64-bit value, full bit (R108), poison bit (R213). -/
structure LaneReg where
  val : DWord
  full : Bool
  poison : Bool
  deriving DecidableEq, Repr

/-- An unlisted register lane: zero, full, without poison (R57). -/
def LaneReg.zero : LaneReg := ⟨0, true, false⟩

/-- One entry of a lane's result queue (R106). -/
structure QVal where
  val : DWord
  poison : Bool
  deriving DecidableEq, Repr

/-- What a crew holds for one lane. -/
structure LaneState where
  /-- v0 to v63 at keys 0 to 63, o0 to o7 at keys 64 to 71 (R102). -/
  regs : List (Nat × LaneReg)
  /-- q0 to q15, newest first; a missing entry reads as zero without poison (R106, R57). -/
  queue : List QVal
  /-- p0 to p14 in bits 0 to 14 (R161). -/
  preds : BitVec 15
  /-- The lane flag word (R86). -/
  flags : BitVec 6
  /-- The seed σ of the lane's random stream (R185). -/
  sigma : Word
  /-- The count n of the lane's random stream (R185). -/
  count : Word
  deriving DecidableEq, Repr

/-- A lane of a slot where no crew has started. -/
def LaneState.empty : LaneState := ⟨[], [], 0, 0, 0, 0⟩

/-- The repeat state of an instruction under a REP prefix (R110). -/
structure RepState where
  /-- Repetitions n, 1 to 64. -/
  count : Nat
  /-- Stride, 1, 2, 4 or 8. -/
  stride : Nat
  /-- STEP bits: DST, SA, SB, SC. -/
  step : BitVec 4
  /-- The next repetition j. -/
  next : Nat
  deriving DecidableEq, Repr

/-- An entry of the lane queue with its recorded state (R43, R44). -/
structure LaneEntry where
  /-- The 96-bit instruction. -/
  word : BitVec 96
  /-- Its LPC, a byte offset in .lane. -/
  lpc : Nat
  mask : LaneMask
  fmtr : Word
  /-- The recorded split number: what the SPLIT operand reads and a lane trap reports (R44). -/
  split : Nat
  /-- The split that the entry belongs to now: the one that enqueued it, or the one that took over from it (R50, R51). -/
  owner : Nat
  /-- The recorded values of s registers named by SA, SB, SC. -/
  svA : Word
  svB : Word
  svC : Word
  /-- The first reduction sequence number given at enqueue (R152, R187). -/
  redFirst : BitVec 16
  /-- Repeat state, when a REP prefix names this instruction. -/
  rep : Option RepState
  /-- The guard's and split's state is as LRUN recorded it; true for a memory instruction (R22). -/
  memory : Bool
  deriving DecidableEq, Repr

/-- A value of a long-latency producer that has not arrived in its lane (R107). -/
structure Arrival where
  lane : Nat
  val : DWord
  poison : Bool
  flags : BitVec 6
  deriving DecidableEq, Repr

/-- A long-latency producer in flight: its destination (0 to 71), its split, the values still to arrive. -/
structure Inflight where
  reg : Nat
  split : Nat
  arrivals : List Arrival
  deriving DecidableEq, Repr

/-- Why a split stays at its word (R132). -/
inductive Wait where
  /-- not waiting -/
  | none
  /-- has not begun: waits on lane work (R45, R22) or for its turn in a deterministic launch (R65) -/
  | lanes
  /-- waits for a free entry of a queue or of the lane queue (R13, R43) -/
  | room
  /-- waits in a synchronisation that has begun: a sequence number, a count, a barrier, acknowledgements, children, a gather (R50) -/
  | sync
  /-- waits at an ACQ for the object at a byte of block memory or scratchpad (R28): exclusive or not, the crew's clock
  and the step at which the wait began -/
  | acquire (excl : Bool) (spad : Bool) (addr : Nat) (clock : DWord) (since : Nat)
  /-- waits at a JOIN (R50) -/
  | join
  /-- waits for a time (R139) -/
  | time (t : DWord)
  /-- waits for a light start (R344) -/
  | light (t : DWord)
  /-- waits for a remote response (R356, R357) -/
  | remote
  deriving DecidableEq, Repr

/-- The JOIN recorded in a stack entry (R50 step 1). -/
structure JoinRec where
  spc : Nat
  lpc : Nat
  mask : LaneMask
  members : LaneMask
  banked : List (Nat × Word)
  deriving DecidableEq, Repr

/-- An entry of the reconvergence stack (R48, R49). -/
structure StackEntry where
  owner : Nat
  taken : LaneMask
  spc : Nat
  lpc : Nat
  fmtr : Word
  banked : List (Nat × Word)
  join : Option JoinRec
  deriving DecidableEq, Repr

/-- A split of a crew (R47). -/
structure Split where
  live : Bool
  /-- SPC, a byte offset in .scalar. -/
  spc : Nat
  /-- LPC, a byte offset in .lane. -/
  lpc : Nat
  /-- FMTR, 32 bits (R88). -/
  fmtr : Word
  members : LaneMask
  /-- m0, m1 and m2 as one 96-bit activity mask (R41, R53). -/
  mask : LaneMask
  /-- s16 to s31. -/
  banked : List (Nat × Word)
  wait : Wait
  /-- The split runs the path of its top stack entry (R50). -/
  onPath : Bool
  /-- Entries a part-way LRUN has still to enqueue (R43); none when no LRUN is part-way. -/
  lrunLeft : Option Nat
  /-- Repeat state of a completed REP prefix whose instruction is not enqueued yet (R44). -/
  pendingRep : Option RepState
  /-- The cohort and generation of a barrier at which the split has arrived and not gone on (R61, R37). -/
  bar : Option (Nat × Word)
  deriving DecidableEq, Repr

/-- A split number that is free. -/
def Split.free : Split := ⟨false, 0, 0, 0, 0, 0, [], .none, false, none, none, none⟩

/-- An entry of the reduction result ring (R152). -/
structure RingEntry where
  seq : BitVec 16
  val : DWord
  poison : Bool
  deriving DecidableEq, Repr

/-- An entry of the store window (R23): 64-byte granule of block memory or own-die scratchpad, data, byte mask, bound mark. -/
structure WinEntry where
  spad : Bool
  granule : Nat
  data : BitVec 512
  mask : BitVec 64
  bound : Bool
  deriving DecidableEq, Repr

/-- A buffered atomic of a deterministic launch (R36). -/
structure Buffered where
  spad : Bool
  addr : Nat
  /-- Integer type code of R78, or 16 plus the floating format code for ATF. -/
  ty : Nat
  op : BitVec 3
  operand : DWord
  rnd : Nat
  /-- The rounding draw of RSTO. -/
  draw : BitVec 16
  fmtr : Word
  lane : Nat
  deriving DecidableEq, Repr

/-- The first read of a location, of a number of bytes, since the last flush point (R36). -/
structure FirstRead where
  spad : Bool
  addr : Nat
  bytes : Nat
  val : DWord
  deriving DecidableEq, Repr

/-- The trap registers and what a trap sets aside (R201 to R208). -/
structure TrapState where
  cause : Word
  spc : Nat
  lpc : Nat
  run : Word
  addr : Word
  opnd : Word
  /-- TRAPAHI (R348). -/
  addrHi : Word
  /-- The handler bit (R206). -/
  handler : Bool
  /-- The split that trapped. -/
  split : Nat
  /-- The held entries, in queue order (R203). -/
  held : List LaneEntry
  savedMask : LaneMask
  savedFmtr : Word
  savedLpc : Nat
  savedRep : Option RepState
  /-- The remainder of a part-way LRUN and the SPC at which it stands (R203). -/
  savedLrun : Option Nat
  savedSpc : Nat
  deriving DecidableEq, Repr

/-- No trap taken yet. -/
def TrapState.reset : TrapState := ⟨0, 0, 0, 0, 0, 0, 0, false, 0, [], 0, 0, 0, none, none, 0⟩

/-- A remote request of a crew's split that is not complete (R356, R357, R386). -/
structure CrewReq where
  split : Nat
  spc : Nat
  reqid : DWord
  firstSend : DWord
  /-- The request writes memory and is no atomic: an XMEM.st (R29). -/
  write : Bool
  /-- The response, once it has arrived. -/
  response : Option Packet
  /-- Parked across a switch (R386). -/
  parked : Bool
  deriving DecidableEq, Repr

/-- A crew in its slot. -/
structure Crew where
  /-- A crew runs in the slot. -/
  live : Bool
  /-- The catch or a sprint holds the crew (R377, R395). -/
  caught : Bool
  /-- A number no other crew of the run has. -/
  uid : Nat
  job : Nat
  /-- The launch whose image and tables the crew uses. -/
  launch : Nat
  /-- The launch that gives it its trap vector, its deterministic bit and its privilege: its own, or that of the graph whose
  node it serves (R298). -/
  under : Nat
  part : Nat
  /-- Block index; 2^26 + node id for the crew of a TASK node (R42, R298). -/
  block : Nat
  /-- Crew index in the block, 0 to 15 (R42). -/
  index : Nat
  /-- The graph handle and the id of the node the crew serves (R307). -/
  handle : Nat
  node : Nat
  /-- ARG, X, Y, Z and GEN of the node (R296). -/
  arg : DWord
  tileX : BitVec 16
  tileY : BitVec 16
  tileZ : BitVec 16
  gen : BitVec 16
  /-- Block-memory allocation: byte offset in the core and bytes (R55). -/
  bmemLo : Nat
  bmemLen : Nat
  /-- Spill stack of the crew: base and top as offsets in the allocation (R55). -/
  spillLo : Nat
  spillHi : Nat
  /-- Scratchpad rows of the block (R127). -/
  rows : Nat
  /-- The 96 lanes. -/
  lanes : List LaneState
  /-- s1 to s15 (R47); s0 is never listed. -/
  shared : List (Nat × Word)
  /-- sp0 to sp7 (R143). -/
  sp : BitVec 8
  /-- FSUM (R87). -/
  fsum : BitVec 6
  /-- SPP, an offset in the allocation (R155). -/
  spp : Nat
  /-- The logical clock (R65). -/
  clock : DWord
  /-- REDSEQ and REDDONE (R152). -/
  redSeq : BitVec 16
  redDone : BitVec 16
  /-- The reduction result ring, newest first, at most four entries. -/
  ring : List RingEntry
  /-- JCNT (R309). -/
  jcnt : Nat
  /-- Children that ended CANCELLED since the last JNWT or YIELD.jn (R310). -/
  cancelled : Nat
  /-- The largest clock with which a counted child ended (R65). -/
  childClock : DWord
  /-- ASYNCF, a bit per Q code (R155). -/
  asyncf : BitVec 7
  /-- Release objects of the crew's retired entries: queue, space, absolute address (R233). -/
  relFailed : List (Nat × Bool × Nat)
  /-- FLTQ (R155). -/
  fltq : BitVec 8
  /-- SLIP (R155). -/
  slip : Word
  /-- BNDOBJ, BNDBASE, BNDLEN and the error bit of BNDCMD (R155, R156). -/
  bndObj : Word
  bndBase : Word
  bndLen : Word
  bndErr : Bool
  /-- The lane queue, head first (R43). -/
  laneQ : List LaneEntry
  /-- Long-latency producers whose values have not all arrived (R107). -/
  inflight : List Inflight
  /-- Splits 0 to 3. -/
  splits : List (Nat × Split)
  /-- The reconvergence stack, top first (R49). -/
  stack : List StackEntry
  /-- The store window, oldest allocation first (R23). -/
  window : List WinEntry
  /-- Buffered atomics, in issue order, and the first reads of their locations (R36). -/
  buffered : List Buffered
  firstReads : List FirstRead
  trap : TrapState
  /-- Remote requests in flight and the REQID counter (R357). -/
  reqs : List CrewReq
  reqCounter : Word
  /-- XPUT entries of the crew whose targets have not all acknowledged (R29, R40). -/
  unacked : Nat
  /-- The exit status so far (R138) and, after the end, the status word (R211). -/
  status : Word
  /-- The crew waits in a synchronising operation that it has begun (R65). -/
  inSync : Bool
  deriving DecidableEq, Repr

/-- A slot where no crew has started: every register at zero, lanes full and without poison. -/
def Crew.empty : Crew :=
  { live := false, caught := false, uid := 0, job := 0, launch := 0, under := 0, part := 0, block := 0, index := 0, handle := 0,
    node := 0, arg := 0, tileX := 0, tileY := 0, tileZ := 0, gen := 0, bmemLo := 0, bmemLen := 0, spillLo := 0,
    spillHi := 0, rows := 0, lanes := [], shared := [], sp := 0, fsum := 0, spp := 0, clock := 0,
    redSeq := 0, redDone := 0, ring := [], jcnt := 0, cancelled := 0, childClock := 0, asyncf := 0, relFailed := [], fltq := 0, slip := 0, bndObj := 0,
    bndBase := 0, bndLen := 0, bndErr := false, laneQ := [], inflight := [], splits := [], stack := [], window := [],
    buffered := [], firstReads := [], trap := .reset, reqs := [], reqCounter := 0, unacked := 0, status := 0,
    inSync := false }

/-- A participant's contribution to a collective (R361). -/
structure Contribution where
  gen : Nat
  block : Nat
  /-- Bytes 0 to 15 of its descriptor. -/
  desc : List Byte
  data : List (Byte × Bool)
  /-- The participant has received its result. -/
  taken : Bool
  deriving DecidableEq, Repr

/-- A cohort-table entry (R59). -/
structure Cohort where
  total : Nat
  localCrews : Nat
  npkg : Nat
  /-- SCOPE: code of R21. -/
  scope : BitVec 3
  valid : Bool
  spans : Bool
  depart : Nat
  plist : DWord
  gen : Word
  arrive : Nat
  /-- Crews (by uid) that have arrived at the current generation, and the largest clock that any held (R65). -/
  arrived : List Nat
  maxClock : DWord
  /-- The largest clock of a departed crew, and the clock of the last completed barrier (R65). -/
  departClock : DWord
  doneClock : DWord
  /-- COLLs issued by each block, and the contributions of the blocks on this package (R361). -/
  collIssued : List (Nat × Nat)
  /-- The block of each crew that has ended. -/
  gone : List Nat
  contribs : List Contribution
  deriving DecidableEq, Repr

/-- A binding of the launch's binding table (R27): object and region as space and byte offset. An entry counts once for the
launch; in block memory it names these offsets of every block's own allocation, in scratchpad those of the crew's own die
(log entry 112). -/
structure Binding where
  objSpad : Bool
  objOff : Nat
  regSpad : Bool
  regOff : Nat
  granules : Nat
  deriving DecidableEq, Repr

/-- A launch of a job: the loader's image and the tables its crews share. -/
structure Launch where
  spec : JobSpec
  /-- The sections .scalar and .lane: byte memory and length. -/
  scalar : Memory
  scalarLen : Nat
  lane : Memory
  laneLen : Nat
  /-- Scratchpad offset of the .sdata image, and the dies that hold it (R127). -/
  sdataAt : Nat
  sdataDies : List Nat
  /-- The cohort table, by index (R59). -/
  cohorts : List (Nat × Cohort)
  bindings : List Binding
  deriving DecidableEq, Repr

/-- The record of no launch. -/
def Launch.none : Launch :=
  { spec := { job := 0, blocks := 0, crews := 0, bmem := 0, spill := 0, srows := 0, trap := 0, det := false,
              priv := false, entrySpc := 0, entryLpc := 0, scalarBytes := [], laneBytes := [], data := [], dataAt := 0,
              sdata := [], bdata := [], relocs := [], graph := Option.none, cohorts := [], pgroup := [], binds := [],
              troot := 0, faultQueues := [], recordAt := Option.none, logging := false },
    scalar := [], scalarLen := 0, lane := [], laneLen := 0, sdataAt := 0, sdataDies := [], cohorts := [], bindings := [] }

/-- A job context (R398, R406). -/
structure Job where
  present : Bool
  part : Nat
  troot : Nat
  heatno : Word
  /-- Fault queues: number and HBM address of the ring header (R234). -/
  faultQueues : List (Nat × Nat)
  /-- Handle 0 to 63 of the launch's own graph (R294). -/
  handle : Nat
  /-- Last marked checkpoint step (R376). -/
  lastStep : Option Word
  /-- The open gather: crews (uid) that have arrived, with the step each names. -/
  gather : List (Nat × Word)
  /-- The largest clock with which a crew arrived at it, and with which a crew of the job ended (R65). -/
  gatherClock : DWord
  endClock : DWord
  /-- Results of a gather not yet read by the crews that arrived, with the clock of the gather. -/
  gatherDone : List (Nat × Word × DWord)
  /-- CKSTEP and CKINFO (R421). -/
  ckStep : Word
  restored : Bool
  /-- Fibre groups held by the job's partition under LNK (R344). -/
  holds : List Nat
  /-- Ordering log (R422). -/
  logging : Bool
  deriving DecidableEq, Repr

/-- No job context. -/
def Job.none : Job := ⟨false, 0, 0, 0, [], 0, Option.none, [], 0, 0, [], 0, false, [], false⟩

/-- How far an engine entry has come. -/
inductive EntryState where
  | queued
  | running
  /-- its data has moved, or its steps are done; it may complete -/
  | moved
  | complete
  | faulted
  deriving DecidableEq, Repr

/-- The bytes of a 64-byte granule that a copy entry has written clean, in several writes: space (0 block memory,
1 scratchpad, 2 accumulators, 3 clause cells, 4 HBM), granule, a bit for each byte (R231, R292). -/
structure CleanMask where
  space : Nat
  granule : Nat
  mask : BitVec 64
  deriving DecidableEq, Repr

/-- An entry of an engine queue. -/
structure QEntry where
  ticket : Word
  /-- Slot and uid of the issuing crew; uid 0 for a graph-issued entry. -/
  slot : Nat
  uid : Nat
  /-- CREWINFO and block index of the issuer, its job, and whether it runs privileged. -/
  origin : Word
  block : Nat
  job : Nat
  /-- The launch whose record names the fault queues (R234). -/
  launch : Nat
  priv : Bool
  /-- Handle and node id of a graph-issued entry. -/
  node : Option (Nat × Nat)
  fq : BitVec 8
  /-- The issuer's logical clock at the issue (R65). -/
  clock : DWord
  /-- Opcode and FN of the issuing word (R290). -/
  opcode : BitVec 6
  fn : BitVec 7
  /-- Scalar address of the record, image or descriptor. -/
  arg : Word
  /-- The record or descriptor as the engine took it. -/
  recd : List Byte
  /-- The release object the entry names, as the engine took it: space and absolute address (R12). -/
  rel : Option (Bool × Nat)
  /-- The step at which the entry was issued: the order of issue over queues (R248, R308). -/
  since : Nat
  /-- Tickets of other queues that a QFNC places before the entry (R31). -/
  after : List (Nat × Word)
  state : EntryState
  cause : Nat
  faultAddr : DWord
  /-- Remote DETAIL of a cause 9 (R235). -/
  rdet : Nat
  prog : Nat
  /-- The compressed-stream position of DCPY, the row block of a redundant task. -/
  prog2 : Nat
  /-- Conversion or collective flags gathered so far (R217, R360). -/
  flags : BitVec 6
  /-- REQIDs of requests in flight, and the responses that have arrived and are not used yet. -/
  pending : List DWord
  resp : List Packet
  /-- REQIDs of requests given up at a switch, by index, to be used again (R386). -/
  again : List (Nat × DWord)
  /-- The issuing crew's block-memory allocation, as an offset in the core and bytes (R221). -/
  bmemLo : Nat
  bmemLen : Nat
  /-- Bytes fetched from a remote window, with their poison: compressed input of DCPY, operands of a tile task. -/
  buf : List (Byte × Bool)
  /-- Core of a tile task: the issuing core, then the core whose engine runs it. -/
  engine : Nat
  /-- Values the engine read at the start: source rows and tensor scales of a tile task. -/
  rows : List Nat
  /-- The clause array as a copy has read it, granule by granule, with its poison, from the entry's first one on (R288). -/
  cells : List (Byte × Bool)
  /-- The ring header of a tile task as the engine read it at the start (R250). -/
  ring : List Byte
  /-- Destination granules of a copy that it has written clean in part; of clause cells also those written whole. -/
  clean : List CleanMask
  deriving DecidableEq, Repr

/-- An engine queue (R12). -/
structure Queue where
  /-- The issue count. -/
  issue : Word
  /-- The sequence value S. -/
  seq : Word
  ents : List QEntry
  /-- The issuer's logical clock at each issue, by ticket, newest first (R65). -/
  clocks : List (Word × DWord)
  deriving DecidableEq, Repr

/-- A queue with nothing issued. -/
def Queue.empty : Queue := ⟨0, 0, [], []⟩

/-- An entry of the scale FIFO (R256). -/
structure ScaleEntry where
  fmt : BitVec 5
  tensor : Bool
  val : Word
  deriving DecidableEq, Repr

/-- A batch of the scale FIFO: its entries still in the FIFO, whether it is closed, queue and ticket of the task that took it,
entries that have left, and whether the rest is discarded after a fault. -/
structure ScaleBatch where
  ents : List ScaleEntry
  closed : Bool
  taker : Option (Nat × Word)
  used : Nat
  dropped : Bool
  deriving DecidableEq, Repr

/-- What a partition keeps on a core: the queues of R11, the graph queues of R308, index slots and scale FIFO. -/
structure QSet where
  /-- Queues by code: 0 to 3 cq0 to cq3, 4 mq, 5 aq, 6 xq, 7 graph copy, 8 graph array; in the set of a die, 9 graph matrix
  and 10 graph collectives. -/
  queues : List (Nat × Queue)
  /-- QFNC fences: the mask and the issue counts it found (R31). -/
  fences : List (BitVec 7 × List (Nat × Word))
  /-- Index slots: key 128 × slot + entry (R253). -/
  slots : List (Nat × Word)
  fifo : List ScaleBatch
  deriving DecidableEq, Repr

/-- Nothing issued. -/
def QSet.empty : QSet := ⟨[], [], [], []⟩

/-- A task entry of a TQU bank or of a prefetch buffer (R303). -/
structure Task where
  part : Nat
  handle : Nat
  node : Nat
  /-- The block a LAUNCH entry gives next, or the block taken. -/
  block : Nat
  /-- Priority class now. -/
  cls : Nat
  /-- The step of entry into the bank, and the time base at which the wait in this class began (R305). -/
  entered : Nat
  waited : DWord
  /-- One block that a catch has sent back from a prefetch buffer (R16). -/
  one : Bool
  deriving DecidableEq, Repr

/-- The writes of a copy entry into a 64-byte granule of the clause array, waiting for a boundary (R288). -/
structure ClauseGranule where
  addr : Nat
  /-- Bytes with their poison, by offset in the granule. -/
  bytes : List (Nat × (Byte × Bool))
  /-- Queue set, queue and ticket of the entry that writes it, and whether it waits until the entry has read all: a copy
  onto itself (R224), or one whose order of writes is not ascending. -/
  key : Nat
  q : Nat
  ticket : Word
  whole : Bool
  deriving DecidableEq, Repr

/-- A training step in progress, kept from the moment that something meets it (R287, R289, R293): the cells that it
changes (clause, slot, new value), and whether a word was found uncorrectable in its sweep. -/
structure Stepping where
  cells : List (Nat × Nat × Nat)
  bad : Bool
  deriving DecidableEq, Repr

/-- Phase of a partition's part of a core at a switch (R377 to R390). -/
inductive Phase where
  | running
  | caught
  | saved
  | drained
  | restored
  /-- the switch is over and no job has come in (R368, R384) -/
  | idle
  deriving DecidableEq, Repr

/-- A core's engines and settings. -/
structure Core where
  /-- REGCAP and REGMAP (R68). -/
  regcap : Word
  regmap : Word
  /-- Accumulator status words of slots 0 to 3 (R241). -/
  accStatus : List (Nat × Word)
  /-- The partition that holds the pinned tiles (R240) and the one that owns the clause array (R268). -/
  pinOwner : Option Nat
  arrayOwner : Option Nat
  /-- The tile task the engine runs: queue set key, queue code, ticket. -/
  tile : Option (Nat × Nat × Word)
  /-- CAC, SEED, STEP and the feedback table (R269, R271, R272). -/
  cac : DWord
  seed : Word
  stepCount : Word
  table : Memory
  stepping : Option Stepping
  granules : List ClauseGranule
  /-- The two-entry prefetch buffer (R304) and the partition served last. -/
  prefetch : List Task
  lastPart : Nat
  /-- A sprint holds the core: its heat number (R394). -/
  sprint : Option Word
  deriving DecidableEq, Repr

/-- A core before any assignment. REGCAP and REGMAP show six slots on every seat (log entry 5). -/
def Core.reset : Core :=
  { regcap := 0x00000DB6, regmap := 0x00FFFFFF, accStatus := [], pinOwner := none, arrayOwner := none, tile := none, cac := 0,
    seed := 0, stepCount := 0, table := [], stepping := none, granules := [], prefetch := [],
    lastPart := 0, sprint := none }

/-- State of a graph node (R296). -/
inductive NodeState where
  | wait
  | ready
  | running
  | done
  | faulted
  | cancelling
  | cancelled
  | retryWait
  deriving DecidableEq, Repr

/-- A node in a GS slot (R299). -/
structure Node where
  id : Nat
  /-- A number no other node of the run has: an id of a spawned task is used again (R309). -/
  uid : Nat
  kind : Nat
  state : NodeState
  prio : Nat
  budget : Nat
  attempt : Nat
  npred : Nat
  /-- FLAGS: SPAWNED, RELOBJ, PINCORE. -/
  flags : BitVec 8
  entry : DWord
  arg : DWord
  tileX : BitVec 16
  tileY : BitVec 16
  tileZ : BitVec 16
  gen : BitVec 16
  arrived : DWord
  remaining : Nat
  /-- Join total (R309). -/
  join : Nat
  /-- Successors (target id, slot) in the order of R297. -/
  succs : List (Nat × Nat)
  /-- Virtual address of the record; none for a spawned task or the launch's own node. -/
  record : Option Nat
  link : Word
  /-- Slot and uid of the parent crew, parent id, for a spawned task. -/
  parent : Option (Nat × Nat × Nat)
  /-- Slot number of a spawned id. -/
  gsSlot : Nat
  /-- Crews of the node that live and that have ended (uid), and blocks not placed. -/
  crews : List Nat
  past : List Nat
  blocksLeft : Nat
  /-- In a TQU bank, a prefetch buffer or an engine queue. -/
  entered : Bool
  /-- The step at which the node became READY (R303, R308). -/
  since : Nat
  /-- The largest clock with which a crew of the node ended (R65). -/
  endClock : DWord
  /-- Faults of the node's crews, entry or issue check that the scheduler has not taken yet: cause, and exit status or
  ticket (R314, R324). -/
  faults : List (Nat × Word)
  deriving DecidableEq, Repr

/-- A cone (R315 to R323). -/
structure Cone where
  head : Nat
  headUid : Nat
  /-- The walk's list, in order, as (id, uid), and how many are visited. -/
  members : List (Nat × Nat)
  visited : Nat
  /-- Visited members that have not been re-armed since (R321, R323). -/
  held : List (Nat × Nat)
  quiet : Bool
  /-- none while pending; true when retried, false when abandoned. -/
  resolved : Option Bool
  cause : Nat
  deriving DecidableEq, Repr

/-- A graph under its handle (R294, R312). -/
structure Graph where
  /-- GSTATE: 0 free, 1 loading, 2 running, 3 DONE, 4 PARTIAL, 6 load failed. -/
  gstate : Nat
  faultSeen : Bool
  dupTok : Bool
  nodes : List Node
  cones : List Cone
  fq : BitVec 8
  tbmem : Nat
  tspill : Nat
  doneObj : Option (Bool × Nat)
  /-- Launch that gives the crews their trap vector, deterministic bit and privilege. -/
  launch : Nat
  job : Nat
  /-- NCNT and NBASE of the four dies and OBASE while loading (R295). -/
  ncnt : List Nat
  nbase : List Nat
  obase : Nat
  deriving DecidableEq, Repr

/-- A free handle. -/
def Graph.free : Graph := ⟨0, false, false, [], [], 0, 0, 0, none, 0, 0, [], [], 0⟩

/-- A completion token on its way (R300). -/
structure Token where
  part : Nat
  handle : Nat
  target : Nat
  slot : Nat
  deriving DecidableEq, Repr

/-- A die's GS and TQU state. -/
structure Die where
  tokens : List Token
  /-- TQU banks: the tasks of all partitions, in order of entry (R303). -/
  bank : List Task
  /-- The partition whose tile task the matrix task scheduler started last (R248). -/
  served : Nat
  deriving DecidableEq, Repr

/-- A die with nothing queued. -/
def Die.empty : Die := ⟨[], [], 15⟩

/-- A partition (R406, R407). -/
structure Partition where
  ready : Bool
  sprint : Bool
  quotas : List QuotaSpec
  sets : List Nat
  deriving DecidableEq, Repr

/-- No partition. -/
def Partition.none : Partition := ⟨false, false, [], []⟩

/-- A cached translation (R403). -/
structure TlbEntry where
  /-- The cache that holds it: a core's, 0 to 255, or a die's, 256 to 259. -/
  cache : Nat
  part : Nat
  troot : Nat
  base : Nat
  size : Nat
  page : Nat
  read : Bool
  write : Bool
  deriving DecidableEq, Repr

/-- A table entry in a die's walk cache: die, partition, TROOT, its offset and its eight bytes (R403). -/
structure WalkEntry where
  die : Nat
  part : Nat
  troot : Nat
  at' : Nat
  value : Nat
  deriving DecidableEq, Repr

/-- An entry of a peer table (R346). -/
structure PeerEntry where
  valid : Bool
  relay : Bool
  wtid : Nat
  deriving DecidableEq, Repr

/-- An entry of a window table (R347). -/
structure Window where
  base : Nat
  size : Nat
  perm : BitVec 8
  heatf : BitVec 16
  loc : BitVec 8
  /-- The reserved bytes 13 to 15. -/
  res : Nat
  deriving DecidableEq, Repr

/-- A window entry that was never written. -/
def Window.none : Window := ⟨0, 0, 0, 0, 0, 0⟩

/-- A fibre group (R340, R345). -/
structure Group where
  lit : Nat
  tgt : Nat
  /-- 0 steady, 1 squaring, 2 feathering, 3 squaring deferred. -/
  state : Nat
  /-- Of the running change: 0 lighting, 1 ready for the width handshake, 2 in the handshake (R341, R342). -/
  stage : Nat
  /-- Partitions that hold the group. -/
  holders : List Nat
  /-- Time base at which the current stage of a change began, and from which FHOLD counts: when the depth became zero, or
  a squaring completed. -/
  since : DWord
  idleAt : DWord
  /-- WTHR, FHOLD in ns, FMIN (R340). -/
  wthr : Nat
  fhold : Nat
  fmin : Nat
  deriving DecidableEq, Repr

/-- A fibre group with every wavelength lit and its parameters at their defaults (R340; log entry 5). -/
def Group.reset : Group := ⟨8, 8, 0, 0, [], 0, 0, 32, 25600, 2⟩

/-- A link-control beat (R334): lit width, free ingress buffer for each VC code, ACK, and the time it was sent. -/
structure Beat where
  width : Nat
  space : List (Nat × Nat)
  ack : Word
  time : DWord
  deriving DecidableEq, Repr

/-- The link of a fibre in one matching (R334). -/
structure Link where
  /-- A valid link-control beat has arrived in this slot's setup, and the setup is over. -/
  heard : Bool
  isOver : Bool
  /-- The far end's lit width. -/
  width : Nat
  /-- Free space at the far end for each VC code: what is left of it, and as last advertised (R334, R338). -/
  space : List (Nat × Nat)
  shown : List (Nat × Nat)
  /-- LSEQ of the next flit to send, and of the last received in order. -/
  lseq : Nat
  lastIn : Word
  /-- Flits sent in this light and not acknowledged, oldest first; those left over by the last light. -/
  unacked : List Flit
  old : List Flit
  /-- Flits routed to the link and not yet sent. -/
  queue : List Flit
  /-- VC that must send next (R337). -/
  starved : Option Nat
  /-- Time since which each VC has a flit ready; a VC that is not listed has none (R337). -/
  readyAt : List (Nat × DWord)
  /-- Link-control beats sent in this slot, newest first. -/
  beats : List Beat
  /-- End of the last flit sent in this slot, in sevenths of a ns (R333), and its beats: wavelength and bytes. -/
  freeAt : Nat
  wire : List (Nat × List Byte)
  /-- The last ACK heard in this light, and LSEQ of the next flit when it came (R335; log entry 123). -/
  lastAck : Word
  ackMark : Nat
  deriving DecidableEq, Repr

/-- A link over which nothing has passed. -/
def Link.dark : Link :=
  { heard := false, isOver := false, width := 0, space := [], shown := [], lseq := 0, lastIn := 0xFFFFFFFF, unacked := [],
    old := [], queue := [], starved := none, readyAt := [], beats := [], freeAt := 0, wire := [], lastAck := 0xFFFFFFFF
    ackMark := 0 }

/-- The route chosen for a packet whose first flit has left egress (R338): its stream, 8 × destination + VC, the FSEQ of
that flit, and the relay peer + 1, or 0 for direct. -/
structure Route where
  stream : Nat
  first : Word
  via : Nat
  deriving DecidableEq, Repr

/-- A TIM flit with its ingress timestamp, in 2^-16 ns, and the fibre it came by (R343). -/
structure Stamped where
  fibre : Nat
  flit : Flit
  stamp : Nat
  deriving DecidableEq, Repr

/-- An outstanding request of the package (R353). -/
structure Req where
  reqid : DWord
  packet : Packet
  /-- Busy answers so far (R352). -/
  busy : Nat
  /-- Time base at the last restart of the timer; none while the timer is stopped. -/
  timer : Option DWord
  waitingRetry : Bool
  probed : Bool
  /-- 0 a crew's word, 1 a copy entry, 2 a tile task, 3 an xq entry, 4 a publication of the host die, whose ticket is the
  SEQ and whose index the member; then queue set key, queue code, ticket. -/
  origin : Nat
  qset : Nat
  q : Nat
  ticket : Word
  /-- Index of the data in its entry: source offset, or target number. -/
  index : Nat
  deriving DecidableEq, Repr

/-- A response kept in the completion cache (R354). -/
structure Cached where
  die : Nat
  reqid : DWord
  response : Packet
  time : DWord
  deriving DecidableEq, Repr

/-- The fabric units of the package. -/
structure Fabric where
  /-- Own peer number (R155). -/
  peer : Nat
  /-- Rotor map: key 8 × fibre + matching gives peer + 1; unlisted pairs are dark (R331). -/
  rotor : List (Nat × Nat)
  /-- The maps of the domain's other packages: key 4096 × package + peer gives the matching + 1 that links them. -/
  domain : List (Nat × Nat)
  /-- Slot k of the rotor timetable. -/
  slot : Nat
  /-- Light is on in this slot. -/
  light : Bool
  groups : List (Nat × Group)
  /-- Links: key 8 × fibre + matching. -/
  links : List (Nat × Link)
  /-- Flits that enter egress, oldest first. -/
  egress : List Flit
  /-- Routes of the packets of which a flit is still kept. -/
  routes : List Route
  /-- Next FSEQ of each stream, key 8 × destination + VC. -/
  fseq : List (Nat × Nat)
  /-- FSEQ values accepted from each stream, key 8 × source + VC. -/
  accepted : List (Nat × List Nat)
  /-- Ingress buffers: flits received and not yet moved on, with the fibre, oldest first (R336). -/
  ingress : List (Nat × Flit)
  /-- Flits of packets that have not all arrived. -/
  partials : List Flit
  /-- Packets delivered and not yet served. -/
  inbox : List Packet
  /-- Relay buffer: flits stored for other packages (R339). -/
  relay : List Flit
  rthr : Nat
  /-- Delay corrections of the fibres that the firmware has loaded, in 2^-16 ns (R343). -/
  delays : List (Nat × Int)
  /-- Peer tables: key 4096 × partition + peer (R346). -/
  peers : List (Nat × PeerEntry)
  /-- Window tables: key 256 × table + window (R347). -/
  windows : List (Nat × Window)
  reqs : List Req
  reqCounter : Word
  /-- Completion caches of the dies (R354), oldest first. -/
  cache : List Cached
  /-- Held requests of heats that stand on the sheet (R388), in arrival order. -/
  held : List Packet
  /-- Collective data that has arrived: packets of KIND 0x0C. -/
  collective : List Packet
  /-- Last timestamp and message given to the time servo (R343). -/
  lastStamp : DWord
  /-- TIM flits delivered and not yet taken by the firmware. -/
  ptp : List Stamped
  deriving DecidableEq, Repr

/-- A heat sheet entry at a member (R367, R372). -/
structure SheetEntry where
  entry : HeatEntry
  /-- Cores of the own core map. -/
  cores : List Nat
  members : List Nat
  committed : Bool
  started : Bool
  void : Bool
  /-- Runs as idle on this member. -/
  idle : Bool
  deriving DecidableEq, Repr

/-- The starter's record of an entry that it published (R372). -/
structure Published where
  entry : HeatEntry
  members : List Nat
  /-- Members that have acknowledged; a NAK or a late ACK has arrived; COMMIT has been sent. -/
  acks : List Nat
  barred : Bool
  committed : Bool
  /-- Members to which the entry itself has not been sent yet: its maps go first (R365). -/
  owed : List Nat
  deriving DecidableEq, Repr

/-- A write into window 255 that has arrived and that the firmware has not looked at: its sender, offset, bytes, time. -/
structure SheetWrite where
  peer : Nat
  off : Nat
  len : Nat
  time : DWord
  deriving DecidableEq, Repr

/-- The time servo (R343, R363): the best clock announced (data set, peer, time), and by peer the path delay, the egress
timestamp of the last Pdelay_Req, those of the last Pdelay_Resp at both ends, in 2^-16 ns; the estimated offset. -/
structure Servo where
  best : Option (Nat × Nat × DWord)
  delays : List (Nat × Int)
  asked : List (Nat × Nat)
  answered : List (Nat × (Nat × Nat))
  offset : Option Int
  deriving DecidableEq, Repr

/-- A servo that has heard nothing. -/
def Servo.reset : Servo := ⟨none, [], [], [], none⟩

/-- A switch of one partition on one core that an entry has begun (R368, R390). -/
structure Switch where
  part : Nat
  core : Nat
  seq : Word
  /-- No job comes in; else whether it is restored or starts fresh. -/
  idle : Bool
  resume : Bool
  /-- Time base at the START, and the catch done. -/
  since : DWord
  begun : Bool
  deriving DecidableEq, Repr

/-- A heat that runs in a partition (R387). -/
structure Running where
  part : Nat
  heatno : Word
  job : Nat
  start : DWord
  finish : DWord
  seq : Word
  /-- Cores of the own core map. -/
  cores : List Nat
  /-- It has stopped running: the drain of its switch-out has begun (R387). -/
  stopped : Bool
  deriving DecidableEq, Repr

/-- A sprint (R391 to R397). -/
structure Sprint where
  grant : Grant
  cores : List Nat
  /-- Time base at its begin (R397), and the time at which its LIMIT is over. -/
  begun : DWord
  limit : DWord
  /-- Phases done on each claimed core: 1 caught, 2 accumulators drained, 3 traffic tagged and sprint crews placed, 4 ended. -/
  stages : List (Nat × Nat)
  /-- Partition + 1 that held the pinned tiles of each claimed core; 0 for none. -/
  pins : List (Nat × Nat)
  /-- Requests of caught crews, with the time that their timers had run. -/
  parked : List (DWord × DWord)
  deriving DecidableEq, Repr

/-- A message of the starter protocol (R370): KIND, the sender's epoch and peer, whether it is the starter's, heat number,
SEQ, and a value by KIND: (priority, peer) as 4096 × priority + peer, TSUSP, reason, or failing peer + 4096 × DETAIL. -/
structure Message where
  kind : BitVec 8
  epoch : DWord
  sender : Nat
  starter : Bool
  heat : Word
  seq : Word
  value : Nat
  toward : Nat
  deriving DecidableEq, Repr

/-- The clocks that a sync object's releases carried (R65): of the REL that last made it free, and of the release that
gave each COUNT, newest first. -/
structure ObjClock where
  free : DWord
  counts : List (Word × DWord)
  deriving DecidableEq, Repr

/-- An object that nothing has released. -/
def ObjClock.none : ObjClock := ⟨0, []⟩

/-- What the model keeps beside the bytes of a save area: what a byte of it has no place for, and the parts whose inner layout
the specification leaves open (R382, R383; log entry 92). -/
structure SavedArea where
  job : Nat
  die : Nat
  /-- Position of the core in the core map of its die (R385). -/
  pos : Nat
  part : Nat
  core : Nat
  heatno : Word
  /-- What the core held: its quota, and whether the partition held the pinned tiles and the clause array. -/
  quota : QuotaSpec
  pins : Bool
  array : Bool
  /-- Crews by slot of the core, queues of the core and of dies, the core's engine registers, graphs and bank of the die, with
  the cycles that each task has waited, sync object clocks of the core's block memory, parked requests with the time that
  their timers had run. -/
  crews : List (Nat × Crew)
  qset : QSet
  diesets : List (Nat × QSet)
  engines : Core
  graphs : List (Nat × Graph)
  bank : List (Task × Nat)
  objs : List (Nat × ObjClock)
  parked : List (Req × DWord)
  deriving DecidableEq, Repr

/-- Time base, heat sheet, starter and sprint. -/
structure Heat where
  /-- The time base, ns, and its fraction (R363). -/
  time : DWord
  fraction : BitVec 16
  tsusp : Bool
  /-- Corrections in a row within 100 ns (R364). -/
  steadyRuns : Nat
  servo : Servo
  /-- What the servo still has to slew, in 2^-16 ns (R364). -/
  slew : Int
  epoch : DWord
  starter : Nat
  priority : Nat
  /-- Least candidate heard in the epoch, and the time of the own first candidacy. -/
  candidate : Option (Nat × Nat)
  candidacyAt : Option DWord
  lastHeartbeat : DWord
  /-- Last heartbeat of each member, and the starter's next SEQ. -/
  memberBeats : List (Nat × DWord)
  nextSeq : Word
  /-- The starter's heat number of each job, and the last number drawn (R369). -/
  numbers : List (Nat × Option Word)
  lastNumber : Word
  arrivals : List SheetWrite
  sheet : List SheetEntry
  published : List Published
  switches : List Switch
  running : List Running
  sprint : Option Sprint
  /-- Time base at the last sprint's end (R397). -/
  sprintOver : DWord
  grants : List Grant
  /-- By SEQ of a sprint-window entry: the last GSEQ taken, and the last GSEQ that the starter has granted (R392, R393). -/
  lastGseq : List (Nat × Word)
  granted : List (Nat × Word)
  /-- Heats for which the starter has published an abort. -/
  aborted : List Word
  /-- Messages sent, oldest first. -/
  sent : List Message
  saved : List SavedArea
  /-- Save areas given: key 256 × job + 64 × die + position, value byte offset in the die's save region + 1 (R381). -/
  saveAt : List (Nat × Nat)
  deriving DecidableEq, Repr

/-- A unit as it was copied (R413, R415): partition offset, bytes, and its poisoned granules (R214). -/
structure UnitCopy where
  off : Nat
  bytes : List Byte
  poison : List Nat
  deriving DecidableEq, Repr

/-- A shard kept for a member (R418, R419). -/
structure Shard where
  /-- The 64-byte header, with the result of the copy in STATE. -/
  header : List Byte
  job : Nat
  step : Word
  peer : Nat
  troot : Nat
  units : List UnitCopy
  /-- Capacity in bytes of the partition that it was taken from (R420). -/
  capacity : Nat
  deriving DecidableEq, Repr

/-- A checkpoint copy of a job in progress on the package (R415). -/
structure Copying where
  job : Nat
  part : Nat
  step : Word
  troot : Nat
  /-- The time base at the mark. -/
  since : DWord
  /-- Leaf entries whose CK is set: offset of the entry, base and size of its page. -/
  leaves : List (Nat × Nat × Nat)
  /-- Units not copied yet, ascending partition offsets, with their size, and those copied. -/
  left : List (Nat × Nat)
  done : List UnitCopy
  deriving DecidableEq, Repr

/-- A record of the ordering log (R422), with the die whose ring holds it and the job that it belongs to. -/
structure LogRecord where
  die : Nat
  job : Nat
  clock : DWord
  origin : Word
  block : Word
  opc : BitVec 8
  kind : BitVec 8
  lane : BitVec 8
  heat : Word
  value : DWord
  deriving DecidableEq, Repr

/-- Checkpoint and replay. -/
structure Checkpoint where
  /-- The copies in progress, at most one of a partition. -/
  copying : List Copying
  /-- A write that waits for its unit's copy: partition, offset of the unit and the time since when (R415). -/
  waiting : List (Nat × Nat × DWord)
  shards : List Shard
  log : List LogRecord
  /-- The job that is replayed, when a replay runs, and the records still to come (R423). -/
  replay : Option (Nat × List LogRecord)
  /-- Target of a step backwards: crew slot and clock. -/
  stepBack : Option (Nat × DWord)
  /-- Records of a failed restore sent to the host-die operating system. -/
  reports : List (Nat × List Word)
  deriving DecidableEq, Repr

/-- A control block (R432). -/
structure ControlBlock where
  basic : Word
  expert : List (Nat × Word)
  /-- Expert writes accepted and not yet in effect, latest first. -/
  pending : List (Nat × Word)
  deriving DecidableEq, Repr

/-- A control block at preset 0, enabled: the specification gives no reset value (log entry 17). -/
def ControlBlock.reset : ControlBlock := ⟨1, [], []⟩

/-- Start, trust, power and the debug pins. -/
structure Boot where
  /-- The stage the start has reached, 1 to 8 (8: all stages have succeeded). -/
  stage : Nat
  minimal : Bool
  /-- FAILCNT in non-volatile storage (R430). -/
  failcnt : Nat
  /-- BOOTRSN (R431). -/
  bootrsn : Word
  /-- M0 to M15 (R428). -/
  measures : List (Nat × BitVec 256)
  /-- The last attestation report returned (R429). -/
  report : List Byte
  frozen : Bool
  /-- The debug-enable fuse (R426). -/
  debugFuse : Bool
  /-- The last value read at the test access port (R426). -/
  tap : DWord
  blocks : List (Nat × ControlBlock)
  /-- Cores reported unable to take sprints, for a seat without a slot (R58). -/
  noSprint : List Nat
  /-- Partitions reported for a channel or a row that failed to take the zero write (R411). -/
  unzeroed : List Nat
  /-- Level of each island in MHz, by island (R434). -/
  levels : List (Nat × Nat)
  /-- Voltage of each island in mV, by island (R20, R434). -/
  volts : List (Nat × Nat)
  /-- Samples taken, the module's power in the last 100 ms, newest first, in mW, and its sum (R436). -/
  samples : Nat
  window : List Nat
  energy : Nat
  /-- Microseconds in a row above 4,600 W. -/
  overload : Nat
  /-- Mapped and claimed cores whose islands may not be lowered (R435). -/
  raised : List Nat
  /-- The band size B of R409 in bytes. -/
  band : Nat
  /-- The last bytes read through CXL.mem (R433), and by the host die (R10). -/
  cxlData : List Byte
  hostData : List Byte
  /-- Correctable errors of clause cells counted in the host-die error log (R292). -/
  errors : Nat
  /-- Nanoseconds since reset release (R427). -/
  upTime : Nat
  deriving DecidableEq, Repr

/-- The memories of the package, with their poison. -/
structure Mem where
  /-- Block memory: key 2^18 × core + byte (R17). -/
  bmem : Memory
  /-- Poisoned granules of block memory: key byte ÷ 64 (R213). -/
  bmemPoison : List (Nat × Bool)
  /-- Tags of 8-byte words of block memory: key byte ÷ 8 (R194). -/
  tags : List (Nat × Bool)
  /-- Scratchpad: key 2^26 × die + byte. -/
  spad : Memory
  spadPoison : List (Nat × Bool)
  /-- Accumulator memory: key 2^18 × core + byte (R240). -/
  acc : Memory
  accPoison : List (Nat × Bool)
  /-- Clause cells: key 2^17 × core + byte (R267). -/
  cells : Memory
  /-- Poisoned clause rows: key 256 × core + clause (R292). -/
  rowPoison : List (Nat × Bool)
  /-- HBM: key 2^31 × channel + byte (R409). -/
  hbm : Memory
  hbmPoison : List (Nat × Bool)
  deriving DecidableEq, Repr

/-- Memories with nothing written. -/
def Mem.empty : Mem := ⟨[], [], [], [], [], [], [], [], [], [], []⟩

/-- What the host die does by its privileged path (R10). -/
inductive HostAccess where
  /-- Bytes written to HBM or a scratchpad, and n bytes read, at an absolute address. -/
  | store (spad : Bool) (addr : Nat) (bytes : List Byte)
  | load (spad : Bool) (addr n : Nat)
  /-- A control block's basic register or an expert register read, and BOOTRSN (R431, R432). -/
  | readBasic (block : Nat)
  | readExpert (block reg : Nat)
  | readReason
  /-- The 16 bytes of a peer-table entry and of a window-table entry written (R346, R347). -/
  | peerEntry (part peer : Nat) (bytes : List Byte)
  | windowEntry (table window : Nat) (bytes : List Byte)
  /-- The delay correction of a fibre loaded, in 2^-16 ns (R343). -/
  | fibreDelay (fibre : Nat) (delay : Int)
  /-- An IEEE 1588 message sent to a peer: a Sync, a Pdelay_Req, or an Announce of the own data set (R363). -/
  | sync (peer seq : Nat)
  | delayRequest (peer seq : Nat)
  | announce (peer : Nat)
  /-- The starter asked for entries from a SEQ on (R370). -/
  | askEntries (seq : Word)
  /-- The notice that every crew of a block on another package has ended (R362; log entry 128). -/
  | farDeparted (launch cohort block : Nat)
  deriving DecidableEq, Repr

/-- Who moves next. -/
inductive Turn where
  /-- An operation or event of an engine, the fabric, the timetable or the outside. -/
  | event (i : Instr)
  /-- The next scalar word of a split: crew slot and split number. -/
  | scalar (slot split : Nat)
  /-- The head of the lane queue of a crew slot. -/
  | lane (slot : Nat)
  /-- An access of the host die. -/
  | host (a : HostAccess)
  deriving DecidableEq, Repr

/-- The package. -/
structure State where
  /-- Crew slot and split in focus: the one whose word an executed instruction is. -/
  cur : Nat
  curSplit : Nat
  crews : List (Nat × Crew)
  launches : List (Nat × Launch)
  jobs : List (Nat × Job)
  mem : Mem
  /-- Clocks of sync objects: key 2 × absolute address, plus 1 in scratchpad. -/
  objs : List (Nat × ObjClock)
  cores : List (Nat × Core)
  /-- Queue sets: key 256 × partition + core; of a die, 4096 + 4 × partition + die. -/
  qsets : List (Nat × QSet)
  /-- Phases at a switch: key 256 × partition + core; unlisted keys are running. -/
  phases : List (Nat × Phase)
  parts : List (Nat × Partition)
  /-- Graphs: key 64 × partition + handle. -/
  graphs : List (Nat × Graph)
  dies : List (Nat × Die)
  tlb : List TlbEntry
  walks : List WalkEntry
  fabric : Fabric
  heat : Heat
  ckpt : Checkpoint
  boot : Boot
  /-- The next uid of a crew or a node. -/
  nextUid : Nat
  /-- The turns the outside and the interleaving give, first to last (log entry 1). -/
  agenda : List Turn
  /-- The model's own counter of steps and of free choices taken, no register of the package (log entries 2 and 12). -/
  steps : Nat
  choices : Nat
  deriving DecidableEq, Repr

/-- Why a step can stop. -/
inductive Fault where
  /-- Raised by step when the crew in focus lives and its launch is not in the state, so that there is no word to
  fetch. No run reaches such a state. Safe: the model stops. -/
  | noLaunchImage
  deriving DecidableEq, Repr

/-- Why an instruction has no meaning. -/
inductive Refusal where
  /-- Raised by an arm of exec whose instruction has no meaning yet. Safe: the model stops. -/
  | notModelled (mnemonic : String)
  deriving DecidableEq, Repr

/-- The fabric units after reset: no map, no window, no traffic (R331, R346, R347; log entry 5). -/
def Fabric.reset : Fabric :=
  { peer := 0, rotor := [], domain := [], slot := 0, light := false, groups := [], links := [], egress := [], routes := [],
    fseq := [], accepted := [], ingress := [], partials := [], inbox := [], relay := [], rthr := 1600, delays := [], peers := [],
    windows := [], reqs := [], reqCounter := 0, cache := [], held := [], collective := [],
    lastStamp := 0, ptp := [] }

/-- Time base, sheet and starter after reset (log entry 5). -/
def Heat.reset : Heat :=
  { time := 0, fraction := 0, tsusp := false, steadyRuns := 0, servo := .reset, slew := 0, epoch := 0, starter := 0, priority := 0,
    candidate := none, candidacyAt := none, lastHeartbeat := 0, memberBeats := [], nextSeq := 0, numbers := [], lastNumber := 0,
    arrivals := [],
    sheet := [], published := [], switches := [], running := [], sprint := none, sprintOver := 0, grants := [], lastGseq := [], granted := [], aborted := [], sent := [], saved := [],
    saveAt := [] }

/-- Checkpoint state after reset: nothing kept. -/
def Checkpoint.reset : Checkpoint := ⟨[], [], [], [], none, none, []⟩

/-- Start state after reset: stage 1, FAILCNT counted to 1, cause power-on, measurement registers cleared
(R427, R428, R430, R431; log entry 5). -/
def Boot.reset : Boot :=
  { stage := 1, minimal := false, failcnt := 1, bootrsn := 0, measures := [], report := [], frozen := false,
    debugFuse := false, tap := 0, blocks := [], noSprint := [], unzeroed := [], levels := [], volts := [], samples := 0, window := [],
    energy := 0, overload := 0, raised := [], band := 0x80000000, cxlData := [], hostData := [], errors := 0, upTime := 0 }

/-- The package right after reset: no partition, no crew, nothing queued, the start sequence at stage 1. -/
def State.reset : State :=
  { cur := 0, curSplit := 0, crews := [], launches := [], jobs := [], mem := .empty, objs := [], cores := [], qsets := [], phases := [],
    parts := [], graphs := [], dies := [], tlb := [], walks := [], fabric := .reset, heat := .reset, ckpt := .reset, boot := .reset,
    nextUid := 1, agenda := [], steps := 0, choices := 0 }

end Sys2Proof.Machine
end

