-- ==== Sys2Proof/Machine/Ops.lean ====
section
/-! DEFINITION. The named operations over registers, memories, store windows and queues, taking a trap, returning from
one, and ending a crew. Every instruction and engine acts through them. -/

namespace Sys2Proof.Machine

/-- What a step or an operation answers. -/
abbrev Result := Host.Outcome State Fault Refusal

/-- The entry at a key, if it is listed. -/
def mapFind {α : Type} : List (Nat × α) → Nat → Option α
  | [], _ => none
  | (k', v) :: rest, k => if k' = k then some v else mapFind rest k

/-- A truth as a 32-bit number. -/
def Word.ofBool (b : Bool) : Word := if b then 1 else 0

/-! ## Places -/

/-- Core of a crew slot, 0 to 255. -/
def slotCore (slot : Nat) : Nat := slot / 24
/-- Die of a crew slot. -/
def slotDie (slot : Nat) : Nat := slot / 24 / 64
/-- Seat of a crew slot (R41). -/
def slotSeat (slot : Nat) : Nat := slot % 24 / 6
/-- Slot on its seat. -/
def slotPos (slot : Nat) : Nat := slot % 6

/-! ## Crews, splits, registers -/

/-- The crew in a slot. -/
def State.crewAt (s : State) (slot : Nat) : Crew := mapGet Crew.empty s.crews slot
/-- The state with a crew put in a slot. -/
def State.setCrewAt (s : State) (slot : Nat) (c : Crew) : State := { s with crews := mapSet Crew.empty s.crews slot c }
/-- The crew in focus. -/
def State.crew (s : State) : Crew := s.crewAt s.cur
/-- The state with the crew in focus changed. -/
def State.setCrew (s : State) (c : Crew) : State := s.setCrewAt s.cur c
/-- The state with the crew in focus changed by f. -/
def State.updCrew (s : State) (f : Crew → Crew) : State := s.setCrew (f s.crew)
/-- A split of a crew. -/
def Crew.split (c : Crew) (k : Nat) : Split := mapGet Split.free c.splits k
/-- The crew with a split changed. -/
def Crew.setSplit (c : Crew) (k : Nat) (p : Split) : Crew := { c with splits := mapSet Split.free c.splits k p }
/-- The crew with a split changed by f. -/
def Crew.updSplit (c : Crew) (k : Nat) (f : Split → Split) : Crew := c.setSplit k (f (c.split k))
/-- The split in focus. -/
def State.split (s : State) : Split := s.crew.split s.curSplit
/-- The state with the split in focus changed by f. -/
def State.updSplit (s : State) (f : Split → Split) : State := s.updCrew fun c => c.updSplit s.curSplit f

/-- The number of a register as a key. -/
def regKey (r : RegNo) : Nat := r.toNat

/-- Reading s0 to s31 as split k sees them: s0 reads zero, s1 to s15 are shared, s16 to s31 banked (R47, R94). -/
def Crew.sreg (c : Crew) (k : Nat) (r : RegNo) : Word :=
  if r = 0 then 0
  else if r.toNat < 16 then mapGet 0 c.shared r.toNat
  else mapGet 0 (c.split k).banked r.toNat

/-- Writing s0 to s31: a write to s0 is discarded (R94). -/
def Crew.setSreg (c : Crew) (k : Nat) (r : RegNo) (v : Word) : Crew :=
  if r = 0 then c
  else if r.toNat < 16 then { c with shared := mapSet 0 c.shared r.toNat v }
  else c.updSplit k fun p => { p with banked := mapSet 0 p.banked r.toNat v }

/-- A register of the split in focus. -/
def State.sreg (s : State) (r : RegNo) : Word := s.crew.sreg s.curSplit r
/-- Writing a register of the split in focus. -/
def State.setSreg (s : State) (r : RegNo) (v : Word) : State := s.updCrew fun c => c.setSreg s.curSplit r v
/-- An even-odd pair, the low word in the even register (R94). -/
def State.spair (s : State) (r : RegNo) : DWord := s.sreg (r + 1) ++ s.sreg r
/-- Writing an even-odd pair. -/
def State.setSpair (s : State) (r : RegNo) (v : DWord) : State :=
  (s.setSreg r (v.extractLsb' 0 32)).setSreg (r + 1) (v.extractLsb' 32 32)
/-- Whether a register may name a pair. -/
def pairOk (r : RegNo) : Bool := !r.getLsbD 0

/-- The launch of a crew. -/
def State.launchOf (s : State) (c : Crew) : Launch := mapGet Launch.none s.launches c.launch
/-- The launch of the crew in focus. -/
def State.launch (s : State) : Launch := s.launchOf s.crew
/-- The record that gives a crew its trap vector, its deterministic bit and its privilege (R298). -/
def State.settingsOf (s : State) (c : Crew) : JobSpec := (mapGet Launch.none s.launches c.under).spec
/-- The same for the crew in focus. -/
def State.settings (s : State) : JobSpec := s.settingsOf s.crew
/-- A partition. -/
def State.partition (s : State) (p : Nat) : Partition := mapGet Partition.none s.parts p
/-- A core. -/
def State.core (s : State) (c : Nat) : Core := mapGet Core.reset s.cores c
/-- The state with a core changed by f. -/
def State.updCore (s : State) (c : Nat) (f : Core → Core) : State :=
  { s with cores := mapSet Core.reset s.cores c (f (s.core c)) }
/-- A job context. -/
def State.job (s : State) (j : Nat) : Job := mapGet Job.none s.jobs j
/-- The state with a job context changed by f. -/
def State.updJob (s : State) (j : Nat) (f : Job → Job) : State := { s with jobs := mapSet Job.none s.jobs j (f (s.job j)) }
/-- The quota of a partition on a core, if it has one (R407). -/
def State.quota (s : State) (p core : Nat) : Option QuotaSpec := (s.partition p).quotas.find? fun q => q.core == core
/-- A graph under its handle. -/
def State.graph (s : State) (key : Nat) : Graph := mapGet Graph.free s.graphs key
/-- The state with a graph changed by f. -/
def State.updGraph (s : State) (key : Nat) (f : Graph → Graph) : State :=
  { s with graphs := mapSet Graph.free s.graphs key (f (s.graph key)) }
/-- A node of a graph. -/
def Graph.node (g : Graph) (id : Nat) : Option Node := g.nodes.find? fun n => n.id == id
/-- The graph with a node changed by f. -/
def Graph.updNode (g : Graph) (id : Nat) (f : Node → Node) : Graph :=
  { g with nodes := g.nodes.map fun n => if n.id = id then f n else n }
/-- The state with a node changed by f. -/
def State.updNode (s : State) (key id : Nat) (f : Node → Node) : State := s.updGraph key fun g => g.updNode id f
/-- A die's scheduler and task queue unit. -/
def State.die (s : State) (d : Nat) : Die := mapGet Die.empty s.dies d
/-- The state with a die changed by f. -/
def State.updDie (s : State) (d : Nat) (f : Die → Die) : State := { s with dies := mapSet Die.empty s.dies d (f (s.die d)) }

/-- STATE codes of a node header (R296). -/
def NodeState.code : NodeState → Nat
  | .wait => 0 | .ready => 1 | .running => 2 | .done => 3 | .faulted => 4 | .cancelling => 5 | .cancelled => 6
  | .retryWait => 7

/-- The live header of a node (R296). -/
def Node.header (n : Node) : Word :=
  BitVec.ofNat 32 (n.kind % 16 + 16 * n.state.code + 256 * (n.prio % 4) + 1024 * (n.budget % 16) +
    16384 * (n.attempt % 16) + 262144 * (n.npred % 64) + 16777216 * n.flags.toNat)

/-! ## Completion of scalar words -/

/-- The split in focus goes on at a scalar byte offset; its word is complete and the logical clock advances (R65). -/
def State.jump (s : State) (spc : Nat) : State :=
  s.updCrew fun c => { c.updSplit s.curSplit fun p => { p with spc := spc, wait := .none } with clock := c.clock + 1 }

/-- The split in focus completes its word and goes on at the next (R132). -/
def State.done (s : State) : State := s.jump (s.split.spc + 4)

/-- The split in focus stays at its word (R132). -/
def State.stay (s : State) (w : Wait) : State := s.updSplit fun p => { p with wait := w }

/-- Completion of a waiting synchronisation: the clock becomes one more than the larger of the crew's own and the
clock of what satisfied it (R65). -/
def State.doneSync (s : State) (clk : DWord) : State :=
  let own := s.crew.clock
  (s.updCrew fun c => { c with clock := if own < clk then clk else own, inSync := false }).done

/-- sD := v and the word completes. -/
def State.write (s : State) (d : RegNo) (v : Word) : State := (s.setSreg d v).done

/-! ## Memories -/

/-- The memories an address of the package can lie in. -/
inductive Sp where
  | bmem | spad | acc | cells | hbm
  deriving DecidableEq, Repr

/-- Block memory or scratchpad, as the SPACE field tells them apart (R133). -/
def spOf (spad : Bool) : Sp := if spad then .spad else .bmem

/-- The bytes of a space. -/
def Mem.space (m : Mem) : Sp → Memory
  | .bmem => m.bmem | .spad => m.spad | .acc => m.acc | .cells => m.cells | .hbm => m.hbm

/-- The memories with the bytes of one space replaced. -/
def Mem.setSpace (m : Mem) (sp : Sp) (b : Memory) : Mem :=
  match sp with
  | .bmem => { m with bmem := b }
  | .spad => { m with spad := b }
  | .acc => { m with acc := b }
  | .cells => { m with cells := b }
  | .hbm => { m with hbm := b }

/-- The poison marks of a space: per 64-byte granule, per clause row of 512 bytes for clause cells (R213, R292). -/
def Mem.poison (m : Mem) : Sp → List (Nat × Bool)
  | .bmem => m.bmemPoison | .spad => m.spadPoison | .acc => m.accPoison | .cells => m.rowPoison | .hbm => m.hbmPoison

/-- The memories with the poison marks of one space replaced. -/
def Mem.setPoison (m : Mem) (sp : Sp) (p : List (Nat × Bool)) : Mem :=
  match sp with
  | .bmem => { m with bmemPoison := p }
  | .spad => { m with spadPoison := p }
  | .acc => { m with accPoison := p }
  | .cells => { m with rowPoison := p }
  | .hbm => { m with hbmPoison := p }

/-- The unit of a poison mark in bytes. -/
def poisonUnit (sp : Sp) : Nat := if sp = .cells then 512 else 64

/-- The byte at an absolute address of a space. -/
def Mem.byte (m : Mem) (sp : Sp) (a : Nat) : Byte := memGet (m.space sp) a
/-- n bytes from an absolute address. -/
def Mem.bytes (m : Mem) (sp : Sp) (a n : Nat) : List Byte := memBytes (m.space sp) a n
/-- The n-byte little-endian number at an absolute address. -/
def Mem.nat (m : Mem) (sp : Sp) (a n : Nat) : Nat := memNat (m.space sp) a n

/-- Whether any granule that [a, a + n) touches is poisoned, or, in block memory, any tagged word lies in it. -/
def Mem.poisoned (m : Mem) (sp : Sp) (a n : Nat) : Bool :=
  let u := poisonUnit sp
  n != 0 &&
    ((m.poison sp).any (fun x => x.2 && a / u ≤ x.1 && x.1 ≤ (a + n - 1) / u) ||
     (sp == .bmem && m.tags.any (fun x => x.2 && a / 8 ≤ x.1 && x.1 ≤ (a + n - 1) / 8)))

/-- One write of bytes to the array. Poison of every 64-byte granule it covers wholly clears (R214), and the tag of
every 8-byte word of block memory it covers wholly (R194). Poison of clause rows stays. -/
def Mem.store (m : Mem) (sp : Sp) (a : Nat) (bs : List Byte) : Mem :=
  let n := bs.length
  let m := m.setSpace sp (memPut (m.space sp) a bs)
  let m := if sp = .cells then m else
    let lo := (a + 63) / 64
    m.setPoison sp (flagsClear (m.poison sp) lo ((a + n) / 64 - lo))
  if sp = .bmem then
    let lo := (a + 7) / 8
    { m with tags := flagsClear m.tags lo ((a + n) / 8 - lo) }
  else m

/-- One write of an n-byte little-endian number. -/
def Mem.storeNat (m : Mem) (sp : Sp) (a n v : Nat) : Mem := m.store sp a (leBytes n v)

/-- The granule or clause row that holds a byte becomes poisoned. -/
def Mem.mark (m : Mem) (sp : Sp) (a : Nat) : Mem :=
  m.setPoison sp (mapSet false (m.poison sp) (a / poisonUnit sp) true)

/-- The base of a core's block memory, of a die's scratchpad, of a core's accumulator memory and clause cells. -/
def bmemBase (core : Nat) : Nat := 2 ^ 18 * core
/-- The base of a die's scratchpad. -/
def spadBase (die : Nat) : Nat := 2 ^ 26 * die
/-- The base of a core's accumulator memory. -/
def accBase (core : Nat) : Nat := 2 ^ 18 * core
/-- The base of a core's clause cells. -/
def cellBase (core : Nat) : Nat := 2 ^ 17 * core

/-- Whether a scratchpad byte offset of a die lies in the partition's rows: the rows of its quotas on that die, less
the fifth and sixth of each (R407). -/
def Partition.rowOpen (p : Partition) (die off : Nat) : Bool :=
  p.quotas.any fun q =>
    let r := off % 2 ^ 20 / 8192
    q.core == 64 * die + off / 2 ^ 20 && q.rowLo ≤ r && r < q.rowLo + q.rows && r != q.rowLo + 4 && r != q.rowLo + 5

/-- Whether every byte of [off, off + n) lies in the partition's rows of a die. -/
def Partition.rowsOpen (p : Partition) (die off n : Nat) : Bool :=
  off + n ≤ 2 ^ 26 &&
    (n == 0 || (List.range ((off + n - 1) / 8192 - off / 8192 + 1)).all fun i => p.rowOpen die ((off / 8192 + i) * 8192))

/-- The absolute address of [off, off + n) in a crew's block allocation or own-die scratchpad, if it lies inside. -/
def State.place (s : State) (slot : Nat) (spad : Bool) (off n : Nat) : Option Nat :=
  let c := s.crewAt slot
  if spad then
    if (s.partition c.part).rowsOpen (slotDie slot) off n then some (spadBase (slotDie slot) + off) else none
  else if off + n ≤ c.bmemLen then some (bmemBase (slotCore slot) + c.bmemLo + off) else none

/-! ## Scalar addresses -/

/-- A scalar address that has passed R133: its space, absolute byte address and offset, and its width field. -/
structure ScalarAddr where
  spad : Bool
  addr : Nat
  off : Nat
  wid : Nat
  deriving DecidableEq, Repr

/-- Bytes of an access by WID code: I32, I8, N8, I16, N16 (R133). -/
def widBytes : Nat → Nat
  | 0 => 4 | 1 => 1 | 2 => 1 | 3 => 2 | _ => 2

/-- Value of the bytes of an access extended to 32 bits by WID code (R146). -/
def widExtend (wid v : Nat) : Word :=
  match wid with
  | 1 => (BitVec.ofNat 8 v).signExtend 32
  | 3 => (BitVec.ofNat 16 v).signExtend 32
  | _ => BitVec.ofNat 32 v

/-- A scalar address of R133 for an access of n bytes; none where it is rejected. -/
def State.scalarAddrN (s : State) (slot : Nat) (a : Word) (n : Nat) : Option ScalarAddr :=
  let wid := (a.extractLsb' 29 3).toNat
  let sp := (a.extractLsb' 27 2).toNat
  let off := (a.extractLsb' 0 27).toNat
  if wid ≥ 5 || sp ≥ 2 || off % (widBytes wid) != 0 then none
  else (s.place slot (sp == 1) off n).map fun k => ⟨sp == 1, k, off, wid⟩

/-- A scalar address of R133 for an access of its own width. -/
def State.scalarAddr (s : State) (slot : Nat) (a : Word) : Option ScalarAddr :=
  s.scalarAddrN slot a (widBytes (a.extractLsb' 29 3).toNat)

/-- A scalar address of SPACE 1 and WID 0, aligned to al, of n bytes in the partition's rows: its absolute address. -/
def State.spadAddr (s : State) (part die : Nat) (a : Word) (al n : Nat) : Option Nat :=
  let off := (a.extractLsb' 0 27).toNat
  if a.extractLsb' 27 5 == 1 && off % al == 0 && (s.partition part).rowsOpen die off n then some (spadBase die + off)
  else none

/-! ## Store windows -/

/-- The window entry of a granule. -/
def windowFind (w : List WinEntry) (spad : Bool) (g : Nat) : Option WinEntry :=
  w.find? fun e => e.spad == spad && e.granule == g

/-- The byte a crew reads: from its window where present, else from the array (R23). -/
def Crew.byte (c : Crew) (m : Mem) (spad : Bool) (a : Nat) : Byte :=
  match windowFind c.window spad (a / 64) with
  | some e => if e.mask.getLsbD (a % 64) then e.data.extractLsb' (8 * (a % 64)) 8 else m.byte (spOf spad) a
  | none => m.byte (spOf spad) a

/-- n bytes as a crew reads them. -/
def Crew.load (c : Crew) (m : Mem) (spad : Bool) (a : Nat) : Nat → List Byte
  | 0 => []
  | n + 1 => c.byte m spad a :: c.load m spad (a + 1) n

/-- The bytes of an entry's mask written to the array: whole 8-byte words in one piece, so that tags clear (R194);
a full mask is one write of the granule, which clears its poison (R214). -/
def WinEntry.drain (e : WinEntry) (m : Mem) : Mem :=
  let base := 64 * e.granule
  let byte (i : Nat) : Byte := e.data.extractLsb' (8 * i) 8
  if e.mask = BitVec.allOnes 64 then m.store (spOf e.spad) base ((List.range 64).map byte)
  else (List.range 8).foldl (fun m j =>
    if (e.mask.extractLsb' (8 * j) 8) = 0xFF#8 then m.store (spOf e.spad) (base + 8 * j) ((List.range 8).map fun i => byte (8 * j + i))
    else (List.range 8).foldl (fun m i =>
      if e.mask.getLsbD (8 * j + i) then m.store (spOf e.spad) (base + 8 * j + i) [byte (8 * j + i)] else m) m) m

/-- The entries of the crew in a slot for which p holds are written to the array in allocation order (R24). -/
def State.drainIf (s : State) (slot : Nat) (p : WinEntry → Bool) : State :=
  let c := s.crewAt slot
  if c.window.isEmpty then s
  else
    let m := (c.window.filter p).foldl (fun m e => e.drain m) s.mem
    { s.setCrewAt slot { c with window := c.window.filter fun e => !p e } with mem := m }

/-- The window of the crew in a slot drains (R24). -/
def State.drainAt (s : State) (slot : Nat) : State := s.drainIf slot fun _ => true
/-- The window of the crew in focus drains. -/
def State.drain (s : State) : State := s.drainAt s.cur

/-- The offset that an absolute byte has for the crew in a slot: in its block's allocation, or on its own die. -/
def State.offsetAt (s : State) (slot : Nat) (spad : Bool) (a : Nat) : Nat :=
  if spad then a - spadBase (slotDie slot) else a - (bmemBase (slotCore slot) + (s.crewAt slot).bmemLo)

/-- Whether the byte at an offset lies in a bound region (R27). -/
def Binding.covers (b : Binding) (spad : Bool) (off : Nat) : Bool :=
  b.regSpad == spad && decide (b.regOff ≤ off) && decide (off < b.regOff + 64 * b.granules)

/-- Whether a granule lies in a bound region of the launch of the crew in a slot (R27). -/
def State.bound (s : State) (slot : Nat) (spad : Bool) (g : Nat) : Bool :=
  (s.launchOf (s.crewAt slot)).bindings.any fun b => b.covers spad (s.offsetAt slot spad (64 * g))

/-- Whether a window entry of the crew in a slot lies in a region bound to an object. -/
def State.boundTo (s : State) (slot : Nat) (objSpad : Bool) (obj : Nat) (e : WinEntry) : Bool :=
  e.bound && (s.launchOf (s.crewAt slot)).bindings.any fun b =>
    b.objSpad == objSpad && b.objOff == s.offsetAt slot objSpad obj && b.covers e.spad (s.offsetAt slot e.spad (64 * e.granule))

/-- An entry with bytes merged in at byte i; later bytes replace earlier ones (R23). -/
def WinEntry.merge (e : WinEntry) (i : Nat) (bs : List Byte) : WinEntry :=
  let ones : BitVec 512 := BitVec.ofNat 512 (2 ^ (8 * bs.length) - 1) <<< (8 * i)
  { e with
    data := (e.data &&& ~~~ones) ||| (BitVec.ofNat 512 (leNat bs) <<< (8 * i))
    mask := e.mask ||| (BitVec.ofNat 64 (2 ^ bs.length - 1) <<< i) }

/-- An ordinary store of bytes that lie in one granule (R23). -/
def State.windowStore (s : State) (slot : Nat) (spad : Bool) (a : Nat) (bs : List Byte) : State :=
  let g := a / 64
  let c := s.crewAt slot
  match windowFind c.window spad g with
  | some _ =>
    s.setCrewAt slot { c with window := c.window.map fun e =>
      if e.spad = spad ∧ e.granule = g then e.merge (a % 64) bs else e }
  | none =>
    let s := if 32 ≤ c.window.length then
        match c.window with
        | [] => s
        | e :: rest => { s.setCrewAt slot { c with window := rest } with mem := e.drain s.mem }
      else s
    let c := s.crewAt slot
    let e : WinEntry := ⟨spad, g, 0, 0, s.bound slot spad g⟩
    s.setCrewAt slot { c with window := c.window ++ [e.merge (a % 64) bs] }

/-- The window entry of a granule, if any, is written to the array (R23). -/
def State.drainGranule (s : State) (slot : Nat) (spad : Bool) (a : Nat) : State :=
  s.drainIf slot fun e => e.spad == spad && e.granule == a / 64

/-! ## Lane work of a crew -/

/-- Whether every lane instruction that split k enqueued has completed (R45). -/
def Crew.splitIdle (c : Crew) (k : Nat) : Bool :=
  c.laneQ.all (fun e => e.owner != k) && c.inflight.all (fun x => x.split != k)

/-- Whether every lane instruction of the crew has completed (R45). -/
def Crew.lanesIdle (c : Crew) : Bool := c.laneQ.isEmpty && c.inflight.isEmpty

/-- Whether remote writes of the crew are not acknowledged: its XPUTs, and XMEM.st words of its other splits (R29, R30). -/
def Crew.writesOut (c : Crew) (k : Nat) : Bool :=
  c.unacked != 0 || c.reqs.any fun r => r.split != k && r.write && r.response.isNone

/-- Whether every lane memory instruction has reached the window or the array (R22). -/
def Crew.memoryIdle (c : Crew) : Bool := c.laneQ.all fun e => !e.memory

/-- A lane of a crew. -/
def Crew.lane (c : Crew) (i : Nat) : LaneState := c.lanes.getD i LaneState.empty
/-- A register of a lane: v0 to v63 at 0 to 63, o0 to o7 at 64 to 71. -/
def LaneState.reg (l : LaneState) (r : Nat) : LaneReg := mapGet LaneReg.zero l.regs r
/-- The lane with a register written: full, with its poison (R158, R214). -/
def LaneState.setReg (l : LaneState) (r : Nat) (v : DWord) (poison : Bool) : LaneState :=
  { l with regs := mapSet LaneReg.zero l.regs r ⟨v, true, poison⟩ }

/-- The value of one lane of a producer in flight arrives: register full, flags ORed in (R107, R86, R87). -/
def Crew.arrive (c : Crew) (reg : Nat) (a : Arrival) : Crew :=
  { c with
    lanes := listModify (fun l => { l.setReg reg a.val a.poison with flags := l.flags ||| a.flags }) c.lanes a.lane
    fsum := c.fsum ||| a.flags }

/-- Every value in flight arrives; each producer then completes and advances the logical clock (R65, R158). -/
def Crew.arriveAll (c : Crew) : Crew :=
  { c.inflight.foldl (fun c x => x.arrivals.foldl (fun c a => c.arrive x.reg a) c) c with
    inflight := [], clock := c.clock + BitVec.ofNat 64 c.inflight.length }

/-! ## Atomics (R36, R147, R195, R196) -/

/-- An integer operation on two values of a type: 0 add, 1 min, 2 max, 3 and, 4 or, 5 xor, 6 xchg. -/
def atomicInt (t : IntTy) (op : Nat) (old x : Nat) : Nat :=
  let a := old % 2 ^ t.width
  let b := x % 2 ^ t.width
  match op with
  | 0 => (a + b) % 2 ^ t.width
  | 1 => if intOf t a ≤ intOf t b then a else b
  | 2 => if intOf t a ≤ intOf t b then b else a
  | 3 => a &&& b
  | 4 => a ||| b
  | 5 => a ^^^ b
  | _ => b

/-- A floating operation of ATF: 0 add, 1 min, 2 max (R196). -/
def atomicFloat (f : FloatFmt) (op : Nat) (r : Rnd) (old x : Nat) : Nat × Flags :=
  match op with
  | 0 => fAdd f r old x
  | 1 => fMinMax false f r old x
  | _ => fMinMax true f r old x

/-- The rounding that an FMTR and a resolved mode give, with the draw of a stochastic rounding (R79, R81 to R84). -/
def rndOf (mode : Nat) (fmtr : Word) (draw : Nat) : Rnd :=
  ⟨mode, draw, fmtr.getLsbD 18, fmtr.getLsbD 19, fmtr.getLsbD 20⟩

/-- A buffered update applied to the array; dropped where the location is poisoned (R36, R195). -/
def Buffered.apply (b : Buffered) (m : Mem) : Mem × Flags :=
  let sp := spOf b.spad
  if b.ty < 16 then
    let t := intTy b.ty
    let n := t.width / 8
    if m.poisoned sp b.addr n then (m, 0)
    else (m.storeNat sp b.addr n (atomicInt t b.op.toNat (m.nat sp b.addr n) b.operand.toNat), 0)
  else
    let f := floatFmt (b.ty - 16)
    let n := (fmtWidth (b.ty - 16)) / 8
    if m.poisoned sp b.addr n then (m, 0)
    else
      let (v, fl) := atomicFloat f b.op.toNat (rndOf b.rnd b.fmtr b.draw.toNat) (m.nat sp b.addr n) b.operand.toNat
      (m.storeNat sp b.addr n v, fl)

/-- The updates of a crew in the order of lane index, then issue order. -/
def Crew.updates (c : Crew) : List Buffered :=
  (List.range 96).flatMap fun i => c.buffered.filter fun b => b.lane == i

/-- The flush point of the crew in a slot (R36): its updates are applied and its first reads forgotten. -/
def State.flushAt (s : State) (slot : Nat) : State :=
  let c := s.crewAt slot
  if c.buffered.isEmpty && c.firstReads.isEmpty then s
  else
    let step (x : Mem × Crew) (b : Buffered) : Mem × Crew :=
      let (m, fl) := b.apply x.1
      (m, { x.2 with
            lanes := listModify (fun l => { l with flags := l.flags ||| fl }) x.2.lanes b.lane
            fsum := x.2.fsum ||| fl })
    let (m, c') := c.updates.foldl step (s.mem, c)
    { s.setCrewAt slot { c' with buffered := [], firstReads := [] } with mem := m }

/-! ## Engine queues -/

/-- The key of a partition's queue set on a core. -/
def qkey (part core : Nat) : Nat := 256 * part + core
/-- The key of a partition's queue set on a die: the graph scheduler's matrix and collective queues (R308). -/
def dieKey (part die : Nat) : Nat := 4096 + 4 * part + die
/-- The key of the set that holds queue q of a partition at a core. -/
def queueKey (part core q : Nat) : Nat := if q = 9 ∨ q = 10 then dieKey part (core / 64) else qkey part core
/-- A queue set. -/
def State.qset (s : State) (k : Nat) : QSet := mapGet QSet.empty s.qsets k
/-- The state with a queue set changed by f. -/
def State.updQset (s : State) (k : Nat) (f : QSet → QSet) : State :=
  { s with qsets := mapSet QSet.empty s.qsets k (f (s.qset k)) }
/-- A queue of a set. -/
def QSet.queue (x : QSet) (q : Nat) : Queue := mapGet Queue.empty x.queues q
/-- The set with a queue changed by f. -/
def QSet.updQueue (x : QSet) (q : Nat) (f : Queue → Queue) : QSet :=
  { x with queues := mapSet Queue.empty x.queues q (f (x.queue q)) }
/-- A queue of the state. -/
def State.queue (s : State) (k q : Nat) : Queue := (s.qset k).queue q
/-- The state with a queue changed by f. -/
def State.updQueue (s : State) (k q : Nat) (f : Queue → Queue) : State := s.updQset k fun x => x.updQueue q f
/-- The queue set of the crew in focus. -/
def State.qk (s : State) : Nat := qkey s.crew.part (slotCore s.cur)

/-- Whether ticket t is covered by the sequence value S (R12). -/
def seqCovers (S t : Word) : Bool := (S - t).toNat < 2 ^ 31

/-- S advances over the complete and retired entries at the front (R12, R14). -/
def Queue.settle (q : Queue) : Queue :=
  let front := q.ents.takeWhile fun e => e.state = .complete
  match front.getLast? with
  | none => q
  | some e => { q with seq := e.ticket, ents := q.ents.drop front.length }

/-- The tickets of other queues that the fences of a set place before an entry of queue q with a ticket (R31). -/
def QSet.fencedBy (x : QSet) (q : Nat) : List (Nat × Word) :=
  x.fences.flatMap fun f => if f.1.getLsbD q then f.2 else []

/-- An entry issued: the issue count goes up by one and is the entry's ticket (R12). -/
def State.enqueue (s : State) (k q : Nat) (e : QEntry) : State × Word :=
  let x := s.qset k
  let t := (x.queue q).issue + 1
  (s.updQueue k q fun u =>
    { u with
      issue := t, ents := u.ents ++ [{ e with ticket := t, after := x.fencedBy q, since := s.steps }], clocks := (t, e.clock) :: u.clocks }, t)

/-- The issue clock of a ticket; zero for one that was never issued. -/
def Queue.clockOf (q : Queue) (t : Word) : DWord :=
  match q.clocks.find? fun x => x.1 == t with | some x => x.2 | none => 0

/-- CREWINFO of a slot (R155). -/
def State.crewInfo (s : State) (slot : Nat) : Word :=
  BitVec.ofNat 32 ((s.crewAt slot).index + 16 * slotSeat slot + 64 * slotPos slot + 512 * (slotCore slot % 64) +
    32768 * slotDie slot)

/-- An entry of the crew in focus with nothing done: the fault queue is the crew's FLTQ (R155, R218). -/
def State.newEntry (s : State) (opcode fn : Nat) (arg : Word) : QEntry :=
  let c := s.crew
  { ticket := 0, slot := s.cur, uid := c.uid, origin := s.crewInfo s.cur, block := c.block, job := c.job, launch := c.launch
    priv := s.settings.priv, node := none, fq := c.fltq, clock := c.clock
    opcode := BitVec.ofNat 6 opcode, fn := BitVec.ofNat 7 fn, arg := arg, recd := [], rel := none, since := 0, after := []
    state := .queued, cause := 0, faultAddr := 0, rdet := 0, prog := 0, prog2 := 0, flags := 0, pending := []
    resp := [], again := [], bmemLo := c.bmemLo, bmemLen := c.bmemLen, buf := [], engine := slotCore s.cur, rows := []
    cells := [], ring := [], clean := [] }

/-- Whether everything that a fence places before an entry is complete. -/
def State.afterDone (s : State) (k : Nat) (e : QEntry) : Bool :=
  e.after.all fun x => seqCovers (s.queue k x.1).seq x.2

/-- An entry of a queue changed by f. -/
def State.updEntry (s : State) (k q : Nat) (t : Word) (f : QEntry → QEntry) : State :=
  s.updQueue k q fun u => { u with ents := u.ents.map fun e => if e.ticket = t then f e else e }

/-! ## Fault records (R234, R235) -/

/-- The fields of a fault record that vary. -/
structure Record where
  kind : Nat
  qcode : Nat
  cause : Nat
  fq : Nat
  origin : Nat
  block : Nat
  ticket : Nat
  addr : Nat
  prog : Nat
  node : Nat
  core : Nat
  rdet : Nat
  deriving DecidableEq, Repr

/-- A record with no issuer, entry or node. -/
def Record.blank (kind core : Nat) : Record :=
  ⟨kind, 0xFF, 0, 0, 0xFFFFFFFF, 0xFFFFFFFF, 0, 0, 0, 0xFFFFFFFF, core, 0⟩

/-- The 64 bytes of a record (R235). -/
def Record.bytes (r : Record) (time : DWord) (peer : Nat) : List Byte :=
  leBytes 1 r.kind ++ leBytes 1 r.qcode ++ leBytes 1 r.cause ++ leBytes 1 r.fq ++ leBytes 4 r.origin ++
    leBytes 4 r.block ++ leBytes 4 r.ticket ++ leBytes 8 r.addr ++ leBytes 8 r.prog ++ leBytes 8 time.toNat ++
    leBytes 4 r.node ++ leBytes 4 (r.core + 256 * peer) ++ leBytes 1 r.rdet ++ List.replicate 15 0

/-- The header's HBM key of the fault queue that a record names among the queues of a launch, else of fault queue 0 (R234). -/
def faultRing (queues : List (Nat × Nat)) (fq : Nat) : Option Nat :=
  match mapFind queues fq with | some a => some a | none => mapFind queues 0

/-- The fault queues of a launch of a job; those of the job's first launch for a record that no launch's work posts. -/
def State.faultQueues (s : State) (job launch : Nat) : List (Nat × Nat) :=
  match mapFind s.launches launch with | some l => l.spec.faultQueues | none => (s.job job).faultQueues

/-- A record posted to a fault queue of a launch: dropped and counted in LOST when the ring is full (R234). -/
def State.post (s : State) (job launch : Nat) (r : Record) : State :=
  match faultRing (s.faultQueues job launch) r.fq with
  | none => s
  | some h =>
    let wr := s.mem.nat .hbm h 4
    let rd := s.mem.nat .hbm (h + 4) 4
    let size := s.mem.nat .hbm (h + 8) 4
    let next := if size = 0 then 0 else (wr + 1) % size
    if next = rd then
      { s with mem := s.mem.storeNat .hbm (h + 12) 4 (s.mem.nat .hbm (h + 12) 4 + 1) }
    else
      let m := s.mem.store .hbm (h + 64 + 64 * wr) (r.bytes s.heat.time s.fabric.peer)
      { s with mem := m.storeNat .hbm h 4 next }

/-! ## Cohorts (R59 to R61) -/

/-- The cohort indices of a block, in slot order c0 to c3: the first four directives that name it (R60, R128). -/
def Launch.slots (l : Launch) (block : Nat) : List Nat :=
  ((l.spec.cohorts.filter fun c => c.blocks.contains block).map fun c => c.index).take 4

/-- The cohort in a slot of a crew's block: none raises the cohort trap. The block of a TASK node has none (R298). -/
def State.cohortOf (s : State) (c : Crew) (n : Nat) : Option (Nat × Cohort) :=
  match ((s.launchOf c).slots c.block)[n]? with
  | none => none
  | some i =>
    match mapFind (s.launchOf c).cohorts i with
    | some h => if h.valid then some (i, h) else none
    | none => none

/-- The rank of a peer in a launch's process group (R62); 0 where it has none. -/
def Launch.rank (l : Launch) (peer : Nat) : Nat :=
  match l.spec.pgroup.findIdx? fun e => e.peer == peer with | some i => i | Option.none => 0

/-- A launch changed by f. -/
def State.updLaunch (s : State) (id : Nat) (f : Launch → Launch) : State :=
  match mapFind s.launches id with
  | none => s
  | some l => { s with launches := mapSet Launch.none s.launches id (f l) }

/-- A cohort entry of a launch changed by f. -/
def Launch.updCohort (l : Launch) (i : Nat) (f : Cohort → Cohort) : Launch :=
  { l with cohorts := l.cohorts.map fun x => if x.1 = i then (x.1, f x.2) else x }

/-- The larger of two clocks. -/
def clockMax (a b : DWord) : DWord := if a < b then b else a

/-- Whether a barrier is complete: arrivals and departures reach TOTAL; where the cohort spans packages, those of the
other packages come when the device chooses (R61; log entry 18). -/
def Cohort.complete (h : Cohort) (choice : Bool) : Bool :=
  h.arrive + h.depart ≥ h.total || (h.spans && h.arrive + h.depart ≥ h.localCrews && choice)

/-- The next generation of a barrier that is complete; far is the largest clock of the other packages' crews (R61, R65). -/
def Cohort.advance (h : Cohort) (far : DWord) : Cohort :=
  { h with
    gen := h.gen + 1, arrive := 0, arrived := [], doneClock := clockMax (clockMax h.maxClock h.departClock) far, maxClock := 0 }

/-- A choice of the device and the state with the count of choices advanced (log entry 12). -/
def State.choose (s : State) : Bool × State := (Config.choice s.choices, { s with choices := s.choices + 1 })

/-- The buffered updates of every crew that has arrived at a barrier are applied in the order of block and crew
(R36). -/
def State.flushArrived (s : State) (launch : Nat) (uids : List Nat) : State :=
  let here := s.crews.filter fun x => x.2.live && x.2.launch == launch && uids.contains x.2.uid
  let key (x : Nat × Crew) := 16 * x.2.block + x.2.index
  (sortBy (fun x y => key x ≤ key y) here).foldl (fun s x => s.flushAt x.1) s

/-- Completes the barrier of a cohort if it is complete. -/
def State.barrierCheck (s : State) (launch i : Nat) : State :=
  match mapFind s.launches launch with
  | none => s
  | some l =>
    match mapFind l.cohorts i with
    | none => s
    | some h =>
      let far := if h.spans then Config.farClock s.choices else 0
      let (b, s) := if h.spans then s.choose else (false, s)
      if h.valid && h.arrive ≠ 0 && h.complete b then
        let s := s.flushArrived launch h.arrived
        s.updLaunch launch fun l => l.updCohort i fun h => h.advance far
      else s

/-- A crew that ends departs from every barrier of its cohorts (R61, R212). -/
def State.depart (s : State) (c : Crew) : State :=
  ((s.launchOf c).slots c.block).foldl (fun s i =>
    (s.updLaunch c.launch fun l => l.updCohort i fun h =>
      { h with
        depart := h.depart + 1, gone := c.block :: h.gone, departClock := clockMax h.departClock c.clock
        arrive := if h.arrived.contains c.uid then h.arrive - 1 else h.arrive
        arrived := h.arrived.filter (· != c.uid) }).barrierCheck c.launch i) s

/-! ## Sync objects (R26, R28) -/

/-- The key of a sync object's clocks. -/
def objKey (spad : Bool) (a : Nat) : Nat := 2 * a + spad.toNat
/-- The clocks of a sync object. -/
def State.obj (s : State) (spad : Bool) (a : Nat) : ObjClock := mapGet ObjClock.none s.objs (objKey spad a)
/-- The low word of an object: HOLD, XW and MODE. -/
def State.objLow (s : State) (spad : Bool) (a : Nat) : Nat := s.mem.nat (spOf spad) a 4
/-- COUNT of an object. -/
def State.objCount (s : State) (spad : Bool) (a : Nat) : Word := BitVec.ofNat 32 (s.mem.nat (spOf spad) (a + 4) 4)
/-- MODE of an object's low word. -/
def objMode (w : Nat) : Nat := w / 2 ^ 30 % 4
/-- HOLD of an object's low word. -/
def objHold (w : Nat) : Nat := w % 2 ^ 29
/-- XW of an object's low word. -/
def objXw (w : Nat) : Bool := w.testBit 29
/-- A low word from MODE, XW and HOLD. -/
def objWord (mode : Nat) (xw : Bool) (hold : Nat) : Nat := mode * 2 ^ 30 + xw.toNat * 2 ^ 29 + hold % 2 ^ 29

/-- The state with the low word of an object written. -/
def State.setObjLow (s : State) (spad : Bool) (a w : Nat) : State :=
  { s with mem := s.mem.storeNat (spOf spad) a 4 w }

/-- COUNT of an object goes up by one by a release that carries a clock; ownership is untouched (R28, R65). -/
def State.release (s : State) (spad : Bool) (a : Nat) (clk : DWord) : State :=
  let n := s.objCount spad a + 1
  let o := s.obj spad a
  { s with
    mem := s.mem.storeNat (spOf spad) (a + 4) 4 n.toNat
    objs := mapSet ObjClock.none s.objs (objKey spad a) { o with counts := (n, clk) :: o.counts } }

/-- The clock of the release that gave COUNT the value n. -/
def ObjClock.clockOf (o : ObjClock) (n : Word) : DWord :=
  match o.counts.find? fun x => x.1 == n with | some x => x.2 | .none => 0

/-! ## The order of synchronising operations (R65, R66) -/

/-- (clock, block, crew) as one number. -/
def Crew.orderKey (c : Crew) : Nat := c.clock.toNat * 2 ^ 40 + c.block * 16 + c.index

/-- The crews of the package: those in slots and those whose records lie in save areas (R383). -/
def State.allCrews (s : State) : List Crew := s.crews.map Prod.snd ++ s.heat.saved.flatMap fun a => a.crews.map Prod.snd

/-- Whether the crew in focus is least over the live crews of its launch for which p holds and which do not wait in a
synchronising operation that they have begun. -/
def State.least (s : State) (p : Crew → Bool) : Bool :=
  let me := s.crew
  s.allCrews.all fun x =>
    !(x.live && x.launch == me.launch && x.uid != me.uid && p x && !x.inSync) || me.orderKey ≤ x.orderKey

/-- The live splits of a crew. -/
def Crew.liveSplits (c : Crew) : List (Nat × Split) := c.splits.filter fun p => p.2.live

/-- Whether a crew is divided: more than one split, or a stack entry (R66). -/
def Crew.divided (c : Crew) : Bool := decide (1 < c.liveSplits.length) || !c.stack.isEmpty

/-! ## Waiting words abandoned -/

/-- Whether another split of the package waits in an ACQ.x on an object. -/
def State.exclWaiter (s : State) (spad : Bool) (a : Nat) (except : Nat × Nat) : Bool :=
  s.crews.any fun x => x.2.live && x.2.splits.any fun p =>
    (x.1, p.1) != except && (match p.2.wait with | .acquire true sp b _ _ => sp == spad && b == a | _ => false)

/-- XW of an object as the waiters left give it (R26, R37). -/
def State.setXw (s : State) (spad : Bool) (a : Nat) (v : Bool) : State :=
  let w := s.mem.nat (spOf spad) a 4
  let w' := if v then w ||| 2 ^ 29 else w &&& (2 ^ 32 - 1 - 2 ^ 29)
  if w = w' then s else { s with mem := s.mem.storeNat (spOf spad) a 4 w' }

/-- A split's wait is abandoned; it stays at its word (R13, R37). -/
def State.abandon (s : State) (slot k : Nat) : State :=
  let c := s.crewAt slot
  let w := (c.split k).wait
  let s := s.setCrewAt slot (c.updSplit k fun p => { p with wait := .none })
  match w with
  | .acquire true sp a _ _ => s.setXw sp a (s.exclWaiter sp a (slot, k))
  | _ => s

/-- Every wait of a crew is abandoned. -/
def State.abandonAll (s : State) (slot : Nat) : State :=
  let s := (s.crewAt slot).splits.foldl (fun s p => s.abandon slot p.1) s
  s.setCrewAt slot { s.crewAt slot with inSync := false }

/-! ## Turns of splits -/

/-- The splits whose scalar words may issue, as (slot, split) in ascending order: live splits of live crews that no
catch holds; of a crew in its trap handler only the trapping split (R206). -/
def State.runnable (s : State) : List (Nat × Nat) :=
  s.crews.flatMap fun x =>
    if x.2.live && !x.2.caught then
      (x.2.splits.filter fun p => p.2.live && (!x.2.trap.handler || p.1 == x.2.trap.split)).map fun p => (x.1, p.1)
    else []

/-- Focus moves to the next runnable split, round robin (R63). -/
def State.rotate (s : State) : State :=
  let all := s.runnable
  let after := all.filter fun p => 4 * s.cur + s.curSplit < 4 * p.1 + p.2
  match after ++ all with
  | [] => s
  | p :: _ => { s with cur := p.1, curSplit := p.2 }

/-! ## The ordering log and replay (R422, R423) -/

/-- A record of the crew in focus. -/
def State.logRecord (s : State) (opc : Nat) (lane : Option Nat) (ext : Bool) (v : DWord) : LogRecord :=
  let c := s.crew
  { die := slotDie s.cur, job := c.job, clock := c.clock, origin := s.crewInfo s.cur, block := BitVec.ofNat 32 c.block
    opc := BitVec.ofNat 8 opc, kind := BitVec.ofNat 8 (lane.isSome.toNat + 2 * ext.toNat)
    lane := match lane with | some i => BitVec.ofNat 8 i | none => 0xFF
    heat := (s.job c.job).heatno, value := v }

/-- Records that a die's ring holds (R422). -/
def logCapacity : Nat := 524288

/-- A record written to its die's ring; a full ring loses its oldest. -/
def State.logPut (s : State) (r : LogRecord) : State :=
  let log := s.ckpt.log
  let log := if logCapacity ≤ (log.filter fun x => x.die == r.die).length then
      log.eraseP fun x => x.die == r.die
    else log
  { s with ckpt := { s.ckpt with log := log ++ [r] } }

/-- Whether a record names a cohort: BAR and COLL. -/
def LogRecord.cohort (a : LogRecord) : Bool := a.opc == 0x24 || a.opc == 0x39

/-- Whether two records name one object: scratchpad of one die, block memory of one block, a cohort of BAR or of COLL. -/
def LogRecord.sameObject (a b : LogRecord) : Bool :=
  a.value == b.value && a.cohort == b.cohort && (!a.cohort || a.opc == b.opc) &&
    a.kind.getLsbD 1 == b.kind.getLsbD 1 && (a.cohort || (if a.value.getLsbD 27 then a.die == b.die else a.block == b.block))

/-- Whether two records are of one crew: its block and its index in the block, since a replay may place it in another slot
(R38; log entry 105). -/
def LogRecord.sameCrew (a b : LogRecord) : Bool := a.block == b.block && a.origin &&& 15 == b.origin &&& 15

/-- Whether the record of the log is the one that an operation makes again. -/
def LogRecord.again (a b : LogRecord) : Bool :=
  a.clock == b.clock && a.sameCrew b && a.opc == b.opc && a.lane == b.lane && a.kind == b.kind

/-- The records to be replayed for the job of the crew in focus. -/
def State.replayLog (s : State) : Option (List LogRecord) :=
  match s.ckpt.replay with
  | some (j, l) => if j = s.crew.job then some l else none
  | none => none

/-- Whether an operation on an object may proceed: in a replay only when no earlier record for its object is left, so
that the first one is the instruction's own (R423). -/
def State.replayReady (s : State) (r : LogRecord) : Bool :=
  match s.replayLog with
  | none => true
  | some l => match l.find? r.sameObject with
    | some x => x.clock == r.clock && x.sameCrew r && x.opc == r.opc
    | none => true

/-- An operation logged, or its record of the replay used up. -/
def State.logOp (s : State) (r : LogRecord) : State :=
  match s.replayLog with
  | some l => { s with ckpt := { s.ckpt with replay := some (s.crew.job, l.eraseP fun x => x.again r) } }
  | none => if (s.job s.crew.job).logging then s.logPut r else s

/-- The object address of a record: a scalar address of SPACE 0 or 1 and WID 0. -/
def State.objValue (s : State) (spad : Bool) (a : Nat) : DWord :=
  if spad then BitVec.ofNat 64 (2 ^ 27 + (a - spadBase (slotDie s.cur)))
  else BitVec.ofNat 64 (a - bmemBase (slotCore s.cur) - s.crew.bmemLo)

/-- The record of an operation on an object at an absolute address. -/
def State.objRecord (s : State) (opc : Nat) (lane : Option Nat) (spad : Bool) (a : Nat) : LogRecord :=
  s.logRecord opc lane false (s.objValue spad a)

/-- A value from outside the program: logged, and in a replay taken from its record (R422, R423). -/
def State.extern (s : State) (opc : Nat) (v : DWord) : DWord × State :=
  let r := s.logRecord opc none true v
  match s.replayLog with
  | some l => ((match l.find? fun x => x.again r with | some x => x.value | none => v), s.logOp r)
  | none => (v, s.logOp r)

/-! ## Ending a crew -/

/-- The graph node that a crew serves loses it; a crew that ended with class 0x01, 0x02 or 0x03 faults the node (R212,
R301, R314, R380). -/
def State.nodeLoses (s : State) (c : Crew) (status : Word) : State :=
  let cls := (status.extractLsb' 24 8).toNat
  s.updNode (64 * c.part + c.handle) c.node fun n =>
    { n with
      crews := n.crews.filter (· != c.uid)
      past := c.uid :: n.past
      endClock := clockMax n.endClock c.clock
      faults := if 1 ≤ cls && cls ≤ 3 then n.faults ++ [(0, status)] else n.faults }

/-- The crew in a slot ends (R138, R210 to R212): held entries and the stack are discarded, begun entries complete, the
window drains, a deterministic launch's updates are applied, the slot becomes free, the crew departs from its cohorts
and its node counts it. With post, a crew-termination record goes to the launch's fault queue. -/
def State.endCrew (s : State) (slot : Nat) (status : Word) (post : Bool) : State :=
  let s := s.abandonAll slot
  let s := s.setCrewAt slot { (s.crewAt slot).arriveAll with laneQ := [], stack := [] }
  let s := s.drainAt slot
  let s := if (s.settingsOf (s.crewAt slot)).det then s.flushAt slot else s
  let c := s.crewAt slot
  let s := s.setCrewAt slot { c with live := false, caught := false, status := status, reqs := [],
                                     trap := { c.trap with held := [], handler := false } }
  let s := if post then
      s.post c.job c.launch { Record.blank 0x03 (slotCore slot) with
        origin := (s.crewInfo slot).toNat, block := c.block, ticket := status.toNat
        addr := c.trap.spc + 2 ^ 32 * c.trap.lpc, node := c.node }
    else s
  ((s.depart c).nodeLoses c status).updJob c.job fun j => { j with endClock := clockMax j.endClock c.clock }

/-! ## Traps (R201 to R210) -/

/-- The least of a list of lanes for LOW, 0x7F for none (R202). -/
def lowLane : List Nat → BitVec 7
  | [] => 0x7F
  | i :: _ => BitVec.ofNat 7 i

/-- TRAPRUN (R202). -/
def trapRun (held split : Nat) (lane : Bool) (low : BitVec 7) : Word :=
  BitVec.ofNat 32 (min held 16 + 32 * split + 128 * lane.toNat + 256 * low.toNat)

/-- Taking a trap at the crew in focus (R201 to R207, R210). For a lane trap the queue entry at the head traps and its
split is s's split of R203; for a scalar trap the split in focus. advance is set for the traps that resume behind
their item. Values in flight arrive, the queue is held, waits are abandoned, the window drains; the trap registers are
written; then the handler starts, or the crew ends where there is none or it is running. -/
def State.takeTrap (s : State) (t : TrapInfo) (lane advance : Bool) : State :=
  let slot := s.cur
  let c := s.crew
  let head := c.laneQ.head?
  let k := if lane then (match head with | some e => e.owner | none => s.curSplit) else s.curSplit
  let named := if lane then (match head with | some e => e.split | none => s.curSplit) else s.curSplit
  let s := s.abandonAll slot
  let s := s.setCrewAt slot (s.crewAt slot).arriveAll
  let s := s.drainAt slot
  let c := s.crewAt slot
  let p := c.split k
  let held := c.laneQ
  let oldest := held.find? fun e => e.owner == k
  let lpc := match (if lane then held.head? else oldest) with | some e => e.lpc | none => p.lpc
  let cause : Word := (if lane then 0x01#8 else 0x02#8) ++ t.code ++ t.detail
  let tr : TrapState :=
    { cause := cause
      spc := if !lane && advance then p.spc + 4 else p.spc
      lpc := if lane && advance then lpc + 12 else lpc
      run := trapRun held.length named lane t.low
      addr := t.addr, opnd := t.opnd, addrHi := t.addrHi
      handler := true, split := k, held := held
      savedMask := p.mask, savedFmtr := p.fmtr, savedLpc := p.lpc, savedRep := p.pendingRep
      savedLrun := p.lrunLeft, savedSpc := p.spc }
  let l := s.settingsOf c
  if c.trap.handler || l.trap = 0 then
    let cls : BitVec 8 := if c.trap.handler then 0x02 else 0x01
    let s := s.setCrewAt slot { c with trap := { tr with handler := c.trap.handler } }
    s.endCrew slot (cls ++ t.code ++ t.detail) true
  else
    let mask := if lane then (match held.head? with | some e => e.mask | none => p.mask) else p.mask
    let p' := { p with spc := l.trap, mask := mask, wait := .none, lrunLeft := none, pendingRep := none }
    s.setCrewAt slot { (c.setSplit k p') with trap := tr, laneQ := [] }

/-- What a scalar word reports (R201). -/
def scalarInfo (code : BitVec 8) (detail : Nat) (addr opnd : Word) : TrapInfo :=
  ⟨code, BitVec.ofNat 16 detail, addr, opnd, 0x7F, 0⟩

/-- A precise trap of a scalar word that is tried again (R204). -/
def State.raise (s : State) (code : BitVec 8) (detail : Nat) (addr opnd : Word) : State :=
  s.takeTrap (scalarInfo code detail addr opnd) false false

/-- The illegal-instruction trap with a field number and value. -/
def State.illegal (s : State) (field value : Nat) : State := s.raise 0x01 field 0 (BitVec.ofNat 32 value)

/-- The return from a trap (R208), once the handler's lane work has completed: mask, FMTR, LPC and repeat state are
restored, the trapping split's held entries are requeued or dropped and those of the other splits follow them, the
handler bit clears and the split resumes at TRAPSPC. The remainder of a part-way LRUN goes with the LRUN at which the
split stood. -/
def State.returnFromTrap (s : State) : State :=
  let c := s.crew
  let tr := c.trap
  let k := tr.split
  let p := c.split k
  let mine := tr.held.filter fun e => e.owner == k
  let others := tr.held.filter fun e => e.owner != k
  let oldest := mine.head?.map LaneEntry.lpc
  let (mine, lpc) :=
    if oldest = some tr.lpc then (mine, tr.savedLpc)
    else if oldest.map (· + 12) = some tr.lpc then (mine.tail, tr.savedLpc)
    else ([], tr.lpc)
  let p' := { p with
    mask := tr.savedMask, fmtr := tr.savedFmtr, lpc := lpc, pendingRep := tr.savedRep, spc := tr.spc, wait := .none
    lrunLeft := if tr.spc = tr.savedSpc then tr.savedLrun else none }
  s.setCrew { (c.setSplit k p') with
    laneQ := mine ++ others, clock := c.clock + 1, trap := { tr with handler := false, held := [] } }

end Sys2Proof.Machine
end

