-- ==== Sys2Proof/Machine/Translate.lean ====
section
/-! DEFINITION. HBM of a partition and the translation of virtual addresses (R398 to R405, R409, R410), with the copy on
write of a checkpoint in progress (R415). -/

namespace Sys2Proof.Machine

/-! ## HBM channels (R409, R410) -/

/-- The channels of a partition in order. -/
def Partition.channels (p : Partition) : List Nat := p.sets.flatMap fun n => (List.range 8).map fun i => 8 * n + i

/-- The capacity of a partition in bytes. -/
def State.capacity (s : State) (part : Nat) : Nat := 8 * (s.partition part).sets.length * s.boot.band

/-- The HBM byte of a partition offset below the capacity. -/
def State.hbmKey (s : State) (part off : Nat) : Nat :=
  let chs := (s.partition part).channels
  let g := off / 256
  2 ^ 31 * chs.getD (g % chs.length) 0 + g / chs.length * 256 + off % 256

/-- The n-byte little-endian number at a partition offset; n divides 256 and off. -/
def State.hbmNat (s : State) (part off n : Nat) : Nat := s.mem.nat .hbm (s.hbmKey part off) n

/-! ## The walk (R399 to R402) -/

/-- Log2 of a page size by SIZE code. -/
def pageLog (size : Nat) : Nat := [12, 14, 16, 18, 20, 21, 22, 24, 26, 28, 29, 30, 32, 34, 36, 38].getD size 12

/-- The level at which a leaf of a SIZE code stands. -/
def pageLevel (size : Nat) : Nat := if size < 6 then 3 else if size < 12 then 2 else 1

/-- A leaf as a walk finds it: the page's virtual and partition base, its size and permissions, and where its entry
stands. -/
structure Page where
  vbase : Nat
  base : Nat
  size : Nat
  read : Bool
  write : Bool
  entry : Nat
  deriving DecidableEq, Repr

/-- Whether an entry's reserved bits are clear. -/
def entryClean (e : Nat) : Bool := e / 2 ^ 5 % 8 == 0 && e / 2 ^ 40 == 0

/-- A valid entry read as a table pointer: its next table; none where it is malformed (R402). -/
def tablePointer (cap e : Nat) : Option Nat :=
  let a := e / 2 ^ 12 % 2 ^ 28 * 2 ^ 12
  if entryClean e && e / 4 % 8 == 0 && e / 2 ^ 8 % 16 == 0 && a % 8192 == 0 && decide (a + 8192 ≤ cap) then some a
  else none

/-- A valid entry read as a leaf of a level, for a virtual address; none where it is malformed or its SIZE is not a
code of the level. -/
def leafPage (cap level va at' e : Nat) : Option Page :=
  let size := e / 2 ^ 8 % 16
  let bytes := 2 ^ pageLog size
  let a := e / 2 ^ 12 % 2 ^ 28 * 2 ^ 12
  if entryClean e && pageLevel size == level && a % bytes == 0 && decide (a + bytes ≤ cap) then
    some ⟨va / bytes * bytes, a, bytes, e.testBit 2, e.testBit 3, at'⟩
  else none

/-- The walk from a table at level 3 − n; none is a page not present (R401). -/
def State.walkFrom (s : State) (part va : Nat) : Nat → Nat → Option Page
  | 0, _ => none
  | n + 1, t =>
    let level := 3 - n
    let at' := t + 8 * (va / 2 ^ (42 - 10 * level) % 1024)
    if s.capacity part < at' + 8 then none
    else
      let e := s.hbmNat part at' 8
      if e % 2 = 0 then none
      else if e.testBit 1 then
        match tablePointer (s.capacity part) e with
        | some t' => s.walkFrom part va n t'
        | none => none
      else leafPage (s.capacity part) level va at' e

/-- The walk of a virtual address (R401). -/
def State.walk (s : State) (part troot va : Nat) : Option Page :=
  if 2 ^ 52 ≤ va then none else s.walkFrom part va 4 troot

/-! ## Copy on write (R415) -/

/-- n bytes of HBM from a partition offset. -/
def State.hbmBytes (s : State) (part off n : Nat) : List Byte :=
  (List.range n).map fun i => s.mem.byte .hbm (s.hbmKey part (off + i))

/-- The leaves and the tables below a table at level 3 − n, n + 1 levels in all (R413). -/
def State.treeFrom (s : State) (part : Nat) : Nat → Nat → List Page × List Nat
  | 0, _ => ([], [])
  | n + 1, t =>
    let cap := s.capacity part
    (List.range 1024).foldl (fun r i =>
      let at' := t + 8 * i
      if cap < at' + 8 then r
      else
        let e := s.hbmNat part at' 8
        if e % 2 = 0 then r
        else if e.testBit 1 then
          match n, tablePointer cap e with
          | 0, _ => r
          | _, none => r
          | _, some t' => let x := s.treeFrom part n t'; (r.1 ++ x.1, r.2 ++ t' :: x.2)
        else match leafPage cap (3 - n) 0 at' e with
          | some p => (r.1 ++ [p], r.2)
          | none => r) ([], [])

/-- The units of a page or a table (R413): 64 KiB of partition offsets, a smaller page by itself. -/
def unitsOf (base size : Nat) : List (Nat × Nat) :=
  if size < 65536 then [(base, size)] else (List.range (size / 65536)).map fun i => (base + 65536 * i, 65536)

/-- The units that a step of a tree holds, in ascending partition offset (R413, R415). -/
def treeUnits (troot : Nat) (x : List Page × List Nat) : List (Nat × Nat) :=
  let all := (x.1.flatMap fun p => unitsOf p.base p.size) ++ (troot :: x.2).map fun t => (t, 8192)
  sortBy (fun a b => a.1 ≤ b.1) all.eraseDups

/-- CK of a leaf entry written (R400). -/
def State.putCk (s : State) (part at' : Nat) (b : Bool) : State :=
  let k := s.hbmKey part at'
  let v := s.mem.byte .hbm k
  { s with mem := s.mem.store .hbm k [if b then v ||| 0x10#8 else v &&& 0xEF#8] }

/-- Whether a unit (offset, size) meets a range. -/
def unitMeets (base size : Nat) (u : Nat × Nat) : Bool := decide (u.1 < base + size) && decide (base < u.1 + u.2)

/-- The units that hold an offset and have not been copied, where a copy is in progress in the partition. -/
def State.uncopied (s : State) (part off : Nat) : List (Nat × Nat) :=
  (s.ckpt.copying.filter fun c => c.part == part).flatMap fun c => c.left.filter (unitMeets off 1)

/-- A unit of a partition copied as it stands, with its poison; CK, which the mark itself has set, is left out, and clears in
every leaf whose page has been copied. -/
def State.copyUnit (part : Nat) (s : State) (u : Nat × Nat) : State :=
  match s.ckpt.copying.find? fun c => c.part == part with
  | none => s
  | some c =>
    let byte (i : Nat) (b : Byte) : Byte := if c.leaves.any fun l => l.1 == u.1 + i then b &&& 0xEF#8 else b
    let poison := (List.range ((u.2 + 63) / 64)).filter fun i => s.mem.poisoned .hbm (s.hbmKey c.part (u.1 + 64 * i)) 1
    let left := c.left.erase u
    let copied (l : Nat × Nat × Nat) : Bool := unitMeets l.2.1 l.2.2 u && left.all fun v => !unitMeets l.2.1 l.2.2 v
    let bytes := (s.hbmBytes c.part u.1 u.2).zipIdx.map fun x => byte x.2 x.1
    let s := (c.leaves.filter copied).foldl (fun s l => s.putCk c.part l.1 false) s
    let d : Copying := { c with left := left, leaves := c.leaves.filter (fun l => !copied l), done := c.done ++ [⟨u.1, bytes, poison⟩] }
    { s with ckpt := { s.ckpt with
        waiting := s.ckpt.waiting.filter fun w => !(w.1 == part && w.2.1 == u.1)
        copying := s.ckpt.copying.map fun x => if x.part = part then d else x } }

/-- Before a write at an offset, its units are copied as they stood at the mark. -/
def State.beforeWrite (s : State) (part off : Nat) : State := (s.uncopied part off).foldl (State.copyUnit part) s

/-- Bytes within one 64-byte granule written at a partition offset. -/
def State.hbmStore (s : State) (part off : Nat) (bs : List Byte) : State :=
  let s := s.beforeWrite part off
  { s with mem := s.mem.store .hbm (s.hbmKey part off) bs }

/-! ## Translation (R403) -/

/-- Whether a cached entry serves an access of core or die cache owner `cache`: its own, or its die's. -/
def TlbEntry.serves (e : TlbEntry) (cache part troot va : Nat) : Bool :=
  e.part == part && e.troot == troot && (e.cache == cache || (cache < 256 && e.cache == 256 + cache / 64)) &&
    decide (e.base ≤ va) && decide (va < e.base + e.size)

/-- A page put into the caches that an access fills. -/
def State.fillTlb (s : State) (cache part troot : Nat) (p : Page) : State :=
  let mk (k : Nat) : TlbEntry := ⟨k, part, troot, p.vbase, p.size, p.base, p.read, p.write⟩
  let keys := if cache < 256 then [cache, 256 + cache / 64] else [cache]
  let old := s.tlb.filter fun e => !(keys.contains e.cache && e.part == part && e.troot == troot && e.base == p.vbase)
  { s with tlb := keys.map mk ++ old }

/-- The die whose walkers and caches serve a cache owner. -/
def cacheDie (cache : Nat) : Nat := if cache < 256 then cache / 64 else cache - 256

/-- A table entry as a die's walker sees it: read from HBM or, where the walk cache holds it, as that gives it; the device
chooses (R403, R404; log entry 12). -/
def State.walkEntry (s : State) (die part troot at' : Nat) : State × Nat :=
  match s.walks.find? fun w => w.die == die && w.part == part && w.troot == troot && w.at' == at' with
  | some w => let c := s.choose; (c.2, if c.1 then w.value else s.hbmNat part at' 8)
  | none => (s, s.hbmNat part at' 8)

/-- A table pointer put into a die's walk cache. -/
def State.noteWalk (s : State) (w : WalkEntry) : State :=
  { s with walks := w :: s.walks.filter fun x => !(x.die == w.die && x.part == w.part && x.troot == w.troot && x.at' == w.at') }

/-- The walk of a die's walkers from a table at level 3 − n (R401, R403). -/
def State.walkIn (s : State) (die part troot va : Nat) : Nat → Nat → State × Option Page
  | 0, _ => (s, none)
  | n + 1, t =>
    let level := 3 - n
    let at' := t + 8 * (va / 2 ^ (42 - 10 * level) % 1024)
    if s.capacity part < at' + 8 then (s, none)
    else
      let r := s.walkEntry die part troot at'
      let e := r.2
      if e % 2 = 0 then (r.1, none)
      else if e.testBit 1 then
        match tablePointer (s.capacity part) e with
        | some t' => (r.1.noteWalk ⟨die, part, troot, at', e⟩).walkIn die part troot va n t'
        | none => (r.1, none)
      else (r.1, leafPage (s.capacity part) level va at' e)

/-- The walk of a virtual address on a die. -/
def State.dieWalk (s : State) (die part troot va : Nat) : State × Option Page :=
  if 2 ^ 52 ≤ va then (s, none) else s.walkIn die part troot va 4 troot

/-- Translation of a virtual address for an access that needs R or W: the partition offset, or the fault cause 1 or 2
(R401 to R403). A cached entry may have left its cache: the device chooses (log entry 12). -/
def State.translate (s : State) (cache part troot va : Nat) (r w : Bool) : State × Except Nat Nat :=
  let answer (base off : Nat) (pr pw : Bool) : Except Nat Nat :=
    if (r && !pr) || (w && !pw) then .error 2 else .ok (base + off)
  let walk (s : State) : State × Except Nat Nat :=
    match s.dieWalk (cacheDie cache) part troot va with
    | (s, none) => (s, .error 1)
    | (s, some p) => (s.fillTlb cache part troot p, answer p.base (va - p.vbase) p.read p.write)
  match s.tlb.find? fun e => e.serves cache part troot va with
  | none => walk s
  | some e =>
    let c := s.choose
    if c.1 then walk c.2 else (c.2, answer e.page (va - e.base) e.read e.write)

/-- TRANSLATION_WALK (R401): for each job context of the partition the page enters the dies' caches. -/
def execTranslationWalk (part : Nat) (va : DWord) (s : State) : Result :=
  let roots := (s.jobs.filter fun j => j.2.present && j.2.part == part).map fun j => j.2.troot
  .next (roots.foldl (fun s troot =>
    (List.range 4).foldl (fun s d => match s.dieWalk d part troot va.toNat with
      | (s, none) => s
      | (s, some p) => s.fillTlb (256 + d) part troot p) s) s)

/-- TRANSLATION_INVALIDATE of a virtual range [lo, hi) under a TROOT, or without one of all of the partition: the leaves that it meets
leave every cache, and the walk caches drop what they hold of the partition (R404). -/
def execTranslationInvalidate (part : Nat) (troot : Option Nat) (lo hi : Nat) (s : State) : Result :=
  let dropped (e : TlbEntry) : Bool := e.part == part && match troot with
    | some r => e.troot == r && decide (e.base < hi) && decide (lo < e.base + e.size)
    | none => true
  .next { s with tlb := s.tlb.filter fun e => !dropped e, walks := s.walks.filter fun w => w.part != part }

end Sys2Proof.Machine
end

