-- ==== Sys2Proof/Machine/Spots.lean ====
section
/-! DEFINITION. A byte place that an engine or the fabric unit reaches: a memory of the package, or HBM of a partition.
Reads and writes of runs of bytes, granule by granule, with poison (R35, R213, R214, R231, R349). -/

namespace Sys2Proof.Machine

/-- A place of a byte. -/
inductive Spot where
  | mem (sp : Sp) (a : Nat)
  | hbm (part off : Nat)
  deriving DecidableEq, Repr

/-- The place n bytes on. -/
def Spot.plus (x : Spot) (n : Nat) : Spot :=
  match x with | .mem sp a => .mem sp (a + n) | .hbm p o => .hbm p (o + n)

/-- The offset of a place in its 64-byte granule. -/
def Spot.inGranule (x : Spot) : Nat := match x with | .mem _ a => a % 64 | .hbm _ o => o % 64

/-- The granule of a place, named by its first byte. -/
def Spot.granule (x : Spot) : Spot :=
  match x with | .mem sp a => .mem sp (a / 64 * 64) | .hbm p o => .hbm p (o / 64 * 64)

/-- Space and absolute address of a place. -/
def State.spotKey (s : State) (x : Spot) : Sp × Nat :=
  match x with | .mem sp a => (sp, a) | .hbm p o => (.hbm, s.hbmKey p o)

/-- The byte at a place. -/
def State.spotByte (s : State) (x : Spot) : Byte := let k := s.spotKey x; s.mem.byte k.1 k.2
/-- Whether the byte at a place is poisoned or lies in a tagged word. -/
def State.spotPoison (s : State) (x : Spot) : Bool := let k := s.spotKey x; s.mem.poisoned k.1 k.2 1

/-- n bytes from a place. -/
def State.spotBytes (s : State) (x : Spot) (n : Nat) : List Byte := (List.range n).map fun i => s.spotByte (x.plus i)
/-- Whether any of n bytes from a place is poisoned. -/
def State.spotsPoisoned (s : State) (x : Spot) (n : Nat) : Bool := (List.range n).any fun i => s.spotPoison (x.plus i)

/-- Bytes written within one granule as one write. -/
def State.spotPut (s : State) (x : Spot) (bs : List Byte) : State :=
  match x with
  | .mem sp a => { s with mem := s.mem.store sp a bs }
  | .hbm p o => s.hbmStore p o bs

/-- The space of a place as a clean mask names it. -/
def spCode : Sp → Nat | .bmem => 0 | .spad => 1 | .acc => 2 | .cells => 3 | .hbm => 4

/-- The granule of a place becomes poisoned. -/
def State.spotMark (s : State) (x : Spot) : State :=
  let k := s.spotKey x
  { s with mem := s.mem.mark k.1 k.2 }

/-- A run of bytes with their poison marks written from a place, one write for each granule it meets; a granule that
receives a marked byte is poisoned. n bounds the number of granules. -/
def State.spotRun (s : State) (x : Spot) : Nat → List (Byte × Bool) → State
  | 0, _ => s
  | n + 1, bs =>
    if bs.isEmpty then s
    else
      let k := 64 - x.inGranule
      let here := bs.take k
      let s := s.spotPut x (here.map Prod.fst)
      let s := if here.any Prod.snd then s.spotMark x else s
      s.spotRun (x.plus k) n (bs.drop k)

/-- A run of bytes written from a place. -/
def State.spotWrite (s : State) (x : Spot) (bs : List (Byte × Bool)) : State := s.spotRun x (bs.length / 64 + 2) bs

/-- The n-byte little-endian number at a place. -/
def State.spotNat (s : State) (x : Spot) (n : Nat) : Nat := leNat (s.spotBytes x n)

/-- The engine release of a sync object at a place: COUNT goes up by one (R28). -/
def State.spotRelease (s : State) (x : Spot) (clk : DWord) : State :=
  match x with
  | .mem .spad a => s.release true a clk
  | .mem .bmem a => s.release false a clk
  | _ =>
    let n := (s.spotNat (x.plus 4) 4 + 1) % 2 ^ 32
    s.spotPut (x.plus 4) (leBytes 4 n)

end Sys2Proof.Machine
end

