-- ==== Sys2Proof/Machine/Real.lean ====
section
/-! DEFINITION. The correctly rounded functions (R175): enclosures by integers in fixed point, refined until both ends
round alike. -/

namespace Sys2Proof.Machine

/-- An enclosure lo ≤ x × 2^P ≤ hi for a precision P the context gives. -/
structure Iv where
  lo : Int
  hi : Int
  deriving DecidableEq, Repr

/-- Floor and ceiling of a quotient by a positive number. -/
def floorDiv (a b : Int) : Int := a / b
/-- The ceiling of a quotient by a positive number. -/
def ceilDiv (a b : Int) : Int := -((-a) / b)

/-- Sum of enclosures. -/
def Iv.add (a b : Iv) : Iv := ⟨a.lo + b.lo, a.hi + b.hi⟩
/-- Difference of enclosures. -/
def Iv.sub (a b : Iv) : Iv := ⟨a.lo - b.hi, a.hi - b.lo⟩
/-- Negation. -/
def Iv.neg (a : Iv) : Iv := ⟨-a.hi, -a.lo⟩
/-- Product at precision p. -/
def Iv.mul (p : Nat) (a b : Iv) : Iv :=
  let w := a.lo * b.lo
  let x := a.lo * b.hi
  let y := a.hi * b.lo
  let z := a.hi * b.hi
  ⟨floorDiv (min (min w x) (min y z)) (2 ^ p), ceilDiv (max (max w x) (max y z)) (2 ^ p)⟩
/-- Quotient by a positive integer. -/
def Iv.divNat (a : Iv) (n : Nat) : Iv := ⟨floorDiv a.lo n, ceilDiv a.hi n⟩
/-- Product with an integer that is not negative. -/
def Iv.scale (a : Iv) (n : Nat) : Iv := ⟨a.lo * n, a.hi * n⟩
/-- Quotient by an enclosure of positive numbers, at precision p. -/
def Iv.div (p : Nat) (a b : Iv) : Iv :=
  let lo := a.lo * 2 ^ p
  let hi := a.hi * 2 ^ p
  ⟨floorDiv lo (if 0 ≤ lo then b.hi else b.lo), ceilDiv hi (if 0 ≤ hi then b.lo else b.hi)⟩
/-- The largest magnitude in an enclosure. -/
def Iv.mag (a : Iv) : Int := max (a.lo.natAbs : Int) a.hi.natAbs
/-- Widened by a bound on the magnitude of what was left out. -/
def Iv.widen (a : Iv) (e : Int) : Iv := ⟨a.lo - e, a.hi + e⟩
/-- The square root of an enclosure of numbers that are not negative, at precision p. -/
def Iv.sqrt (p : Nat) (a : Iv) : Iv :=
  ⟨isqrt (a.lo.toNat <<< p), (isqrt (a.hi.toNat <<< p) : Int) + 1⟩
/-- The number 1. -/
def Iv.one (p : Nat) : Iv := ⟨2 ^ p, 2 ^ p⟩
/-- mant × 2^exp at precision p. -/
def Iv.ofDyadic (p : Nat) (mant : Nat) (exp : Int) : Iv :=
  let s := exp + p
  if 0 ≤ s then let m : Int := (mant <<< s.toNat : Nat); ⟨m, m⟩
  else let m : Int := (mant >>> (-s).toNat : Nat); ⟨m, m + 1⟩

/-- The series z + z³/3 + z⁵/5 … with signs sgn alternating or not: k terms from the term t = z^(2j+1). -/
def oddSeries (p : Nat) (alt : Bool) (z2 : Iv) : Nat → Nat → Bool → Iv → Iv → Iv
  | 0, _, _, t, acc => acc.widen (2 * t.mag + 2)
  | k + 1, j, sgn, t, acc =>
    let term := t.divNat (2 * j + 1)
    oddSeries p alt z2 k (j + 1) (sgn != alt) (t.mul p z2) (if sgn then acc.sub term else acc.add term)

/-- atan z or atanh z for |z| ≤ 1/3. -/
def smallAtan (p : Nat) (alt : Bool) (z : Iv) : Iv := oddSeries p alt (z.mul p z) (p / 3 + 2) 0 false z ⟨0, 0⟩

/-- The enclosure of 1 ÷ n. -/
def Iv.inv (p n : Nat) : Iv := (Iv.one p).divNat n

/-- π by Machin's formula. -/
def ivPi (p : Nat) : Iv :=
  ((smallAtan p true (Iv.inv p 5)).scale 16).sub ((smallAtan p true (Iv.inv p 239)).scale 4)

/-- ln 2. -/
def ivLn2 (p : Nat) : Iv := (smallAtan p false (Iv.inv p 3)).scale 2

/-- The exponential series, k terms from number j. -/
def expSeries (p : Nat) (x : Iv) : Nat → Nat → Iv → Iv → Iv
  | 0, _, t, acc => acc.widen (2 * t.mag + 2)
  | k + 1, j, t, acc =>
    let t := (t.mul p x).divNat (j + 1)
    expSeries p x k (j + 1) t (acc.add t)

/-- e^x as an enclosure near [1, 2) and a power of two. -/
def ivExp (p : Nat) (x : Iv) : Iv × Int :=
  let l := ivLn2 p
  let k := floorDiv x.lo l.lo
  let r := if 0 ≤ k then x.sub (l.scale k.toNat) else x.add (l.scale (-k).toNat)
  (expSeries p r (p / 4 + 20) 0 (Iv.one p) (Iv.one p), k)

/-- ln (mant × 2^exp), mant > 0. -/
def ivLn (p : Nat) (mant : Nat) (exp : Int) : Iv :=
  let lg := Nat.log2 mant
  let big := decide (3 * mant > 4 * 2 ^ lg)
  let one : Int := if big then 2 ^ (lg + 1) else 2 ^ lg
  let e := exp + lg + (if big then 1 else 0)
  let num := ((mant : Int) - one) * 2 ^ p
  let den := (mant : Int) + one
  let z : Iv := ⟨floorDiv num den, ceilDiv num den⟩
  let l := ivLn2 p
  let m := (smallAtan p false z).scale 2
  if 0 ≤ e then m.add (l.scale e.toNat) else m.sub (l.scale (-e).toNat)

/-- The series of sin (d = 2) from t = x, or cos (d = 1) from t = 1: factors of the denominators d, d + 1. -/
def trigSeries (p : Nat) (x2 : Iv) : Nat → Nat → Bool → Iv → Iv → Iv
  | 0, _, _, t, acc => acc.widen (2 * t.mag + 2)
  | k + 1, d, sgn, t, acc =>
    let t := (t.mul p x2).divNat (d * (d + 1))
    trigSeries p x2 k (d + 2) (!sgn) t (if sgn then acc.sub t else acc.add t)

/-- sin or cos of mant × 2^exp, with the argument reduced by π/2 at a precision that covers its magnitude (R175). -/
def ivTrig (p : Nat) (cos : Bool) (mant : Nat) (exp : Int) : Iv :=
  let e := exp + Nat.log2 mant
  let w := p + 16 + (max e 0).toNat
  let x := Iv.ofDyadic w mant exp
  let half := (ivPi w).divNat 2
  let k := (floorDiv x.lo half.hi).toNat
  let r := x.sub (half.scale k)
  let d := (w - p : Nat)
  let r : Iv := ⟨floorDiv r.lo (2 ^ d), ceilDiv r.hi (2 ^ d)⟩
  let q := (k + cos.toNat) % 4
  let r2 := r.mul p r
  let v := if q % 2 = 0 then trigSeries p r2 (p / 4 + 20) 2 true r r
    else trigSeries p r2 (p / 4 + 20) 1 true (Iv.one p) (Iv.one p)
  if q < 2 then v else v.neg

/-- atan of an enclosure in [0, 1], the argument halved three times in angle. -/
def ivAtan01 (p : Nat) (z : Iv) : Iv :=
  let half (z : Iv) : Iv := z.div p ((Iv.one p).add (((Iv.one p).add (z.mul p z)).sqrt p))
  (smallAtan p true (half (half (half z)))).scale 8

/-- atan (y ÷ x) in (0, π/2) for positive dyadic y and x. -/
def ivAtanRatio (p : Nat) (y : Nat) (ey : Int) (x : Nat) (ex : Int) : Iv :=
  let q := min ey ex
  let y := y <<< (ey - q).toNat
  let x := x <<< (ex - q).toNat
  let ratio (a b : Nat) : Iv := let n := a <<< p; ⟨(n / b : Nat), (n / b + 1 : Nat)⟩
  if y ≤ x then ivAtan01 p (ratio y x) else ((ivPi p).divNat 2).sub (ivAtan01 p (ratio x y))

/-- The series of erf without its factor: terms x^(2n+1) (−1)^n ÷ n! ÷ (2n+1). -/
def erfSeries (p : Nat) (x2 : Iv) : Nat → Nat → Bool → Iv → Iv → Iv
  | 0, _, _, t, acc => acc.widen (2 * t.mag + 2)
  | k + 1, n, sgn, t, acc =>
    let term := t.divNat (2 * n + 1)
    erfSeries p x2 k (n + 1) (!sgn) ((t.mul p x2).divNat (n + 1)) (if sgn then acc.sub term else acc.add term)

/-- 2 ÷ √π. -/
def ivTwoOverSqrtPi (p : Nat) : Iv :=
  let pi := ivPi p
  let v : Iv := ⟨floorDiv (4 * 2 ^ (3 * p)) pi.hi, ceilDiv (4 * 2 ^ (3 * p)) pi.lo⟩
  ⟨isqrt v.lo.toNat, (isqrt v.hi.toNat : Int) + 1⟩

/-- A result whose magnitude lies strictly between lo and hi, times 2^exp: rounded when both ends round alike. -/
def settle (f : FloatFmt) (r : Rnd) (neg : Bool) (lo hi : Int) (exp : Int) : Option (Nat × Flags) :=
  if lo ≤ 0 then none
  else
    let a := roundFloat f r neg lo.toNat exp true
    let b := roundFloat f r neg (hi - 1).toNat exp true
    if a = b then some a else none

/-- An enclosure at precision p times 2^k, sign taken from it. -/
def settleIv (f : FloatFmt) (r : Rnd) (flip : Bool) (p : Nat) (v : Iv) (k : Int) : Option (Nat × Flags) :=
  if 0 < v.lo then settle f r flip (v.lo - 1) (v.hi + 1) (k - p)
  else if v.hi < 0 then settle f r (!flip) (-v.hi - 1) (-v.lo + 1) (k - p)
  else none

/-- A number just above (up) or just below 1, times 2^k. -/
def nearOne (f : FloatFmt) (r : Rnd) (neg up : Bool) (k : Int) : Nat × Flags :=
  roundFloat f r neg (if up then 2 ^ 140 else 2 ^ 140 - 1) (k - 140) true

/-- mant × 2^exp less a relative amount below 2^-139. -/
def justBelow (f : FloatFmt) (r : Rnd) (neg : Bool) (mant : Nat) (exp : Int) : Nat × Flags :=
  roundFloat f r neg (mant * 2 ^ 200 - 1) (exp - 200) true

/-- The first precision of the list at which g settles; failing that, the slow path's free value. -/
def refine (g : Nat → Option (Nat × Flags)) (slow : Nat × Flags) : List Nat → Nat × Flags
  | [] => slow
  | p :: rest => match g p with | some x => x | none => refine g slow rest

/-- The precisions tried, in bits: 320 doubled up to 39 times. -/
def precisions : List Nat := (List.range 40).map fun k => 320 * 2 ^ k

/-- The free value of a function whose refinement has not settled (log entry 13). -/
def slowPath (op : Nat) (f : FloatFmt) (r : Rnd) (a b : Nat) : Nat × Flags :=
  (Config.slowPathResult op (a + 2 ^ 64 * b) f.code r.mode % 2 ^ 64,
   Config.slowPathFlags op (a + 2 ^ 64 * b) f.code r.mode)

/-- The magnitude of a value against a power of two: ⌊log2⌋ of mant × 2^exp. -/
def logOf (mant : Nat) (exp : Int) : Int := Nat.log2 mant + exp

/-- e^(± mant × 2^exp) for an exponent not zero, times 2^0. -/
def expDyadic (f : FloatFmt) (r : Rnd) (slow : Nat × Flags) (neg : Bool) (m : Nat) (e : Int) : Nat × Flags :=
  let lg := logOf m e
  if lg < -140 then nearOne f r false (!neg) 0
  else if 12 < lg then roundFloat f r false 1 (if neg then -9000 else 9000) true
  else refine (fun p =>
    let x := Iv.ofDyadic p m e
    let (v, k) := ivExp p (if neg then x.neg else x)
    settleIv f r false p v k) slow precisions

/-- FEXP (R175). -/
def fExp (f : FloatFmt) (r : Rnd) (a : Nat) : Nat × Flags :=
  match readFloat f r a with
  | .inf n => if n then (packSign f false 0, 0) else (infBits f false, 0)
  | .num n m e => if m = 0 then roundFloat f r false 1 0 false else expDyadic f r (slowPath 0x30 f r a 0) n m e
  | v => withNans f r [v] (0, 0)

/-- FEXP2 (R175): exact at integers. -/
def fExp2 (f : FloatFmt) (r : Rnd) (a : Nat) : Nat × Flags :=
  match readFloat f r a with
  | .inf n => if n then (packSign f false 0, 0) else (infBits f false, 0)
  | .num n m e =>
    if m = 0 then roundFloat f r false 1 0 false
    else
      let lg := logOf m e
      if 13 < lg then roundFloat f r false 1 (if n then -9000 else 9000) true
      else if lg < -140 then nearOne f r false (!n) 0
      else
        let whole := if 0 ≤ e then true else m % 2 ^ (-e).toNat == 0
        let k : Int := if 0 ≤ e then (m <<< e.toNat : Nat) else (m >>> (-e).toNat : Nat)
        if whole then roundFloat f r false 1 (if n then -k else k) false
        else refine (fun p =>
          let x := (Iv.ofDyadic p m e).mul p (ivLn2 p)
          let (v, k) := ivExp p (if n then x.neg else x)
          settleIv f r false p v k) (slowPath 0x31 f r a 0) precisions
  | v => withNans f r [v] (0, 0)

/-- FLOG and FLOG2 (R175). -/
def fLog (two : Bool) (f : FloatFmt) (r : Rnd) (a : Nat) : Nat × Flags :=
  match readFloat f r a with
  | .inf n => if n then invalidBits f else (infBits f false, 0)
  | .num n m e =>
    if m = 0 then (infBits f true, flagDZ)
    else if n then invalidBits f
    else
      let lg := Nat.log2 m
      if m = 2 ^ lg && (two || (lg : Int) + e = 0) then roundExact f r ⟨(lg : Int) + e, 0⟩ false
      else refine (fun p =>
        let v := ivLn p m e
        settleIv f r false p (if two then v.div p (ivLn2 p) else v) 0)
        (slowPath (if two then 0x33 else 0x32) f r a 0) precisions
  | v => withNans f r [v] (0, 0)

/-- FSIN and FCOS (R175). -/
def fTrig (cos : Bool) (f : FloatFmt) (r : Rnd) (a : Nat) : Nat × Flags :=
  match readFloat f r a with
  | .inf _ => invalidBits f
  | .num n m e =>
    if m = 0 then (if cos then roundFloat f r false 1 0 false else (packSign f n 0, 0))
    else if logOf m e < -72 then (if cos then nearOne f r false false 0 else justBelow f r n m e)
    else refine (fun p => settleIv f r (n && !cos) p (ivTrig p cos m e) 0)
      (slowPath (if cos then 0x35 else 0x34) f r a 0) precisions
  | v => withNans f r [v] (0, 0)

/-- FTANH (R175). -/
def fTanh (f : FloatFmt) (r : Rnd) (a : Nat) : Nat × Flags :=
  match readFloat f r a with
  | .inf n => roundFloat f r n 1 0 false
  | .num n m e =>
    if m = 0 then (packSign f n 0, 0)
    else if logOf m e < -72 then justBelow f r n m e
    else if 7 ≤ logOf m e then nearOne f r n false 0
    else refine (fun p =>
      let (v, k) := ivExp p (Iv.ofDyadic p m (e + 1))
      let x := v.scale (2 ^ k.toNat)
      settleIv f r n p ((x.sub (Iv.one p)).div p (x.add (Iv.one p))) 0) (slowPath 0x36 f r a 0) precisions
  | v => withNans f r [v] (0, 0)

/-- FSIGM (R175). -/
def fSigmoid (f : FloatFmt) (r : Rnd) (a : Nat) : Nat × Flags :=
  match readFloat f r a with
  | .inf n => if n then (packSign f false 0, 0) else roundFloat f r false 1 0 false
  | .num n m e =>
    if m = 0 then roundFloat f r false 1 (-1) false
    else if logOf m e < -140 then nearOne f r false (!n) (-1)
    else if 7 ≤ logOf m e && !n then nearOne f r false false 0
    else if 12 < logOf m e then roundFloat f r false 1 (-9000) true
    else refine (fun p =>
      let (v, k) := ivExp p (Iv.ofDyadic p m e).neg
      let s := (-k).toNat
      let x : Iv := ⟨v.lo / 2 ^ s, v.hi / 2 ^ s + 1⟩
      let den := (Iv.one p).add x
      if n then settleIv f r false p (v.div p den) k
      else settleIv f r false p ((Iv.one p).div p den) 0) (slowPath 0x37 f r a 0) precisions
  | v => withNans f r [v] (0, 0)

/-- FERF (R175). -/
def fErf (f : FloatFmt) (r : Rnd) (a : Nat) : Nat × Flags :=
  match readFloat f r a with
  | .inf n => roundFloat f r n 1 0 false
  | .num n m e =>
    if m = 0 then (packSign f n 0, 0)
    else if 4 ≤ logOf m e then nearOne f r n false 0
    else refine (fun p =>
      let c := ivTwoOverSqrtPi p
      if logOf m e < -72 then
        let lo := c.lo * m
        settle f r n (lo - lo / 2 ^ 138 - 1) (c.hi * m + 1) (e - p)
      else
        let w := p + 400
        let x := Iv.ofDyadic w m e
        let s := erfSeries w (x.mul w x) (p / 2 + 900) 0 false x ⟨0, 0⟩
        settleIv f r n w (s.mul w (ivTwoOverSqrtPi w)) 0) (slowPath 0x38 f r a 0) precisions
  | v => withNans f r [v] (0, 0)

/-- A multiple num ÷ den of π, rounded. -/
def piTimes (op : Nat) (f : FloatFmt) (r : Rnd) (neg : Bool) (num den : Nat) : Nat × Flags :=
  refine (fun p => settleIv f r neg p (((ivPi p).scale num).divNat den) 0) (slowPath op f r num den) precisions

/-- atan2 of the special cases of IEEE 754-2019, and atan (y ÷ x) (R175). -/
def atan2Val (f : FloatFmt) (r : Rnd) (slow : Nat × Flags) (y x : Val) : Nat × Flags :=
  withNans f r [y, x]
    (match y, x with
     | .inf n, .inf m => piTimes 0x3A f r n (if m then 3 else 1) 4
     | .inf n, _ => piTimes 0x3A f r n 1 2
     | y, .inf m => if m then piTimes 0x3A f r y.neg 1 1 else (packSign f y.neg 0, 0)
     | .num n my ey, .num m mx ex =>
       if my = 0 then (if m then piTimes 0x3A f r n 1 1 else (packSign f n 0, 0))
       else if mx = 0 then piTimes 0x3A f r n 1 2
       else if logOf my ey - logOf mx ex < -72 && !m then
         let (q, e, st) := quotient (my <<< 200) mx (ey - ex - 200)
         match settle f r n ((q : Int) - q / 2 ^ 138 - 1) (if st then q + 1 else q) e with
         | some x => x
         | none => if st then slow else justBelow f r n q e
       else refine (fun p =>
         let v := ivAtanRatio p my ey mx ex
         settleIv f r n p (if m then (ivPi p).sub v else v) 0) slow precisions
     | _, _ => invalidBits f)

/-- FATAN in both forms (R175). -/
def fAtan (f : FloatFmt) (r : Rnd) (two : Bool) (a b : Nat) : Nat × Flags :=
  atan2Val f r (slowPath 0x3A f r a b) (readFloat f r a) (if two then readFloat f r b else .one)

/-- mant × 2^exp with the mantissa made odd, by at most fuel halvings. -/
def oddPart : Nat → Nat → Int → Nat × Int
  | 0, m, e => (m, e)
  | fuel + 1, m, e => if m % 2 = 0 && m != 0 then oddPart fuel (m / 2) (e + 1) else (m, e)

/-- The exact 2^k-th root of an odd mantissa and exponent, if there is one. -/
def exactRoot : Nat → Nat → Int → Option (Nat × Int)
  | 0, m, e => some (m, e)
  | k + 1, m, e =>
    let s := isqrt m
    if s * s = m && e % 2 = 0 then exactRoot k s (e / 2) else none

/-- x^y for positive x not 1 and y not zero. -/
def powPos (f : FloatFmt) (r : Rnd) (slow : Nat × Flags) (neg : Bool) (mx : Nat) (ex : Int) (yn : Bool) (my : Nat)
    (ey : Int) : Nat × Flags :=
  let (mx, ex) := oddPart 64 mx ex
  let (my, ey) := oddPart 64 my ey
  -- y = ± n ÷ 2^k with k ≤ 12 and n ≤ 4096: the exact cases
  let k := (-ey).toNat
  let n := my <<< (max ey 0).toNat
  let small := decide (ey ≤ 13) && decide (k ≤ 12) && decide (logOf my (max ey 0) ≤ 13)
  let rooted := if small then exactRoot k mx ex else none
  let plain := refine (fun p =>
      let l := ivLn p mx ex
      let t := l.mul p (Iv.ofDyadic p my ey)
      let t := if yn then t.neg else t
      let lim : Int := 9000 * 2 ^ p
      if lim < t.lo then some (roundFloat f r neg 1 9000 true)
      else if t.hi < -lim then some (roundFloat f r neg 1 (-9000) true)
      else if logOf my ey < -160 then some (nearOne f r neg (decide (0 < l.lo) != yn) 0)
      else
        let (v, e) := ivExp p t
        settleIv f r neg p v e) slow precisions
  match rooted with
  | some (z, ez) =>
    if z = 1 then roundFloat f r neg 1 (max (-9000) (min 9000 (if yn then -(ez * n) else ez * n))) false
    else if n ≤ 60 then
      if yn then
        let (q, e, st) := quotient 1 (z ^ n) (-(ez * n))
        roundFloat f r neg q e st
      else roundFloat f r neg (z ^ n) (ez * n) false
    else plain
  | none => plain

/-- FPOW (R175): the special cases of pow in IEEE 754-2019, clause 9.2.1. -/
def fPow (f : FloatFmt) (r : Rnd) (a b : Nat) : Nat × Flags :=
  let x := readFloat f r a
  let y := readFloat f r b
  let one := roundFloat f r false 1 0 false
  let isOne (v : Val) := match v with | .num n m e => !n && m != 0 && (oddPart 64 m e) == (1, 0) | _ => false
  let yZero := match y with | .num _ m _ => m == 0 | _ => false
  if sigFlags [x, y] = 0 && (yZero || isOne x) then one
  else withNans f r [x, y]
    (-- whether y is an odd integer, and whether it is an integer
     let (yInt, yOdd) : Bool × Bool := match y with
       | .num _ m e =>
         let (m, e) := oddPart 64 m e
         (decide (0 ≤ e), decide (e = 0) && m % 2 == 1)
       | _ => (true, false)
     match x, y with
     | .num n 0 _, .inf yn => if yn then (infBits f false, 0) else (packSign f (n && false) 0, 0)
     | .num n 0 _, y =>
       if y.neg then (infBits f (n && yOdd), flagDZ) else (packSign f (n && yOdd) 0, 0)
     | .inf n, y =>
       let s := n && yOdd
       if y.neg then (packSign f s 0, 0) else (infBits f s, 0)
     | .num _ m e, .inf yn =>
       let c := cmpFinite (Val.num false m e).exact ⟨1, 0⟩
       if c = 0 then one
       else if decide (0 < c) != yn then (infBits f false, 0) else (packSign f false 0, 0)
     | .num n m e, .num yn my ey =>
       if n && !yInt then invalidBits f
       else if (oddPart 64 m e) == (1, 0) then roundFloat f r (n && yOdd) 1 0 false
       else powPos f r (slowPath 0x39 f r a b) (n && yOdd) m e yn my ey
     | _, _ => invalidBits f)

/-- The constants k48 to k63 of R105 in a format, rounded RNE. -/
def lateConst (f : FloatFmt) (j : Nat) : Nat :=
  let rat (n : Nat) := let (q, e, st) := quotient 1 n 0; (roundFloat f .rne false q e st).1
  let p := 320
  let iv (v : Iv) := match settleIv f .rne false p v 0 with | some x => x.1 | none => 0
  match j with
  | 48 => rat 3 | 49 => rat 5 | 50 => rat 6 | 51 => rat 7 | 52 => rat 9 | 53 => rat 10 | 54 => rat 12 | 55 => rat 255
  | 56 => iv (ivPi p)
  | 57 => iv ((ivPi p).divNat 2)
  | 58 => iv ((Iv.one p).div p (ivPi p))
  | 59 => iv (ivLn2 p)
  | 60 => iv ((Iv.one p).div p (ivLn2 p))
  | 61 => let (q, e, st) := sqrtExact 2 0; (roundFloat f .rne false q e st).1
  | 62 => let (q, e, st) := sqrtExact 1 (-1); (roundFloat f .rne false q e st).1
  | _ => iv ((ivExp p (Iv.one p)).1.scale (2 ^ (ivExp p (Iv.one p)).2.toNat))

/-- The inline constant kj of R105 in a floating format, rounded RNE. -/
def constBits (f : FloatFmt) (j : Nat) : Nat :=
  if j < 16 then (roundFloat f .rne false j 0 false).1
  else if j < 32 then (roundFloat f .rne true (j - 15) 0 false).1
  else if j < 48 then (roundFloat f .rne false 1 ((j : Int) - 40) false).1
  else lateConst f j

end Sys2Proof.Machine
end

