-- ==== Sys2Proof/Machine/Operands.lean ====
section
/-! DEFINITION. Lane operands and the way a lane instruction runs (R99 to R110, R113, R157 to R161): which fields an
instruction uses, the checks at the head of the lane queue in their order, the reading of every source code, emptiness,
the writing and pushing of results, and the repeat state. Each lane instruction gives a Shape and a body. -/

namespace Sys2Proof.Machine

/-! ## Shapes -/

/-- What an instruction does with DST (R106, R107): nothing, a result that is written and pushed, a long-latency
destination, or a register of its own way (LRST). -/
inductive DstUse where
  | none | push | long | reg
  deriving DecidableEq, Repr

/-- How FMT is read (R103, R105): unused, an integer type, or a floating or other number format. -/
inductive FmtKind where
  | none | int | float
  deriving DecidableEq, Repr

/-- The codes a source of a memory instruction may have (R190, R193, R199). -/
inductive SrcRule where
  /-- any operand -/
  | any
  /-- s, o, v or 0x18 -/
  | base
  /-- o, v or 0x18 -/
  | index
  /-- s or 0x18 -/
  | sbase
  /-- o or v -/
  | register
  deriving DecidableEq, Repr

/-- The fields an instruction uses and the values it accepts. -/
structure Shape where
  op : BitVec 8
  /-- Sources used: bit 0 SA, bit 1 SB, bit 2 SC. -/
  uses : BitVec 3
  dst : DstUse
  kind : FmtKind
  /-- Accepted FMT codes. -/
  fmts : List Nat
  /-- Mask of the source format in MOD and the codes it accepts (R180). -/
  srcFmt : Option (Nat × List Nat)
  /-- none: RND unused; some true: RSTO accepted (R79, R81). -/
  rnd : Option Bool
  /-- MOD bits with a use. -/
  md : BitVec 8
  /-- IMM bits with a use, when the instruction gives IMM a use of its own (R157). -/
  imm : Option Word
  /-- Field number and value of a reserved value in a used field. -/
  bad : Option (Nat × Nat)
  ruleA : SrcRule
  ruleB : SrcRule
  ruleC : SrcRule
  /-- Rounding draws of one executing lane under RSTO (R81). -/
  draws : Nat
  /-- Source a is read in every member lane (R159). -/
  members : Bool
  /-- Waits for every earlier lane instruction of the crew (R197). -/
  idle : Bool
  /-- Ignores emptiness (R199). -/
  anyState : Bool
  deriving DecidableEq, Repr

/-- An instruction that uses no field. -/
def Shape.bare (op : BitVec 8) : Shape :=
  { op := op, uses := 0, dst := .none, kind := .none, fmts := [0], srcFmt := none, rnd := none, md := 0, imm := none
    bad := none, ruleA := .any, ruleB := .any, ruleC := .any, draws := 0, members := false, idle := false
    anyState := false }

/-- The integer types (R78). -/
def intCodes : List Nat := [0, 1, 2, 3, 4, 5, 6, 7]
/-- The formats of the lane arithmetic (R74). -/
def floatCodes : List Nat := [0, 1, 2, 3, 4]
/-- The floating formats of R69. -/
def allFloatCodes : List Nat := [0, 1, 2, 3, 4, 5, 6, 7, 8, 9]
/-- The block formats of R71. -/
def blockCodes : List Nat := [22, 23, 24, 25, 26, 27, 28, 29, 30, 31]

/-- A pushing instruction without format. -/
def shMove (op : BitVec 8) (uses : BitVec 3) : Shape := { Shape.bare op with uses := uses, dst := .push }
/-- A pushing integer instruction. -/
def shInt (op : BitVec 8) (uses : BitVec 3) (md : BitVec 8) : Shape :=
  { Shape.bare op with uses := uses, dst := .push, kind := .int, fmts := intCodes, md := md }
/-- A pushing floating instruction that does not round. -/
def shFloat (op : BitVec 8) (uses : BitVec 3) (md : BitVec 8) : Shape :=
  { Shape.bare op with uses := uses, dst := .push, kind := .float, fmts := floatCodes, md := md }
/-- Whether RSTO may round into a lane arithmetic format: fewer than 24 significand bits (R81). -/
def stoOk (fmt : BitVec 5) : Bool := decide (2 ≤ fmt.toNat)
/-- A pushing floating instruction that rounds. -/
def shRound (op : BitVec 8) (uses : BitVec 3) (f : LaneFields) : Shape :=
  { shFloat op uses 0 with rnd := some (stoOk f.fmt), draws := 1 }
/-- A correctly rounded function (R175). -/
def shFunction (op : BitVec 8) (uses : BitVec 3) (f : LaneFields) : Shape := { shRound op uses f with dst := .long }
/-- An instruction that accepts both tables, by MOD[7] (R157). -/
def shBoth (op : BitVec 8) (uses : BitVec 3) (md : BitVec 8) (f : LaneFields) : Shape :=
  { Shape.bare op with
    uses := uses, dst := .push, md := md ||| 0x80
    kind := if f.md.getLsbD 7 then .int else .float
    fmts := if f.md.getLsbD 7 then intCodes else floatCodes }

/-! ## Source codes -/

/-- A code of o0 to o7 or v0 to v63. -/
def isReg (c : BitVec 8) : Bool := (0x10 ≤ c && c ≤ 0x17) || (0x40 ≤ c && c ≤ 0x7F)
/-- A code of s0 to s31. -/
def isSreg (c : BitVec 8) : Bool := 0xC0 ≤ c && c ≤ 0xDF
/-- A code of k48 to k63. -/
def isLateConst (c : BitVec 8) : Bool := 0xB0 ≤ c && c ≤ 0xBF
/-- LANE, CREW, BLOCK, SPLIT, TIMEL or RAND. -/
def isIdentity (c : BitVec 8) : Bool := (0x19 ≤ c && c ≤ 0x1C) || c == 0x1E || c == 0x1F
/-- The index of an o or v register in a lane: v at 0 to 63, o at 64 to 71. -/
def regIndex (c : BitVec 8) : Nat := if c < 0x40 then c.toNat - 0x10 + 64 else c.toNat - 0x40
/-- Whether a source code obeys its rule. -/
def SrcRule.ok (r : SrcRule) (c : BitVec 8) : Bool :=
  match r with
  | .any => true
  | .base => isReg c || isSreg c || c == 0x18
  | .index => isReg c || c == 0x18
  | .sbase => isSreg c || c == 0x18
  | .register => isReg c

/-- Source code k (0 SA, 1 SB, 2 SC). -/
def srcCode (f : LaneFields) (k : Nat) : BitVec 8 :=
  match k with | 0 => f.sa | 1 => f.sb | _ => f.sc
/-- The rule of source k. -/
def Shape.rule (sh : Shape) (k : Nat) : SrcRule :=
  match k with | 0 => sh.ruleA | 1 => sh.ruleB | _ => sh.ruleC

/-! ## The checks at the head of the queue (R113) -/

/-- A trap of the lane stream not tied to a lane. -/
def laneInfo (code : BitVec 8) (detail opnd : Nat) : TrapInfo :=
  ⟨code, BitVec.ofNat 16 detail, 0, BitVec.ofNat 32 opnd, 0x7F, 0⟩
/-- A trap of the lane stream with its address and lowest lane. -/
def laneInfoAt (code : BitVec 8) (detail addr opnd low : Nat) : TrapInfo :=
  ⟨code, BitVec.ofNat 16 detail, BitVec.ofNat 32 addr, BitVec.ofNat 32 opnd, BitVec.ofNat 7 low, 0⟩

/-- The trap of the first check that fails. -/
def firstTrap : List (Bool × TrapInfo) → Option TrapInfo
  | [] => none
  | (true, t) :: _ => some t
  | (false, _) :: rest => firstTrap rest

/-- Reserved bits and values, in field-number order (R100, R101). -/
def Shape.reserved (sh : Shape) (f : LaneFields) : List (Bool × TrapInfo) :=
  let unused (k : Nat) : Bool := !sh.uses.getLsbD k
  let lit := (List.range 3).any fun k => sh.uses.getLsbD k && srcCode f k == 0x1D
  [(sh.dst = .none && f.dst != 0xFF, laneInfo 0x02 1 f.dst.toNat)] ++
  (List.range 3).map (fun k => (unused k && srcCode f k != 0x18, laneInfo 0x02 (2 + k) (srcCode f k).toNat)) ++
  (List.range 3).map (fun k => (unused k && f.fe.getLsbD k, laneInfo 0x02 5 (srcCode f k).toNat)) ++
  [(sh.kind = .none && f.fmt != 0, laneInfo 0x01 6 f.fmt.toNat),
   (sh.rnd.isNone && f.rnd != 0, laneInfo 0x01 7 f.rnd.toNat),
   (f.pred == 15 && f.pneg == 1, laneInfo 0x01 8 15),
   (f.md &&& ~~~sh.md != 0, laneInfo 0x01 9 f.md.toNat),
   (match sh.imm with
    | some m => f.imm &&& ~~~m != 0
    | none => f.imm != 0 && !lit, laneInfo 0x01 10 f.imm.toNat),
   (sh.bad.isSome, match sh.bad with | some (n, v) => laneInfo 0x01 n v | none => laneInfo 0 0 0)]

/-- Source and destination codes (R102 to R108, R157, R190). -/
def Shape.operands (sh : Shape) (det : Bool) (f : LaneFields) : List (Bool × TrapInfo) :=
  [((sh.dst = .push && f.dst != 0xFF && !isReg f.dst) || ((sh.dst = .long || sh.dst = .reg) && !isReg f.dst),
    laneInfo 0x02 1 f.dst.toNat)] ++
  (List.range 3).flatMap fun k =>
    let c := srcCode f k
    let on := sh.uses.getLsbD k
    [(on && ((0x20 ≤ c && c ≤ 0x3F) || 0xE0 ≤ c), laneInfo 0x02 (2 + k) c.toNat),
     (on && f.fe.getLsbD k && (!isReg c || sh.anyState), laneInfo 0x02 5 c.toNat),
     (on && ((c == 0x1D && sh.imm.isSome) || (c == 0x1E && det) || (sh.kind = .float && isIdentity c) ||
             (sh.kind ≠ .float && isLateConst c) || !(sh.rule k).ok c), laneInfo 0x02 (2 + k) c.toNat)]

/-- Format and rounding codes (R74, R78, R79, R81, R82). -/
def Shape.formats (sh : Shape) (fmtr : Word) (f : LaneFields) : List (Bool × TrapInfo) :=
  let src := match sh.srcFmt with | some (m, _) => f.md.toNat &&& m | none => 0
  [(!sh.fmts.contains f.fmt.toNat, laneInfo 0x03 6 f.fmt.toNat),
   (match sh.srcFmt with | some (_, l) => !l.contains src | none => false, laneInfo 0x03 9 src),
   (sh.rnd.isSome && f.rnd == 7, laneInfo 0x03 7 7),
   (sh.rnd == some false && f.rnd == 5, laneInfo 0x03 7 5),
   (sh.rnd == some false && f.rnd == 6 && fmtr.extractLsb' 15 3 == 5, laneInfo 0x03 13 5)]

/-- The encoding checks of a lane instruction in the order of R113: privilege, reserved fields, operand codes, formats. -/
def Shape.check (sh : Shape) (priv det : Bool) (fmtr : Word) (f : LaneFields) : Option TrapInfo :=
  firstTrap ((decide (0x80 ≤ sh.op) && !priv, laneInfo 0x06 0 sh.op.toNat) ::
    sh.reserved f ++ sh.operands det f ++ sh.formats fmtr f)

/-! ## The instruction at the head -/

/-- A lane instruction at the head of the queue of the crew in focus: its entry, its fields with the repeat offsets
added, the executing and the member lanes, and the crew and time as it finds them. -/
structure Ctx where
  sh : Shape
  f : LaneFields
  e : LaneEntry
  exec : LaneMask
  members : LaneMask
  c : Crew
  time : DWord
  deriving DecidableEq, Repr

/-- The executing lanes in ascending order. -/
def Ctx.lanes (x : Ctx) : List Nat := (List.range 96).filter fun i => x.exec.getLsbD i

/-- The lane predicate n of a lane; p15 is true (R161). -/
def LaneState.pred (l : LaneState) (n : Nat) : Bool := n == 15 || l.preds.getLsbD n

/-- A lane mask from a test of each lane. -/
def laneMask (p : Nat → Bool) : LaneMask :=
  (List.range 96).foldl (fun m i => if p i then m ||| (1#96 <<< i) else m) 0

/-- The lanes of a recorded mask whose guard holds (R101). -/
def executing (f : LaneFields) (c : Crew) (mask : LaneMask) : LaneMask :=
  laneMask fun i => mask.getLsbD i && ((c.lane i).pred f.pred.toNat != (f.pneg == 1))

/-- The format a source's 32-bit values are widened in: none, an integer type or a floating code. -/
inductive SrcFmt where
  | raw
  | int (ty : Nat)
  | float (code : Nat)
  deriving DecidableEq, Repr

/-- The format of source k: the instruction's, but for the source format of a conversion (R103, R180). -/
def Ctx.srcFmt (x : Ctx) (k : Nat) : SrcFmt :=
  match x.sh.kind with
  | .none => .raw
  | .int =>
    if x.sh.op = 0x43 then .int (x.f.md.toNat % 8)
    else .int (if x.f.fmt < 8 then x.f.fmt.toNat else 0)
  | .float =>
    if (x.sh.op = 0x40 || x.sh.op = 0x48) && k == 0 then .float (x.f.md.toNat % 32) else .float x.f.fmt.toNat

/-- What an inline constant is converted to. -/
inductive ConstFmt where
  | raw
  | int (t : IntTy)
  | elem (code : Nat)
  deriving DecidableEq, Repr

/-- The format of the inline constants: the one that FMT names (R105). DEDUCED: so too where the instruction reads the
operand in another format or type than FMT's; of a block format it is the element's (log entry 19). -/
def Ctx.constFmt (x : Ctx) : ConstFmt :=
  match x.sh.kind with
  | .none => .raw
  | .int => .int (if x.f.fmt < 8 then intTy x.f.fmt.toNat else elemInt x.f.fmt.toNat)
  | .float => .elem x.f.fmt.toNat

/-- The integer that an inline constant k0 to k47 stands for (R105). -/
def constInt (j : Nat) : Int := if j < 16 then j else if j < 32 then 15 - (j : Int) else 2 ^ (j - 32)

/-- An inline constant in an operand format, rounded RNE: into a tapered or block format by way of F64, since no constant
lies within F64's rounding of a point where such a format's rounding turns. -/
def constElem (c j : Nat) : Nat :=
  if c ≤ 9 then constBits (floatFmt c) j
  else (roundElem c .rne (decodeFloat (floatFmt 0) (constBits (floatFmt 0) j)) false).1

/-- An inline constant in a format (R105). -/
def constVal (t : ConstFmt) (j : Nat) : DWord :=
  match t with
  | .raw => BitVec.ofInt 64 (constInt j)
  | .int t => intBits t (constInt j)
  | .elem c => BitVec.ofNat 64 (constElem c j)

/-- A binary32 pattern widened exactly to binary64 (R103). -/
def widenF32 (w : Nat) : DWord :=
  match decodeFloat (floatFmt 1) w with
  | .nan n frac _ => BitVec.ofNat 64 ((if n then 2 ^ 63 else 0) + 0x7FF * 2 ^ 52 + frac)
  | v => BitVec.ofNat 64 (roundVal (floatFmt 0) .rne v).1

/-- A 32-bit source read as source k of an instruction (R103): the operand n of FSCL and CVTS has 32 bits; the operand
of CVFI and CVIF is read in the source format or type; the element selector of LDA and STA is read as bits (R261). -/
def Ctx.widen (x : Ctx) (k : Nat) (w : Word) : DWord :=
  if (x.sh.op = 0x2D || x.sh.op = 0x48) && k == 1 then w.setWidth 64
  else if (x.sh.op = 0x70 || x.sh.op = 0x71) && k == 0 then w.setWidth 64
  else if x.sh.op = 0x41 then (if x.f.md.toNat % 32 = 0 then widenF32 w.toNat else w.setWidth 64)
  else if x.sh.op = 0x42 then (if x.f.md.toNat % 8 = 2 then w.signExtend 64 else w.setWidth 64)
  else match x.srcFmt k with
    | .int 2 => w.signExtend 64
    | .float 0 => widenF32 w.toNat
    | _ => w.setWidth 64

/-- RAND sources before source k (R104). -/
def Ctx.randsBefore (x : Ctx) (k : Nat) : Nat :=
  ((List.range k).filter fun j => x.sh.uses.getLsbD j && srcCode x.f j == 0x1F).length

/-- Draw number n after the lane's count (R185). -/
def LaneState.drawN (l : LaneState) (n : Nat) : Word := drawAt l.sigma (l.count + BitVec.ofNat 32 n)

/-- The recorded s value of source k (R44). -/
def LaneEntry.sval (e : LaneEntry) (k : Nat) : Word := match k with | 0 => e.svA | 1 => e.svB | _ => e.svC

/-- The value and poison of an o or v register or queue entry of a lane. -/
def LaneState.read (l : LaneState) (c : BitVec 8) : QVal :=
  if c < 0x10 then l.queue.getD c.toNat ⟨0, false⟩
  else let r := l.reg (regIndex c); ⟨r.val, r.poison⟩

/-- Whether a code names the result queue, an o or a v register. -/
def isLaneValue (c : BitVec 8) : Bool := c < 0x10 || isReg c

/-- The value of source k in a lane (R102 to R105). -/
def Ctx.val (x : Ctx) (k i : Nat) : DWord :=
  let c := srcCode x.f k
  if isLaneValue c then ((x.c.lane i).read c).val
  else if c = 0x18 then 0
  else if c = 0x19 then BitVec.ofNat 64 i
  else if c = 0x1A then BitVec.ofNat 64 x.c.index
  else if c = 0x1B then BitVec.ofNat 64 x.c.block
  else if c = 0x1C then BitVec.ofNat 64 x.e.split
  else if c = 0x1D then x.widen k x.f.imm
  else if c = 0x1E then x.widen k (x.time.setWidth 32)
  else if c = 0x1F then ((x.c.lane i).drawN (x.randsBefore k)).setWidth 64
  else if isSreg c then x.widen k (x.e.sval k)
  else constVal x.constFmt (c.toNat - 0x80)

/-- Whether source k is poisoned in a lane. -/
def Ctx.poison (x : Ctx) (k i : Nat) : Bool :=
  isLaneValue (srcCode x.f k) && ((x.c.lane i).read (srcCode x.f k)).poison

/-- Whether any used source is poisoned in a lane. -/
def Ctx.anyPoison (x : Ctx) (i : Nat) : Bool := (List.range 3).any fun k => x.sh.uses.getLsbD k && x.poison k i

/-- The rounding mode in force: DYN reads the recorded FMTR (R79). -/
def Ctx.mode (x : Ctx) : Nat := if x.f.rnd = 6 then (x.e.fmtr.extractLsb' 15 3).toNat else x.f.rnd.toNat

/-- The rounding of the j-th result element of a lane, with the draw that RSTO takes (R81, R104). -/
def Ctx.rounding (x : Ctx) (i j : Nat) : Rnd :=
  rndOf x.mode x.e.fmtr (((x.c.lane i).drawN (x.randsBefore 3 + j)).toNat / 2 ^ 16)

/-- Draws one executing lane takes (R104). -/
def Ctx.drawCount (x : Ctx) : Nat := x.randsBefore 3 + (if x.mode = 5 && x.sh.rnd.isSome then x.sh.draws else 0)

/-- Every lane of a list changed by its index. -/
def mapLanes (g : Nat → LaneState → LaneState) : Nat → List LaneState → List LaneState
  | _, [] => []
  | i, l :: rest => g i l :: mapLanes g (i + 1) rest

/-- The crew with its executing lanes changed by g. -/
def Ctx.mapExec (x : Ctx) (g : Nat → LaneState → LaneState) (c : Crew) : Crew :=
  { c with lanes := mapLanes (fun i l => if x.exec.getLsbD i then g i l else l) 0 c.lanes }

/-- The lane with n more draws taken. -/
def LaneState.drew (l : LaneState) (n : Nat) : LaneState := { l with count := l.count + BitVec.ofNat 32 n }

/-- The crew with the draws of the executing lanes taken. -/
def Ctx.takeDraws (x : Ctx) (c : Crew) : Crew :=
  if x.drawCount = 0 then c else x.mapExec (fun _ l => l.drew x.drawCount) c

/-! ## Emptiness (R108) -/

/-- The lowest lane of a mask where the o or v register of a code is empty. -/
def Crew.emptyLane (c : Crew) (code : BitVec 8) (mask : LaneMask) : Option Nat :=
  (List.range 96).find? fun i => mask.getLsbD i && !((c.lane i).reg (regIndex code)).full

/-- Where source k is empty: only o and v sources can be. -/
def Ctx.emptySource (x : Ctx) (k : Nat) : Option Nat :=
  if x.sh.uses.getLsbD k && isReg (srcCode x.f k) && !x.sh.anyState then
    x.c.emptyLane (srcCode x.f k) (if k = 0 && x.sh.members then x.members else x.exec)
  else none

/-- The empty-register trap: the first source with FE 1 that is empty. -/
def Ctx.emptyTrap (x : Ctx) : Option TrapInfo :=
  (List.range 3).findSome? fun k =>
    if x.f.fe.getLsbD k then
      (x.emptySource k).map fun i => laneInfoAt 0x08 k 0 (srcCode x.f k).toNat i
    else none

/-- Whether the instruction waits: an empty source, an empty destination in an executing lane, an LRST behind a value in
flight, or lane work ahead of a flag instruction. -/
def Ctx.waits (x : Ctx) : Bool :=
  (List.range 3).any (fun k => (x.emptySource k).isSome) ||
  (x.sh.dst != .none && x.sh.dst != .reg && isReg x.f.dst && (x.c.emptyLane x.f.dst x.exec).isSome) ||
  (x.sh.dst == .reg && x.c.inflight.any (fun y => y.reg == regIndex x.f.dst)) ||
  (x.sh.idle && !x.c.inflight.isEmpty)

/-! ## Results -/

/-- What a lane's result is. -/
structure LaneRes where
  val : DWord
  poison : Bool
  flags : Flags
  deriving DecidableEq, Repr

/-- A poisoned result is written as zero and raises no flag (R160). -/
def LaneRes.settle (r : LaneRes) : LaneRes := if r.poison then ⟨0, true, 0⟩ else r

/-- A lane with a value pushed (R106). -/
def LaneState.push (l : LaneState) (v : DWord) (p : Bool) : LaneState := { l with queue := (⟨v, p⟩ :: l.queue).take 16 }

/-- One lane after a pushing instruction. -/
def Ctx.putLane (x : Ctx) (g : Nat → LaneRes) (i : Nat) (l : LaneState) : LaneState :=
  if x.exec.getLsbD i then
    let r := (g i).settle
    let l := if x.f.dst = 0xFF then l else l.setReg (regIndex x.f.dst) r.val r.poison
    let l := if x.sh.dst = .push then l.push r.val r.poison else l
    { l with flags := l.flags ||| r.flags }
  else if x.members.getLsbD i && x.sh.dst = .push then l.push 0 false
  else l

/-- The OR of the flags of the executing lanes. -/
def Ctx.allFlags (x : Ctx) (g : Nat → LaneRes) : Flags := x.lanes.foldl (fun fl i => fl ||| (g i).settle.flags) 0

/-- The crew with the results of a pushing instruction written, pushed and their flags raised (R106, R158, R86, R87). -/
def Ctx.put (x : Ctx) (g : Nat → LaneRes) (c : Crew) : Crew :=
  { c with lanes := mapLanes (x.putLane g) 0 c.lanes, fsum := c.fsum ||| x.allFlags g }

/-- The lane with a register marked empty. -/
def LaneState.setEmpty (l : LaneState) (r : Nat) : LaneState :=
  { l with regs := mapSet LaneReg.zero l.regs r { l.reg r with full := false } }

/-- The crew with a long-latency producer under way: its destination is empty in the executing lanes and its values
are in flight (R107). -/
def Ctx.later (x : Ctx) (g : Nat → LaneRes) (c : Crew) : Crew :=
  let r := regIndex x.f.dst
  if x.lanes.isEmpty then { c with clock := c.clock + 1 }
  else
    { x.mapExec (fun _ l => l.setEmpty r) c with
      inflight := c.inflight ++ [⟨r, x.e.owner, x.lanes.map fun i =>
        let v := (g i).settle; ⟨i, v.val, v.poison, v.flags⟩⟩] }

/-- The lane with predicate n set to a truth value. -/
def LaneState.setPred (l : LaneState) (n : Nat) (b : Bool) : LaneState :=
  let bit : BitVec 15 := BitVec.ofNat 15 (2 ^ n)
  { l with preds := if b then l.preds ||| bit else l.preds &&& ~~~bit }

/-- The predicate n of the executing lanes set by p; 15 writes none (R161). -/
def Ctx.setPred (x : Ctx) (n : Nat) (p : Nat → Bool) (c : Crew) : Crew :=
  if n = 15 then c
  else x.mapExec (fun i l => l.setPred n (p i)) c

/-- The poison trap of the first listed (source, detail) that is poisoned in one of the lanes. -/
def Ctx.poisonTrap (x : Ctx) (lanes : List Nat) (addr : Nat → Nat) (uses : List (Nat × Nat)) : Option TrapInfo :=
  uses.findSome? fun u =>
    (lanes.find? fun i => x.sh.uses.getLsbD u.1 && x.poison u.1 i).map fun i =>
      laneInfoAt 0x09 u.2 (addr i) (srcCode x.f u.1).toNat i

/-! ## Running an instruction -/

/-- What the body of a lane instruction does: a trap that performs nothing, a wait, or the state with its effects. -/
inductive Act where
  | trap (t : TrapInfo)
  | wait
  | ok (s : State)

/-- The body of a lane instruction; the state it gets has the draws taken. -/
abbrev Body := Ctx → State → Act

/-- The word that LRUN enqueues from the .lane image (R43). -/
def Launch.laneWordAt (l : Launch) (lpc : Nat) : BitVec 96 := BitVec.ofNat 96 (memNat l.lane lpc 12)

/-- Whether an opcode is a lane memory instruction (R22), those of the clause array and the accumulator among them
(R261, R284). -/
def isMemoryOp (op : BitVec 8) : Bool :=
  (0x54 ≤ op && op ≤ 0x5B) || (0x5D ≤ op && op ≤ 0x61) || (0x68 ≤ op && op ≤ 0x6B) || op == 0x70 || op == 0x71 ||
    op == 0x7F || op == 0x80 || op == 0x81

/-- Repetitions that a reduction enqueued next by a split gets its numbers for (R152, R187). -/
def Crew.repeatAhead (c : Crew) (k : Nat) : Nat :=
  match (c.laneQ.filter fun e => e.owner == k).getLast? with
  | some e =>
    if laneOpcode e.word = 0x01 then (laneFields e.word).imm.toNat % 64 + 1
    else match (c.split k).pendingRep with | some r => r.count | none => 1
  | none => match (c.split k).pendingRep with | some r => r.count | none => 1

/-- One lane instruction enqueued by split k at its LPC (R43, R44, R152). -/
def Crew.enqueueLane (c : Crew) (k : Nat) (w : BitVec 96) : Crew :=
  let p := c.split k
  let f := laneFields w
  let op := laneOpcode w
  let sv (code : BitVec 8) : Word := if isSreg code then c.sreg k (BitVec.ofNat 5 (code.toNat - 0xC0)) else 0
  let n := if 0x4C ≤ op && op ≤ 0x53 then c.repeatAhead k else 0
  let e : LaneEntry :=
    { word := w, lpc := p.lpc, mask := p.mask, fmtr := p.fmtr, split := k, owner := k, svA := sv f.sa, svB := sv f.sb, svC := sv f.sc
      redFirst := c.redSeq + 1, rep := p.pendingRep, memory := isMemoryOp op }
  { c.updSplit k (fun p => { p with lpc := p.lpc + 12, pendingRep := none }) with
    laneQ := c.laneQ ++ [e], redSeq := c.redSeq + BitVec.ofNat 16 n }

/-- A lane instruction that is executed by itself stands in the queue as LRUN would have put it there. -/
def State.ensureHead (s : State) (op : BitVec 8) (f : LaneFields) : State :=
  if s.crew.laneQ.isEmpty then s.updCrew fun c => c.enqueueLane s.curSplit (laneWord op f) else s

/-- A code stepped by j repetitions; none when it passes o7 or v63 (R110). -/
def stepCode (c : BitVec 8) (n : Nat) : Except (BitVec 8) (BitVec 8) :=
  let k := c.toNat + n
  if k ≤ 0x17 || (0x40 ≤ c && k ≤ 0x7F) then .ok (BitVec.ofNat 8 k) else .error (BitVec.ofNat 8 k)

/-- The fields of repetition j (R110); the code that passed the end where one does. -/
def RepState.fields (r : RepState) (f : LaneFields) : Except (BitVec 8) LaneFields :=
  let go (bit : Nat) (c : BitVec 8) : Except (BitVec 8) (BitVec 8) :=
    if r.step.getLsbD bit then stepCode c (r.next * r.stride) else .ok c
  match go 0 f.dst, go 1 f.sa, go 2 f.sb, go 3 f.sc with
  | .ok d, .ok a, .ok b, .ok c => .ok { f with dst := d, sa := a, sb := b, sc := c }
  | .error k, _, _, _ => .error k
  | _, .error k, _, _ => .error k
  | _, _, .error k, _ => .error k
  | _, _, _, .error k => .error k

/-- The opcodes that may not be repeated: REP, LBRK, POIS, LSAV, LRST, SCAN, CMPX. -/
def noRepeat (op : BitVec 8) : Bool := [0x01, 0x83, 0x82, 0x80, 0x81, 0x77, 0x76].contains op.toNat

/-- The illegal-prefix checks of a prefix with STEP bits against its target (R110). -/
def prefixBad (step : BitVec 4) (w : BitVec 96) : List (Bool × TrapInfo) :=
  let op := laneOpcode w
  let t := laneFields w
  let bad (bit : Nat) (c : BitVec 8) : Bool := step.getLsbD bit && !isReg c
  [(noRepeat op, laneInfo 0x04 0 op.toNat),
   (bad 0 t.dst || bad 1 t.sa || bad 2 t.sb || bad 3 t.sc, laneInfo 0x04 1 op.toNat)]

/-- The illegal-prefix trap of an entry under a prefix that was completed before the entry was enqueued and has not checked
it, since LJMP led elsewhere (R110, R149; log entry 10). -/
def LaneEntry.prefixTrap (e : LaneEntry) : Option TrapInfo :=
  match e.rep with | some r => firstTrap (prefixBad r.step e.word) | none => none

/-- The fields of the repetition that an entry is at. -/
def LaneEntry.fields (e : LaneEntry) (f : LaneFields) : Except (BitVec 8) LaneFields :=
  match e.rep with | some r => r.fields f | none => .ok f

/-- The repetition an entry is at. -/
def LaneEntry.repAt (e : LaneEntry) : Nat := match e.rep with | some r => r.next | none => 0

/-- The queue after the instruction or repetition at its head has been performed. -/
def retireHead : List LaneEntry → List LaneEntry
  | [] => []
  | e :: rest =>
    match e.rep with
    | some r => if r.next + 1 < r.count then { e with rep := some { r with next := r.next + 1 } } :: rest else rest
    | none => rest

/-- The crew after the head has been performed; a long-latency producer completes with its last value, every other
instruction now (R65, R158). -/
def Crew.retire (c : Crew) (long : Bool) : Crew :=
  { c with laneQ := retireHead c.laneQ, clock := if long then c.clock else c.clock + 1 }

/-- The instruction at the head of the queue as its checks and its body find it. DESIGN CHOICE: where its split has merged
since the enqueue, the member lanes of R53 and R106 are those of the split that it belongs to now (log entry 114). -/
def State.laneCtx (s : State) (sh : Shape) (e : LaneEntry) (f : LaneFields) : Ctx :=
  let c := s.crew
  { sh := sh, f := f, e := e, exec := executing f c e.mask, members := (c.split e.owner).members, c := c
    time := s.heat.time }

/-- What the head of the queue meets: a trap, a wait, or its body. -/
inductive Verdict where
  | trap (t : TrapInfo)
  | wait
  | go (x : Ctx)
  deriving DecidableEq, Repr

/-- The checks of R113 in order: the repeat prefix, encoding, then emptiness. -/
def State.laneVerdict (s : State) (shape : LaneFields → Shape) (e : LaneEntry) (f : LaneFields) : Verdict :=
  match e.prefixTrap, e.fields f with
  | some t, _ => .trap t
  | none, .error code => .trap (laneInfo 0x05 e.repAt code.toNat)
  | none, .ok f =>
    let sh := shape f
    let spec := s.settings
    match sh.check spec.priv spec.det e.fmtr f with
    | some t => .trap t
    | none =>
      let x := s.laneCtx sh e f
      match x.emptyTrap with
      | some t => .trap t
      | none => if x.waits then .wait else .go x

/-- A body performed: its trap, its wait, or its effects with the head retired. -/
def State.laneBody (s : State) (body : Body) (x : Ctx) : Result :=
  match body x (s.updCrew x.takeDraws) with
  | .trap t => .next (s.takeTrap t true false)
  | .wait => .next s
  | .ok s' => .next (s'.updCrew fun c => c.retire (x.sh.dst = .long))

/-- A lane instruction at the head of the lane queue of the crew in focus (R108, R110, R113, R158). -/
def laneRun (shape : LaneFields → Shape) (body : Body) (f : LaneFields) (s : State) : Result :=
  let s := s.ensureHead (shape f).op f
  match s.crew.laneQ with
  | [] => .next s
  | e :: _ =>
    match s.laneVerdict shape e f with
    | .trap t => .next (s.takeTrap t true false)
    | .wait => .next s
    | .go x => s.laneBody body x

/-! ## Common bodies -/

/-- Results put and pushed, or under way for a long-latency producer. -/
def Ctx.finish (x : Ctx) (g : Nat → LaneRes) (s : State) : Act :=
  .ok (s.updCrew (if x.sh.dst = .long then x.later g else x.put g))

/-- An instruction whose result in a lane is a function of the lane's own sources a, b and c. -/
def perLane (g : Ctx → Nat → DWord → DWord → DWord → DWord × Flags) : Body := fun x s =>
  x.finish (fun i =>
    let r := g x i (x.val 0 i) (x.val 1 i) (x.val 2 i)
    ⟨r.1, x.anyPoison i, r.2⟩) s

/-- An instruction that raises no flag. -/
def plainLane (g : Ctx → Nat → DWord → DWord → DWord → DWord) : Body :=
  perLane fun x i a b c => (g x i a b c, 0)

/-- An instruction that also writes predicate n by a truth value; poisoned sources then trap (R160). -/
def predLane (n : Nat) (g : Ctx → Nat → DWord → DWord → DWord → DWord × Bool × Flags) : Body := fun x s =>
  let r (i : Nat) := g x i (x.val 0 i) (x.val 1 i) (x.val 2 i)
  match if n = 15 then none else x.poisonTrap x.lanes (fun _ => 0) [(0, 3), (1, 3), (2, 3)] with
  | some t => .trap t
  | none =>
    .ok (s.updCrew fun c => x.setPred n (fun i => (r i).2.1) (x.put (fun i => ⟨(r i).1, x.anyPoison i, (r i).2.2⟩) c))

/-- A floating function of one rounding: value bits and flags. -/
def floatLane (g : FloatFmt → Rnd → Nat → Nat → Nat → Nat × Flags) : Body := perLane fun x i a b c =>
  let r := g (floatFmt x.f.fmt.toNat) (x.rounding i 0) a.toNat b.toNat c.toNat
  (BitVec.ofNat 64 r.1, r.2)

/-- An integer function of the operands in the instruction's type. -/
def intLane (g : IntTy → Int → Int → Int → Int) : Body := plainLane fun x _ a b c =>
  let t := intTy x.f.fmt.toNat
  intBits t (g t (intOf t a.toNat) (intOf t b.toNat) (intOf t c.toNat))

end Sys2Proof.Machine
end

