-- ==== Sys2Proof/Machine/LaneMemory.lean ====
section
/-! DEFINITION. Lane accesses to block memory and scratchpad: loads, stores, the spill stack, atomics, and the privileged
save and restore of a register (R190 to R196, R199). -/

namespace Sys2Proof.Machine

/-! ## Addresses (R190) -/

/-- The base of a lane address: an s register zero-extended, an o or v register signed, 0x18 nothing. -/
def Ctx.base (x : Ctx) (i : Nat) : Int :=
  if x.f.sa = 0x18 then 0
  else if isSreg x.f.sa then x.e.svA.toNat
  else (x.val 0 i).toInt

/-- EA of a lane as an exact integer. -/
def Ctx.ea (x : Ctx) (index : Bool) (i : Nat) : Int :=
  x.base i + (if index && x.f.sb != 0x18 then (x.val 1 i).toInt * 2 ^ (x.f.md.toNat % 4) else 0) + x.f.imm.toInt

/-- EA cut to 32 bits, as TRAPADDR reports it. -/
def eaBits (ea : Int) : Nat := (ea % 2 ^ 32).toNat

/-- The absolute address of n bytes at EA, or the DETAIL of the range trap (R190). -/
def State.placeLane (s : State) (spad : Bool) (n align : Nat) (ea : Int) : Except Nat Nat :=
  if ea < 0 ∨ 2 ^ 32 ≤ ea ∨ ea / 2 ^ 27 ≠ spad.toNat then .error 3
  else
    let off := (ea % 2 ^ 27).toNat
    if off % align ≠ 0 then .error spad.toNat
    else match s.place s.cur spad off n with
      | some a => .ok a
      | none => .error spad.toNat

/-- The range trap of the lowest failing lane. -/
def State.rangeTrap (s : State) (spad : Bool) (n align : Nat) (lanes : List Nat) (ea : Nat → Int) : Option TrapInfo :=
  lanes.findSome? fun i =>
    match s.placeLane spad n align (ea i) with
    | .error d => some (laneInfoAt 0x0A d (eaBits (ea i)) 0 i)
    | .ok _ => none

/-- The absolute address of a lane that has passed the range check. -/
def State.placed (s : State) (spad : Bool) (n align : Nat) (ea : Int) : Nat :=
  match s.placeLane spad n align ea with | .ok a => a | .error _ => 0

/-- The shape of a memory instruction of an integer type. -/
def shMem (op : BitVec 8) (uses : BitVec 3) (dst : DstUse) : Shape :=
  { shInt op uses 0 with dst := dst, imm := some 0xFFFFFFFF, ruleA := .base }

/-- With an index: SB and the scale in MOD[1:0], which is 0 when there is none. -/
def shIndexed (op : BitVec 8) (uses : BitVec 3) (dst : DstUse) (f : LaneFields) : Shape :=
  { shMem op uses dst with
    md := 3, ruleB := .index, bad := if f.sb = 0x18 ∧ f.md &&& 3 ≠ 0 then some (9, f.md.toNat) else none }

/-- Bytes of the instruction's type. -/
def Ctx.bytes (x : Ctx) : Nat := (intTy x.f.fmt.toNat).width / 8

/-- What a lane load returns: the window's bytes over the array's, extended; poison from the array (R191, R194). -/
def State.loadLane (s : State) (t : IntTy) (spad : Bool) (a : Nat) : LaneRes :=
  let n := t.width / 8
  ⟨intBits t (leNat (s.crew.load s.mem spad a n)), s.mem.poisoned (spOf spad) a n, 0⟩

/-- A load of every executing lane at ea (R191). -/
def loadBody (spad : Bool) (ea : Ctx → Nat → Int) : Body := fun x s =>
  let n := x.bytes
  match x.poisonTrap x.lanes (fun i => eaBits (ea x i)) [(0, 0), (1, 0)] with
  | some t => .trap t
  | none =>
    match s.rangeTrap spad n n x.lanes (ea x) with
    | some t => .trap t
    | none => x.finish (fun i => s.loadLane (intTy x.f.fmt.toNat) spad (s.placed spad n n (ea x i))) s

/-- The stores of the executing lanes in ascending order (R192). -/
def State.storeLanes (s : State) (spad : Bool) (n : Nat) : List (Nat × DWord) → State
  | [] => s
  | (a, v) :: rest => (s.windowStore s.cur spad a (leBytes n v.toNat)).storeLanes spad n rest

/-- A store of every executing lane at ea (R191). -/
def storeBody (spad : Bool) (ea : Ctx → Nat → Int) : Body := fun x s =>
  let n := x.bytes
  match x.poisonTrap x.lanes (fun i => eaBits (ea x i)) [(0, 0), (1, 0), (2, 1)] with
  | some t => .trap t
  | none =>
    match s.rangeTrap spad n n x.lanes (ea x) with
    | some t => .trap t
    | none => .ok (s.storeLanes spad n (x.lanes.map fun i => (s.placed spad n n (ea x i), x.val 2 i)))

/-- LDB (R191). -/
def execLdb (f : LaneFields) (s : State) : Result :=
  laneRun (shIndexed 0x54 3 .long) (loadBody false fun x i => x.ea true i) f s
/-- STB (R191). -/
def execStb (f : LaneFields) (s : State) : Result :=
  laneRun (shIndexed 0x55 7 .none) (storeBody false fun x i => x.ea true i) f s
/-- LDS (R191). -/
def execLds (f : LaneFields) (s : State) : Result :=
  laneRun (shIndexed 0x56 3 .long) (loadBody true fun x i => x.ea true i) f s
/-- STS (R191). -/
def execSts (f : LaneFields) (s : State) : Result :=
  laneRun (shIndexed 0x57 7 .none) (storeBody true fun x i => x.ea true i) f s

/-! ## The row forms (R193) -/

/-- EA of a row form: base + disp + LANE × width. -/
def Ctx.rowEa (x : Ctx) (i : Nat) : Int := x.ea false i + (i * x.bytes : Nat)

/-- The range trap of the lowest lane that lies in another row than the lowest executing lane. -/
def Ctx.rowTrap (x : Ctx) : Option TrapInfo :=
  match x.lanes with
  | [] => none
  | low :: _ =>
    (x.lanes.find? fun i => x.rowEa i / 8192 != x.rowEa low / 8192).map fun i =>
      laneInfoAt 0x0A 1 (eaBits (x.rowEa i)) 0 i

/-- A row form: the addresses are checked as R190 states, then for one row. -/
def rowBody (b : Body) : Body := fun x s =>
  match s.rangeTrap true x.bytes x.bytes x.lanes x.rowEa with
  | some t => .trap t
  | none => match x.rowTrap with
    | some t => .trap t
    | none => b x s

/-- LDSR (R193). -/
def execLdsr (f : LaneFields) (s : State) : Result :=
  laneRun (fun _ => { shMem 0x58 1 .long with ruleA := .sbase }) (rowBody (loadBody true Ctx.rowEa)) f s
/-- STSR: the poison of a stored value is checked before the addresses (R160, R193). -/
def execStsr (f : LaneFields) (s : State) : Result :=
  laneRun (fun _ => { shMem 0x59 5 .none with ruleA := .sbase })
    (fun x s =>
      match x.poisonTrap x.lanes (fun i => eaBits (x.rowEa i)) [(2, 1)] with
      | some t => .trap t
      | none => rowBody (storeBody true Ctx.rowEa) x s) f s

/-- LDSB: one read in the lowest executing lane, given to every executing lane (R193). -/
def execLdsb (f : LaneFields) (s : State) : Result :=
  laneRun (shIndexed 0x7F 3 .long)
    (fun x s =>
      match x.lanes with
      | [] => x.finish (fun _ => ⟨0, false, 0⟩) s
      | low :: _ =>
        let n := x.bytes
        match x.poisonTrap [low] (fun i => eaBits (x.ea true i)) [(0, 0), (1, 0)] with
        | some t => .trap t
        | none =>
          match s.rangeTrap true n n [low] (x.ea true) with
          | some t => .trap t
          | none =>
            let r := s.loadLane (intTy x.f.fmt.toNat) true (s.placed true n n (x.ea true low))
            x.finish (fun _ => r) s) f s

/-! ## The spill stack (R194) -/

/-- The absolute address of lane i's slot of the frame at an offset of the allocation. -/
def State.slotAddr (s : State) (spp i : Nat) : Nat := bmemBase (slotCore s.cur) + s.crew.bmemLo + spp + 8 * i

/-- Window entries of the frame's granules are written first, so that the access stands in the crew's memory order
though it bypasses the window (R194; log entry 25). -/
def State.drainFrame (s : State) (spp : Nat) : State :=
  let lo := s.slotAddr spp 0 / 64
  let hi := (s.slotAddr spp 0 + 767) / 64
  s.drainIf s.cur fun e => !e.spad && decide (lo ≤ e.granule) && decide (e.granule ≤ hi)

/-- One slot written with its tag. -/
def Mem.pushSlot (m : Mem) (a : Nat) (v : DWord) (poison : Bool) : Mem :=
  let m := m.storeNat .bmem a 8 v.toNat
  if poison then { m with tags := mapSet false m.tags (a / 8) true } else m

/-- PUSHV: no trap on poison (R194). -/
def execPushv (f : LaneFields) (s : State) : Result :=
  laneRun (fun _ => { Shape.bare 0x5A with uses := 1 })
    (fun x s =>
      if x.c.spp < x.c.spillLo + 768 then .trap (laneInfoAt 0x0A 2 (eaBits ((x.c.spp : Int) - 768)) 0 0x7F)
      else
        let spp := x.c.spp - 768
        let s := s.drainFrame spp
        let m := x.lanes.foldl (fun m i => m.pushSlot (s.slotAddr spp i) (x.val 0 i) (x.poison 0 i)) s.mem
        .ok ({ s with mem := m }.updCrew fun c => { c with spp := spp })) f s

/-- POPV (R194). -/
def execPopv (f : LaneFields) (s : State) : Result :=
  laneRun (fun _ => { Shape.bare 0x5B with dst := .long })
    (fun x s =>
      let spp := x.c.spp
      if x.c.spillHi < spp + 768 then .trap (laneInfoAt 0x0A 2 (spp + 768) 0 0x7F)
      else
        let s := (s.drainFrame spp).updCrew fun c => { c with spp := spp + 768 }
        x.finish (fun i =>
          let a := s.slotAddr spp i
          ⟨BitVec.ofNat 64 (s.mem.nat .bmem a 8), s.mem.poisoned .bmem a 8, 0⟩) s) f s

/-! ## Atomics (R36, R195, R196) -/

/-- What one lane of an atomic does. -/
structure AtomOp where
  spad : Bool
  addr : Nat
  /-- Integer type code, or 16 plus the floating format code. -/
  ty : Nat
  op : Nat
  lane : Nat
  b : DWord
  /-- The value to store of a compare-and-swap. -/
  swap : Option DWord
  rnd : Rnd
  mode : Nat
  fmtr : Word
  deriving DecidableEq, Repr

/-- Bytes of an atomic. -/
def AtomOp.bytes (o : AtomOp) : Nat := if o.ty < 16 then (intTy o.ty).width / 8 else fmtWidth (o.ty - 16) / 8

/-- The value a lane receives. -/
def AtomOp.value (o : AtomOp) (old : Nat) : DWord :=
  if o.ty < 16 then intBits (intTy o.ty) (intOf (intTy o.ty) old) else BitVec.ofNat 64 old

/-- The new value and the flags. -/
def AtomOp.apply (o : AtomOp) (old : Nat) : Nat × Flags :=
  match o.swap with
  | some c => (if old = o.b.toNat % 2 ^ (8 * o.bytes) then c.toNat % 2 ^ (8 * o.bytes) else old, 0)
  | none =>
    if o.ty < 16 then (atomicInt (intTy o.ty) o.op old o.b.toNat, 0)
    else atomicFloat (floatFmt (o.ty - 16)) o.op o.rnd old (o.b.toNat % 2 ^ (8 * o.bytes))

/-- One lane of an atomic at the array (R195). -/
def State.atomLane (s : State) (o : AtomOp) : State × LaneRes :=
  let s := s.drainGranule s.cur o.spad o.addr
  let sp := spOf o.spad
  if s.mem.poisoned sp o.addr o.bytes then (s, ⟨0, true, 0⟩)
  else
    let old := s.mem.nat sp o.addr o.bytes
    let r := o.apply old
    ({ s with mem := s.mem.storeNat sp o.addr o.bytes r.1 }, ⟨o.value old, false, r.2⟩)

/-- The value that buffered atomics on a location return until the next flush point (R36). -/
def Crew.firstRead (c : Crew) (m : Mem) (spad : Bool) (a n : Nat) : Nat :=
  match c.firstReads.find? fun r => r.spad == spad && r.addr == a && r.bytes == n with
  | some r => r.val.toNat
  | none => m.nat (spOf spad) a n

/-- The crew with the first read of a location kept. -/
def Crew.keepRead (c : Crew) (m : Mem) (spad : Bool) (a n : Nat) : Crew :=
  if c.firstReads.any fun r => r.spad == spad && r.addr == a && r.bytes == n then c
  else { c with firstReads := c.firstReads ++ [⟨spad, a, n, BitVec.ofNat 64 (m.nat (spOf spad) a n)⟩] }

/-- One lane of an atomic of a deterministic launch: buffered (R36). -/
def State.bufferLane (s : State) (o : AtomOp) : State × LaneRes :=
  let s := s.drainGranule s.cur o.spad o.addr
  if s.mem.poisoned (spOf o.spad) o.addr o.bytes then (s, ⟨0, true, 0⟩)
  else
    let old := s.crew.firstRead s.mem o.spad o.addr o.bytes
    (s.updCrew fun c =>
      let c := c.keepRead s.mem o.spad o.addr o.bytes
      { c with buffered := c.buffered ++ [⟨o.spad, o.addr, o.ty, BitVec.ofNat 3 o.op, o.b, o.mode,
        BitVec.ofNat 16 o.rnd.draw, o.fmtr, o.lane⟩] }, ⟨o.value old, false, 0⟩)

/-- The lanes of an atomic in ascending order, each logged (R422). -/
def State.atomLanes (s : State) (opc : Nat) (det : Bool) : List AtomOp → State × List (Nat × LaneRes)
  | [] => (s, [])
  | o :: rest =>
    let s := s.logOp (s.objRecord opc (some o.lane) o.spad o.addr)
    let r := if det then s.bufferLane o else s.atomLane o
    let t := r.1.atomLanes opc det rest
    (t.1, (o.lane, r.2) :: t.2)

/-- The checks that a compare-and-swap of a deterministic launch adds: BLOCK scope and one split (R36, R66). -/
def casTrap (x : Ctx) : Option TrapInfo :=
  if x.f.md.toNat / 8 % 8 ≠ 1 then some (laneInfo 0x01 9 x.f.md.toNat)
  else if x.c.divided then some (laneInfo 0x0D x.c.liveSplits.length 0)
  else none

/-- An atomic of every executing lane at base + disp (R195, R196). -/
def atomBody (spad cas : Bool) : Body := fun x s =>
  let det := s.settings.det
  let float := x.sh.kind = .float
  let n := if float then fmtWidth x.f.fmt.toNat / 8 else x.bytes
  match if det && cas then casTrap x else none with
  | some t => .trap t
  | none =>
    if det && cas && !s.least (fun c => c.block == x.c.block) then .wait
    else
      match x.poisonTrap x.lanes (fun i => eaBits (x.ea false i)) [(0, 0), (1, 2), (2, 2)] with
      | some t => .trap t
      | none =>
        match s.rangeTrap spad n n x.lanes (x.ea false) with
        | some t => .trap t
        | none =>
          let ops := x.lanes.map fun i : Nat =>
            ({ spad := spad, addr := s.placed spad n n (x.ea false i)
               ty := if float then 16 + x.f.fmt.toNat else x.f.fmt.toNat
               op := x.f.md.toNat % 8, lane := i, b := x.val 1 i, swap := if cas then some (x.val 2 i) else none
               rnd := x.rounding i 0, mode := x.mode, fmtr := x.e.fmtr } : AtomOp)
          if !ops.all (fun o => s.replayReady (s.objRecord x.sh.op.toNat (some o.lane) o.spad o.addr)) then .wait
          else
            let r := s.atomLanes x.sh.op.toNat (det && !cas) ops
            x.finish (mapGet ⟨0, false, 0⟩ r.2) r.1

/-- The shape of an integer atomic: op in MOD[2:0], scope in MOD[5:3] up to the widest accepted. -/
def shAtom (op : BitVec 8) (uses : BitVec 3) (scope lastOp : Nat) (f : LaneFields) : Shape :=
  { shMem op uses .long with
    md := 0x3F
    bad := if lastOp < f.md.toNat % 8 ∨ scope < f.md.toNat / 8 % 8 then some (9, f.md.toNat) else none }

/-- ATB: CREW to CORE (R195). -/
def execAtb (f : LaneFields) (s : State) : Result := laneRun (shAtom 0x5D 3 2 6) (atomBody false false) f s
/-- CASB (R195). -/
def execCasb (f : LaneFields) (s : State) : Result := laneRun (shAtom 0x5E 7 2 0) (atomBody false true) f s
/-- ATS: CREW to DIE (R195). -/
def execAts (f : LaneFields) (s : State) : Result := laneRun (shAtom 0x5F 3 3 6) (atomBody true false) f s
/-- CASS (R195). -/
def execCass (f : LaneFields) (s : State) : Result := laneRun (shAtom 0x60 7 3 0) (atomBody true true) f s
/-- ATF: add, min or max in F64, F32, BF16 or F16; only add rounds, and min and max take any RND that add takes (R196; log
entry 22). -/
def execAtf (f : LaneFields) (s : State) : Result :=
  laneRun (fun f => { shAtom 0x61 3 3 2 f with
      kind := .float, fmts := [0, 1, 3, 4], rnd := some (stoOk f.fmt), draws := if f.md.toNat % 8 = 0 then 1 else 0 })
    (atomBody true false) f s

/-! ## The privileged save and restore (R199) -/

/-- The bits of a lane mask as 12 bytes. -/
def maskBytes (p : Nat → Bool) : List Byte := leBytes 12 (laneMask p).toNat

/-- The record of a register. -/
def recordBytes (c : Crew) (r : Nat) : List Byte :=
  ((List.range 96).flatMap fun i => leBytes 8 ((c.lane i).reg r).val.toNat) ++
    maskBytes (fun i => ((c.lane i).reg r).full) ++ maskBytes (fun i => ((c.lane i).reg r).poison) ++ List.replicate 8 0

/-- Stores of a run of bytes into the window, granule by granule; the run starts at a granule. -/
def State.storeRun (s : State) (a : Nat) : Nat → List Byte → State
  | 0, _ => s
  | n + 1, bs =>
    if bs.isEmpty then s else (s.windowStore s.cur false a (bs.take 64)).storeRun (a + 64) n (bs.drop 64)

/-- LSAV: all 96 lanes whatever the guard; no wait on emptiness, no trap on poison (R199). -/
def execLsav (f : LaneFields) (s : State) : Result :=
  laneRun (fun _ => { Shape.bare 0x80 with
      uses := 5, imm := some 0xFFFFFFFF, ruleA := .sbase, ruleC := .register, anyState := true })
    (fun x s =>
      match s.placeLane false 800 64 (x.ea false 0) with
      | .error d => .trap (laneInfoAt 0x0A d (eaBits (x.ea false 0)) 0 0x7F)
      | .ok a => .ok (s.storeRun a 13 (recordBytes x.c (regIndex x.f.sc)))) f s

/-- LRST: value, full bit and poison of all 96 lanes; nothing is pushed (R199). -/
def execLrst (f : LaneFields) (s : State) : Result :=
  laneRun (fun _ => { Shape.bare 0x81 with uses := 1, dst := .reg, imm := some 0xFFFFFFFF, ruleA := .sbase })
    (fun x s =>
      match s.placeLane false 800 64 (x.ea false 0) with
      | .error d => .trap (laneInfoAt 0x0A d (eaBits (x.ea false 0)) 0 0x7F)
      | .ok a =>
        let num (o n : Nat) : Nat := leNat (s.crew.load s.mem false (a + o) n)
        let full := num 768 12
        let poison := num 780 12
        let tainted (i : Nat) : Bool := s.mem.poisoned .bmem (a + 8 * i) 8 || s.mem.poisoned .bmem (a + 768) 24
        let reg (i : Nat) : LaneReg :=
          ⟨BitVec.ofNat 64 (num (8 * i) 8), full.testBit i, poison.testBit i || tainted i⟩
        let put (i : Nat) (l : LaneState) : LaneState :=
          { l with regs := mapSet LaneReg.zero l.regs (regIndex x.f.dst) (reg i) }
        .ok (s.updCrew fun c => { c with lanes := mapLanes put 0 c.lanes })) f s

end Sys2Proof.Machine
end

