-- ==== Sys2Proof/Machine/LaneMove.lean ====
section
/-! DEFINITION. Moving data within and between lanes, predicates (R166 to R170). -/

namespace Sys2Proof.Machine

/-- MOV (R166). -/
def execMov (f : LaneFields) (s : State) : Result :=
  laneRun (fun _ => shMove 0x18 1) (plainLane fun _ _ a _ _ => a) f s

/-- MOVI: IMM over a[31:0] (R166). -/
def execMovi (f : LaneFields) (s : State) : Result :=
  laneRun (fun _ => { shMove 0x19 1 with imm := some 0xFFFFFFFF })
    (plainLane fun x _ a _ _ => x.f.imm ++ a.extractLsb' 0 32) f s

/-- SEL_LANE: the result carries the poison of the selected source alone (R166). -/
def execSelLane (f : LaneFields) (s : State) : Result :=
  laneRun (fun _ => { shMove 0x1A 3 with md := 0x0F })
    (fun x s => x.finish (fun i =>
      let k := if (x.c.lane i).pred (x.f.md.toNat % 16) then 0 else 1
      ⟨x.val k i, x.poison k i, 0⟩) s) f s

/-- The recorded mask word of a lane's beat. -/
def beatWord (m : LaneMask) (beat : Nat) : Word := m.extractLsb' (32 * beat) 32

/-- LSPC: rank, count, low or mask (R166). -/
def execLspc (f : LaneFields) (s : State) : Result :=
  laneRun (fun _ => { shMove 0x1F 0 with imm := some 3 })
    (plainLane fun x i _ _ _ =>
      match x.f.imm.toNat with
      | 0 => BitVec.ofNat 64 (x.lanes.filter (· < i)).length
      | 1 => BitVec.ofNat 64 x.lanes.length
      | 2 => BitVec.ofNat 64 (match x.lanes with | [] => 96 | j :: _ => j)
      | _ => (beatWord x.e.mask (i / 32)).setWidth 64) f s

/-- LDC: constant k_j with j := a mod 64 in the instruction's format; the whole instruction traps where an integer type
meets k48 to k63 and where the index is poisoned (R105, R160, R166). -/
def execLdc (f : LaneFields) (s : State) : Result :=
  laneRun (fun f => shBoth 0x5C 1 0 f)
    (fun x s =>
      let j (i : Nat) : Nat := (x.val 0 i).toNat % 64
      match x.poisonTrap x.lanes (fun _ => 0) [(0, 4)] with
      | some t => .trap t
      | none =>
        match x.lanes.find? fun i => x.sh.kind == .int && decide (48 ≤ j i) with
        | some i => .trap (laneInfoAt 0x02 2 0 x.f.sa.toNat i)
        | none => x.finish (fun i => ⟨constVal x.constFmt (j i), false, 0⟩) s) f s

/-- PMOV: the predicates before the write; the second form then writes p0 to p14 (R166). -/
def execPmov (f : LaneFields) (s : State) : Result :=
  laneRun (fun f => { shMove 0x66 (if f.md.getLsbD 0 then 1 else 0) with md := 1 })
    (fun x s =>
      match x.poisonTrap x.lanes (fun _ => 0) [(0, 5)] with
      | some t => .trap t
      | none =>
        let old (i : Nat) : DWord := (1#1 ++ (x.c.lane i).preds).setWidth 64
        .ok (s.updCrew fun c =>
          let c := x.put (fun i => ⟨old i, false, 0⟩) c
          if x.f.md.getLsbD 0 then x.mapExec (fun i l => { l with preds := (x.val 0 i).extractLsb' 0 15 }) c
          else c)) f s

/-- PRMT: byte j of d is byte IMM[4j+3:4j] of b:a (R166). -/
def execPrmt (f : LaneFields) (s : State) : Result :=
  laneRun (fun _ => { shMove 0x67 3 with imm := some 0xFFFFFFFF })
    (plainLane fun x _ a b _ =>
      let v := a.toNat + 2 ^ 64 * b.toNat
      BitVec.ofNat 64 (leNat ((List.range 8).map fun j =>
        BitVec.ofNat 8 (v >>> (8 * (x.f.imm.toNat >>> (4 * j) % 16)))))) f s

/-! ## Between lanes (R159, R167, R168) -/

/-- The lane a result is read from: the selected lane where it is a member, else the lane itself. -/
def Ctx.from (x : Ctx) (i : Nat) (src : Int) : Nat :=
  if 0 ≤ src ∧ src ≤ 95 ∧ x.members.getLsbD src.toNat then src.toNat else i

/-- SHFL: idx, up, down or xor by b[31:0] (R167). -/
def execShfl (f : LaneFields) (s : State) : Result :=
  laneRun (fun _ => { shMove 0x1B 3 with md := 3, members := true })
    (fun x s =>
      match x.poisonTrap x.lanes (fun _ => 0) [(1, 4)] with
      | some t => .trap t
      | none => x.finish (fun i =>
          let n : Nat := (x.val 1 i).toNat % 2 ^ 32
          let src : Int := match x.f.md.toNat % 4 with
            | 0 => (n : Int)
            | 1 => (i : Int) - n
            | 2 => (i : Int) + n
            | _ => Int.ofNat (i ^^^ n)
          let j := x.from i src
          ⟨x.val 0 j, x.poison 0 j, 0⟩) s) f s

/-- BCST and LROT read n in the lowest executing lane; with none, neither changes anything, so that no zero is pushed
(R168; log entry 20). -/
def fromLowest (g : Nat → Nat → Int) : Body := fun x s =>
  match x.lanes with
  | [] => .ok s
  | low :: _ =>
    match x.poisonTrap [low] (fun _ => 0) [(1, 4)] with
    | some t => .trap t
    | none =>
      let n := (x.val 1 low).toNat % 2 ^ 32
      x.finish (fun i => let j := x.from i (g n i); ⟨x.val 0 j, x.poison 0 j, 0⟩) s

/-- BCST (R168). -/
def execBcst (f : LaneFields) (s : State) : Result :=
  laneRun (fun _ => { shMove 0x1C 3 with members := true }) (fromLowest fun n _ => n) f s

/-- LROT (R168). -/
def execLrot (f : LaneFields) (s : State) : Result :=
  laneRun (fun _ => { shMove 0x1D 3 with members := true }) (fromLowest fun n i => ((i : Int) - n % 96) % 96) f s

/-! ## Predicates (R169, R170) -/

/-- The ballot word of a beat: bit j is p_S of lane 32 × beat + j where that lane executes. -/
def Ctx.ballot (x : Ctx) (p beat : Nat) : DWord :=
  ((laneMask fun i => x.exec.getLsbD i && (x.c.lane i).pred p).extractLsb' (32 * beat) 32).setWidth 64

/-- The reserved values of VOTE (R169): kind 3; a predicate or beat 3 with ballot; a beat with any and all. -/
def voteBad (f : LaneFields) : Option (Nat × Nat) :=
  let kind := f.md.toNat % 4
  let beat := f.imm.toNat / 16 % 4
  if kind = 3 then some (9, f.md.toNat)
  else if kind = 2 then (if f.imm.toNat % 16 ≠ 15 ∨ beat = 3 then some (10, f.imm.toNat) else none)
  else if beat ≠ 0 then some (10, f.imm.toNat) else none

/-- VOTE (R169). -/
def execVote (f : LaneFields) (s : State) : Result :=
  laneRun (fun f => { shMove 0x1E 0 with md := 0x3F, imm := some 0x3F, bad := voteBad f })
    (fun x s =>
      let p := x.f.md.toNat / 4 % 16
      let holds := x.lanes.filter fun i => (x.c.lane i).pred p
      let kind := x.f.md.toNat % 4
      let r := if kind = 0 then !holds.isEmpty else holds.length == x.lanes.length
      let v : DWord := if kind = 2 then x.ballot p (x.f.imm.toNat / 16 % 4) else BitVec.ofNat 64 r.toNat
      .ok (s.updCrew fun c => x.setPred (x.f.imm.toNat % 16) (fun _ => r) (x.put (fun _ => ⟨v, false, 0⟩) c))) f s

/-- PLOP (R170). -/
def execPlop (f : LaneFields) (s : State) : Result :=
  laneRun (fun f => { Shape.bare 0x65 with
      md := 0x0F, imm := some 0x000FFFFF, bad := if f.md.toNat % 16 = 15 then some (9, f.md.toNat) else none })
    (fun x s =>
      let n := x.f.imm.toNat
      .ok (s.updCrew fun c => x.setPred (x.f.md.toNat % 16) (fun i =>
        let p (k : Nat) : Nat := ((x.c.lane i).pred (n >>> k % 16)).toNat
        n.testBit (4 * p 8 + 2 * p 12 + p 16)) c)) f s

end Sys2Proof.Machine
end

