-- ==== Sys2Proof/Machine/ScalarMemory.lean ====
section
/-! DEFINITION. Scalar memory words and the words that drive the lane stream (R146 to R153). -/

namespace Sys2Proof.Machine

/-! ## Loads, stores and atomics (R133, R146, R147) -/

/-- DETAIL of the range trap of a scalar address: a reserved field, else the space (R201). -/
def scalarRange (a : Word) : Nat :=
  if 5 ≤ a.extractLsb' 29 3 ∨ 2 ≤ a.extractLsb' 27 2 then 3 else (a.extractLsb' 27 2).toNat

/-- The precise range trap of a scalar address (R133). -/
def State.rangeRaise (s : State) (a : Word) : State := s.raise 0x0A (scalarRange a) a 0

/-- The poison trap of a scalar read (R131, R201). -/
def State.poisonRaise (s : State) (addr : Word) : State := s.raise 0x09 6 addr 0xFF

/-- SLD (R146). -/
def execSld (d a : RegNo) (i : BitVec 16) (s : State) : Result :=
  if !s.crew.memoryIdle then .next (s.stay .lanes)
  else
    let ea := s.sreg a + i.signExtend 32
    match s.scalarAddr s.cur ea with
    | none => .next (s.rangeRaise ea)
    | some p =>
      if s.mem.poisoned (spOf p.spad) p.addr (widBytes p.wid) then .next (s.poisonRaise ea)
      else .next (s.write d (widExtend p.wid (leNat (s.crew.load s.mem p.spad p.addr (widBytes p.wid)))))

/-- SST (R146). -/
def execSst (d a : RegNo) (i : BitVec 16) (s : State) : Result :=
  if !s.crew.memoryIdle then .next (s.stay .lanes)
  else
    let ea := s.sreg a + i.signExtend 32
    match s.scalarAddr s.cur ea with
    | none => .next (s.rangeRaise ea)
    | some p => .next (s.windowStore s.cur p.spad p.addr (leBytes (widBytes p.wid) (s.sreg d).toNat)).done

/-- The integer type code of a width (R78, R133). -/
def widType : Nat → Nat
  | 0 => 0 | 1 => 6 | 2 => 7 | 3 => 4 | _ => 5

/-- SATM (R36, R147): cas of a deterministic launch has BLOCK scope and is a synchronising operation; every other
operation of such a launch is buffered, as lane 0 of its crew (log entry 26). -/
def execSatm (d a b : RegNo) (sc w o : BitVec 3) (s : State) : Result :=
  let fn := 64 * sc.toNat + 8 * w.toNat + o.toNat
  let det := s.settings.det
  let cas := o == 7
  let c := s.crew
  if 5 ≤ w ∨ 6 ≤ sc then .next (s.illegal 9 fn)
  else if det && cas && sc != 1 then .next (s.illegal 9 fn)
  else if det && cas && c.divided then .next (s.raise 0x0D c.liveSplits.length 0 0)
  else if !c.memoryIdle then .next (s.stay .lanes)
  else if det && cas && !s.least (fun x => x.block == c.block) then .next (s.stay .lanes)
  else
    let ea := s.sreg a
    let n := widBytes w.toNat
    match if ea.extractLsb' 29 3 = 0 then s.scalarAddrN s.cur (ea ||| w.setWidth 32 <<< 29) n else none with
    | none => .next (s.raise 0x0A (if ea.extractLsb' 29 3 ≠ 0 then 3 else scalarRange ea) ea 0)
    | some p =>
      let record := s.objRecord 0x1E none p.spad p.addr
      let ready := s.replayReady record
      let s := if ready then s.drainGranule s.cur p.spad p.addr else s
      if !ready then .next (s.stay .lanes)
      else if s.mem.poisoned (spOf p.spad) p.addr n then .next (s.poisonRaise ea)
      else
        let s := s.logOp record
        let op : AtomOp :=
          { spad := p.spad, addr := p.addr, ty := widType w.toNat, op := o.toNat, lane := 0
            b := if cas then (s.sreg d).setWidth 64 else (s.sreg b).setWidth 64
            swap := if cas then some ((s.sreg b).setWidth 64) else none
            rnd := .rne, mode := 0, fmtr := 0 }
        let r := if det && !cas then s.bufferLane op else s.atomLane op
        .next (r.1.write d (r.2.val.setWidth 32))

/-! ## Driving the lane stream (R43, R148, R149) -/

/-- Up to n lane instructions of split k enqueued while the queue has free entries; the number left over (R43). -/
def Crew.enqueueRun (l : Launch) (k : Nat) : Nat → Crew → Crew × Nat
  | 0, c => (c, 0)
  | n + 1, c =>
    if 16 ≤ c.laneQ.length then (c, n + 1)
    else (c.enqueueLane k (l.laneWordAt (c.split k).lpc)).enqueueRun l k n

/-- LRUN with n entries still to be enqueued. -/
def State.lrunOn (s : State) (n : Nat) : State :=
  let r := Crew.enqueueRun s.launch s.curSplit n s.crew
  let s := s.setCrew (r.1.updSplit s.curSplit fun p => { p with lrunLeft := if r.2 = 0 then none else some r.2 })
  if r.2 = 0 then s.done else s.stay .room

/-- LRUN (R43, R148). DESIGN CHOICE: sA + IMM16 is the sum of two unsigned numbers, which does not wrap at 2^32 (log entry
116). -/
def execLrun (a : RegNo) (n : BitVec 16) (s : State) : Result :=
  match s.split.lrunLeft with
  | some left => .next (s.lrunOn left)
  | none =>
    let n := (s.sreg a).toNat + n.toNat
    if n = 0 ∨ 65535 < n ∨ s.launch.laneLen < s.split.lpc + 12 * n then .next (s.illegal 12 n)
    else .next (s.lrunOn n)

/-- LJMP (R149). -/
def execLjmp (o : BitVec 26) (s : State) : Result :=
  if s.launch.laneLen < 12 * (o.toNat + 1) then .next (s.illegal 12 o.toNat)
  else .next (s.updSplit fun p => { p with lpc := 12 * o.toNat }).done

/-! ## Masks, formats, reductions and flags (R150 to R153) -/

/-- MOVM of a mask word (R150). -/
def execMovmRead (d : RegNo) (b : BitVec 2) (s : State) : Result :=
  if b = 3 then .next (s.illegal 9 12)
  else .next (s.write d (beatWord s.split.mask b.toNat))

/-- A mask with one of its three words replaced. -/
def setBeat (m : LaneMask) (beat : Nat) (w : Word) : LaneMask :=
  (m &&& ~~~((0xFFFFFFFF : LaneMask) <<< (32 * beat))) ||| (w.setWidth 96 <<< (32 * beat))

/-- MOVM into a mask word: non-member lanes are written zero (R53, R150). -/
def execMovmWrite (a : RegNo) (b : BitVec 2) (s : State) : Result :=
  if b = 3 then .next (s.illegal 9 13)
  else .next (s.updSplit fun p => { p with mask := setBeat p.mask b.toNat (s.sreg a) &&& p.members }).done

/-- MOVM of one beat of a lane predicate (R45, R150). -/
def execMovmPred (d : RegNo) (n : BitVec 4) (b : BitVec 2) (s : State) : Result :=
  if b = 3 then .next (s.illegal 9 (16 * n.toNat + 14))
  else if !s.crew.splitIdle s.curSplit then .next (s.stay .lanes)
  else .next (s.write d (beatWord (laneMask fun i => s.split.mask.getLsbD i && (s.crew.lane i).pred n.toNat) b.toNat))

/-- Whether FMTS accepts a value: [31:24] zero, DRND 0 to 5, SCLM 0 to 3 (R82, R88, R151). -/
def fmtrOk (v : Word) : Bool := v.extractLsb' 24 8 == 0 && v.extractLsb' 15 3 < 6 && v.extractLsb' 21 3 < 4

/-- FMTS (R151): a rejected value leaves both registers, as a trapping word performs nothing (R204). -/
def execFmts (d a : RegNo) (s : State) : Result :=
  let v := s.sreg a
  if !fmtrOk v then .next (s.raise 0x03 13 0 v)
  else
    let old := s.split.fmtr
    .next ((s.updSplit fun p => { p with fmtr := v }).write d old)

/-- FMTS, the read-only form (R151). -/
def execFmtsRead (d : RegNo) (s : State) : Result := .next (s.write d s.split.fmtr)

/-- RDRD (R152). -/
def execRdrd (d a : RegNo) (s : State) : Result :=
  let t : BitVec 16 := (s.sreg a).setWidth 16
  let c := s.crew
  if !pairOk d then .next (s.illegal 1 d.toNat)
  else if 0x8000 ≤ c.redSeq - t then .next (s.raise 0x11 1 (t.setWidth 32) 0)
  else if !c.splitIdle s.curSplit ∨ 0x8000 ≤ c.redDone - t then .next (s.stay .lanes)
  else
    match (if 4 ≤ c.redDone - t then none else c.ring.find? fun e => e.seq == t) with
    | none => .next (s.raise 0x11 0 (t.setWidth 32) 0)
    | some e =>
      if e.poison then .next (s.poisonRaise 0)
      else .next (s.setSpair d e.val).done

/-- FXCK: DETAIL is FSUM AND mask (R153, R201). -/
def execFxck (m : BitVec 6) (s : State) : Result :=
  if !s.crew.lanesIdle then .next (s.stay .lanes)
  else
    let hit := s.crew.fsum &&& m
    if hit ≠ 0 then .next (s.raise 0x12 hit.toNat 0 (m.setWidth 32)) else .next s.done

end Sys2Proof.Machine
end

