-- ==== Sys2Proof/Machine/Sync.lean ====
section
/-! DEFINITION. Synchronisation of a crew: barriers, sync objects, fences, waits on engine queues, children and time
(R26 to R33, R61, R65, R66, R139, R140, R154). A word that waits stays at its SPC and is issued again. -/

namespace Sys2Proof.Machine

/-- The divergent-sync trap of a synchronising operation in a deterministic launch (R66). -/
def State.divides (s : State) : Bool := s.settings.det && s.crew.divided

/-- The divergent-sync trap: DETAIL is the number of splits. -/
def State.divergent (s : State) : State := s.raise 0x0D s.crew.liveSplits.length 0 0

/-- Whether a synchronising operation may begin: in a deterministic launch only when its crew is least (R65). -/
def State.mayBegin (s : State) (p : Crew → Bool) : Bool := !s.settings.det || s.least p

/-- Whether an operation of a cohort or a job may begin; one over several packages waits too until the device says that no
crew of another package comes before it (R65; log entry 18). -/
def State.begins (s : State) (p : Crew → Bool) (spans : Bool) : Bool × State :=
  if s.settings.det && spans then (Config.choice s.choices && s.least p, s.choose.2) else (s.mayBegin p, s)

/-- The crews of the block of the crew in focus. -/
def State.sameBlock (s : State) (x : Crew) : Bool := x.block == s.crew.block

/-- The split waits in a synchronising operation that it has begun. -/
def State.syncWait (s : State) (w : Wait) : State := (s.updCrew fun c => { c with inSync := true }).stay w

/-! ## Barriers (R30, R61) -/

/-- Arrival of the crew in focus at the barrier of cohort i; a crew of several splits is counted once (log entry 27). -/
def State.arriveBar (s : State) (i : Nat) : State :=
  let s := s.logOp (s.logRecord 0x24 none false (BitVec.ofNat 64 i))
  let c := s.crew
  let g := match mapFind s.launch.cohorts i with | some h => h.gen | none => 0
  let s := s.updLaunch c.launch fun l => l.updCohort i fun h =>
    if h.arrived.contains c.uid then h
    else { h with arrive := h.arrive + 1, arrived := c.uid :: h.arrived, maxClock := clockMax h.maxClock c.clock }
  s.updSplit fun p => { p with bar := some (i, g) }

/-- The split waits at the barrier it has arrived at, or goes on when its generation has passed. -/
def State.passBar (s : State) (i : Nat) (g : Word) : State :=
  let s := s.barrierCheck s.crew.launch i
  match mapFind s.launch.cohorts i with
  | none => s.syncWait .sync
  | some h =>
    if h.gen = g then s.syncWait .sync
    else (s.updSplit fun p => { p with bar := none }).doneSync h.doneClock

/-- BAR (R30, R61, R154). -/
def execBar (n : BitVec 2) (s : State) : Result :=
  match s.split.bar with
  | some (i, g) => .next (s.passBar i g)
  | none =>
    match s.cohortOf s.crew n.toNat with
    | none => .next (s.raise 0x0C n.toNat 0 (n.setWidth 32))
    | some (i, h) =>
      let begun := s.split.wait = .sync
      if s.divides then .next s.divergent
      else if !begun ∧ !s.crew.lanesIdle then .next (s.stay .lanes)
      else
        let (may, s) := if begun then (true, s) else s.begins (fun x => (s.launch.slots x.block).contains i) h.spans
        if !may then .next (s.stay .lanes)
        else
          let s := s.drain
          if 4 ≤ h.scope ∧ s.crew.writesOut s.curSplit then .next (s.syncWait .sync)
          else if !s.replayReady (s.logRecord 0x24 none false (BitVec.ofNat 64 i)) then .next (s.stay .lanes)
          else .next ((s.arriveBar i).passBar i h.gen)

/-! ## Sync objects (R26, R28) -/

/-- The address of a sync object in a register, or the trap it meets: the sync-object trap where it is misaligned, names a
width or lies in no space for objects, else the range trap where it lies outside its space (R28, R154, R201). DEDUCED: R133
and R154 let a reserved SPACE or WID be a range trap as well, and the model follows R28 and R201 (log entry 115). -/
def State.objAddr (s : State) (a : Word) : Except TrapInfo ScalarAddr :=
  if a.extractLsb' 29 3 ≠ 0 ∨ 2 ≤ a.extractLsb' 27 2 ∨ a.extractLsb' 0 3 ≠ 0 then .error (scalarInfo 0x0B 0 a 0)
  else
    match s.scalarAddr s.cur a with
    | none => .error (scalarInfo 0x0A (scalarRange a) a 0)
    | some p => .ok p

/-- HOLD of the split in focus as the exclusive holder (R26). -/
def State.selfHold (s : State) : Nat :=
  slotCore s.cur % 64 * 128 + slotSeat s.cur * 32 + slotPos s.cur * 4 + s.curSplit

/-- The bound entries of an object's regions drain (R24). -/
def State.drainBound (s : State) (p : ScalarAddr) : State := s.drainIf s.cur fun e => s.boundTo s.cur p.spad p.addr e

/-- Whether an entry that the crew in focus issued stands faulted and names the object as its release object, its
fault not yet retired. -/
def State.relFaulted (s : State) (p : ScalarAddr) : Bool :=
  (List.range 7).any fun q => (s.queue s.qk q).ents.any fun e =>
    e.uid == s.crew.uid && e.state == .faulted && e.rel == some (p.spad, p.addr)

/-- Whether a retired entry of the crew named the object, and its ASYNCF bit still stands (R233; log entry 28). -/
def Crew.relRetired (c : Crew) (p : ScalarAddr) : Bool :=
  c.relFailed.any fun x => c.asyncf.getLsbD x.1 && x.2 == (p.spad, p.addr)

/-- What an ACQ finds first: its object or a trap. first is set while the word has not begun to wait. -/
def State.acquireAddr (s : State) (a : Word) (first : Bool) : Except TrapInfo ScalarAddr :=
  match s.objAddr a with
  | .error t => .error t
  | .ok p =>
    if s.crew.relRetired p || (first && s.relFaulted p) then .error (scalarInfo 0x10 7 a 0)
    else .ok p

/-- Whether the split has begun to wait at an ACQ. -/
def Split.acquiring (p : Split) : Bool := match p.wait with | .acquire _ _ _ _ _ => true | _ => false

/-- The order of two waiters on an object: (clock at begin, block, crew) in a deterministic launch, else the step at
which the wait began. -/
def State.waiterKey (s : State) (det : Bool) (x : Nat × Crew) (w : Wait) : Nat :=
  match w with
  | .acquire _ _ _ clk since => if det then clk.toNat * 2 ^ 40 + x.2.block * 16 + x.2.index else since
  | _ => if det then x.2.orderKey else s.steps

/-- Whether some other split that waits on the object for which q holds of its exclusiveness comes before the split in
focus, whose own wait is w. -/
def State.earlierWaiter (s : State) (p : ScalarAddr) (w : Wait) (q : Bool → Bool) : Bool :=
  let det := s.settings.det
  let mine := s.waiterKey det (s.cur, s.crew) w
  s.crews.any fun x => x.2.live && x.2.splits.any fun k =>
    (x.1, k.1) != (s.cur, s.curSplit) &&
      (match k.2.wait with
       | .acquire e sp a _ _ => sp == p.spad && a == p.addr && q e && decide (s.waiterKey det x k.2.wait < mine)
       | _ => false)

/-- The wait that an ACQ of the split in focus begins. -/
def State.acquireWait (s : State) (excl : Bool) (p : ScalarAddr) : Wait :=
  match s.split.wait with
  | .acquire e sp a c n => .acquire e sp a c n
  | _ => .acquire excl p.spad p.addr s.crew.clock s.steps

/-- ACQ.x or ACQ.s on an object, once begun (R28): waiters in order, the oldest ACQ.x first; in a deterministic launch
every waiter in the order of R65. -/
def State.take (s : State) (excl : Bool) (a : Word) (p : ScalarAddr) : State :=
  let s := if s.split.acquiring then s else s.drainBound p
  let w := s.objLow p.spad p.addr
  let mode := objMode w
  let wait := s.acquireWait excl p
  let det := s.settings.det
  let record := s.objRecord 0x25 none p.spad p.addr
  let ready := s.replayReady record
  if s.mem.poisoned (spOf p.spad) p.addr 8 then s.poisonRaise a
  else if mode = 3 then s.raise 0x0B 1 a 0
  else if excl ∧ mode = 1 ∧ objHold w = s.selfHold then s.raise 0x0B 2 a 0
  else if excl then
    if mode = 0 ∧ ready ∧ !s.earlierWaiter p wait (fun e => e || det) then
      let s := s.logOp record
      let s := s.setObjLow p.spad p.addr (objWord 1 false s.selfHold)
      let s := s.setXw p.spad p.addr (s.exclWaiter p.spad p.addr (s.cur, s.curSplit))
      s.doneSync (s.obj p.spad p.addr).free
    else (s.setXw p.spad p.addr true).syncWait wait
  else if ready ∧ ((mode = 0 ∧ !(det && s.earlierWaiter p wait fun _ => true)) ∨ (mode = 2 ∧ !objXw w)) then
    let s := s.logOp record
    let s := s.setObjLow p.spad p.addr (objWord 2 (objXw w) (objHold w + 1))
    s.doneSync (s.obj p.spad p.addr).free
  else s.syncWait wait

/-- ACQ.x and ACQ.s (R28, R154). -/
def State.acquire (s : State) (excl : Bool) (a : RegNo) : State :=
  let v := s.sreg a
  match s.acquireAddr v (!s.split.acquiring) with
  | .error t => s.takeTrap t false false
  | .ok p =>
    if s.divides then s.divergent
    else if s.split.acquiring then s.take excl v p
    else if !s.crew.lanesIdle then s.stay .lanes
    else if !s.mayBegin s.sameBlock then s.stay .lanes
    else s.take excl v p

/-- ACQ.x (R28). -/
def execAcqX (a : RegNo) (s : State) : Result := .next (s.acquire true a)
/-- ACQ.s (R28). -/
def execAcqS (a : RegNo) (s : State) : Result := .next (s.acquire false a)

/-- ACQ.w (R28): no ownership. -/
def execAcqW (a b : RegNo) (s : State) : Result :=
  let v := s.sreg a
  let begun := s.split.wait = .sync
  match s.acquireAddr v (!begun) with
  | .error t => .next (s.takeTrap t false false)
  | .ok p =>
    if s.divides then .next s.divergent
    else if !begun && !s.crew.lanesIdle then .next (s.stay .lanes)
    else if !begun && !s.mayBegin s.sameBlock then .next (s.stay .lanes)
    else if s.mem.poisoned (spOf p.spad) p.addr 8 then .next (s.poisonRaise v)
    else if objMode (s.objLow p.spad p.addr) = 3 then .next (s.raise 0x0B 1 v 0)
    else
      let n := s.sreg b
      let record := s.objRecord 0x25 none p.spad p.addr
      if seqCovers (s.objCount p.spad p.addr) n ∧ s.replayReady record then
        .next ((s.logOp record).doneSync ((s.obj p.spad p.addr).clockOf n))
      else .next (s.syncWait .sync)

/-- The low word of an object after a REL by a split with HOLD self; none where it owns nothing. -/
def relLow (w self : Nat) : Option Nat :=
  if objMode w = 1 ∧ objHold w = self then some (objWord 0 (objXw w) 0)
  else if objMode w = 2 ∧ objHold w ≠ 0 then
    some (if objHold w = 1 then objWord 0 (objXw w) 0 else objWord 2 (objXw w) (objHold w - 1))
  else none

/-- The clock of the REL that made the object free is kept (R65). -/
def State.freed (s : State) (p : ScalarAddr) (clk : DWord) : State :=
  { s with objs := mapSet ObjClock.none s.objs (objKey p.spad p.addr) { s.obj p.spad p.addr with free := clk } }

/-- REL (R28, R154). -/
def execRel (a : RegNo) (s : State) : Result :=
  let v := s.sreg a
  match s.objAddr v with
  | .error t => .next (s.takeTrap t false false)
  | .ok p =>
    if s.divides then .next s.divergent
    else if !s.crew.lanesIdle then .next (s.stay .lanes)
    else if !s.mayBegin s.sameBlock then .next (s.stay .lanes)
    else if s.mem.poisoned (spOf p.spad) p.addr 8 then .next (s.poisonRaise v)
    else if !s.replayReady (s.objRecord 0x26 none p.spad p.addr) then .next (s.stay .lanes)
    else
      match relLow (s.objLow p.spad p.addr) s.selfHold with
      | none => .next (s.raise 0x0B 3 v 0)
      | some w =>
        let s := s.logOp (s.objRecord 0x26 none p.spad p.addr)
        let clk := s.crew.clock
        let s := s.setObjLow p.spad p.addr w
        let s := if objMode w = 0 then s.freed p clk else s
        .next ((s.drainBound p).release p.spad p.addr clk).done

/-! ## Fences (R29, R31, R33, R36) -/

/-- FENCE (R21, R29): at PKG and GANG scope it waits for acknowledgements; once begun it waits for nothing else. -/
def execFence (sc : BitVec 3) (s : State) : Result :=
  if 6 ≤ sc then .next (s.illegal 9 sc.toNat)
  else if s.split.wait ≠ .sync ∧ !s.crew.lanesIdle then .next (s.stay .lanes)
  else
    let s := s.drain
    if 4 ≤ sc ∧ s.crew.writesOut s.curSplit then .next (s.stay .sync) else .next s.done

/-- FENCE.flush: drains, and in a deterministic launch applies the crew's updates (R36). -/
def execFenceFlush (s : State) : Result :=
  if s.divides then .next s.divergent
  else if !s.crew.lanesIdle then .next (s.stay .lanes)
  else if !s.mayBegin s.sameBlock then .next (s.stay .lanes)
  else
    let s := s.drain.logOp (s.logRecord 0x27 none false 0)
    .next (if s.settings.det then s.flushAt s.cur else s).done

/-- QFNC (R31): the fence keeps the issue counts of the queues it names. -/
def execQfnc (m : BitVec 7) (s : State) : Result :=
  if m = 0 then .next s.done
  else
    .next (s.updQset s.qk fun x =>
      let named := (List.range 7).filter fun q => m.getLsbD q
      { x with fences := x.fences ++ [(m, named.map fun q => (q, (x.queue q).issue))] }).done

/-- XFNC (R33). -/
def execXfnc (s : State) : Result :=
  if !s.crew.lanesIdle then .next (s.stay .lanes) else .next s.drain.done

/-! ## Waits (R12, R139, R140) -/

/-- A wait on ticket t of queue q; the two checks are made before it waits (R140). -/
def State.waitSeq (s : State) (drain : Bool) (a : RegNo) (q : BitVec 4) : State :=
  let t := s.sreg a
  let u := s.queue s.qk q.toNat
  let begun := s.split.wait = .sync
  if 7 ≤ q then s.illegal 11 q.toNat
  else if !begun && (t != u.issue && (t - u.issue).toNat < 2 ^ 31) then s.raise 0x0F q.toNat t 0
  else if !begun && s.crew.asyncf.getLsbD q.toNat then s.raise 0x10 q.toNat t 0
  else
    let s := if drain && !begun then s.drain else s
    if seqCovers u.seq t then s.doneSync (u.clockOf t) else s.stay .sync

/-- WSEQ (R140). -/
def execWseq (a : RegNo) (q : BitVec 4) (s : State) : Result := .next (s.waitSeq false a q)
/-- YIELD.seq (R139). -/
def execYieldSeq (a : RegNo) (q : BitVec 4) (s : State) : Result := .next (s.waitSeq true a q)

/-- YIELD: older ready splits issue first (R63, R139). -/
def execYield (s : State) : Result := .next s.drain.done.rotate

/-- A wait until the crew's join count is zero (R310): the children that were cancelled are forgotten. -/
def State.waitJoin (s : State) (k : State → State) : State :=
  let c := s.crew
  if c.jcnt = 0 then (k (s.updCrew fun c => { c with cancelled := 0 })).doneSync c.childClock else s.stay .sync

/-- YIELD.jn (R139, R310). -/
def execYieldJn (s : State) : Result :=
  let s := if s.split.wait = .sync then s else s.drain
  .next (s.waitJoin id)

/-- YIELD.time (R139): A is even. -/
def execYieldTime (a : RegNo) (s : State) : Result :=
  if !pairOk a then .next (s.illegal 2 a.toNat)
  else
    let t := s.spair a
    let s := if s.split.wait = .time t then s else s.drain
    if t ≤ s.heat.time then .next s.done else .next (s.stay (.time t))

end Sys2Proof.Machine
end

