-- ==== Sys2Proof/Machine/Remote.lean ====
section
/-! DEFINITION. Remote memory: addresses, peer and window tables, packets, requests in flight and their timers, what a
target does with a request, and XMEM and XATM (R346 to R357, R388, R389). -/

namespace Sys2Proof.Machine

/-! ## Addresses and packets (R346, R350) -/

/-- The peer of a remote address. -/
def remotePeer (a : Nat) : Nat := a / 2 ^ 52 % 4096
/-- The window of a remote address. -/
def remoteWindow (a : Nat) : Nat := a / 2 ^ 44 % 256
/-- The window offset of a remote address. -/
def remoteOffset (a : Nat) : Nat := a % 2 ^ 44

/-- Packet kinds (R350). -/
def kReadReq : BitVec 8 := 0x01
/-- A read response. -/
def kReadRsp : BitVec 8 := 0x02
/-- A write request. -/
def kWriteReq : BitVec 8 := 0x03
/-- A write acknowledgement. -/
def kWriteAck : BitVec 8 := 0x04
/-- An atomic request. -/
def kAtomReq : BitVec 8 := 0x05
/-- An atomic response. -/
def kAtomRsp : BitVec 8 := 0x06
/-- XPUT data. -/
def kPutReq : BitVec 8 := 0x07
/-- An XPUT acknowledgement. -/
def kPutAck : BitVec 8 := 0x08
/-- Busy. -/
def kBusy : BitVec 8 := 0x09
/-- A probe. -/
def kProbe : BitVec 8 := 0x0A
/-- A progress report. -/
def kReport : BitVec 8 := 0x0B
/-- Collective data. -/
def kCollReq : BitVec 8 := 0x0C
/-- A collective acknowledgement. -/
def kCollAck : BitVec 8 := 0x0D
/-- A poisoned response. -/
def kPoisoned : BitVec 8 := 0x0E
/-- A forwarded request. -/
def kForward : BitVec 8 := 0x0F

/-- Whether a packet of a kind begins with a request header. -/
def hasHeader (k : BitVec 8) : Bool := [kReadReq, kWriteReq, kAtomReq, kPutReq, kCollReq, kForward].contains k

/-- The virtual channel of a kind (R350). -/
def kindVc (k : BitVec 8) : Nat :=
  if k = kForward then 1 else if 0x20 ≤ k then 4 else if hasHeader k then 0 else 2

/-- The poison marks as the flits carry them: one for each half of a payload (R231, R332). -/
def coarsePoison (header : Bool) (marks : List Bool) : List Bool :=
  let at' (i : Nat) : Nat := (i + if header then 32 else 0) / 64
  (List.range marks.length).map fun i =>
    (List.range marks.length).any fun j => marks.getD j false && at' i == at' j

/-- The payload bytes of a packet: header and data (R350). OPW keeps the FN bits in [10:0], the kind of a forwarded
request in [25:18] and WTID in [31:26] (log entry 30). -/
def packetPayload (p : Packet) : List Byte :=
  (if hasHeader p.kind then
     leBytes 8 p.addr.toNat ++ leBytes 8 p.reqid.toNat ++ leBytes 8 p.sendt.toNat ++
       leBytes 4 (p.opw.toNat % 2 ^ 26 + 2 ^ 26 * (p.wtid % 64)) ++ leBytes 4 p.len
   else []) ++ p.data

/-- Whether flits of a kind are write-data flits, whose CTL[7:6] carry the poison marks (R332). -/
def marksData (k : BitVec 8) : Bool := k == kWriteReq || k == kPutReq || k == kCollReq
/-- Whether flits of a kind carry the data of a response, which may be poisoned (R349); their CTL[7:6] are zero, and AUX
[31:30], which REQID leaves unnamed, carry the marks (log entry 124). -/
def carriesMark (k : BitVec 8) : Bool := k == kReadRsp || k == kAtomRsp
/-- The kind of the request that a forwarded one carries: OPW[25:18] (log entry 30). -/
def innerKind (p : Packet) : BitVec 8 := if p.kind = kForward then p.opw.extractLsb' 18 8 else p.kind
/-- REQID as AUX of a headerless packet gives it: without the marks of a response, and without bit 63 of a report. -/
def auxReqid (k : BitVec 8) (aux : DWord) : DWord :=
  if carriesMark k then aux &&& 0xFFFFFFFF3FFFFFFF else if k = kReport then aux &&& 0x7FFFFFFFFFFFFFFF else aux

/-- One flit of a packet: payload bytes from 128 × i (R332). FSEQ and link fields are written later. -/
def packetFlit (p : Packet) (n i : Nat) : Flit :=
  let pay := ((packetPayload p).drop (128 * i)).take 128
  let head := if hasHeader p.kind then 32 else 0
  let half (h : Nat) : Bool := (List.range 64).any fun j =>
    let k := 128 * i + 64 * h + j
    decide (head ≤ k) && p.pois.getD (k - head) false
  let marks := (half 0).toNat + 2 * (half 1).toNat
  let aux := if p.held then p.reqid ||| 0x8000000000000000 else p.reqid
  { ctl := BitVec.ofNat 8 (kindVc p.kind + 16 * (decide (i = 0)).toNat + 32 * (decide (i + 1 = n)).toNat +
      if marksData (innerKind p) then 64 * marks else 0)
    kind := p.kind, heat := p.heat, src := BitVec.ofNat 16 p.src, dst := BitVec.ofNat 16 p.dst, fseq := 0
    len := BitVec.ofNat 16 (if p.kind = kPoisoned then p.len else max 1 pay.length), lseq := 0
    aux := if carriesMark p.kind then aux ||| BitVec.ofNat 64 (2 ^ 30 * marks) else aux
    payload := BitVec.ofNat 1024 (leNat pay), ack := 0xFFFFFFFF, crc := 0 }

/-- The flits of a packet. -/
def packetFlits (p : Packet) : List Flit :=
  let n := max 1 (((packetPayload p).length + 127) / 128)
  (List.range n).map (packetFlit p n)

/-- The flits with their places in their stream, key 8 × destination + VC (R332). -/
def State.sequence (s : State) (dst vc : Nat) (fs : List Flit) : State :=
  let k := 8 * dst + vc
  let n := mapGet 0 s.fabric.fseq k
  let fs := fs.zipIdx.map fun x => { x.1 with fseq := BitVec.ofNat 32 (n + x.2) }
  { s with fabric := { s.fabric with
      fseq := mapSet 0 s.fabric.fseq k ((n + fs.length) % 2 ^ 32), egress := s.fabric.egress ++ fs } }

/-- A packet is sent: to the package's own peer it loops back through the fabric unit (R18, R348), else its flits enter
egress. -/
def State.send (s : State) (p : Packet) : State :=
  let p := { p with pois := coarsePoison (hasHeader p.kind) p.pois }
  if p.dst = s.fabric.peer then { s with fabric := { s.fabric with inbox := s.fabric.inbox ++ [p] } }
  else s.sequence p.dst (kindVc p.kind) (packetFlits p)

/-! ## Messages on TIM (R343, R370) -/

/-- The fabric changed by f. -/
def State.updFabric (s : State) (f : Fabric → Fabric) : State := { s with fabric := f s.fabric }
/-- The instant at a fibre's reference plane, in 2^-16 ns of the time base with the fibre's delay correction (R343). -/
def State.portTime (s : State) (fibre : Nat) : Nat :=
  (Int.ofNat (s.heat.time.toNat * 65536 + s.heat.fraction.toNat) + mapGet 0 s.fabric.delays fibre).toNat

/-- A TIM packet sent: to the package itself it goes to its firmware, else its flit enters egress. -/
def State.sendTim (s : State) (dst : Nat) (kind : BitVec 8) (body : List Byte) : State :=
  let p : Packet :=
    { kind := kind, heat := 0, src := s.fabric.peer, dst := dst, reqid := 0, addr := 0, sendt := 0, opw := 0
      len := body.length, wtid := 0, data := body, pois := List.replicate body.length false, held := false }
  if dst = s.fabric.peer then s.updFabric fun f => { f with ptp := f.ptp ++ [⟨0, packetFlit p 1 0, s.portTime 0⟩] }
  else s.sequence dst 4 [packetFlit p 1 0]

/-- The payload of a message: epoch and sender, then its fields in the order of R370, the lowest byte first (log entry
44). -/
def messageBody (m : Message) : List Byte :=
  let who := leBytes 1 (m.value / 4096) ++ leBytes 2 (m.value % 4096)
  let entry := leBytes 4 m.heat.toNat ++ leBytes 4 m.seq.toNat
  leBytes 8 m.epoch.toNat ++ leBytes 2 m.sender ++
    match m.kind.toNat with
    | 0x21 => if m.starter then who else leBytes 1 m.value ++ leBytes 4 m.heat.toNat
    | 0x22 => who
    | 0x23 => entry
    | 0x24 => entry ++ leBytes 1 m.value
    | 0x25 => entry
    | 0x26 => leBytes 4 m.heat.toNat ++ leBytes 2 (m.value % 4096) ++ leBytes 1 (m.value / 4096)
    | 0x27 => who
    | 0x28 => leBytes 4 m.seq.toNat
    | _ => []

/-- The message that a TIM flit carries. A heartbeat of the starter has three bytes after the sender, a member's five. -/
def messageOf (x : Flit) (own : Nat) : Message :=
  let bs := (leBytes 128 x.payload.toNat).take x.len.toNat
  let at' (o n : Nat) : Nat := leNat ((bs.drop o).take n)
  let m : Message :=
    { kind := x.kind, epoch := BitVec.ofNat 64 (at' 0 8), sender := at' 8 2, starter := false, heat := 0, seq := 0, value := 0, toward := own }
  let who : Nat := 4096 * at' 10 1 + at' 11 2
  let entry : Message := { m with heat := BitVec.ofNat 32 (at' 10 4), seq := BitVec.ofNat 32 (at' 14 4) }
  match x.kind.toNat with
  | 0x21 => if x.len.toNat ≤ 13 then { m with starter := true, value := who }
            else { m with value := at' 10 1, heat := BitVec.ofNat 32 (at' 11 4) }
  | 0x22 => { m with value := who }
  | 0x23 => entry
  | 0x24 => { entry with value := at' 18 1 }
  | 0x25 => entry
  | 0x26 => { m with heat := BitVec.ofNat 32 (at' 10 4), value := at' 14 2 + 4096 * at' 16 1 }
  | 0x27 => { m with value := who }
  | 0x28 => { m with seq := BitVec.ofNat 32 (at' 10 4) }
  | _ => m

/-- The destination of a message to every package of the domain. -/
def everyPeer : Nat := 4096
/-- Whether a package is the starter of the highest epoch known; while an election for it runs there is none (R371). -/
def State.starts (s : State) (peer : Nat) : Bool := s.heat.starter == peer && s.heat.candidacyAt.isNone
/-- Whether the package itself is the starter. -/
def State.isStarter (s : State) : Bool := s.starts s.fabric.peer
/-- The other peers of the domain: those of the rotor map (R331). -/
def State.otherPackages (s : State) : List Nat :=
  ((s.fabric.rotor.filterMap fun x => if x.2 = 0 then none else some (x.2 - 1)).filter (· != s.fabric.peer)).eraseDups

/-- A message of the starter protocol goes out (R370). -/
def State.tell (s : State) (kind : BitVec 8) (heat seq : Word) (value toward : Nat) : State :=
  let m : Message := ⟨kind, s.heat.epoch, s.fabric.peer, s.isStarter, heat, seq, value, toward⟩
  let s := { s with heat := { s.heat with sent := s.heat.sent ++ [m] } }
  (if toward = everyPeer then s.otherPackages else [toward]).foldl (fun s d => s.sendTim d kind (messageBody m)) s

/-! ## Answers -/

/-- A packet that answers p. -/
def State.answerTo (s : State) (p : Packet) (kind : BitVec 8) (len : Nat) (data : List (Byte × Bool)) : Packet :=
  { kind := kind, heat := p.heat, src := s.fabric.peer, dst := p.src, reqid := p.reqid, addr := p.addr, sendt := 0
    opw := 0, len := len, wtid := 0, data := data.map Prod.fst, pois := data.map Prod.snd, held := false }

/-- The answer is sent. -/
def State.answer (s : State) (p : Packet) (kind : BitVec 8) (len : Nat) (data : List (Byte × Bool)) : State :=
  s.send (s.answerTo p kind len data)

/-! ## Requests in flight (R348, R352, R353) -/

/-- Whether a peer stands in the rotor map or is the package's own. -/
def State.reachable (s : State) (peer : Nat) : Bool :=
  peer == s.fabric.peer || s.fabric.rotor.any fun x => x.2 == peer + 1

/-- Check 1 of R348: the WTID of the peer entry, if it is valid and the peer is present. -/
def State.peerTable (s : State) (part peer : Nat) : Option Nat :=
  let e := mapGet ⟨false, false, 0⟩ s.fabric.peers (4096 * part + peer)
  if e.valid && s.reachable peer then some e.wtid else none

/-- The heat number, bits [15:0], of a job. -/
def State.heat16 (s : State) (job : Nat) : BitVec 16 := (s.job job).heatno.setWidth 16

/-- REQID of an XATM: peer, core, crew slot, counter (R350, R357). -/
def State.atomId (s : State) (core port : Nat) (count : Word) : DWord :=
  BitVec.ofNat 64 (s.fabric.peer % 4096 + 4096 * core + 2 ^ 20 * port + 2 ^ 32 * count.toNat)
/-- REQID of another request: peer, core, crew slot or engine port, counter, and bit 25, which R350 leaves unnamed, set,
so that it meets no XATM's (R350; log entry 31). -/
def State.reqid (s : State) (core port : Nat) (count : Word) : DWord := s.atomId core port count ||| 0x2000000

/-- The next counter of the requests that are no XATM. -/
def State.nextReq (s : State) : Word × State :=
  (s.fabric.reqCounter, { s with fabric := { s.fabric with reqCounter := s.fabric.reqCounter + 1 } })

/-- A request goes out with its timer started (R353). -/
def State.request (s : State) (r : Req) : State :=
  let p := { r.packet with sendt := s.heat.time }
  let r := { r with packet := p, timer := some s.heat.time, waitingRetry := false, probed := false }
  let s := { s with fabric := { s.fabric with reqs := (s.fabric.reqs.filter fun (x : Req) => x.reqid != r.reqid) ++ [r] } }
  s.send p

/-- The request with a REQID. -/
def State.findReq (s : State) (id : DWord) : Option Req := s.fabric.reqs.find? fun r => r.reqid == id
/-- A request in flight changed by f. -/
def State.updReq (s : State) (id : DWord) (f : Req → Req) : State :=
  { s with fabric := { s.fabric with reqs := s.fabric.reqs.map fun r => if r.reqid = id then f r else r } }

/-- A crew request record with the response put in. -/
def CrewReq.answered (q : CrewReq) (p : Packet) : CrewReq := if q.reqid = p.reqid then { q with response := some p } else q

/-- The response reaches its requester: a crew's record, of a crew in its slot or in a save area, or an engine's entry,
where WTID keeps the index of the data in the entry, and ADDR the address asked for; the request is no longer in flight. A response to no request is discarded (R353, R356, R386). -/
def State.deliver (s : State) (p : Packet) : State :=
  match s.findReq p.reqid with
  | none => s
  | some r =>
    let s := { s with fabric := { s.fabric with reqs := s.fabric.reqs.filter fun x => x.reqid != p.reqid } }
    let p := { p with addr := r.packet.addr }
    if r.origin = 4 then s
    else if r.origin = 0 then
      let put (x : Nat × Crew) : Nat × Crew := (x.1, { x.2 with reqs := x.2.reqs.map fun q => q.answered p })
      { s with
        crews := s.crews.map put
        heat := { s.heat with saved := s.heat.saved.map fun a => { a with crews := a.crews.map put } } }
    else
      s.updEntry r.qset r.q r.ticket fun e =>
        { e with pending := e.pending.filter (· != p.reqid), resp := e.resp ++ [{ p with wtid := r.index }] }

/-- A packet served is taken out of the inbox. -/
def State.served (s : State) (p : Packet) : State :=
  { s with fabric := { s.fabric with inbox := s.fabric.inbox.erase p } }

/-- Whether the request of a REQID is parked across a switch or a sprint (R386, R394). -/
def State.isParked (s : State) (id : DWord) : Bool :=
  (s.heat.saved.any fun a => a.parked.any fun r => r.1.reqid == id) ||
    match s.heat.sprint with
    | some x => x.parked.any fun r => r.1 == id
    | none => false

/-- Whether a packet is of a kind, has reached the package and answers no parked request. -/
def State.arrives (s : State) (p : Packet) (k : BitVec 8) : Bool :=
  p.kind == k && p.dst == s.fabric.peer && !s.isParked p.reqid

/-- A member failure report to the starter for a response of DETAIL 5 or 6 in a running heat (R373). -/
def State.reportDetail (s : State) (heat : BitVec 16) (peer detail : Nat) : State :=
  match s.heat.running.find? fun r => r.heatno.setWidth 16 == heat with
  | some r =>
    if detail = 5 ∨ detail = 6 then s.tell 0x26 r.heatno r.seq (peer + 4096 * detail) s.heat.starter else s
  | none => s

/-- READ_RESPONSE (R356). -/
def execReadResponse (p : Packet) (s : State) : Result :=
  .next (if s.arrives p kReadRsp then (s.served p).deliver p else s)
/-- WRITE_ACK (R356). -/
def execWriteAck (p : Packet) (s : State) : Result :=
  .next (if s.arrives p kWriteAck then (s.served p).deliver p else s)
/-- ATOMIC_RESPONSE (R357). -/
def execAtomicResponse (p : Packet) (s : State) : Result :=
  .next (if s.arrives p kAtomRsp then (s.served p).deliver p else s)
/-- XPUT_ACK (R359). -/
def execXputAck (p : Packet) (s : State) : Result :=
  .next (if s.arrives p kPutAck then (s.served p).deliver p else s)
/-- COLLECTIVE_ACK (R362). -/
def execCollectiveAck (p : Packet) (s : State) : Result :=
  .next (if s.arrives p kCollAck then (s.served p).deliver p else s)
/-- POISONED_RESPONSE: the request ends with its DETAIL (R348); one of a dropped request is discarded (R353). -/
def execPoisonedResponse (p : Packet) (s : State) : Result :=
  .next (if s.arrives p kPoisoned then
    if (s.findReq p.reqid).isSome then ((s.served p).deliver p).reportDetail p.heat p.src p.len else s.served p
  else s)

/-- BUSY: the timer starts again and the request waits to be sent again (R352). -/
def execBusy (p : Packet) (s : State) : Result :=
  .next (if s.arrives p kBusy then
    (s.served p).updReq p.reqid fun r =>
      { r with busy := r.busy + 1, timer := some s.heat.time, waitingRetry := true, probed := false }
  else s)

/-- The backoff after the n-th busy answer, in ns (R352). -/
def busyWait (n peer : Nat) : Nat := 1000 * 2 ^ min n 7 + 64 * (peer % 16)

/-- Whether ns have passed since a time. -/
def State.passed (s : State) (since : DWord) (ns : Nat) : Bool := decide (since.toNat + ns ≤ s.heat.time.toNat)

/-- BUSY_RETRY: the request goes out again with its REQID and a new SENDT (R352). -/
def execBusyRetry (reqid : DWord) (s : State) : Result :=
  match s.findReq reqid with
  | some r =>
    match r.timer with
    | some t =>
      if r.waitingRetry && s.passed t (busyWait r.busy s.fabric.peer) then .next (s.request r) else .next s
    | none => .next s
  | none => .next s

/-- The REQID of the request that a report answers: AUX bit 63 of a report says held (R388). -/
def State.reportedReq (s : State) (p : Packet) : DWord :=
  match s.fabric.reqs.find? fun r => r.reqid.extractLsb' 0 63 == p.reqid.extractLsb' 0 63 with
  | some r => r.reqid
  | none => p.reqid

/-- PROGRESS_REPORT: the timer starts again, or stops for a held request (R353, R389). -/
def execProgressReport (p : Packet) (s : State) : Result :=
  .next (if s.arrives p kReport then
    (s.served p).updReq (s.reportedReq p) fun r =>
      { r with timer := if p.held then none else some s.heat.time, probed := false }
  else s)

/-- REQUEST_PROBE_TIMER: at 200 µs a probe is sent (R353). -/
def execRequestProbeTimer (reqid : DWord) (s : State) : Result :=
  match s.findReq reqid with
  | some r =>
    match r.timer with
    | some t =>
      if !r.probed && s.passed t 200000 then
        let s := s.updReq reqid fun r => { r with probed := true }
        .next (s.send { r.packet with kind := kProbe, data := [], pois := [] })
      else .next s
    | none => .next s
  | none => .next s

/-- REQUEST_TIMEOUT: at 400 µs the request is dropped and completes with a poisoned response of DETAIL 6 (R353). -/
def execRequestTimeout (reqid : DWord) (s : State) : Result :=
  match s.findReq reqid with
  | some r =>
    match r.timer with
    | some t =>
      if s.passed t 400000 then
        let s := s.deliver { r.packet with kind := kPoisoned, len := 6, data := [], pois := [] }
        .next (s.reportDetail r.packet.heat r.packet.dst 6)
      else .next s
    | none => .next s
  | none => .next s

/-! ## At the target (R347 to R351, R354, R388) -/

/-- What the checks of R348 at the target make of a request. -/
inductive Admit where
  /-- performed at a place -/
  | spot (x : Spot)
  /-- held for a heat that does not run -/
  | held
  /-- sent on to another peer -/
  | forward (peer : Nat)
  /-- answered with a poisoned response -/
  | refuse (detail : Nat)
  deriving DecidableEq, Repr

/-- Whether a heat, bits [15:0], runs on the package. -/
def State.heatRuns (s : State) (h : BitVec 16) : Bool := s.heat.running.any fun r => !r.stopped && r.heatno.setWidth 16 == h
/-- Whether a heat stands on the heat sheet: an entry of it is not over, and it is not being run as idle (R369, R372). -/
def State.heatStands (s : State) (h : BitVec 16) : Bool :=
  let mine := s.heat.sheet.filter fun e => !e.void && e.entry.kind != 3 && e.entry.heatno.setWidth 16 == h &&
    decide (s.heat.time.toNat < e.entry.start.toNat + e.entry.dur.toNat)
  !mine.isEmpty && !(mine.any fun e => e.started && e.idle && e.entry.kind == 0)

/-- The job whose heat a partition runs, or the first job of the partition. -/
def State.partJob (s : State) (part : Nat) : Nat :=
  match s.heat.running.find? fun r => r.part == part with
  | some r => r.job
  | none => match s.jobs.find? fun j => j.2.present && j.2.part == part with | some j => j.1 | none => 0

/-- Check 3: PERM[3] set, reserved bits clear, a space that exists (R347); SIZE and LOC of a forwarded entry are not read
(R351). -/
def Window.ok (w : Window) : Bool :=
  w.perm.getLsbD 3 && w.perm.extractLsb' 4 3 == 0 && w.res == 0 && decide (w.base < 2 ^ 52) &&
    (if w.perm.getLsbD 7 then w.base % 2 ^ 40 == 0
     else w.base % 4096 == 0 && w.loc.extractLsb' 4 2 < 2 && decide (w.size ≤ 32))

/-- Whether a request is a host die's own: REQID bit 26, which R350 leaves unnamed (log entry 31). -/
def hostRequest (p : Packet) : Bool := p.reqid.getLsbD 26

/-- Check 4 (R348, R387). Crews cannot name window 255: only a host die's publications pass there (R365). -/
def State.heatAdmits (s : State) (w : Window) (window : Nat) (p : Packet) : Option Admit :=
  let h := p.heat
  if window = 255 ∧ h = 0 ∧ w.heatf = 0 ∧ hostRequest p then none
  else if h = w.heatf ∧ h ≠ 0 then
    if s.heatRuns h then none else if s.heatStands h then some .held else some (.refuse 5)
  else some (.refuse 5)

/-- Checks 5 and 6 and translation for n bytes at an offset of a window with the permissions asked (bits R, W, A);
with state for the caches. DETAIL 9 posts the record of R405. -/
def State.windowSpot (s : State) (w : Window) (off n : Nat) (need : BitVec 3) : State × Admit :=
  let part := (w.loc.extractLsb' 0 4).toNat
  let die := (w.loc.extractLsb' 6 2).toNat
  let sp1 := w.loc.extractLsb' 4 2 = 1
  if 2 ^ (12 + w.size) < off + n then (s, .refuse 3)
  else if sp1 && !(s.partition part).rowsOpen die (w.base + off) n then (s, .refuse 3)
  else if w.perm.extractLsb' 0 3 &&& need ≠ need then (s, .refuse 4)
  else if sp1 then (s, .spot (.mem .spad (spadBase die + w.base + off)))
  else
    let job := s.partJob part
    let r := s.translate (256 + die) part (s.job job).troot (w.base + off)
      (need.getLsbD 0 || need.getLsbD 2) (need.getLsbD 1 || need.getLsbD 2)
    match r.2 with
    | .ok o => (r.1, .spot (.hbm part o))
    | .error c =>
      (r.1.post job 0 { Record.blank 0x10 (64 * die) with cause := c, addr := w.base + off }, .refuse 9)

/-- Window 255: 16 MiB of the reserved band, at the top of the last channel (R365; log entry 35). -/
def sheetBase : Nat := 2 ^ 31 * 384 - 2 ^ 24

/-- Checks 5 and 6 for window 255: its size is that of its entry, within the 16 MiB; it lies in the band that the firmware
reserves, which no partition's address names, so that BASE counts from there and PART names none (R365; log entry 35). -/
def State.sheetAdmit (_ : State) (w : Window) (off n : Nat) (need : BitVec 3) : Admit :=
  if min (2 ^ (12 + w.size)) (2 ^ 24) < off + n ∨ 2 ^ 24 < w.base + off + n then .refuse 3
  else if w.perm.extractLsb' 0 3 &&& need ≠ need then .refuse 4
  else .spot (.mem .hbm (sheetBase + w.base + off))

/-- The checks of a request at the target for n bytes at a window offset (R348). A request that was forwarded is not
forwarded again and makes checks 3 to 6 (R351). -/
def State.admission (s : State) (p : Packet) (off n : Nat) (need : BitVec 3) (again : Bool) : State × Admit :=
  let window := remoteWindow p.addr.toNat
  let w := mapGet Window.none s.fabric.windows (256 * p.wtid + window)
  if !w.ok then (s, .refuse 2)
  else
    match s.heatAdmits w window p with
    | some a => (s, a)
    | none =>
      if w.perm.getLsbD 7 then (s, if again then .refuse 2 else .forward (w.base / 2 ^ 40))
      else if window = 255 ∧ w.loc.extractLsb' 4 2 = 0 then (s, s.sheetAdmit w off n need)
      else s.windowSpot w off n need

/-- The die that holds the place of a window. -/
def State.windowDie (s : State) (p : Packet) : Nat :=
  ((mapGet Window.none s.fabric.windows (256 * p.wtid + remoteWindow p.addr.toNat)).loc.extractLsb' 6 2).toNat

/-- The die whose fibre links the package to a peer: fibre f is of die ⌊f ÷ 128⌋ (R331). -/
def State.dieTo (s : State) (peer : Nat) : Nat :=
  match s.fabric.rotor.find? fun x => x.2 == peer + 1 with | some x => x.1 / 8 / 128 | none => 0

/-- First flits of the forwarded requests that the package still keeps. -/
def State.forwarded (s : State) : List Flit :=
  (s.fabric.egress ++ s.fabric.links.flatMap fun l => l.2.queue ++ l.2.unacked ++ l.2.old).filter fun f =>
    f.kind == kForward && f.ctl.getLsbD 4
/-- Slots of a die's forwarding pool in use: the pool is that of the die that sends the request on, and a slot is free
again when the flits are acknowledged (R351; log entry 63). -/
def State.forwardsInUse (s : State) (die : Nat) : Nat := (s.forwarded.filter fun f => s.dieTo f.dst.toNat == die).length

/-- A request is sent on to another peer, or answered busy when no slot is free; its REQID names the requester (R351). -/
def State.forward (s : State) (p : Packet) (peer : Nat) : State :=
  if 256 ≤ s.forwardsInUse (s.dieTo peer) then s.answer p kBusy 0 []
  else
    s.send { p with
      kind := kForward, src := s.fabric.peer, dst := peer
      opw := (p.opw &&& 0xFC03FFFF#32) ||| (p.kind.setWidth 32 <<< 18)
      addr := BitVec.ofNat 64 (peer * 2 ^ 52 + p.addr.toNat % 2 ^ 52) }

/-- Bytes of data that the held-traffic area of a heat holds at most (R388). -/
def heldCapacity : Nat := 64 * 2 ^ 20

/-- A request is held, with the report that says so, or answered busy when the area is full (R388). -/
def State.hold (s : State) (p : Packet) : State :=
  let used := (s.fabric.held.filter fun q => q.heat == p.heat).foldl (fun n q => n + (packetPayload q).length) 0
  if heldCapacity < used + (packetPayload p).length then s.answer p kBusy 0 []
  else
    let s := { s with fabric := { s.fabric with held := s.fabric.held ++ [p] } }
    s.send { s.answerTo p kReport 0 [] with held := true }

/-- A poisoned response with its DETAIL (R348). -/
def State.refuse (s : State) (p : Packet) (detail : Nat) : State := s.answer p kPoisoned detail []

/-- Whether a target may still begin a request: at most 399 µs since SENDT (R353). Holding has no age (R388). -/
def State.fresh (s : State) (p : Packet) : Bool := decide (s.heat.time.toNat ≤ p.sendt.toNat + 399000)

/-- What is done with an admitted request. -/
def State.admitted (s : State) (p : Packet) (a : State × Admit) (k : State → Spot → State) : State :=
  match a.2 with
  | .spot x => k a.1 x
  | .held => s.hold p
  | .forward peer => s.forward p peer
  | .refuse d => a.1.refuse p d

/-- A read (R349). -/
def State.serveRead (s : State) (p : Packet) (again : Bool) : State :=
  s.admitted p (s.admission p (remoteOffset p.addr.toNat) p.len 1 again) fun s x =>
    s.answer p kReadRsp p.len ((List.range p.len).map fun i => (s.spotByte (x.plus i), s.spotPoison (x.plus i)))

/-- A write (R349). -/
def State.serveWrite (s : State) (p : Packet) (again : Bool) : State :=
  s.admitted p (s.admission p (remoteOffset p.addr.toNat) p.data.length 2 again) fun s x =>
    (s.spotWrite x (p.data.zip p.pois)).answer p kWriteAck 0 []

/-- The completion cache's answer to an atomic with a REQID (R354). -/
def State.cached (s : State) (id : DWord) : Option Packet := (s.fabric.cache.find? fun c => c.reqid == id).map Cached.response

/-- Entries older than 4 ms leave the cache; whether a die's cache then has a free entry (R354). -/
def State.cacheRoom (s : State) (die : Nat) : State × Bool :=
  let kept := s.fabric.cache.filter fun c => !s.passed c.time 4000000
  ({ s with fabric := { s.fabric with cache := kept } }, decide ((kept.filter fun c => c.die == die).length < 4096))

/-- A response kept and sent (R354). -/
def State.cacheAnswer (s : State) (die : Nat) (p : Packet) : State :=
  let c : Cached := ⟨die, p.reqid, p, s.heat.time⟩
  let s := { s with fabric := { s.fabric with cache := s.fabric.cache ++ [c] } }
  s.send p

/-- Width code and operation of an atomic request's OPW, laid out as FN of SATM (R147, R357). -/
def atomWidth (p : Packet) : Nat := (p.opw.extractLsb' 3 3).toNat

/-- The new value of a remote atomic; operands b and, for cas, the compare value in the data (R147, R357). -/
def atomNew (p : Packet) (old : Nat) : Nat :=
  let t := intTy (widType (atomWidth p))
  let b := leNat (p.data.take 4) % 2 ^ t.width
  let op := (p.opw.extractLsb' 0 3).toNat
  if op = 7 then (if old = leNat (p.data.drop 4) % 2 ^ t.width then b else old) else atomicInt t op old b

/-- The log record of a remote atomic at the die that performs it: the requester's crew is not known to it (R422; log
entry 32). -/
def State.atomLog (s : State) (p : Packet) (die part : Nat) : State :=
  let job := s.partJob part
  if (s.job job).logging then
    s.logPut { die := die, job := job, clock := 0, origin := 0xFFFFFFFF, block := 0xFFFFFFFF, opc := 0x37, kind := 0
               lane := 0xFF, heat := (s.job job).heatno, value := p.addr }
  else s

/-- An atomic: performed once for each REQID (R349, R354). -/
def State.serveAtomic (s : State) (p : Packet) (again : Bool) : State :=
  match s.cached p.reqid with
  | some r => s.send r
  | none =>
    let n := widBytes (atomWidth p)
    s.admitted p (s.admission p (remoteOffset p.addr.toNat) n 4 again) fun s x =>
      let die := s.windowDie p
      let room := s.cacheRoom die
      let s := room.1
      if !room.2 then s.answer p kBusy 0 []
      else if s.spotsPoisoned x n then
        s.cacheAnswer die (s.answerTo p kAtomRsp n (List.replicate n (0, true)))
      else
        let old := s.spotNat x n
        let part := ((mapGet Window.none s.fabric.windows (256 * p.wtid + remoteWindow p.addr.toNat)).loc.extractLsb' 0 4).toNat
        let s := s.atomLog p die part
        let s := s.spotPut x (leBytes n (atomNew p old))
        s.cacheAnswer die (s.answerTo p kAtomRsp n ((leBytes n old).map fun b => (b, false)))

/-- Whether an XPUT packet carries the signal: OPW[0]; its object's window offset is then the first 8 bytes of the data
(log entry 30). -/
def putSignal (p : Packet) : Bool := p.opw.getLsbD 0

/-- The clock of a release by a signal: that of the issuing entry where the requester is this package (R65; log entry
33). -/
def State.signalClock (s : State) (p : Packet) : DWord :=
  match s.findReq p.reqid with
  | some r => match (s.queue r.qset r.q).ents.find? fun e => e.ticket == r.ticket with | some e => e.clock | none => 0
  | none => 0

/-- A put of a host die into window 255 is noted for the firmware (R365, R367). -/
def State.noteArrival (s : State) (p : Packet) : State :=
  if remoteWindow p.addr.toNat = 255 ∧ hostRequest p then
    { s with heat := { s.heat with
        arrivals := s.heat.arrivals ++ [⟨p.src, remoteOffset p.addr.toNat, p.data.length, s.heat.time⟩] } }
  else s

/-- XPUT data: the bytes, then the signal, then the acknowledgement; a packet with a signal is performed once. LEN counts
the bytes from the packet's address to the end of the whole range, over which W is checked (R359, R386). -/
def State.servePut (s : State) (p : Packet) (again : Bool) : State :=
  let sig := putSignal p
  match if sig then s.cached p.reqid else none with
  | some r => s.send r
  | none =>
    let bytes := (p.data.zip p.pois).drop (if sig then 8 else 0)
    s.admitted p (s.admission p (remoteOffset p.addr.toNat) (max p.len bytes.length) 2 again) fun s x =>
      if !sig then ((s.spotWrite x bytes).noteArrival p).answer p kPutAck 0 []
      else
        let die := s.windowDie p
        let room := s.cacheRoom die
        if !room.2 then room.1.answer p kBusy 0 []
        else
          room.1.admitted p (room.1.admission p (leNat (p.data.take 8)) 8 4 again) fun s obj =>
            if s.spotsPoisoned obj 8 then s.refuse p 0
            else
              let clk := s.signalClock p
              let s := (s.spotWrite x bytes).spotRelease obj clk
              s.cacheAnswer die (s.answerTo p kPutAck 0 [])

/-- Collective data is kept for its participant and acknowledged (R361, R362). -/
def State.serveCollective (s : State) (p : Packet) : State :=
  let s := if s.fabric.collective.any fun q => q.reqid == p.reqid then s
    else { s with fabric := { s.fabric with collective := s.fabric.collective ++ [p] } }
  s.answer p kCollAck 0 []

/-- A request performed by its kind. -/
def State.serve (s : State) (p : Packet) (kind : BitVec 8) (again : Bool) : State :=
  if kind = kReadReq then s.serveRead p again
  else if kind = kWriteReq then s.serveWrite p again
  else if kind = kAtomReq then s.serveAtomic p again
  else if kind = kPutReq then s.servePut p again
  else s

/-- A request packet of a kind that has arrived: begun unless it is too old (R353). -/
def State.begin (s : State) (p : Packet) (kind : BitVec 8) (k : State → State) : State :=
  if s.arrives p kind then
    let s := s.served p
    if s.fresh p then k s else s
  else s

/-- READ_REQUEST (R348). -/
def execReadRequest (p : Packet) (s : State) : Result := .next (s.begin p kReadReq fun s => s.serveRead p false)
/-- WRITE_REQUEST (R349). -/
def execWriteRequest (p : Packet) (s : State) : Result := .next (s.begin p kWriteReq fun s => s.serveWrite p false)
/-- ATOMIC_REQUEST (R354). -/
def execAtomicRequest (p : Packet) (s : State) : Result := .next (s.begin p kAtomReq fun s => s.serveAtomic p false)
/-- XPUT_DATA (R359). -/
def execXputData (p : Packet) (s : State) : Result := .next (s.begin p kPutReq fun s => s.servePut p false)

/-- COLLECTIVE_DATA (R361, R362): held while its heat stands and does not run. -/
def execCollectiveData (p : Packet) (s : State) : Result :=
  .next (s.begin p kCollReq fun s =>
    if s.heatRuns p.heat then s.serveCollective p else if s.heatStands p.heat then s.hold p else s.refuse p 5)

/-- A forwarded request as the new peer serves it: the answer goes to the requester that REQID names. -/
def requesterPacket (p : Packet) : Packet := { p with src := p.reqid.toNat % 4096 }

/-- FORWARDED_REQUEST: performed by the new peer, which answers the requester (R351). -/
def execForwardedRequest (p : Packet) (s : State) : Result :=
  .next (s.begin p kForward fun s => s.serve (requesterPacket p) (innerKind p) true)

/-- PROBE: a report for a request that waits here, the cached response of an atomic, nothing otherwise (R353). -/
def execProbe (p : Packet) (s : State) : Result :=
  .next (if s.arrives p kProbe then
    let s := s.served p
    if s.fabric.held.any fun q => q.reqid == p.reqid then s.send { s.answerTo p kReport 0 [] with held := true }
    else if s.fabric.inbox.any fun q => q.reqid == p.reqid && hasHeader q.kind then
      let s := { s with fabric := { s.fabric with
        inbox := s.fabric.inbox.map fun (q : Packet) => if q.reqid = p.reqid then { q with sendt := s.heat.time } else q } }
      s.answer p kReport 0 []
    else match s.cached p.reqid with
      | some r => s.send r
      | none => if s.forwarded.any fun f => f.aux == p.reqid then s.answer p kReport 0 [] else s
  else s)

/-- HELD_REQUEST_PERFORM: the first held request whose heat runs is performed; one whose heat has left the sheet is
answered with DETAIL 5 (R388). -/
def execHeldRequestPerform (s : State) : Result :=
  .next (match s.fabric.held.find? fun p => s.heatRuns p.heat || !s.heatStands p.heat with
    | none => s
    | some p =>
      let s := { s with fabric := { s.fabric with held := s.fabric.held.erase p } }
      let q := if p.kind = kForward then (requesterPacket p) else p
      if !s.heatRuns p.heat then s.refuse q 5
      else if p.kind = kCollReq then s.serveCollective p
      else s.serve q (innerKind p) (p.kind == kForward))

/-! ## XMEM and XATM (R356, R357) -/

/-- The request record of the split in focus at its word. -/
def State.crewReq (s : State) : Option CrewReq :=
  s.crew.reqs.find? fun r => r.split == s.curSplit && r.spc == s.split.spc

/-- The record forgotten. -/
def State.dropReq (s : State) : State :=
  let k := s.curSplit
  let spc := s.split.spc
  s.updCrew fun c => { c with reqs := c.reqs.filter fun r => !(r.split == k && r.spc == spc) }

/-- The precise remote trap (R348): TRAPADDR and TRAPAHI hold the remote address. -/
def State.remoteTrap (s : State) (detail : Nat) (a : DWord) : State :=
  s.takeTrap ⟨0x15, BitVec.ofNat 16 detail, a.extractLsb' 0 32, 0, 0x7F, a.extractLsb' 32 32⟩ false false

/-- Bytes of an XMEM width code. -/
def xmemBytes (w : BitVec 3) : Nat := if w = 5 then 8 else widBytes w.toNat

/-- The request packet of a word of the crew in focus. -/
def State.crewPacket (s : State) (kind : BitVec 8) (a id : DWord) (fn wtid len : Nat) (data : List Byte) : Packet :=
  { kind := kind, heat := s.heat16 s.crew.job, src := s.fabric.peer, dst := remotePeer a.toNat, reqid := id, addr := a
    sendt := 0, opw := BitVec.ofNat 32 fn, len := len, wtid := wtid, data := data
    pois := List.replicate data.length false, held := false }

/-- A request of the crew in focus goes out and the split waits for its response. -/
def State.crewSend (s : State) (p : Packet) (first : DWord) : State :=
  let r : CrewReq := { split := s.curSplit, spc := s.split.spc, reqid := p.reqid, firstSend := first
                       write := p.kind == kWriteReq, response := none, parked := false }
  let s := s.dropReq.updCrew fun c => { c with reqs := c.reqs ++ [r] }
  (s.request { reqid := p.reqid, packet := p, busy := 0, timer := none, waitingRetry := false, probed := false
               origin := 0, qset := 0, q := 0, ticket := 0, index := 0 }).stay .remote

/-- A remote word: the checks at the requester, the request, the wait, and what its response does. -/
def State.xmem (s : State) (kind : BitVec 8) (a : DWord) (fn n : Nat) (data : List Byte) (k : State → Packet → State) : State :=
  match s.crewReq with
  | some r =>
    match r.response with
    | none => s.stay .remote
    | some p =>
      let s := s.dropReq
      if p.kind = kPoisoned then s.remoteTrap p.len a else k s p
  | none =>
    match s.peerTable s.crew.part (remotePeer a.toNat) with
    | none => s.remoteTrap 1 a
    | some wtid =>
      if remoteOffset a.toNat % n ≠ 0 then s.remoteTrap 8 a
      else
        let c := s.nextReq
        let id := s.reqid (slotCore s.cur) (s.cur % 24) c.1
        c.2.crewSend (s.crewPacket kind a id fn wtid n data) s.heat.time

/-- XMEM.ld (R356). -/
def execXmemLd (d a : RegNo) (w : BitVec 3) (s : State) : Result :=
  let fn := 2 * w.toNat
  if 6 ≤ w then .next (s.illegal 9 fn)
  else if w = 5 ∧ !pairOk d then .next (s.illegal 1 d.toNat)
  else if !pairOk a then .next (s.illegal 2 a.toNat)
  else
    let addr := s.spair a
    .next (s.xmem kReadReq addr fn (xmemBytes w) [] fun s p =>
      if p.pois.contains true then s.poisonRaise (addr.extractLsb' 0 32)
      else
        let v := leNat (p.data.take (xmemBytes w))
        let x : DWord := if w = 5 then BitVec.ofNat 64 v else (widExtend w.toNat v).setWidth 64
        let r := s.extern 0x36 x
        if w = 5 then (r.2.setSpair d r.1).done else r.2.write d (r.1.setWidth 32))

/-- XMEM.st (R356). -/
def execXmemSt (a b : RegNo) (w : BitVec 3) (s : State) : Result :=
  let fn := 2 * w.toNat + 1
  if 6 ≤ w then .next (s.illegal 9 fn)
  else if !pairOk a then .next (s.illegal 2 a.toNat)
  else if w = 5 ∧ !pairOk b then .next (s.illegal 3 b.toNat)
  else
    let v := if w = 5 then (s.spair b).toNat else (s.sreg b).toNat
    .next (s.xmem kWriteReq (s.spair a) fn (xmemBytes w) (leBytes (xmemBytes w) v) fun s _ => s.done)

/-- Whether another word of the crew in focus has an XATM in flight: it would carry the same REQID (log entry 31). -/
def State.atomBusy (s : State) (id : DWord) : Bool :=
  s.fabric.reqs.any fun r => r.reqid == id

/-- Whether an earlier remote request of the crew in focus has not been acknowledged: an XPUT, or a word of another split
(R355). -/
def State.crewOut (s : State) : Bool :=
  decide (0 < s.crew.unacked) || s.crew.reqs.any fun r =>
    r.split != s.curSplit && (r.parked || s.fabric.reqs.any fun (q : Req) => q.reqid == r.reqid)

/-- A record whose request timed out waits to be sent again. -/
def CrewReq.reopen (q : CrewReq) (id : DWord) : CrewReq := if q.reqid = id then { q with response := none } else q

/-- XATM (R357): the counter of REQID goes up when it completes without a remote trap. A word that timed out and is
issued again carries the old REQID, for 3 ms. -/
def execXatm (d a b : RegNo) (sc w o : BitVec 3) (s : State) : Result :=
  let fn := 64 * sc.toNat + 8 * w.toNat + o.toNat
  if (sc ≠ 4 ∧ sc ≠ 5) ∨ 5 ≤ w then .next (s.illegal 9 fn)
  else if s.settings.det then .next (s.illegal 9 fn)
  else if !pairOk a then .next (s.illegal 2 a.toNat)
  else
    let addr := s.spair a
    let n := widBytes w.toNat
    let id := s.atomId (slotCore s.cur) (s.cur % 24) s.crew.reqCounter
    let data := leBytes 4 (s.sreg b).toNat ++ leBytes 4 (s.sreg d).toNat
    let issue (first : DWord) : State :=
      match s.peerTable s.crew.part (remotePeer addr.toNat) with
      | none => s.remoteTrap 1 addr
      | some wtid =>
        if remoteOffset addr.toNat % n ≠ 0 then s.remoteTrap 8 addr
        else if s.atomBusy id || s.crewOut then s.stay .remote
        else s.crewSend (s.crewPacket kAtomReq addr id fn wtid n data) first
    match s.crewReq with
    | none => .next (issue s.heat.time)
    | some r =>
      match r.response with
      | none =>
        if s.fabric.reqs.any (fun (q : Req) => q.reqid == r.reqid) || r.parked then .next (s.stay .remote)
        else if s.passed r.firstSend 3000001 then .next (s.remoteTrap 7 addr)
        else .next (issue r.firstSend)
      | some p =>
        if p.kind = kPoisoned then
          let s := if p.len = 6 then
              s.updCrew fun c => { c with reqs := c.reqs.map fun (q : CrewReq) => q.reopen r.reqid }
            else s.dropReq
          .next (s.remoteTrap p.len addr)
        else
          let s := s.dropReq
          let s := s.updCrew fun c => { c with reqCounter := c.reqCounter + 1 }
          if p.pois.contains true then .next (s.poisonRaise (addr.extractLsb' 0 32))
          else
            let x := s.extern 0x37 ((widExtend w.toNat (leNat (p.data.take n))).setWidth 64)
            .next (x.2.write d (x.1.setWidth 32))

end Sys2Proof.Machine
end

