-- ==== Sys2Proof/Machine/Engines.lean ====
section
/-! DEFINITION. What the engines share: when an engine runs a partition's entries, fault and retire records, completion
and retirement of an entry, checks at issue, requests to other packages, and tiles that a task holds (R12 to R14, R232
to R235, R262). -/

namespace Sys2Proof.Machine

/-- The number that n bytes of a list at an offset hold. -/
def leAt (bs : List Byte) (o n : Nat) : Nat := leNat ((bs.drop o).take n)
/-- One byte of a list. -/
def byteAt (bs : List Byte) (o : Nat) : Nat := (bs.getD o 0).toNat
/-- Whether n bytes of a list from an offset are zero. -/
def zeroAt (bs : List Byte) (o n : Nat) : Bool := ((bs.drop o).take n).all (· == 0)

/-- The phase of a partition on a core (R377 to R390). -/
def State.phaseOf (s : State) (k : Nat) : Phase := mapGet .running s.phases k
/-- The state with a phase set. -/
def State.setPhase (s : State) (k : Nat) (p : Phase) : State := { s with phases := mapSet .running s.phases k p }

/-- The core of a queue set's key: for a die's set its first core. -/
def keyCore (k : Nat) : Nat := if k < 4096 then k % 256 else k % 4 * 64
/-- The partition of a queue set's key. -/
def keyPart (k : Nat) : Nat := if k < 4096 then k / 256 else (k - 4096) / 4

/-- Whether a part of a partition on some core that a test picks is on its way through a switch. -/
def State.switching (s : State) (part : Nat) (core : Nat → Bool) : Bool :=
  s.phases.any fun x => keyPart x.1 == part && core (keyCore x.1) && x.2 != .idle

/-- Whether the engines of a core serve a partition: its part of the core runs, and a sprint holds the core if and only if
the partition is the sprint partition (R391, R395). A die's set is served while no part of the partition on the die is
caught, for the sprint partition while a sprint holds a core of the die. -/
def State.engineRuns (s : State) (k : Nat) : Bool :=
  let spr := (s.partition (keyPart k)).sprint
  if k < 4096 then s.phaseOf k == .running && (s.core (keyCore k)).sprint.isSome == spr
  else !s.switching (keyPart k) (fun c => c / 64 == k % 4) &&
    (!spr || (List.range 64).any fun c => (s.core (k % 4 * 64 + c)).sprint.isSome)

/-- The entry of a queue with a ticket. -/
def State.entry (s : State) (k q : Nat) (t : Word) : Option QEntry := (s.queue k q).ents.find? fun e => e.ticket == t
/-- The first entry of a queue that has not completed. -/
def State.headEntry (s : State) (k q : Nat) : Option QEntry := (s.queue k q).ents.find? fun e => e.state != .complete

/-- Entries of a queue issued and not complete. -/
def State.waiting (s : State) (k q : Nat) : Nat := ((s.queue k q).ents.filter fun e => e.state != .complete).length

/-- QCODE of a queue (R235): the graph scheduler's queues have codes of their own. -/
def qcode (q : Nat) : Nat :=
  match q with
  | 7 => 0x80 | 8 => 0x85 | 9 => 0x84 | 10 => 0x86 | n => n

/-- The record of an entry (R235). -/
def State.entryRecord (s : State) (k q : Nat) (e : QEntry) (kind addr prog : Nat) : State :=
  s.post e.job e.launch
    { kind := kind, qcode := qcode q, cause := e.cause, fq := e.fq.toNat
      origin := if e.node.isSome then 0xFFFFFFFF else e.origin.toNat
      block := if e.node.isSome then 0xFFFFFFFF else e.block
      ticket := e.ticket.toNat, addr := addr, prog := prog
      node := match e.node with | some n => n.2 | none => 0xFFFFFFFF
      core := if k < 4096 then keyCore k else e.engine, rdet := if e.cause = 9 then e.rdet else 0 }

/-- A fault of a graph-issued entry is left for the graph scheduler (R233, R314). -/
def State.nodeFaulted (s : State) (k : Nat) (e : QEntry) : State :=
  match e.node with
  | none => s
  | some n => s.updNode (64 * keyPart k + n.1) n.2 fun x => { x with faults := x.faults ++ [(e.cause, e.ticket)] }

/-- An entry stops faulted and its record is posted; S stays below its ticket (R14, R232). -/
def State.faultEntry (s : State) (k q : Nat) (e : QEntry) (kind cause addr prog rdet : Nat) : State :=
  let e := { e with state := .faulted, cause := cause, faultAddr := BitVec.ofNat 64 addr, rdet := rdet
                    pending := [], resp := [], again := [] }
  ((s.updEntry k q e.ticket fun _ => e).entryRecord k q e kind addr prog).nodeFaulted k e

/-- The engine release that an entry names (R28). -/
def State.entryRelease (s : State) (e : QEntry) : State :=
  match e.rel with | some (sp, a) => s.release sp a e.clock | none => s

/-- An entry is complete and S advances as far as it may (R12). -/
def State.settleEntry (s : State) (k q : Nat) (t : Word) : State :=
  (s.updEntry k q t fun e => { e with state := .complete }).updQueue k q Queue.settle

/-- The issuer's ASYNCF bit, if it still lives, and the release object that will not be released (R233). -/
def State.asyncFault (s : State) (q : Nat) (e : QEntry) : State :=
  let c := s.crewAt e.slot
  if e.node.isNone && c.live && c.uid == e.uid then
    s.setCrewAt e.slot
      { c with
        asyncf := c.asyncf ||| (1#7 <<< q)
        relFailed := match e.rel with | some x => c.relFailed ++ [(q, x)] | none => c.relFailed }
  else s

/-- A faulted entry is retired: S passes it, a record says so, no release is performed (R233). -/
def State.retireEntry (s : State) (k q : Nat) (e : QEntry) (kind addr prog : Nat) : State :=
  ((s.settleEntry k q e.ticket).entryRecord k q e kind addr prog).asyncFault q e

/-! ## Issuing -/

/-- A release or signal object as an engine takes it: a scalar address of WID 0, a multiple of 8, in own-die scratchpad
rows or, where a block is given, in that block's allocation. -/
def State.relObject (s : State) (part core : Nat) (block : Option (Nat × Nat)) (a : Nat) : Option (Bool × Nat) :=
  let off := a % 2 ^ 27
  if a / 2 ^ 27 = 1 ∧ off % 8 = 0 ∧ (s.partition part).rowsOpen (core / 64) off 8 then
    some (true, spadBase (core / 64) + off)
  else if a / 2 ^ 27 = 0 ∧ off % 8 = 0 then
    match block with
    | some (lo, len) => if off + 8 ≤ len then some (false, bmemBase core + lo + off) else none
    | none => none
  else none

/-- The block allocation of an entry's issuer; none for a graph-issued entry. -/
def QEntry.blockMem (e : QEntry) : Option (Nat × Nat) := if e.node.isSome then none else some (e.bmemLo, e.bmemLen)

/-- A crew's entry issued into queue q when one of cap places is free, sD receiving the ticket; else the split waits
(R12, R13). -/
def State.issueTo (s : State) (d : RegNo) (q cap : Nat) (e : QEntry) : State :=
  if cap ≤ s.waiting s.qk q then s.stay .room
  else
    let r := s.enqueue s.qk q e
    r.1.write d r.2

/-! ## Requests of an engine (R350, R352, R386) -/

/-- The engine port of a queue in REQID: 24 and up (log entry 34). -/
def enginePort (q : Nat) : Nat := if q ≤ 6 then 24 + q else 31

/-- A request of an entry to a remote address: none where the peer fails check 1 of R348. The REQID is the old one
where a request with this index was given up. -/
def State.engineRequest (s : State) (k q : Nat) (e : QEntry) (index : Nat) (kind : BitVec 8) (a opw len : Nat)
    (data : List (Byte × Bool)) : Option State :=
  match s.peerTable (keyPart k) (remotePeer a) with
  | none => none
  | some wtid =>
    let c := s.nextReq
    let id := match mapFind e.again index with | some i => i | none => s.reqid (keyCore k) (enginePort q) c.1
    let p : Packet :=
      { kind := kind, heat := s.heat16 e.job, src := s.fabric.peer, dst := remotePeer a, reqid := id
        addr := BitVec.ofNat 64 a, sendt := 0, opw := BitVec.ofNat 32 opw, len := len, wtid := wtid
        data := data.map Prod.fst, pois := data.map Prod.snd, held := false }
    let s := c.2.updEntry k q e.ticket fun x =>
      { x with pending := x.pending ++ [id], again := x.again.filter fun y => y.1 != index }
    some (s.request
      { reqid := id, packet := p, busy := 0, timer := none, waitingRetry := false, probed := false
        origin := if q = 6 ∨ q = 10 then 3 else if q = 4 ∨ q = 9 then 2 else 1
        qset := k, q := q, ticket := e.ticket, index := index })

/-- The byte of a remote address in the read responses of an entry. -/
def fetched (resp : List Packet) (a : Nat) : Option (Byte × Bool) :=
  match resp.find? fun p => p.kind == kReadRsp && decide (p.addr.toNat ≤ a) && decide (a < p.addr.toNat + p.data.length) with
  | some p => some (p.data.getD (a - p.addr.toNat) 0, p.pois.getD (a - p.addr.toNat) false)
  | none => none

/-- Bytes of a request from a remote address, at most n: it stays in one 4 KiB range of the window (R350). -/
def inRange (a n : Nat) : Nat := min n (4096 - a % 4096)

/-! ## The banks of the task queue units (R303, R434) -/

/-- The level of an island in MHz. -/
def Boot.level (b : Boot) (i : Nat) : Nat := mapGet 2000 b.levels i

/-- The cores of a die on which a partition's current heat runs: those of the entry's core map among its quotas; where no
heat runs, its quotas' cores (log entry 42). -/
def State.mappedCores (s : State) (part die : Nat) : List Nat :=
  let mine := ((s.partition part).quotas.filter fun q => q.core / 64 == die).map QuotaSpec.core
  match s.heat.running.find? fun r => r.part == part with
  | none => mine
  | some r => mine.filter fun c => r.cores.contains c

/-- Tile tasks of a partition that TTSK has put into a die's bank and that no engine has started. -/
def State.bankTiles (s : State) (part die : Nat) : Nat :=
  s.qsets.foldl (fun n x =>
    if x.1 < 4096 ∧ keyPart x.1 = part ∧ keyCore x.1 / 64 = die then
      n + ((x.2.queue 4).ents.filter fun e => e.state == .queued).length
    else n) 0

/-- Entries of a partition in a die's bank. -/
def State.bankCount (s : State) (part die : Nat) : Nat :=
  ((s.die die).bank.filter fun t => t.part == part).length + s.bankTiles part die

/-- Entries that a partition's bank holds at most for a node or a tile task. The node of a launch that the operating
system starts is not bound by the cores of its die: it has id 0 on die 0 wherever the partition's cores are (R294; log
entry 45). -/
def State.bankCap (s : State) (part die : Nat) (own : Bool) : Nat :=
  if own then 4096 else min 4096 (64 * (s.mappedCores part die).length)

/-! ## Tiles (R240, R262) -/

/-- Whether an entry is a pinned task of a core that has not completed. -/
def QEntry.pins (e : QEntry) (core : Nat) : Bool :=
  e.engine == core && e.state != .complete && (e.recd.getD 0 0).getLsbD 4

/-- Whether pinned tile t of a core is held: by a task that names it, or by a task of an F64 tile, which takes both
slots (R262). -/
def State.tileHeld (s : State) (core t : Nat) : Bool :=
  s.qsets.any fun x => [4, 9].any fun q => (x.2.queue q).ents.any fun e =>
    e.pins core && (byteAt e.recd 5 % 2 == t || byteAt e.recd 3 % 32 == 0)

end Sys2Proof.Machine
end

