-- ==== Sys2Proof/Machine/CopyEngine.lean ====
section
/-! DEFINITION. The copy engine: issue of CPY, TCPY and DCPY, the command chain, copy addresses, how an entry starts,
moves its data, completes, faults, resumes and is retired (R215 to R238, R288). -/

namespace Sys2Proof.Machine

/-! ## Copy addresses (R221) -/

/-- A copy address taken apart: its space, what stands above the offset, the offset. -/
structure CopyAddr where
  space : Nat
  pre : Nat
  off : Nat
  deriving DecidableEq, Repr

/-- The number of an address at an offset of its space, as records give it. -/
def CopyAddr.code (x : CopyAddr) (off : Nat) : Nat :=
  match x.space with
  | 1 => 2 ^ 27 + off
  | 2 => 2 ^ 32 * x.pre + off
  | 4 => 2 ^ 44 * x.pre + off
  | _ => off

/-- A copy address in the form of its space (R221). -/
def copyAddr (space a : Nat) : Option CopyAddr :=
  let ok (b : Bool) (x : CopyAddr) : Option CopyAddr := if b then some x else none
  match space with
  | 0 => ok (decide (a < 2 ^ 52)) ⟨0, 0, a⟩
  | 1 => ok (a / 2 ^ 27 == 1) ⟨1, 0, a % 2 ^ 27⟩
  | 2 => ok (a / 2 ^ 34 == 0 && a / 2 ^ 26 % 64 == 0) ⟨2, a / 2 ^ 32 % 4, a % 2 ^ 26⟩
  | 3 => ok (a / 2 ^ 27 == 0) ⟨3, 0, a⟩
  | 4 => some ⟨4, a / 2 ^ 44, a % 2 ^ 44⟩
  | 5 => ok (decide (a < 2 ^ 18)) ⟨5, 0, a⟩
  | 6 => ok (decide (a < 2 ^ 17)) ⟨6, 0, a⟩
  | _ => ok (decide (a < 2 ^ 32)) ⟨7, 0, a⟩

/-- Whether two addresses name the same memory in one space; space 2 naming the own die counts as space 1 (R224). -/
def CopyAddr.sameMemory (x y : CopyAddr) (die : Nat) : Bool :=
  let norm (z : CopyAddr) : Nat × Nat := if z.space = 2 ∧ z.pre = die then (1, 0) else (z.space, z.pre)
  norm x == norm y

/-- Whether ranges of n and m bytes from two addresses overlap in one memory; an empty range overlaps none. -/
def CopyAddr.overlaps (x y : CopyAddr) (n m die : Nat) : Bool :=
  n != 0 && m != 0 && x.sameMemory y die && decide (x.off < y.off + m) && decide (y.off < x.off + n)

/-! ## The work of an entry -/

/-- What an entry moves, as its chain entry and descriptor give it (R217, R223, R225, R229). -/
structure CopyJob where
  /-- OPC: 1 CPY, 2 TCPY, 3 DCPY. -/
  opc : Nat
  sspace : Nat
  dspace : Nat
  /-- The addresses as given, and taken apart where their form is right. -/
  sraw : Nat
  draw : Nat
  src : Option CopyAddr
  dst : Option CopyAddr
  /-- Units to move: bytes, elements, output bytes. -/
  units : Nat
  /-- Bytes of a source and of a destination unit. -/
  es : Nat
  ed : Nat
  /-- Sizes and strides of TCPY. -/
  dims : List (Nat × Int × Int)
  /-- Source format, destination format and rounding of a conversion. -/
  conv : Option (Nat × Nat × Nat)
  /-- Bytes of compressed input, and the code lengths of DCPY. -/
  inLen : Nat
  lens : List Byte
  deriving DecidableEq, Repr

/-- The chain entry and the descriptor of an entry as the engine took them. -/
def QEntry.chain (e : QEntry) : List Byte := e.recd.take 64
/-- The descriptor. -/
def QEntry.desc (e : QEntry) : List Byte := e.recd.drop 64

/-- A signed 32-bit field. -/
def signedAt (bs : List Byte) (o : Nat) : Int := (BitVec.ofNat 32 (leAt bs o 4)).toInt

/-- Dimension d of a TCPY descriptor. -/
def copyDim (d : List Byte) (i : Nat) : Nat × Int × Int :=
  (leAt d (64 + 12 * i) 4, signedAt d (68 + 12 * i), signedAt d (72 + 12 * i))

/-- The space and number of DCPY's output address. -/
def dcpyOut (a : Nat) : Nat × Nat := if a / 2 ^ 27 = 0 then (3, a) else (1, a)

/-- The work of an entry. -/
def QEntry.job' (e : QEntry) : CopyJob :=
  let c := e.chain
  let d := e.desc
  match byteAt c 0 with
  | 1 =>
    let ss := byteAt c 1 % 8
    let ds := byteAt c 1 / 8 % 8
    let a := leAt c 8 8
    let b := leAt c 16 8
    { opc := 1, sspace := ss, dspace := ds, sraw := a, draw := b, src := copyAddr ss a, dst := copyAddr ds b
      units := leAt c 24 8, es := 1, ed := 1, dims := [], conv := none, inLen := 0, lens := [] }
  | 2 =>
    let ss := byteAt d 16 % 8
    let ds := byteAt d 16 / 8 % 8
    let a := leAt d 0 8
    let b := leAt d 8 8
    let dims := (List.range (byteAt d 17)).map (copyDim d)
    let es := 2 ^ (byteAt d 18 % 4)
    let conv := byteAt d 19 % 2 == 1
    { opc := 2, sspace := ss, dspace := ds, sraw := a, draw := b, src := copyAddr ss a, dst := copyAddr ds b
      units := dims.foldl (fun n x => n * x.1) 1, es := es
      ed := if conv then fmtWidth (byteAt d 21) / 8 else es, dims := dims
      conv := if conv then some (byteAt d 20, byteAt d 21, byteAt d 22) else none, inLen := 0, lens := [] }
  | _ =>
    let ss := byteAt d 136 % 8
    let a := leAt d 128 8
    let o := dcpyOut (leAt d 148 4)
    { opc := 3, sspace := ss, dspace := o.1, sraw := a, draw := o.2, src := copyAddr ss a, dst := copyAddr o.1 o.2
      units := leAt d 140 4, es := 1, ed := 1, dims := [], conv := none, inLen := leAt d 144 4, lens := d.take 128 }

/-- Whether the entry is a one-dimensional copy, to which R224 applies (R228). -/
def CopyJob.linear (j : CopyJob) : Bool :=
  j.opc == 1 ||
    (j.opc == 2 && j.conv.isNone &&
      (match j.dims with | [(_, a, b)] => a == (j.es : Int) && b == (j.es : Int) | _ => false))

/-- Whether the copy is a memmove overlap (R224). -/
def CopyJob.overlap (j : CopyJob) (die : Nat) : Bool :=
  j.linear && (match j.src, j.dst with
    | some x, some y => x.overlaps y (j.units * j.es) (j.units * j.ed) die
    | _, _ => false)

/-- Whether the units are moved from the last down to the first: a memmove overlap with DADDR > SADDR. A destination in
the clause array is written in ascending order, after all has been read (R288). -/
def CopyJob.desc (j : CopyJob) (die : Nat) : Bool :=
  j.overlap die && j.dspace != 6 &&
    (match j.src, j.dst with | some x, some y => decide (x.off < y.off) | _, _ => false)

/-- The source and destination displacement of linear index l (R226). -/
def dimOffsets : List (Nat × Int × Int) → Nat → Int × Int
  | [], _ => (0, 0)
  | (n, a, b) :: rest, l =>
    let r := dimOffsets rest (l / n)
    (((l % n : Nat) : Int) * a + r.1, ((l % n : Nat) : Int) * b + r.2)

/-- The displacements of the k-th unit. -/
def CopyJob.unit (j : CopyJob) (die k : Nat) : Int × Int :=
  let l := if j.desc die then j.units - 1 - k else k
  if j.opc = 2 then dimOffsets j.dims l else (l, l)

/-- PROG as the chain entry and records hold it (R230). -/
def QEntry.progWord (e : QEntry) : Nat := if byteAt e.chain 0 = 3 then e.prog + 2 ^ 32 * e.prog2 else e.prog

/-! ## Reading and finding places -/

/-- Why a unit cannot be moved now. -/
inductive Halt where
  | fault (cause addr rdet : Nat)
  /-- a held tile, or a unit of a checkpoint that is being copied -/
  | wait
  /-- bytes of a remote window that have not been fetched, from this address -/
  | fetch (a : Nat)
  deriving DecidableEq, Repr

/-- Where a destination byte lies. -/
inductive Dest where
  | spot (x : Spot)
  /-- a byte of the core's clause cells -/
  | clause (a : Nat)
  | remote (a : Nat)
  deriving DecidableEq, Repr

/-- The state while a group of units is gathered, with the granules translated so far (key 2 × granule, plus 1 for a
write) and the clause array as the entry has read it. -/
structure Scan where
  s : State
  memo : List (Nat × Nat)
  cells : List (Byte × Bool)
  deriving DecidableEq, Repr

/-- Whether an operation of a core's clause array is under way: a training step that something has met, or a CAMOV
(R286). -/
def State.arrayBusy (s : State) (core : Nat) : Bool :=
  (s.core core).stepping.isSome ||
    (match (s.core core).arrayOwner with
     | some p => [5, 8].any fun q => (s.queue (qkey p core) q).ents.any fun e =>
         e.opcode == 0x31 && e.state == .running && decide (0 < e.prog)
     | none => false)

/-- Where a copy's reading of the clause array begins: the first granule of a CPY. -/
def QEntry.cellsFrom (e : QEntry) : Nat :=
  match e.job'.src with | some a => if e.job'.opc = 1 then a.off / 64 * 64 else 0 | none => 0

/-- A byte of the clause array. Every granule up to its own that has not been read is read now, in ascending order (R288). -/
def Scan.readCell (x : Scan) (core base off : Nat) : Scan × (Byte × Bool) :=
  let next := base + x.cells.length
  let more := (List.range ((off / 64 + 1) * 64 - next)).map fun i =>
    let p : Spot := .mem .cells (cellBase core + next + i)
    (x.s.spotByte p, x.s.spotPoison p)
  let x := { x with cells := x.cells ++ more }
  (x, x.cells.getD (off - base) (0, false))

/-- The partition offset of a virtual address; each granule is translated once. -/
def Scan.virtual (x : Scan) (k troot a : Nat) (w : Bool) : Scan × Except Halt Spot :=
  let key := 2 * (a / 64) + w.toNat
  match mapFind x.memo key with
  | some o => (x, .ok (.hbm (keyPart k) (o + a % 64)))
  | none =>
    let r := x.s.translate (keyCore k) (keyPart k) troot a (!w) w
    match r.2 with
    | .error c => ({ x with s := r.1 }, .error (.fault c a 0))
    | .ok o => ({ x with s := r.1, memo := (key, o - a % 64) :: x.memo }, .ok (.hbm (keyPart k) o))

/-- Bytes of a save area (R381). -/
def saveBytes : Nat := 3354624

/-- The place of byte r of a die's save region: HBM of the reserved band, interleaved at 256 bytes over the channels of
the die (R381; log entry 35). -/
def State.saveSpot (s : State) (die r : Nat) : Spot :=
  .mem .hbm (2 ^ 31 * (96 * die + r / 256 % 96) + s.boot.band + r / 256 / 96 * 256 + r % 256)

/-- The position of a core among the cores of its die that the partition's heat maps, or its quotas where no heat runs
(R385). -/
def State.areaPos (s : State) (part core : Nat) : Nat :=
  let cores := match s.heat.running.find? fun r => r.part == part with
    | some r => r.cores
    | none => (s.partition part).quotas.map QuotaSpec.core
  (cores.filter fun c => c / 64 == core / 64 && c < core).length

/-- The key of the save area of a job on a core. -/
def State.areaKey (s : State) (job part core : Nat) : Nat := 256 * job + 64 * (core / 64) + s.areaPos part core % 64

/-- The place of a byte of a copy address on the package (R221). -/
def Scan.place (x : Scan) (k : Nat) (e : QEntry) (a : CopyAddr) (d : Int) (w : Bool) : Scan × Except Halt Spot :=
  let core := keyCore k
  let die := core / 64
  let p := x.s.partition (keyPart k)
  let at' : Int := a.off + d
  let off := at'.toNat
  let range : Scan × Except Halt Spot := (x, .error (.fault 3 (a.code off) 0))
  let ok (b : Bool) (y : Spot) : Scan × Except Halt Spot := if b then (x, .ok y) else range
  if at' < 0 then range
  else match a.space with
  | 0 => if 2 ^ 52 ≤ off then range else x.virtual k (x.s.job e.job).troot off w
  | 1 => ok (p.rowsOpen die off 1) (.mem .spad (spadBase die + off))
  | 2 => ok (p.rowsOpen a.pre off 1) (.mem .spad (spadBase a.pre + off))
  | 3 => ok (decide (off < e.bmemLen)) (.mem .bmem (bmemBase core + e.bmemLo + off))
  | 5 =>
    if 2 ^ 18 ≤ off then range
    else if 2 ^ 17 ≤ off then (x, .error (.fault 4 off 0))
    else if x.s.tileHeld core (off / 65536) then (x, .error .wait)
    else (x, .ok (.mem .acc (accBase core + off)))
  | 6 => ok (decide (off < 2 ^ 17)) (.mem .cells (cellBase core + off))
  | _ =>
    match mapFind x.s.heat.saveAt (x.s.areaKey e.job (keyPart k) core) with
    | some r => ok (decide (off < saveBytes)) (x.s.saveSpot die (r - 1 + off))
    | none => range

/-- A byte of the source with its poison. -/
def Scan.read (x : Scan) (k : Nat) (e : QEntry) (a : CopyAddr) (d : Int) : Scan × Except Halt (Byte × Bool) :=
  if a.space = 4 then
    let at' : Int := a.off + d
    let n := a.code at'.toNat
    if at' < 0 ∨ 2 ^ 44 ≤ at' then (x, .error (.fault 3 n 0))
    else match fetched e.resp n with
      | some b => (x, .ok b)
      | none => (x, .error (.fetch n))
  else
    let r := x.place k e a d false
    match r.2 with
    | .error h => (r.1, .error h)
    | .ok y =>
      if a.space = 6 then
        if r.1.s.arrayBusy (keyCore k) then (r.1, .error .wait)
        else
          let q := r.1.readCell (keyCore k) e.cellsFrom (a.off + d).toNat
          (q.1, .ok q.2)
      else (r.1, .ok (r.1.s.spotByte y, r.1.s.spotPoison y))

/-- n bytes of the source. -/
def Scan.reads (x : Scan) (k : Nat) (e : QEntry) (a : CopyAddr) (d : Int) : Nat → Scan × Except Halt (List (Byte × Bool))
  | 0 => (x, .ok [])
  | n + 1 =>
    let r := x.read k e a d
    match r.2 with
    | .error h => (r.1, .error h)
    | .ok b =>
      let q := r.1.reads k e a (d + 1) n
      (q.1, match q.2 with | .error h => .error h | .ok bs => .ok (b :: bs))

/-- The place of a destination byte. A write into a unit that a checkpoint has not copied may wait (R415). -/
def Scan.dest (x : Scan) (k : Nat) (e : QEntry) (a : CopyAddr) (d : Int) : Scan × Except Halt Dest :=
  let at' : Int := a.off + d
  if a.space = 4 then
    if at' < 0 ∨ 2 ^ 44 ≤ at' then (x, .error (.fault 3 (a.code at'.toNat) 0)) else (x, .ok (.remote (a.code at'.toNat)))
  else
    let r := x.place k e a d true
    match r.2 with
    | .error h => (r.1, .error h)
    | .ok (.mem .cells y) => (r.1, .ok (.clause y))
    | .ok (.hbm p o) =>
      match r.1.s.uncopied p o with
      | [] => (r.1, .ok (.spot (.hbm p o)))
      | u :: _ =>
        let c := r.1.s.choose
        let s := c.2
        match s.ckpt.waiting.find? fun w => w.1 == p && w.2.1 == u.1 with
        | some w =>
          ({ r.1 with s := s }, if c.1 && !s.passed w.2.2 2000 then .error .wait else .ok (.spot (.hbm p o)))
        | none =>
          if c.1 then
            ({ r.1 with s := { s with ckpt := { s.ckpt with waiting := s.ckpt.waiting ++ [(p, u.1, s.heat.time)] } } }, .error .wait)
          else ({ r.1 with s := s }, .ok (.spot (.hbm p o)))
    | .ok y => (r.1, .ok (.spot y))

/-- The places of n destination bytes. -/
def Scan.dests (x : Scan) (k : Nat) (e : QEntry) (a : CopyAddr) (d : Int) : Nat → Scan × Except Halt (List Dest)
  | 0 => (x, .ok [])
  | n + 1 =>
    let r := x.dest k e a d
    match r.2 with
    | .error h => (r.1, .error h)
    | .ok b =>
      let q := r.1.dests k e a (d + 1) n
      (q.1, match q.2 with | .error h => .error h | .ok bs => .ok (b :: bs))

/-! ## DCPY's codes (R230) -/

/-- The code length of a symbol. -/
def symbolLen (lens : List Byte) (sym : Nat) : Nat := byteAt lens (sym / 2) / (if sym % 2 = 0 then 1 else 16) % 16

/-- The present symbols with their lengths, sorted by (length, symbol). -/
def sortedSymbols (lens : List Byte) : List (Nat × Nat) :=
  (List.range 15).flatMap fun i =>
    ((List.range 256).filter fun y => symbolLen lens y == i + 1).map fun y => (i + 1, y)

/-- The canonical codes: length, code, symbol. code and len are those of the symbol before. -/
def canonicalFrom (len code : Nat) : List (Nat × Nat) → List (Nat × Nat × Nat)
  | [] => []
  | (l, y) :: rest =>
    let c := if len = 0 then 0 else (code + 1) * 2 ^ (l - len)
    (l, c, y) :: canonicalFrom l c rest

/-- The canonical codes of a table of lengths. -/
def canonicalCodes (lens : List Byte) : List (Nat × Nat × Nat) := canonicalFrom 0 0 (sortedSymbols lens)

/-- The table's check: Kraft's sum at most one, and a symbol present where there is output. -/
def codesOk (lens : List Byte) (out : Nat) : Bool :=
  let l := sortedSymbols lens
  decide ((l.map fun x => 2 ^ (15 - x.1)).foldl (· + ·) 0 ≤ 2 ^ 15) && (out == 0 || !l.isEmpty)

/-- The next symbol from bit pos, after l bits that make the code c; n more bits may be read. The answer is the symbol
and the position behind it. -/
def Scan.symbol (x : Scan) (k : Nat) (e : QEntry) (j : CopyJob) (a : CopyAddr) (codes : List (Nat × Nat × Nat)) :
    Nat → Nat → Nat → Nat → Scan × Except Halt (Nat × Nat)
  | 0, pos, _, _ => (x, .error (.fault 8 (a.code (a.off + pos / 8)) 0))
  | n + 1, pos, c, l =>
    if 8 * j.inLen ≤ pos then (x, .error (.fault 8 (a.code (a.off + pos / 8)) 0))
    else
      let r := x.read k e a ((pos / 8 : Nat) : Int)
      match r.2 with
      | .error h => (r.1, .error h)
      | .ok (b, poison) =>
        if poison then (r.1, .error (.fault 10 (a.code (a.off + pos / 8)) 0))
        else
          let c := 2 * c + (b.getLsbD (pos % 8)).toNat
          match codes.find? fun y => y.1 == l + 1 && y.2.1 == c with
          | some y => (r.1, .ok (y.2.2, pos + 1))
          | none => Scan.symbol r.1 k e j a codes n (pos + 1) c (l + 1)

/-! ## Gathering a group of units -/

/-- A unit ready to be written: its bytes with their places, the flags of its conversion, DCPY's position behind it. -/
structure Unit' where
  bytes : List (Dest × Byte × Bool)
  flags : Flags
  pos : Nat
  deriving DecidableEq, Repr

/-- The converted bytes of an element (R227). -/
def convertUnit (j : CopyJob) (bs : List (Byte × Bool)) : List (Byte × Bool) × Flags :=
  match j.conv with
  | none => (bs, 0)
  | some (sf, df, rnd) =>
    let v := roundVal (floatFmt df) ⟨rnd, 0, false, false, false⟩ (decodeFloat (floatFmt sf) (leNat (bs.map Prod.fst)))
    ((leBytes j.ed v.1).map fun b => (b, bs.any Prod.snd), v.2)

/-- The alignment rule of spaces 5 and 6: address and length, or element size, are multiples of 8 (R221). -/
def CopyJob.aligned (j : CopyJob) (a : CopyAddr) (d : Int) (n : Nat) : Bool :=
  if a.space = 5 ∨ a.space = 6 then
    if j.opc = 1 then a.off % 8 == 0 && j.units % 8 == 0 else (a.off + d) % 8 == 0 && n % 8 == 0
  else true

/-- The k-th unit, or why it cannot be moved now. -/
def Scan.unit (x : Scan) (key : Nat) (e : QEntry) (j : CopyJob) (i pos : Nat) : Scan × Except Halt Unit' :=
  match j.src, j.dst with
  | none, _ => (x, .error (.fault 3 j.sraw 0))
  | _, none => (x, .error (.fault 3 j.draw 0))
  | some a, some b =>
    let d := j.unit (keyCore key / 64) i
    if !j.aligned a d.1 j.es then (x, .error (.fault 3 (a.code (a.off + d.1).toNat) 0))
    else if !j.aligned b d.2 j.ed then (x, .error (.fault 3 (b.code (b.off + d.2).toNat) 0))
    else
      let got : Scan × Except Halt (List (Byte × Bool) × Flags × Nat) :=
        if j.opc = 3 then
          let r := x.symbol key e j a (canonicalCodes j.lens) 15 pos 0 0
          (r.1, match r.2 with | .error h => .error h | .ok y => .ok ([(BitVec.ofNat 8 y.1, false)], 0, y.2))
        else
          let r := x.reads key e a d.1 j.es
          (r.1, match r.2 with
            | .error h => .error h
            | .ok bs => (let v := convertUnit j bs; .ok (v.1, v.2, pos)))
      match got.2 with
      | .error h => (got.1, .error h)
      | .ok (bs, fl, pos') =>
        let r := got.1.dests key e b d.2 j.ed
        (r.1, match r.2 with | .error h => .error h | .ok ds => .ok ⟨ds.zip bs, fl, pos'⟩)

/-- What names the piece that one write covers: a granule, or 4 KiB of a remote window (R350). -/
def Dest.piece : Dest → Dest
  | .spot x => .spot x.granule
  | .clause a => .clause (a / 64 * 64)
  | .remote a => .remote (a / 4096 * 4096)

/-- The byte's offset in its piece. -/
def Dest.within : Dest → Nat
  | .spot x => x.inGranule
  | .clause a => a % 64
  | .remote a => a % 4096

/-- A group of units gathered: all of them lie in one piece, except a first unit that meets two. -/
structure Group' where
  scan : Scan
  count : Nat
  units : List Unit'
  halt : Option Halt
  deriving DecidableEq, Repr

/-- Whether a unit's bytes go on with those of a remote group at either end. -/
def touches (us : List Unit') (u : Unit') : Bool :=
  let ends (l : List (Dest × Byte × Bool)) : Nat × Nat :=
    (match l with | x :: _ => x.1.within | [] => 0, match l.getLast? with | some x => x.1.within + 1 | none => 0)
  let all := us.map fun v => ends v.bytes
  let lo := all.foldl (fun n x => min n x.1) 4096
  let hi := all.foldl (fun n x => max n x.2) 0
  (ends u.bytes).1 == hi || (ends u.bytes).2 == lo

/-- Whether a unit may join the units of a group. -/
def joins (us : List Unit') (u : Unit') : Bool :=
  match us, u.bytes with
  | [], _ => true
  | v :: _, x :: _ =>
    let ps := (v.bytes ++ u.bytes).map fun y => y.1.piece
    ps.all (· == x.1.piece) && (match x.1 with | .remote _ => touches us u | _ => true)
  | _ :: _, [] => true

/-- Units gathered from unit i on, at most n more. -/
def Scan.gather (key : Nat) (e : QEntry) (j : CopyJob) : Nat → Scan → Nat → Nat → List Unit' → Group'
  | 0, x, _, _, us => ⟨x, us.length, us, none⟩
  | n + 1, x, i, pos, us =>
    if j.units ≤ i then ⟨x, us.length, us, none⟩
    else
      let r := x.unit key e j i pos
      match r.2 with
      | .error h => if us.isEmpty then ⟨r.1, 0, [], some h⟩ else ⟨x, us.length, us, none⟩
      | .ok u =>
        if joins us u then Scan.gather key e j n r.1 (i + 1) u.pos (us ++ [u])
        else ⟨x, us.length, us, none⟩

/-! ## The chain (R216, R217) -/

/-- The address in scratchpad of the chain slot of a ticket: the row of cq n is the n-th chain row, the graph copy
queue's the fifth of the quota (R216, R308). -/
def State.chainSlot (s : State) (k q : Nat) (t : Word) : Nat :=
  let core := keyCore k
  let lo := match s.quota (keyPart k) core with | some x => x.rowLo | none => 0
  spadBase (core / 64) + core % 64 * 2 ^ 20 + 8192 * (lo + if q = 7 then 4 else q) + 64 * (t.toNat % 128)

/-- The scalar address of a chain slot. -/
def State.chainAddr (s : State) (k q : Nat) (t : Word) : Nat := 2 ^ 27 + s.chainSlot k q t % 2 ^ 26

/-- STAT codes (R217). -/
def chainStat (code cause : Nat) (flags : Flags) : Nat := code + 16 * (cause % 256) + 4096 * flags.toNat

/-- PROG and STAT of an entry written into its slot. -/
def State.writeStat (s : State) (k q : Nat) (e : QEntry) (code : Nat) : State :=
  let a := s.chainSlot k q e.ticket
  { s with mem := (s.mem.storeNat .spad (a + 40) 8 e.progWord).storeNat .spad (a + 56) 4 (chainStat code e.cause e.flags) }

/-- An entry stops faulted at its PROG. -/
def State.copyFault (s : State) (k q : Nat) (e : QEntry) (cause a rdet : Nat) : State :=
  (s.writeStat k q { e with cause := cause } 3).faultEntry k q e 0x01 cause a e.progWord rdet

/-! ## Writing a group -/

/-- The bytes of a piece by their offsets; a later byte replaces an earlier one. -/
def pieceBytes (p : Dest) (bs : List (Dest × Byte × Bool)) : List (Nat × (Byte × Bool)) :=
  (bs.filter fun b => b.1.piece == p).foldl (fun m b =>
    mapInsert (mapErase m b.1.within) b.1.within b.2) []

/-- The runs of adjacent offsets. -/
def pieceRuns : List (Nat × (Byte × Bool)) → List (Nat × List (Byte × Bool))
  | [] => []
  | (o, b) :: rest =>
    match pieceRuns rest with
    | (o', bs) :: more => if o' = o + 1 then (o, b :: bs) :: more else (o, [b]) :: (o', bs) :: more
    | [] => [(o, [b])]

/-- A granule's bytes written by an entry added to its masks: bytes from i on, those with poison taken out. -/
def CleanMask.add (m : CleanMask) (i : Nat) (bs : List (Byte × Bool)) : CleanMask :=
  { m with
    mask := (List.range bs.length).foldl (fun w j =>
      if (bs.getD j (0, false)).2 then w &&& ~~~(1#64 <<< (i + j)) else w ||| (1#64 <<< (i + j))) m.mask }

/-- The mask of a granule among those of an entry. -/
def QEntry.cleanMask (e : QEntry) (space granule : Nat) : CleanMask :=
  (e.clean.find? fun m => m.space == space && m.granule == granule).getD ⟨space, granule, 0⟩

/-- The entry with a granule's mask put. -/
def QEntry.setClean (e : QEntry) (m : CleanMask) : QEntry :=
  { e with clean := m :: e.clean.filter fun x => !(x.space == m.space && x.granule == m.granule) }

/-- A run within one granule written by an entry: the granule's poison clears too when the entry has written all its
bytes clean in several writes (R231). -/
def State.putSpot (s : State) (k q : Nat) (e : QEntry) (x : Spot) (bs : List (Byte × Bool)) : State :=
  let s := s.spotWrite x bs
  if bs.length = 64 ∧ !bs.any Prod.snd then s
  else
    let key := s.spotKey x
    let old := match s.entry k q e.ticket with | some e => e | none => e
    let m := (old.cleanMask (spCode key.1) (key.2 / 64)).add (key.2 % 64) bs
    let s := s.updEntry k q e.ticket fun e => e.setClean m
    if m.mask = BitVec.allOnes 64 then { s with mem := s.mem.setPoison key.1 (mapErase (s.mem.poison key.1) (key.2 / 64)) }
    else s

/-- Writes into a clause granule added to those that wait: the same entry's into the same granule are performed together. -/
def addGranule (g : ClauseGranule) : List ClauseGranule → List ClauseGranule
  | [] => [g]
  | h :: rest =>
    if h.key = g.key ∧ h.q = g.q ∧ h.ticket = g.ticket ∧ h.addr = g.addr then
      { h with bytes := g.bytes.foldl (fun m b => mapInsert (mapErase m b.1) b.1 b.2) h.bytes } :: rest
    else h :: addGranule g rest

/-- One run written at an offset of its piece. Clause granules wait for a boundary; a remote run goes out as a
request. -/
def State.putRun (s : State) (k q : Nat) (e : QEntry) (whole : Bool) (p : Dest) (r : Nat × List (Byte × Bool)) : State :=
  match p with
  | .spot x => s.putSpot k q e (x.plus r.1) r.2
  | .clause a =>
    let g : ClauseGranule := ⟨a - cellBase (keyCore k), r.2.zipIdx.map fun b => (r.1 + b.2, b.1), k, q, e.ticket, whole⟩
    s.updCore (keyCore k) fun c => { c with granules := addGranule g c.granules }
  | .remote a =>
    if (s.entry k q e.ticket).any fun x => x.state == .faulted then s
    else
      match s.engineRequest k q e 0 kWriteReq (a + r.1) 0 r.2.length r.2 with
      | some s => s
      | none => s.copyFault k q e 9 (a + r.1) 1

/-- The pieces of bytes in the order in which they first appear. -/
def pieces : List (Dest × Byte × Bool) → List Dest
  | [] => []
  | b :: rest => let l := pieces rest; b.1.piece :: l.filter (· != b.1.piece)

/-- The bytes of a group written, one write for each run of a piece. -/
def State.putGroup (s : State) (k q : Nat) (e : QEntry) (whole : Bool) (bs : List (Dest × Byte × Bool)) : State :=
  (pieces bs).foldl (fun s p => (pieceRuns (pieceBytes p bs)).foldl (fun s r => s.putRun k q e whole p r) s) s

/-! ## Issuing into the chain (R218, R222) -/

/-- The 64 bytes of an entry that an instruction builds (R218). -/
def chainBytes (opc spaces fq : Nat) (t : Word) (a b len : Nat) : List Byte :=
  leBytes 1 opc ++ leBytes 1 spaces ++ [0] ++ leBytes 1 fq ++ leBytes 4 t.toNat ++ leBytes 8 a ++ leBytes 8 b ++
    leBytes 8 len ++ List.replicate 32 0

/-- An entry built by an instruction of the crew in focus: it waits for a free slot, then the whole entry is written
into its slot and sD receives the ticket (R218). -/
def State.issueCopy (s : State) (d : RegNo) (q opc spaces a b len : Nat) (opcode fn : Nat) : State :=
  if 128 ≤ s.waiting s.qk q then s.stay .room
  else
    let r := s.enqueue s.qk q (s.newEntry opcode fn 0)
    let bytes := chainBytes opc spaces s.crew.fltq.toNat r.2 a b len
    let slot := s.chainSlot s.qk q r.2
    ({ r.1 with mem := r.1.mem.store .spad slot bytes }).write d r.2

/-- CPY (R222, R223). -/
def execCpy (d a b : RegNo) (q : BitVec 4) (e s' : BitVec 3) (s : State) : Result :=
  let fn := 8 * e.toNat + s'.toNat
  if (s' = 7 ∨ e = 7) ∧ !s.settings.priv then .next (s.raise 0x06 0 0 0x2B)
  else if 4 ≤ q then .next (s.illegal 11 q.toNat)
  else if !pairOk a then .next (s.illegal 2 a.toNat)
  else if !pairOk b then .next (s.illegal 3 b.toNat)
  else .next (s.issueCopy d q.toNat 1 fn (s.spair a).toNat (s.spair b).toNat (s.sreg d).toNat 0x2B fn)

/-- TCPY and DCPY: the descriptor's address is checked at issue (R222). -/
def State.issueDesc (s : State) (d a : RegNo) (q : BitVec 4) (opc opcode : Nat) : State :=
  let v := s.sreg a
  if 4 ≤ q then s.illegal 11 q.toNat
  else if (s.spadAddr s.crew.part (slotDie s.cur) v 256 256).isNone then s.raise 0x0A 3 v 0
  else s.issueCopy d q.toNat opc 0 v.toNat 0 0 opcode 0

/-- TCPY (R225). -/
def execTcpy (d a : RegNo) (q : BitVec 4) (s : State) : Result := .next (s.issueDesc d a q 2 0x2C)
/-- DCPY (R229). -/
def execDcpy (d a : RegNo) (q : BitVec 4) (s : State) : Result := .next (s.issueDesc d a q 3 0x2D)

/-! ## The start of an entry (R219) -/

/-- Whether the fields of a chain entry are valid for ticket t (R217). -/
def chainOk (c : List Byte) (t : Word) : Bool :=
  let opc := byteAt c 0
  1 ≤ opc && opc ≤ 3 && byteAt c 2 == 0 && leAt c 4 4 == t.toNat && zeroAt c 32 8 && zeroAt c 48 8 && zeroAt c 60 4 &&
    leAt c 56 4 / 2 ^ 18 == 0 && zeroAt c 28 4 &&
    (if opc = 1 then byteAt c 1 / 64 == 0
     else byteAt c 1 == 0 && zeroAt c 12 4 && zeroAt c 16 8 && zeroAt c 24 4)

/-- Whether a TCPY descriptor's fields are valid (R225). -/
def tcpyOk (d : List Byte) : Bool :=
  let n := byteAt d 17
  let conv := byteAt d 19 % 2 == 1
  let sf := byteAt d 20
  let df := byteAt d 21
  1 ≤ n && n ≤ 16 && byteAt d 16 / 64 == 0 && byteAt d 18 / 4 == 0 && byteAt d 19 / 2 == 0 && byteAt d 22 / 8 == 0 &&
    byteAt d 23 / 2 == 0 && zeroAt d 28 36 && (byteAt d 23 % 2 == 1 || zeroAt d 24 4) &&
    decide (((List.range n).map fun i => leAt d (64 + 12 * i) 4).foldl (· * ·) 1 < 2 ^ 48) &&
    (if conv then sf ≤ 6 && df ≤ 6 && fmtWidth sf == 8 * 2 ^ (byteAt d 18 % 4) else sf == 0 && df == 0) &&
    byteAt d 22 % 8 ≤ 4

/-- Whether a DCPY descriptor's fields are valid, and its input does not overlap its output in one memory (R229, R230). -/
def dcpyOk (d : List Byte) (die : Nat) : Bool :=
  let o := dcpyOut (leAt d 148 4)
  byteAt d 136 / 8 == 0 && zeroAt d 137 3 && decide (leAt d 144 4 ≤ 2 ^ 28) && byteAt d 152 / 2 == 0 && zeroAt d 153 3 &&
    zeroAt d 160 96 && (byteAt d 152 % 2 == 1 || zeroAt d 156 4) &&
    !(match copyAddr (byteAt d 136 % 8) (leAt d 128 8), copyAddr o.1 o.2 with
      | some x, some y => x.overlaps y (leAt d 144 4) (leAt d 140 4) die
      | _, _ => false)

/-- The release object that a descriptor names: none, one, or one that is not valid. -/
def State.descRelease (s : State) (k : Nat) (e : QEntry) (d : List Byte) : Except Nat (Option (Bool × Nat)) :=
  let o := if byteAt e.chain 0 = 2 then 23 else 152
  if byteAt d o % 2 = 0 then .ok none
  else
    let a := leAt d (o + if o = 23 then 1 else 4) 4
    match s.relObject (keyPart k) (keyCore k) e.blockMem a with
    | some x => .ok (some x)
    | none => .error a

/-- Whether a space is open to an entry as source or destination (R221). -/
def State.spaceOpen (s : State) (k : Nat) (e : QEntry) (opc space : Nat) (dst : Bool) : Bool :=
  let c := s.core (keyCore k)
  let mine (o : Option Nat) : Bool := o == some (keyPart k)
  if opc = 3 then (if dst then space == 1 || (space == 3 && e.node.isNone) else [0, 1, 2, 4].contains space)
  else match space with
  | 3 => e.node.isNone
  | 5 => mine c.pinOwner
  | 6 => mine c.arrayOwner
  | 7 => opc == 1 && e.priv
  | _ => true

/-- The descriptor address of an entry as a place, where it is a valid one. -/
def State.descPlace (s : State) (k : Nat) (c : List Byte) : Option Nat :=
  s.spadAddr (keyPart k) (keyCore k / 64) (BitVec.ofNat 32 (leAt c 8 4)) 256 256

/-- The bytes of a descriptor that the engine reads: of TCPY's dimensions, those below NDIM (R225). -/
def descBytes (opc : Nat) (d : List Byte) : Nat :=
  if opc = 2 then (if byteAt d 17 ≤ 16 then 64 + 12 * byteAt d 17 else 64) else 256

/-- The checks at the start of an entry, in order: a cause with its address, or the entry with what was read (R219). -/
def State.copyChecks (s : State) (k q : Nat) (e : QEntry) : Except (Nat × Nat) QEntry :=
  let slot := s.chainSlot k q e.ticket
  let here := s.chainAddr k q e.ticket
  let c := s.mem.bytes .spad slot 64
  let opc := byteAt c 0
  if s.mem.poisoned .spad slot 64 then .error (10, here)
  else if !chainOk c e.ticket then .error (6, here)
  else
    let e := { e with fq := BitVec.ofNat 8 (byteAt c 3), prog := 0, prog2 := 0 }
    let opens (e : QEntry) : Except (Nat × Nat) QEntry :=
      let j := e.job'
      if !s.spaceOpen k e opc j.sspace false then .error (4, j.sraw)
      else if !s.spaceOpen k e opc j.dspace true then .error (4, j.draw)
      else .ok e
    if opc = 1 then opens { e with recd := c }
    else
      let da := leAt c 8 4
      match s.descPlace k c with
      | none => .error (3, da)
      | some p =>
        let d := s.mem.bytes .spad p 256
        let e := { e with recd := c ++ d }
        if s.mem.poisoned .spad p (descBytes opc d) then .error (10, da)
        else if !(if opc = 2 then tcpyOk d else dcpyOk d (keyCore k / 64)) then .error (5, da)
        else match s.descRelease k e d with
          | .error a => .error (11, a)
          | .ok r =>
            if opc = 3 ∧ !codesOk d (leAt d 140 4) then .error (7, da)
            else opens { e with rel := r }

/-- An entry becomes running, or faulted (R219). -/
def State.copyBegin (s : State) (k q : Nat) (e : QEntry) : State :=
  match s.copyChecks k q e with
  | .error (cause, a) =>
    let e := { e with cause := cause, fq := BitVec.ofNat 8 (byteAt (s.mem.bytes .spad (s.chainSlot k q e.ticket) 64) 3) }
    (s.writeStat k q e 3).faultEntry k q e 0x01 cause a 0 0
  | .ok e =>
    let e := { e with state := .running }
    (s.writeStat k q e 1).updEntry k q e.ticket fun _ => e

/-! ## Moving data -/

/-- Bytes of the next request for source bytes from a: to the end of what the entry reads there, in one 4 KiB range. -/
def CopyJob.fetchLen (j : CopyJob) (a : Nat) : Nat :=
  let base := match j.src with | some x => x.code x.off | none => 0
  if j.opc = 2 then inRange a j.es
  else if j.opc = 3 then inRange a (base + j.inLen - a)
  else inRange a (base + j.units - min (base + j.units) a)

/-- The source bytes from a are asked for. A copy that runs downward asks for the bytes of the range up to a. -/
def State.copyFetch (s : State) (k q : Nat) (e : QEntry) (j : CopyJob) (a : Nat) : State :=
  let base := match j.src with | some x => x.code x.off | none => 0
  let lo := if j.desc (keyCore k / 64) && j.opc == 1 then max base (a / 4096 * 4096) else a
  let n := if j.desc (keyCore k / 64) && j.opc == 1 then a + 1 - lo else j.fetchLen a
  match s.engineRequest k q e 0 kReadReq lo 0 n [] with
  | some s => s
  | none => s.copyFault k q e 9 a 1

/-- The entry with a group done: PROG, position and flags advance; of the responses the last two stay. -/
def QEntry.advance (e : QEntry) (n : Nat) (us : List Unit') : QEntry :=
  { e with
    prog := e.prog + n
    prog2 := match us.getLast? with | some u => if byteAt e.chain 0 = 3 then u.pos else e.prog2 | none => e.prog2
    flags := us.foldl (fun f u => f ||| u.flags) e.flags
    resp := e.resp.drop (e.resp.length - 2) }

/-- One group of a running entry (R223, R226, R230, R231): a granule of the destination, or up to 4 KiB of a remote
window, whose units count when the target has acknowledged them. -/
def State.copyMove (s : State) (k q : Nat) (e : QEntry) : State :=
  let j := e.job'
  if j.units ≤ e.prog then s.updEntry k q e.ticket fun x => { x with state := .moved }
  else
    let g := Scan.gather k e j (if j.dspace = 4 then 4096 else 64) ⟨s, [], e.cells⟩ e.prog e.prog2 []
    let e := { e with cells := g.scan.cells }
    let s := g.scan.s.updEntry k q e.ticket fun x => { x with cells := g.scan.cells }
    match g.halt with
    | some (.fault c a d) => s.copyFault k q e c a d
    | some .wait => s
    | some (.fetch a) => s.copyFetch k q e j a
    | none =>
      let e' := e.advance g.count g.units
      let bs := g.units.flatMap Unit'.bytes
      if j.dspace = 4 then
        let s := s.updEntry k q e.ticket fun x => { x with prog2 := e'.prog, flags := e'.flags, resp := e'.resp }
        s.putGroup k q e false bs
      else
        let s := s.updEntry k q e.ticket fun _ => e'
        (s.putGroup k q e' (j.overlap (keyCore k / 64) || j.opc == 2) bs).writeStat k q e' 1

/-- What a running entry does with the responses that have arrived, or else with its next group. -/
def State.copyRun (s : State) (k q : Nat) (e : QEntry) : State :=
  match e.resp.find? fun p => p.kind == kPoisoned with
  | some p => s.copyFault k q e 9 p.addr.toNat p.len
  | none =>
    if !e.pending.isEmpty then s
    else if e.resp.any fun p => p.kind == kWriteAck then
      let e := { e with prog := e.prog2, resp := e.resp.filter fun p => p.kind != kWriteAck }
      (s.updEntry k q e.ticket fun _ => e).writeStat k q e 1
    else s.copyMove k q e

/-- Queues of a copy engine: cq0 to cq3 and the graph copy queue. -/
def copyQueue (q : Nat) : Bool := q < 4 || q == 7

/-- COPY_ENTRY_START (R215, R219): the first entry of a queue starts, or moves its next group. -/
def execCopyEntryStart (part core q : Nat) (s : State) : Result :=
  let k := qkey part core
  .next (if !copyQueue q || !s.engineRuns k then s
    else match s.headEntry k q with
    | none => s
    | some e => match e.state with
      | .queued => if s.afterDone k e then s.copyBegin k q e else s
      | .running => s.copyRun k q e
      | _ => s)

/-- COPY_ENTRY_COMPLETE (R219): every write has been performed, then the release, STAT and S. -/
def execCopyEntryComplete (part core q : Nat) (s : State) : Result :=
  let k := qkey part core
  .next (if !copyQueue q || !s.engineRuns k then s
    else match s.headEntry k q with
    | none => s
    | some e =>
      if e.state = .moved ∧ (s.core core).granules.all (fun g => !(g.key == k && g.q == q && g.ticket == e.ticket)) then
        ((s.entryRelease e).writeStat k q e 2).settleEntry k q e.ticket
      else s)

/-- COPY_ENTRY_RESUME (R233): for the causes that may be resumed, the entry goes on from PROG. -/
def execCopyEntryResume (part core q : Nat) (s : State) : Result :=
  let k := qkey part core
  .next (match s.headEntry k q with
    | none => s
    | some e =>
      if copyQueue q ∧ e.state = .faulted ∧ [1, 2, 9].contains e.cause then
        let e := { e with state := .running, cause := 0, faultAddr := 0, rdet := 0 }
        (s.updEntry k q e.ticket fun _ => e).writeStat k q e 1
      else s)

/-- COPY_ENTRY_RETIRE (R233). -/
def execCopyEntryRetire (part core q : Nat) (s : State) : Result :=
  let k := qkey part core
  .next (match s.headEntry k q with
    | none => s
    | some e =>
      if copyQueue q ∧ e.state = .faulted ∧ e.node.isNone then
        (s.writeStat k q e 4).retireEntry k q e 0x02 e.faultAddr.toNat e.progWord
      else s)

/-! ## Granules of the clause array (R231, R288, R292) -/

/-- A write of a clause granule performed. The bytes that its entry has written clean are kept, over several writes; when
they make up a row, the row's poison clears. A poisoned write poisons its row (R231, R292). -/
def State.clauseWrite (s : State) (core : Nat) (g : ClauseGranule) : State :=
  let a := cellBase core + g.addr
  let s := { s with mem := g.bytes.foldl (fun (m : Mem) (b : Nat × (Byte × Bool)) => m.store .cells (a + b.1) [b.2.1]) s.mem }
  let row := a / 512
  if g.bytes.any fun b => b.2.2 then
    let s := { s with mem := s.mem.mark .cells a }
    s.updEntry g.key g.q g.ticket fun e => { e with clean := e.clean.filter fun m => !(m.space == 3 && m.granule / 8 == row) }
  else
    match s.entry g.key g.q g.ticket with
    | none => s
    | some e =>
      let e := e.setClean (g.bytes.foldl (fun (m : CleanMask) (b : Nat × (Byte × Bool)) => m.add b.1 [b.2]) (e.cleanMask 3 (a / 64)))
      let s := s.updEntry g.key g.q g.ticket fun _ => e
      if (List.range 8).all fun i => (e.cleanMask 3 (8 * row + i)).mask == BitVec.allOnes 64 then
        { s with mem := s.mem.setPoison .cells (mapErase s.mem.rowPoison row) }
      else s

/-- Whether a granule may be performed: its entry writes no more into it, and, where it must, has read all. -/
def State.granuleReady (s : State) (g : ClauseGranule) : Bool :=
  match s.entry g.key g.q g.ticket with
  | none => true
  | some e =>
    e.state != .running ||
      !g.whole && (match e.job'.dst with | some b => decide (g.addr + 64 ≤ b.off + e.prog) | none => true)

/-- The granules that a boundary may perform next: of each entry the lowest (R288). -/
def State.granuleOffers (s : State) (core : Nat) : List ClauseGranule :=
  let ready := (s.core core).granules.filter s.granuleReady
  ready.filter fun g => ready.all fun h => !(h.key == g.key && h.q == g.q && h.ticket == g.ticket) || decide (g.addr ≤ h.addr)

/-- One of the offers: the device chooses between entries (log entry 12). -/
def State.pickGranule (s : State) : List ClauseGranule → Option ClauseGranule × State
  | [] => (none, s)
  | [g] => (some g, s)
  | g :: rest => let c := s.choose; if c.1 then (some g, c.2) else c.2.pickGranule rest

/-- The next granule performed at a boundary. -/
def State.granuleNext (s : State) (core : Nat) : State :=
  match s.pickGranule (s.granuleOffers core) with
  | (none, s) => s
  | (some g, s) => (s.updCore core fun c => { c with granules := c.granules.erase g }).clauseWrite core g

/-- CLAUSE_GRANULE_ACCESS (R288): at a boundary of the array, the next granule of a copy entry is performed. -/
def execClauseGranuleAccess (core : Nat) (s : State) : Result :=
  .next (if s.arrayBusy core then s else s.granuleNext core)

end Sys2Proof.Machine
end

