-- ==== Sys2Proof/Machine/Areas.lean ====
section
/-! DEFINITION. Where the save areas lie and how bytes are written to and read from them (R381, R382). -/

namespace Sys2Proof.Machine

/-- The state with the time and heat-sheet units changed by f. -/
def State.updHeat (s : State) (f : Heat → Heat) : State := { s with heat := f s.heat }

/-! ## Save areas (R381, R385) -/

/-- The save area of a key, as a byte offset of its die's save region; given where the job has none yet. -/
def State.giveArea (s : State) (key : Nat) : Nat × State :=
  match mapFind s.heat.saveAt key with
  | some r => (r - 1, s)
  | none =>
    let die := key % 256 / 64
    let n := saveBytes * (s.heat.saveAt.filter fun x => x.1 % 256 / 64 == die).length
    (n, s.updHeat fun h => { h with saveAt := mapSet 0 h.saveAt key (n + 1) })

/-- Bytes with their marks written into a save region, granule by granule; k bounds the granules. -/
def State.areaPut (s : State) (die r : Nat) : Nat → List (Byte × Bool) → State
  | 0, _ => s
  | k + 1, bs =>
    if bs.isEmpty then s
    else
      let n := 64 - r % 64
      (s.spotWrite (s.saveSpot die r) (bs.take n)).areaPut die (r + n) k (bs.drop n)

/-- Bytes with their marks written into a save region. -/
def State.areaWrite (s : State) (die r : Nat) (bs : List (Byte × Bool)) : State := s.areaPut die r (bs.length / 64 + 2) bs
/-- Bytes without marks. -/
def clean (bs : List Byte) : List (Byte × Bool) := bs.map fun b => (b, false)

/-- n bytes of a save region. -/
def State.areaRead (s : State) (die r n : Nat) : List Byte := (List.range n).map fun i => s.spotByte (s.saveSpot die (r + i))
/-- n bytes of a save region with their marks. -/
def State.areaRun (s : State) (die r n : Nat) : List (Byte × Bool) :=
  (List.range n).map fun i => (s.spotByte (s.saveSpot die (r + i)), s.spotPoison (s.saveSpot die (r + i)))
/-- The n-byte little-endian number at a byte of a save region. -/
def State.areaNat (s : State) (die r n : Nat) : Nat := leNat (s.areaRead die r n)

/-- n bytes of a memory with the poison of their granules. -/
def State.memRun (s : State) (sp : Sp) (a n : Nat) : List (Byte × Bool) :=
  (List.range n).map fun i => (s.mem.byte sp (a + i), (mapGet false (s.mem.poison sp) ((a + i) / poisonUnit sp)))

/-! ## Offsets (R382) -/

/-- Crew records. -/
def atCrews : Nat := 0x1000
/-- Bytes of a crew record. -/
def crewBytes : Nat := 81920
/-- Block memory. -/
def atBmem : Nat := 0x191000
/-- Scratchpad rows. -/
def atRows : Nat := 0x1C9000
/-- Accumulator slots; index slots; the word of saved pairs and the status words. -/
def atAcc : Nat := 0x2A9000
/-- Index slots. -/
def atSlots : Nat := 0x2E9000
/-- The word of saved slot pairs, then the status words. -/
def atStatus : Nat := 0x2EA800
/-- Clause cells. -/
def atCells : Nat := 0x2ED000
/-- CAC, SEED, STEP and the feedback table. -/
def atCac : Nat := 0x30D000
/-- Clause-row poison. -/
def atRowPoison : Nat := 0x30D050
/-- State of aq; entries queued for the array. -/
def atAq : Nat := 0x30D070
/-- The copy queue set: issue counts, S values and ASYNCF bits. -/
def atCopy : Nat := 0x30E000
/-- The state of xq, its queued entries, the progress of its running entry. -/
def atXq : Nat := 0x30E080
/-- GS slots; TQU bank; job-wide state. -/
def atGraph : Nat := 0x30F000
/-- Entries of the TQU bank. -/
def atBank : Nat := 0x327000
/-- Job-wide state. -/
def atWide : Nat := 0x328000
/-- Parked requests. -/
def atFabric : Nat := 0x32F000

/-! ## A tile task in an area (R264, R265) -/

/-- Ticket, PROG and row block of a task: 12 bytes behind the word of saved pairs and the status words (log entry 93). -/
def taskWords (e : QEntry) : List Byte := leBytes 4 e.ticket.toNat ++ leBytes 4 e.prog ++ leBytes 4 e.prog2

/-- The tile of a faulted unpinned task, its status word and its progress put into the save area of the job on its core; the
pair is not marked as saved (R264; log entry 36). -/
def State.putFaulted (s : State) (part : Nat) (e : QEntry) (status : Word) : State :=
  let y := s.giveArea (s.areaKey e.job part e.engine)
  let die := e.engine / 64
  let s := y.2.areaWrite die (y.1 + atAcc + 131072) e.buf
  let old := s.areaRead die (y.1 + atStatus) 64
  s.areaWrite die (y.1 + atStatus)
    (clean (old.take 12 ++ leBytes 4 status.toNat ++ (old.drop 16).take 4 ++ taskWords e ++ old.drop 32))

end Sys2Proof.Machine
end

