-- ==== Sys2Proof/Machine/LaneConvert.lean ====
section
/-! DEFINITION. Conversion and quantisation, and the lane random stream (R180 to R186). -/

namespace Sys2Proof.Machine

/-- The rounding of a conversion into float code c: FTZ acts on destinations 0 to 4 only (R83). -/
def convRnd (c : Nat) (r : Rnd) : Rnd := if 5 ≤ c then { r with ftz := false } else r

/-- CVTF: a float 0 to 9 into a float 0 to 9 (R180). -/
def execCvtf (f : LaneFields) (s : State) : Result :=
  laneRun (fun f => { shFloat 0x40 1 0x1F with
      fmts := allFloatCodes, srcFmt := some (0x1F, allFloatCodes), rnd := some (stoOk f.fmt), draws := 1 })
    (perLane fun x i a _ _ =>
      let d := x.f.fmt.toNat
      let r := convRnd d (x.rounding i 0)
      let v := roundVal (floatFmt d) r (readFloat (floatFmt (x.f.md.toNat % 32)) r a.toNat)
      (BitVec.ofNat 64 v.1, v.2)) f s

/-- CVFI: a float into an integer type; RSTO only into I8, N8, I16 and N16 (R180). -/
def execCvfi (f : LaneFields) (s : State) : Result :=
  laneRun (fun f => { shInt 0x41 1 0x1F with
      srcFmt := some (0x1F, allFloatCodes), rnd := some (decide (4 ≤ f.fmt.toNat)), draws := 1 })
    (perLane fun x i a _ _ =>
      let t := intTy x.f.fmt.toNat
      let r := x.rounding i 0
      let v := roundToInt t r (readFloat (floatFmt (x.f.md.toNat % 32)) r a.toNat)
      (intBits t v.1, v.2)) f s

/-- CVIF: an integer into a float 0 to 9 (R180). -/
def execCvif (f : LaneFields) (s : State) : Result :=
  laneRun (fun f => { shFloat 0x42 1 0x07 with fmts := allFloatCodes, rnd := some (stoOk f.fmt), draws := 1 })
    (perLane fun x i a _ _ =>
      let d := x.f.fmt.toNat
      let n := intOf (intTy (x.f.md.toNat % 8)) a.toNat
      let v := roundFloat (floatFmt d) (convRnd d (x.rounding i 0)) (decide (n < 0)) n.natAbs 0 false
      (BitVec.ofNat 64 v.1, v.2)) f s

/-- CVII: wrapped, or clamped with NS under .sat (R180). -/
def execCvii (f : LaneFields) (s : State) : Result :=
  laneRun (fun _ => shInt 0x43 1 0x87)
    (perLane fun x _ a _ _ =>
      let t := intTy x.f.fmt.toNat
      let n := intOf (intTy (x.f.md.toNat % 8)) a.toNat
      if x.f.md.getLsbD 7 then (intBits t (intClamp t n).1, if (intClamp t n).2 then flagNS else 0)
      else (intBits t n, 0)) f s

/-- CVTS: a × 2^n rounded once into FMT (R180). -/
def execCvts (f : LaneFields) (s : State) : Result :=
  laneRun (fun f => { shFloat 0x48 3 0x1F with
      fmts := allFloatCodes, srcFmt := some (0x1F, floatCodes), rnd := some (stoOk f.fmt), draws := 1 })
    (perLane fun x i a b _ =>
      let d := x.f.fmt.toNat
      let v := fScale (floatFmt (x.f.md.toNat % 32)) (floatFmt d) (convRnd d (x.rounding i 0)) a.toNat
        (intOf (intTy 0) b.toNat)
      (BitVec.ofNat 64 v.1, v.2)) f s

/-! ## PACK and UNPK (R181) -/

/-- The element formats of PACK. -/
def packCodes : List Nat := [3, 4, 5, 6, 9, 15, 16, 17, 18, 19]
/-- The element formats of UNPK. -/
def unpkCodes : List Nat := [3, 4, 5, 6, 7, 8, 9, 15, 16, 17, 18, 19, 21]

/-- One element of PACK: from F32 by RND, or from I32 wrapped or clamped (R181). -/
def packElem (c : Nat) (r : Rnd) (sat : Bool) (w : Nat) : Nat × Flags :=
  if c < 15 then
    let r := convRnd c r
    roundVal (floatFmt c) r (readFloat (floatFmt 1) r w)
  else
    let t := elemInt c
    let v := intOf (intTy 0) w
    if sat then (((intClamp t v).1 % 2 ^ t.width).toNat, if (intClamp t v).2 then flagNS else 0)
    else ((v % 2 ^ t.width).toNat, 0)

/-- The reserved values of PACK: .sat with a floating element, and j not below 32/w. -/
def packBad (f : LaneFields) : Option (Nat × Nat) :=
  let c := f.fmt.toNat
  if packCodes.contains c && ((f.md.getLsbD 7 && c < 15) || 32 / fmtWidth c ≤ f.md.toNat % 8) then some (9, f.md.toNat)
  else none

/-- PACK; with integer elements any RND that the floating ones take is accepted and unused (R181; log entry 22). -/
def execPack (f : LaneFields) (s : State) : Result :=
  laneRun (fun f => { shFloat 0x44 7 0x87 with
      kind := if f.fmt < 15 then .float else .int, fmts := packCodes, rnd := some true, bad := packBad f
      draws := if f.fmt < 15 then 2 else 0 })
    (perLane fun x i a b c =>
      let code := x.f.fmt.toNat
      let w := fmtWidth code
      let sat := x.f.md.getLsbD 7
      let lo := packElem code (x.rounding i 0) sat (a.toNat % 2 ^ 32)
      let hi := packElem code (x.rounding i 1) sat (b.toNat % 2 ^ 32)
      let at' := 2 * w * (x.f.md.toNat % 8)
      let m : DWord := BitVec.ofNat 64 ((2 ^ (2 * w) - 1) <<< at')
      ((c &&& ~~~m) ||| BitVec.ofNat 64 ((lo.1 + hi.1 <<< w) <<< at'), lo.2 ||| hi.2)) f s

/-- UNPK: element k, exact, no flag (R181). DEDUCED: a NaN is formed under R84, quieted, or canonical with NANM, and FTZ
does not act on the element, whose value R181 calls exact (log entry 118). -/
def execUnpk (f : LaneFields) (s : State) : Result :=
  laneRun (fun f => { shFloat 0x45 1 0x3F with
      kind := if f.fmt < 15 then .float else .int, fmts := unpkCodes
      bad := if unpkCodes.contains f.fmt.toNat && 64 / fmtWidth f.fmt.toNat ≤ f.md.toNat % 64
        then some (9, f.md.toNat) else none })
    (plainLane fun x i a _ _ =>
      let c := x.f.fmt.toNat
      let w := fmtWidth c
      let el := (a.toNat >>> (w * (x.f.md.toNat % 64))) % 2 ^ w
      if c < 15 then BitVec.ofNat 64 (roundVal (floatFmt 1) { Rnd.rne with nanm := (x.rounding i 0).nanm } (decodeElem c el)).1
      else
        match decodeElem c el with
        | .num n m _ => intBits (intTy 0) (if n then -(m : Int) else m)
        | _ => 0) f s

/-! ## Tapered words (R182) -/

/-- The tapered codes of R75. -/
def taperCodes : List Nat := [10, 11, 12, 13, 14]

/-- TDEC: no flag (R182). -/
def execTdec (f : LaneFields) (s : State) : Result :=
  laneRun (fun _ => { shFloat 0x49 1 0 with fmts := taperCodes })
    (plainLane fun x _ a _ _ =>
      BitVec.ofNat 64 (roundVal (floatFmt 1) .rne (decodeTaper (taperFmt x.f.fmt.toNat) a.toNat)).1) f s

/-- TENC: FTZ does not apply; RSTO allowed (R182, R83). -/
def execTenc (f : LaneFields) (s : State) : Result :=
  laneRun (fun _ => { shFloat 0x4A 1 0 with fmts := taperCodes, rnd := some true, draws := 1 })
    (perLane fun x i a _ _ =>
      let v := roundTaper (taperFmt x.f.fmt.toNat) (x.rounding i 0) (decodeFloat (floatFmt 1) a.toNat)
      (BitVec.ofNat 64 v.1, v.2)) f s

/-! ## QNT and DQNT (R183, R184) -/

/-- The block of a lane: runs of 32, of 8 for code 30, lanes 0 to 63 and 64 to 95 for code 31. -/
def qntBlock (c i : Nat) : Nat := if c = 30 then i / 8 else if c = 31 then i / 64 else i / 32

/-- The largest value L of a block element, as an integer times a power of two. -/
def elemMax : Nat → Nat × Int
  | 22 => (448, 0) | 23 => (57344, 0) | 24 => (28, 0) | 25 => (15, -1) | 26 => (6, 0) | 27 => (127, -6)
  | 28 => (1, 12) | 29 => (1, 8) | 30 => (6, 0) | _ => (7, 0)

/-- ⌊log2 L⌋ of a block element. -/
def elemEmax (c : Nat) : Int := Nat.log2 (elemMax c).1 + (elemMax c).2

/-- The greater magnitude of two finite values; what is not finite counts as zero. -/
def maxMag (a b : Val) : Val :=
  let mag : Val → Val
    | .num _ m e => .num false m e
    | _ => .zero false
  if valLt (mag a) (mag b) then mag b else mag a

/-- The E8M0 exponent under SCLM 0 and 1, clamped to 0 to 254; an amax of 0 gives 127. -/
def e8m0Scale (c mode : Nat) (amax : Val) : Nat :=
  match amax with
  | .num _ m e =>
    if m = 0 then 127
    else
      let lg : Int := Nat.log2 m + e
      let L := elemMax c
      let k := lg - elemEmax c
      let k := if mode = 0 then k
        else if valLt (.num false L.1 (L.2 + k)) (.num false m e) then k + 1 else k
      (max 0 (min 254 (k + 127))).toNat
  | _ => 127

/-- The UE5M3 scale of code 30: amax ÷ (6t) by RNE or RUP; where t is not a positive number or +0 the value is open
(log entry 21). -/
def ue5m3Scale (mode amaxBits : Nat) (amax t : Val) (tBits : Nat) : Nat :=
  match amax, t with
  | .num _ 0 _, _ => 0x78
  | .num _ m e, .num false mt et =>
    if mt = 0 then 0xFE
    else
      let s := roundUE5M3 (mode == 1) m (6 * mt) (e - et)
      if mode = 0 && s == 0 then 1 else s
  | _, .inf false => if mode = 0 then 1 else 0
  | _, _ => (Config.quantScale amaxBits tBits mode).toNat

/-- The F16 scale of code 31: amax ÷ 7 by RNE or RUP. -/
def f16Scale (mode : Nat) (amax : Val) : Nat :=
  match amax with
  | .num _ m e =>
    if m = 0 then 0x3C00
    else
      let q := quotient m 7 e
      (roundFloat (floatFmt 4) { Rnd.rne with mode := if mode = 1 then 2 else 0 } false q.1 q.2.1 q.2.2).1
  | _ => 0x3C00

/-- The value of a scale code. -/
def scaleVal (c s : Nat) : Val :=
  if c = 30 then scaleUE5M3 s else if c = 31 then decodeFloat (floatFmt 4) s else scaleE8M0 s

/-- x ÷ d exactly, with sticky: 0 ÷ 0 and ∞ ÷ ∞ are NaNs. DESIGN CHOICE: a number over a zero scale, of which R183 states
no quotient, is an infinity, which saturates with NS and raises no DZ (log entry 120). -/
def valDiv (x d : Val) : Val × Bool :=
  match x, d with
  | .nan n f s, _ => (.nan n f s, false)
  | _, .nan n f _ => (.nan n f false, false)
  | .inf n, .num n' _ _ => (.inf (n != n'), false)
  | .inf _, .inf _ => (.nan false 0 false, false)
  | .num n _ _, .inf n' => (.zero (n != n'), false)
  | .num n m e, .num n' m' e' =>
    if m' = 0 then (if m = 0 then .nan false 0 false else .inf (n != n'), false)
    else if m = 0 then (.zero (n != n'), false)
    else
      let q := quotient m m' (e - e')
      (.num (n != n') q.1 q.2.1, q.2.2)

/-- The element code of QNT: infinities saturate in a tapered element too, and a finite overflow of E5M2 saturates
with NS (R88, R183). -/
def qntElem (c : Nat) (r : Rnd) (v : Val) (sticky : Bool) : Nat × Flags :=
  let r := { r with ftz := false, nsat := true }
  match v with
  | .inf n =>
    if c = 28 || c = 29 then
      let b := (taperFmt c).bits
      (if n then 2 ^ (b - 1) + 1 else 2 ^ (b - 1) - 1, flagNS)
    else roundElem c r v false
  | v => roundElem c r v sticky

/-- What QNT does in a lane, given the executing lanes of its block. -/
def qntLane (x : Ctx) (block : List Nat) (i : Nat) : DWord × Flags :=
  let c := x.f.fmt.toNat
  let mode := (x.e.fmtr.extractLsb' 21 3).toNat
  let num (j : Nat) : Val := decodeFloat (floatFmt 1) (x.val 0 j).toNat
  let amax := block.foldl (fun m j => maxMag m (num j)) (.zero false)
  let tBits := x.f.imm.toNat
  let t : Val := if c = 30 then decodeFloat (floatFmt 1) tBits else .one
  let given : Nat := match block with | [] => 0 | j :: _ => (x.val 2 j).toNat
  let s : Nat :=
    if mode = 2 then given % (if c = 31 then 2 ^ 16 else 2 ^ 8)
    else if c = 30 then (if mode = 3 then 0x78 else ue5m3Scale mode (roundVal (floatFmt 1) .rne amax).1 amax t tBits)
    else if c = 31 then (if mode = 3 then 0x3C00 else f16Scale mode amax)
    else if mode = 3 then 127 else e8m0Scale c mode amax
  let d : Val := match scaledElem (scaleVal c s) [t] with | some v => v | none => .nan false 0 false
  let q := valDiv (num i) d
  let el := qntElem c (x.rounding i 0) q.1 q.2
  (BitVec.ofNat 64 (el.1 + 2 ^ 16 * s), el.2)

/-- QNT (R183). -/
def execQnt (f : LaneFields) (s : State) : Result :=
  laneRun (fun f => { shFloat 0x46 5 0 with
      fmts := blockCodes, rnd := some true, draws := 1, imm := some 0xFFFFFFFF
      bad := if f.fmt ≠ 30 ∧ f.imm ≠ 0 then some (10, f.imm.toNat) else none })
    (fun x s =>
      let mode := (x.e.fmtr.extractLsb' 21 3).toNat
      if 4 ≤ mode then .trap (laneInfo 0x03 13 mode)
      else x.finish (fun i =>
        let block := x.lanes.filter fun j => qntBlock x.f.fmt.toNat j == qntBlock x.f.fmt.toNat i
        let r := qntLane x block i
        let p := x.poison 0 i || (decide (mode < 2) && block.any fun j => x.poison 0 j) ||
          (mode == 2 && (block.take 1).any fun j => x.poison 2 j)
        ⟨r.1, p, r.2⟩) s) f s

/-- DQNT: element × s × t rounded once into F32 (R184). -/
def execDqnt (f : LaneFields) (s : State) : Result :=
  laneRun (fun f => { shFloat 0x47 1 0 with
      fmts := blockCodes, rnd := some false, imm := some 0xFFFFFFFF
      bad := if f.fmt ≠ 30 ∧ f.imm ≠ 0 then some (10, f.imm.toNat) else none })
    (perLane fun x i a _ _ =>
      let c := x.f.fmt.toNat
      let el := decodeElem c (a.toNat % 2 ^ fmtWidth c)
      let sc := scaleVal c (if c = 31 then a.toNat / 2 ^ 16 % 2 ^ 16 else a.toNat / 2 ^ 16 % 2 ^ 8)
      let t : Val := if c = 30 then decodeFloat (floatFmt 1) x.f.imm.toNat else .one
      let r := x.rounding i 0
      let v := match scaledElem el [sc, t] with
        | some v => roundVal (floatFmt 1) r v
        | none => invalidBits (floatFmt 1)
      (BitVec.ofNat 64 v.1, v.2)) f s

/-! ## The random stream (R185, R186) -/

/-- The lane's identity of R185. -/
def laneId (c : Crew) (i : Nat) : Word := BitVec.ofNat 32 ((c.block * 16 + c.index) * 96 + i)

/-- LRND: one draw, or a new seed from a and its first draw (R186). -/
def execLrnd (f : LaneFields) (s : State) : Result :=
  laneRun (fun f => { shMove 0x4B (if f.md.getLsbD 0 then 1 else 0) with md := 1 })
    (fun x s =>
      match x.poisonTrap x.lanes (fun _ => 0) [(0, 4)] with
      | some t => .trap t
      | none =>
        let seed (i : Nat) : Word := mix32 ((x.val 0 i).extractLsb' 0 32) ^^^ laneId x.c i
        let draw (i : Nat) : Word :=
          if x.f.md.getLsbD 0 then drawAt (seed i) 0 else (x.c.lane i).drawN (x.randsBefore 3)
        .ok (s.updCrew fun c =>
          let c := x.put (fun i => ⟨(draw i).setWidth 64, false, 0⟩) c
          x.mapExec (fun i l =>
            if x.f.md.getLsbD 0 then { l with sigma := seed i, count := 1 } else l.drew 1) c)) f s

end Sys2Proof.Machine
end

