-- ==== Sys2Proof/Machine/Matrix.lean ====
section
/-! DEFINITION. The matrix engine: the tile-task record, TTSK, and the start of a task by the matrix task scheduler (R239
to R257). -/

namespace Sys2Proof.Machine

/-! ## The record (R242, R243) -/

/-- The fields of a tile-task record. -/
structure TileRec where
  csrc : Nat
  drain : Bool
  red : Bool
  pin : Bool
  fmf : Bool
  fmta : Nat
  fmtb : Nat
  fmtc : Nat
  dfmt : Nat
  tile : Nat
  /-- AMODE: rows, A's space code, scales; BMODE: B's space code, ring. -/
  rowsM : Nat
  aspace : Nat
  scales : Nat
  bspace : Nat
  ring : Bool
  m : Nat
  n : Nat
  k : Nat
  tags : Nat
  abase : Nat
  bbase : Nat
  cd : Nat
  idx : Nat
  scl : Nat
  sobj : Nat
  w0 : Nat
  w0c : Nat
  w1 : Nat
  w1c : Nat
  deriving DecidableEq, Repr

/-- The fields that the bytes of a record hold. -/
def tileRec (r : List Byte) : TileRec :=
  let b := byteAt r
  { csrc := b 0 % 4, drain := (b 0).testBit 2, red := (b 0).testBit 3, pin := (b 0).testBit 4, fmf := (b 0).testBit 5
    fmta := b 1 % 32, fmtb := b 2 % 32, fmtc := b 3 % 32, dfmt := b 4 % 32, tile := b 5 % 2
    rowsM := b 6 % 4, aspace := b 6 / 4 % 4, scales := b 6 / 16 % 4, bspace := b 7 % 4, ring := (b 7).testBit 2
    m := b 8 + 1, n := b 9 + 1, k := leAt r 10 3 + 1, tags := b 13, abase := leAt r 16 8, bbase := leAt r 24 8
    cd := leAt r 32 4, idx := leAt r 36 4, scl := leAt r 40 4, sobj := leAt r 44 4, w0 := leAt r 48 4
    w0c := leAt r 52 4, w1 := leAt r 56 4, w1c := leAt r 60 4 }

/-- K-step length of an operand format (R89). -/
def stepLen (c : Nat) : Nat :=
  if c = 0 then 2
  else if [1, 2, 20].contains c then 8
  else if [3, 4, 19].contains c then 32
  else if [5, 6, 15, 16, 22, 23, 27].contains c then 64
  else 128

/-- Elements per scale of a block format; 0 for a format without scales (R71). -/
def blockLen (c : Nat) : Nat := if c < 22 then 0 else if c = 30 then 8 else if c = 31 then 64 else 32

/-- ks (R89). -/
def TileRec.ks (t : TileRec) : Nat := max (stepLen t.fmta) (stepLen t.fmtb)
/-- nsteps (R243). -/
def TileRec.nsteps (t : TileRec) : Nat := (t.k + t.ks - 1) / t.ks
/-- segA. -/
def TileRec.segA (t : TileRec) : Nat := t.ks * fmtWidth t.fmta / 8
/-- segB. -/
def TileRec.segB (t : TileRec) : Nat := t.ks * fmtWidth t.fmtb / 8
/-- ASTR. -/
def TileRec.astr (t : TileRec) : Nat := (t.nsteps * t.segA + 63) / 64 * 64
/-- Stride of C rows. -/
def TileRec.cstr (t : TileRec) : Nat := (t.n * fmtWidth t.fmtc + 511) / 512 * 64
/-- Stride of D rows. -/
def TileRec.dstr (t : TileRec) : Nat := (t.n * fmtWidth t.dfmt + 511) / 512 * 64
/-- Elements of step p (R255). -/
def TileRec.kp (t : TileRec) (p : Nat) : Nat := if p + 1 = t.nsteps then t.k - (t.nsteps - 1) * t.ks else t.ks
/-- Blocks of an operand format in n elements. -/
def blocksIn (c n : Nat) : Nat := if blockLen c = 0 then 0 else (n + blockLen c - 1) / blockLen c
/-- Tensor scale entries: A's, then B's (R255). -/
def TileRec.tensors (t : TileRec) : Nat := (t.fmta == 30).toNat + (t.fmtb == 30).toNat
/-- Element scale entries of a whole task. -/
def TileRec.elemScales (t : TileRec) : Nat := t.m * blocksIn t.fmta t.k + t.n * blocksIn t.fmtb t.k
/-- Element scale entries before step p. -/
def TileRec.scalesBefore (t : TileRec) (p : Nat) : Nat :=
  p * (t.m * blocksIn t.fmta t.ks + t.n * blocksIn t.fmtb t.ks)
/-- Element scale entries of step p. -/
def TileRec.scalesOf (t : TileRec) (p : Nat) : Nat :=
  t.m * blocksIn t.fmta (t.kp p) + t.n * blocksIn t.fmtb (t.kp p)
/-- Row blocks: two for a redundant task of more than 64 rows (R260). -/
def TileRec.blocks (t : TileRec) : Nat := if t.red && decide (64 < t.m) then 2 else 1
/-- The copy space of a space code of AMODE and BMODE. -/
def tileSpace (c : Nat) : Nat := if c = 2 then 4 else c
/-- Bytes of an element of the tile, and the byte offset of the tile in accumulator memory (R240). -/
def TileRec.elemBytes (t : TileRec) : Nat := if t.fmtc = 0 then 8 else 4
/-- The first slot of the tile. -/
def TileRec.slot (t : TileRec) : Nat := if t.pin then t.tile else 2
/-- Bytes of the tile's slots. -/
def TileRec.tileBytes (t : TileRec) : Nat := if t.fmtc = 0 then 131072 else 65536
/-- The absolute address of an element in accumulator memory. -/
def TileRec.elem (t : TileRec) (core r c : Nat) : Nat :=
  accBase core + 65536 * t.slot + t.elemBytes * (128 * r + c)

/-! ## The checks of TTSK (R246) -/

/-- The byte offset of the first reserved value, field that is not zero or option that is not allowed; A's and B's
formats are the effective ones. -/
def tileBadField (r : List Byte) (fa fb : Nat) : Option Nat :=
  let t := tileRec r
  let b := byteAt r
  let blocked := 22 ≤ fa || 22 ≤ fb
  let al (x : Nat) : Bool := x % 64 != 0
  ([(t.csrc == 3 || b 0 / 64 != 0 || (t.csrc == 2 && !t.pin) || (!t.drain && !t.pin), 0),
    (b 1 / 32 != 0 || (t.fmf && b 1 != 0), 1), (b 2 / 32 != 0 || (t.fmf && b 2 != 0), 2),
    (b 3 / 32 != 0 || (t.fmf && b 3 != 0), 3), (b 4 / 32 != 0 || (!t.drain && b 4 != 0), 4),
    (b 5 / 2 != 0 || (!t.pin && b 5 != 0), 5),
    (b 6 / 64 != 0 || t.rowsM == 3 || t.aspace == 3 || t.scales == 3 || (!t.pin && (t.rowsM == 2 || t.scales == 2)) ||
      blocked != (t.scales != 0), 6),
    (b 7 / 8 != 0 || t.bspace == 3 || (t.ring && t.bspace != 1), 7), (decide (128 < t.m), 8), (decide (128 < t.n), 9),
    (t.tags / 8 != 0, 13), (b 14 != 0 || b 15 != 0, 14), (al t.abase, 16), (al t.bbase, 24),
    (al t.cd || (t.csrc != 1 && !t.drain && t.cd != 0), 32),
    (if t.rowsM = 1 then al t.idx else if t.rowsM = 2 then decide (7 < t.idx) else t.idx != 0, 36),
    (if t.scales = 1 then al t.scl else t.scl != 0, 40), (!t.tags.testBit 2 && t.sobj != 0, 44),
    (!t.tags.testBit 0 && t.w0 != 0, 48), (!t.tags.testBit 1 && t.w1 != 0, 56)].find? fun x => x.1).map Prod.snd

/-- The formats a code may drain to (R244). -/
def drainFmts (c : Nat) : List Nat := if c = 1 then [1, 3, 4] else if c = 0 then [0, 1] else [20]

/-- DETAIL and code of the first broken format rule (R244). -/
def tileBadFormat (t : TileRec) : Option (Nat × Nat) :=
  let code := if t.fmf then 13 else 2
  let int (c : Nat) : Bool := 15 ≤ c && c ≤ 21
  if !List.contains [0, 1, 20] t.fmtc then some (code, t.fmtc)
  else if t.fmtc = 20 ∧ !(int t.fmta && int t.fmtb) then some (code, t.fmtc)
  else if t.fmtc = 0 ∧ t.pin ∧ t.tile = 1 then some (2, t.tile)
  else if t.drain ∧ !(drainFmts t.fmtc).contains t.dfmt then some (2, t.dfmt)
  else none

/-- The first byte of [off, off + n) outside a partition's rows of a die. -/
def Partition.firstOutside (p : Partition) (die off n : Nat) : Option Nat :=
  if p.rowsOpen die off n then .none
  else
    let rows := (List.range (min n (2 ^ 26) / 8192 + 2)).map fun i => max off ((off / 8192 + i) * 8192)
    match rows.find? fun a => !(p.rowOpen die a && decide (a < 2 ^ 26)) with
    | some a => if a < off + n then some a else .none
    | .none => .none

/-- The first byte outside the rows of an extent that starts at a scalar address; an address of another form is
outside itself (R246). -/
def State.extentBad (s : State) (part die a n : Nat) : Option Nat :=
  if a / 2 ^ 27 ≠ 1 then some a
  else ((s.partition part).firstOutside die (a % 2 ^ 27) n).map fun o => 2 ^ 27 + o

/-- The space-1 extents that TTSK checks, in the order of R246: address and bytes. -/
def TileRec.extents (t : TileRec) : List (Nat × Nat) :=
  (if t.rowsM = 0 ∧ t.aspace = 1 then [(t.abase, (t.m - 1) * t.astr + t.nsteps * t.segA)] else []) ++
  (if t.bspace = 1 ∧ !t.ring then [(t.bbase, (t.nsteps - 1) * 128 * t.segB + t.n * t.segB)] else []) ++
  (if t.csrc = 1 then [(t.cd, (t.m - 1) * t.cstr + (t.n * fmtWidth t.fmtc + 7) / 8)] else []) ++
  (if t.drain then [(t.cd, (t.m - 1) * t.dstr + (t.n * fmtWidth t.dfmt + 7) / 8)] else []) ++
  (if t.rowsM = 1 then [(t.idx, 4 * t.m)] else []) ++
  (if t.scales = 1 then [(t.scl, 4 * t.tensors + 2 * t.elemScales)] else [])

/-- The record with the formats of the split's FMTR put in where FMF asks for them (R247). -/
def withFormats (r : List Byte) (fmtr : Word) : List Byte :=
  if (r.getD 0 0).getLsbD 5 then
    r.take 1 ++ [(fmtr.extractLsb' 0 5).setWidth 8, (fmtr.extractLsb' 5 5).setWidth 8, (fmtr.extractLsb' 10 5).setWidth 8] ++
      r.drop 4
  else r

/-- A valid object of a record that is not 8-byte aligned in the partition's scratchpad rows. -/
def State.tileBadObject (s : State) (part core : Nat) (t : TileRec) : Option Nat :=
  [(t.tags.testBit 0, t.w0), (t.tags.testBit 1, t.w1), (t.tags.testBit 2, t.sobj)].findSome? fun x =>
    if x.1 && (s.relObject part core none x.2).isNone then some x.2 else none

/-- What the checks on a record make of it: a trap, or the record as the engine takes it (R246). graph-issued tasks
meet the same checks. -/
def State.tileCheck (s : State) (part core : Nat) (fmtr : Word) (r : List Byte) : Except TrapInfo (List Byte) :=
  let r' := withFormats r fmtr
  let t := tileRec r'
  match tileBadField r t.fmta t.fmtb with
  | some o => .error (scalarInfo 0x01 2 0 (BitVec.ofNat 32 o))
  | none =>
    if t.pin && (s.core core).pinOwner != some part then .error (scalarInfo 0x01 0 0 0)
    else match tileBadFormat t with
      | some (d, c) => .error (scalarInfo 0x03 d 0 (BitVec.ofNat 32 c))
      | none => match s.tileBadObject part core t with
        | some o => .error (scalarInfo 0x0B 0 (BitVec.ofNat 32 o) 0)
        | none => match t.extents.findSome? fun x => s.extentBad part (core / 64) x.1 x.2 with
          | some a => .error (scalarInfo 0x0A 1 (BitVec.ofNat 32 a) 0)
          | none => .ok r'

/-- TTSK (R245 to R247): the task also needs a free entry in the partition's bank on the die (R303). -/
def execTtsk (d a : RegNo) (s : State) : Result :=
  let v := s.sreg a
  let part := s.crew.part
  let core := slotCore s.cur
  if !s.crew.splitIdle s.curSplit then .next (s.stay .lanes)
  else match s.spadAddr part (core / 64) v 64 64 with
    | none => .next (s.raise 0x0A 3 v 0)
    | some p =>
      if s.mem.poisoned .spad p 64 then .next (s.poisonRaise v)
      else match s.tileCheck part core s.split.fmtr (s.crew.load s.mem true p 64) with
        | .error t => .next (s.takeTrap t false false)
        | .ok r =>
          let t := tileRec r
          let e := { s.newEntry 0x2E 0 v with
            recd := r, rel := if t.tags.testBit 2 then s.relObject part core none t.sobj else none }
          if s.bankCap part (core / 64) false ≤ s.bankCount part (core / 64) then .next (s.stay .room)
          else .next (s.issueTo d 4 64 e)

/-! ## The start of a task (R248, R250) -/

/-- Whether a wait object of a record has reached its count. -/
def State.tileWaits (s : State) (part core : Nat) (t : TileRec) : Bool :=
  let ready (on : Bool) (o n : Nat) : Bool :=
    !on || (match s.relObject part core none o with
      | some x => seqCovers (s.objCount x.1 x.2) (BitVec.ofNat 32 n)
      | none => false)
  ready (t.tags.testBit 0) t.w0 t.w0c && ready (t.tags.testBit 1) t.w1 t.w1c

/-- Whether an engine is free for a partition. -/
def State.engineFree (s : State) (part core : Nat) : Bool :=
  (s.core core).tile.isNone && s.engineRuns (qkey part core) && (s.quota part core).isSome

/-- The engine that a task takes: its own core's, or for an unpinned task the lowest free one of the die (R248). -/
def State.engineFor (s : State) (part core : Nat) (pin : Bool) : Option Nat :=
  if s.engineFree part core then some core
  else if pin then none
  else ((List.range 64).map fun i => core / 64 * 64 + i).find? fun c => s.engineFree part c

/-- A tile task stops faulted (R263). An unpinned task's tile and status are put aside with it and its engine becomes free
(R264; log entry 36). -/
def State.tileFault (s : State) (k q : Nat) (e : QEntry) (cause addr : Nat) (rdet : Nat) : State :=
  let t := tileRec e.recd
  let base := accBase e.engine + 131072
  let status := mapGet 0 (s.core e.engine).accStatus 2
  let e := if t.pin then e else
    { e with
      buf := (List.range t.tileBytes).map fun i => (s.mem.byte .acc (base + i), s.mem.poisoned .acc (base + i) 1)
      flags := status.setWidth 6 }
  let s := if t.pin then s else (s.putFaulted (keyPart k) e status).updCore e.engine fun c => { c with tile := none }
  s.faultEntry k q e 0x04 cause addr (e.prog + 2 ^ 32 * e.prog2) rdet

/-- The status word of a task's tile (R241). -/
def State.tileStatus (s : State) (core : Nat) (t : TileRec) : Word := mapGet 0 (s.core core).accStatus t.slot
/-- The status word written. -/
def State.setTileStatus (s : State) (core : Nat) (t : TileRec) (v : Word) : State :=
  s.updCore core fun c => { c with accStatus := mapSet 0 c.accStatus t.slot v }

/-- The tile prepared: CSRC 0 zeroes it, CSRC 1 loads C, both clear the status word (R250, R259). -/
def State.tilePrepare (s : State) (core : Nat) (t : TileRec) : State :=
  if t.csrc = 2 then s
  else
    let base := accBase core + 65536 * t.slot
    let m := { s.mem with
      acc := memZero s.mem.acc base t.tileBytes
      accPoison := flagsClear s.mem.accPoison (base / 64) (t.tileBytes / 64) }
    let s := { s with mem := m }.setTileStatus core t 0
    if t.csrc = 0 then s
    else
      let c := spadBase (core / 64) + t.cd % 2 ^ 27
      (List.range t.m).foldl (fun s r => (List.range t.n).foldl (fun s j =>
        let a := c + r * t.cstr + t.elemBytes * j
        let o := t.elem core r j
        let s' := { s with mem := s.mem.storeNat .acc o t.elemBytes (s.mem.nat .spad a t.elemBytes) }
        if s.mem.poisoned .spad a t.elemBytes then
          { s' with mem := s'.mem.mark .acc o }.setTileStatus core t (s'.tileStatus core t ||| 16)
        else s') s) s

/-- A ring's header as the engine read it (R254). -/
structure Ring where
  full : Option (Bool × Nat)
  empty : Option (Bool × Nat)
  base : Nat
  len : Nat
  clean : Bool
  deriving DecidableEq, Repr

/-- The 64 bytes of a task's ring header. -/
def State.tileHeader (s : State) (core : Nat) (t : TileRec) : List Byte :=
  if t.ring then s.mem.bytes .spad (spadBase (core / 64) + t.bbase % 2 ^ 27) 64 else []

/-- The ring header that 64 bytes hold. -/
def State.tileRing (s : State) (part core : Nat) (b : List Byte) : Ring :=
  { full := s.relObject part core none (leAt b 0 4), empty := s.relObject part core none (leAt b 4 4)
    base := leAt b 8 4, len := leAt b 12 2, clean := zeroAt b 14 50 }

/-- The source rows e_r (R252): an index slot is the issuing core's. -/
def State.tileRows (s : State) (part core : Nat) (t : TileRec) : List Nat :=
  (List.range t.m).map fun r =>
    if t.rowsM = 0 then r
    else if t.rowsM = 1 then s.mem.nat .spad (spadBase (core / 64) + t.idx % 2 ^ 27 + 4 * r) 4
    else (mapGet (0 : Word) (s.qset (qkey part core)).slots (128 * t.idx + r)).toNat

/-- The tensor scales of a scale stream: the 32-bit value, plus 2^32 where it is poisoned (R255, R259). -/
def State.tileTensors (s : State) (core : Nat) (t : TileRec) : List Nat :=
  if t.scales ≠ 1 then []
  else
    (List.range t.tensors).map fun i =>
      let a := spadBase (core / 64) + t.scl % 2 ^ 27 + 4 * i
      s.mem.nat .spad a 4 + (if s.mem.poisoned .spad a 4 then 2 ^ 32 else 0)

/-- The checks at the start: a cause with its address (R250, R254, R263). -/
def State.tileStartBad (s : State) (part core : Nat) (t : TileRec) (rows : List Nat) (arg : Nat) : Option (Nat × Nat) :=
  let die := core / 64
  let p := s.partition part
  let spad (a n : Nat) : Bool := s.mem.poisoned .spad (spadBase die + a % 2 ^ 27) n
  let ring := s.tileRing part core (s.tileHeader core t)
  if t.ring ∧ (s.extentBad part die t.bbase 64).isSome then some (3, t.bbase)
  else if t.ring ∧ spad t.bbase 64 then some (10, t.bbase)
  else if t.rowsM = 1 ∧ spad t.idx (4 * t.m) then some (10, t.idx)
  else if t.ring ∧ (ring.full.isNone ∨ ring.empty.isNone ∨ ring.len = 0 ∨ 4096 < ring.len ∨ !ring.clean) then
    some (11, arg)
  else
    let ringExtent := if t.ring then
        p.firstOutside die (t.bbase % 2 ^ 27 + 64) (ring.len * 128 * t.segB)
      else none
    match ringExtent with
    | some o => some (3, 2 ^ 27 + o)
    | none =>
      if t.aspace = 1 ∧ t.rowsM ≠ 0 ∧ t.abase / 2 ^ 27 ≠ 1 then some (3, t.abase)
      else if t.aspace = 1 ∧ t.rowsM ≠ 0 then
        (rows.findSome? fun r =>
          p.firstOutside die (t.abase % 2 ^ 27 + r * t.astr) (t.nsteps * t.segA)).map fun o => (3, 2 ^ 27 + o)
      else none

/-- A task started on an engine (R250). -/
def State.tileStart (s : State) (k q : Nat) (e : QEntry) (engine : Nat) : State :=
  let t := tileRec e.recd
  let home := e.engine
  let rows := s.tileRows (keyPart k) home t
  let e := { e with state := .running, engine := engine, prog := 0, prog2 := 0, rows := rows ++ s.tileTensors home t
                    ring := s.tileHeader home t }
  let s := s.updCore engine fun c => { c with tile := some (k, q, e.ticket) }
  let s := s.updEntry k q e.ticket fun _ => e
  match s.tileStartBad (keyPart k) home t rows e.arg.toNat with
  | some (c, a) => s.tileFault k q e c a 0
  | none => s.tilePrepare engine t

/-- The next task of a queue with the engine it takes, when its order, fences, wait objects and engine allow (R248). -/
def State.tileReady (s : State) (part core q : Nat) : Option (QEntry × Nat) :=
  let k := queueKey part core q
  let ents := (s.queue k q).ents
  match ents.find? fun e => e.state == .queued with
  | none => none
  | some e =>
    let t := tileRec e.recd
    let earlier := ents.takeWhile fun x => x.ticket != e.ticket
    if s.engineRuns k ∧ s.afterDone k e ∧ s.tileWaits part e.engine t ∧
        (!t.pin || earlier.all fun x => !(tileRec x.recd).pin || x.state == .complete) then
      (s.engineFor part e.engine t.pin).map fun c => (e, c)
    else none

/-- The task that a partition's queues of a die offer first: issued earliest, at a tie of the lowest-numbered core. The
answer is a core and a queue code. -/
def State.tileFirst (s : State) (part die : Nat) : Option (Nat × Nat) :=
  let all := (64 * die, 9) :: (List.range 64).map fun c => (64 * die + c, 4)
  let offers := all.filterMap fun x => (s.tileReady part x.1 x.2).map fun r => (x, r.1)
  (offers.foldl (fun (b : Option ((Nat × Nat) × QEntry)) y => match b with
    | some z => if y.2.since < z.2.since ∨ (y.2.since = z.2.since ∧ y.2.engine < z.2.engine) then some y else some z
    | none => some y) none).map Prod.fst

/-- The queue that the MTS of a die serves next: partitions in round robin after the one served last (R248). -/
def State.mtsNext (s : State) (die : Nat) : Option (Nat × Nat × Nat) :=
  (List.range 16).findSome? fun i =>
    let p := ((s.die die).served + 1 + i) % 16
    (s.tileFirst p die).map fun x => (p, x)

/-- MTS_TASK_START (R248): the next task of a queue, when the die's scheduler serves that queue. -/
def execMtsTaskStart (part core q : Nat) (s : State) : Result :=
  .next (match s.mtsNext (core / 64), s.tileReady part core q with
    | some x, some (e, c) =>
      if x = (part, if q = 9 then core / 64 * 64 else core, q) then
        (s.updDie (core / 64) fun d => { d with served := part }).tileStart (queueKey part core q) q e c
      else s
    | _, _ => s)

end Sys2Proof.Machine
end

