-- ==== Sys2Proof/Machine/MatrixStep.lean ====
section
/-! DEFINITION. The K-steps of a tile task, its drain and completion, its faults, and the lane instructions of the
accumulator, the scale FIFO and the index slots (R251 to R265). -/

namespace Sys2Proof.Machine

/-! ## Scale entries (R255 to R257) -/

/-- A scale entry as the task uses it. -/
structure ScaleIn where
  val : Nat
  poison : Bool
  deriving DecidableEq, Repr

/-- What a task finds of its scale entries; desync is the stream-desynchronised fault. -/
inductive ScaleGet where
  | got (l : List ScaleIn)
  | wait
  | desync
  deriving DecidableEq, Repr

/-- Entry i of a scale stream after the tensor entries: 16 bits (R255). -/
def State.streamScale (s : State) (core : Nat) (t : TileRec) (i : Nat) : ScaleIn :=
  let a := spadBase (core / 64) + t.scl % 2 ^ 27 + 4 * t.tensors + 2 * i
  ⟨s.mem.nat .spad a 2, s.mem.poisoned .spad a 2⟩

/-- The kind of the i-th entry that a task expects, tensor entries first: format and whether a tensor entry (R255). -/
def TileRec.expects (t : TileRec) (i : Nat) : Nat × Bool :=
  if i < t.tensors then (30, true)
  else
    let j := i - t.tensors
    let perStep := t.m * blocksIn t.fmta t.ks + t.n * blocksIn t.fmtb t.ks
    let p := j / max 1 perStep
    (if j - t.scalesBefore p < t.m * blocksIn t.fmta (t.kp p) then t.fmta else t.fmtb, false)

/-- The batch that a task has taken, or takes now: the oldest that no task has taken (R257). -/
def takeBatch (q : Nat) (t : Word) : List ScaleBatch → List ScaleBatch
  | [] => []
  | b :: rest =>
    if b.taker = some (q, t) then b :: rest
    else if b.taker.isNone ∧ !b.dropped then { b with taker := some (q, t) } :: rest
    else b :: takeBatch q t rest

/-- The batch of a task. -/
def batchOf (q : Nat) (t : Word) (l : List ScaleBatch) : Option ScaleBatch := l.find? fun b => b.taker == some (q, t)

/-- Scale entries of a whole task. -/
def TileRec.allScales (t : TileRec) : Nat := t.tensors + t.elemScales

/-- Whether a batch breaks its task's order: an entry other than the one expected or beyond the last, or a close before
all have come (R257). The engine reads ahead over all that the FIFO holds (log entry 126). -/
def ScaleBatch.breaks (b : ScaleBatch) (t : TileRec) : Bool :=
  (b.ents.zipIdx.any fun x => decide (t.allScales ≤ b.used + x.2) || (x.1.fmt.toNat, x.1.tensor) != t.expects (b.used + x.2)) ||
    (b.closed && decide (b.used + b.ents.length < t.allScales))

/-- The first n element entries after the lo-th of a task's batch, when all up to there have been pushed. -/
def ScaleBatch.get (b : ScaleBatch) (t : TileRec) (lo n : Nat) : ScaleGet :=
  if b.breaks t then .desync
  else if b.used + b.ents.length < t.tensors + lo + n then .wait
  else .got (((b.ents.drop (t.tensors + lo - b.used)).take n).map fun x => ⟨x.val.toNat, false⟩)

/-- A batch changed by f. -/
def updBatch (q : Nat) (t : Word) (f : ScaleBatch → ScaleBatch) (l : List ScaleBatch) : List ScaleBatch :=
  l.map fun b => if b.taker = some (q, t) then f b else b

/-- The FIFO with the rest of a task's batch discarded, up to its close (R257). -/
def dropBatch (q : Nat) (t : Word) (l : List ScaleBatch) : List ScaleBatch :=
  (updBatch q t (fun b => { b with ents := [], dropped := true }) l).filter fun b => !(b.dropped && b.closed)

/-- The FIFO of a queue set changed by f. -/
def State.updFifo (s : State) (k : Nat) (f : List ScaleBatch → List ScaleBatch) : State :=
  s.updQset k fun x => { x with fifo := f x.fifo }

/-- The key of the set that holds the scale FIFO of a task's core. -/
def fifoKey (k : Nat) (e : QEntry) : Nat := qkey (keyPart k) e.engine

/-- The stream-desynchronised fault: the rest of the batch is discarded (R257). -/
def State.tileDesync (s : State) (k q : Nat) (e : QEntry) : State :=
  (s.updFifo (fifoKey k e) (dropBatch q e.ticket)).tileFault k q e 12 e.arg.toNat 0

/-- The element scale entries of step p of a task; the state with the batch taken. -/
def State.stepScales (s : State) (k q : Nat) (e : QEntry) (t : TileRec) (p : Nat) : State × ScaleGet :=
  let n := t.scalesOf p
  if t.scales = 0 then (s, .got [])
  else if t.scales = 1 then (s, .got ((List.range n).map fun i => s.streamScale e.engine t (t.scalesBefore p + i)))
  else
    let s := s.updFifo (fifoKey k e) (takeBatch q e.ticket)
    match batchOf q e.ticket (s.qset (fifoKey k e)).fifo with
    | none => (s, .wait)
    | some b => (s, b.get t (t.scalesBefore p) n)

/-! ## One step (R258, R89, R90, R259) -/

/-- The operand elements of a segment. -/
def segElems (c n : Nat) (bytes : List Byte) : List Nat :=
  let w := fmtWidth c
  let v := leNat bytes
  (List.range n).map fun j => v / 2 ^ (w * j) % 2 ^ w

/-- A row of A or column of B for one step: the scaled elements, and whether anything it read is poisoned. -/
structure Operand where
  elems : List (Option Val)
  poison : Bool
  deriving DecidableEq, Repr

/-- The operand of a segment with its block scales and its tensor scale. -/
def operand (c n : Nat) (bytes : List (Byte × Bool)) (scales : List ScaleIn) (tensor : Option Nat) : Operand :=
  let els := segElems c n (bytes.map Prod.fst)
  let blk := blockLen c
  let width := if c = 31 then 2 ^ 16 else 2 ^ 8
  let tv := match tensor with | some x => [decodeFloat (floatFmt 1) (x % 2 ^ 32)] | none => []
  { elems := (List.range n).map fun j =>
      let el := decodeElem c (els.getD j 0)
      if blk = 0 then some el
      else scaledElem el (scaleVal c ((scales.getD (j / blk) ⟨0, false⟩).val % width) :: tv)
    poison := bytes.any Prod.snd || scales.any ScaleIn.poison || (match tensor with | some x => decide (2 ^ 32 ≤ x) | none => false) }

/-- The product of two scaled elements: a NaN, an invalid product, or a value. -/
def stepProduct (a b : Option Val) : Option Val :=
  match a, b with
  | some x, some y => if x.isNan || y.isNan then none else valMul x y
  | _, _ => none

/-- One output element after a step: its bits and the status bits OVF, SAT and INV (R89, R90, R241). DEDUCED: a sum that
is exactly zero has the sign of IEEE 754's rule (log entry 121). -/
def accumulate (c : Nat) (acc : Nat) (products : List (Option Val)) : Nat × Word :=
  match termsOf products with
  | none => if c = 20 then (acc, 0) else (canonicalNan (floatFmt c), 4)
  | some ts =>
    if c = 20 then
      let i := (sumExact ts).num * 2 ^ (sumExact ts).exp.toNat
      let p := intClamp ⟨32, true⟩ i
      let r := intClamp ⟨32, true⟩ (intOf ⟨32, true⟩ acc + p.1)
      ((r.1 % 2 ^ 32).toNat, if p.2 || r.2 then 2 else 0)
    else
      let f := floatFmt c
      let p := roundSum f .rne (sumTerms 0 ts)
      let r := fAdd f .rne acc p.1
      let nan := (decodeFloat f r.1).isNan
      (if nan then canonicalNan f else r.1,
       (if p.2 &&& flagOF ≠ 0 ∨ r.2 &&& flagOF ≠ 0 then 1 else 0) ||| (if nan then 4 else 0))

/-- The rows of a row block: first and count (R260). -/
def TileRec.blockRows (t : TileRec) (block : Nat) : Nat × Nat :=
  if t.red then (if block = 0 then (0, min 64 t.m) else (64, t.m - 64)) else (0, t.m)

/-- The copy address of an operand base. -/
def tileAddr (space a : Nat) : CopyAddr :=
  match copyAddr (tileSpace space) a with | some x => x | none => ⟨tileSpace space, 0, a⟩

/-- The displacement of B panel p from BBASE. -/
def TileRec.panel (t : TileRec) (ringLen p : Nat) : Nat :=
  if t.ring then 64 + p % max 1 ringLen * 128 * t.segB else p * 128 * t.segB

/-- The segments of a list of displacements. -/
def Scan.segments (x : Scan) (k : Nat) (e : QEntry) (a : CopyAddr) (n : Nat) :
    List Nat → Scan × Except Halt (List (List (Byte × Bool)))
  | [] => (x, .ok [])
  | d :: rest =>
    let r := x.reads k e a d n
    match r.2 with
    | .error h => (r.1, .error h)
    | .ok bs =>
      let q := Scan.segments r.1 k e a n rest
      (q.1, match q.2 with | .error h => .error h | .ok l => .ok (bs :: l))

/-- The tensor scale of operand A or B, by its place among the tensor entries. -/
def QEntry.tensor (e : QEntry) (t : TileRec) (b : Bool) : Option Nat :=
  let ts := e.rows.drop t.m
  if b then (if t.fmtb = 30 then ts[if t.fmta = 30 then 1 else 0]? else none)
  else if t.fmta = 30 then ts[0]? else none

/-- One output element of a step: the accumulator, its poison and the status word. -/
def State.stepElem (s : State) (core : Nat) (t : TileRec) (r c : Nat) (a b : Operand) : State :=
  let o := t.elem core r c
  let v := accumulate t.fmtc (s.mem.nat .acc o t.elemBytes) (List.zipWith stepProduct a.elems b.elems)
  let s := { s with mem := s.mem.storeNat .acc o t.elemBytes v.1 }
  let poison := a.poison || b.poison
  let s := if poison then { s with mem := s.mem.mark .acc o } else s
  s.setTileStatus core t (s.tileStatus core t ||| v.2 ||| (if poison then 16 else 0))

/-- The scales of a row or column: a run of nb entries from the i-th. -/
def scaleRun (l : List ScaleIn) (i nb : Nat) : List ScaleIn := (l.drop i).take nb

/-- The outputs of step p for a row block, from the segments and the scale entries. -/
def State.stepTile (s : State) (e : QEntry) (t : TileRec) (p : Nat) (sa sb : List (List (Byte × Bool)))
    (sc : List ScaleIn) : State :=
  let n := t.kp p
  let na := blocksIn t.fmta n
  let nb := blocksIn t.fmtb n
  let rows := t.blockRows e.prog2
  let ops := (List.range rows.2).map fun i =>
    operand t.fmta n (sa.getD i []) (scaleRun sc ((rows.1 + i) * na) na) (e.tensor t false)
  let cols := (List.range t.n).map fun j =>
    operand t.fmtb n (sb.getD j []) (scaleRun sc (t.m * na + j * nb) nb) (e.tensor t true)
  (List.range rows.2).foldl (fun s i => (List.range t.n).foldl (fun s j =>
    s.stepElem e.engine t (rows.1 + i) j (ops.getD i ⟨[], false⟩) (cols.getD j ⟨[], false⟩)) s) s

/-- Whether the panel of step p has been produced (R254). -/
def State.panelReady (s : State) (r : Ring) (p : Nat) : Bool :=
  match r.full with
  | some x => seqCovers (s.objCount x.1 x.2) (BitVec.ofNat 32 (r.base + p + 1))
  | none => false

/-- After step p: EMPTY is released and the step's scale entries leave the FIFO, in the last row block (log entry 37);
PROG advances, to the next row block where one is left. -/
def State.stepDone (s : State) (k q : Nat) (e : QEntry) (t : TileRec) (ring : Ring) (p : Nat) (mismatch : Bool) : State :=
  let last := e.prog2 + 1 = t.blocks
  let s := if t.ring && last then (match ring.empty with | some x => s.release x.1 x.2 e.clock | none => s) else s
  let s := if t.scales = 2 && last then
      s.updFifo (fifoKey k e) (updBatch q e.ticket fun b =>
        let upTo := t.tensors + t.scalesBefore p + t.scalesOf p
        { b with ents := b.ents.drop (upTo - b.used), used := upTo })
    else s
  let e := { e with prog := p + 1, resp := [] }
  if p + 1 < t.nsteps then s.updEntry k q e.ticket fun _ => e
  else if t.red && mismatch then
    let s := (s.updEntry k q e.ticket fun _ => e).setTileStatus e.engine t (s.tileStatus e.engine t ||| 8)
    s.tileFault k q e 13 e.arg.toNat 0
  else if !last then s.updEntry k q e.ticket fun _ => { e with prog := 0, prog2 := e.prog2 + 1 }
  else s.updEntry k q e.ticket fun _ => { e with state := .moved }

/-- The tensor entries of the FIFO's first step kept with the task. -/
def State.fifoTensors (s : State) (k q : Nat) (e : QEntry) (t : TileRec) : QEntry :=
  if t.scales = 2 && e.rows.length == t.m then
    match batchOf q e.ticket (s.qset (fifoKey k e)).fifo with
    | some b => { e with rows := e.rows ++ (b.ents.take t.tensors).map fun x => x.val.toNat }
    | none => e
  else e

/-- The fetch of the bytes of a remote operand from a: the rest of its segment (R350). -/
def State.tileFetch (s : State) (k q : Nat) (e : QEntry) (a n : Nat) : State :=
  match s.engineRequest k q e 0 kReadReq a 0 (inRange a n) [] with
  | some s => s
  | none => s.tileFault k q e 9 a 1

/-- What a halt of the operand fetch comes to. -/
def State.tileHalt (s : State) (k q : Nat) (e : QEntry) (n : Nat) : Halt → State
  | .fault c a d => s.tileFault k q e c a d
  | .wait => s
  | .fetch a => s.tileFetch k q e a n

/-- Step PROG of a running task, or what it waits for (R258). -/
def State.tileStep (s : State) (k q : Nat) (e : QEntry) (mismatch : Bool) : State :=
  let t := tileRec e.recd
  let p := e.prog
  let ring := s.tileRing (keyPart k) e.engine e.ring
  if t.ring && !s.panelReady ring p then s
  else
    let sc := s.stepScales k q e t p
    let s := sc.1
    match sc.2 with
    | .wait => s
    | .desync => s.tileDesync k q e
    | .got l =>
      let e := s.fifoTensors k q e t
      let rows := t.blockRows e.prog2
      let a := tileAddr t.aspace t.abase
      let b := tileAddr t.bspace t.bbase
      let ra := Scan.segments ⟨s, [], []⟩ k e a t.segA
        ((List.range rows.2).map fun i => e.rows.getD (rows.1 + i) 0 * t.astr + p * t.segA)
      match ra.2 with
      | .error h => ra.1.s.tileHalt k q e t.segA h
      | .ok sa =>
        let rb := Scan.segments ra.1 k e b t.segB ((List.range t.n).map fun j => t.panel ring.len p + j * t.segB)
        match rb.2 with
        | .error h => rb.1.s.tileHalt k q e t.segB h
        | .ok sb => (rb.1.s.stepTile e t p sa sb l).stepDone k q e t ring p mismatch

/-- The running task of a core's engine. -/
def State.tileTask (s : State) (core : Nat) : Option (Nat × Nat × QEntry) :=
  match (s.core core).tile with
  | none => none
  | some (k, q, t) => (s.entry k q t).map fun e => (k, q, e)

/-- TILE_K_STEP (R258, R260): mismatch says what the comparator of a redundant task finds after the last step of a row
block. -/
def execTileKStep (core : Nat) (mismatch : Bool) (s : State) : Result :=
  .next (match s.tileTask core with
    | none => s
    | some (k, q, e) =>
      if e.state = .running ∧ s.engineRuns (qkey (keyPart k) core) then
        match e.resp.find? fun p => p.kind == kPoisoned with
        | some p => s.tileFault k q e 9 p.addr.toNat p.len
        | none => if e.pending.isEmpty then s.tileStep k q e mismatch else s
      else s)

/-! ## Completion (R251, R258) -/

/-- One element converted by RNE into the drain format: bits and whether it overflows (R258). -/
def drainElem (c d v : Nat) : Nat × Bool :=
  if c = 20 then (v, false)
  else
    let x := decodeFloat (floatFmt c) v
    if x.isNan then (canonicalNan (floatFmt d), false)
    else
      let r := roundVal (floatFmt d) .rne x
      (r.1, decide (r.2 &&& flagOF ≠ 0))

/-- Row r of D written; a granule that receives an element of a poisoned granule is poisoned (R258, R259). -/
def State.drainRow (s : State) (core : Nat) (t : TileRec) (r : Nat) : State :=
  let els := (List.range t.n).map fun j =>
    let o := t.elem core r j
    (drainElem t.fmtc t.dfmt (s.mem.nat .acc o t.elemBytes), s.mem.poisoned .acc o t.elemBytes)
  let bytes := els.flatMap fun x => (leBytes (fmtWidth t.dfmt / 8) x.1.1).map fun b => (b, x.2)
  let s := if els.any fun x => x.1.2 then s.setTileStatus core t (s.tileStatus core t ||| 1) else s
  s.spotWrite (.mem .spad (spadBase (core / 64) + t.cd % 2 ^ 27 + r * t.dstr)) bytes

/-- The completion word written into the record (R251). -/
def State.completionWord (s : State) (core : Nat) (e : QEntry) (status : Word) : State :=
  let a := spadBase (core / 64) + e.arg.toNat % 2 ^ 27
  { s with mem := s.mem.storeNat .spad (a + 8) 8 (status.toNat + 2 ^ 32 * e.ticket.toNat) }

/-- Whether a task's batch of the scale FIFO is at its end: closed with nothing left (R257; log entry 38). -/
def State.batchEnds (s : State) (k q : Nat) (e : QEntry) (t : TileRec) : ScaleGet :=
  if t.scales ≠ 2 then .got []
  else match batchOf q e.ticket (s.qset (fifoKey k e)).fifo with
    | none => .got []
    | some b => if b.breaks t then .desync else if b.closed then .got [] else .wait

/-- TILE_TASK_COMPLETE (R251). -/
def execTileTaskComplete (core : Nat) (s : State) : Result :=
  .next (match s.tileTask core with
    | none => s
    | some (k, q, e) =>
      let t := tileRec e.recd
      if e.state = .moved ∧ s.engineRuns (qkey (keyPart k) core) then
        match s.batchEnds k q e t with
        | .wait => s
        | .desync => s.tileDesync k q e
        | .got _ =>
          let s := if t.drain then (List.range t.m).foldl (fun s r => s.drainRow core t r) s else s
          let s := s.completionWord core e (s.tileStatus core t)
          let s := s.updFifo (fifoKey k e) fun l => l.filter fun b => b.taker != some (q, e.ticket)
          ((s.entryRelease e).updCore core fun c => { c with tile := none }).settleEntry k q e.ticket
      else s)

/-! ## Resume and retire (R264) -/

/-- TILE_TASK_RESUME: for the causes that may be resumed; an unpinned task gets its tile and status back on the engine
of the core where it faulted, once that is free; a pinned task goes on where it stopped. -/
def execTileTaskResume (part core q : Nat) (ticket : Word) (s : State) : Result :=
  let k := queueKey part core q
  .next (match s.entry k q ticket with
    | none => s
    | some e =>
      let t := tileRec e.recd
      if e.state = .faulted ∧ [1, 2, 9].contains e.cause ∧ (q = 4 ∨ q = 9) then
        let e' := { e with state := .running, cause := 0, faultAddr := 0, rdet := 0, buf := [], flags := 0 }
        if t.pin then
          if (s.core e.engine).tile = some (k, q, ticket) ∨ s.engineFree part e.engine then
            (s.updCore e.engine fun c => { c with tile := some (k, q, ticket) }).updEntry k q ticket fun _ => e'
          else s
        else if s.engineFree part e.engine then
          let base := accBase e.engine + 131072
          let s := s.spotWrite (.mem .acc base) e.buf
          let s := s.updCore e.engine fun c =>
            { c with tile := some (k, q, ticket), accStatus := mapSet 0 c.accStatus 2 (e.flags.setWidth 32) }
          s.updEntry k q ticket fun _ => e'
        else s
      else s)

/-- TILE_TASK_RETIRE: the completion word is written, the hold ends, S advances, nothing is drained or released. What is
left of its batch is discarded (log entry 126). -/
def execTileTaskRetire (part core q : Nat) (ticket : Word) (s : State) : Result :=
  let k := queueKey part core q
  .next (match s.entry k q ticket with
    | none => s
    | some e =>
      let t := tileRec e.recd
      if e.state = .faulted ∧ e.node.isNone ∧ (q = 4 ∨ q = 9) then
        let status := if t.pin then s.tileStatus e.engine t else e.flags.setWidth 32
        let s := s.completionWord e.engine e status
        let s := if t.pin then s.updCore e.engine fun c =>
            { c with tile := if c.tile = some (k, q, ticket) then none else c.tile } else s
        let s := s.updFifo (fifoKey k e) (dropBatch q ticket)
        s.retireEntry k q e 0x05 e.faultAddr.toNat (e.prog + 2 ^ 32 * e.prog2)
      else s)

/-! ## LDA, STA, SCLW and IDXW (R253, R256, R261, R262) -/

/-- A shape that is illegal with DETAIL 0 where the crew's partition does not own what it reaches (R240, R268). -/
def Shape.owned (sh : Shape) (own : Bool) : Shape := if own then sh else { sh with bad := some (0, 0) }

/-- Whether the crew's partition holds its core's pinned tiles (R240). -/
def State.pinHeld (s : State) : Bool := (s.core (slotCore s.cur)).pinOwner == some s.crew.part

/-- The tile that IMM names, the element bytes of FMT, and the absolute address of the element a selector names. -/
def Ctx.accElem (x : Ctx) (core : Nat) (a : DWord) : Nat :=
  let w := if x.f.fmt = 0 then 8 else 4
  accBase core + 65536 * (x.f.imm.toNat % 2) + w * (128 * (a.toNat / 256 % 128) + a.toNat % 128)

/-- The shape of LDA and STA in their element forms. -/
def shTile (op : BitVec 8) (uses : BitVec 3) (dst : DstUse) (f : LaneFields) : Shape :=
  { Shape.bare op with
    uses := uses, dst := dst, kind := if f.fmt = 20 then .int else .float, fmts := [0, 1, 20], imm := some 1
    bad := if f.fmt = 0 ∧ f.imm.getLsbD 0 then some (10, f.imm.toNat) else none }

/-- A body of LDA or STA waits while a task holds the tile (R262). -/
def tileBody (b : Body) : Body := fun x s =>
  let core := slotCore s.cur
  if s.tileHeld core (x.f.imm.toNat % 2) || (x.f.fmt == 0 && x.f.md == 0 && s.tileHeld core 1) then .wait else b x s

/-- LDA (R261). -/
def execLda (f : LaneFields) (s : State) : Result :=
  laneRun (fun f => (shTile 0x70 1 .long f).owned s.pinHeld)
    (tileBody fun x s =>
      match x.poisonTrap x.lanes (fun _ => 0) [(0, 4)] with
      | some t => .trap t
      | none => x.finish (fun i =>
          let w := if x.f.fmt = 0 then 8 else 4
          let o := x.accElem (slotCore s.cur) (x.val 0 i)
          let v := s.mem.nat .acc o w
          ⟨if x.f.fmt = 20 then intBits ⟨32, true⟩ (intOf ⟨32, true⟩ v) else BitVec.ofNat 64 v, s.mem.poisoned .acc o w, 0⟩) s) f s

/-- LDA of a status word (R261). -/
def execLdaStatus (f : LaneFields) (s : State) : Result :=
  laneRun (fun _ => { Shape.bare 0x70 with dst := .long, md := 1, imm := some 1 : Shape }.owned s.pinHeld)
    (tileBody fun x s =>
      let v := mapGet (0 : Word) (s.core (slotCore s.cur)).accStatus (x.f.imm.toNat % 2)
      x.finish (fun _ => ⟨v.setWidth 64, false, 0⟩) s) f s

/-- The stores of one STA: each granule whose 64 bytes the lanes write together is clean afterwards (R261). -/
def State.staLanes (s : State) (w : Nat) (l : List (Nat × DWord)) : State :=
  let s' := l.foldl (fun s x => { s with mem := s.mem.storeNat .acc x.1 w x.2.toNat }) s
  let full (g : Nat) : Bool := (List.range (64 / w)).all fun j => l.any fun x => x.1 == 64 * g + w * j
  { s' with mem := { s'.mem with accPoison := s'.mem.accPoison.filter fun x => !full x.1 } }

/-- STA (R261). -/
def execSta (f : LaneFields) (s : State) : Result :=
  laneRun (fun f => (shTile 0x71 3 .none f).owned s.pinHeld)
    (tileBody fun x s =>
      match x.poisonTrap x.lanes (fun _ => 0) [(0, 4), (1, 1)] with
      | some t => .trap t
      | none => .ok (s.staLanes (if x.f.fmt = 0 then 8 else 4)
          (x.lanes.map fun i => (x.accElem (slotCore s.cur) (x.val 0 i), x.val 1 i)))) f s

/-- STA of a status word: b of the lowest executing lane (R261). -/
def execStaStatus (f : LaneFields) (s : State) : Result :=
  laneRun (fun _ => { Shape.bare 0x71 with uses := 2, md := 1, imm := some 1 : Shape }.owned s.pinHeld)
    (tileBody fun x s =>
      match x.lanes with
      | [] => .ok s
      | low :: _ =>
        match x.poisonTrap x.lanes (fun _ => 0) [(1, 1)] with
        | some t => .trap t
        | none =>
          .ok (s.updCore (slotCore s.cur) fun c =>
            { c with accStatus := mapSet 0 c.accStatus (x.f.imm.toNat % 2) (((x.val 1 low).setWidth 5).setWidth 32) })) f s

/-- Entries that stand in the FIFO. -/
def fifoCount (l : List ScaleBatch) : Nat := l.foldl (fun n b => n + b.ents.length) 0

/-- Entries pushed into the open batch, or into a new one, which last closes. What is pushed into a batch that is being
discarded is lost, and its close ends it (R256, R257). -/
def pushScales (ents : List ScaleEntry) (last : Bool) (l : List ScaleBatch) : List ScaleBatch :=
  let init : List ScaleBatch := l.dropLast
  let fresh := l ++ (if ents.isEmpty && !last then [] else [⟨ents, last, none, 0, false⟩])
  match l.getLast? with
  | none => fresh
  | some b =>
    if b.closed then fresh
    else if b.dropped then (if last then init else l)
    else init ++ [{ b with ents := b.ents ++ ents, closed := last }]

/-- The check of a push against the task whose batch it joins (R257). -/
def State.pushCheck (s : State) (core : Nat) : State :=
  match s.tileTask core with
  | none => s
  | some (k, q, e) =>
    match batchOf q e.ticket (s.qset (fifoKey k e)).fifo with
    | some b => if (e.state == .running || e.state == .moved) && !b.dropped && b.breaks (tileRec e.recd) then s.tileDesync k q e else s
    | none => s

/-- SCLW (R256). -/
def execSclw (f : LaneFields) (s : State) : Result :=
  laneRun (fun f => { Shape.bare 0x72 with
      uses := 1, kind := .float, fmts := blockCodes, md := 3
      bad := if f.md.getLsbD 1 ∧ f.fmt ≠ 30 then some (9, f.md.toNat) else none })
    (fun x s =>
      match x.poisonTrap x.lanes (fun _ => 0) [(0, 1)] with
      | some t => .trap t
      | none =>
        let tensor := x.f.md.getLsbD 1
        let k := qkey x.c.part (slotCore s.cur)
        let val (i : Nat) : ScaleEntry :=
          let a := x.val 0 i
          ⟨x.f.fmt, tensor, if tensor then a.setWidth 32 else if x.f.fmt = 31 then (a.setWidth 16).setWidth 32
            else (a.setWidth 8).setWidth 32⟩
        let ents := (if tensor then x.lanes.take 1 else x.lanes).map val
        if 512 < fifoCount (s.qset k).fifo + ents.length then .wait
        else .ok ((s.updFifo k (pushScales ents (x.f.md.getLsbD 0))).pushCheck (slotCore s.cur))) f s

/-- Whether an issued pinned task that names an index slot has not started (R253). -/
def State.slotInUse (s : State) (k slot : Nat) : Bool :=
  (s.queue k 4).ents.any fun e =>
    let t := tileRec e.recd
    e.state == .queued && t.rowsM == 2 && t.idx == slot

/-- IDXW (R253). -/
def execIdxw (f : LaneFields) (s : State) : Result :=
  laneRun (fun _ => { Shape.bare 0x73 with uses := 1, md := 7, imm := some 127 })
    (fun x s =>
      let k := qkey x.c.part (slotCore s.cur)
      let slot := x.f.md.toNat % 8
      match x.poisonTrap x.lanes (fun _ => 0) [(0, 4)] with
      | some t => .trap t
      | none =>
        if s.slotInUse k slot then .wait
        else .ok (s.updQset k fun y =>
          { y with slots := x.lanes.foldl (fun m i =>
              let n := x.f.imm.toNat % 128 + i
              if n ≤ 127 then mapSet 0 m (128 * slot + n) ((x.val 0 i).setWidth 32) else m) y.slots })) f s

end Sys2Proof.Machine
end

