-- ==== Sys2Proof/Machine/ScalarFlow.lean ====
section
/-! DEFINITION. Control of flow of the scalar stream: branches, calls, splits, traps, exit and yields (R47 to R52, R95,
R96, R134 to R139, R208). -/

namespace Sys2Proof.Machine

/-- Whether a byte offset is a word of .scalar (R95). -/
def Launch.scalarTarget (l : Launch) (t : Nat) : Bool := t % 4 == 0 && decide (t + 4 ≤ l.scalarLen)

/-- A target of the split in focus: SPC + 4 × offset (R95). -/
def State.targetOf (s : State) (off : Int) : Word := BitVec.ofInt 32 ((s.split.spc : Int) + 4 * off)

/-- Goes on when a target lies in .scalar, else the illegal-instruction trap at the branch (R95). -/
def State.withTarget (s : State) (t : Word) (k : State) : Result :=
  .next (if s.launch.scalarTarget t.toNat then k else s.illegal 12 t.toNat)

/-- NOP (R134). -/
def execNop (s : State) : Result := .next s.done

/-- NOP_HINT: no architectural effect, and no fault whatever n is (R135). -/
def execNopHint (_k : BitVec 1) (_n : BitVec 9) (s : State) : Result := .next s.done

/-- BR (R134). -/
def execBr (o : BitVec 26) (s : State) : Result :=
  let t := s.targetOf o.toInt
  s.withTarget t (s.jump t.toNat)

/-- BRC: COND 0, 1 or 2, SP a predicate number, 0 with COND 2 (R96, R134). -/
def execBrc (c p : BitVec 4) (o : BitVec 18) (s : State) : Result :=
  if 2 < c then .next (s.illegal 10 c.toNat)
  else if 8 ≤ p ∨ (c = 2 ∧ p ≠ 0) then .next (s.illegal 10 p.toNat)
  else
    let t := s.targetOf o.toInt
    let holds := c == 2 || (s.crew.sp.getLsbD p.toNat != (c == 1))
    s.withTarget t (if holds then s.jump t.toNat else s.done)

/-- CALL: the link goes to s31 (R134). -/
def execCall (o : BitVec 26) (s : State) : Result :=
  let t := s.targetOf o.toInt
  s.withTarget t ((s.setSreg 31 (BitVec.ofNat 32 (s.split.spc + 4))).jump t.toNat)

/-- RET (R134). -/
def execRet (a : RegNo) (s : State) : Result := s.withTarget (s.sreg a) (s.jump (s.sreg a).toNat)

/-! ## Splits (R48 to R52) -/

/-- The lanes of a split where predicate n holds; p15 is true. -/
def Crew.predMask (c : Crew) (n : BitVec 4) (m : LaneMask) : LaneMask :=
  (List.range 96).foldl (fun r i =>
    if m.getLsbD i && (n == 15 || (c.lane i).preds.getLsbD n.toNat) then r ||| (1#96 <<< i) else r) 0

/-- The lowest free split number, if fewer than four splits live. -/
def Crew.freeSplit (c : Crew) : Option Nat := (List.range 4).find? fun k => !(c.split k).live

/-- BSPL by split k at a fall-through, with taken lanes T and targets (R48, R49); none when the stack is full. -/
def Crew.bspl (c : Crew) (k : Nat) (T : LaneMask) (spc lpc : Nat) : Option Crew :=
  let p := c.split k
  let F := p.mask &&& ~~~T
  let next := p.spc + 4
  if T = 0 then some (c.setSplit k { p with spc := next })
  else if F = 0 then some (c.setSplit k { p with spc := spc, lpc := lpc })
  else
    match c.freeSplit with
    | some j =>
      let new : Split := { Split.free with
        live := true, spc := spc, lpc := lpc, fmtr := p.fmtr, members := T, mask := T, banked := p.banked }
      some ((c.setSplit j new).setSplit k { p with spc := next, members := p.members &&& ~~~T, mask := F })
    | none =>
      if 32 ≤ c.stack.length then none
      else
        let e : StackEntry :=
          { owner := k, taken := T, spc := spc, lpc := lpc, fmtr := p.fmtr, banked := p.banked, join := none }
        some { c.setSplit k { p with spc := next, mask := F } with stack := e :: c.stack }

/-- BSPL (R48, R96, R136): illegal in a trap handler (R207). -/
def execBspl (c a : BitVec 4) (o : BitVec 18) (s : State) : Result :=
  if s.crew.trap.handler then .next (s.illegal 0 0x04)
  else if !s.crew.splitIdle s.curSplit then .next (s.stay .lanes)
  else
    let t := s.targetOf o.toInt
    let li := (s.sreg (a.setWidth 5)).toNat
    s.withTarget t
      (if s.launch.laneLen < 12 * (li + 1) then s.illegal 12 li
       else
        match s.crew.bspl s.curSplit (s.crew.predMask c s.split.mask) t.toNat (12 * li) with
        | none => s.raise 0x0E 0 0 0
        | some c' => s.setCrew { c'.updSplit s.curSplit fun p => { p with wait := .none } with clock := c'.clock + 1 })

/-- The stack entry on top of those that split k owns. -/
def Crew.topOf (c : Crew) (k : Nat) : Option StackEntry := c.stack.find? fun e => e.owner == k

/-- The first stack entry of split k changed by f, or taken out. -/
def stackUpd (k : Nat) (f : StackEntry → Option StackEntry) : List StackEntry → List StackEntry
  | [] => []
  | e :: rest =>
    if e.owner = k then (match f e with | some e' => e' :: rest | none => rest) else e :: stackUpd k f rest

/-- Split k continues as the path of its top entry (R50 step 1, R52). -/
def Crew.runPath (c : Crew) (k : Nat) (e : StackEntry) : Crew :=
  c.updSplit k fun p =>
    { p with
      spc := e.spc, lpc := e.lpc, fmtr := e.fmtr, members := e.taken, mask := e.taken, banked := e.banked, wait := .none
      onPath := true }

/-- A split runs a stack path exactly while its top entry has recorded a JOIN. -/
def Crew.settlePath (c : Crew) (k : Nat) : Crew :=
  c.updSplit k fun p => { p with onPath := (c.topOf k).any fun e => e.join.isSome }

/-- The recorded part resumes after its JOIN; union says whether the split's own lanes come with it (R50 step 2, R52). -/
def Crew.resumeJoin (c : Crew) (k : Nat) (e : StackEntry) (j : JoinRec) (union : Bool) : Crew :=
  let c := { c with stack := stackUpd k (fun _ => none) c.stack }
  let c := c.updSplit k fun p =>
    { p with
      spc := j.spc + 4, lpc := j.lpc, fmtr := e.fmtr, banked := j.banked, wait := .none
      members := if union then p.members ||| j.members else j.members
      mask := if union then p.mask ||| j.mask else j.mask }
  c.settlePath k

/-- Split o merges into split k: members and mask are unions, and k takes over o's stack entries and the queue entries
that o enqueued, whose recorded numbers stay (R44, R50 step 3). A repeat prefix of o whose instruction is still to come
is k's, where k has none of its own (log entry 9). -/
def Crew.absorb (c : Crew) (k o : Nat) : Crew :=
  let q := c.split o
  let c := c.updSplit k fun p => { p with
    members := p.members ||| q.members, mask := p.mask ||| q.mask, pendingRep := p.pendingRep.or q.pendingRep }
  { c.setSplit o Split.free with
    stack := c.stack.map fun e => if e.owner = o then { e with owner := k } else e
    laneQ := c.laneQ.map fun e => if e.owner = o then { e with owner := k } else e
    inflight := c.inflight.map fun e => if e.split = o then { e with split := k } else e }

/-- What a JOIN makes of one split that waits at it (R50 steps 1 and 2); the splits left for step 3. -/
def Crew.joinStack (c : Crew) (k : Nat) : Crew × List Nat :=
  let p := c.split k
  match c.topOf k with
  | none => (c, [k])
  | some e =>
    match e.join with
    | none =>
      let j : JoinRec := { spc := p.spc, lpc := p.lpc, mask := p.mask, members := p.members, banked := p.banked }
      ({ c with stack := stackUpd k (fun e => some { e with join := some j }) c.stack }.runPath k e, [])
    | some j => if j.spc = p.spc ∧ j.lpc = p.lpc then (c.resumeJoin k e j true, []) else (c, [k])

/-- Steps 3 and 4 of R50: the splits given, in ascending order, merge where SPC and LPC agree, and go on. -/
def Crew.joinMerge (c : Crew) : List Nat → Crew
  | [] => c
  | k :: rest =>
    let p := c.split k
    if !p.live then c.joinMerge rest
    else
      let same := rest.filter fun o => (c.split o).live && (c.split o).spc == p.spc && (c.split o).lpc == p.lpc
      let c := same.foldl (fun c o => c.absorb k o) c
      (c.updSplit k fun p => { p with spc := p.spc + 4, wait := .none }).joinMerge rest

/-- The splits that wait at a JOIN, with the split in focus. -/
def Crew.atJoin (c : Crew) (k : Nat) : List Nat :=
  (List.range 4).filter fun j => j == k || ((c.split j).live && (c.split j).wait = .join)

/-- Whether a split does not hold a JOIN back: at a JOIN, waiting in a synchronisation, or gone (R50). DESIGN CHOICE: the
specification does not list the synchronisations; the model counts the waits of BAR, ACQ, WSEQ, YIELD.seq, YIELD.jn,
JNWT, GCTL wait, a FENCE on acknowledgements and a gather, and not those for a time, a light start, a response, room in a
queue or lane work (log entry 113). -/
def Split.meets (p : Split) : Bool :=
  !p.live || (match p.wait with | .join => true | .sync => true | .acquire _ _ _ _ _ => true | _ => false)

/-- JOIN (R50): illegal in a trap handler (R207). Each split's JOIN completes. -/
def execJoin (s : State) : Result :=
  let c := s.crew
  let k := s.curSplit
  if c.trap.handler then .next (s.illegal 0 0x05)
  else if !(List.range 4).all (fun j => j == k || (c.split j).meets) then .next (s.stay .join)
  else
    let here := c.atJoin k
    let step (x : Crew × List Nat) (j : Nat) : Crew × List Nat :=
      let r := x.1.joinStack j
      (r.1, x.2 ++ r.2)
    let r := here.foldl step (c, [])
    let c := r.1.joinMerge r.2
    let c := { c with clock := c.clock + BitVec.ofNat 64 here.length }
    let s := s.setCrew c
    .next (if (c.split k).live then s else s.rotate)

/-- Two splits that do not wait, run no stack path and own no stack entry merge when their SPC and LPC are equal: split
k with each such split, into the lowest number (R51). One whose part-way LRUN or barrier a catch has interrupted still waits
at it (R43, R37). -/
def Crew.mergeEqual (c : Crew) (k : Nat) : Crew × Nat :=
  let free (j : Nat) : Bool :=
    let p := c.split j
    p.live && decide (p.wait = .none) && p.lrunLeft.isNone && p.bar.isNone && !p.onPath && (c.topOf j).isNone
  let same := (List.range 4).filter fun j =>
    free j && (c.split j).spc == (c.split k).spc && (c.split j).lpc == (c.split k).lpc
  if c.trap.handler || !free k then (c, k)
  else match same with
    | [] => (c, k)
    | j :: rest => (rest.foldl (fun c o => c.absorb j o) c, j)

/-! ## Ends (R137, R138, R208) -/

/-- EXIT of a split: its top stack entry resumes, or the split ends; the crew ends when none is left. In a trap handler
it ends the crew (R52, R138). -/
def State.exitSplit (s : State) (v : Word) : State :=
  let status := v &&& 0x00FFFFFF
  let c := s.crew
  let c := { c with status := if c.status = 0 then status else c.status, clock := c.clock + 1 }
  let k := s.curSplit
  if c.trap.handler then (s.setCrew c).endCrew s.cur c.status false
  else
    match c.topOf k with
    | some e =>
      match e.join with
      | none =>
        let c := c.runPath k e
        s.setCrew ({ c with stack := stackUpd k (fun _ => none) c.stack }.settlePath k)
      | some j => s.setCrew (c.resumeJoin k e j false)
    | none =>
      let c := c.setSplit k Split.free
      if c.liveSplits.isEmpty then (s.setCrew c).endCrew s.cur c.status false
      else (s.setCrew c).rotate

/-- EXIT: waits for the crew's lane work, drains the window, applies the updates of a deterministic launch (R138). -/
def execExit (a : RegNo) (s : State) : Result :=
  if !s.crew.lanesIdle then .next (s.stay .lanes)
  else
    let v := s.sreg a
    let s := s.drain
    let s := if s.settings.det then s.flushAt s.cur else s
    .next (s.exitSplit v)

/-- TRAP: the software trap, which resumes at the next word (R137, R208). -/
def execTrap (i : BitVec 21) (s : State) : Result :=
  .next (s.takeTrap (scalarInfo 0x13 0 0 (i.setWidth 32)) false true)

/-- ERET: illegal outside a handler; waits for the handler's lane work (R137, R208). -/
def execEret (s : State) : Result :=
  if !s.crew.trap.handler then .next (s.illegal 0 0x0B)
  else if !s.crew.lanesIdle then .next (s.stay .lanes)
  else .next s.returnFromTrap

end Sys2Proof.Machine
end

