-- ==== Sys2Proof/Machine/Csr.lean ====
section
/-! DEFINITION. Control and status registers (R155, R156, R207, R216, R220, R307, R348, R408, R421) and the binding table
(R27). -/

namespace Sys2Proof.Machine

/-- The numbers that the CSR tables define. -/
def csrKnown (n : Nat) : Bool :=
  [0x001, 0x002, 0x003, 0x004, 0x005, 0x008, 0x009, 0x010, 0x011, 0x012, 0x013, 0x014, 0x015, 0x016, 0x020, 0x022,
   0x023, 0x024, 0x025, 0x028, 0x029, 0x030, 0x032, 0x033, 0x040, 0x041, 0x042, 0x043, 0x044, 0x050, 0x051, 0x052,
   0x053, 0x060, 0x061, 0x062, 0x063, 0x064, 0x065, 0x066, 0x070, 0x071].contains n

/-- The numbers that can be written; the first three trap registers only in the handler. -/
def csrWritable (handler : Bool) (n : Nat) : Bool :=
  [0x020, 0x022, 0x028, 0x029, 0x040, 0x041, 0x042, 0x043, 0x050, 0x051, 0x052, 0x053].contains n ||
    (handler && [0x010, 0x011, 0x012].contains n)

/-- The illegal-CSR trap. -/
def State.csrTrap (s : State) (detail n : Nat) : State := s.raise 0x07 detail 0 (BitVec.ofNat 32 n)

/-- The first rejection of a CSR access in the order of R155: unknown, privileged, deterministic launch, read-only. -/
def State.csrReject (s : State) (write : Bool) (n : Nat) : Option Nat :=
  let spec := s.settings
  if !csrKnown n then some 0
  else if !write && 0x800 ≤ n && !spec.priv then some 2
  else if !write && spec.det && (n = 0x032 || n = 0x033) then some 3
  else if write && !csrWritable s.crew.trap.handler n then some 1
  else none

/-- The quota of the crew's partition on its core. -/
def State.quotaHere (s : State) : QuotaSpec :=
  match s.quota s.crew.part (slotCore s.cur) with
  | some q => q
  | none => ⟨slotCore s.cur, 0, 0, 0, 0, 0⟩

/-- The scalar address of the chain row of a copy queue of a quota: SPACE 1, WID 0 (R216). -/
def chainRow (q : QuotaSpec) (n : Nat) : Word :=
  BitVec.ofNat 32 (2 ^ 27 + q.core % 64 * 2 ^ 20 + 8192 * (q.rowLo + n))

/-- The node that the crew in focus serves. -/
def State.nodeHere (s : State) : Option Node := (s.graph (64 * s.crew.part + s.crew.handle)).node s.crew.node

/-- The contents of a CSR (R155), but for SLIP and the time base. -/
def State.csr (s : State) (n : Nat) : Word :=
  let c := s.crew
  let q := s.quotaHere
  match n with
  | 0x001 => s.crewInfo s.cur
  | 0x002 => BitVec.ofNat 32 c.block
  | 0x003 => BitVec.ofNat 32 (s.fabric.peer % 4096 + 65536 * (s.launch.rank s.fabric.peer % 4096))
  | 0x004 => BitVec.ofNat 32 (c.part % 16 + 16 * (s.partition c.part).sprint.toNat + 256 * (q.rowLo % 256) +
      65536 * (q.rows % 256) + 16777216 * (q.bmemLen / 4096 % 256))
  | 0x005 => q.slots.setWidth 32
  | 0x008 => (s.core (slotCore s.cur)).regcap
  | 0x009 => (s.core (slotCore s.cur)).regmap
  | 0x010 => c.trap.cause
  | 0x011 => BitVec.ofNat 32 c.trap.spc
  | 0x012 => BitVec.ofNat 32 c.trap.lpc
  | 0x013 => c.trap.run
  | 0x014 => c.trap.addr
  | 0x015 => c.trap.opnd
  | 0x016 => c.trap.addrHi
  | 0x020 => c.fsum.setWidth 32
  | 0x022 => BitVec.ofNat 32 c.spp
  | 0x023 => c.clock.extractLsb' 0 32
  | 0x024 => c.clock.extractLsb' 32 32
  | 0x025 => c.redDone ++ c.redSeq
  | 0x028 => c.asyncf.setWidth 32
  | 0x029 => c.fltq.setWidth 32
  | 0x040 => (s.queue s.qk 0).issue
  | 0x041 => (s.queue s.qk 1).issue
  | 0x042 => (s.queue s.qk 2).issue
  | 0x043 => (s.queue s.qk 3).issue
  | 0x044 => chainRow q 0
  | 0x050 => c.bndObj
  | 0x051 => c.bndBase
  | 0x052 => c.bndLen
  | 0x053 => if c.bndErr then 0x80000000 else 0
  | 0x060 => BitVec.ofNat 32 (c.node % 2 ^ 26)
  | 0x061 => c.arg.extractLsb' 0 32
  | 0x062 => c.arg.extractLsb' 32 32
  | 0x063 => c.tileY ++ c.tileX
  | 0x064 => c.gen ++ c.tileZ
  | 0x065 => match s.nodeHere with | some n => n.header | none => 0
  | 0x066 => BitVec.ofNat 32 (c.jcnt % 65536 + 65536 * (c.handle % 64))
  | 0x070 => (s.job c.job).ckStep
  | 0x071 => Word.ofBool (s.job c.job).restored
  | _ => 0

/-- A read of a CSR that waits for nothing: SLIP has gone up by the misses since its last read (log entry 29); the time
base is a value from outside the program (R422). -/
def State.csrRead (s : State) (n : Nat) : Word × State :=
  if n = 0x030 then
    let v := s.crew.slip + Config.misses s.choices
    (v, { s.updCrew fun c => { c with slip := v } with choices := s.choices + 1 })
  else if n = 0x032 ∨ n = 0x033 then
    let r := s.extern 0x3C ((s.heat.time.extractLsb' (if n = 0x032 then 0 else 32) 32).setWidth 64)
    (r.1.setWidth 32, r.2)
  else (s.csr n, s)

/-- CSR.rd but for FSUM's wait. -/
def State.csrReadTo (s : State) (d : RegNo) (n : Nat) : State :=
  match s.csrReject false n with
  | some k => s.csrTrap k n
  | none =>
    let r := s.csrRead n
    r.2.write d r.1

/-- A read of FSUM, which waits for the crew's lane work (R153, R155). -/
def execFsumRead (d : RegNo) (s : State) : Result :=
  if !s.crew.lanesIdle then .next (s.stay .lanes) else .next (s.csrReadTo d 0x020)

/-- CSR.rd (R155). -/
def execCsrRd (d : RegNo) (n : BitVec 12) (s : State) : Result :=
  if n = 0x020 && !s.crew.lanesIdle then .next (s.stay .lanes) else .next (s.csrReadTo d n.toNat)

/-- CSR.wr of register n once it may be written: ok says whether the value is accepted, put writes it; sD receives the
old value (R155). -/
def State.csrWriteTo (s : State) (d : RegNo) (n : Nat) (ok : Bool) (put : Crew → Crew) : State :=
  match s.csrReject true n with
  | some k => s.csrTrap k n
  | none => if ok then (s.updCrew put).write d (s.csr n) else s.csrTrap 4 n

/-- A write of FSUM: after the wait, FSUM is replaced and the lane flag words stay (R155). -/
def execFsumWrite (d a : RegNo) (s : State) : Result :=
  if !s.crew.lanesIdle then .next (s.stay .lanes)
  else
    let v := s.sreg a
    .next (s.csrWriteTo d 0x020 true fun c => { c with fsum := v.setWidth 6 })

/-- A write of SPP: a multiple of 8 inside the crew's spill stack (R155). -/
def execSppWrite (d a : RegNo) (s : State) : Result :=
  let v := (s.sreg a).toNat
  let c := s.crew
  .next (s.csrWriteTo d 0x022 (v % 8 == 0 && decide (c.spillLo ≤ v) && decide (v ≤ c.spillHi)) fun c => { c with spp := v })

/-- A write of ASYNCF clears the bits written as one (R155). -/
def execAsyncfWrite (d a : RegNo) (s : State) : Result :=
  let v := s.sreg a
  .next (s.csrWriteTo d 0x028 true fun c => { c with asyncf := c.asyncf &&& ~~~(v.setWidth 7) })

/-- A handler's write of TRAPSPC: a word of .scalar (R207). -/
def execTrapspcWrite (d a : RegNo) (s : State) : Result :=
  let v := (s.sreg a).toNat
  .next (s.csrWriteTo d 0x011 (s.launch.scalarTarget v) fun c => { c with trap := { c.trap with spc := v } })

/-- A handler's write of TRAPLPC: an instruction of .lane (R207). -/
def execTraplpcWrite (d a : RegNo) (s : State) : Result :=
  let v := (s.sreg a).toNat
  .next (s.csrWriteTo d 0x012 (v % 12 == 0 && decide (v + 12 ≤ s.launch.laneLen)) fun c =>
    { c with trap := { c.trap with lpc := v } })

/-! ## The chain tail (R220) -/

/-- The entries with the next n tickets issued into a copy queue, as they stand in the chain. -/
def State.issueChain (s : State) (q : Nat) : Nat → State
  | 0 => s
  | n + 1 => (s.enqueue s.qk q (s.newEntry 0 0 0)).1.issueChain q n

/-- A write of QTAILn (R220). -/
def execQtailWrite (n : BitVec 2) (d a : RegNo) (s : State) : Result :=
  if !s.crew.lanesIdle then .next (s.stay .lanes)
  else
    let v := s.sreg a
    let u := s.queue s.qk n.toNat
    let k := (v - u.issue).toNat
    if 1 ≤ k ∧ k ≤ 128 ∧ (v - u.seq).toNat ≤ 128 then
      .next ((s.drain.issueChain n.toNat k).write d u.issue)
    else .next (s.csrTrap 4 (0x040 + n.toNat))

/-! ## Bindings (R27, R156) -/

/-- Whether two granule ranges of one space overlap. -/
def Binding.overlaps (a b : Binding) : Bool :=
  a.regSpad == b.regSpad && decide (a.regOff < b.regOff + 64 * b.granules) &&
    decide (b.regOff < a.regOff + 64 * a.granules)

/-- Whether two bindings name the same region base and the same object. -/
def Binding.names (a b : Binding) : Bool :=
  a.objSpad == b.objSpad && a.objOff == b.objOff && a.regSpad == b.regSpad && a.regOff == b.regOff

/-- The binding that the crew's registers name, when its addresses pass R133, its object is 8-byte aligned, its region is
aligned to 64 bytes and, for a request to bind, 1 to 2^20 granules long and inside its space. -/
def State.bindingHere (s : State) (bind : Bool) : Option Binding :=
  let c := s.crew
  let n := c.bndLen.toNat
  match s.scalarAddr s.cur c.bndObj, s.scalarAddr s.cur c.bndBase with
  | some o, some r =>
    if o.off % 8 = 0 ∧ r.off % 64 = 0 ∧
        (!bind ∨ (1 ≤ n ∧ n ≤ 2 ^ 20 ∧ (s.place s.cur r.spad r.off (64 * n)).isSome)) then
      some ⟨o.spad, o.off, r.spad, r.off, n⟩
    else none
  | _, _ => none

/-- The binding table after a command; none where the request is rejected (R156). -/
def Launch.command (l : Launch) (cmd : Nat) (b : Binding) : Option (List Binding) :=
  if cmd = 1 then
    if 256 ≤ l.bindings.length ∨ l.bindings.any b.overlaps then Option.none else some (l.bindings ++ [b])
  else if cmd = 2 then
    if l.bindings.any b.names then some (l.bindings.eraseP b.names) else Option.none
  else Option.none

/-- A write of BNDCMD: the window drains, then the request is accepted or sets the error bit (R156). -/
def State.bindWrite (s : State) (d : RegNo) (cmd : Nat) : State :=
  let old := s.csr 0x053
  let s := s.drain
  let after := match s.bindingHere (cmd = 1) with | some b => s.launch.command cmd b | none => none
  match after with
  | some t =>
    let s := s.updLaunch s.crew.launch fun l => { l with bindings := t }
    (s.updCrew fun c => { c with bndErr := false }).write d old
  | none => (s.updCrew fun c => { c with bndErr := true }).write d old

/-- BNDCMD with command 1 (R156). -/
def execBndcmdBind (d _a : RegNo) (s : State) : Result := .next (s.bindWrite d 1)
/-- BNDCMD with command 2 (R156). -/
def execBndcmdUnbind (d _a : RegNo) (s : State) : Result := .next (s.bindWrite d 2)

/-- CSR.wr (R155). The registers with an operation of their own are written by it. -/
def execCsrWr (d a : RegNo) (n : BitVec 12) (s : State) : Result :=
  let v := s.sreg a
  match n.toNat with
  | 0x020 => execFsumWrite d a s
  | 0x022 => execSppWrite d a s
  | 0x028 => execAsyncfWrite d a s
  | 0x011 => execTrapspcWrite d a s
  | 0x012 => execTraplpcWrite d a s
  | 0x040 => execQtailWrite 0 d a s
  | 0x041 => execQtailWrite 1 d a s
  | 0x042 => execQtailWrite 2 d a s
  | 0x043 => execQtailWrite 3 d a s
  | 0x053 => .next (s.bindWrite d (v.toNat % 4))
  | 0x010 => .next (s.csrWriteTo d 0x010 true fun c => { c with trap := { c.trap with cause := v } })
  | 0x029 => .next (s.csrWriteTo d 0x029 true fun c => { c with fltq := v.setWidth 8 })
  | 0x050 => .next (s.csrWriteTo d 0x050 true fun c => { c with bndObj := v })
  | 0x051 => .next (s.csrWriteTo d 0x051 true fun c => { c with bndBase := v })
  | 0x052 => .next (s.csrWriteTo d 0x052 true fun c => { c with bndLen := v })
  | k => .next (s.csrWriteTo d k false id)

end Sys2Proof.Machine
end

