-- ==== Sys2Proof/Machine/Links.lean ====
section
/-! DEFINITION. The rotor timetable, links, flits, virtual channels, routes, feathering and squaring, port timestamps and
LNK (R330 to R345). -/

namespace Sys2Proof.Machine

/-! ## Slots and maps (R330, R331) -/

/-- ns of a rotor slot, and of its dark time and setup. -/
def slotNs : Nat := 1600
/-- The light start of slot k (R330). -/
def lightAt (k : Nat) : Nat := slotNs * k + 100
/-- The end of the setup of slot k. -/
def setupAt (k : Nat) : Nat := slotNs * k + 120
/-- The first slot from k on that uses a matching. -/
def nextMatching (k m : Nat) : Nat := k + (m + 8 - k % 8) % 8

/-- The slot that the time base lies in. -/
def State.nowSlot (s : State) : Nat := s.heat.time.toNat / slotNs
/-- Whether the slot in force is alight now: its light has begun, and its end has not come (R330). -/
def State.inLight (s : State) : Bool := s.fabric.light && s.nowSlot == s.fabric.slot
/-- The matching of the slot in force. -/
def State.matching (s : State) : Nat := s.fabric.slot % 8
/-- The far end of a fibre in a matching. -/
def State.farEnd (s : State) (key : Nat) : Option Nat :=
  match mapFind s.fabric.rotor key with | some (n + 1) => some n | _ => none
/-- The key 8 × fibre + matching of the link to a peer. -/
def State.linkTo (s : State) (peer : Nat) : Option Nat := (s.fabric.rotor.find? fun x => x.2 == peer + 1).map Prod.fst

/-- A link. -/
def State.link (s : State) (key : Nat) : Link := mapGet Link.dark s.fabric.links key
/-- The state with a link changed by f. -/
def State.updLink (s : State) (key : Nat) (f : Link → Link) : State :=
  s.updFabric fun x => { x with links := mapSet Link.dark x.links key (f (s.link key)) }
/-- The keys of the links that the slot in force lights. -/
def State.litLinks (s : State) : List Nat := (s.fabric.rotor.map Prod.fst).filter fun k => k % 8 == s.matching
/-- Whether a link carries flits now: alight, set up, and the far end heard in the setup (R334). -/
def State.linkOpen (s : State) (key : Nat) : Bool := s.inLight && (s.link key).heard && (s.link key).isOver

/-! ## Fibre groups (R340 to R342, R345) -/

/-- A fibre group. -/
def State.fibreGroup (s : State) (g : Nat) : Group := mapGet Group.reset s.fabric.groups g
/-- The state with a fibre group changed by f. -/
def State.updFibreGroup (s : State) (g : Nat) (f : Group → Group) : State :=
  s.updFabric fun x => { x with groups := mapSet Group.reset x.groups g (f (s.fibreGroup g)) }
/-- The group of a link. -/
def groupOf (key : Nat) : Nat := key / 64
/-- The depth of a group: flits routed to its fibres and not yet sent (R340). -/
def State.depth (s : State) (g : Nat) : Nat :=
  s.fabric.links.foldl (fun n l => if groupOf l.1 = g then n + l.2.queue.length else n) 0
/-- Whether a group is to be at full width: depth at WTHR, or a hold (R342). -/
def State.wide (s : State) (g : Nat) : Bool :=
  decide ((s.fibreGroup g).wthr ≤ s.depth g) || !(s.fibreGroup g).holders.isEmpty
/-- A feathering is abandoned when the depth reaches WTHR or a hold is placed before the park (R341). -/
def State.keepWide (s : State) (g : Nat) : State :=
  if (s.fibreGroup g).state = 2 && s.wide g then
    s.updFibreGroup g fun x => { x with state := 0, stage := 0, tgt := x.lit }
  else s
/-- The time at which a group's depth became zero is noted: it was not before (R341). -/
def State.noteIdle (s before : State) : State :=
  (s.fabric.links.map fun l => groupOf l.1).eraseDups.foldl (fun s g =>
    if before.depth g ≠ 0 && s.depth g = 0 then s.updFibreGroup g fun x => { x with idleAt := s.heat.time } else s) s

/-- Whether no fibre of a group is amid a flit: a flit boundary (R333). -/
def State.groupBoundary (s : State) (g : Nat) : Bool :=
  s.fabric.links.all fun l => groupOf l.1 != g || decide (l.2.freeAt ≤ 7 * s.heat.time.toNat)
/-- Whether the width handshake of a group has ended: 100 ns after it began, and no dark time between (R342). -/
def State.handshakeDone (s : State) (g : Nat) : Bool :=
  let t := (s.fibreGroup g).since.toNat
  decide (t + 100 ≤ s.heat.time.toNat) && decide (t + 100 ≤ slotNs * (t / slotNs + 1))

/-- SQUARE_START (R342): the squaring begins, or the firmware defers it for want of power; a deferred one whose reason
has gone is dropped. -/
def execSquareStart (group : Nat) (s : State) : Result :=
  let g := s.fibreGroup group
  if group < 64 ∧ g.lit < 8 ∧ (g.state = 0 ∨ g.state = 3) then
    if s.wide group then
      let c := s.choose
      .next (c.2.updFibreGroup group fun x =>
        if c.1 then { x with state := 3, tgt := 8 } else { x with state := 1, tgt := 8, stage := 0, since := s.heat.time })
    else .next (s.updFibreGroup group fun x => { x with state := 0, tgt := x.lit })
  else .next s

/-- WIDTH_HANDSHAKE (R341, R342): of a squaring after 1,500 ns, or of a feathering, during light. One that dark time has
ended begins again at the light start. -/
def execWidthHandshake (group : Nat) (s : State) : Result :=
  let g := s.fibreGroup group
  .next (if s.inLight && ((g.state = 1 && ((g.stage = 0 && s.passed g.since 1500) || g.stage = 1)) ||
      (g.state = 2 && g.stage ≤ 1)) then
    s.updFibreGroup group fun x =>
      { x with stage := 2, since := if g.stage = 1 then BitVec.ofNat 64 (lightAt s.fabric.slot) else s.heat.time }
  else s)

/-- A handshake that met dark time is abandoned (R342). -/
def State.dropHandshake (s : State) (g : Nat) : State :=
  let t := (s.fibreGroup g).since.toNat
  if (s.fibreGroup g).stage = 2 && decide (slotNs * (t / slotNs + 1) < t + 100) then
    s.updFibreGroup g fun x => { x with stage := 1 }
  else s

/-- SQUARE_COMPLETE (R342): at a flit boundary after the handshake. -/
def execSquareComplete (group : Nat) (s : State) : Result :=
  let g := s.fibreGroup group
  .next (if g.state = 1 && g.stage = 2 then
    if s.handshakeDone group && s.groupBoundary group then
      s.updFibreGroup group fun x => { x with lit := 8, tgt := 8, state := 0, stage := 0, idleAt := s.heat.time }
    else s.dropHandshake group
  else s)

/-- FEATHER_START (R341). -/
def execFeatherStart (group : Nat) (s : State) : Result :=
  let g := s.fibreGroup group
  .next (if group < 64 && g.state = 0 && g.fmin < g.lit && s.depth group = 0 && g.holders.isEmpty &&
      s.passed g.idleAt g.fhold then
    s.updFibreGroup group fun x => { x with state := 2, tgt := x.fmin, stage := 0, since := s.heat.time }
  else s)

/-- FEATHER_PARK (R341): at a flit boundary after the handshake the group runs at FMIN, and its other lasers are parked. -/
def execFeatherPark (group : Nat) (s : State) : Result :=
  let g := s.fibreGroup group
  .next (if g.state = 2 && g.stage = 2 then
    if s.handshakeDone group && s.groupBoundary group then
      s.updFibreGroup group fun x => { x with lit := x.fmin, tgt := x.fmin, state := 0, stage := 0 }
    else s.dropHandshake group
  else s)

/-- The parameters of a group that the firmware sets, each in its range: WTHR, FHOLD in steps of 1.6 µs, FMIN (R340). -/
def Group.param (g : Group) (reg v : Nat) : Group :=
  match reg with
  | 0 => if 1 ≤ v ∧ v ≤ 65535 then { g with wthr := v } else g
  | 1 => if 1 ≤ v ∧ v ≤ 1000 then { g with fhold := 1600 * v } else g
  | 2 => if v = 1 ∨ v = 2 ∨ v = 4 then { g with fmin := v } else g
  | _ => g

/-! ## Flits (R332, R333, R335) -/

/-- Bytes 0 to 155 of a flit (R332). -/
def flitBytes (x : Flit) : List Byte :=
  leBytes 1 x.ctl.toNat ++ leBytes 1 x.kind.toNat ++ leBytes 2 x.heat.toNat ++ leBytes 2 x.src.toNat ++
    leBytes 2 x.dst.toNat ++ leBytes 4 x.fseq.toNat ++ leBytes 2 x.len.toNat ++ leBytes 2 x.lseq.toNat ++
    leBytes 8 x.aux.toNat ++ leBytes 128 x.payload.toNat ++ leBytes 4 x.ack.toNat

/-- The beats of a flit on a link of width w: wavelength and the 20 bytes, beat i on λ(i mod w) (R333). -/
def flitBeats (w : Nat) (x : Flit) : List (Nat × List Byte) :=
  let wire := flitBytes x ++ leBytes 4 x.crc.toNat
  (List.range 8).map fun i => (i % w, (wire.drop (20 * i)).take 20)

/-- The time of a flit on a link of width w, in sevenths of a ns: ⌈8 ÷ w⌉ beat times of 10/7 ns (R333). -/
def flitTime (w : Nat) : Nat := 10 * ((8 + w - 1) / w)

/-- The first point of the slot's beat grid at or after now, in sevenths of a ns; the grid begins when the setup ends. -/
def State.gridPoint (s : State) : Nat :=
  let origin := 7 * setupAt s.fabric.slot
  origin + (7 * s.heat.time.toNat - origin + 9) / 10 * 10

/-- VC code of a flit. -/
def flitVc (x : Flit) : Nat := (x.ctl.extractLsb' 0 3).toNat
/-- The flit on a VC, RELAYED set or clear. -/
def flitOn (x : Flit) (vc : Nat) (relayed : Bool) : Flit :=
  { x with ctl := (x.ctl &&& 0xF0#8) ||| BitVec.ofNat 8 (vc % 8) ||| (if relayed then 0x08#8 else 0) }
/-- Whether two flits have one place in one stream (SRC, DST, VC), the VC being that of the packet's kind. -/
def flitSame (x y : Flit) : Bool :=
  x.src == y.src && x.dst == y.dst && kindVc x.kind == kindVc y.kind && x.fseq == y.fseq

/-- Whether a flit passes the checks on arrival: CRC, zero fields, VC code (R332). -/
def flitSound (x : Flit) : Bool :=
  x.crc == crc32c (flitBytes x) && x.src.extractLsb' 12 4 == 0 && x.dst.extractLsb' 12 4 == 0 &&
    decide (x.payload.toNat < 2 ^ (8 * x.len.toNat)) &&
    (x.ctl.extractLsb' 6 2 == 0 || marksData x.kind || x.kind == kForward) && decide ((flitVc x) ≤ 4)

/-- Whether ACK covers a link sequence. -/
def ackCovers (ack : Word) (lseq : BitVec 16) : Bool := ack != 0xFFFFFFFF && decide (lseq.toNat ≤ ack.toNat)

/-- The flits that the package keeps: in egress, in the queues of the links, sent and not acknowledged. -/
def Fabric.kept (f : Fabric) : List Flit := f.egress ++ f.links.flatMap fun l => l.2.queue ++ l.2.unacked ++ l.2.old

/-- The key of a flit's stream from this package: 8 × destination + VC. -/
def streamOf (x : Flit) : Nat := 8 * x.dst.toNat + kindVc x.kind
/-- Whether a flit may belong to the packet of a route: a packet has at most 33 flits (R350). -/
def Route.holds (r : Route) (x : Flit) : Bool := r.stream == streamOf x && decide ((x.fseq - r.first).toNat < 64)

/-- Flits that an ACK has covered are kept nowhere any more, nor are the routes of packets of which none is left (R335). -/
def State.forget (s : State) (fs : List Flit) : State :=
  if fs.isEmpty then s else
    let left (l : List Flit) : List Flit := l.filter fun x => !fs.any fun y => flitSame y x
    let t := s.updFabric fun x =>
      { x with
        egress := left x.egress
        links := x.links.map fun l => (l.1, { l.2 with old := left l.2.old, queue := left l.2.queue, unacked := left l.2.unacked }) }
    let kept := t.fabric.kept
    (t.updFabric fun x => { x with routes := x.routes.filter fun r => kept.any r.holds }).noteIdle s

/-! ## Ingress buffers (R336, R339) -/

/-- The ingress buffer of a fibre for each VC code, in flits (R336). -/
def ingressCap : Nat → Nat
  | 0 => 64 | 1 => 32 | 2 => 64 | 3 => 64 | 4 => 4 | _ => 0

/-- Flits that the relay buffer holds at most: 512 MiB of 160 bytes each (R339). -/
def relayCap : Nat := 2 ^ 29 / 160

/-- Free ingress buffer of a fibre for a VC: none for RLY when the relay buffer is more than 15/16 full (R334, R339). -/
def State.freeSpace (s : State) (fibre vc : Nat) : Nat :=
  if vc = 3 ∧ 15 * relayCap < 16 * s.fabric.relay.length then 0
  else ingressCap vc - (s.fabric.ingress.filter fun x => x.1 == fibre && (flitVc x.2) == vc).length

/-- The free space of a fibre by VC code, as a beat carries it. -/
def State.ingress (s : State) (fibre : Nat) : List (Nat × Nat) := (List.range 5).map fun v => (v, s.freeSpace fibre v)

/-! ## What a port may send (R334, R336, R337) -/

/-- Unacknowledged flits of the stream of a flit. -/
def State.inStream (s : State) (x : Flit) : Nat :=
  s.fabric.links.foldl (fun n l =>
    n + ((l.2.unacked ++ l.2.old).filter fun y => y.dst == x.dst && y.src == x.src && kindVc y.kind == kindVc x.kind && !flitSame y x).length) 0

/-- The flit of a VC that a port may send: first in the queue, with space at the far end, fewer than 32,768 of its stream
unacknowledged, and only TIM while TSUSP is set (R334, R335, R337, R364). -/
def State.readyFlit (s : State) (key vc : Nat) : Option Flit :=
  let l := s.link key
  match l.queue.find? fun x => (flitVc x) == vc with
  | none => none
  | some x =>
    if mapGet 0 l.space vc = 0 || 32768 ≤ s.inStream x || (s.heat.tsusp && vc != 4) then none else some x

/-- The times since which each VC of an open link has a flit ready (R337). -/
def State.noteReady (s : State) (key : Nat) : State :=
  if s.linkOpen key then
    s.updLink key fun l => { l with readyAt := (List.range 5).filterMap fun v =>
      if (s.readyFlit key v).isSome then some (v, match mapFind l.readyAt v with | some t => t | none => s.heat.time) else none }
  else s

/-- The numbers of a list by VC code. -/
def bySpace (space : List Nat) : List (Nat × Nat) := (List.range 5).map fun v => (v, space.getD v 0)

/-- One flit of space for each of some flits given back (log entry 122). -/
def giveSpace (space : List (Nat × Nat)) (fs : List Flit) : List (Nat × Nat) :=
  fs.foldl (fun m x => mapSet 0 m (flitVc x) (mapGet 0 m (flitVc x) + 1)) space

/-- The link with its unacknowledged flits at the head of the queue, to be sent again (R335). -/
def Link.resend (l : Link) : Link :=
  { l with
    queue := l.unacked ++ l.queue, unacked := [], space := giveSpace l.space l.unacked
    lseq := match l.unacked with | x :: _ => x.lseq.toNat | [] => l.lseq }

/-- An ACK of the current light taken by a link. The flits it covers are kept no longer, and where it comes with a flit it
gives their space back (log entry 122). An ACK heard twice in a row, with flits unacknowledged that were sent before it was
heard first, shows a discard or a gap: every flit after it is sent again (R335; log entry 123). -/
def State.takeAck (s : State) (key : Nat) (ack : Word) (credit : Bool) : State :=
  let l := s.link key
  let done := l.unacked.filter fun x => ackCovers ack x.lseq
  let gap := done.isEmpty && ack == l.lastAck && l.unacked.any fun x => decide (x.lseq.toNat < l.ackMark)
  let s := (s.forget done).updLink key fun l =>
    { l with lastAck := ack, ackMark := l.lseq, space := if credit then giveSpace l.space done else l.space }
  if gap then (s.updLink key Link.resend).keepWide (groupOf key) else s

/-! ## Slot events (R330, R334, R335) -/

/-- ROTOR_SLOT_START: the slot that the time base has reached begins, dark (R330). -/
def execRotorSlotStart (s : State) : Result :=
  .next (if !s.fabric.light && s.fabric.slot < s.nowSlot then s.updFabric fun x => { x with slot := s.nowSlot } else s)

/-- The beat that an end of a link sends, with an ACK (R334). -/
def State.beat (s : State) (key : Nat) (ack : Word) : Beat :=
  ⟨(s.fibreGroup (groupOf key)).lit, s.ingress (key / 8), ack, s.heat.time⟩

/-- LIGHT_START: the light of the slot begins, each linked port sends a link-control beat whose ACK is that of its
previous link to this peer, and the link's sequences start again (R330, R332, R334). -/
def execLightStart (s : State) : Result :=
  .next (if !s.fabric.light && s.nowSlot = s.fabric.slot && lightAt s.fabric.slot ≤ s.heat.time.toNat then
    let s := s.updFabric fun x => { x with light := true }
    s.litLinks.foldl (fun s k =>
      let b := s.beat k (s.link k).lastIn
      s.updLink k fun l =>
        { l with
          heard := false, isOver := false, lseq := 0, lastIn := 0xFFFFFFFF, starved := none, readyAt := [], beats := [b]
          freeAt := 0, wire := [], lastAck := 0xFFFFFFFF, ackMark := 0 }) s
  else s)

/-- LINK_CONTROL (R334): in the setup the far end's width, space and ACK of the last link; later its space and ACK. Of the
space that a later beat shows, the flits on their way take theirs. -/
def execLinkControl (fibre width : Nat) (space : List Nat) (ack : Word) (s : State) : Result :=
  let k := 8 * fibre + s.matching
  let l := s.link k
  if !s.inLight || (s.farEnd k).isNone || !List.contains [1, 2, 4, 8] width || space.length ≠ 5 then .next s
  else if s.heat.time.toNat < setupAt s.fabric.slot then
    let s := s.forget (l.old.filter fun x => ackCovers ack x.lseq)
    .next (s.updLink k fun l =>
      { l with heard := true, width := width, space := bySpace space, shown := bySpace space, old := [] })
  else if l.heard then
    let s := s.takeAck k ack false
    let taken (v : Nat) : Nat := ((s.link k).unacked.filter fun x => (flitVc x) == v).length
    .next ((s.updLink k fun l =>
      { l with space := (bySpace space).map (fun x => (x.1, x.2 - taken x.1)), shown := bySpace space }).noteReady k)
  else .next s

/-- SETUP_END (R334). -/
def execSetupEnd (fibre : Nat) (s : State) : Result :=
  let k := 8 * fibre + s.matching
  .next (if s.inLight && (s.farEnd k).isSome && !(s.link k).isOver && setupAt s.fabric.slot ≤ s.heat.time.toNat then
    (s.updLink k fun l => { l with isOver := true }).noteReady k
  else s)

/-! ## Routes (R338, R339) -/

/-- The light start of the first slot, from the one in force on, that links the package to a peer, and the link. -/
def State.direct (s : State) (peer : Nat) : Option (Nat × Nat) :=
  (s.linkTo peer).map fun k => (lightAt (nextMatching s.nowSlot (k % 8)), k)

/-- Whether the peer entry of the running heat's partition forbids relaying to a destination (R346). -/
def State.relayBarred (s : State) (heat : BitVec 16) (dst : Nat) : Bool :=
  match s.heat.running.find? fun r => r.heatno.setWidth 16 == heat with
  | some r =>
    let e := mapGet ⟨false, true, 0⟩ s.fabric.peers (4096 * r.part + dst)
    e.valid && !e.relay
  | none => false

/-- The relay peers for a destination, each with t2 (R338): link open at t1 before tD whose last advertised RLY space is
not zero, then the relay's first slot to the destination after t1. -/
def State.relays (s : State) (dst tD : Nat) : List (Nat × Nat) :=
  s.fabric.rotor.filterMap fun x =>
    let r := x.2 - 1
    let k1 := nextMatching s.nowSlot (x.1 % 8)
    if x.2 = 0 ∨ r = dst ∨ tD ≤ lightAt k1 ∨ mapGet 0 (s.link x.1).shown 3 = 0 then none
    else match mapFind s.fabric.domain (4096 * r + dst) with
      | some (m + 1) => some (lightAt (nextMatching (k1 + 1) m), r)
      | _ => none

/-- The least (t2, peer). -/
def leastRelay : List (Nat × Nat) → Option (Nat × Nat)
  | [] => none
  | x :: rest => match leastRelay rest with
    | some y => if x.1 < y.1 ∨ (x.1 = y.1 ∧ x.2 < y.2) then some x else some y
    | none => some x

/-- The route of a flit: the relay peer + 1, or 0 (R338). -/
def State.routeOf (s : State) (x : Flit) (tD : Nat) : Nat :=
  if kindVc x.kind = 4 ∨ x.ctl.getLsbD 3 ∨ tD ≤ s.heat.time.toNat + s.fabric.rthr ∨ s.relayBarred x.heat x.dst.toNat then 0
  else match leastRelay (s.relays x.dst.toNat tD) with
    | some y => if tD ≤ y.1 then 0 else y.2 + 1
    | none => 0

/-- The route that was chosen for the first flit of a flit's packet: of its stream, the one whose first flit is nearest
below. -/
def nearestRoute (x : Flit) : List Route → Option Route
  | [] => none
  | r :: rest =>
    let b := nearestRoute x rest
    if r.holds x then
      match b with
      | some y => if (x.fseq - r.first).toNat ≤ (x.fseq - y.first).toNat then some r else some y
      | none => some r
    else b

/-- A flit put into the queue of a link. -/
def State.queueFlit (s : State) (key : Nat) (x : Flit) : State :=
  ((s.updLink key fun l => { l with queue := l.queue ++ [x] }).keepWide (groupOf key)).noteReady key

/-- A flit routed: every flit of a packet takes the route of its first (R338). A flit to a peer that the map does not
hold goes nowhere. -/
def State.routeFlit (s : State) (x : Flit) : State :=
  match s.direct x.dst.toNat with
  | none => s
  | some d =>
    if x.ctl.getLsbD 3 then s.queueFlit d.2 x
    else
      let first := x.ctl.getLsbD 4
      let via := match (if first then none else nearestRoute x s.fabric.routes) with
        | some r => r.via
        | none => s.routeOf x d.1
      let new : Route := ⟨streamOf x, x.fseq, via⟩
      let s := if first then
          s.updFabric fun f => { f with routes := new :: f.routes.filter fun r => !(r.stream == new.stream && r.first == new.first) }
        else s
      match via with
      | 0 => s.queueFlit d.2 x
      | r + 1 => match s.linkTo r with
        | some k => s.queueFlit k (flitOn x 3 true)
        | none => s.queueFlit d.2 x

/-- Whether a flit of the relay buffer may leave it: its heat is none, runs here, or does not stand on the sheet; that of
another heat is held (R339, R388; log entry 81). -/
def State.relayGoes (s : State) (x : Flit) : Bool := x.heat == 0 || s.heatRuns x.heat || !s.heatStands x.heat

/-- FLIT_EGRESS: the oldest flit that enters egress is routed; where none does, the oldest of the relay buffer that is not
held leaves it on its original VC (R338, R339). -/
def execFlitEgress (s : State) : Result :=
  .next (match s.fabric.egress with
    | x :: rest => (s.updFabric fun f => { f with egress := rest }).routeFlit x
    | [] => match s.fabric.relay.find? s.relayGoes with
      | some x => (s.updFabric fun f => { f with relay := f.relay.erase x }).routeFlit (flitOn x (kindVc x.kind) true)
      | none => s)

/-! ## Receiving (R332, R335, R336, R339, R343, R350) -/

/-- Whether FSEQ b lies at or below a, modulo 2^32. -/
def seqAtMost (b a : Word) : Bool := (a - b).toNat < 2 ^ 31

/-- A flit's FSEQ accepted from its stream, once: none where it has been accepted before or lies below the window of
65,536. The highest stands first (R335). -/
def acceptSeq (seen : List Nat) (n : Word) : Option (List Nat) :=
  match seen with
  | [] => some [n.toNat]
  | hi :: rest =>
    let h := BitVec.ofNat 32 hi
    if seen.contains n.toNat then none
    else if seqAtMost n h then (if 65536 ≤ (h - n).toNat then none else some (hi :: n.toNat :: rest))
    else some (n.toNat :: (seen.filter fun v => decide ((n - BitVec.ofNat 32 v).toNat < 65536)))

/-- The flit of a stream at an FSEQ. -/
def State.partialFlit (s : State) (x : Flit) (n : Word) : Option Flit :=
  s.fabric.partials.find? fun y => flitSame y { x with fseq := n }

/-- The flits of a packet from one of them back to its first; none where one is missing. -/
def State.backTo (s : State) : Nat → Flit → Option Flit
  | 0, _ => none
  | n + 1, x => if x.ctl.getLsbD 4 then some x else
    match s.partialFlit x (x.fseq - 1) with | some y => s.backTo n y | none => none

/-- The flits of a packet from a flit on to its last; none where one is missing. -/
def State.onTo (s : State) : Nat → Flit → Option (List Flit)
  | 0, _ => none
  | n + 1, x => if x.ctl.getLsbD 5 then some [x] else
    match s.partialFlit x (x.fseq + 1) with | some y => (s.onTo n y).map (x :: ·) | none => none

/-- The poison marks of a flit's two payload halves: CTL[7:6] of write data, AUX[31:30] of a response (log entry 124). -/
def flitMark (x : Flit) (h : Nat) : Bool := if carriesMark x.kind then x.aux.getLsbD (30 + h) else x.ctl.getLsbD (6 + h)

/-- The packet that flits carry (R332, R350). -/
def packetOf (fs : List Flit) (own : Nat) : Packet :=
  let x := fs.headD ⟨0, 0, 0, 0, 0, 0, 0, 0, 0, 0, 0, 0⟩
  let pay := fs.flatMap fun y => (leBytes 128 y.payload.toNat).take y.len.toNat
  let marks := fs.flatMap fun y => (List.range (min 128 y.len.toNat)).map fun i => flitMark y (i / 64)
  let head := hasHeader x.kind
  let field (o n : Nat) : Nat := leNat ((pay.drop o).take n)
  let opw := field 24 4
  { kind := x.kind, heat := x.heat, src := x.src.toNat, dst := own
    reqid := if head then BitVec.ofNat 64 (field 8 8) else auxReqid x.kind x.aux
    addr := if head then BitVec.ofNat 64 (field 0 8) else 0
    sendt := if head then BitVec.ofNat 64 (field 16 8) else 0
    opw := if head then BitVec.ofNat 32 opw else 0
    len := if x.kind = kPoisoned then x.len.toNat else if head then field 28 4 else 0
    wtid := if head then opw / 2 ^ 26 else 0
    data := if head then pay.drop 32 else if carriesMark x.kind then pay else []
    pois := if head then marks.drop 32 else if carriesMark x.kind then marks else []
    held := x.kind == kReport && x.aux.getLsbD 63 }

/-- Whether a KIND code is reserved (R350, R370). -/
def kindReserved (k : BitVec 8) : Bool := k == 0 || (decide (0x0F < k) && decide (k < 0x20)) || decide (0x28 < k)

/-- A flit for this package: accepted once, and its packet delivered when all its flits have arrived; TIM flits go to
the host-die firmware with their ingress timestamp (R335, R343, R350). -/
def State.acceptFlit (s : State) (fibre : Nat) (x : Flit) : State :=
  let key := 8 * x.src.toNat + kindVc x.kind
  match acceptSeq (mapGet [] s.fabric.accepted key) x.fseq with
  | none => s
  | some seen =>
    let s := s.updFabric fun f => { f with accepted := mapSet [] f.accepted key seen }
    if kindReserved x.kind then s
    else if 0x20 ≤ x.kind then s.updFabric fun f => { f with ptp := f.ptp ++ [⟨fibre, x, s.portTime fibre⟩] }
    else
      let s := s.updFabric fun f => { f with partials := f.partials ++ [x] }
      let n := s.fabric.partials.length
      match s.backTo n x with
      | none => s
      | some first => match s.onTo n first with
        | none => s
        | some fs => s.updFabric fun f =>
          { f with partials := f.partials.filter (fun y => !fs.contains y), inbox := f.inbox ++ [packetOf fs f.peer] }

/-- The flits of a fibre's ingress buffer moved on: to this package, or into the relay buffer (R339). -/
def State.moveOn (s : State) (fibre : Nat) : State :=
  let mine := s.fabric.ingress.filter fun x => x.1 == fibre
  let s := s.updFabric fun f => { f with ingress := f.ingress.filter fun x => x.1 != fibre }
  mine.foldl (fun s x =>
    if x.2.dst.toNat = s.fabric.peer then s.acceptFlit fibre x.2
    else if x.2.ctl.getLsbD 3 then s.updFabric fun f => { f with relay := f.relay ++ [x.2] }
    else s) s

/-- Whether a flit received in order has room: in the ingress buffer of its VC, and in the relay buffer. -/
def State.hasRoom (s : State) (fibre : Nat) (x : Flit) : Bool :=
  let v := flitVc x
  decide ((s.fabric.ingress.filter fun y => y.1 == fibre && (flitVc y.2) == v).length < ingressCap v) &&
    (x.dst.toNat == s.fabric.peer || decide (s.fabric.relay.length + s.fabric.ingress.length < relayCap))

/-- FLIT_RECEIVE: outside the light and the setup nothing is received; an unsound flit is discarded; its ACK is taken; one
out of order, or without room, is discarded. A TIM flit is stamped and moves on at once; another waits in the ingress
buffer as long as the device chooses (R330, R332, R335, R336, R339; log entry 122). -/
def execFlitReceive (fibre : Nat) (x : Flit) (s : State) : Result :=
  let k := 8 * fibre + s.matching
  if !s.inLight || s.heat.time.toNat < setupAt s.fabric.slot || (s.farEnd k).isNone || !flitSound x then .next s
  else
    let s := (s.takeAck k x.ack true).noteReady k
    let l := s.link k
    if x.lseq.setWidth 32 ≠ l.lastIn + 1 || !s.hasRoom fibre x then .next s
    else
      let s := s.updLink k fun l => { l with lastIn := x.lseq.setWidth 32 }
      let s := s.updFabric fun f => { f with ingress := f.ingress ++ [(fibre, x)] }
      let c := s.choose
      .next (if kindVc x.kind ≠ 4 && c.1 then c.2 else c.2.moveOn fibre)

/-- LIGHT_END (R330, R335, R342): the ingress buffers move on, flits not acknowledged are routed again, those of other
packages directly; a handshake that meets dark time is abandoned. -/
def execLightEnd (s : State) : Result :=
  .next (if s.fabric.light && s.fabric.slot < s.nowSlot then
    let before := s
    let s := (s.fabric.ingress.map Prod.fst).eraseDups.foldl State.moveOn s
    let s := s.litLinks.foldl (fun s k =>
      let l := s.link k
      let s := s.updFabric fun x =>
        { x with egress := (l.unacked ++ l.queue).map (fun y => flitOn y (kindVc y.kind) (y.src.toNat != x.peer)) ++ x.egress }
      s.updLink k fun l => { l with old := l.unacked ++ l.old, unacked := [], queue := [], heard := false, readyAt := [] }) s
    let s := (s.updFabric fun x => { x with light := false }).noteIdle before
    (s.fabric.groups.map Prod.fst).foldl State.dropHandshake s
  else s)

/-! ## Sending (R333, R336, R337, R343) -/

/-- The VC codes by priority (R336). -/
def vcOrder : List Nat := [4, 2, 1, 3, 0]

/-- The flit that a port sends next (R337). -/
def State.nextFlit (s : State) (key : Nat) : Option Flit :=
  match (match (s.link key).starved with | some v => s.readyFlit key v | none => none) with
  | some x => some x
  | none => vcOrder.findSome? (s.readyFlit key)

/-- The width of a link: the smaller of the two lit widths (R334). -/
def State.linkWidth (s : State) (key : Nat) : Nat := min (s.fibreGroup (groupOf key)).lit (s.link key).width
/-- Whether a flit may start at the grid point that comes now: the flit before it has ended, and it ends before the light
does (R330, R333). -/
def State.flitFits (s : State) (key : Nat) : Bool :=
  let w := s.linkWidth key
  w != 0 && decide ((s.link key).freeAt ≤ s.gridPoint) && decide (s.gridPoint + flitTime w ≤ 7 * (slotNs * (s.fabric.slot + 1)))

/-- The n bytes of a number, the highest first. -/
def beBytes (n v : Nat) : List Byte := (leBytes n v).reverse

/-- Bytes of a list replaced from an offset. -/
def overlay (bs : List Byte) (o : Nat) (new : List Byte) : List Byte := bs.take o ++ new ++ bs.drop (o + new.length)

/-- Offset of an IEEE 1588 message in the payload: behind the epoch and the peer number (R370; PRESUMED, log entry 44). -/
def ptpAt : Nat := 10

/-- The egress timestamp written into AUX and, for a Sync, Pdelay_Req or Pdelay_Resp message, into originTimestamp and
correctionField (R343; the standard's layout is PRESUMED, log entry 44). -/
def State.stamp (s : State) (fibre : Nat) (x : Flit) : Flit :=
  let p := s.portTime fibre
  let t := p / 65536
  let x := { x with aux := BitVec.ofNat 64 (p % 2 ^ 64) }
  let bs := leBytes 128 x.payload.toNat
  let ty := (bs.getD ptpAt 0).toNat % 16
  if x.kind = 0x20 ∧ (ty = 0 ∨ ty = 2 ∨ ty = 3) then
    let ns := Config.domainOrigin + t
    let bs := overlay bs (ptpAt + 8) (beBytes 8 (p % 65536))
    let bs := overlay bs (ptpAt + 34) (beBytes 6 (ns / 1000000000) ++ beBytes 4 (ns % 1000000000))
    { x with payload := BitVec.ofNat 1024 (leNat bs) }
  else x

/-- The egress timestamp of a Pdelay_Req is kept for its answer (R343, R363). -/
def State.noteAsked (s : State) (fibre : Nat) (x : Flit) : State :=
  if x.kind = 0x20 ∧ ((leBytes 128 x.payload.toNat).getD ptpAt 0).toNat % 16 = 2 then
    let t := s.portTime fibre
    { s with heat := { s.heat with servo := { s.heat.servo with asked := mapSet 0 s.heat.servo.asked x.dst.toNat t } } }
  else s

/-- A flit leaves a port: what the ingress buffer holds moves on, so that the ACK gives its space back; timestamp, LSEQ,
ACK and CRC are written, and the sender keeps the flit (R332, R333, R335, R343; log entry 122). -/
def State.sendFlit (s : State) (key : Nat) (x : Flit) : State :=
  let before := s
  let s := (s.moveOn (key / 8)).noteAsked (key / 8) x
  let l := s.link key
  let y := if (flitVc x) = 4 then s.stamp (key / 8) x else x
  let y := { y with lseq := BitVec.ofNat 16 l.lseq, ack := l.lastIn }
  let y := { y with crc := crc32c (flitBytes y) }
  let w := s.linkWidth key
  let start := s.gridPoint
  let s := s.updLink key fun l =>
    { l with
      queue := l.queue.erase x, unacked := l.unacked ++ [y], lseq := l.lseq + 1
      space := mapSet 0 l.space (flitVc x) (mapGet 0 l.space (flitVc x) - 1)
      starved := if l.starved = some (flitVc x) then none else l.starved
      readyAt := l.readyAt.filter fun v => v.1 != (flitVc x)
      freeAt := start + flitTime w, wire := flitBeats w y }
  (s.noteIdle before).noteReady key

/-- FLIT_SEND (R330, R333, R334, R337). -/
def execFlitSend (fibre : Nat) (s : State) : Result :=
  let k := 8 * fibre + s.matching
  .next (if s.linkOpen k && s.flitFits k then
    match s.nextFlit k with | some x => s.sendFlit k x | none => s
  else s)

/-- VC_STARVATION: a VC that has had a flit ready for 64 flit times without sending it sends one next (R337). -/
def execVcStarvation (fibre vc : Nat) (s : State) : Result :=
  let k := 8 * fibre + s.matching
  let w := s.linkWidth k
  .next (match mapFind (s.link k).readyAt vc with
    | some t =>
      if s.linkOpen k && w != 0 && (s.readyFlit k vc).isSome && 7 * t.toNat + 64 * flitTime w ≤ 7 * s.heat.time.toNat then
        s.updLink k fun l => { l with starved := some vc }
      else s
    | none => s)

/-- IDLE_LINK_CONTROL: an end with nothing to send sends a beat 64 beat times after its last (R334). -/
def execIdleLinkControl (fibre : Nat) (s : State) : Result :=
  let k := 8 * fibre + s.matching
  let l := s.link k
  let last := match l.beats with | b :: _ => max b.time.toNat (setupAt s.fabric.slot) | [] => setupAt s.fabric.slot
  .next (if s.linkOpen k && (s.nextFlit k).isNone && 7 * last + 640 ≤ 7 * s.heat.time.toNat then
    let b := s.beat k l.lastIn
    s.updLink k fun l => { l with beats := b :: l.beats }
  else s)

/-! ## LNK (R344, R345) -/

/-- The status word of a group (R345). -/
def State.groupStatus (s : State) (g : Nat) : Word :=
  let x := s.fibreGroup g
  BitVec.ofNat 32 (x.lit % 16 + 16 * (x.tgt % 16) + 256 * (x.state % 4) + 1024 * (!x.holders.isEmpty).toNat +
    65536 * min (s.depth g) 65535)

/-- The status word as LNK reports it. -/
def State.lnkStatus (s : State) (g : Nat) : Word := if 64 ≤ g then 0xFFFFFFFF else s.groupStatus g

/-- sD := a value from outside the program (R422). -/
def State.lnkWrite (s : State) (d : RegNo) (v : Word) : State :=
  let r := s.extern 0x3A (v.setWidth 64)
  r.2.write d (r.1.setWidth 32)

/-- LNK stat (R344). -/
def execLnkStat (d a : RegNo) (s : State) : Result :=
  if s.settings.det then .next (s.illegal 9 0) else .next (s.lnkWrite d (s.lnkStatus (s.sreg a).toNat))

/-- The partition's hold on a group placed or ended; the job's context keeps the list. -/
def State.hold1 (s : State) (g : Nat) (on : Bool) : State :=
  let part := s.crew.part
  let job := s.crew.job
  let put (x : Nat) (l : List Nat) : List Nat := if on then (if l.contains x then l else x :: l) else l.filter (· != x)
  if 64 ≤ g then s
  else
    let s := s.updFibreGroup g fun x => { x with holders := put part x.holders }
    (s.updJob job fun j => { j with holds := put g j.holds }).keepWide g

/-- LNK sq and LNK rls: the status before is the result, 0 in a deterministic launch. -/
def State.lnkHold (s : State) (d a : RegNo) (on : Bool) : State :=
  let g := (s.sreg a).toNat
  let v := s.lnkStatus g
  let det := s.settings.det
  let s := s.hold1 g on
  if det then s.write d 0 else s.lnkWrite d v

/-- LNK sq (R344). -/
def execLnkSq (d a : RegNo) (s : State) : Result := .next (s.lnkHold d a true)
/-- LNK rls (R344). -/
def execLnkRls (d a : RegNo) (s : State) : Result := .next (s.lnkHold d a false)

/-- The light start of the first slot that links the package to a peer and begins at least ns after now (R344). -/
def State.lightTo (s : State) (peer ns : Nat) : Option DWord :=
  if peer = s.fabric.peer then none
  else (s.linkTo peer).map fun k =>
    let from' := s.heat.time.toNat + ns
    BitVec.ofNat 64 (lightAt (nextMatching ((from' - 100 + (slotNs - 1)) / slotNs) (k % 8)))

/-- The pair sD:sD+1 := a time from outside the program. -/
def State.lnkTime (s : State) (d : RegNo) (t : DWord) : State :=
  let r := s.extern 0x3A t
  (r.2.setSpair d r.1).done

/-- The checks of the slot and wait forms, then k on the light start, all ones where there is none. -/
def State.lnkSlot (s : State) (d a b : RegNo) (fn : Nat) (k : State → Option DWord → State) : State :=
  if s.settings.det then s.illegal 9 fn
  else if !pairOk d then s.illegal 1 d.toNat
  else if s.sreg a >>> 12 ≠ 0 then s.illegal 2 a.toNat
  else k s (s.lightTo (s.sreg a).toNat (s.sreg b).toNat)

/-- LNK slot (R344). -/
def execLnkSlot (d a b : RegNo) (s : State) : Result :=
  .next (s.lnkSlot d a b 3 fun s t => s.lnkTime d (match t with | some t => t | none => 0xFFFFFFFFFFFFFFFF))

/-- LNK wait (R344). -/
def execLnkWait (d a b : RegNo) (s : State) : Result :=
  .next (s.lnkSlot d a b 4 fun s t =>
    match s.split.wait with
    | .light w => if w ≤ s.heat.time then s.lnkTime d w else s
    | _ => match t with
      | none => s.lnkTime d 0xFFFFFFFFFFFFFFFF
      | some w => if w ≤ s.heat.time then s.lnkTime d w else s.stay (.light w))

end Sys2Proof.Machine
end

