-- ==== Sys2Proof/Machine/Sheet.lean ====
section
/-! DEFINITION. Time base and servo, heat sheet entries and their checks, starter, election, gang launch and HEAT (R363
to R375). -/

namespace Sys2Proof.Machine

/-! ## Time base (R343, R363, R364) -/

/-- The state with the servo changed by f. -/
def State.updServo (s : State) (f : Servo → Servo) : State := s.updHeat fun h => { h with servo := f h.servo }

/-- The number of n bytes of a message at an offset, the highest first. -/
def beAt (m : List Byte) (o n : Nat) : Nat := leNat ((m.drop o).take n).reverse

/-- The instant that a message's timestamp at byte 34 and its correctionField name, in 2^-16 ns since the domain origin
(the standard's layout is PRESUMED, log entry 44). -/
def messageTime (m : List Byte) : Int :=
  (Int.ofNat (beAt m 34 6 * 1000000000 + beAt m 40 4) - Int.ofNat Config.domainOrigin) * 65536 +
    (BitVec.ofNat 64 (beAt m 8 8)).toInt

/-- The own data set as an Announce gives it: priority1, quality, clockIdentity with the peer number, no steps (R363). -/
def State.ownClock (s : State) : Nat :=
  (((Config.priority1.toNat * 2 ^ 40 + Config.clockQuality.toNat) * 2 ^ 48 + Config.clockPrefix.toNat) * 2 ^ 16 +
    s.fabric.peer) * 2 ^ 16

/-- The peer of the grandmaster, none for the package itself: the least data set wins (R363). -/
def State.grandmaster (s : State) : Option Nat :=
  match s.heat.servo.best with
  | some (key, peer, _) => if key < s.ownClock then some peer else none
  | none => none

/-- An IEEE 1588 message of 54 bytes to a peer: type, sequenceId of the one it answers, timestamp. -/
def State.sendPtp (s : State) (peer type seq : Nat) (t : Nat) : State :=
  let ns := Config.domainOrigin + t / 65536
  let m := leBytes 1 type ++ List.replicate 7 0 ++ beBytes 8 (t % 65536) ++ List.replicate 14 0 ++ beBytes 2 seq ++ [0, 0] ++
    beBytes 6 (ns / 1000000000) ++ beBytes 4 (ns % 1000000000) ++ List.replicate 10 0
  s.sendTim peer 0x20 (leBytes 8 s.heat.epoch.toNat ++ leBytes 2 s.fabric.peer ++ m)

/-- What the servo makes of a message (R343, R363): an Announce names a clock, the best of which is kept; a Pdelay_Req is
answered with its egress time and, in the follow-up, its arrival; the answers give the path delay; a Sync of the
grandmaster gives the offset. -/
def State.takePtp (s : State) (x : Stamped) : State :=
  let m := (leBytes 128 x.flit.payload.toNat).drop ptpAt
  let peer := x.flit.src.toNat
  let servo := s.heat.servo
  match byteAt m 0 % 16 with
  | 0x0 =>
    if s.grandmaster = some peer then
      s.updServo fun v => { v with offset := some (Int.ofNat x.stamp - (messageTime m + mapGet 0 v.delays peer)) }
    else s
  | 0x2 => (s.sendPtp peer 0x3 (beAt m 30 2) 0).sendPtp peer 0xA (beAt m 30 2) x.stamp
  | 0x3 => s.updServo fun v => { v with answered := mapSet (0, 0) v.answered peer ((messageTime m).toNat, x.stamp) }
  | 0xA =>
    let t1 := Int.ofNat (mapGet 0 servo.asked peer)
    let a := mapGet (0, 0) servo.answered peer
    s.updServo fun v => { v with delays := mapSet 0 v.delays peer (((Int.ofNat a.2 - t1) - (Int.ofNat a.1 - messageTime m)) / 2) }
  | 0xB =>
    let key := beAt m 47 16
    s.updServo fun v => { v with best := match v.best with
      | some (k, p, t) => if key ≤ k || p == peer || s.passed t Config.announceTimeout then some (key, peer, s.heat.time) else some (k, p, t)
      | none => some (key, peer, s.heat.time) }
  | _ => s

/-- The oldest IEEE 1588 message received on a fibre. -/
def State.ptpFirst (s : State) (fibre : Nat) : Option Stamped :=
  s.fabric.ptp.find? fun x => x.fibre == fibre && x.flit.kind == 0x20

/-- PTP_MESSAGE: the oldest IEEE 1588 message received on a fibre, with its ingress timestamp, is taken by the servo (R343,
R363). The event names the message and the timestamp. -/
def execPtpMessage (fibre : Nat) (x : Flit) (stamp : Nat) (s : State) : Result :=
  let m : Stamped := ⟨fibre, x, stamp⟩
  .next (if s.ptpFirst fibre = some m then
    (s.updFabric fun f => { f with ptp := f.ptp.erase m, lastStamp := BitVec.ofNat 64 (stamp / 65536) }).takePtp m
  else s)

/-- The estimated offset from the grandmaster, in 2^-16 ns: the grandmaster itself has none. -/
def State.offset (s : State) : Option Int := if s.grandmaster.isSome then s.heat.servo.offset else some 0

/-- The time base moved forward by 2^-16 ns. -/
def Heat.forward (h : Heat) (d : Nat) : Heat :=
  let t := h.time.toNat * 65536 + h.fraction.toNat + d
  { h with time := BitVec.ofNat 64 (t / 65536), fraction := BitVec.ofNat 16 t }

/-- TIME_SERVO_CORRECTION for the offset that the servo has estimated: a step forward only while the package belongs to no running heat, else what the
servo slews from now on; the time base never runs backwards. TSUSP is set beyond ±250 ns and cleared after 16 corrections
within ±100 ns (R364). -/
def execTimeServoCorrection (offset step : Int) (fraction : BitVec 16) (s : State) : Result :=
  .next (if s.offset ≠ some offset then s
    else
      let ns : Int := 65536
      let d : Int := ns * step + fraction.toNat
      let t := s.updHeat fun h =>
        let runs := if -100 * ns ≤ offset ∧ offset ≤ 100 * ns then min (h.steadyRuns + 1) 16 else 0
        let h := if (h.running.all Running.stopped) ∧ 0 ≤ d then { h.forward d.toNat with slew := 0 } else { h with slew := d }
        { h with
          steadyRuns := runs
          tsusp := if offset < -250 * ns ∨ 250 * ns < offset then true else if runs = 16 then false else h.tsusp }
      t.litLinks.foldl State.noteReady t)

/-- Time passing: the time base with its slew, at most 100 ppm (R364). -/
def Heat.pass (h : Heat) (ns : Nat) : Heat :=
  let cap : Int := Int.ofNat (65536 * ns / 10000)
  let d : Int := max (-cap) (min cap h.slew)
  { h.forward (Int.ofNat (65536 * ns) + d).toNat with slew := h.slew - d }

/-! ## Entries (R365 to R367) -/

/-- Bytes 0 to 59 of an entry (R366). -/
def entryBytes (e : HeatEntry) : List Byte :=
  leBytes 8 e.start.toNat ++ leBytes 8 e.dur.toNat ++ leBytes 4 e.heatno.toNat ++ leBytes 4 e.job.toNat ++
    leBytes 1 e.kind.toNat ++ leBytes 1 e.flags.toNat ++ leBytes 2 e.parts.toNat ++ leBytes 2 e.failpeer.toNat ++
    leBytes 2 e.res30.toNat ++ leBytes 8 e.deadline.toNat ++ leBytes 4 e.cmap.toNat ++ leBytes 4 e.memb.toNat ++
    leBytes 4 e.seq.toNat ++ leBytes 8 e.res52.toNat

/-- The 64 bytes of an entry. -/
def entryWire (e : HeatEntry) : List Byte := entryBytes e ++ leBytes 4 e.crc.toNat

/-- n bytes of window 255. -/
def State.sheetRead (s : State) (off n : Nat) : List Byte := s.mem.bytes .hbm (sheetBase + off) n

/-- The numbers of the bits set in bytes. -/
def bitsOf (bs : List Byte) : List Nat :=
  bs.zipIdx.flatMap fun x => ((List.range 8).filter fun i => x.1.getLsbD i).map fun i => 8 * x.2 + i

/-- The members of an entry (R366). -/
def State.membersAt (s : State) (memb : Nat) : List Nat := bitsOf (s.sheetRead memb 512)
/-- The core map of a member: the maps stand in ascending peer order (R366, R392). -/
def State.coresAt (s : State) (cmap : Nat) (members : List Nat) (peer : Nat) : List Nat :=
  match members.findIdx? (· == peer) with
  | some i => bitsOf (s.sheetRead (cmap + 32 * i) 32)
  | none => []

/-- Offset of the map area, and the size of window 255 (R365). -/
def mapArea : Nat := 262144

/-- Check 1 of R367: CRC, zero fields, KIND, DUR, and maps in the map area. -/
def entryForm (e : HeatEntry) (members : Nat) : Bool :=
  e.crc == crc32c (entryBytes e) && e.res30 == 0 && e.res52 == 0 && e.flags.extractLsb' 1 7 == 0 && decide (e.kind ≤ 3) &&
    (if e.kind = 3 then e.dur == 0 && e.failpeer.extractLsb' 12 4 == 0
     else decide (1 ≤ e.dur.toNat) && decide (e.dur.toNat ≤ 2 ^ 40) && e.failpeer == 0) &&
    (e.kind == 0 || e.deadline == 0) &&
    decide (mapArea ≤ e.cmap.toNat) && decide (e.cmap.toNat + 32 * members ≤ 2 ^ 24) &&
    decide (mapArea ≤ e.memb.toNat) && decide (e.memb.toNat + 512 ≤ 2 ^ 24)

/-- Whether two entries' intervals meet. -/
def entriesMeet (a b : HeatEntry) : Bool :=
  decide (a.start.toNat < b.start.toNat + b.dur.toNat) && decide (b.start.toNat < a.start.toNat + a.dur.toNat)

/-- Check 5: no accepted normal or idle entry meets this one on a common core. -/
def State.sheetFree (s : State) (e : HeatEntry) (cores : List Nat) : Bool :=
  s.heat.sheet.all fun x => x.void || !(x.entry.kind == 0 || x.entry.kind == 2) || !entriesMeet x.entry e ||
    x.cores.all fun c => !cores.contains c

/-- The partitions that PARTS names. -/
def partsOf (e : HeatEntry) : List Nat := (List.range 16).filter fun p => e.parts.getLsbD p

/-- Check 6, first half: each partition exists, is ready and holds a quota on every core. -/
def State.partsReady (s : State) (e : HeatEntry) (cores : List Nat) : Bool :=
  (partsOf e).all fun p => (s.partition p).ready && cores.all fun c => (s.quota p c).isSome
/-- Check 6, second half: the sprint partition is ready and holds its reserve on every core. -/
def State.reserveReady (s : State) (cores : List Nat) : Bool :=
  s.parts.any fun p => p.2.ready && p.2.sprint && cores.all fun c => (s.quota p.1 c).isSome

/-- The cores of a die, in ascending order. -/
def coresOnDie (cores : List Nat) (die : Nat) : List Nat := sortBy (fun a b => a ≤ b) (cores.filter fun c => c / 64 == die)

/-- Whether a core holds what another core held: quota in slots, block memory and rows, pinned tiles, clause array. -/
def State.holdsAs (s : State) (part core : Nat) (q : QuotaSpec) (pins array : Bool) : Bool :=
  (match s.quota part core with
   | some x => x.slots == q.slots && x.bmemLo == q.bmemLo && x.bmemLen == q.bmemLen && x.rowLo == q.rowLo && x.rows == q.rows
   | none => false) &&
    ((s.core core).pinOwner == some part) == pins && ((s.core core).arrayOwner == some part) == array

/-- Whether a map names on each die as many cores as another, each holding what the one it takes over holds (R385). -/
def State.mapFits (s : State) (part : Nat) (old new : List Nat) : Bool :=
  (List.range 4).all fun d =>
    let o := coresOnDie old d
    let n := coresOnDie new d
    o.length == n.length && (o.zip n).all fun x => match s.quota part x.1 with
      | some q => s.holdsAs part x.2 q ((s.core x.1).pinOwner == some part) ((s.core x.1).arrayOwner == some part)
      | none => false

/-- The last heat of a job that stands on the sheet before an entry. -/
def State.heatBefore (s : State) (e : HeatEntry) : Option SheetEntry :=
  let mine := s.heat.sheet.filter fun x =>
    x.entry.kind == 0 && !x.void && !x.idle && x.entry.job == e.job && decide (x.entry.start < e.start)
  mine.foldl (fun b x => match b with
    | some y => if y.entry.start < x.entry.start then some x else some y
    | none => some x) none

/-- Check 8 (R367, R385): against the map of the heat that saves the job, which is the last one on the sheet before the
entry, or the one that runs, or the one that has saved it (log entry 46). -/
def State.resumeFits (s : State) (e : HeatEntry) (cores : List Nat) : Bool :=
  match s.heatBefore e, s.heat.running.find? fun r => BitVec.ofNat 32 r.job == e.job with
  | some x, _ => (partsOf x.entry).all fun p => s.mapFits p x.cores cores
  | none, some r => s.mapFits r.part r.cores cores
  | none, none =>
    let areas := s.heat.saved.filter fun a => BitVec.ofNat 32 a.job == e.job
    !areas.isEmpty && (List.range 4).all fun d =>
      let new := coresOnDie cores d
      let old := areas.filter fun a => a.die == d
      old.length == new.length && old.all fun a => match new[a.pos]? with
        | some c => s.holdsAs a.part c a.quota a.pins a.array
        | none => false

/-- What a member makes of an entry. -/
inductive EntryVerdict where
  | accept (cores members : List Nat)
  | refuse (reason : Nat)
  | ignore
  deriving DecidableEq, Repr

/-- The checks of R367 in order, for an entry that arrived at a time. -/
def State.checkEntry (s : State) (e : HeatEntry) (now : Nat) : EntryVerdict :=
  let members := s.membersAt e.memb.toNat
  let cores := s.coresAt e.cmap.toNat members s.fabric.peer
  if !entryForm e members.length then .refuse 1
  else if e.kind ≠ 3 ∧ e.start.toNat < now + 1000000 then .refuse 2
  else if e.kind = 0 ∧ e.start.toNat < e.deadline.toNat + 500000 then .refuse 1
  else if cores.isEmpty then .ignore
  else if (e.kind = 0 ∨ e.kind = 2) ∧ !s.sheetFree e cores then .refuse 3
  else if !s.partsReady e cores then .refuse 4
  else if !s.reserveReady cores then .refuse 5
  else if s.heat.tsusp then .refuse 6
  else if e.flags.getLsbD 0 ∧ !s.resumeFits e cores then .refuse 7
  else .accept cores members

/-- Save areas given for the cores of an entry's own map, each die's in ascending order (R381, R385). -/
def State.giveAreas (s : State) (e : HeatEntry) (cores : List Nat) : State :=
  let pos (c : Nat) : Nat := (cores.filter fun d => d / 64 == c / 64 && d < c).length
  if e.kind ≤ 1 then cores.foldl (fun s c => (s.giveArea (256 * e.job.toNat + 64 * (c / 64) + pos c)).2) s else s

/-- An entry that arrived at a time is checked and answered; one that stands already changes nothing (R367, R372). With an
entry accepted the operating system has given the job its save areas (R381; log entry 35). -/
def State.entryArrives (s : State) (e : HeatEntry) (time : DWord) : State :=
  if s.heat.sheet.any fun x => x.entry == e then s
  else match s.checkEntry e time.toNat with
  | .accept cores members =>
    let s := s.updHeat fun h =>
      { h with sheet := h.sheet ++ [⟨e, cores, members, false, false, false, e.kind == 2⟩] }
    let s := s.giveAreas e cores
    if e.kind = 0 then s.tell 0x23 e.heatno e.seq 0 s.heat.starter else s
  | .refuse r => if e.kind = 0 then s.tell 0x24 e.heatno e.seq r s.heat.starter else s
  | .ignore => s

/-- HEAT_SHEET_ENTRY: an entry from the starter of the highest epoch known is written into the ring and checked as it
arrives; one from another package is not accepted (R365, R367, R371). -/
def execHeatSheetEntry (e : SentEntry) (s : State) : Result :=
  .next (if s.starts e.peer then
    { s with mem := s.mem.store .hbm (sheetBase + 64 * (e.entry.seq.toNat % 4096)) (entryWire e.entry) }.entryArrives
      e.entry s.heat.time
  else s)

/-- The entry that 64 bytes hold. -/
def entryOfBytes (bs : List Byte) : HeatEntry :=
  let w (o n : Nat) : Nat := leAt bs o n
  { start := BitVec.ofNat 64 (w 0 8), dur := BitVec.ofNat 64 (w 8 8), heatno := BitVec.ofNat 32 (w 16 4), job := BitVec.ofNat 32 (w 20 4)
    kind := BitVec.ofNat 8 (w 24 1), flags := BitVec.ofNat 8 (w 25 1), parts := BitVec.ofNat 16 (w 26 2)
    failpeer := BitVec.ofNat 16 (w 28 2), res30 := BitVec.ofNat 16 (w 30 2), deadline := BitVec.ofNat 64 (w 32 8)
    cmap := BitVec.ofNat 32 (w 40 4), memb := BitVec.ofNat 32 (w 44 4), seq := BitVec.ofNat 32 (w 48 4)
    res52 := BitVec.ofNat 64 (w 52 8), crc := BitVec.ofNat 32 (w 60 4) }

/-! ## The starter (R365, R369 to R373) -/

/-- Bytes put into window 255 of a member by XPUT packets of heat 0 from the host die, one for each 4 KiB range that they
meet, under the timers of R353 (R359, R365). n bounds the number of packets. -/
def State.putSheet (s : State) (seq : Word) (m : Nat) : Nat → Nat → List Byte → State
  | 0, _, _ => s
  | n + 1, off, bs =>
    if bs.isEmpty then s
    else
      let k := 4096 - off % 4096
      let here := bs.take k
      let c := s.nextReq
      let id := s.reqid 0 31 c.1 ||| 0x4000000
      let p : Packet :=
        { kind := kPutReq, heat := 0, src := s.fabric.peer, dst := m, reqid := id
          addr := BitVec.ofNat 64 (m * 2 ^ 52 + 255 * 2 ^ 44 + off), sendt := 0, opw := 0, len := here.length, wtid := 0
          data := here, pois := List.replicate here.length false, held := false }
      (c.2.request
        { reqid := id, packet := p, busy := 0, timer := none, waitingRetry := false, probed := false, origin := 4, qset := 0, q := 0
          ticket := seq, index := m }).putSheet seq m n (off + k) (bs.drop k)

/-- A run of bytes put into window 255 of a member. -/
def State.putRunSheet (s : State) (seq : Word) (m off : Nat) (bs : List Byte) : State :=
  s.putSheet seq m (bs.length / 4096 + 2) off bs

/-- An entry published to its members: the member bitmap and the core maps go first; the entry itself follows when they
have been acknowledged (R365; log entry 125). -/
def State.publish (s : State) (e : HeatEntry) (members : List Nat) : State :=
  let s := s.updHeat fun h => { h with published := h.published ++ [⟨e, members, [], false, false, members⟩], nextSeq := e.seq + 1 }
  members.foldl (fun s m =>
    (s.putRunSheet e.seq m e.memb.toNat (s.sheetRead e.memb.toNat 512)).putRunSheet e.seq m e.cmap.toNat
      (s.sheetRead e.cmap.toNat (32 * members.length))) s

/-- The next entry that goes out to a member whose maps have all been acknowledged. -/
def State.sendEntry (s : State) : State :=
  let ready (p : Published) (m : Nat) : Bool :=
    !s.fabric.reqs.any fun r => r.origin == 4 && r.ticket == p.entry.seq && r.index == m
  match s.heat.published.findSome? fun p => (p.owed.find? (ready p)).map fun m => (p, m) with
  | none => s
  | some (p, m) =>
    let s := s.updHeat fun h => { h with published := h.published.map fun x =>
      if x.entry = p.entry then { x with owed := x.owed.erase m } else x }
    s.putRunSheet p.entry.seq m (64 * (p.entry.seq.toNat % 4096)) (entryWire p.entry)

/-- Whether the low 16 bits of a heat number are free: no heat with them stands or runs, none is published and not over, and
no traffic of it is held (R369). -/
def State.numberFree (s : State) (n : Word) : Bool :=
  let h : BitVec 16 := n.setWidth 16
  h != 0 && !s.heatStands h && !s.heatRuns h && !(s.fabric.held.any fun p => p.heat == h) &&
    !s.heat.published.any fun p => p.entry.heatno.setWidth 16 == h && decide (s.heat.time.toNat < p.entry.start.toNat + p.entry.dur.toNat)

/-- Whether a job's entry carries the heat number that R369 gives it: the job's own, or a new one above the last drawn. -/
def State.numberOk (s : State) (e : HeatEntry) : Bool :=
  match mapGet none s.heat.numbers e.job.toNat with
  | some n => e.heatno == n
  | none => s.numberFree e.heatno && e.heatno != s.heat.lastNumber && seqAtMost s.heat.lastNumber e.heatno

/-- The heat number of a job noted: an abort ends it (R369). -/
def State.noteNumber (s : State) (e : HeatEntry) : State :=
  s.updHeat fun h =>
    if e.kind = 3 then { h with numbers := mapSet none h.numbers e.job.toNat none }
    else if e.kind = 2 ∨ (mapGet none h.numbers e.job.toNat).isSome then h
    else { h with numbers := mapSet none h.numbers e.job.toNat (some e.heatno), lastNumber := e.heatno }

/-- HEAT_SHEET_PUBLISH: SEQ rises by one; an entry other than an abort goes out at least 2 ms before its START; a job's
entries carry its heat number (R366, R367, R369). -/
def execHeatSheetPublish (e : HeatEntry) (s : State) : Result :=
  .next (if s.isStarter && e.seq == s.heat.nextSeq && (2 ≤ e.kind || s.numberOk e) &&
      (e.kind == 3 || decide (s.heat.time.toNat + 2000000 ≤ e.start.toNat)) then
    (s.noteNumber e).publish e (s.membersAt e.memb.toNat)
  else s)

/-- The starter's record of an entry changed by f. -/
def State.updPublished (s : State) (heat seq : Word) (f : Published → Published) : State :=
  s.updHeat fun h => { h with published := h.published.map fun p => if p.entry.heatno = heat ∧ p.entry.seq = seq then f p else p }

/-- ACK: recorded; with the last one before DEADLINE, COMMIT goes to every member. A late one bars the SEQ (R372). -/
def execAck (peer : Nat) (heat seq : Word) (s : State) : Result :=
  match s.heat.published.find? fun p => p.entry.heatno == heat && p.entry.seq == seq with
  | none => .next s
  | some p =>
    if !s.isStarter || p.entry.kind ≠ 0 || p.committed || !p.members.contains peer then .next s
    else if p.entry.deadline < s.heat.time then .next (s.updPublished heat seq fun p => { p with barred := true })
    else
      let acks := if p.acks.contains peer then p.acks else peer :: p.acks
      let all := p.members.all fun m => acks.contains m
      let s := s.updPublished heat seq fun p => { p with acks := acks, committed := all && !p.barred }
      .next (if all && !p.barred then p.members.foldl (fun s m => s.tell 0x25 heat seq 0 m) s else s)

/-- NAK: no COMMIT is sent for the SEQ (R372). -/
def execNak (peer : Nat) (heat seq : Word) (reason : Nat) (s : State) : Result :=
  .next (if s.isStarter && 1 ≤ reason && reason ≤ 7 then
    s.updPublished heat seq fun p => if p.members.contains peer then { p with barred := true } else p
  else s)

/-- COMMIT: recorded by its START, from the starter of the highest epoch known (R371, R372). -/
def execCommit (sender : Sender) (heat seq : Word) (s : State) : Result :=
  .next (if sender.epoch = s.heat.epoch ∧ s.starts sender.peer then
    s.updHeat fun h => { h with sheet := h.sheet.map fun x =>
      if x.entry.heatno = heat ∧ x.entry.seq = seq ∧ x.entry.kind = 0 ∧ !x.started ∧ h.time ≤ x.entry.start then
        { x with committed := true }
      else x }
  else s)

/-- HEARTBEAT_SEND: every 100 µs (R371). -/
def execHeartbeatSend (s : State) : Result :=
  .next (if s.isStarter && s.passed s.heat.lastHeartbeat 100000 then
    (s.tell 0x21 0 0 (4096 * s.heat.priority + s.fabric.peer) everyPeer).updHeat fun h => { h with lastHeartbeat := h.time }
  else s)

/-- HEARTBEAT: one of the starter is answered, one of a member is noted; a higher epoch is adopted with its starter
(R371). -/
def execHeartbeat (peer : Nat) (epoch : DWord) (fromStarter : Bool) (s : State) : Result :=
  let s := s.updHeat fun h => { h with memberBeats := mapSet 0 h.memberBeats peer h.time }
  if !fromStarter then .next s
  else if epoch < s.heat.epoch ∨ (epoch = s.heat.epoch ∧ !s.starts peer) then .next s
  else
    let s := s.updHeat fun h => { h with epoch := epoch, starter := peer, candidacyAt := none, lastHeartbeat := h.time }
    let heat := match s.heat.running with | r :: _ => r.heatno | [] => 0
    .next (if peer = s.fabric.peer then s else s.tell 0x21 heat 0 s.heat.tsusp.toNat peer)

/-- Own candidacy (R371). -/
def State.stand (s : State) (epoch : DWord) (heard : Option (Nat × Nat)) : State :=
  let own := (s.heat.priority, s.fabric.peer)
  let least (a b : Nat × Nat) : Nat × Nat := if a.1 < b.1 ∨ (a.1 = b.1 ∧ a.2 ≤ b.2) then a else b
  let s := s.updHeat fun h =>
    { h with
      epoch := epoch, candidacyAt := some h.time, lastHeartbeat := h.time
      candidate := some (match heard with | some x => least own x | none => own) }
  s.tell 0x22 0 0 (4096 * own.1 + own.2) everyPeer

/-- HEARTBEAT_LOSS: 300 µs without a heartbeat of the starter (R371). -/
def execHeartbeatLoss (s : State) : Result :=
  .next (if !s.isStarter && s.passed s.heat.lastHeartbeat 300000 then s.stand (s.heat.epoch + 1) none else s)

/-- CANDIDACY: a higher epoch is adopted and answered; the least of the epoch is kept (R371). -/
def execCandidacy (epoch : DWord) (priority peer : Nat) (s : State) : Result :=
  if s.heat.epoch < epoch then .next (s.stand epoch (some (priority, peer)))
  else if epoch = s.heat.epoch ∧ s.heat.candidacyAt.isSome then
    .next (s.updHeat fun h =>
      { h with candidate := match h.candidate with
        | some x => if priority < x.1 ∨ (priority = x.1 ∧ peer < x.2) then some (priority, peer) else some x
        | none => some (priority, peer) })
  else .next s

/-- The entries in the own ring whose CRC holds and that stand at the place of their SEQ (R365, R371). -/
def State.ringEntries (s : State) : List HeatEntry :=
  (List.range 4096).filterMap fun i =>
    let bs := s.sheetRead (64 * i) 64
    let e := entryOfBytes bs
    if e.crc = crc32c (bs.take 60) ∧ e.seq.toNat % 4096 = i then some e else none

/-- The record that a new starter rebuilds from its own window 255: a launch that the old starter had not committed is
never committed (R371). -/
def State.rebuild (s : State) : State :=
  let es := s.ringEntries
  let next := match es with
    | [] => 0
    | e :: rest => rest.foldl (fun (n : Word) (x : HeatEntry) => if seqAtMost n x.seq then x.seq + 1 else n) (e.seq + 1)
  let number (m : List (Nat × Option Word)) (e : HeatEntry) : List (Nat × Option Word) :=
    if e.kind = 3 then mapSet none m e.job.toNat none else if e.kind = 2 then m else mapSet none m e.job.toNat (some e.heatno)
  let byseq := sortBy (fun a b => seqAtMost a.seq b.seq) es
  let drawn := (byseq.filter fun e => e.kind != 2).map HeatEntry.heatno
  let last := drawn.foldl (fun n x => if seqAtMost n x then x else n) (drawn.headD 0)
  s.updHeat fun h =>
    { h with
      published := byseq.map fun e => ⟨e, s.membersAt e.memb.toNat, [], true, false, []⟩
      nextSeq := next, numbers := byseq.foldl number [], lastNumber := last }

/-- ELECTION_TIMER: 25.6 µs after its first candidacy a package takes the least it has heard; the winner rebuilds its
record from its own window 255, sends the result and begins its heartbeats (R371). -/
def execElectionTimer (s : State) : Result :=
  match s.heat.candidacyAt, s.heat.candidate with
  | some t, some x =>
    if s.passed t 25600 then
      let s := s.updHeat fun h => { h with starter := x.2, candidacyAt := none, lastHeartbeat := h.time }
      if x.2 = s.fabric.peer then
        let s := s.rebuild
        let me := 4096 * s.heat.priority + s.fabric.peer
        .next ((s.tell 0x27 0 0 me everyPeer).tell 0x21 0 0 me everyPeer)
      else .next s
    else .next s
  | _, _ => .next s

/-- ELECTION_RESULT (R371). -/
def execElectionResult (epoch : DWord) (priority peer : Nat) (s : State) : Result :=
  .next (if s.heat.epoch ≤ epoch && priority < 256 then
    s.updHeat fun h => { h with epoch := epoch, starter := peer, candidacyAt := none, lastHeartbeat := h.time }
  else s)

/-- ENTRY_REQUEST: entries from a SEQ on are published to the asker again, their maps first (R365, R370). -/
def execEntryRequest (peer : Nat) (seq : Word) (s : State) : Result :=
  .next (if s.isStarter then
    let again (p : Published) : Bool := seqAtMost seq p.entry.seq && p.members.contains peer
    let owe (p : Published) : Published :=
      if again p && !p.owed.contains peer then { p with owed := p.owed ++ [peer] } else p
    let t := s.updHeat fun h => { h with published := h.published.map owe }
    (s.heat.published.filter again).foldl (fun s p =>
      (s.putRunSheet p.entry.seq peer p.entry.memb.toNat (s.sheetRead p.entry.memb.toNat 512)).putRunSheet p.entry.seq peer
        p.entry.cmap.toNat (s.sheetRead p.entry.cmap.toNat (32 * p.members.length))) t
  else s)

/-- The latest entry of a heat at the starter. -/
def State.entryOf (s : State) (heat : Word) : Option (HeatEntry × List Nat) :=
  match s.heat.published.reverse.find? fun p => p.entry.heatno == heat && p.entry.kind != 3 with
  | some p => some (p.entry, p.members)
  | none => (s.heat.sheet.reverse.find? fun x => x.entry.heatno == heat && x.entry.kind != 3).map fun x => (x.entry, x.members)

/-- MEMBER_FAILURE_REPORT: the first report for a heat publishes one abort entry, 100 µs ahead (R373). -/
def execMemberFailureReport (heat : Word) (failed : Nat) (detail : Nat) (s : State) : Result :=
  match s.entryOf heat with
  | none => .next s
  | some (e, members) =>
    .next (if s.isStarter && !s.heat.aborted.contains heat && detail < 256 then
      let a : HeatEntry := { e with
        kind := 3, dur := 0, flags := 0, deadline := 0, failpeer := BitVec.ofNat 16 (failed % 4096)
        start := s.heat.time + 100000, seq := s.heat.nextSeq }
      let a := { a with crc := crc32c (entryBytes a) }
      ((s.updHeat fun h => { h with aborted := h.aborted ++ [heat] }).noteNumber a).publish a members
    else s)

/-- MEMBER_HEARTBEAT_MISSED: a member of a committed running heat without a heartbeat for 300 µs is reported (R373). -/
def execMemberHeartbeatMissed (peer : Nat) (s : State) : Result :=
  let late (r : Running) : Bool :=
    s.passed (clockMax r.start (mapGet 0 s.heat.memberBeats peer)) 300000 &&
      s.heat.sheet.any fun x => x.entry.seq == r.seq && x.committed && x.members.contains peer
  .next (match s.heat.running.find? late with
    | some r => if peer = s.fabric.peer then s
      else (s.updHeat fun h => { h with memberBeats := mapSet 0 h.memberBeats peer h.time }).tell 0x26 r.heatno r.seq peer
        s.heat.starter
    | none => s)

/-! ## START (R368, R372) -/

/-- Entries that are over and whose heat no longer runs by them leave the sheet. -/
def State.expire (s : State) : State :=
  let isOver (x : SheetEntry) : Bool :=
    x.started && decide (x.entry.start.toNat + x.entry.dur.toNat ≤ s.heat.time.toNat) &&
      !s.heat.running.any fun r => r.seq == x.entry.seq
  s.updHeat fun h => { h with sheet := h.sheet.filter fun x => !isOver x }

/-- An entry marked as started, idle or not. -/
def State.startEntry (s : State) (seq : Word) (idle : Bool) : State :=
  s.updHeat fun h => { h with sheet := h.sheet.map fun x =>
    if x.entry.seq = seq then { x with started := true, idle := x.idle || idle } else x }

/-- Whether no entry of an earlier START waits to take effect (R368). -/
def State.firstToStart (s : State) (x : SheetEntry) : Bool :=
  s.heat.sheet.all fun y => y.started || y.void || decide (x.entry.start ≤ y.entry.start)

/-- HEAT_START (R368): entries take effect in START order. Of the partitions named, one whose running heat the entry continues runs on; every other begins a
switch on each mapped core. An entry that has not been committed runs as idle. A sprint-window entry begins nothing. -/
def execHeatStart (seq : Word) (s : State) : Result :=
  match s.heat.sheet.find? fun x => x.entry.seq == seq && !x.started && x.entry.kind != 3 with
  | none => .next s
  | some x =>
    if s.heat.time < x.entry.start || !s.firstToStart x then .next s
    else
      let e := x.entry
      let s := s.expire
      if e.kind = 1 then .next (s.startEntry seq false)
      else
        let idle := e.kind = 2 ∨ !x.committed ∨ x.void
        let go (r : Running) (p : Nat) : Bool :=
          !idle && !r.stopped && r.part == p && r.heatno == e.heatno && r.cores == x.cores
        let s := s.startEntry seq idle
        .next ((partsOf e).foldl (fun s p =>
          if s.heat.running.any (fun r => go r p) then
            let next (r : Running) : Running :=
              if go r p then { r with start := e.start, finish := e.start + e.dur, seq := seq } else r
            s.updHeat fun h => { h with running := h.running.map next }
          else
            let keep := s.heat.switches.filter fun w => !(w.part == p && x.cores.contains w.core)
            let new := x.cores.map fun c => (⟨p, c, seq, idle, e.flags.getLsbD 0, s.heat.time, false⟩ : Switch)
            s.updHeat fun h => { h with switches := keep ++ new }) s)

/-! ## HEAT (R375) -/

/-- The heat in which a crew runs. -/
def State.heatOf (s : State) (c : Crew) : Option Running := s.heat.running.find? fun r => r.part == c.part

/-- What HEAT reads (R375). -/
def State.heatWord (s : State) (sel : Nat) : Word :=
  let c := s.crew
  let r := s.heatOf c
  let start : DWord := match r with | some r => r.start | none => 0
  let finish : DWord := match r with | some r => r.finish | none => 0
  match sel with
  | 0 => match r with | some r => r.heatno | none => (s.job c.job).heatno
  | 1 => start.extractLsb' 0 32
  | 2 => start.extractLsb' 32 32
  | 3 => finish.extractLsb' 0 32
  | 4 => finish.extractLsb' 32 32
  | _ => BitVec.ofNat 32 (s.heat.starter % 4096 + 4096 * s.heat.tsusp.toNat + 8192 * (s.partition c.part).sprint.toNat)

/-- HEAT (R375). -/
def execHeat (d : RegNo) (sel : BitVec 3) (s : State) : Result :=
  if 6 ≤ sel ∨ s.settings.det then .next (s.illegal 9 sel.toNat)
  else
    let r := s.extern 0x3B ((s.heatWord sel.toNat).setWidth 64)
    .next (r.2.write d (r.1.setWidth 32))

end Sys2Proof.Machine
end

