-- ==== Sys2Proof/Machine/ClauseArray.lean ====
section
/-! DEFINITION. The learning-automaton array: its registers, evaluation and votes, training steps, the entries of aq and
of the graph array queue, direct lane access and soft errors (R267 to R293). -/

namespace Sys2Proof.Machine

/-! ## CAC and the table (R269 to R271) -/

/-- The fields of CAC. -/
structure CacFields where
  ncl : Nat
  nf : Nat
  nc : Nat
  cpc : Nat
  pol : Bool
  thr : Nat
  deriving DecidableEq, Repr

/-- CAC taken apart. -/
def cacFields (c : DWord) : CacFields :=
  { ncl := (c.extractLsb' 0 9).toNat, nf := (c.extractLsb' 9 9).toNat, nc := (c.extractLsb' 18 5).toNat
    cpc := (c.extractLsb' 23 9).toNat, pol := c.getLsbD 32, thr := (c.extractLsb' 33 8).toNat }

/-- Whether CAC is valid (R269). -/
def cacValid (c : DWord) : Bool :=
  let f := cacFields c
  let within (n hi : Nat) : Bool := 1 ≤ n && n ≤ hi
  within f.ncl 256 && within f.nf 256 && within f.nc 16 && within f.cpc 256 && within f.thr 255 &&
    f.nc * f.cpc == f.ncl && c.extractLsb' 41 23 == 0

/-- Whether a feedback table is valid (R271). -/
def tableValid (t : List Byte) : Bool :=
  (List.range 16).all fun e =>
    byteAt t (4 * e) < 3 && byteAt t (4 * e + 2) < 2 && byteAt t (4 * e + 3) == 0

/-- Class of an active clause, and whether it is positive (R270). -/
def CacFields.classOf (f : CacFields) (c : Nat) : Nat := c / f.cpc
/-- Whether a clause is positive. -/
def CacFields.positive (f : CacFields) (c : Nat) : Bool := (c % f.cpc % 2 == 1) == f.pol

/-- The active literal slots (R269). -/
def CacFields.slots (f : CacFields) : List Nat := List.range f.nf ++ (List.range f.nf).map (256 + ·)

/-! ## Evaluation and votes (R273) -/

/-- The literal of a slot on a sample. -/
def literal (x : Nat → Bool) (j : Nat) : Bool := if j < 256 then x j else !x (j - 256)

/-- The output of a clause from its cells. -/
def clauseOut (f : CacFields) (cell : Nat → Nat) (x : Nat → Bool) (training : Bool) : Bool :=
  let inc := f.slots.filter fun j => decide (128 ≤ cell j)
  if inc.isEmpty then training else inc.all (literal x)

/-- The vote of class k from the outputs. -/
def voteOf (f : CacFields) (out : Nat → Bool) (k : Nat) : Int :=
  let cs := (List.range f.cpc).map fun i => k * f.cpc + i
  let sum := cs.foldl (fun (n : Int) c => if out c then (if f.positive c then n + 1 else n - 1) else n) 0
  max (-(f.thr : Int)) (min f.thr sum)

/-! ## Random values (R272) -/

/-- h of a step. -/
def stepHash (step : Word) : Word := step * 0x9E3779B9
/-- The byte of a cell. -/
def cellByte (seed step : Word) (c j : Nat) : Nat :=
  (mix32 (seed ^^^ BitVec.ofNat 32 (512 * c + j) ^^^ stepHash step)).toNat / 2 ^ 24
/-- The byte of a clause. -/
def clauseByte (seed step : Word) (c : Nat) : Nat :=
  (mix32 (seed ^^^ 0x80000000 ^^^ BitVec.ofNat 32 c ^^^ stepHash step)).toNat / 2 ^ 24
/-- The class draw. -/
def classDraw (seed step : Word) : Nat := (mix32 (seed ^^^ 0x40000000 ^^^ stepHash step)).toNat

/-! ## A training step (R274) -/

/-- The negative class of a label; none where there is none. -/
def negClass (f : CacFields) (seed step : Word) (y g : Nat) : Option Nat :=
  if g = 0xFF then (if f.nc = 1 then none else some ((y + 1 + classDraw seed step % (f.nc - 1)) % f.nc))
  else if g = 0xFE then none else some g

/-- The new value of a cell under an entry of the table. -/
def nudge (table : List Byte) (e rnd v : Nat) : Nat :=
  if byteAt table (4 * e + 2) % 2 = 1 ∨ rnd < byteAt table (4 * e + 1) then
    match byteAt table (4 * e) % 4 with
    | 1 => min 255 (v + 1)
    | 2 => v - 1
    | _ => v
  else v

/-- The feedback that an active clause gets: P and its type; none for a clause of another class. -/
def feedbackOf (f : CacFields) (out : Nat → Bool) (y : Nat) (g : Option Nat) (c : Nat) : Option (Nat × Nat) :=
  let k := f.classOf c
  if k = y then some ((128 * ((f.thr : Int) - voteOf f out y) / f.thr).toNat, if f.positive c then 0 else 1)
  else if g = some k then some ((128 * ((f.thr : Int) + voteOf f out k) / f.thr).toNat, if f.positive c then 1 else 0)
  else none

/-- The cells that a step changes, with their new values: every value is read as it stood when the step began. -/
def trainCells (f : CacFields) (table : List Byte) (seed step : Word) (cell : Nat → Nat → Nat) (x : Nat → Bool) (y : Nat)
    (g : Option Nat) : List (Nat × Nat × Nat) :=
  let outs := (List.range f.ncl).map fun c => clauseOut f (cell c) x true
  let out (c : Nat) : Bool := outs.getD c false
  (List.range f.ncl).flatMap fun c =>
    match feedbackOf f out y g c with
    | none => []
    | some (p, ty) =>
      if clauseByte seed step c < p then
        f.slots.map fun j =>
          let v := cell c j
          let e := 8 * ty + 4 * (out c).toNat + 2 * (literal x j).toNat + (decide (128 ≤ v)).toNat
          (c, j, nudge table e (cellByte seed step c j) v)
      else []

/-! ## Entries (R276 to R281) -/

/-- Whether a CAINF entry is a live one (R279, R289). -/
def QEntry.live (e : QEntry) : Bool := e.opcode == 0x2F && e.fn.getLsbD 0

/-- The queue set of the partition that owns a core's array. -/
def State.arrayKey (s : State) (core : Nat) : Option Nat := (s.core core).arrayOwner.map fun p => qkey p core

/-- The entries of aq and of the graph array queue that have not completed, in the order of issue, with their queues
(R286, R308). -/
def State.arrayEntries (s : State) (k : Nat) : List (Nat × QEntry) :=
  let of (q : Nat) : List (Nat × QEntry) :=
    ((s.queue k q).ents.filter fun e => e.state != .complete).map fun e => (q, e)
  sortBy (fun x y => decide (x.2.since ≤ y.2.since)) (of 5 ++ of 8)

/-- n bytes at a scalar address of WID 0, SPACE 0 in the issuer's block or SPACE 1 in the partition's rows. -/
def State.enginePlace (s : State) (part core : Nat) (block : Option (Nat × Nat)) (a n : Nat) : Option Spot :=
  let off := a % 2 ^ 27
  if a / 2 ^ 27 = 1 ∧ (s.partition part).rowsOpen (core / 64) off n then some (.mem .spad (spadBase (core / 64) + off))
  else if a / 2 ^ 27 = 0 then
    match block with
    | some (lo, len) => if off + n ≤ len then some (.mem .bmem (bmemBase core + lo + off)) else none
    | none => none
  else none

/-- A place of an entry. -/
def State.entryPlace (s : State) (k : Nat) (e : QEntry) (a n : Nat) : Option Spot :=
  s.enginePlace (keyPart k) (keyCore k) e.blockMem a n

/-- The fields of a record (R277). -/
structure ArrayRec where
  opk : Nat
  flags : Nat
  n : Nat
  inp : Nat
  out : Nat
  map : Nat
  rel : Nat
  deriving DecidableEq, Repr

/-- The fields that the bytes of a record hold. -/
def arrayRec (r : List Byte) : ArrayRec :=
  ⟨byteAt r 0, byteAt r 1, leAt r 4 4, leAt r 8 4, leAt r 12 4, leAt r 16 4, leAt r 20 4⟩

/-- Whether two ranges of scalar addresses overlap. -/
def rangesMeet (a n b m : Nat) : Bool := decide (a < b + m) && decide (b < a + n)

/-- Whether the fields of a record are valid for CAINF or CATRN (cause 5 of R278). -/
def arrayRecOk (r : List Byte) (train : Bool) : Bool :=
  let x := arrayRec r
  let n := x.n
  let map := x.flags.testBit 1
  x.opk == (if train then 2 else 1) && decide (x.flags < if train then 2 else 4) && zeroAt r 2 2 && zeroAt r 24 40 &&
    1 ≤ n && n ≤ 2 ^ 20 && (map || x.map == 0) && (x.flags.testBit 0 || x.rel == 0) &&
    (if train then x.out % 2 == 0
     else x.inp % 32 == 0 && x.out % 32 == 0 && x.map % 32 == 0 && !rangesMeet x.inp (32 * n) x.out (32 * n) &&
       (!map || (!rangesMeet x.inp (32 * n) x.map (32 * n) && !rangesMeet x.out (32 * n) x.map (32 * n))))

/-- The extents of a record: input, then labels or votes, then bitmaps. -/
def ArrayRec.extents (x : ArrayRec) (train : Bool) : List (Nat × Nat) :=
  [(x.inp, 32 * x.n), (x.out, (if train then 2 else 32) * x.n)] ++
    (if x.flags.testBit 1 && !train then [(x.map, 32 * x.n)] else [])

/-- The checks of CAINF and CATRN at the start of an entry, in their order: a cause, or the record with its release object
(R278). -/
def State.arrayChecks (s : State) (k : Nat) (e : QEntry) : Except Nat QEntry :=
  let train := e.opcode == 0x30
  match s.entryPlace k e e.arg.toNat 64 with
  | none => .error 3
  | some p =>
    let r := s.spotBytes p 64
    let x := arrayRec r
    if s.spotsPoisoned p 64 then .error 10
    else if !cacValid (s.core (keyCore k)).cac then .error 14
    else if !arrayRecOk r train then .error 5
    else if !(x.extents train).all fun y => (s.entryPlace k e y.1 y.2).isSome then .error 3
    else if x.flags.testBit 0 then
      match s.relObject (keyPart k) (keyCore k) e.blockMem x.rel with
      | some o => .ok { e with recd := r, rel := some o }
      | none => .error 11
    else .ok { e with recd := r, rel := none }

/-- The parts of an array image that FN selects: offset in the image and bytes (R281). -/
def imageParts (fn : BitVec 7) : List (Nat × Nat) :=
  (if fn.getLsbD 0 then [(0, 64)] else []) ++ (if fn.getLsbD 1 then [(64, 64)] else []) ++
    (if fn.getLsbD 2 then [(128, 131072)] else [])

/-- An array entry stops faulted (R283). -/
def State.arrayFault (s : State) (k q : Nat) (e : QEntry) (cause : Nat) : State :=
  s.faultEntry k q e 0x06 cause e.arg.toNat e.prog 0

/-- An entry begins: its checks, and the CAC that a live entry keeps (R278, R281, R289). -/
def State.arrayBegin (s : State) (k q : Nat) (e : QEntry) : State :=
  if e.opcode = 0x31 then
    if (imageParts e.fn).all fun x => (s.entryPlace k e (e.arg.toNat + x.1) x.2).isSome then
      s.updEntry k q e.ticket fun _ => { e with state := .running }
    else s.arrayFault k q e 3
  else match s.arrayChecks k e with
    | .error c => s.arrayFault k q e c
    | .ok e =>
      s.updEntry k q e.ticket fun _ =>
        { e with state := .running, prog := 0, rows := [(s.core (keyCore k)).cac.toNat] }

/-- CLAUSE_ENTRY_START (R276, R286, R289): an ordered entry when every entry before it has completed; a live one when
every entry ahead has begun, none of them a CAMOV or a live entry. -/
def execClauseEntryStart (core : Nat) (s : State) : Result :=
  .next (match s.arrayKey core with
    | none => s
    | some k =>
      let l := s.arrayEntries k
      let ahead := l.takeWhile fun x => x.2.state != .queued
      match l.find? fun x => x.2.state == .queued with
      | none => s
      | some (q, e) =>
        let free := if e.live then ahead.all fun x => x.2.opcode != 0x31 && !x.2.live else ahead.isEmpty
        if s.engineRuns k && free && s.afterDone k e then s.arrayBegin k q e else s)

/-- The running ordered, or live, entry of a core's array. -/
def State.arrayRunning (s : State) (core : Nat) (live : Bool) : Option (Nat × Nat × QEntry) :=
  match s.arrayKey core with
  | none => none
  | some k =>
    if !s.engineRuns k then none
    else ((s.arrayEntries k).find? fun x => x.2.state == .running && x.2.live == live).map fun x => (k, x.1, x.2)

/-- The counter of cell (c, j). -/
def State.cell (s : State) (core c j : Nat) : Nat := (s.mem.byte .cells (cellBase core + 512 * c + j)).toNat
/-- Whether a clause row is poisoned. -/
def State.rowPoisoned (s : State) (core c : Nat) : Bool := s.mem.poisoned .cells (cellBase core + 512 * c) 512

/-- The feedback table as 64 bytes. -/
def State.clauseTable (s : State) (core : Nat) : List Byte := memBytes (s.core core).table 0 64

/-- Whether every sample of an entry is done: then its data has moved. -/
def QEntry.sampled (e : QEntry) (n : Nat) : QEntry :=
  { e with prog := e.prog + 1, state := if n ≤ e.prog + 1 then .moved else e.state }

/-- What a training sample meets or changes (R274, R278, R293). -/
inductive Train where
  | fault (cause : Nat)
  | cells (l : List (Nat × Nat × Nat))
  deriving DecidableEq, Repr

/-- Sample PROG of a training entry, from the state as it stands. -/
def State.trainSample (s : State) (k : Nat) (e : QEntry) : Train :=
  let core := keyCore k
  let x := arrayRec e.recd
  match s.entryPlace k e (x.inp + 32 * e.prog) 32, s.entryPlace k e (x.out + 2 * e.prog) 2 with
  | some ip, some lp =>
    if s.spotsPoisoned ip 32 || s.spotsPoisoned lp 2 then .fault 10
    else
      let c := s.core core
      let f := cacFields c.cac
      let bits := s.spotNat ip 32
      let y := (s.spotByte lp).toNat
      let g := (s.spotByte (lp.plus 1)).toNat
      if f.nc ≤ y ∨ (g ≠ 0xFE ∧ g ≠ 0xFF ∧ (g = y ∨ f.nc ≤ g)) then .fault 15
      else
        let ng := negClass f c.seed c.stepCount y g
        let touched := (List.range f.ncl).filter fun i => f.classOf i == y || ng == some (f.classOf i)
        if touched.any fun i => s.rowPoisoned core i then .fault 16
        else .cells (trainCells f (s.clauseTable core) c.seed c.stepCount (s.cell core) (fun j => bits.testBit j) y ng)
  | _, _ => .fault 3

/-- The cells of a step written. -/
def State.writeCells (s : State) (core : Nat) (l : List (Nat × Nat × Nat)) : State :=
  { s with mem := { s.mem with cells := l.foldl (fun m x =>
      memSet m (cellBase core + 512 * x.1 + x.2.1) (BitVec.ofNat 8 x.2.2)) s.mem.cells } }

/-- The step of a running training entry of a core: the one in progress, or the one that begins now (R274). -/
def State.stepNow (s : State) (core : Nat) : Option Stepping :=
  match (s.core core).stepping, s.arrayRunning core false with
  | some st, _ => some st
  | none, some (k, _, e) =>
    if e.opcode = 0x30 then (match s.trainSample k e with | .cells l => some ⟨l, false⟩ | .fault _ => none) else none
  | none, none => none

/-- A step completed: its cells are written and STEP advances. An entry in whose sweep a word was found uncorrectable then
faults (R274, R293). -/
def State.completeStep (s : State) (core k q : Nat) (e : QEntry) (st : Stepping) : State :=
  let s := (s.writeCells core st.cells).updCore core fun c => { c with stepCount := c.stepCount + 1, stepping := none }
  if st.bad then s.arrayFault k q { e with prog := e.prog + 1 } 16
  else s.updEntry k q e.ticket fun _ => e.sampled (arrayRec e.recd).n

/-- Sample PROG of the running training entry performed, or its fault. -/
def State.trainStep (s : State) (core : Nat) : State :=
  match s.arrayRunning core false with
  | none => s
  | some (k, q, e) =>
    if e.opcode ≠ 0x30 then s
    else match s.stepNow core with
      | some st => s.completeStep core k q e st
      | none => match s.trainSample k e with
        | .fault c => s.arrayFault k q e c
        | .cells _ => s

/-- TRAINING_STEP (R274, R280). -/
def execTrainingStep (core : Nat) (s : State) : Result := .next (s.trainStep core)

/-- The operation in progress completed, as a catch or a sprint lets it (R290, R291). A CAMOV stays where it is. -/
def State.endStep (s : State) (core : Nat) : State := if (s.core core).stepping.isSome then s.trainStep core else s

/-- The cells that a live sample reads: clauses below n as the step leaves them, the others as they stand (R289). -/
def State.liveCells (s : State) (core n : Nat) : Nat → Nat → Nat :=
  let ahead : List (Nat × Nat × Nat) := match (s.core core).stepping with | some st => st.cells | none => []
  fun c j =>
    if c < n then
      match ahead.find? fun x => x.1 == c && x.2.1 == j with | some x => x.2.2 | none => s.cell core c j
    else s.cell core c j

/-- A live sample that reads n clauses behind the sweep meets the step: from then on the step is in progress, with what
stood when it began (R274, R289). -/
def State.meetStep (s : State) (core n : Nat) : State :=
  if n = 0 then s else s.updCore core fun c => { c with stepping := s.stepNow core }

/-- The 32 bytes of a vote row (R279). -/
def voteRow (f : CacFields) (out : Nat → Bool) : List Byte :=
  ((List.range f.nc).flatMap fun k => leBytes 2 (voteOf f out k % 2 ^ 16).toNat) ++ List.replicate (32 - 2 * f.nc) 0

/-- The 32 bytes of a clause bitmap. -/
def bitmapRow (f : CacFields) (out : Nat → Bool) : List Byte :=
  leBytes 32 ((List.range f.ncl).foldl (fun n c => n + (if out c then 2 ^ c else 0)) 0)

/-- Sample PROG of an inference entry: a poisoned sample faults it; a poisoned active row counts as 0 and poisons what is
written (R278, R279, R293). -/
def State.inferSample (s : State) (k q : Nat) (e : QEntry) (cell : Nat → Nat → Nat) : State :=
  let core := keyCore k
  let x := arrayRec e.recd
  match s.entryPlace k e (x.inp + 32 * e.prog) 32, s.entryPlace k e (x.out + 32 * e.prog) 32 with
  | some ip, some op =>
    if s.spotsPoisoned ip 32 then s.arrayFault k q e 10
    else
      let f := cacFields (if e.live then BitVec.ofNat 64 (e.rows.headD 0) else (s.core core).cac)
      let bits := s.spotNat ip 32
      let outs := (List.range f.ncl).map fun c =>
        !s.rowPoisoned core c && clauseOut f (cell c) (fun j => bits.testBit j) false
      let out (c : Nat) : Bool := outs.getD c false
      let bad := (List.range f.ncl).any fun c => s.rowPoisoned core c
      let marked (l : List Byte) : List (Byte × Bool) := l.map fun b => (b, bad)
      let s := s.spotWrite op (marked (voteRow f out))
      let s := if x.flags.testBit 1 then
          (match s.entryPlace k e (x.map + 32 * e.prog) 32 with
           | some mp => s.spotWrite mp (marked (bitmapRow f out))
           | none => s)
        else s
      s.updEntry k q e.ticket fun _ => e.sampled x.n
  | _, _ => s.arrayFault k q e 3

/-- INFERENCE_SAMPLE (R279, R289): of the ordered entry for n = 0; of the live entry for n ≥ 1, which reads the clauses
below n − 1 behind the running step. -/
def execInferenceSample (core n : Nat) (s : State) : Result :=
  .next (match s.arrayRunning core (n != 0) with
    | none => s
    | some (k, q, e) =>
      if e.opcode ≠ 0x2F then s
      else
        let s := s.meetStep core (n - 1)
        s.inferSample k q e (if n = 0 then s.cell core else s.liveCells core (n - 1)))

/-- Offsets of the granules of the selected parts of an image, in order (R281, R290). -/
def imageGranules (fn : BitVec 7) : List Nat :=
  (imageParts fn).flatMap fun x => (List.range (x.2 / 64)).map fun i => x.1 + 64 * i

/-- The header and table of a load, which are read and checked before anything is written, or the cause of its fault
(R281). -/
def State.loadHead (s : State) (core : Nat) (p : Spot) (fn : BitVec 7) : Except Nat State :=
  let hdr := s.spotBytes p 64
  let table := s.spotBytes (p.plus 64) 64
  let cac : DWord := BitVec.ofNat 64 (leAt hdr 0 8)
  if (fn.getLsbD 0 && s.spotsPoisoned p 64) || (fn.getLsbD 1 && s.spotsPoisoned (p.plus 64) 64) then .error 10
  else if (fn.getLsbD 0 && !(cacValid cac && zeroAt hdr 16 48)) || (fn.getLsbD 1 && !tableValid table) then .error 14
  else
    .ok (s.updCore core fun c =>
      let c := if fn.getLsbD 0 then
          { c with cac := cac, seed := BitVec.ofNat 32 (leAt hdr 8 4), stepCount := BitVec.ofNat 32 (leAt hdr 12 4) }
        else c
      if fn.getLsbD 1 then { c with table := memPut [] 0 table } else c)

/-- The granule of cells at an image offset loaded, after n clean granules of its row: a poisoned one poisons the row, the
eighth clean one clears it. The answer has the clean granules of the row so far (R281). -/
def State.loadCells (s : State) (core : Nat) (p : Spot) (o n : Nat) : State × Nat :=
  let a := cellBase core + (o - 128)
  let poison := s.spotsPoisoned (p.plus o) 64
  let s := { s with mem := s.mem.store .cells a (s.spotBytes (p.plus o) 64) }
  let n := (if (o - 128) % 512 = 0 then 0 else n) + (!poison).toNat
  if poison then ({ s with mem := s.mem.mark .cells a }, n)
  else if n = 8 then ({ s with mem := s.mem.setPoison .cells (mapErase s.mem.rowPoison (a / 512)) }, n)
  else (s, n)

/-- The granule at an image offset stored (R281). -/
def State.storeGranule (s : State) (core : Nat) (p : Spot) (o : Nat) : State :=
  let c := s.core core
  let clean (l : List Byte) : List (Byte × Bool) := l.map fun b => (b, false)
  s.spotWrite (p.plus o) (
    if o = 0 then
      clean (leBytes 8 c.cac.toNat ++ leBytes 4 c.seed.toNat ++ leBytes 4 c.stepCount.toNat ++ List.replicate 48 0)
    else if o = 64 then clean (s.clauseTable core)
    else (s.mem.bytes .cells (cellBase core + (o - 128)) 64).map fun b => (b, s.rowPoisoned core ((o - 128) / 512)))

/-- The next granule of a running CAMOV; a load's header and table go together. -/
def State.camovNext (s : State) (core k q : Nat) (e : QEntry) (p : Spot) : State :=
  let l := imageGranules e.fn
  let head := (l.filter (· < 128)).length
  let put (s : State) (n m : Nat) : State := s.updEntry k q e.ticket fun x =>
    { x with prog := n, prog2 := m, state := if l.length ≤ n then .moved else x.state }
  if e.fn.getLsbD 3 then
    match l[e.prog]? with
    | some o => put (s.storeGranule core p o) (e.prog + 1) 0
    | none => put s e.prog 0
  else if e.prog = 0 ∧ head ≠ 0 then
    match s.loadHead core p e.fn with
    | .error c => s.arrayFault k q e c
    | .ok s => put s head 0
  else match l[e.prog]? with
    | some o => let r := s.loadCells core p o e.prog2; put r.1 (e.prog + 1) r.2
    | none => put s e.prog 0

/-- CAMOV_OPERATION (R281, R286, R290): the entry is one operation of the array, which moves a granule at a time. -/
def execCamovOperation (core : Nat) (s : State) : Result :=
  .next (match s.arrayRunning core false with
    | none => s
    | some (k, q, e) =>
      if e.opcode ≠ 0x31 then s
      else match s.entryPlace k e e.arg.toNat 0 with
        | none => s.arrayFault k q e 3
        | some p => s.camovNext core k q e p)

/-- CLAUSE_ENTRY_COMPLETE (R276). -/
def execClauseEntryComplete (core : Nat) (s : State) : Result :=
  .next (match s.arrayKey core with
    | none => s
    | some k =>
      if !s.engineRuns k then s
      else match (s.arrayEntries k).find? fun x => x.2.state == .moved with
        | none => s
        | some (q, e) => (s.entryRelease e).settleEntry k q e.ticket)

/-- CLAUSE_ENTRY_RETIRE (R283). -/
def execClauseEntryRetire (core : Nat) (s : State) : Result :=
  .next (match s.arrayKey core with
    | none => s
    | some k =>
      match (s.arrayEntries k).find? fun x => x.2.state == .faulted && x.2.node.isNone with
      | none => s
      | some (q, e) => s.retireEntry k q e 0x07 e.arg.toNat e.prog)

/-- A step whose sweep meets an uncorrectable word: found, the word stays unchanged and the entry faults after the step;
passed before, the word keeps what the error left (R293). -/
def Stepping.lose (st : Stepping) (word : Nat) (found : Bool) : Stepping :=
  ⟨st.cells.filter fun x => (512 * x.1 + x.2.1) / 8 != word, st.bad || found⟩

/-- CELL_SOFT_ERROR (R292, R293): a correctable error is counted and changes nothing that a program sees; an uncorrectable
word of 8 cells keeps what the correction logic left and poisons its row. Whether the sweep of the running training entry's
step finds it the device chooses (log entry 12). -/
def execCellSoftError (core word : Nat) (correctable : Bool) (left : DWord) (s : State) : Result :=
  .next (if 16384 ≤ word then s
    else if correctable then { s with boot := { s.boot with errors := s.boot.errors + 1 } }
    else
      let a := cellBase core + 8 * word
      let t := match s.stepNow core with
        | none => s
        | some st =>
          let c := s.choose
          if (s.core core).stepping.isSome || c.1 then c.2.updCore core fun y => { y with stepping := some (st.lose word c.1) }
          else c.2
      let m := { t.mem with cells := memPutNat t.mem.cells a 8 left.toNat }
      { t with mem := m.mark .cells a })

/-! ## Issue (R279 to R282) -/

/-- Whether the crew's partition owns its core's array (R268). -/
def State.arrayHeld (s : State) : Bool := (s.core (slotCore s.cur)).arrayOwner == some s.crew.part

/-- CAINF, CATRN and CAMOV: the wait for the split's lane work, the checks of R282, and the issue. -/
def State.issueArray (s : State) (d a : RegNo) (opcode fn : Nat) (illegal : Bool) : State :=
  let v := s.sreg a
  if !s.crew.splitIdle s.curSplit then s.stay .lanes
  else if !s.arrayHeld then s.illegal 0 0
  else if illegal then s.illegal 9 fn
  else if v.extractLsb' 0 27 % 64 ≠ 0 ∨
      (s.enginePlace s.crew.part (slotCore s.cur) (some (s.crew.bmemLo, s.crew.bmemLen)) v.toNat 64).isNone then
    s.raise 0x0A 3 v 0
  else s.issueTo d 5 32 (s.newEntry opcode fn v)

/-- CAINF (R279). -/
def execCainf (d a : RegNo) (s : State) : Result := .next (s.issueArray d a 0x2F 0 false)
/-- CAINF.live: illegal in a deterministic launch (R279, R282). -/
def execCainfLive (d a : RegNo) (s : State) : Result := .next (s.issueArray d a 0x2F 1 s.settings.det)
/-- CATRN (R280). -/
def execCatrn (d a : RegNo) (s : State) : Result := .next (s.issueArray d a 0x30 0 false)
/-- CAMOV, load; at least one part is selected (R281). -/
def execCamovLoad (d a : RegNo) (p : BitVec 3) (s : State) : Result :=
  .next (s.issueArray d a 0x31 p.toNat (p == 0))
/-- CAMOV, store (R281). -/
def execCamovStore (d a : RegNo) (p : BitVec 3) (s : State) : Result :=
  .next (s.issueArray d a 0x31 (8 + p.toNat) (p == 0))

/-! ## Lane access (R284, R285) -/

/-- The shape of a clause array access. -/
def shClause (op : BitVec 8) (uses : BitVec 3) (dst : DstUse) : Shape :=
  { Shape.bare op with uses := uses, dst := dst }

/-- A body of a clause array access waits for the boundary at the end of the operation under way (R284). -/
def clauseBody (b : Body) : Body := fun x s => if s.arrayBusy (slotCore s.cur) then .wait else b x s

/-- LITP (R285). -/
def execLitp (f : LaneFields) (s : State) : Result :=
  laneRun (fun _ => (shClause 0x68 1 .push).owned s.arrayHeld)
    (clauseBody fun x s =>
      match x.poisonTrap x.lanes (fun _ => 0) [(0, 4)] with
      | some t => .trap t
      | none =>
        let core := slotCore s.cur
        x.finish (fun i =>
          let a := (x.val 0 i).toNat
          let c := a % 256
          let g := a / 256 % 8
          ⟨BitVec.ofNat 64 ((List.range 64).foldl (fun n j =>
              n + (if 128 ≤ s.cell core c (64 * g + j) then 2 ^ j else 0)) 0), s.rowPoisoned core c, 0⟩) s) f s

/-- CAVR (R285). -/
def execCavr (f : LaneFields) (s : State) : Result :=
  laneRun (fun f => ({ shClause 0x69 0 .push with
      imm := some 15, bad := if f.imm.extractLsb' 4 28 = 0 ∧ 10 ≤ f.imm then some (10, f.imm.toNat) else none } : Shape).owned s.arrayHeld)
    (clauseBody fun x s =>
      let core := slotCore s.cur
      let c := s.core core
      let sel := x.f.imm.toNat % 16
      let v : DWord :=
        if sel = 0 then c.cac else if sel = 1 then c.stepCount ++ c.seed
        else BitVec.ofNat 64 (leAt (s.clauseTable core) (8 * (sel - 2)) 8)
      x.finish (fun _ => ⟨v, false, 0⟩) s) f s

/-- CACL (R285). -/
def execCacl (f : LaneFields) (s : State) : Result :=
  laneRun (fun _ => (shClause 0x6A 1 .push).owned s.arrayHeld)
    (clauseBody fun x s =>
      match x.poisonTrap x.lanes (fun _ => 0) [(0, 4)] with
      | some t => .trap t
      | none =>
        let core := slotCore s.cur
        x.finish (fun i =>
          let w := (x.val 0 i).toNat % 2 ^ 14
          ⟨BitVec.ofNat 64 (s.mem.nat .cells (cellBase core + 8 * w) 8), s.rowPoisoned core (w / 64), 0⟩) s) f s

/-- CAWD: lanes in ascending order; a poisoned row stays poisoned (R285). -/
def execCawd (f : LaneFields) (s : State) : Result :=
  laneRun (fun _ => (shClause 0x6B 3 .none).owned s.arrayHeld)
    (clauseBody fun x s =>
      match x.poisonTrap x.lanes (fun _ => 0) [(0, 4), (1, 1)] with
      | some t => .trap t
      | none =>
        let core := slotCore s.cur
        .ok (x.lanes.foldl (fun s i =>
          let w := (x.val 0 i).toNat % 2 ^ 14
          { s with mem := s.mem.storeNat .cells (cellBase core + 8 * w) 8 (x.val 1 i).toNat }) s)) f s

end Sys2Proof.Machine
end

