-- ==== Sys2Proof/Machine/Xq.lean ====
section
/-! DEFINITION. The xq queue of the fabric unit: XPUT to several targets and the collectives (R358 to R362). -/

namespace Sys2Proof.Machine

/-! ## XPUT (R358, R359) -/

/-- The fields of an XPUT descriptor. -/
structure PutRec where
  src : Nat
  len : Nat
  nt : Nat
  flags : Nat
  rel : Nat
  sig : Nat
  targets : List Nat
  deriving DecidableEq, Repr

/-- The fields that the bytes of a descriptor hold. -/
def putRec (d : List Byte) : PutRec :=
  let nt := byteAt d 8
  ⟨leAt d 0 4, leAt d 4 4, nt, byteAt d 9, leAt d 12 4, leAt d 16 8, (List.range nt).map fun i => leAt d (64 + 8 * i) 8⟩

/-- Whether the fields of the first 64 bytes are valid (cause 5 of R359). -/
def putOk (d : List Byte) : Bool :=
  let x := putRec d
  1 ≤ x.len && x.len ≤ 65536 && 1 ≤ x.nt && x.nt ≤ 64 && decide (x.flags < 4) && zeroAt d 10 2 && zeroAt d 24 40 &&
    (x.flags.testBit 0 || x.rel == 0) && (x.flags.testBit 1 || x.sig == 0)

/-- The pieces of a range of a window, one for each 4 KiB range that it meets: address, offset in the data, bytes; n bounds
their number (R350). -/
def chunksFrom (a off : Nat) : Nat → Nat → List (Nat × Nat × Nat)
  | 0, _ => []
  | n + 1, left =>
    if left = 0 then []
    else
      let k := inRange a left
      (a, off, k) :: chunksFrom (a + k) (off + k) n (left - k)

/-- The pieces of an XPUT for target i. -/
def PutRec.chunks (x : PutRec) (i : Nat) : List (Nat × Nat × Nat) := chunksFrom (x.targets.getD i 0) 0 18 x.len

/-- The local checks at the start of an XPUT: a cause, or the entry with its descriptor and the staged bytes (R359). -/
def State.putChecks (s : State) (k : Nat) (e : QEntry) : Except Nat QEntry :=
  let a := e.arg.toNat
  let base := spadBase (keyCore k / 64) + a % 2 ^ 27
  let d := s.mem.bytes .spad base 64
  let x := putRec d
  let n := 64 + 8 * x.nt
  if s.mem.poisoned .spad base 64 then .error 10
  else if !putOk d then .error 5
  else if (s.spadAddr (keyPart k) (keyCore k / 64) e.arg 64 n).isNone then .error 3
  else if s.mem.poisoned .spad base n then .error 10
  else match s.entryPlace k e x.src x.len with
    | none => .error 3
    | some p =>
      let e := { e with
        recd := s.mem.bytes .spad base n, state := .running, prog := 0, prog2 := 0
        buf := (List.range x.len).map fun i => (s.spotByte (p.plus i), s.spotPoison (p.plus i)) }
      if x.flags.testBit 0 then
        match s.relObject (keyPart k) (keyCore k) e.blockMem x.rel with
        | some o => .ok { e with rel := some o }
        | none => .error 11
      else .ok e

/-- An xq entry stops faulted (R359). -/
def State.xqFault (s : State) (k q : Nat) (e : QEntry) (cause a rdet : Nat) : State :=
  s.faultEntry k q e 0x0E cause a e.prog rdet

/-- The crew that issued an XPUT has one fewer that is not acknowledged (R40). -/
def State.putAcked (s : State) (e : QEntry) : State :=
  let c := s.crewAt e.slot
  if e.opcode = 0x38 ∧ c.live ∧ c.uid = e.uid then s.setCrewAt e.slot { c with unacked := c.unacked - 1 } else s

/-- Indices of an entry's requests in flight. -/
def State.inFlight (s : State) (k q : Nat) (t : Word) : List Nat :=
  (s.fabric.reqs.filter fun r => r.origin == 3 && r.qset == k && r.q == q && r.ticket == t).map Req.index

/-- The next piece of an XPUT to send: its target, its index and the piece, with the bytes from it to the end. A target's
last piece, which carries the signal, goes when its others are acknowledged. -/
def State.putNext (s : State) (k q : Nat) (e : QEntry) (x : PutRec) : Option (Nat × Nat × Nat × Nat × Nat) :=
  let busy := s.inFlight k q e.ticket
  (List.range x.nt).findSome? fun i =>
    if e.prog.testBit i || e.prog2.testBit i then none
    else
      let l := x.chunks i
      let fresh := (List.range l.length).filter fun c =>
        !busy.contains (32 * i + c) && !e.rows.contains (32 * i + c)
      match fresh with
      | [] => none
      | c :: _ =>
        let p := l.getD c (0, 0, 0)
        let last := c + 1 == l.length
        let others := (List.range (l.length - 1)).all fun j => e.rows.contains (32 * i + j)
        if last && !others then none else some (i, 32 * i + c, p.1, p.2.1, p.2.2)

/-- A target has failed: its address and DETAIL are kept, of the first that failed (R359). -/
def QEntry.putFailed (e : QEntry) (x : PutRec) (i detail : Nat) : QEntry :=
  { e with
    prog2 := e.prog2 ||| 2 ^ i
    faultAddr := if e.prog2 = 0 then BitVec.ofNat 64 (x.targets.getD i 0) else e.faultAddr
    rdet := if e.prog2 = 0 then detail else e.rdet }

/-- The entry with an answer taken in. -/
def QEntry.putAnswer (e : QEntry) (x : PutRec) (p : Packet) : QEntry :=
  let i := p.wtid / 32
  if p.kind = kPoisoned then e.putFailed x i p.len
  else
    let rows := p.wtid :: e.rows
    let all := (List.range (x.chunks i).length).all fun c => rows.contains (32 * i + c)
    { e with rows := rows, prog := if all then e.prog ||| 2 ^ i else e.prog }

/-- The remote DETAIL of a target that the requester refuses: check 1 of R348, then check 2 of the signal object. -/
def State.putRefused (s : State) (k : Nat) (x : PutRec) (a : Nat) : Option Nat :=
  if (s.peerTable (keyPart k) (remotePeer a)).isNone then some 1
  else if x.flags.testBit 1 && x.sig % 8 != 0 then some 8
  else none

/-- What a running XPUT does next: an answer, a packet, or its end. -/
def State.xputRun (s : State) (k q : Nat) (e : QEntry) : State :=
  let x := putRec e.recd
  match e.resp with
  | p :: rest => s.updEntry k q e.ticket fun _ => { e.putAnswer x p with resp := rest }
  | [] =>
    match s.putNext k q e x with
    | some (i, index, a, off, n) =>
      let sig := x.flags.testBit 1 && off + n == x.len
      let data := (if sig then (leBytes 8 x.sig).map fun b => (b, false) else []) ++ (e.buf.drop off).take n
      match s.putRefused k x a, s.engineRequest k q e index kPutReq a sig.toNat (x.len - off) data with
      | none, some s => s
      | d, _ => s.updEntry k q e.ticket fun e => e.putFailed x i (d.getD 1)
    | none =>
      if !e.pending.isEmpty then s
      else if e.prog2 ≠ 0 then s.xqFault k q e 9 e.faultAddr.toNat e.rdet
      else (s.updEntry k q e.ticket fun e => { e with state := .moved }).putAcked e

/-- XPUT (R358). -/
def execXput (d a : RegNo) (s : State) : Result :=
  let v := s.sreg a
  if !s.crew.splitIdle s.curSplit then .next (s.stay .lanes)
  else if (s.spadAddr s.crew.part (slotDie s.cur) v 64 64).isNone then .next (s.raise 0x0A 3 v 0)
  else if 32 ≤ s.waiting s.qk 6 then .next (s.stay .room)
  else .next ((s.updCrew fun c => { c with unacked := c.unacked + 1 }).issueTo d 6 32 (s.newEntry 0x38 0 v))

/-! ## Participants of a collective (R361, R62) -/

/-- The rank of a peer, if the process-group table names it. -/
def Launch.rankOf (l : Launch) (peer : Nat) : Option Nat := l.spec.pgroup.findIdx? fun e => e.peer == peer
/-- The ring neighbours of a rank: the ranks before and after it (R62). -/
def Launch.neighbours (l : Launch) (rank : Nat) : Nat × Nat :=
  let n := l.spec.pgroup.length
  ((rank + n - 1) % n, (rank + 1) % n)
/-- The first block of a rank. -/
def Launch.firstBlock (l : Launch) (rank : Nat) : Nat := (l.spec.pgroup.take rank).foldl (fun n e => n + e.share) 0
/-- The first block and the number of blocks that a peer's package runs; without a process group all of them. -/
def Launch.share (l : Launch) (peer : Nat) : Nat × Nat :=
  if l.spec.pgroup.isEmpty then (0, l.spec.blocks)
  else match l.rankOf peer with
    | some r => (l.firstBlock r, match l.spec.pgroup[r]? with | some e => e.share | .none => 0)
    | .none => (0, 0)
/-- Whether a block runs on a peer's package. -/
def Launch.holds (l : Launch) (peer b : Nat) : Bool :=
  let x := l.share peer
  decide (x.1 ≤ b) && decide (b < x.1 + x.2)

/-- The blocks of a cohort in ring order: by rank, then block index (R361). -/
def Launch.ringBlocks (l : Launch) (coh : Nat) : List Nat :=
  match l.spec.cohorts.find? fun c => c.index == coh with
  | some c => sortBy (fun x y => x ≤ y) c.blocks.eraseDups
  | .none => []

/-- The other peers whose packages run blocks of a cohort. -/
def Launch.otherPeers (l : Launch) (coh peer : Nat) : List Nat :=
  (l.spec.pgroup.map RankSpec.peer).filter fun p => p != peer && (l.ringBlocks coh).any fun b => l.holds p b

/-! ## Descriptors of collectives (R360) -/

/-- The fields of a collective's descriptor. -/
structure CollRec where
  kind : Nat
  coh : Nat
  op : Nat
  efmt : Nat
  wfmt : Nat
  flags : Nat
  root : Nat
  count : Nat
  src : Nat
  dst : Nat
  rel : Nat
  deriving DecidableEq, Repr

/-- The fields that the bytes of a descriptor hold. -/
def collRec (d : List Byte) : CollRec :=
  ⟨byteAt d 0, byteAt d 1, byteAt d 2, byteAt d 3, byteAt d 4, byteAt d 5, leAt d 8 4, leAt d 12 4, leAt d 16 8, leAt d 24 8,
   leAt d 32 4⟩

/-- Whether a kind reduces. -/
def CollRec.reduces (x : CollRec) : Bool := decide (x.kind ≤ 1)
/-- Whether a kind has a root. -/
def CollRec.rooted (x : CollRec) : Bool := [1, 2, 3, 4].contains x.kind
/-- Bytes of an element or of one byte. -/
def CollRec.unit (x : CollRec) : Nat := if x.reduces then fmtWidth x.efmt / 8 else 1

/-- A copy address of space 0 or 1 as a descriptor without a space field gives it: the form of space 1 names space 1
(log entry 39). -/
def collAddr (a : Nat) : Option CopyAddr := if a / 2 ^ 27 = 1 then copyAddr 1 a else copyAddr 0 a

/-- Whether the fields are valid in a collective of P participants of cohort coh; fn is the kind that the word names
(cause 5 of R360). -/
def collOk (d : List Byte) (P coh : Nat) (fn : Option Nat) : Bool :=
  let x := collRec d
  decide (x.kind ≤ 6) && (match fn with | some f => x.kind == f | none => true) && x.coh == coh && decide (x.flags < 2) &&
    (if x.reduces then decide (x.op ≤ 2) && [1, 3, 4].contains x.efmt && [1, 3].contains x.wfmt
     else x.op == 0 && x.efmt == 0 && x.wfmt == 0) &&
    zeroAt d 6 2 && zeroAt d 40 24 && (!x.rooted || decide (x.root < P)) && (x.flags.testBit 0 || x.rel == 0) &&
    (collAddr x.src).isSome && (collAddr x.dst).isSome

/-- Bytes that the participant at position p of P contributes, and bytes that it receives. -/
def CollRec.lens (x : CollRec) (P p : Nat) : Nat × Nat :=
  let n := x.count * x.unit
  let root := p == x.root
  match x.kind with
  | 0 => (n, n)
  | 1 => (n, if root then n else 0)
  | 2 => (if root then n else 0, n)
  | 3 => (n, if root then P * n else 0)
  | 4 => (if root then P * n else 0, n)
  | 5 => (n, P * n)
  | _ => (P * n, P * n)

/-- One element of a reduction over the participants' values, in ring order (R361). -/
def CollRec.element (x : CollRec) (vs : List Nat) : Nat × Flags :=
  let ef := floatFmt x.efmt
  let wf := floatFmt x.wfmt
  let conv (f g : FloatFmt) (v : Nat) : Nat × Flags := roundVal g Rnd.rne (decodeFloat f v)
  let step (r : Nat × Flags) (v : Nat) : Nat × Flags :=
    let y := conv ef wf v
    let z := match x.op with
      | 0 => fAdd wf Rnd.rne r.1 y.1
      | 1 => fMinMax false wf Rnd.rne r.1 y.1
      | _ => fMinMax true wf Rnd.rne r.1 y.1
    (z.1, r.2 ||| y.2 ||| z.2)
  match vs with
  | [] => (0, 0)
  | v :: rest =>
    let r := rest.foldl step (conv ef wf v)
    let o := conv wf ef r.1
    (o.1, r.2 ||| o.2)

/-- The bytes that the participant at position p receives from the contributions in ring order, with the flags of a
reduction. -/
def CollRec.result (x : CollRec) (p : Nat) (xs : List (List (Byte × Bool))) : List (Byte × Bool) × Flags :=
  let n := x.count
  let u := x.unit
  match x.kind with
  | 0 | 1 =>
    let one (j : Nat) : List (Byte × Bool) × Flags :=
      let parts := xs.map fun c => (c.drop (u * j)).take u
      let v := x.element (parts.map fun c => leNat (c.map Prod.fst))
      ((leBytes u v.1).map fun b => (b, parts.any fun c => c.any Prod.snd), v.2)
    let all := (List.range n).map one
    (all.flatMap Prod.fst, all.foldl (fun f y => f ||| y.2) 0)
  | 2 => (xs.getD x.root [], 0)
  | 4 => (((xs.getD x.root []).drop (p * n)).take n, 0)
  | 6 => (xs.flatMap fun c => (c.drop (p * n)).take n, 0)
  | _ => (xs.flatten, 0)

/-! ## Running a collective -/

/-- Launch, cohort and generation of a collective's entry. -/
def QEntry.collOf (e : QEntry) : Nat × Nat × Nat := (e.rows.getD 0 0, e.rows.getD 1 0, e.rows.getD 2 0)

/-- The cohort entry of a launch. -/
def Launch.cohort (l : Launch) (i : Nat) : Option Cohort := mapFind l.cohorts i

/-- The position of a block in its collective. -/
def Launch.position (l : Launch) (coh b : Nat) : Nat := (l.ringBlocks coh).findIdx fun x => x == b

/-- A collective's contribution enters its cohort; n is the generation of the block's next COLL. -/
def State.contribute (s : State) (launch coh : Nat) (c : Contribution) : State :=
  s.updLaunch launch fun l => l.updCohort coh fun h => { h with contribs := h.contribs ++ [c] }

/-- The local checks at the start of a collective and its contribution: a cause with its address, or the state (R360). -/
def State.collBegin (s : State) (k q : Nat) (e : QEntry) : State :=
  let base := spadBase (keyCore k / 64) + e.arg.toNat % 2 ^ 27
  let d := s.mem.bytes .spad base 64
  let x := collRec d
  let (launch, coh, gen) := e.collOf
  let l := mapGet Launch.none s.launches launch
  let P := (l.ringBlocks coh).length
  let p := l.position coh e.block
  let part := keyPart k
  let core := keyCore k
  let fail (c a : Nat) : State := s.xqFault k q e c a 0
  let rel := s.relObject part core e.blockMem x.rel
  if s.mem.poisoned .spad base 64 then fail 10 e.arg.toNat
  else if !collOk d P coh (if e.node.isSome then none else some (e.fn.toNat % 8)) then fail 5 e.arg.toNat
  else if x.flags.testBit 0 ∧ rel.isNone then fail 11 x.rel
  else match collAddr x.src, collAddr x.dst with
    | some sa, some da =>
      let n := x.lens P p
      let inRows (a : CopyAddr) (n : Nat) : Bool := a.space == 0 || (s.partition part).rowsOpen (core / 64) a.off n
      if !inRows sa n.1 then fail 3 x.src
      else if !inRows da n.2 then fail 3 x.dst
      else
        let r := Scan.reads ⟨s, [], []⟩ k e sa 0 n.1
        match r.2 with
        | .error (.fault c a _) => r.1.s.xqFault k q e c a 0
        | .error _ => r.1.s
        | .ok bs =>
          let s := r.1.s.contribute launch coh ⟨gen, e.block, d.take 16, bs, false⟩
          s.updEntry k q e.ticket fun e =>
            { e with
              recd := d, state := .running, prog := 0
              rel := if x.flags.testBit 0 then rel else none
              buf := if (l.otherPeers coh s.fabric.peer).isEmpty then [] else (d.take 16).map (fun b => (b, false)) ++ bs }
    | _, _ => fail 5 e.arg.toNat

/-- Whether a packet carries a piece of block b's contribution to a generation of a cohort (log entry 40). -/
def isPiece (heat : BitVec 16) (coh gen b : Nat) (p : Packet) : Bool :=
  p.heat == heat && p.opw.toNat % 256 == coh && p.opw.toNat / 256 % 2 ^ 18 == gen % 2 ^ 18 &&
    p.addr.toNat / 2 ^ 20 % 2 ^ 24 == b

/-- The contribution of a block that another package runs, once all of its pieces have arrived. -/
def State.farContribution (s : State) (job coh gen b : Nat) : Option (List Byte × List (Byte × Bool)) :=
  let ps := s.fabric.collective.filter (isPiece (s.heat16 job) coh gen b)
  let ps := sortBy (fun x y => decide (x.addr.toNat % 2 ^ 20 ≤ y.addr.toNat % 2 ^ 20)) ps
  let bytes := ps.flatMap fun p => p.data.zip p.pois
  match ps with
  | [] => none
  | p :: _ => if bytes.length = p.len then some ((bytes.take 16).map Prod.fst, bytes.drop 16) else none

/-- The contribution of a block: the first sixteen bytes of its descriptor and its data. -/
def State.contribution (s : State) (l : Launch) (coh gen b : Nat) : Option (List Byte × List (Byte × Bool)) :=
  if l.holds s.fabric.peer b then
    match l.cohort coh with
    | some h => (h.contribs.find? fun c => c.gen == gen && c.block == b).map fun c => (c.desc, c.data)
    | none => none
  else s.farContribution l.spec.job coh gen b

/-- Whether every crew of a block has ended, as far as the package knows (R362). -/
def Launch.blockGone (l : Launch) (coh b : Nat) : Bool :=
  match l.cohort coh with
  | some h => decide (l.spec.crews ≤ (h.gone.filter fun x => x == b).length)
  | .none => false

/-- The crews of a block that another package runs noted as ended (R362; log entry 128). -/
def State.farGone (s : State) (launch coh b : Nat) : State :=
  s.updLaunch launch fun l =>
    if l.holds s.fabric.peer b then l
    else l.updCohort coh fun h => { h with gone := h.gone ++ List.replicate l.spec.crews b }

/-- The result bytes written from a copy address, a granule at a time; n bounds the granules. Some halt where it stops. -/
def State.collWrite (s : State) (k q : Nat) (e : QEntry) (a : CopyAddr) : Nat → Nat → List (Byte × Bool) → State × Option Halt
  | _, 0, _ => (s, none)
  | d, n + 1, bs =>
    if bs.isEmpty then (s, none)
    else
      let m := min bs.length (64 - (a.off + d) % 64)
      let r := Scan.dests ⟨s, [], []⟩ k e a d m
      match r.2 with
      | .error h => (r.1.s, some h)
      | .ok ds =>
        let s := r.1.s.putGroup k q e false (ds.zip (bs.take m))
        s.collWrite k q e a (d + m) n (bs.drop m)

/-- A participant is done with a generation; when every participant of the package is, its data is forgotten. -/
def State.collTaken (s : State) (e : QEntry) : State :=
  let (launch, coh, gen) := e.collOf
  let l := mapGet Launch.none s.launches launch
  let mark (c : Contribution) : Contribution := if c.gen = gen ∧ c.block = e.block then { c with taken := true } else c
  let s := s.updLaunch launch fun l => l.updCohort coh fun h => { h with contribs := h.contribs.map mark }
  let mine := (l.ringBlocks coh).filter fun b => l.holds s.fabric.peer b
  let done := match (mapGet Launch.none s.launches launch).cohort coh with
    | some h => mine.all fun b => h.contribs.any fun c => c.gen == gen && c.block == b && c.taken
    | none => false
  if done then
    let s := s.updLaunch launch fun l => l.updCohort coh fun h => { h with contribs := h.contribs.filter fun c => c.gen != gen }
    let heat := s.heat16 l.spec.job
    { s with fabric := { s.fabric with
        collective := s.fabric.collective.filter fun p => !((l.ringBlocks coh).any fun b => isPiece heat coh gen b p) } }
  else s

/-- A collective whose packets are acknowledged: it waits for the contributions, then writes its own result (R361,
R362). -/
def State.collFinish (s : State) (k q : Nat) (e : QEntry) : State :=
  let (launch, coh, gen) := e.collOf
  let l := mapGet Launch.none s.launches launch
  let blocks := l.ringBlocks coh
  let x := collRec e.recd
  let got := blocks.map fun b => s.contribution l coh gen b
  let key (d : List Byte) : List Byte := d.take 5 ++ d.drop 8
  if got.all Option.isSome then
    let cs := got.filterMap id
    if cs.any fun c => key c.1 != key (e.recd.take 16) then s.xqFault k q e 18 e.arg.toNat 0
    else
      let p := l.position coh e.block
      let n := (x.lens blocks.length p).2
      match collAddr x.dst with
      | none => s.xqFault k q e 5 e.arg.toNat 0
      | some da =>
        let r := if n = 0 then ([], 0) else x.result p (cs.map Prod.snd)
        let w := s.collWrite k q e da 0 (n / 64 + 2) r.1
        match w.2 with
        | some (.fault c a _) => w.1.xqFault k q e c a 0
        | some _ => w.1
        | none =>
          let s := w.1
          let s := if x.reduces && n != 0 then
              { s with mem := s.mem.storeNat .spad (spadBase (keyCore k / 64) + e.arg.toNat % 2 ^ 27 + 36) 4 r.2.toNat }
            else s
          (s.updEntry k q e.ticket fun e => { e with state := .moved }).collTaken e
  else if blocks.any fun b => (s.contribution l coh gen b).isNone && l.blockGone coh b then
    s.xqFault k q e 17 e.arg.toNat 0
  else s

/-- What a running collective does next: an answer, a packet to another package, or the wait for the contributions. -/
def State.collRun (s : State) (k q : Nat) (e : QEntry) : State :=
  let (launch, coh, gen) := e.collOf
  let l := mapGet Launch.none s.launches launch
  match e.resp with
  | p :: rest =>
    if p.kind = kPoisoned then s.xqFault k q e 9 p.addr.toNat p.len
    else s.updEntry k q e.ticket fun e => { e with resp := rest, rows := e.rows ++ [p.wtid], prog := e.prog + 1 }
  | [] =>
    let peers := l.otherPeers coh s.fabric.peer
    let busy := s.inFlight k q e.ticket ++ e.rows.drop 3
    let todo := (List.range peers.length).flatMap fun i => (List.range ((e.buf.length + 4095) / 4096)).map fun c => 2 ^ 20 * i + c
    match todo.find? fun i => !busy.contains i with
    | some i =>
      let peer := peers.getD (i / 2 ^ 20) 0
      let c := i % 2 ^ 20
      let a := peer * 2 ^ 52 + e.block * 2 ^ 20 + c
      match s.engineRequest k q e i kCollReq a (coh + 256 * (gen % 2 ^ 18)) e.buf.length ((e.buf.drop (4096 * c)).take 4096) with
      | some s => s
      | none => s.xqFault k q e 9 a 1
    | none => if e.pending.isEmpty then s.collFinish k q e else s

/-! ## The entries (R358, R359, R362) -/

/-- The generation of a block's next COLL on a cohort, counted (R361). -/
def State.nextGeneration (s : State) (launch coh b : Nat) : Nat × State :=
  let l := mapGet Launch.none s.launches launch
  match l.cohort coh with
  | none => (0, s)
  | some h =>
    let n := mapGet 0 h.collIssued b
    (n, s.updLaunch launch fun l => l.updCohort coh fun h => { h with collIssued := mapSet 0 h.collIssued b (n + 1) })

/-- COLL (R60, R65, R66, R360). -/
def execColl (d a : RegNo) (n : BitVec 2) (kind : BitVec 3) (s : State) : Result :=
  let fn := 8 * n.toNat + kind.toNat
  let v := s.sreg a
  if kind = 7 then .next (s.illegal 9 fn)
  else match s.cohortOf s.crew n.toNat with
    | none => .next (s.raise 0x0C n.toNat 0 (n.setWidth 32))
    | some (i, h) =>
      let record := s.logRecord 0x39 none false (BitVec.ofNat 64 i)
      if s.divides then .next s.divergent
      else if !s.crew.splitIdle s.curSplit then .next (s.stay .lanes)
      else if (s.spadAddr s.crew.part (slotDie s.cur) v 64 64).isNone then .next (s.raise 0x0A 3 v 0)
      else
        let (may, s) := s.begins (fun x => (s.launch.slots x.block).contains i) h.spans
        if !may then .next (s.stay .lanes)
        else if 32 ≤ s.waiting s.qk 6 then .next (s.stay .room)
        else if !s.replayReady record then .next (s.stay .lanes)
        else
        let s := s.logOp record
        let g := s.nextGeneration s.crew.launch i s.crew.block
        .next (g.2.issueTo d 6 32 { g.2.newEntry 0x39 fn v with rows := [s.crew.launch, i, g.1] })

/-- Whether an entry is a collective of the same cohort and generation as another. -/
def QEntry.sameColl (a b : QEntry) : Bool := a.opcode == 0x39 && b.opcode == 0x39 && a.collOf == b.collOf

/-- The tickets of a queue's entries that may run: of xq the first, and the collectives behind it that take part in the one
that it waits for; of the graph scheduler's collectives all (R308, R358; log entry 41). -/
def runnableXq (q : Nat) (ents : List QEntry) : List Word :=
  let open' := ents.filter fun e => e.state != .complete
  match open' with
  | [] => []
  | h :: rest =>
    if q = 10 then open'.map QEntry.ticket
    else h.ticket :: (if h.state = .running then (rest.takeWhile fun e => e.sameColl h).map QEntry.ticket else [])

/-- One entry starts or goes on. -/
def State.xqStep (s : State) (k q : Nat) (t : Word) : State :=
  match s.entry k q t with
  | none => s
  | some e =>
    match e.state with
    | .queued =>
      if !s.afterDone k e then s
      else if e.opcode = 0x39 then s.collBegin k q e
      else match s.putChecks k e with
        | .error c => s.xqFault k q e c e.arg.toNat 0
        | .ok e => s.updEntry k q t fun _ => e
    | .running => if e.opcode = 0x39 then s.collRun k q e else s.xputRun k q e
    | _ => s

/-- The queues of the fabric unit that a core's step serves: its xq, and the graph scheduler's collectives of its die. -/
def xqQueues : List Nat := [6, 10]

/-- XQ_ENTRY_START (R358, R359). -/
def execXqEntryStart (part core : Nat) (s : State) : Result :=
  .next (xqQueues.foldl (fun s q =>
    let k := queueKey part core q
    if s.engineRuns k then (runnableXq q (s.queue k q).ents).foldl (fun s t => s.xqStep k q t) s else s) s)

/-- XQ_ENTRY_COMPLETE (R359, R362). -/
def execXqEntryComplete (part core : Nat) (s : State) : Result :=
  .next (xqQueues.foldl (fun s q =>
    let k := queueKey part core q
    match if s.engineRuns k then (s.queue k q).ents.find? fun e => e.state == .moved else none with
    | none => s
    | some e => (s.entryRelease e).settleEntry k q e.ticket) s)

/-- XQ_ENTRY_RESUME (R359): causes 1, 2 and 9; only targets that have not acknowledged are sent to. -/
def execXqEntryResume (part core : Nat) (s : State) : Result :=
  let k := qkey part core
  .next (match (s.queue k 6).ents.find? fun e => e.state == .faulted with
    | none => s
    | some e =>
      if [1, 2, 9].contains e.cause then
        s.updEntry k 6 e.ticket fun e =>
          { e with
            state := if e.recd.isEmpty then .queued else .running
            cause := 0, faultAddr := 0, rdet := 0, prog2 := 0, resp := []
            rows := if e.opcode = 0x39 then e.rows else [] }
      else s)

/-- XQ_ENTRY_RETIRE (R359): kind 0x0F. -/
def execXqEntryRetire (part core : Nat) (s : State) : Result :=
  let k := qkey part core
  .next (match (s.queue k 6).ents.find? fun e => e.state == .faulted with
    | none => s
    | some e =>
      let s := s.putAcked e
      let s := if e.opcode = 0x39 then s.collTaken e else s
      s.retireEntry k 6 e 0x0F e.faultAddr.toNat e.prog)

end Sys2Proof.Machine
end

