-- ==== Sys2Proof/Machine/Graph.lean ====
section
/-! DEFINITION. The graph scheduler: nodes and their states, completion, tokens, spawned tasks leaving their parents, and
what a fault does: cones, their walks, resolution and release (R294 to R302, R309, R314 to R328). -/

namespace Sys2Proof.Machine

/-! ## Graphs and nodes (R294, R296) -/

/-- The key of a graph. -/
def graphKey (part handle : Nat) : Nat := 64 * part + handle
/-- The partition of a graph's key. -/
def graphPart (key : Nat) : Nat := key / 64
/-- The die of a node id. -/
def idDie (id : Nat) : Nat := id / 2 ^ 24 % 4
/-- Whether a node id belongs to a spawned task. -/
def idSpawned (id : Nat) : Bool := id.testBit 23

/-- Whether the graph scheduler serves a partition: no core of the partition is caught for a switch (R313, R328). -/
def State.gsRuns (s : State) (part : Nat) : Bool := !s.switching part fun _ => true

/-- A node of a graph. -/
def State.node (s : State) (key id : Nat) : Option Node := (s.graph key).node id

/-- A record of a graph (R235, R299, R308, R326). -/
def State.graphPost (s : State) (key kind node cause ticket addr prog : Nat) : State :=
  let g := s.graph key
  s.post g.job g.launch { Record.blank kind (64 * idDie node) with
    cause := cause, fq := g.fq.toNat, ticket := ticket, addr := addr, prog := prog, node := node }

/-- The launch that a LAUNCH node runs: the operating system's own, or the registered record that ENTRY names (R294,
R298). -/
def State.launchOfNode (s : State) (g : Graph) (n : Node) : Option Nat :=
  if n.record.isNone ∧ n.kind = 1 then some g.launch
  else (s.launches.find? fun l => l.2.spec.job == g.job && l.2.spec.recordAt == some n.entry.toNat).map Prod.fst

/-- The first block and the number of blocks that a LAUNCH node runs on this package (R62). -/
def State.nodeBlocks (s : State) (g : Graph) (n : Node) : Nat × Nat :=
  match s.launchOfNode g n with
  | some l => (mapGet Launch.none s.launches l).share s.fabric.peer
  | none => (0, 0)

/-- A node becomes READY (R299, R300, R321). -/
def State.makeReady (s : State) (key id : Nat) : State :=
  let g := s.graph key
  s.updNode key id fun n =>
    { n with
      state := .ready, since := s.steps, entered := false, crews := [], past := [], endClock := 0, faults := []
      blocksLeft := if n.kind = 1 then (s.nodeBlocks g n).2 else if n.kind = 0 then 1 else 0 }

/-- Tasks of a node. -/
def Task.of (t : Task) (key id : Nat) : Bool := graphKey t.part t.handle == key && t.node == id

/-- A node's tasks leave the banks and the prefetch buffers (R314, R317). -/
def State.dropTasks (s : State) (key id : Nat) : State :=
  let keep (l : List Task) : List Task := l.filter fun t => !t.of key id
  { s with
    dies := (List.range 4).foldl (fun m d => mapSet Die.empty m d { mapGet Die.empty m d with bank := keep (mapGet Die.empty m d).bank }) s.dies
    cores := s.cores.foldl (fun m x => mapSet Core.reset m x.1 { x.2 with prefetch := keep x.2.prefetch }) s.cores }

/-- A spawned task that is DONE or ends CANCELLED leaves its parent's counts, and its slot is freed (R309, R310). -/
def State.childLeft (s : State) (key id : Nat) (cancelled : Bool) : State :=
  match s.node key id with
  | none => s
  | some n =>
    let s := s.updGraph key fun g => { g with nodes := g.nodes.filter fun x => x.id != id }
    match n.parent with
    | none => s
    | some (slot, uid, p) =>
      let s := s.updNode key p fun x => { x with join := x.join - 1 }
      let c := s.crewAt slot
      if c.live && c.uid == uid then
        s.setCrewAt slot { c with
          jcnt := c.jcnt - 1
          cancelled := if cancelled then min (c.cancelled + 1) (2 ^ 32 - 1) else c.cancelled
          childClock := clockMax c.childClock n.endClock }
      else s

/-! ## The engine entry of a node (R308) -/

/-- Queue set and queue in which an engine node is issued. -/
def nodeQueue (part id kind : Nat) (x : BitVec 16) : Nat × Nat :=
  let core := 64 * idDie id + x.toNat % 64
  let q := match kind with | 2 => 7 | 3 => 9 | 4 => 8 | _ => 10
  (queueKey part core q, q)

/-- The entry of an engine node that has not completed, in whatever set of its partition it lies: a restore may have moved
it with its core (R385). -/
def State.nodeEntry (s : State) (key : Nat) (n : Node) : Option (Nat × Nat × QEntry) :=
  s.qsets.findSome? fun x =>
    if keyPart x.1 ≠ graphPart key then none
    else [7, 8, 9, 10].findSome? fun q =>
      ((x.2.queue q).ents.find? fun e => e.node == some (key % 64, n.id) && e.state != .complete).map fun e => (x.1, q, e)

/-- Record kinds of a retirement by queue (R235). -/
def retireKind (q : Nat) : Nat := match q with | 7 => 0x02 | 9 => 0x05 | 8 => 0x07 | _ => 0x0F

/-- The scheduler retires a node's entry, as R233 states, with no ASYNCF bit; what it holds of its engine is freed (R314,
R317). -/
def State.retireNode (s : State) (key : Nat) (n : Node) : State :=
  let s := match s.nodeEntry key n with | some (k, 8, _) => s.endStep (keyCore k) | _ => s
  match s.nodeEntry key n with
  | none => s
  | some (k, q, e) =>
    let s := if q = 7 then s.writeStat k q e 4 else s
    let s := if q = 9 then
        { s with cores := s.cores.foldl (fun m x => mapSet Core.reset m x.1
            (if x.2.tile = some (k, q, e.ticket) then { x.2 with tile := none } else x.2)) s.cores }
      else s
    let s := if q = 9 ∧ e.state ≠ .queued then
        s.completionWord e.engine e (if e.state = .faulted then e.flags.setWidth 32 else s.tileStatus e.engine (tileRec e.recd))
      else s
    let s := { s with fabric := { s.fabric with
      reqs := s.fabric.reqs.filter fun r => !(r.origin != 0 && r.qset == k && r.q == q && r.ticket == e.ticket) } }
    let s := if q = 10 then s.collTaken e else s
    s.retireEntry k q e (retireKind q) e.faultAddr.toNat (if q = 7 then e.progWord else e.prog)

/-! ## Cones (R314 to R323) -/

/-- Live spawned tasks of a node, in ascending id (R315). -/
def Graph.spawned (g : Graph) (id : Nat) : List Nat :=
  sortBy (fun x y => x ≤ y) ((g.nodes.filter fun n => match n.parent with | some p => p.2.2 == id | .none => false).map Node.id)

/-- Successors of a node, then its live spawned tasks (R316). -/
def Graph.downstream (g : Graph) (n : Node) : List Nat := n.succs.map Prod.fst ++ g.spawned n.id

/-- The node that an id and a uid name. -/
def Graph.member (g : Graph) (x : Nat × Nat) : Option Node := g.nodes.find? fun n => n.id == x.1 && n.uid == x.2
/-- Ids of live nodes as members of a cone. -/
def Graph.named (g : Graph) (ids : List Nat) : List (Nat × Nat) :=
  ids.filterMap fun id => (g.node id).map fun n => (id, n.uid)
/-- A node as a member. -/
def Node.key (n : Node) : Nat × Nat := (n.id, n.uid)

/-- Members not on a list, each once, appended. -/
def appendNew (l new : List (Nat × Nat)) : List (Nat × Nat) := new.foldl (fun l x => if l.contains x then l else l ++ [x]) l

/-- Whether a pending cone has visited a node. -/
def Graph.inPending (g : Graph) (x : Nat × Nat) : Bool := g.cones.any fun c => c.resolved.isNone && c.held.contains x

/-- A node becomes FAULTED: the rest of its own work is stopped, its record posted, its cone opened (R314). -/
def State.openCone (s : State) (key id cause ticket : Nat) : State :=
  match s.node key id with
  | none => s
  | some n =>
    let s := s.retireNode key n
    let s := s.dropTasks key id
    let s := s.updNode key id fun n => { n with state := .faulted, blocksLeft := 0, entered := false }
    let s := s.graphPost key 0x0A id cause ticket 0 n.attempt
    s.updGraph key fun g =>
      { g with
        faultSeen := true
        cones := g.cones ++ [{
          head := id, headUid := n.uid, members := (appendNew [] (g.named (g.downstream n))).filter (· != n.key), visited := 0
          held := [], quiet := false, resolved := Option.none, cause := cause }] }

/-- A member becomes CANCELLED; a spawned task then leaves its parent's count (R317). -/
def State.cancelNode (s : State) (key id : Nat) : State :=
  let s := s.updNode key id fun n => { n with state := .cancelled }
  if idSpawned id then s.childLeft key id true else s

/-- Whether a CANCELLING member has come to its end: its crews have ended, no fault of it waits to be absorbed, and each of
its own spawned tasks is CANCELLED or DONE, so that none is left (R317, R324; log entry 43). -/
def Graph.settled (g : Graph) (n : Node) : Bool :=
  n.state == .cancelling && n.crews.isEmpty && n.faults.isEmpty && (g.spawned n.id).isEmpty

/-- CANCELLING members that have come to their end become CANCELLED; n bounds how many. -/
def State.settleNodes (s : State) (key : Nat) : Nat → State
  | 0 => s
  | n + 1 =>
    let g := s.graph key
    match g.nodes.find? g.settled with
    | none => s
    | some x => (s.cancelNode key x.id).settleNodes key n

/-- Whether a cone is quiet (R320). -/
def Graph.coneQuiet (g : Graph) (c : Cone) : Bool :=
  c.visited == c.members.length &&
    (match g.member (c.head, c.headUid) with | some h => h.crews.isEmpty | .none => true) &&
    c.held.all fun x => match g.member x with
      | some n => !List.contains [.wait, .ready, .running, .cancelling] n.state
      | .none => true

/-- Whether a retried head may leave RETRYWAIT: no pending cone holds it, and a head that faulted on a mapping or link has
been released (R321). -/
def Graph.headFree (g : Graph) (n : Node) : Bool :=
  n.state == .retryWait && !g.inPending n.key &&
    !(g.cones.any fun c => (c.head, c.headUid) == n.key && [1, 2, 9].contains c.cause && [2, 3, 5].contains n.kind)

/-- Heads that may leave RETRYWAIT become READY. -/
def State.freeHeads (s : State) (key : Nat) : State :=
  let g := s.graph key
  let heads := (g.nodes.filter g.headFree).map Node.id
  let s := heads.foldl (fun s id => s.makeReady key id) s
  let s := s.updGraph key fun g =>
    { g with cones := g.cones.map fun c => if heads.contains c.head then { c with cause := 0 } else c }
  s.updGraph key fun g =>
    { g with cones := g.cones.filter fun c =>
        c.resolved.isNone || !c.held.isEmpty ||
          (match g.member (c.head, c.headUid) with | some h => h.state == .retryWait | .none => false) }

/-- What follows from the end of crews and visits: members end, cones become quiet, heads become READY (R317, R320,
R321). -/
def State.coneTick (s : State) (key : Nat) : State :=
  let s := s.settleNodes key (s.graph key).nodes.length
  let s := s.updGraph key fun g =>
    { g with cones := g.cones.map fun c => if c.resolved.isNone ∧ g.coneQuiet c then { c with quiet := true } else c }
  s.freeHeads key

/-- NODE_FAULT (R314, R324): a fault of a crew, an entry or a check that waits for the scheduler. One that arises at a node
which has stopped already is dropped. -/
def execNodeFault (part handle node : Nat) (cause : BitVec 8) (ticket : Word) (s : State) : Result :=
  let key := graphKey part handle
  .next (match s.node key node with
    | none => s
    | some n =>
      let f := (cause.toNat, ticket)
      if !s.gsRuns part ∨ !n.faults.contains f then s
      else
        let s := s.updNode key node fun n => { n with faults := n.faults.erase f }
        if n.state = .cancelling ∧ (s.graph key).inPending n.key then
          ((s.retireNode key n).graphPost key 0x0C node cause.toNat ticket.toNat 0 0).coneTick key
        else if n.state = .ready ∨ n.state = .running then (s.openCone key node cause.toNat ticket.toNat).coneTick key
        else s)

/-- A visit to a member (R317); the members that follow from it are appended. A member whose slot has been freed since is
passed. -/
def State.visit (s : State) (key head : Nat) (x : Nat × Nat) : State :=
  let id := x.1
  match (s.graph key).member x with
  | none => s
  | some m =>
    let next := (s.graph key).named ((s.graph key).downstream m)
    let mark (s : State) (more : List (Nat × Nat)) : State := s.updGraph key fun g =>
      { g with cones := g.cones.map fun c =>
          if c.head = head ∧ c.resolved.isNone then
            { c with held := c.held ++ [x], members := appendNew c.members (more.filter (· != (head, c.headUid))) }
          else c }
    if m.state = .done then mark s []
    else
      let s := mark s next
      let cancelling (s : State) : State := s.updNode key id fun n => { n with state := .cancelling, blocksLeft := 0 }
      match m.state with
      | .wait => (cancelling s).cancelNode key id
      | .ready => ((cancelling s).dropTasks key id).cancelNode key id
      | .running => ((cancelling s).dropTasks key id).retireNode key m
      | _ => s

/-- CONE_VISIT (R316, R317). -/
def execConeVisit (part handle head : Nat) (s : State) : Result :=
  let key := graphKey part handle
  .next (if !s.gsRuns part then s
    else match (s.graph key).cones.find? fun c => c.head == head && c.resolved.isNone with
    | none => s
    | some c =>
      match c.members[c.visited]? with
      | none => s.coneTick key
      | some x =>
        let s := s.updGraph key fun g =>
          { g with cones := g.cones.map fun c =>
              if c.head = head ∧ c.resolved.isNone then { c with visited := c.visited + 1 } else c }
        (s.visit key head x).coneTick key)

/-- Whether a crew is to be stopped for the cone of a head: it serves the faulted head, or a CANCELLING member (R314,
R318). -/
def State.toStop (s : State) (c : Crew) (head : Nat) : Bool :=
  let g := s.graph (graphKey c.part c.handle)
  c.live && (match g.node c.node with
    | some n =>
      (n.id == head && n.state == .faulted) ||
        (n.state == .cancelling && g.cones.any fun k => k.head == head && k.resolved.isNone && k.held.contains n.key)
    | none => false)

/-- CREW_STOP (R318): class 0x05, DETAIL the low bits of the head's id, no record. -/
def execCrewStop (slot head : Nat) (s : State) : Result :=
  let c := s.crewAt slot
  .next (if s.toStop c head && !c.caught then
      (s.endCrew slot (0x05#8 ++ 0#8 ++ BitVec.ofNat 16 head) false).coneTick (graphKey c.part c.handle)
    else s)

/-- The predecessor slots of a node that the head and members of the cones that hold it name (R321). -/
def Graph.clearedSlots (g : Graph) (m : Node) : List Nat :=
  let from' := (g.cones.filter fun c => c.held.contains m.key).flatMap fun c => (c.head, c.headUid) :: c.members
  (g.nodes.filter fun n => from'.contains n.key).flatMap fun n => (n.succs.filter fun x => x.1 == m.id).map Prod.snd

/-- Ones in a 64-bit word. -/
def popcount64 (x : DWord) : Nat := ((List.range 64).filter fun i => x.getLsbD i).length

/-- A table member is re-armed (R321 step 2). -/
def State.rearm (s : State) (key : Nat) (m : Node) : State :=
  let arrived := ((s.graph key).clearedSlots m).foldl (fun (a : DWord) i => a &&& ~~~(1#64 <<< i)) m.arrived
  let remaining := m.npred - popcount64 arrived
  let s := s.updNode key m.id fun n => { n with arrived := arrived, remaining := remaining, state := .wait }
  let s := s.updGraph key fun g => { g with cones := g.cones.map fun c => { c with held := c.held.filter (· != m.key) } }
  if remaining = 0 then s.makeReady key m.id else s

/-- The member that may be re-armed: of the table, CANCELLED or found DONE, in no pending and no abandoned cone (R321 to
R323). -/
def Graph.rearmable (g : Graph) (x : Nat × Nat) : Option Node :=
  if g.inPending x || idSpawned x.1 || g.cones.any fun c => c.resolved == some false && c.held.contains x then .none
  else match g.member x with
    | some n => if n.state = .cancelled ∨ n.state = .done then some n else .none
    | .none => .none

/-- A cone is retried (R321). -/
def State.retryCone (s : State) (key : Nat) (c : Cone) (h : Node) : State :=
  let s := s.updNode key h.id fun n => { n with state := .retryWait, attempt := n.attempt + 1, join := 0 }
  let s := s.updGraph key fun g =>
    { g with cones := g.cones.map fun x => if x = c then { x with resolved := some true } else x }
  let s := c.held.foldl (fun s x => match (s.graph key).rearmable x with | some m => s.rearm key m | none => s) s
  s.graphPost key 0x0B h.id 0 0 0 (h.attempt + 1)

/-- A cone is abandoned (R322, R323). -/
def State.abandonCone (s : State) (key : Nat) (c : Cone) (h : Node) : State :=
  let s := s.updGraph key fun g =>
    { g with cones := g.cones.map fun x => if x = c then { x with resolved := some false } else x }
  let s := c.held.foldl (fun s x => match (s.graph key).member x with
    | some n => if n.state = .retryWait then s.cancelNode key x.1 else s
    | none => s) s
  if idSpawned h.id then s.childLeft key h.id true else s

/-- CONE_RESOLVE (R320 to R323): the oldest pending cone, once it is quiet. -/
def execConeResolve (part handle : Nat) (s : State) : Result :=
  let key := graphKey part handle
  .next (if !s.gsRuns part then s
    else
      let s := s.coneTick key
      match (s.graph key).cones.find? fun c => c.resolved.isNone with
      | none => s
      | some c =>
        if !c.quiet then s
        else match (s.graph key).member (c.head, c.headUid) with
          | none => s.updGraph key fun g => { g with cones := g.cones.filter fun x => x != c }
          | some h =>
            let s := if h.attempt < h.budget then s.retryCone key c h else s.abandonCone key c h
            s.coneTick key)

/-- HEAD_RELEASE (R321 step 4): the operating system has repaired the mapping or the link. -/
def execHeadRelease (part handle node : Nat) (s : State) : Result :=
  let key := graphKey part handle
  .next ((s.updGraph key fun g =>
    { g with cones := g.cones.map fun c => if c.head = node then { c with cause := 0 } else c }).freeHeads key)

/-! ## Tokens and completion (R300, R301) -/

/-- A token is applied to its target (R300). -/
def State.applyToken (s : State) (t : Token) : State :=
  let key := graphKey t.part t.handle
  match s.node key t.target with
  | none => s
  | some n =>
    if n.arrived.getLsbD t.slot then s.updGraph key fun g => { g with dupTok := true }
    else
      let s := s.updNode key t.target fun n => { n with arrived := n.arrived ||| (1#64 <<< t.slot) }
      if n.state = .wait then
        let s := s.updNode key t.target fun n => { n with remaining := n.remaining - 1 }
        if n.remaining = 1 then s.makeReady key t.target else s
      else s

/-- TOKEN (R300): the first on its way to a die. -/
def execToken (die : Nat) (s : State) : Result :=
  .next (match (s.die die).tokens with
    | [] => s
    | t :: rest => (s.updDie die fun d => { d with tokens := rest }).applyToken t)

/-- Whether the work of a RUNNING node is over: its crews have ended and their engine entries are complete, or its own
entry is (R301). -/
def State.nodeOver (s : State) (key : Nat) (n : Node) : Bool :=
  n.state == .running && n.faults.isEmpty &&
    (if n.kind ≤ 1 then
       n.crews.isEmpty && n.blocksLeft == 0 && n.join == 0 &&
         s.qsets.all fun x => x.2.queues.all fun q => q.2.ents.all fun e => !n.past.contains e.uid || e.state == .complete
     else (s.nodeEntry key n).isNone)

/-- The release that a node record names (R301). -/
def State.linkRelease (s : State) (n : Node) : State :=
  if n.flags.getLsbD 1 then s.release true (spadBase (idDie n.id) + n.link.toNat % 2 ^ 27) 0 else s

/-- NODE_DONE (R301): the release on LINK, DONE, the tokens. -/
def execNodeDone (part handle node : Nat) (s : State) : Result :=
  let key := graphKey part handle
  .next (match s.node key node with
    | none => s
    | some n =>
      if !s.gsRuns part || !s.nodeOver key n then s
      else
        let s := (s.linkRelease n).updNode key node fun n => { n with state := .done }
        let s := n.succs.foldl (fun s x =>
          s.updDie (idDie x.1) fun d => { d with tokens := d.tokens ++ [⟨part, handle, x.1, x.2⟩] }) s
        if idSpawned node then (s.childLeft key node false).coneTick key else s)

end Sys2Proof.Machine
end

