-- ==== Sys2Proof/Machine/Tqu.lean ====
section
/-! DEFINITION. Loading and ending a graph, the task queue unit, placement of blocks, engine nodes, and SPWN, JNWT, GLCH
and GCTL (R55 to R57, R294 to R312, R327). -/

namespace Sys2Proof.Machine

/-! ## Slots and banks (R299, R303) -/

/-- The slots of a die that a partition's graphs hold: those of live nodes, and of tables not yet loaded. -/
def State.slotsHeld (s : State) (part die : Nat) : List Nat :=
  s.graphs.flatMap fun g =>
    if graphPart g.1 ≠ part then []
    else (g.2.nodes.filter fun n => idDie n.id == die && (n.record.isSome || idSpawned n.id)).map Node.gsSlot ++
      (if g.2.gstate = 1 then List.replicate (g.2.ncnt.getD die 0) (2 ^ 18) else [])

/-- Whether n more slots of a die are free for a partition: of the 256K of the die, and of the 4,096 for each mapped core
(R299). -/
def State.slotRoom (s : State) (part die n : Nat) : Bool :=
  n == 0 ||
    (decide (((List.range 16).foldl (fun k p => k + (s.slotsHeld p die).length) 0) + n ≤ 2 ^ 18) &&
      decide ((s.slotsHeld part die).length + n ≤ 4096 * (s.mappedCores part die).length))

/-- The lowest number not on a list. -/
def lowestFree (l : List Nat) : Nat := match (List.range (l.length + 1)).find? fun i => !l.contains i with | some i => i | none => 0

/-- READY nodes of a partition on a die that wait for the bank: key, id, the step at which they became READY. -/
def State.bankWaiters (s : State) (part die : Nat) : List (Nat × Nat × Nat) :=
  s.graphs.flatMap fun g =>
    if graphPart g.1 ≠ part then []
    else (g.2.nodes.filter fun n => n.state == .ready && decide (n.kind ≤ 1) && !n.entered && idDie n.id == die).map
      fun n => (g.1, n.id, n.since)

/-! ## Loading (R297, R299, R405) -/

/-- A 64-byte record read at a virtual address: its bytes, or a cause. -/
def State.gsRead (s : State) (part troot die va : Nat) : State × Except Nat (List Byte) :=
  let r := s.translate (256 + die) part troot va true false
  match r.2 with
  | .error c => (r.1, .error c)
  | .ok o =>
    if r.1.spotsPoisoned (.hbm part o) 64 then (r.1, .error 10) else (r.1, .ok (r.1.spotBytes (.hbm part o) 64))

/-- The successor words of a list of bytes that are not empty: target and slot (R296). -/
def succWords (bs : List Byte) (o n : Nat) : List (Nat × Nat) :=
  ((List.range n).map fun i => leAt bs (o + 4 * i) 4).filterMap fun w =>
    if w = 0xFFFFFFFF then none else some (w / 64, w % 64)

/-- The successors of an overflow chain, or a cause with its address (R297). The address of an overflow record is given
where its own translation fails. -/
def State.gsOverflow (s : State) (part troot die base va : Nat) :
    Nat → Nat → List Nat → State × Except (Nat × Nat) (List (Nat × Nat))
  | 0, _, _ => (s, .error (5, va))
  | n + 1, idx, seen =>
    if idx = 0xFFFFFFFF then (s, .ok [])
    else if seen.contains idx ∨ 2 ^ 26 ≤ idx then (s, .error (5, va))
    else
      let r := s.gsRead part troot die (base + 64 * idx)
      match r.2 with
      | .error c => (r.1, .error (c, if c = 10 then va else base + 64 * idx))
      | .ok bs =>
        let q := r.1.gsOverflow part troot die base va n (leAt bs 60 4) (idx :: seen)
        (q.1, match q.2 with | .error e => .error e | .ok l => .ok (succWords bs 0 15 ++ l))

/-- A node with nothing started, as a record gives it; its uid is given when it enters the graph. -/
def recordNode (bs : List Byte) (id : Nat) (va : Option Nat) (succs : List (Nat × Nat)) : Node :=
  let hdr := leAt bs 0 4
  let npred := hdr / 2 ^ 18 % 64
  let arrived : DWord := BitVec.ofNat 64 (leAt bs 32 8)
  { id := id, uid := 0, kind := hdr % 16, state := .wait, prio := hdr / 256 % 4, budget := hdr / 1024 % 16, attempt := 0
    npred := npred, flags := BitVec.ofNat 8 (hdr / 2 ^ 24), entry := BitVec.ofNat 64 (leAt bs 8 8)
    arg := BitVec.ofNat 64 (leAt bs 16 8), tileX := BitVec.ofNat 16 (leAt bs 24 2), tileY := BitVec.ofNat 16 (leAt bs 26 2)
    tileZ := BitVec.ofNat 16 (leAt bs 28 2), gen := BitVec.ofNat 16 (leAt bs 30 2), arrived := arrived
    remaining := npred - popcount64 arrived, join := 0, succs := succs, record := va
    link := BitVec.ofNat 32 (leAt bs 60 4), parent := none, gsSlot := 0, crews := [], past := [], blocksLeft := 0
    entered := false, since := 0, endClock := 0, faults := [] }

/-- Whether a node record's own fields are valid (R299). -/
def State.recordOk (s : State) (part id : Nat) (bs : List Byte) : Bool :=
  let hdr := leAt bs 0 4
  let flags := hdr / 2 ^ 24
  leAt bs 4 4 == id && hdr % 16 ≤ 5 && hdr / 16 % 16 == 0 && hdr / 2 ^ 14 % 16 == 0 && flags % 2 == 0 && flags / 8 == 0 &&
    leAt bs 32 8 / 2 ^ (hdr / 2 ^ 18 % 64) == 0 &&
    (!flags.testBit 1 || (s.spadAddr part (idDie id) (BitVec.ofNat 32 (leAt bs 60 4)) 8 8).isSome)

/-- A node of a die's table, or a cause with its address. -/
def State.gsNode (s : State) (key troot die i : Nat) : State × Except (Nat × Nat) Node :=
  let g := s.graph key
  let part := graphPart key
  let id := die * 2 ^ 24 + i
  let va := g.nbase.getD die 0 + 64 * i
  let r := s.gsRead part troot die va
  match r.2 with
  | .error c => (r.1, .error (c, va))
  | .ok bs =>
    if !r.1.recordOk part id bs then (r.1, .error (5, va))
    else
      let o := r.1.gsOverflow part troot die g.obase va (2 ^ 26 + 1) (leAt bs 56 4) []
      match o.2 with
      | .error e => (o.1, .error e)
      | .ok l => (o.1, .ok (recordNode bs id (some va) (succWords bs 40 4 ++ l)))

/-- The nodes of a list of (die, index) up to the first that fails, with that one's cause, node id and address. -/
def State.gsNodes (s : State) (key troot : Nat) : List (Nat × Nat) → State × List Node × Option (Nat × Nat × Nat)
  | [] => (s, [], none)
  | (d, i) :: rest =>
    let r := s.gsNode key troot d i
    match r.2 with
    | .error (c, a) => (r.1, [], some (c, d * 2 ^ 24 + i, a))
    | .ok n =>
      let q := r.1.gsNodes key troot rest
      (q.1, n :: q.2.1, q.2.2)

/-- The first node that has a successor which names no table node, or a slot at or above its target's NPRED. -/
def badSuccessor (l : List Node) : Option Node :=
  l.find? fun n => n.succs.any fun x => match l.find? fun t => t.id == x.1 with
    | some t => decide (t.npred ≤ x.2)
    | none => true

/-- Slots given to loaded nodes, in ascending index (R299). -/
def giveSlots (held : Nat → List Nat) : List Node → List Node
  | [] => []
  | n :: rest =>
    let k := lowestFree (held (idDie n.id))
    { n with gsSlot := k } :: giveSlots (fun d => if d = idDie n.id then k :: held d else held d) rest

/-- The release of DONEOBJ (R312). -/
def State.doneRelease (s : State) (key : Nat) : State :=
  match (s.graph key).doneObj with | some (sp, a) => s.release sp a 0 | none => s

/-- A table record's header and ARRIVED written back (R312, R405). -/
def State.writeBack (s : State) (key : Nat) (n : Node) : State :=
  match n.record with
  | none => s
  | some va =>
    let part := graphPart key
    let r := s.translate (256 + idDie n.id) part (s.job (s.graph key).job).troot va false true
    match r.2 with
    | .error c => r.1.graphPost key 0x11 n.id c 0 va 0
    | .ok o =>
      let s := r.1.spotPut (.hbm part o) (leBytes 4 n.header.toNat)
      s.spotPut (.hbm part (o + 32)) (leBytes 8 n.arrived.toNat)

/-- A graph ends: the records are written back, the slots are free, DONEOBJ is released (R312). -/
def State.endGraph (s : State) (key : Nat) (nodes : List Node) : State :=
  let s := nodes.foldl (fun s n => s.writeBack key n) s
  (s.updGraph key fun g => { g with nodes := [], cones := [] }).doneRelease key

/-- Nodes with uids of their own, from the next one on. -/
def State.nameNodes (s : State) (l : List Node) : List Node × State :=
  (l.zipIdx.map fun x => { x.1 with uid := s.nextUid + x.2 }, { s with nextUid := s.nextUid + l.length })

/-- GRAPH_LOAD_COMPLETE (R299). A load that fails writes back the records read before (log entry 130). -/
def execGraphLoadComplete (part handle : Nat) (s : State) : Result :=
  let key := graphKey part handle
  let g := s.graph key
  .next (if g.gstate ≠ 1 ∨ !s.gsRuns part then s
    else
      let all := (List.range 4).flatMap fun d => (List.range (g.ncnt.getD d 0)).map fun i => (d, i)
      let r := s.gsNodes key (s.job g.job).troot all
      let s := r.1
      let l : List Node := r.2.1
      let bad : Option (Nat × Nat × Nat) := match r.2.2 with
        | some x => some x
        | none => (badSuccessor l).map fun n => (5, n.id, n.record.getD 0)
      match bad with
      | some (c, id, a) =>
        ((s.graphPost key 0x08 id c 0 a 0).updGraph key fun g => { g with gstate := 6 }).endGraph key l
      | none =>
        let held (d : Nat) : List Nat := (s.slotsHeld part d).filter (· < 2 ^ 18)
        let x := s.nameNodes (giveSlots held l)
        let s := x.2.updGraph key fun g => { g with gstate := 2, nodes := x.1 }
        (l.filter fun n => n.remaining == 0).foldl (fun s n => s.makeReady key n.id) s)

/-! ## The bank and the prefetch buffers (R303 to R306) -/

/-- The cause with which a LAUNCH node fails its issue check: its record cannot be read, or is not registered (R298, R405). -/
def State.launchCheck (s : State) (key : Nat) (n : Node) : State × Option Nat :=
  let g := s.graph key
  if n.kind ≠ 1 ∨ n.record.isNone then (s, none)
  else
    let r := s.translate (256 + idDie n.id) (graphPart key) (s.job g.job).troot n.entry.toNat true false
    match r.2 with
    | .error c => (r.1, some c)
    | .ok _ => (r.1, if (r.1.launchOfNode g n).isSome then none else some 5)

/-- NODE_ENTER_BANK (R303): the oldest READY node of its die. A LAUNCH node with no block on this package starts at once. -/
def execNodeEnterBank (part handle node : Nat) (s : State) : Result :=
  let key := graphKey part handle
  .next (match s.node key node with
    | none => s
    | some n =>
      let die := idDie node
      let wait := s.bankWaiters part die
      if !s.gsRuns part || !(wait.any fun w => w.1 == key && w.2.1 == node) ||
          (wait.any fun w => decide (w.2.2 < n.since)) || decide (s.bankCap part die (n.record.isNone && !idSpawned n.id) ≤ s.bankCount part die) then s
      else
        let r := s.launchCheck key n
        match r.2 with
        | some c => (r.1.graphPost key 0x09 node c 0 n.entry.toNat 0).openCone key node c 0
        | none =>
          let s := r.1
          let b := if n.kind = 1 then s.nodeBlocks (s.graph key) n else (2 ^ 26 + node, 1)
          let s := s.updNode key node fun n => { n with entered := true }
          if b.2 = 0 then s.updNode key node fun n => { n with state := .running }
          else
            s.updDie die fun d => { d with bank := d.bank ++ [⟨part, handle, node, b.1, n.prio, s.steps, s.heat.time, false⟩] })

/-- What a block of a node needs: its launch, crews, block memory and spill in bytes, rows, SPC and LPC in bytes (R55,
R298). -/
structure Needs where
  launch : Nat
  crews : Nat
  bmem : Nat
  spill : Nat
  rows : Nat
  spc : Nat
  lpc : Nat
  deriving DecidableEq, Repr

/-- The needs of a node's blocks. -/
def State.needs (s : State) (key : Nat) (n : Node) : Needs :=
  let g := s.graph key
  if n.kind = 1 then
    let id := (s.launchOfNode g n).getD g.launch
    let l := (mapGet Launch.none s.launches id).spec
    ⟨id, l.crews, 1024 * l.bmem, 1024 * l.spill, l.srows, l.entrySpc, 12 * l.entryLpc⟩
  else ⟨g.launch, 1, 4096 * g.tbmem, 1024 * g.tspill, 0, n.entry.toNat % 2 ^ 32, 12 * (n.entry.toNat / 2 ^ 32)⟩

/-- Rows of a launch's image. -/
def imageLen (j : JobSpec) : Nat := (j.sdata.length + 8191) / 8192

/-- Rows of a core that the images of a job's launches fill (R127). -/
def State.imageRows (s : State) (job core : Nat) : Nat :=
  s.launches.foldl (fun n l =>
    if l.2.spec.job = job ∧ l.2.sdataDies.contains (core / 64) ∧ l.2.sdataAt / 2 ^ 20 = core % 64 then n + imageLen l.2.spec
    else n) 0

/-- Whether the rows of a block fit in a quota beside the six engine rows, the images and rows in use; a block without rows
always fits. -/
def rowsFit (q : QuotaSpec) (rows used : Nat) : Bool := rows == 0 || decide (rows + used + 6 ≤ q.rows)

/-- Whether a task could be placed on a core: the quota holds as much, PINCORE allows it, and a LAUNCH's blocks go to any
die that PINCORE leaves (R296, R304). -/
def State.eligible (s : State) (core : Nat) (t : Task) : Bool :=
  let key := graphKey t.part t.handle
  match s.node key t.node, s.quota t.part core with
  | some n, some q =>
    let x := s.needs key n
    decide (x.crews ≤ ((List.range 24).filter fun i => q.slots.getLsbD i).length) && decide (x.bmem ≤ q.bmemLen) &&
      rowsFit q x.rows (s.imageRows (s.graph key).job core) &&
      (if n.flags.getLsbD 2 then core == 64 * idDie n.id + n.tileX.toNat % 64 else n.kind == 1 || idDie n.id == core / 64)
  | _, _ => false

/-- Whether one task goes before another: lower class, then older, then lower node id (R304); of one node, the lower block,
which a catch may have sent back (R16). -/
def Task.before (a b : Task) : Bool :=
  decide (a.cls < b.cls) || (a.cls == b.cls && (decide (a.entered < b.entered) ||
    (a.entered == b.entered && (decide (a.node < b.node) || (a.node == b.node && decide (a.block < b.block))))))

/-- The first of a list of tasks; of two that tie, the one that stands before. -/
def firstTask : List Task → Option Task
  | [] => none
  | t :: rest => match firstTask rest with
    | none => some t
    | some u => some (if u.before t then u else t)

/-- A task that the prefetch buffer of a core takes: of the partitions that hold an eligible task the next in turn (R304). -/
def State.chooseTask (s : State) (core : Nat) : Option Task :=
  let all := (List.range 4).flatMap fun d => (s.die d).bank
  let can := all.filter fun t => s.engineRuns (qkey t.part core) && s.gsRuns t.part && s.eligible core t
  let order := (List.range 16).map fun i => ((s.core core).lastPart + 1 + i) % 16
  match order.find? fun p => can.any fun t => t.part == p with
  | none => none
  | some p => firstTask (can.filter fun t => t.part == p)

/-- PREFETCH_FILL (R304). A LAUNCH entry gives its next block and leaves the bank with its last. -/
def execPrefetchFill (core : Nat) (s : State) : Result :=
  .next (if 2 ≤ (s.core core).prefetch.length then s
    else match s.chooseTask core with
    | none => s
    | some t =>
      let key := graphKey t.part t.handle
      let last := match s.node key t.node with
        | some n => t.one || n.kind != 1 || (let b := s.nodeBlocks (s.graph key) n; t.block + 1 == b.1 + b.2)
        | none => true
      let s := s.updDie (idDie t.node) fun d =>
        { d with bank := if last then d.bank.erase t else d.bank.map fun u => if u = t then { u with block := u.block + 1 } else u }
      s.updCore core fun c => { c with prefetch := c.prefetch ++ [t], lastPart := t.part })

/-- The island of a die's task queue unit, the first of the die's eight scratchpad and TQU islands (R20; log entry 131). -/
def tquIsland (die : Nat) : Nat := 256 + 8 * die

/-- Cycles of a die's task queue unit in a time in ns, at the level of its island, and the time of so many cycles (R5,
R305). -/
def State.tquCycles (s : State) (die ns : Nat) : Nat := ns * s.boot.level (tquIsland die) / 1000
/-- The time in ns of so many cycles of a die's task queue unit, rounded up. -/
def State.tquTime (s : State) (die cycles : Nat) : Nat :=
  let f := s.boot.level (tquIsland die)
  (cycles * 1000 + f - 1) / f

/-- TQU_AGING (R305): 8,192 cycles in one class. -/
def execTquAging (die part index : Nat) (s : State) : Result :=
  .next (match ((s.die die).bank.filter fun t => t.part == part)[index]? with
    | none => s
    | some t =>
      if 0 < t.cls ∧ s.passed t.waited (s.tquTime die 8192) ∧ s.gsRuns part then
        s.updDie die fun d =>
          { d with bank := d.bank.map fun u => if u = t then { u with cls := u.cls - 1, waited := s.heat.time } else u }
      else s)

/-! ## Placement (R55 to R57) -/

/-- The live crews of a partition on a core. -/
def State.crewsOn (s : State) (part core : Nat) : List (Nat × Crew) :=
  s.crews.filter fun x => x.2.live && x.2.part == part && slotCore x.1 == core

/-- Crew slots for n crews, each in turn on the seat with the most free slots, the lowest seat first among equals (R56).
Of a seat's free slots the lowest is taken (DESIGN CHOICE, log entry 132). -/
def assignSlots (free : List Nat) : Nat → Option (List Nat)
  | 0 => some []
  | n + 1 =>
    let count (seat : Nat) : Nat := (free.filter fun i => i / 6 == seat).length
    let best := (List.range 4).foldl (fun b seat => if count b < count seat then seat else b) 0
    match free.find? fun i => i / 6 == best with
    | none => none
    | some i => (assignSlots (free.erase i) n).map fun l => i :: l

/-- A place of n bytes in [lo, hi) that meets no used range (R56): the lowest (DESIGN CHOICE, log entry 133). -/
def placeBytes (lo hi n : Nat) (used : List (Nat × Nat)) : Option Nat :=
  let at' := lo :: used.map fun u => u.1 + u.2
  let ok (a : Nat) : Bool := lo ≤ a && decide (a + n ≤ hi) && used.all fun u => u.1 + u.2 ≤ a || a + n ≤ u.1
  match at'.filter ok with
  | [] => none
  | a :: rest => some (rest.foldl min a)

/-- Whether a crew slot of a core is present (R68). -/
def State.slotPresent (s : State) (core i : Nat) : Bool := (s.core core).regmap.getLsbD i

/-- Rows of a core that the blocks of a partition's live crews hold. -/
def blockRows (here : List (Nat × Crew)) : Nat :=
  let first (c : Nat × Crew) : Bool :=
    !(here.any fun d => d.2.block == c.2.block && d.2.index < c.2.index && d.2.launch == c.2.launch)
  (here.filter first).foldl (fun n c => n + c.2.rows) 0

/-- Where a block goes on a core: its slots and the offset of its block memory; none where it does not fit (R56). -/
def State.fit (s : State) (part core job : Nat) (x : Needs) : Option (List Nat × Nat) :=
  match s.quota part core with
  | none => none
  | some q =>
    let here := s.crewsOn part core
    let free := (List.range 24).filter fun i =>
      q.slots.getLsbD i && s.slotPresent core i && !(s.crewAt (24 * core + i)).live
    let used := (here.map fun c => (c.2.bmemLo, c.2.bmemLen)).filter fun u => u.2 != 0
    match assignSlots free x.crews, placeBytes q.bmemLo (q.bmemLo + q.bmemLen) x.bmem used with
    | some l, some a => if rowsFit q x.rows (blockRows here + s.imageRows job core) then some (l, a) else none
    | _, _ => none

/-- The state of a crew at its first instruction (R57). The REQID counter of its slot goes on (R357). -/
def startCrew (old : Crew) (uid part handle block index job under : Nat) (x : Needs) (bmemLo : Nat) (n : Node) : Crew :=
  let c := { Crew.empty with
    live := true, uid := uid, job := job, launch := x.launch, under := under, part := part, block := block, index := index
    ring := List.replicate 4 ⟨0, 0, false⟩, reqCounter := old.reqCounter
    handle := handle, node := n.id, arg := n.arg, tileX := n.tileX, tileY := n.tileY, tileZ := n.tileZ, gen := n.gen
    bmemLo := bmemLo, bmemLen := x.bmem, spillLo := x.bmem - (index + 1) * x.spill, spillHi := x.bmem - index * x.spill
    rows := x.rows, spp := x.bmem - index * x.spill
    splits := [(0, { Split.free with
      live := true, spc := x.spc, lpc := x.lpc, members := BitVec.allOnes 96, mask := BitVec.allOnes 96 })] }
  { c with lanes := (List.range 96).map fun i => { LaneState.empty with sigma := laneId c i } }

/-- The crews of a block put into their slots, with the image of `.bdata` at the start of its allocation (R55). -/
def State.startBlock (s : State) (core : Nat) (t : Task) (n : Node) (x : Needs) (slots : List Nat) (bmemLo : Nat) : State :=
  let key := graphKey t.part t.handle
  let g := s.graph key
  let bdata := (mapGet Launch.none s.launches x.launch).spec.bdata.take x.bmem
  let s := if bdata.isEmpty then s else { s with mem := s.mem.store .bmem (bmemBase core + bmemLo) bdata }
  let s := slots.zipIdx.foldl (fun s i =>
    let old := s.crewAt (24 * core + i.1)
    s.setCrewAt (24 * core + i.1) (startCrew old (s.nextUid + i.2) t.part t.handle t.block i.2 g.job g.launch x bmemLo n)) s
  let uids := (List.range slots.length).map fun i => s.nextUid + i
  let s := { s with nextUid := s.nextUid + slots.length }
  s.updNode key n.id fun n =>
    { n with state := if n.state = .ready then .running else n.state, crews := n.crews ++ uids, blocksLeft := n.blocksLeft - 1 }

/-- BLOCK_PLACEMENT (R56, R57, R306): the head of the core's prefetch buffer, once it fits. -/
def execBlockPlacement (core : Nat) (s : State) : Result :=
  .next (match (s.core core).prefetch with
    | [] => s
    | t :: rest =>
      let key := graphKey t.part t.handle
      if !s.engineRuns (qkey t.part core) then s
      else match s.node key t.node with
      | none => s.updCore core fun c => { c with prefetch := rest }
      | some n =>
        let x := s.needs key n
        match s.fit t.part core (s.graph key).job x with
        | none => s
        | some (slots, lo) => (s.updCore core fun c => { c with prefetch := rest }).startBlock core t n x slots lo)

/-- The graph of a launch that the operating system starts, under the highest free handle (R294): of its `.node`
directives, which is loaded as R299 states, else of the one node that runs the launch. -/
def State.launchGraph (s : State) (part job launch : Nat) : State :=
  match ((List.range 64).reverse).find? fun h => (s.graph (graphKey part h)).gstate == 0 with
  | none => s
  | some h =>
    let key := graphKey part h
    let s := s.updJob job fun j => { j with handle := h }
    let put (s : State) (g : Graph) : State := { s with graphs := mapSet Graph.free s.graphs key g }
    match (mapGet Launch.none s.launches launch).spec.graph with
    | some x =>
      put s { Graph.free with
        gstate := 1, fq := BitVec.ofNat 8 x.fq, tbmem := x.tbmem, tspill := x.tspill, launch := launch, job := job
        ncnt := x.ncnt, nbase := x.nbase, obase := x.obase }
    | none =>
      let n := { recordNode [] 0 none [] with kind := 1, gsSlot := 2 ^ 18 }
      let y := s.nameNodes [n]
      (put y.2 { Graph.free with gstate := 2, nodes := y.1, launch := launch, job := job }).makeReady key 0

/-! ## Engine nodes (R308) -/

/-- Places of a graph queue. -/
def graphCap (q : Nat) : Nat := match q with | 7 => 128 | 9 => 256 | 8 => 32 | _ => 64

/-- READY engine nodes of a queue that wait for it: key, id and the step at which they became READY. -/
def State.queueWaiters (s : State) (k q : Nat) : List (Nat × Nat × Nat) :=
  s.graphs.flatMap fun g =>
    (g.2.nodes.filter fun n => n.state == .ready && 2 ≤ n.kind && nodeQueue (graphPart g.1) n.id n.kind n.tileX == (k, q)).map
      fun n => (g.1, n.id, n.since)

/-- A graph-issued entry with nothing done. -/
def State.graphEntry (s : State) (key : Nat) (n : Node) (opcode fn : Nat) : QEntry :=
  let g := s.graph key
  { s.newEntry opcode fn (n.entry.extractLsb' 0 32) with
    slot := 0, uid := 0, origin := 0xFFFFFFFF, block := 0xFFFFFFFF, job := g.job, launch := g.launch
    priv := (mapGet Launch.none s.launches g.launch).spec.priv, node := some (key % 64, n.id), fq := g.fq, clock := 0
    bmemLo := 0, bmemLen := 0, engine := 64 * idDie n.id + n.tileX.toNat % 64 }

/-- The record of an engine node as the issue check reads it; none where its address fails (R298), or that of a tile task
is poisoned (R246). A chain entry needs the alignment of its width, the others 64 bytes. -/
def State.nodeRecord (s : State) (part : Nat) (n : Node) : Option (List Byte) :=
  if n.entry.toNat / 2 ^ 32 ≠ 0 then none
  else match s.spadAddr part (idDie n.id) (n.entry.extractLsb' 0 32) (if n.kind = 2 then 4 else 64) 64 with
    | some p => if n.kind = 3 ∧ s.mem.poisoned .spad p 64 then none else some (s.mem.bytes .spad p 64)
    | none => none

/-- The entry that an engine node gives, if its issue check passes (R222, R246, R282, R298). -/
def State.nodeIssue (s : State) (key : Nat) (n : Node) : Option QEntry :=
  let part := graphPart key
  let core := 64 * idDie n.id + n.tileX.toNat % 64
  match s.nodeRecord part n with
  | none => none
  | some r =>
    let opc := byteAt r 0
    match n.kind with
    | 2 =>
      let desc := opc == 1 || (s.spadAddr part (idDie n.id) (BitVec.ofNat 32 (leAt r 8 4)) 256 256).isSome
      if 1 ≤ opc ∧ opc ≤ 3 ∧ desc ∧ (s.quota part core).isSome then
        some { s.graphEntry key n (0x2A + opc) (if opc = 1 then byteAt r 1 else 0) with recd := r }
      else none
    | 3 =>
      if (r.getD 0 0) &&& 0x30#8 ≠ 0 then none
      else match s.tileCheck part core 0 r with
        | .error _ => none
        | .ok r =>
          let t := tileRec r
          some { s.graphEntry key n 0x2E 0 with
            recd := r, rel := if t.tags.testBit 2 then s.relObject part core none t.sobj else none }
    | 4 =>
      if (opc = 1 ∨ opc = 2) ∧ (s.core core).arrayOwner = some part then some (s.graphEntry key n (0x2E + opc) 0) else none
    | _ =>
      let g := s.graph key
      let l := mapGet Launch.none s.launches g.launch
      let coh := byteAt r 1
      match l.cohort coh with
      | none => none
      | some h =>
        let mine := (l.ringBlocks coh).filter fun b => l.holds s.fabric.peer b
        let least := mine.foldl (fun m b => match m with
          | none => some b
          | some x => if mapGet 0 h.collIssued b < mapGet 0 h.collIssued x then some b else some x) none
        match least with
        | none => none
        | some b => some { s.graphEntry key n 0x39 opc with block := b, rows := [g.launch, coh, mapGet 0 h.collIssued b] }

/-- ENGINE_NODE_ISSUE (R308): the oldest READY node of a queue with a free place. -/
def execEngineNodeIssue (part handle node : Nat) (s : State) : Result :=
  let key := graphKey part handle
  .next (match s.node key node with
    | none => s
    | some n =>
      let (k, q) := nodeQueue part n.id n.kind n.tileX
      if !s.gsRuns part || n.state != .ready || decide (n.kind < 2) ||
          (s.queueWaiters k q).any (fun w => decide (w.2.2 < n.since)) || decide (graphCap q ≤ s.waiting k q) then s
      else match s.nodeIssue key n with
      | none =>
        ((s.graphPost key 0x09 node 5 0 (n.entry.toNat % 2 ^ 32) 0).openCone key node 5 0).coneTick key
      | some e =>
        let s := if n.kind = 5 then (s.nextGeneration (e.rows.getD 0 0) (e.rows.getD 1 0) e.block).2 else s
        let r := s.enqueue k q (if n.kind = 2 then { e with recd := [] } else e)
        let s := r.1.updNode key node fun n => { n with state := .running, entered := true }
        if n.kind = 2 then
          let c := e.recd
          let bytes := c.take 3 ++ [(s.graph key).fq] ++ leBytes 4 r.2.toNat ++ c.drop 8
          let bad := match s.spadAddr part (idDie n.id) (n.entry.extractLsb' 0 32) 4 64 with
            | some p => s.mem.poisoned .spad p 64
            | none => false
          s.spotWrite (.mem .spad (s.chainSlot k q r.2)) (bytes.map fun b => (b, bad))
        else s)

/-! ## The end of a graph (R312, R327) -/

/-- Whether a token of a graph is on its way. -/
def State.tokensOut (s : State) (part handle : Nat) : Bool :=
  s.dies.any fun d => d.2.tokens.any fun t => t.part == part && t.handle == handle

/-- GRAPH_END (R327), once no token of the graph is on its way (DESIGN CHOICE, log entry 129). -/
def execGraphEnd (part handle : Nat) (s : State) : Result :=
  let key := graphKey part handle
  let g := s.graph key
  .next (if g.gstate ≠ 2 ∨ !s.gsRuns part ∨ s.tokensOut part handle ∨ g.cones.any (fun c => c.resolved.isNone) ∨
      g.nodes.any (fun n => idSpawned n.id || !([.done, .faulted, .cancelled].contains n.state)) then s
    else
      let nodes := sortBy (fun a b => a.id ≤ b.id) g.nodes
      let partial' := nodes.any fun n => n.state != .done
      let s := s.updGraph key fun g => { g with gstate := if partial' then 4 else 3 }
      let s := (nodes.filter fun n => n.state == .faulted).foldl (fun s n => s.graphPost key 0x0D n.id 0 0 0 n.attempt) s
      s.endGraph key nodes)

/-! ## SPWN, JNWT, GLCH and GCTL (R309 to R312) -/

/-- A record that SPWN or GLCH reads: 64 bytes at a scalar address, the window first (R309, R311). -/
def State.ownRecord (s : State) (v : Word) : Option (Nat × List Byte) :=
  (s.spadAddr s.crew.part (slotDie s.cur) v 64 64).map fun p => (p, s.crew.load s.mem true p 64)

/-- The byte offset of the first field of a record that SPWN does not take (R309). -/
def spawnBad (r : List Byte) : Option Nat :=
  let hdr := leAt r 0 4
  let word (i : Nat) : Bool × Nat := (leAt r (40 + 4 * i) 4 != 0xFFFFFFFF, 40 + 4 * i)
  let flags := hdr / 2 ^ 24
  let bad : List (Bool × Nat) :=
    [(hdr % 256 != 0, 0), (hdr / 2 ^ 14 % 16 != 0, 1), (hdr / 2 ^ 18 % 64 != 0, 2),
     (flags % 4 != 0 || flags / 8 != 0, 3), (leAt r 32 8 != 0, 32)] ++
      (List.range 5).map word ++ [(leAt r 60 4 != 0, 60)]
  (bad.find? Prod.fst).map Prod.snd

/-- SPWN once its record is taken and there is room: the child enters its bank (R309). -/
def State.spawn (s : State) (d : RegNo) (r : List Byte) : State :=
  let c := s.crew
  let die := slotDie s.cur
  let key := graphKey c.part c.handle
  let slot := lowestFree ((s.slotsHeld c.part die).filter (· < 2 ^ 18))
  let id := die * 2 ^ 24 + 2 ^ 23 + slot
  let n := { recordNode r id none [] with
    uid := s.nextUid, flags := BitVec.ofNat 8 (leAt r 0 4 / 2 ^ 24) ||| 1, link := BitVec.ofNat 32 c.node, gsSlot := slot
    parent := some (s.cur, c.uid, c.node), entered := true }
  let s := { s with nextUid := s.nextUid + 1 }
  let s := (s.updCrew fun c => { c with jcnt := c.jcnt + 1 }).updNode key c.node fun p => { p with join := p.join + 1 }
  let s := (s.updGraph key fun g => { g with nodes := g.nodes ++ [n] }).makeReady key id
  let s := s.updNode key id fun n => { n with entered := true }
  let s := s.updDie die fun x => { x with bank := x.bank ++ [⟨c.part, c.handle, id, 2 ^ 26 + id, n.prio, s.steps, s.heat.time, false⟩] }
  s.write d (BitVec.ofNat 32 id)

/-- SPWN (R309). -/
def execSpwn (d a : RegNo) (s : State) : Result :=
  let v := s.sreg a
  let part := s.crew.part
  let die := slotDie s.cur
  if !s.crew.splitIdle s.curSplit then .next (s.stay .lanes)
  else match s.ownRecord v with
    | none => .next (s.raise 0x0A 3 v 0)
    | some (p, r) =>
      match spawnBad r with
      | some o => .next (s.illegal 2 o)
      | none =>
        if s.mem.poisoned .spad p 64 then .next (s.poisonRaise v)
        else if 65535 ≤ s.crew.jcnt ∨ !s.slotRoom part die 1 ∨
            s.bankCap part die false ≤ s.bankCount part die + (s.bankWaiters part die).length then .next (s.stay .room)
        else .next (s.spawn d r)

/-- JNWT (R310). -/
def execJnwt (d : RegNo) (s : State) : Result :=
  let n := s.crew.cancelled
  .next (s.waitJoin fun s => s.setSreg d (BitVec.ofNat 32 n))

/-- The refusal of a graph header's fields, or its sync object (R295, R311). -/
def State.headerOk (s : State) (r : List Byte) : Option (Option (Bool × Nat)) :=
  let n (d : Nat) : Nat := leAt r (4 * d) 4
  let b (d : Nat) : Nat := leAt r (16 + 8 * d) 8
  let dies := List.range 4
  let o := leAt r 60 4
  if dies.any (fun d => decide (2 ^ 18 < n d)) || dies.all (fun d => n d == 0) ||
      dies.any (fun d => b d % 64 != 0 || (n d == 0 && b d != 0)) || leAt r 48 8 % 64 != 0 || decide (64 < byteAt r 57) ||
      decide (4 * byteAt r 57 < byteAt r 58) || byteAt r 59 != 0 then none
  else if o = 0 then some none
  else match s.relObject s.crew.part (slotCore s.cur) none o with | some x => some (some x) | none => none

/-- GLCH's result and the state with the handle taken (R311). -/
def State.glch (s : State) (p : Nat) (r : List Byte) : Word × State :=
  let part := s.crew.part
  if s.mem.poisoned .spad p 64 then (0x80000004, s)
  else match s.headerOk r with
    | none => (0x80000003, s)
    | some done =>
      match (List.range 64).find? fun h => (s.graph (graphKey part h)).gstate == 0 with
      | none => (0x80000001, s)
      | some h =>
        if !(List.range 4).all fun d => s.slotRoom part d (leAt r (4 * d) 4) then (0x80000002, s)
        else
          let g : Graph := { Graph.free with
            gstate := 1, fq := BitVec.ofNat 8 (byteAt r 56), tbmem := byteAt r 57, tspill := byteAt r 58, doneObj := done
            launch := s.crew.launch, job := s.crew.job, ncnt := (List.range 4).map fun d => leAt r (4 * d) 4
            nbase := (List.range 4).map fun d => leAt r (16 + 8 * d) 8, obase := leAt r 48 8 }
          (BitVec.ofNat 32 h, { s with graphs := mapSet Graph.free s.graphs (graphKey part h) g })

/-- GLCH (R311). -/
def execGlch (d a : RegNo) (s : State) : Result :=
  let v := s.sreg a
  if !s.crew.splitIdle s.curSplit then .next (s.stay .lanes)
  else match s.ownRecord v with
    | none => .next (s.raise 0x0A 3 v 0)
    | some (p, r) =>
      let x := s.glch p r
      .next (x.2.write d x.1)

/-- The graph status word (R312, R325). -/
def Graph.status (g : Graph) : Word :=
  BitVec.ofNat 32 (g.gstate + 8 * g.faultSeen.toNat + 16 * g.dupTok.toNat +
    256 * min 255 (g.cones.filter fun c => c.resolved.isNone && !c.quiet).length)

/-- Whether a graph has ended. -/
def Graph.isOver (g : Graph) : Bool := [3, 4, 6].contains g.gstate

/-- GCTL on the handle in sA: the handle's other bits are zero, and ops 0 to 2 are illegal in a deterministic launch
(R312). -/
def State.gctl (s : State) (a : RegNo) (op : Nat) (k : Graph → Nat → State) : State :=
  let v := s.sreg a
  if v.extractLsb' 6 26 ≠ 0 then s.illegal 2 v.toNat
  else if s.settings.det ∧ op ≤ 2 then s.illegal 9 op
  else
    let key := graphKey s.crew.part v.toNat
    k (s.graph key) key

/-- GCTL status (R312). -/
def execGctlStatus (d a : RegNo) (s : State) : Result := .next (s.gctl a 0 fun g _ => s.write d g.status)

/-- Nodes of a graph that are neither DONE nor CANCELLED; while it loads, all of its tables (R312, R325). -/
def Graph.left (g : Graph) : Nat :=
  if g.gstate = 1 then g.ncnt.foldl (· + ·) 0
  else (g.nodes.filter fun n => n.state != .done && n.state != .cancelled).length

/-- GCTL left (R312, R325). -/
def execGctlLeft (d a : RegNo) (s : State) : Result :=
  .next (s.gctl a 1 fun g _ => s.write d (BitVec.ofNat 32 g.left))

/-- GCTL node (R312). -/
def execGctlNode (d a b : RegNo) (s : State) : Result :=
  .next (s.gctl a 2 fun g _ =>
    match g.node ((s.sreg b).toNat % 2 ^ 26) with
    | some n => s.write d ((n.header &&& 0xFF03FFFF#32) ||| BitVec.ofNat 32 (2 ^ 18 * (n.remaining % 64)))
    | none => s.write d 0xFFFFFFFF)

/-- GCTL free (R312). -/
def execGctlFree (d a : RegNo) (s : State) : Result :=
  .next (s.gctl a 3 fun g key =>
    let s := if g.isOver then s.updGraph key fun _ => Graph.free else s
    s.write d g.status)

/-- GCTL wait (R312): a free handle answers at once. -/
def execGctlWait (d a : RegNo) (s : State) : Result :=
  .next (s.gctl a 4 fun g _ => if g.isOver || g.gstate == 0 then s.write d g.status else s.stay .sync)

end Sys2Proof.Machine
end

