-- ==== Sys2Proof/Machine/SaveArea.lean ====
section
/-! DEFINITION. The save area to the byte (R381 to R383): where it lies, what a save writes, what a restore reads. The
parts whose inner layout the specification leaves open stand beside it in a record (SavedArea). -/

namespace Sys2Proof.Machine

/-- The highest present slot of a seat, its sprint reserve (R58). -/
def State.reserveSlot (s : State) (core seat : Nat) : Nat :=
  match ((List.range 6).reverse).find? fun k => s.slotPresent core (6 * seat + k) with | some k => k | none => 5

/-- The slots of a core that have crew records, in record order (R382). -/
def State.recordSlots (s : State) (core : Nat) : List Nat :=
  (List.range 24).filter fun i => i % 6 != s.reserveSlot core (i / 6)

/-! ## A crew record (R383) -/

/-- A mask of lanes as 12 bytes. -/
def laneBits (f : Nat → Bool) : List Byte :=
  (List.range 12).map fun k => (List.range 8).foldl (fun b i => if f (8 * k + i) then b ||| (1#8 <<< i) else b) 0
/-- Bit i of bytes. -/
def bitAt (bs : List Byte) (i : Nat) : Bool := (bs.getD (i / 8) 0).getLsbD (i % 8)

/-- q n of a lane. -/
def LaneState.q (l : LaneState) (n : Nat) : QVal := l.queue.getD n ⟨0, false⟩

/-- The order of o and v in a record's masks: o0 to o7, then v0 to v63, as register keys. -/
def recordRegs : List Nat := (List.range 8).map (64 + ·) ++ List.range 64

/-- The first 70,912 bytes of a record: registers, masks, predicates, flags and random streams of the lanes. -/
def crewRecordBytes (c : Crew) : List Byte :=
  let vals (n : Nat) : List Byte := (List.range 96).flatMap fun i => leBytes 8 ((c.lane i).reg n).val.toNat
  let qs (n : Nat) : List Byte := (List.range 96).flatMap fun i => leBytes 8 ((c.lane i).q n).val.toNat
  (List.range 72).flatMap vals ++ (List.range 16).flatMap qs ++
    recordRegs.flatMap (fun n => laneBits fun i => ((c.lane i).reg n).full) ++
    recordRegs.flatMap (fun n => laneBits fun i => ((c.lane i).reg n).poison) ++
    (List.range 16).flatMap (fun n => laneBits fun i => ((c.lane i).q n).poison) ++ List.replicate 128 0 ++
    (List.range 15).flatMap (fun n => laneBits fun i => (c.lane i).preds.getLsbD n) ++ List.replicate 12 0 ++
    (List.range 96).map (fun i => (c.lane i).flags.setWidth 8) ++
    (List.range 96).flatMap (fun i => leBytes 4 (c.lane i).sigma.toNat ++ leBytes 4 (c.lane i).count.toNat) ++
    List.replicate 224 0

/-- The lane that a record's bytes give. -/
def recordLane (bs : List Byte) (i : Nat) : LaneState :=
  let word (o : Nat) : DWord := BitVec.ofNat 64 (leNat ((bs.drop o).take 8))
  let mask (o n : Nat) : Bool := bitAt (bs.drop (o + 12 * n)) i
  let place (n : Nat) : Nat := if n < 64 then n + 8 else n - 64
  { regs := (List.range 72).foldl (fun m n =>
      mapSet LaneReg.zero m n ⟨word (768 * n + 8 * i), mask 0x10800 (place n), mask (0x10800 + 864) (place n)⟩) []
    queue := (List.range 16).map fun n => ⟨word (0xD800 + 768 * n + 8 * i), mask (0x10800 + 864) (72 + n)⟩
    preds := (List.range 15).foldl (fun b n => if mask 0x11000 n then b ||| (1#15 <<< n) else b) 0
    flags := (bs.getD (0x110C0 + i) 0).setWidth 6
    sigma := (word (0x11120 + 8 * i)).extractLsb' 0 32, count := (word (0x11120 + 8 * i)).extractLsb' 32 32 }

/-- Bytes filled with zeros, or cut, to a length. -/
def padTo (n : Nat) (bs : List Byte) : List Byte := (bs ++ List.replicate (n - bs.length) 0).take n
/-- n bytes of a list at an offset. -/
def bytesAt (bs : List Byte) (o n : Nat) : List Byte := (bs.drop o).take n
/-- A mask of lanes at an offset. -/
def maskAt (bs : List Byte) (o : Nat) : LaneMask := BitVec.ofNat 96 (leAt bs o 12)
/-- A 32-bit value at an offset. -/
def wordAt (bs : List Byte) (o : Nat) : Word := BitVec.ofNat 32 (leAt bs o 4)
/-- Bits of a byte. -/
def bitsByte (l : List Bool) : Byte := (l.zipIdx.filter fun x => x.1).foldl (fun b x => b ||| (1#8 <<< x.2)) 0

/-- Repeat state as four bytes: count (0 for none), stride, STEP, index. -/
def repBytes : Option RepState → List Byte
  | none => [0, 0, 0, 0]
  | some r => leBytes 1 r.count ++ leBytes 1 r.stride ++ leBytes 1 r.step.toNat ++ leBytes 1 r.next
/-- The repeat state at an offset. -/
def repAt (bs : List Byte) (o : Nat) : Option RepState :=
  if byteAt bs o = 0 then none
  else some ⟨byteAt bs o, byteAt bs (o + 1), BitVec.ofNat 4 (byteAt bs (o + 2)), byteAt bs (o + 3)⟩

/-- Registers s16 to s31. -/
def bankedBytes (l : List (Nat × Word)) : List Byte := (List.range 16).flatMap fun i => leBytes 4 (mapGet 0 l (16 + i)).toNat
/-- The registers s16 to s31 at an offset. -/
def bankedAt (bs : List Byte) (o : Nat) : List (Nat × Word) :=
  (List.range 16).foldl (fun m i => mapSet 0 m (16 + i) (wordAt bs (o + 4 * i))) []

/-- A split block of 128 bytes (R383): its fields in the order that the rule names them, its state behind them (log entry
92). -/
def splitBytes (p : Split) : List Byte :=
  padTo 128 (leBytes 4 p.spc ++ leBytes 4 p.lpc ++ leBytes 4 p.fmtr.toNat ++ leBytes 12 p.members.toNat ++ leBytes 12 p.mask.toNat ++
    bankedBytes p.banked ++ [bitsByte [p.live, p.onPath, p.lrunLeft.isSome, p.bar.isSome], 0, 0, 0] ++
    leBytes 4 (p.lrunLeft.getD 0) ++ repBytes p.pendingRep ++ leBytes 4 (p.bar.getD (0, 0)).1 ++ leBytes 4 (p.bar.getD (0, 0)).2.toNat)
/-- The split of a block, with no wait: what waited is issued again (R378). -/
def splitAt (bs : List Byte) : Split :=
  let f := byteAt bs 100
  { live := f.testBit 0, spc := leAt bs 0 4, lpc := leAt bs 4 4, fmtr := wordAt bs 8, members := maskAt bs 12, mask := maskAt bs 24
    banked := bankedAt bs 36, wait := .none, onPath := f.testBit 1, lrunLeft := if f.testBit 2 then some (leAt bs 104 4) else none
    pendingRep := repAt bs 108, bar := if f.testBit 3 then some (leAt bs 112 4, wordAt bs 116) else none }

/-- A lane queue entry as 64 bytes, the last one 1. -/
def laneEntryBytes (e : LaneEntry) : List Byte :=
  padTo 63 (leBytes 12 e.word.toNat ++ leBytes 4 e.lpc ++ leBytes 12 e.mask.toNat ++ leBytes 4 e.fmtr.toNat ++ leBytes 4 e.svA.toNat ++
    leBytes 4 e.svB.toNat ++ leBytes 4 e.svC.toNat ++ leBytes 2 e.redFirst.toNat ++ leBytes 1 e.split ++ leBytes 1 e.owner ++
    repBytes e.rep ++ leBytes 1 e.memory.toNat) ++ [1]
/-- The lane queue entry of 64 bytes. -/
def laneEntryAt (bs : List Byte) : LaneEntry :=
  { word := BitVec.ofNat 96 (leAt bs 0 12), lpc := leAt bs 12 4, mask := maskAt bs 16, fmtr := wordAt bs 28, svA := wordAt bs 32
    svB := wordAt bs 36, svC := wordAt bs 40, redFirst := BitVec.ofNat 16 (leAt bs 44 2), split := byteAt bs 46
    owner := byteAt bs 47, rep := repAt bs 48, memory := byteAt bs 52 != 0 }
/-- Lane queue entries in n bytes. -/
def laneQueueBytes (n : Nat) (l : List LaneEntry) : List Byte := padTo n (l.flatMap laneEntryBytes)
/-- The entries in use of 16 places at an offset. -/
def laneQueueAt (bs : List Byte) (o : Nat) : List LaneEntry :=
  ((List.range 16).filter fun i => byteAt bs (o + 64 * i + 63) != 0).map fun i => laneEntryAt (bytesAt bs (o + 64 * i) 64)

/-- A stack entry as 128 bytes: owner, whether it is in use, whether a JOIN is recorded; then what the entry still needs
(R50): before the JOIN the taken part, after it the recorded one. -/
def stackBytes (e : StackEntry) : List Byte :=
  let head (join : Bool) (spc lpc : Nat) (mask members : LaneMask) (banked : List (Nat × Word)) : List Byte :=
    padTo 128 (leBytes 1 e.owner ++ [1, bitsByte [join], 0] ++ leBytes 4 spc ++ leBytes 4 lpc ++ leBytes 4 e.fmtr.toNat ++
      leBytes 12 mask.toNat ++ leBytes 12 members.toNat ++ bankedBytes banked)
  match e.join with
  | none => head false e.spc e.lpc e.taken 0 e.banked
  | some j => head true j.spc j.lpc j.mask j.members j.banked
/-- The stack entry of 128 bytes. -/
def stackEntryAt (bs : List Byte) : StackEntry :=
  let e : StackEntry := { owner := byteAt bs 0, taken := 0, spc := 0, lpc := 0, fmtr := wordAt bs 12, banked := [], join := none }
  let spc := leAt bs 4 4
  let lpc := leAt bs 8 4
  if byteAt bs 2 = 0 then { e with taken := maskAt bs 16, spc := spc, lpc := lpc, banked := bankedAt bs 40 }
  else { e with join := some ⟨spc, lpc, maskAt bs 16, maskAt bs 28, bankedAt bs 40⟩ }
/-- The stack entries in use at an offset. -/
def stackAt (bs : List Byte) (o : Nat) : List StackEntry :=
  ((List.range 32).filter fun i => byteAt bs (o + 128 * i + 1) != 0).map fun i => stackEntryAt (bytesAt bs (o + 128 * i) 128)

/-- The trap registers and what a trap has set aside. -/
def trapBytes (t : TrapState) : List Byte :=
  padTo 256 (leBytes 4 t.cause.toNat ++ leBytes 4 t.spc ++ leBytes 4 t.lpc ++ leBytes 4 t.run.toNat ++ leBytes 4 t.addr.toNat ++
    leBytes 4 t.opnd.toNat ++ leBytes 4 t.addrHi.toNat ++ [bitsByte [t.handler, t.savedLrun.isSome]] ++ leBytes 1 t.split ++ [0, 0] ++
    leBytes 12 t.savedMask.toNat ++ leBytes 4 t.savedFmtr.toNat ++ leBytes 4 t.savedLpc ++ repBytes t.savedRep ++
    leBytes 4 (t.savedLrun.getD 0) ++ leBytes 4 t.savedSpc) ++ laneQueueBytes 1024 t.held
/-- The trap registers at an offset. -/
def trapAt (bs : List Byte) (o : Nat) : TrapState :=
  let f := byteAt bs (o + 28)
  { cause := wordAt bs o, spc := leAt bs (o + 4) 4, lpc := leAt bs (o + 8) 4, run := wordAt bs (o + 12), addr := wordAt bs (o + 16)
    opnd := wordAt bs (o + 20), addrHi := wordAt bs (o + 24), handler := f.testBit 0, split := byteAt bs (o + 29)
    held := laneQueueAt bs (o + 256), savedMask := maskAt bs (o + 32), savedFmtr := wordAt bs (o + 44), savedLpc := leAt bs (o + 48) 4
    savedRep := repAt bs (o + 52), savedLrun := if f.testBit 1 then some (leAt bs (o + 56) 4) else none
    savedSpc := leAt bs (o + 60) 4 }

/-- A captured response as 64 bytes. -/
def responseBytes (q : CrewReq) : List Byte :=
  padTo 64 (match q.response with
    | none => leBytes 8 q.reqid.toNat ++ leBytes 1 q.split
    | some p => leBytes 8 q.reqid.toNat ++ leBytes 1 q.split ++ [1] ++ leBytes 1 p.kind.toNat ++ [bitsByte [p.pois.any id]] ++
        leBytes 4 p.len ++ leBytes 8 p.addr.toNat ++ p.data.take 16)

/-- A buffered atomic as 32 bytes. -/
def bufferedBytes (b : Buffered) : List Byte :=
  padTo 32 (leBytes 4 b.addr ++ [bitsByte [b.spad, true]] ++ leBytes 1 b.ty ++ leBytes 1 b.op.toNat ++ leBytes 1 b.rnd ++
    leBytes 8 b.operand.toNat ++ leBytes 2 b.draw.toNat ++ leBytes 2 b.lane ++ leBytes 4 b.fmtr.toNat)

/-- What a crew holds beside its lanes, its queue and its stack: shared registers, split blocks, and the rest in the order
that R383 names it. -/
def sharedBytes (c : Crew) : List Byte :=
  (List.range 16).flatMap (fun i => leBytes 4 (mapGet 0 c.shared i).toNat) ++ (List.range 4).flatMap (fun k => splitBytes (c.split k)) ++
    leBytes 1 c.sp.toNat ++ leBytes 1 c.fsum.toNat ++ [0, 0] ++ leBytes 4 c.spp ++ leBytes 8 c.clock.toNat ++
    leBytes 2 c.redSeq.toNat ++ leBytes 2 c.redDone.toNat ++
    (List.range 4).flatMap (fun i => let r := c.ring.getD i ⟨0, 0, false⟩
      leBytes 2 r.seq.toNat ++ [bitsByte [r.poison], 0] ++ leBytes 8 r.val.toNat) ++
    leBytes 2 c.jcnt ++ leBytes 1 c.asyncf.toNat ++ leBytes 1 c.fltq.toNat

/-- A whole crew record (R383). -/
def crewRecord (c : Crew) : List Byte :=
  crewRecordBytes c ++ padTo 768 (sharedBytes c) ++ laneQueueBytes 1024 c.laneQ ++ padTo 4096 (c.stack.flatMap stackBytes) ++
    padTo 5120 (trapBytes c.trap ++ padTo 256 (c.reqs.flatMap responseBytes) ++ c.buffered.flatMap bufferedBytes)

/-- A crew as its record gives it: the record's fields over what the model keeps of the crew beside it. -/
def crewOf (bs : List Byte) (c : Crew) : Crew :=
  let m := 0x11500 + 576
  { c with
    lanes := (List.range 96).map (recordLane bs)
    shared := (List.range 15).foldl (fun l i => mapSet 0 l (i + 1) (wordAt bs (0x11500 + 4 * (i + 1)))) []
    splits := (List.range 4).foldl (fun l k => mapSet Split.free l k (splitAt (bytesAt bs (0x11540 + 128 * k) 128))) []
    sp := BitVec.ofNat 8 (byteAt bs m), fsum := BitVec.ofNat 6 (byteAt bs (m + 1)), spp := leAt bs (m + 4) 4
    clock := BitVec.ofNat 64 (leAt bs (m + 8) 8), redSeq := BitVec.ofNat 16 (leAt bs (m + 16) 2)
    redDone := BitVec.ofNat 16 (leAt bs (m + 18) 2)
    ring := (List.range 4).map fun i =>
      ⟨BitVec.ofNat 16 (leAt bs (m + 20 + 12 * i) 2), BitVec.ofNat 64 (leAt bs (m + 24 + 12 * i) 8), bitAt bs (8 * (m + 22 + 12 * i))⟩
    jcnt := leAt bs (m + 68) 2, asyncf := BitVec.ofNat 7 (byteAt bs (m + 70)), fltq := BitVec.ofNat 8 (byteAt bs (m + 71))
    laneQ := laneQueueAt bs 0x11800, stack := stackAt bs 0x11C00, trap := trapAt bs 0x12C00 }

/-! ## Parts of an area -/

/-- What a save of a partition's part of a core writes: the place of its area and what it holds. -/
structure SaveJob where
  job : Nat
  heatno : Word
  part : Nat
  core : Nat
  base : Nat
  quota : QuotaSpec
  pins : Bool
  array : Bool
  /-- The engine runs one of the job's started tasks, so that slots 2 and 3 hold its state (R265). -/
  tile : Bool
  /-- The position of the core in its die's map, and whether it is the lowest core that the map names there (R382). -/
  pos : Nat
  first : Bool
  deriving DecidableEq, Repr

/-- The die of the core. -/
def SaveJob.die (x : SaveJob) : Nat := x.core / 64

/-- Bytes without marks written into the area. -/
def SaveJob.put (x : SaveJob) (o : Nat) (bs : List Byte) (s : State) : State := s.areaWrite x.die (x.base + o) (clean bs)

/-- Slots 0 and 1, or 2 and 3, of the accumulators and their status words written (R265). -/
def State.putPair (s : State) (x : SaveJob) (pair : Nat) : State :=
  let s := s.areaWrite x.die (x.base + atAcc + 131072 * pair) (s.memRun .acc (accBase x.core + 131072 * pair) 131072)
  let word := s.areaNat x.die (x.base + atStatus) 4
  let stat (i : Nat) : Nat := if i / 2 = pair then (mapGet 0 (s.core x.core).accStatus i).toNat
    else s.areaNat x.die (x.base + atStatus + 4 + 4 * i) 4
  s.areaWrite x.die (x.base + atStatus) (clean (leBytes 4 (word ||| 2 ^ pair) ++ (List.range 4).flatMap fun i => leBytes 4 (stat i)))

/-- The pair read back with its status words. -/
def State.getPair (s : State) (x : SaveJob) (pair : Nat) : State :=
  let s := { s with mem := { s.mem with
    accPoison := flagsClear s.mem.accPoison ((accBase x.core + 131072 * pair) / 64) 2048 } }
  let s := s.spotWrite (.mem .acc (accBase x.core + 131072 * pair)) (s.areaRun x.die (x.base + atAcc + 131072 * pair) 131072)
  s.updCore x.core fun c => { c with
    accStatus := (List.range 2).foldl (fun m i =>
      mapSet 0 m (2 * pair + i) (BitVec.ofNat 32 (s.areaNat x.die (x.base + atStatus + 4 + 4 * (2 * pair + i)) 4))) c.accStatus }

/-- VALID of an area (R382). -/
def State.validOf (s : State) (x : SaveJob) : Nat := s.areaNat x.die (x.base + 8) 4
/-- The state with VALID written. -/
def State.setValid (s : State) (x : SaveJob) (v : Nat) : State :=
  s.areaWrite x.die x.base (clean (overlay (s.areaRead x.die x.base 64) 8 (leBytes 4 v)))

/-- The tag bits of block memory offsets 0 to 224 KiB − 1 (R382). -/
def State.tagBytes (s : State) (core : Nat) : List Byte :=
  (List.range 3584).map fun k => (List.range 8).foldl (fun b i =>
    if mapGet false s.mem.tags (bmemBase core / 8 + 8 * k + i) then b ||| (1#8 <<< i) else b) 0

/-- The header (R382). -/
def State.headerBytes (s : State) (x : SaveJob) (crews valid : Nat) : List Byte :=
  leBytes 4 x.job ++ leBytes 4 x.heatno.toNat ++ leBytes 4 valid ++ leBytes 4 crews ++ leBytes 8 s.heat.time.toNat ++
    leBytes 2 0 ++ List.replicate 486 0 ++ s.tagBytes x.core

/-- A queued entry of the array's ring or of xq as 16 bytes (R290, R358). -/
def QEntry.ringBytes (e : QEntry) : List Byte :=
  leBytes 4 e.arg.toNat ++ leBytes 4 e.ticket.toNat ++
    leBytes 4 (match e.node with | some n => n.2 | none => e.origin.toNat) ++
    leBytes 4 (e.fq.toNat + 256 * e.fn.toNat + (if e.node.isSome then 32768 else 0))

/-- The entries of a queue that have not begun. -/
def Queue.queued (q : Queue) : List QEntry := q.ents.filter fun e => e.state == .queued
/-- PROG of the entry of a queue that runs, or has stopped. -/
def Queue.running (q : Queue) (p : QEntry → Bool) : List QEntry :=
  q.ents.filter fun e => p e && (e.state == .running || e.state == .moved || e.state == .faulted)
/-- Issue count and S. -/
def Queue.counts (q : Queue) : List Byte := leBytes 4 q.issue.toNat ++ leBytes 4 q.seq.toNat
/-- PROG of the first entry of a list. -/
def progOf (l : List QEntry) : List Byte := leBytes 4 ((l.head?.map QEntry.prog).getD 0)

/-- The state of the copy queues, of aq and of xq put into an area (R236, R290, R358, R382): the counts in the order cq0 to
cq3, graph copy queue. -/
def State.putQueues (s : State) (x : SaveJob) : State :=
  let y := s.qset (qkey x.part x.core)
  let aq := y.queue 5
  let xq := y.queue 6
  let asyncs := (List.range 24).flatMap fun i => leBytes 1 (s.crewAt (24 * x.core + i)).asyncf.toNat
  let s := x.put atAq (aq.counts ++ progOf (aq.running fun e => !e.live) ++ progOf (aq.running QEntry.live) ++
    padTo 512 (aq.queued.flatMap QEntry.ringBytes) ++ padTo 512 ((y.queue 8).queued.flatMap QEntry.ringBytes)) s
  let s := x.put atCopy ([0, 1, 2, 3, 7].flatMap (fun q => (y.queue q).counts) ++ asyncs) s
  let run := (xq.running fun _ => true).head?
  x.put atXq (padTo 128 xq.counts ++ padTo 512 (xq.queued.flatMap QEntry.ringBytes) ++
    (match run with | some e => taskWords e | none => List.replicate 12 0)) s

/-- A GS slot as 24 bytes: header, id, ARRIVED, remaining count, join total (log entry 60). -/
def Node.slotBytes (n : Node) : List Byte :=
  leBytes 4 n.header.toNat ++ leBytes 4 n.id ++ leBytes 8 n.arrived.toNat ++ leBytes 4 n.remaining ++ leBytes 4 n.join
/-- A bank entry of a node's blocks as 64 bytes, with the cycles that it has waited. -/
def Task.bankBytes (t : Task) (waited : Nat) : List Byte :=
  padTo 64 ([1] ++ leBytes 1 t.cls ++ leBytes 1 t.handle ++ [bitsByte [t.one]] ++ leBytes 4 t.node ++ leBytes 4 t.block ++
    leBytes 8 t.entered ++ leBytes 4 waited)
/-- A bank entry of a tile task as 64 bytes. -/
def QEntry.bankBytes (e : QEntry) : List Byte :=
  padTo 64 ([2, 0, 0, e.fq] ++ leBytes 4 e.arg.toNat ++ leBytes 4 e.ticket.toNat ++ leBytes 8 e.since ++ leBytes 4 e.origin.toNat ++
    leBytes 4 e.engine)
/-- A cohort-table entry (R59). -/
def Cohort.bytes (h : Cohort) : List Byte :=
  leBytes 4 h.total ++ leBytes 4 h.localCrews ++ leBytes 2 h.npkg ++ leBytes 1 h.scope.toNat ++ [bitsByte [h.valid, h.spans]] ++
    leBytes 4 h.depart ++ leBytes 8 h.plist.toNat ++ leBytes 4 h.gen.toNat ++ leBytes 4 h.arrive
/-- A binding as 16 bytes: the scalar addresses of object and region, the granules. -/
def Binding.bytes (b : Binding) : List Byte :=
  leBytes 4 (b.objOff + 2 ^ 27 * b.objSpad.toNat) ++ leBytes 4 (b.regOff + 2 ^ 27 * b.regSpad.toNat) ++ leBytes 4 b.granules ++ leBytes 4 0

/-- The cycles that a bank entry has waited in its class. -/
def State.taskCycles (s : State) (t : Task) : Nat := s.tquCycles (idDie t.node) (s.heat.time - t.waited).toNat

/-- The part of the graph scheduler's and the task queue unit's state that goes into the area of a core (R299, R303, R382):
by position 4,096 slots and 64 bank entries; the job-wide state in the lowest core's. -/
def State.putGraph (s : State) (x : SaveJob) : State :=
  let nodes := s.graphs.flatMap fun g => if graphPart g.1 = x.part then g.2.nodes.filter fun n => idDie n.id == x.die else []
  let slots := (List.range 4096).flatMap fun i => match nodes.find? fun n => n.gsSlot == 4096 * x.pos + i with
    | some n => n.slotBytes
    | none => List.replicate 24 0
  let tasks := ((s.die x.die).bank.filter fun t => t.part == x.part).map fun t => t.bankBytes (s.taskCycles t)
  let tiles := s.qsets.flatMap fun y =>
    if y.1 < 4096 ∧ keyPart y.1 = x.part ∧ keyCore y.1 / 64 = x.die then (y.2.queue 4).queued.map QEntry.bankBytes else []
  let s := x.put atGraph slots s
  let s := x.put atBank (padTo 4096 (((tasks ++ tiles).drop (64 * x.pos)).take 64).flatten) s
  if !x.first then s
  else
    let l := match s.launches.find? fun l => l.2.spec.job == x.job with | some l => l.2 | none => Launch.none
    let cohorts := (List.range 256).flatMap fun i => match mapFind l.cohorts i with | some h => h.bytes | none => List.replicate 32 0
    let graphs := (List.range 64).flatMap fun h => leBytes 4 (s.graph (graphKey x.part h)).status.toNat
    x.put atWide (cohorts ++ padTo 4096 (l.bindings.flatMap Binding.bytes) ++ graphs) s

/-- A parked request as 64 bytes (R386). -/
def parkedBytes (p : Packet) (timer : DWord) : List Byte :=
  padTo 64 (leBytes 8 p.reqid.toNat ++ leBytes 8 p.addr.toNat ++ leBytes 1 p.kind.toNat ++ [0] ++ leBytes 2 p.dst ++ leBytes 4 p.opw.toNat ++
    leBytes 8 timer.toNat)

/-- The parked requests put into an area: n of them in use (R382, R386). -/
def State.putParked (s : State) (x : SaveJob) (l : List (Packet × DWord)) : State :=
  let s := x.put atFabric (padTo 16384 (l.flatMap fun p => parkedBytes p.1 p.2)) s
  x.put 0 (overlay (s.areaRead x.die x.base 64) 24 (leBytes 2 l.length)) s

/-- A response written into the record of a parked request, at byte 32 (R386). -/
def State.putResponse (s : State) (die base : Nat) (p : Packet) : State :=
  match (List.range 256).find? fun i => s.areaNat die (base + atFabric + 64 * i) 8 == p.reqid.toNat with
  | none => s
  | some i =>
    let o := base + atFabric + 64 * i
    let new := padTo 32 ([1] ++ leBytes 1 p.kind.toNat ++ [bitsByte [p.pois.any id], 0] ++ leBytes 4 p.len ++ p.data.take 16)
    s.areaWrite die o (clean ((s.areaRead die o 32) ++ new))

/-- A save of a partition's part of a core (R382, R383). Matrix state that a sprint has put there stays (R397). -/
def State.saveCore (s : State) (x : SaveJob) : State :=
  let bySprint := (s.validOf x).testBit 8
  let slots := s.recordSlots x.core
  let live (i : Nat) : Bool := (s.crewAt (24 * x.core + i)).live && (s.crewAt (24 * x.core + i)).part == x.part
  let crews := slots.zipIdx.foldl (fun n y => if live y.1 then n + 2 ^ y.2 else n) 0
  let s := slots.zipIdx.foldl (fun s y =>
    if live y.1 then x.put (atCrews + crewBytes * y.2) (crewRecord (s.crewAt (24 * x.core + y.1))) s else s) s
  let q := x.quota
  let s := s.areaWrite x.die (x.base + atBmem + q.bmemLo) (s.memRun .bmem (bmemBase x.core + q.bmemLo) q.bmemLen)
  let rows := spadBase x.die + 2 ^ 20 * (x.core % 64) + 8192 * q.rowLo
  let s := s.areaWrite x.die (x.base + atRows + 8192 * q.rowLo) (s.memRun .spad rows (8192 * q.rows))
  let s := if bySprint then s else x.put atStatus (List.replicate 64 0) s
  let s := if x.pins && !bySprint then s.putPair x 0 else s
  let s := if x.tile && !bySprint then s.putPair x 1 else s
  let set := s.qset (qkey x.part x.core)
  let s := if x.tile then match s.tileTask x.core with
      | some t => x.put atStatus (overlay (s.areaRead x.die (x.base + atStatus) 64) 20 (taskWords t.2.2)) s
      | none => s
    else s
  let s := x.put (atStatus) (overlay (s.areaRead x.die (x.base + atStatus) 64) 32 (set.queue 4).counts) s
  let s := x.put atSlots ((List.range 1024).flatMap fun i => leBytes 4 (mapGet 0 set.slots i).toNat) s
  let s := x.put (atSlots + 0x1000) (padTo 2048 (set.fifo.flatMap fun b => b.ents.flatMap fun e => leBytes 4 e.val.toNat)) s
  let c := s.core x.core
  let s := if x.array then
      let s := x.put atCells (s.mem.bytes .cells (cellBase x.core) 131072) s
      x.put atCac (leBytes 8 c.cac.toNat ++ leBytes 4 c.seed.toNat ++ leBytes 4 c.stepCount.toNat ++ s.clauseTable x.core ++
          (List.range 32).map fun k => (List.range 8).foldl (fun b i =>
            if mapGet false s.mem.rowPoison (256 * x.core + 8 * k + i) then b ||| (1#8 <<< i) else b) 0) s
    else s
  let s := (s.putQueues x).putGraph x
  let s := s.putParked x []
  let valid := 0xEF - (if q.bmemLen = 0 then 2 else 0) - (if q.rows = 0 then 4 else 0) + (if x.array then 0x10 else 0) +
    (if bySprint then 0x100 else 0)
  x.put 0 (s.headerBytes x crews valid) s

/-- The queues of a set with issue count and S as an area gives them (R384). -/
def State.countsOf (s : State) (x : SaveJob) (y : QSet) : QSet :=
  let at' (y : QSet) (q o : Nat) : QSet :=
    { y with queues := y.queues.map fun (z : Nat × Queue) => (z.1, if z.1 = q then
        { z.2 with issue := BitVec.ofNat 32 (s.areaNat x.die (x.base + o) 4), seq := BitVec.ofNat 32 (s.areaNat x.die (x.base + o + 4) 4) }
      else z.2) }
  let y := [0, 1, 2, 3, 7].zipIdx.foldl (fun y i => at' y i.1 (atCopy + 8 * i.2)) y
  at' (at' (at' y 5 atAq) 6 atXq) 4 (atStatus + 32)

/-- Values of scale entries from a number on, in FIFO order. -/
def fifoValues (f : Nat → Word) : Nat → List ScaleBatch → List ScaleBatch
  | _, [] => []
  | n, b :: rest => { b with ents := b.ents.zipIdx.map fun e => { e.1 with val := f (n + e.2) } } :: fifoValues f (n + b.ents.length) rest

/-- A core's queue set as its area gives it: the kept entries, with counts, index slots and scale values of the area. -/
def State.setOf (s : State) (x : SaveJob) (y : QSet) : QSet :=
  let word (o : Nat) : Word := BitVec.ofNat 32 (s.areaNat x.die (x.base + o) 4)
  let z := s.countsOf x y
  { z with
    slots := (List.range 1024).foldl (fun t i => mapSet 0 t i (word (atSlots + 4 * i))) []
    fifo := fifoValues (fun i => word (atSlots + 0x1000 + 4 * i)) 0 z.fifo }

/-- What a restore reads back into the memories of a core: each part that VALID marks (R384). -/
def State.loadCore (s : State) (x : SaveJob) : State :=
  let v := s.validOf x
  let q := x.quota
  let s := if v.testBit 1 then
      let m := { s.mem with
        bmemPoison := flagsClear s.mem.bmemPoison ((bmemBase x.core + q.bmemLo) / 64) (q.bmemLen / 64) }
      let s := { s with mem := m }
      let s := s.spotWrite (.mem .bmem (bmemBase x.core + q.bmemLo)) (s.areaRun x.die (x.base + atBmem + q.bmemLo) q.bmemLen)
      let tags := s.areaRead x.die (x.base + 512) 3584
      { s with mem := { s.mem with tags := (List.range (q.bmemLen / 8)).foldl (fun m w =>
          mapSet false m ((bmemBase x.core + q.bmemLo) / 8 + w) (bitAt tags (q.bmemLo / 8 + w))) s.mem.tags } }
    else s
  let s := if v.testBit 2 then
      let rows := spadBase x.die + 2 ^ 20 * (x.core % 64) + 8192 * q.rowLo
      let s := { s with mem := { s.mem with spadPoison := flagsClear s.mem.spadPoison (rows / 64) (128 * q.rows) } }
      s.spotWrite (.mem .spad rows) (s.areaRun x.die (x.base + atRows + 8192 * q.rowLo) (8192 * q.rows))
    else s
  let pairs := s.areaNat x.die (x.base + atStatus) 4
  let s := if v.testBit 3 ∨ v.testBit 8 then
      let s := if pairs.testBit 0 then s.getPair x 0 else s
      if pairs.testBit 1 then s.getPair x 1 else s
    else s
  if v.testBit 4 then
    let cac := s.areaRead x.die (x.base + atCac) 80
    let rp := s.areaRead x.die (x.base + atRowPoison) 32
    let s := { s with mem := s.mem.store .cells (cellBase x.core) (s.areaRead x.die (x.base + atCells) 131072) }
    let s := { s with mem := { s.mem with rowPoison := (List.range 256).foldl (fun m i =>
        mapSet false m (256 * x.core + i) (bitAt rp i)) s.mem.rowPoison } }
    s.updCore x.core fun c => { c with
      cac := BitVec.ofNat 64 (leAt cac 0 8), seed := BitVec.ofNat 32 (leAt cac 8 4), stepCount := BitVec.ofNat 32 (leAt cac 12 4)
      table := memPut [] 0 (cac.drop 16) }
  else s

end Sys2Proof.Machine
end

