-- ==== Sys2Proof/Machine/Switch.lean ====
section
/-! DEFINITION. The catch, the deadline reset, save, drain and tag, restore, fresh start and start of a heat switch, and
the abort of a job (R16, R374, R377 to R390, R236, R265, R290, R313, R328). -/

namespace Sys2Proof.Machine

/-! ## The catch (R377 to R379) -/

/-- A crew caught at an instruction boundary: what has begun completes, waits are abandoned, the window drains. -/
def State.catchCrew (s : State) (slot : Nat) : State :=
  let s := s.abandonAll slot
  let s := s.setCrewAt slot (s.crewAt slot).arriveAll
  let s := s.drainAt slot
  s.setCrewAt slot { s.crewAt slot with caught := true }

/-- Every token of a partition already sent is applied (R313). -/
def State.applyTokens (s : State) (part : Nat) : State :=
  (List.range 4).foldl (fun s d =>
    let mine := (s.die d).tokens.filter fun t => t.part == part
    mine.foldl State.applyToken (s.updDie d fun x => { x with tokens := x.tokens.filter fun t => t.part != part })) s

/-- Tasks of a partition go from a core's prefetch buffer back to the head of their banks, a block of a launch as an
entry of its own (R16). -/
def State.returnTasks (s : State) (part core : Nat) : State :=
  let mine := (s.core core).prefetch.filter fun t => t.part == part
  let s := s.updCore core fun c => { c with prefetch := c.prefetch.filter fun t => t.part != part }
  mine.reverse.foldl (fun s t => s.updDie (idDie t.node) fun d => { d with bank := { t with one := true } :: d.bank }) s

/-- Clause granules of a queue set that a boundary would perform are performed, at most n (R288, R290). -/
def State.settleGranules (s : State) (k core : Nat) : Nat → State
  | 0 => s
  | n + 1 =>
    match s.pickGranule ((s.granuleOffers core).filter fun g => g.key == k) with
    | (none, s) => s
    | (some g, s) =>
      ((s.updCore core fun c => { c with granules := c.granules.erase g }).clauseWrite core g).settleGranules k core n

/-- A partition's clause array comes to a boundary: the step in progress ends, granules that are due are performed (R288,
R290, R291). -/
def State.settleArray (s : State) (part core : Nat) : State :=
  let s := if (s.core core).arrayOwner = some part then s.endStep core else s
  s.settleGranules (qkey part core) core (s.core core).granules.length

/-- The tile task of a core stops: the comparator of a redundant task compares the copies of the row block under way, and
finds a difference where the device chooses; the shadow is discarded (R260, R265; log entry 12). -/
def State.stopTile (s : State) (core : Nat) : State :=
  match s.tileTask core with
  | none => s
  | some (k, q, e) =>
    let t := tileRec e.recd
    if e.state = .running ∧ t.red ∧ 0 < e.prog then
      let c := s.choose
      if c.1 then (c.2.setTileStatus e.engine t (c.2.tileStatus e.engine t ||| 8)).tileFault k q e 13 e.arg.toNat 0
      else c.2
    else s

/-- A partition's holds on fibre groups end (R344). -/
def State.dropHolds (s : State) (part : Nat) : State :=
  s.updFabric fun f => { f with groups := f.groups.map fun g => (g.1, { g.2 with holders := g.2.holders.filter (· != part) }) }

/-- The exit status of a reset: CLASS 0x03, CODE, and core and die in DETAIL (R211, R380, R396, R397). -/
def resetStatus (code : BitVec 8) (core : Nat) : Word := 0x03#8 ++ code ++ BitVec.ofNat 16 (core % 64 + 64 * (core / 64))

/-- Every crew of a partition on a core ends, with its records (R380, R396, R397). -/
def State.resetCrews (s : State) (part core : Nat) (code : BitVec 8) : State :=
  (s.crewsOn part core).foldl (fun s x =>
    (s.setCrewAt x.1 { s.crewAt x.1 with laneQ := [], inflight := [] }).endCrew x.1 (resetStatus code core) true) s

/-- n bytes of a memory zeroed, without poison or tags. -/
def Mem.zero (m : Mem) (sp : Sp) (a n : Nat) : Mem :=
  let u := poisonUnit sp
  let m := m.setSpace sp (memZero (m.space sp) a n)
  let m := m.setPoison sp (flagsClear (m.poison sp) (a / u) ((n + u - 1) / u))
  if sp = .bmem then { m with tags := flagsClear m.tags (a / 8) (n / 8) } else m

/-- A partition's graphs, banks and tokens emptied. -/
def State.clearGraphs (s : State) (part : Nat) : State :=
  let s := { s with graphs := s.graphs.filter fun g => graphPart g.1 != part }
  (List.range 4).foldl (fun s d => s.updDie d fun x =>
    { x with bank := x.bank.filter fun t => t.part != part, tokens := x.tokens.filter fun t => t.part != part }) s

/-- The queues of a partition on the dies emptied. -/
def State.clearDies (s : State) (part : Nat) : State :=
  { s with qsets := s.qsets.filter fun x => !(4096 ≤ x.1 && keyPart x.1 == part) }

/-- The tile task that stands started on the engine of a core. -/
def State.findTile (s : State) (core : Nat) : Option (Nat × Nat × Word) :=
  s.qsets.findSome? fun x => [4, 9].findSome? fun q =>
    ((x.2.queue q).ents.find? fun e => e.engine == core && (e.state == .running || e.state == .moved)).map fun e =>
      (x.1, q, e.ticket)

/-- The sprint partition of the package. -/
def State.sprintPart (s : State) : Option Nat := (s.parts.find? fun p => p.2.sprint).map Prod.fst

/-- The partitions that are no sprint partition. -/
def State.plainParts (s : State) : List Nat := (s.parts.filter fun p => !p.2.sprint).map Prod.fst

/-- The job that a partition holds on some cores: that of the heat it runs, else a job that is present and whose state
does not lie in the save area of one of the cores. -/
def State.heldOn (s : State) (part : Nat) (cores : Nat → Bool) : Option Nat :=
  match s.heat.running.find? fun r => r.part == part with
  | some r => if (s.job r.job).present && (s.job r.job).part == part then some r.job else none
  | none => (s.jobs.find? fun j => j.2.present && j.2.part == part &&
      !(s.heat.saved.any fun a => a.job == j.1 && a.part == part && cores a.core)).map Prod.fst

/-- The job that a partition holds, if any. -/
def State.outgoing (s : State) (part : Nat) : Option Nat := s.heldOn part fun _ => true

/-- The job whose state a partition's part of a core holds, if any. -/
def State.outgoingAt (s : State) (part core : Nat) : Option Nat := s.heldOn part (· == core)

/-- The engine of a core runs a tile task of a partition. -/
def State.runsTile (s : State) (part core : Nat) : Bool :=
  match (s.core core).tile with | some t => keyPart t.1 == part | none => false

/-- What the save of a partition's part of a core writes, with the area given. -/
def State.saveJob (s : State) (part core job : Nat) : SaveJob × State :=
  let a := s.giveArea (s.areaKey job part core)
  ({ job := job, heatno := (s.job job).heatno, part := part, core := core, base := a.1
     quota := match s.quota part core with | some q => q | none => ⟨core, 0, 0, 0, 0, 0⟩
     pins := (s.core core).pinOwner == some part, array := (s.core core).arrayOwner == some part
     tile := s.runsTile part core, pos := s.areaPos part core, first := s.areaPos part core == 0 }, a.2)

/-- The accumulator state of a job on a core read back, and VALID[8] cleared. -/
def State.reloadPairs (s : State) (part core : Nat) (pair0 pair1 : Bool) : State :=
  match s.outgoingAt part core with
  | none => s
  | some job =>
    let y := s.saveJob part core job
    let x := y.1
    let s := y.2
    let v := s.validOf x
    if v.testBit 8 then
      let word := s.areaNat x.die (x.base + atStatus) 4
      let s := if pair0 && word.testBit 0 then s.getPair x 0 else s
      let s := if pair1 && word.testBit 1 then s.getPair x 1 else s
      s.setValid x (v &&& 0xFF)
    else s

/-- A claimed core goes back to the running jobs, those of the partitions given (R396). -/
def State.leaveSprint (s : State) (x : Sprint) (core : Nat) (back : List Nat) : State :=
  let pin := mapGet 0 x.pins core
  let tile := s.findTile core
  let s := { s with mem := s.mem.zero .acc (accBase core) 262144 }
  let s := s.updCore core fun c => { c with
    sprint := none, accStatus := [], tile := tile, pinOwner := if pin = 0 then none else some (pin - 1) }
  let parts := back.filter fun p => pin == p + 1 || (match tile with | some t => keyPart t.1 == p | none => false)
  let s := parts.foldl (fun s p => s.reloadPairs p core (pin == p + 1) (match tile with | some t => keyPart t.1 == p | none => false)) s
  let mine := back.flatMap fun p => s.crewsOn p core
  let resume (r : Req) : Req :=
    match x.parked.find? fun y => y.1 == r.reqid with
    | some y => if mine.any (fun c => c.2.reqs.any fun q => q.reqid == r.reqid) && r.timer.isNone then { r with timer := some (s.heat.time - y.2) } else r
    | none => r
  let s := s.updFabric fun f => { f with reqs := f.reqs.map resume }
  let ours (id : DWord) : Bool := mine.any fun c => c.2.reqs.any fun q => q.reqid == id
  let s := s.updHeat fun h => { h with sprint := h.sprint.map fun y => { y with parked := y.parked.filter fun r => !ours r.1 } }
  mine.foldl (fun s c => s.setCrewAt c.1 { s.crewAt c.1 with caught := false }) s

/-- A sprint that still runs on the core at the START of a switch of a partition: its crews end with CODE 0x03 and the core
leaves it; the partition's own matrix state stays in its save area under VALID[8] (R397). -/
def State.cutSprint (s : State) (core part : Nat) : State :=
  match s.heat.sprint, s.sprintPart with
  | some x, some sp =>
    if (s.core core).sprint.isNone then s
    else
      let s := s.resetCrews sp core 0x03
      let s := { s with qsets := s.qsets.filter fun y => y.1 != qkey sp core }
      let s := s.leaveSprint x core (s.plainParts.filter (· != part))
      let cores := x.cores.filter (· != core)
      if cores.isEmpty then
        ((s.clearGraphs sp).clearDies sp).updHeat fun h => { h with
          sprint := none, sprintOver := h.time, running := h.running.filter fun r => r.part != sp }
      else s.updHeat fun h => { h with sprint := h.sprint.map fun y => { y with cores := cores } }
  | _, _ => s

/-- The switch of a partition on a core that has been begun by an entry. -/
def State.switchOf (s : State) (part core : Nat) : Option Switch :=
  s.heat.switches.find? fun w => w.part == part && w.core == core
/-- The state with a switch changed by f. -/
def State.updSwitch (s : State) (part core : Nat) (f : Switch → Switch) : State :=
  s.updHeat fun h => { h with switches := h.switches.map fun w => if w.part = part ∧ w.core = core then f w else w }

/-- How far a phase has come. -/
def Phase.rank : Phase → Nat | .running => 0 | .idle => 0 | .caught => 1 | .saved => 2 | .drained => 3 | .restored => 4

/-- Whether a phase may begin on a core: on every core of its die that the partition switches, the one before has ended
(R390); the drain and tag ends at one instant for the whole package (R387). -/
def State.phaseReady (s : State) (part core : Nat) (p : Phase) : Bool :=
  s.phaseOf (qkey part core) == p &&
    s.heat.switches.all fun w => w.part != part || (w.core / 64 != core / 64 && p != .drained) ||
      (w.begun && decide (p.rank ≤ (s.phaseOf (qkey part w.core)).rank))

/-- The catch of a partition's part of a core. -/
def State.catchPart (s : State) (part core : Nat) : State :=
  let s := s.cutSprint core part
  let s := (s.crewsOn part core).foldl (fun s x => s.catchCrew x.1) s
  let s := s.dropHolds part
  let s := s.applyTokens part
  let s := s.returnTasks part core
  let s := if s.runsTile part core then s.stopTile core else s
  let s := s.settleArray part core
  (s.setPhase (qkey part core) .caught).updSwitch part core fun w => { w with begun := true, since := s.heat.time }

/-- CATCH (R377): a catch that is not complete in 1.5 µs does not come about (R380). -/
def execCatchCore (core part : Nat) (s : State) : Result :=
  let p := s.phaseOf (qkey part core)
  .next (match s.switchOf part core with
    | some w => if !w.begun && (p == .idle || (p == .running && !s.passed w.since 1500)) then s.catchPart part core else s
    | none => s)

/-- DEADLINE_RESET (R380): a catch that has not come about 1.5 µs after its start ends the crews. -/
def execDeadlineReset (core part : Nat) (s : State) : Result :=
  .next (match s.switchOf part core with
    | some w =>
      if !w.begun && s.phaseOf (qkey part core) == .running && s.passed w.since 1500 then
        (s.resetCrews part core 0x01).catchPart part core
      else s
    | none => s)

/-! ## Save (R381, R382) -/

/-- The heat of a partition stops when the drain and tag of its switch begins, which is when the save has ended on every core
of a die (R387, R390). -/
def State.stopHeat (s : State) (part die : Nat) : State :=
  let saved (w : Switch) : Bool := w.part != part || w.core / 64 != die ||
    (w.begun && decide (Phase.saved.rank ≤ (s.phaseOf (qkey part w.core)).rank))
  if s.heat.switches.all saved then
    s.updHeat fun h => { h with running := h.running.map fun r => if r.part = part then { r with stopped := true } else r }
  else s

/-- SAVE (R382). -/
def execSave (core part : Nat) (s : State) : Result :=
  .next (if s.phaseReady part core .caught then
    let s := match s.outgoingAt part core with
      | some job => let x := s.saveJob part core job; x.2.saveCore x.1
      | none => s
    let s := (s.setPhase (qkey part core) .saved).updSwitch part core fun w => { w with since := s.heat.time }
    s.stopHeat part (core / 64)
  else s)

/-! ## Drain and tag (R386, R387) -/

/-- Whether a request in flight belongs to a partition's part of a core: to a crew, or to an entry of the core's queues. -/
def State.reqOf (s : State) (part core : Nat) (r : Req) : Bool :=
  if r.origin = 0 then (s.crewsOn part core).any fun x => x.2.reqs.any fun q => q.reqid == r.reqid
  else r.origin != 4 && r.qset == qkey part core

/-- Whether a request in flight belongs to an entry of the graph scheduler's queues of a partition on a die. -/
def State.dieReqOf (part die : Nat) (r : Req) : Bool := r.origin != 0 && r.origin != 4 && r.qset == dieKey part die

/-- The time that a request's timer has run. -/
def State.timerRun (s : State) (r : Req) : DWord := match r.timer with | some t => s.heat.time - t | none => 0

/-- An entry whose requests are given up: each index keeps its REQID (R386). -/
def QEntry.giveUp (e : QEntry) (reqs : List Req) : QEntry :=
  let mine := reqs.filter fun r => e.pending.contains r.reqid
  { e with pending := [], again := e.again ++ mine.map fun r => (r.index, r.reqid) }

/-- A queue set with the requests of its entries given up. -/
def QSet.giveUp (x : QSet) (reqs : List Req) : QSet :=
  { x with queues := x.queues.map fun q => (q.1, { q.2 with ents := q.2.ents.map fun e => e.giveUp reqs }) }

/-- The least of the cores of a partition's switch, on a die or on the package. -/
def leastCore (cores : List Nat) (core : Nat) : Bool := cores.all fun c => core ≤ c

/-- Whether a sync object key lies in a partition's block memory or rows of a core. -/
def State.keyInPart (s : State) (part core key : Nat) : Bool :=
  let a := key / 2
  match s.quota part core with
  | none => false
  | some q =>
    let lo := if key % 2 = 1 then spadBase (core / 64) + 2 ^ 20 * (core % 64) + 8192 * q.rowLo else bmemBase core + q.bmemLo
    let n := if key % 2 = 1 then 8192 * q.rows else q.bmemLen
    decide (lo ≤ a) && decide (a < lo + n)

/-- The part of a job's state on a core leaves the core for its save area. -/
def State.takeAway (s : State) (part core job : Nat) (cores : List Nat) : State :=
  let k := qkey part core
  let x := (s.saveJob part core job).1
  let first := leastCore cores core
  let dies := (List.range 4).filter fun d =>
    let here := coresOnDie cores d
    if here.isEmpty then first else d == core / 64 && leastCore here core
  let outs := s.fabric.reqs.filter fun r => s.reqOf part core r || dies.any fun d => State.dieReqOf part d r
  let crews := (s.crewsOn part core).map fun c =>
    let mark (q : CrewReq) : CrewReq := { q with parked := q.parked || outs.any fun r => r.reqid == q.reqid }
    (c.1 % 24, { c.2 with reqs := c.2.reqs.map mark })
  let area : SavedArea :=
    { job := job, die := core / 64, pos := s.areaPos part core, part := part, core := core, heatno := x.heatno
      quota := x.quota, pins := x.pins, array := x.array, crews := crews, qset := (s.qset k).giveUp outs
      engines := { s.core core with
        granules := (s.core core).granules.filter fun g => g.key == k
        tile := match (s.core core).tile with | some t => if keyPart t.1 = part then some t else none | none => none }
      graphs := if first then s.graphs.filter fun g => graphPart g.1 == part else []
      diesets := dies.map fun d => (d, (s.qset (dieKey part d)).giveUp outs)
      bank := dies.flatMap fun d => ((s.die d).bank.filter fun t => t.part == part).map fun t => (t, s.taskCycles t)
      objs := s.objs.filter fun o => s.keyInPart part core o.1
      parked := (outs.filter fun r => r.origin == 0).map fun r => (r, s.timerRun r) }
  let record (q : CrewReq) : Option (Packet × DWord) := (area.parked.find? fun r => r.1.reqid == q.reqid).map fun r => (r.1.packet, r.2)
  let s := s.putParked x (crews.flatMap fun c => c.2.reqs.filterMap record)
  let s := crews.foldl (fun s c => s.setCrewAt (24 * core + c.1) { Crew.empty with reqCounter := c.2.reqCounter }) s
  let s := (k :: dies.map (dieKey part)).foldl (fun s k => s.updQset k fun _ => QSet.empty) s
  let s := s.updCore core fun c => { c with
    granules := c.granules.filter fun g => g.key != k
    tile := match c.tile with | some t => if keyPart t.1 = part then none else some t | none => none }
  let s := dies.foldl (fun s d => s.updDie d fun x => { x with bank := x.bank.filter fun t => t.part != part }) s
  let s := { s with
    graphs := if first then s.graphs.filter fun g => graphPart g.1 != part else s.graphs
    objs := s.objs.filter fun o => !s.keyInPart part core o.1
    fabric := { s.fabric with reqs := s.fabric.reqs.filter fun r => !outs.contains r } }
  s.updHeat fun h => { h with
    saved := (h.saved.filter fun a => !(a.job == job && a.die == area.die && a.pos == area.pos)) ++ [area] }

/-- The incoming heat of a switch, which runs from the end of the drain on (R387). -/
def State.heatEnters (s : State) (part : Nat) (w : Switch) : State :=
  let s := s.updHeat fun h => { h with running := h.running.filter fun r => r.part != part }
  match s.heat.sheet.find? fun x => x.entry.seq == w.seq with
  | some x =>
    if w.idle then s
    else s.updHeat fun h => { h with running := h.running ++
        [⟨part, x.entry.heatno, x.entry.job.toNat, x.entry.start, x.entry.start + x.entry.dur, w.seq, x.cores, false⟩] }
  | none => s

/-- DRAIN_AND_TAG (R386, R387): when no request of the part is outstanding, or 2 µs after the save, those left are parked
or given up; with the last core of the package the heats change. -/
def execDrainAndTag (core part : Nat) (s : State) : Result :=
  .next (match s.switchOf part core with
    | none => s
    | some w =>
      let waits := s.fabric.reqs.any fun r => s.reqOf part core r || State.dieReqOf part (core / 64) r
      if s.phaseReady part core .saved && (!waits || s.passed w.since 2000) then
        let cores := (s.heat.switches.filter fun v => v.part == part).map Switch.core
        let s := match s.outgoingAt part core with
          | some job => s.takeAway part core job cores
          | none => s
        let s := (s.setPhase (qkey part core) .drained).updSwitch part core fun w => { w with since := s.heat.time }
        if s.heat.switches.all fun v => v.part != part || Phase.drained.rank ≤ (s.phaseOf (qkey part v.core)).rank then
          s.heatEnters part w
        else s
      else s)

/-- The save area of the crew that waits for a parked request: of a crew in a save area, or of one in its slot (R386). -/
def State.parkedArea (s : State) (id : DWord) : Option (Nat × Nat) :=
  match s.heat.saved.find? fun a => a.parked.any fun r => r.1.reqid == id with
  | some a => (mapFind s.heat.saveAt (256 * a.job + 64 * a.die + a.pos % 64)).map fun r => (a.die, r - 1)
  | none =>
    match s.crews.find? fun c => c.2.live && c.2.reqs.any fun q => q.reqid == id with
    | some c => (mapFind s.heat.saveAt (s.areaKey c.2.job c.2.part (slotCore c.1))).map fun r => (slotCore c.1 / 64, r - 1)
    | none => none

/-- PARKED_RESPONSE (R386): the response is written into the record of the parked request; a poisoned one of DETAIL 5 or 6
is reported as a failed member (R373). -/
def execParkedResponse (p : Packet) (s : State) : Result :=
  .next (if p.dst = s.fabric.peer && s.isParked p.reqid && s.fabric.inbox.contains p &&
      [kReadRsp, kWriteAck, kAtomRsp, kPoisoned].contains p.kind then
    let s := match s.parkedArea p.reqid with
      | some r => s.putResponse r.1 r.2 p
      | none => s
    let s := if p.kind = kPoisoned ∧ (p.len = 5 ∨ p.len = 6) then
        match s.heat.sheet.find? fun x => x.entry.heatno.setWidth 16 == p.heat with
        | some x => s.tell 0x26 x.entry.heatno x.entry.seq (p.src + 4096 * p.len) s.heat.starter
        | none => s
      else s
    ((s.served p).deliver p).updHeat fun h => { h with
      sprint := h.sprint.map fun x => { x with parked := x.parked.filter fun r => r.1 != p.reqid }
      saved := h.saved.map fun a =>
        { a with
          crews := a.crews.map fun c => (c.1, { c.2 with reqs := c.2.reqs.map fun q =>
            if q.reqid = p.reqid then { q with response := some p, parked := false } else q })
          parked := a.parked.filter fun r => r.1.reqid != p.reqid } }
  else s)

/-! ## Moving to other cores (R385) -/

/-- Where the cores of a save go: old core and new core. -/
abbrev CoreMove := List (Nat × Nat)

/-- The new core of an old one. -/
def CoreMove.core (m : CoreMove) (c : Nat) : Nat := match m.find? fun x => x.1 == c with | some x => x.2 | none => c
/-- A crew slot on its new core. -/
def CoreMove.slot (m : CoreMove) (n : Nat) : Nat := 24 * CoreMove.core m (n / 24) + n % 24
/-- An absolute byte on its new core. -/
def CoreMove.addr (m : CoreMove) (spad : Bool) (a : Nat) : Nat :=
  if spad then
    let c := CoreMove.core m (64 * (a / 2 ^ 26) + a % 2 ^ 26 / 2 ^ 20)
    spadBase (c / 64) + 2 ^ 20 * (c % 64) + a % 2 ^ 20
  else bmemBase (CoreMove.core m (a / 2 ^ 18)) + a % 2 ^ 18
/-- A release object on its new core. -/
def CoreMove.obj (m : CoreMove) (x : Bool × Nat) : Bool × Nat := (x.1, CoreMove.addr m x.1 x.2)

/-- An entry on its new core. -/
def QEntry.moved (e : QEntry) (m : CoreMove) : QEntry :=
  { e with slot := CoreMove.slot m e.slot, rel := e.rel.map (CoreMove.obj m), engine := CoreMove.core m e.engine }
/-- A queue set on its new core. -/
def QSet.moved (x : QSet) (m : CoreMove) : QSet :=
  { x with queues := x.queues.map fun q => (q.1, { q.2 with ents := q.2.ents.map fun e => e.moved m }) }
/-- A node on its new core. -/
def Node.moved (n : Node) (m : CoreMove) : Node := { n with parent := n.parent.map fun p => (CoreMove.slot m p.1, p.2.1, p.2.2) }
/-- A graph on its new cores. -/
def Graph.moved (g : Graph) (m : CoreMove) : Graph :=
  { g with nodes := g.nodes.map fun n => n.moved m, doneObj := g.doneObj.map (CoreMove.obj m) }
/-- A crew on its new core. -/
def Crew.moved (c : Crew) (m : CoreMove) : Crew :=
  { c with
    relFailed := c.relFailed.map fun x => (x.1, CoreMove.obj m x.2)
    buffered := c.buffered.map fun b => { b with addr := CoreMove.addr m b.spad b.addr }
    firstReads := c.firstReads.map fun b => { b with addr := CoreMove.addr m b.spad b.addr } }

/-! ## Restore (R384 to R386) -/

/-- The cores that take over the areas of a job in a map. -/
def State.moveOf (s : State) (job : Nat) (cores : List Nat) : CoreMove :=
  (s.heat.saved.filter fun a => a.job == job).filterMap fun a => ((coresOnDie cores a.die)[a.pos]?).map fun c => (a.core, c)

/-- A crew as its record in the area gives it. -/
def State.recordCrew (s : State) (x : SaveJob) (n : Nat) (c : Crew) : Crew :=
  let c := crewOf (s.areaRead x.die (x.base + atCrews + crewBytes * n) crewBytes) c
  { c with reqs := c.reqs.map fun q => { q with parked := false } }

/-- The parts of an area put onto a core. -/
def State.putBack (s : State) (a : SavedArea) (core base : Nat) (m : CoreMove) : State :=
  let k := qkey a.part core
  let x : SaveJob :=
    { job := a.job, heatno := a.heatno, part := a.part, core := core, base := base, quota := { a.quota with core := core }
      pins := a.pins, array := a.array, tile := false, pos := a.pos, first := a.pos == 0 }
  let v := s.validOf x
  let used := s.areaNat x.die (base + 12) 4
  let slots := s.recordSlots core
  let s := s.loadCore x
  let s := if v.testBit 0 then
      slots.zipIdx.foldl (fun s y =>
        match mapFind a.crews y.1 with
        | some c =>
          if used.testBit y.2 then
            let n := (s.crewAt (24 * core + y.1)).reqCounter
            let c := (s.recordCrew x y.2 c).moved m
            s.setCrewAt (24 * core + y.1) { c with reqCounter := if c.reqCounter < n then n else c.reqCounter }
          else s
        | none => s) s
    else s
  let set := a.qset.moved m
  let s := if v.testBit 3 ∨ v.testBit 5 then
      (s.updQset k fun _ => s.setOf x set).updCore core fun c => { c with
          tile := match a.engines.tile with | some t => some (qkey a.part (CoreMove.core m (keyCore t.1)), t.2) | none => c.tile
          granules := c.granules ++ a.engines.granules.map fun g => { g with key := k } }
    else s
  let s := if v.testBit 6 then
      let s := a.bank.foldl (fun s t =>
        let die := idDie t.1.node
        s.updDie die fun d =>
          { d with bank := d.bank ++ [{ t.1 with waited := s.heat.time - BitVec.ofNat 64 (s.tquTime die t.2) }] }) s
      let s := a.diesets.foldl (fun s d => s.updQset (dieKey a.part d.1) fun _ => d.2.moved m) s
      { s with graphs := a.graphs.foldl (fun g y => mapSet Graph.free g y.1 (y.2.moved m)) s.graphs }
    else s
  let s := { s with objs := a.objs.foldl (fun (o : List (Nat × ObjClock)) (y : Nat × ObjClock) =>
      mapSet ObjClock.none o (objKey (y.1 % 2 == 1) (CoreMove.addr m (y.1 % 2 == 1) (y.1 / 2))) y.2) s.objs }
  let s := if v.testBit 7 then
      s.updFabric fun f => { f with reqs := f.reqs ++ a.parked.map fun (r : Req × DWord) => { r.1 with timer := some (s.heat.time - r.2) } }
    else s
  let s := s.setValid x (v % 256)
  s.updHeat fun h => { h with saved := h.saved.erase a }

/-- The holds of a job placed on its fibre groups again (R344). -/
def State.placeHolds (s : State) (job part : Nat) : State :=
  (s.job job).holds.foldl (fun s g => (s.updFibreGroup g fun x =>
    { x with holders := if x.holders.contains part then x.holders else part :: x.holders }).keepWide g) s

/-- No job comes in on a core, and the package reports itself (R384); where none comes in on any, the heat does not run. -/
def State.refuseJob (s : State) (core part : Nat) (seq heat : Word) : State :=
  let s := s.updSwitch part core fun w => { w with idle := true }
  let all := s.heat.switches.all fun w => w.part != part || w.idle
  let s := s.updHeat fun h => { h with running := h.running.filter fun r => !(all && r.part == part) }
  s.tell 0x26 heat seq s.fabric.peer s.heat.starter

/-- SWITCH_RESTORE (R384, R385): a JOB that differs leaves the heat idle and is reported as a failed member. -/
def execSwitchRestore (core part : Nat) (seq : Word) (s : State) : Result :=
  .next (match s.switchOf part core, s.heat.sheet.find? fun x => x.entry.seq == seq with
    | some w, some x =>
      if s.phaseReady part core .drained && w.seq == seq && w.resume && !w.idle then
        let job := x.entry.job.toNat
        let pos := ((coresOnDie x.cores (core / 64)).filter fun c => c < core).length
        let key := 256 * job + 64 * (core / 64) + pos
        match mapFind s.heat.saveAt key, s.heat.saved.find? fun a => a.job == job && a.die == core / 64 && a.pos == pos with
        | some r, some a =>
          if s.areaNat (core / 64) (r - 1) 4 = job then
            let s := s.putBack a core (r - 1) (s.moveOf job x.cores)
            let s := s.updJob job fun j => { j with heatno := x.entry.heatno, part := part, present := true }
            (s.placeHolds job part).setPhase (qkey part core) .restored
          else s.refuseJob core part seq x.entry.heatno
        | _, _ => s.refuseJob core part seq x.entry.heatno
      else s
    | _, _ => s)

/-! ## The loader (R27, R56, R59, R62, R127) -/

/-- A cohort-table entry as the loader builds it (R59). -/
def cohortEntry (l : Launch) (peer : Nat) (c : CohortSpec) : Cohort :=
  let blocks := c.blocks.eraseDups
  let here := blocks.filter fun b => l.holds peer b
  let npkg := if l.spec.pgroup.isEmpty then 1
    else (l.spec.pgroup.filter fun e => blocks.any fun b => l.holds e.peer b).length
  { total := blocks.length * l.spec.crews, localCrews := here.length * l.spec.crews, npkg := npkg
    scope := if blocks.length = 1 then 1 else if npkg ≤ 1 then 4 else 5
    valid := true, spans := decide (1 < npkg), depart := 0, plist := if npkg ≤ 1 then 0 else BitVec.ofNat 64 c.plist, gen := 0, arrive := 0, arrived := [], maxClock := 0
    departClock := 0, doneClock := 0, collIssued := [], gone := [], contribs := [] }

/-- The packages that hold blocks of a cohort, in rank order, two bytes each (R59; DESIGN CHOICE, log entry 134). -/
def memberList (l : Launch) (c : CohortSpec) : List Byte :=
  (l.spec.pgroup.filter fun e => c.blocks.any fun b => l.holds e.peer b).flatMap fun e => leBytes 2 e.peer

/-- Bits [bit, bit + w) of a section given a value, bit 8i + j being bit j of byte i. -/
def patchBits (bs : List Byte) (bit w v : Nat) : List Byte :=
  bs.zipIdx.map fun x => (List.range 8).foldl (fun (b : Byte) i =>
    let n := 8 * x.2 + i
    if n < bit ∨ bit + w ≤ n then b else if v.testBit (n - bit) then b ||| (1#8 <<< i) else b &&& ~~~(1#8 <<< i)) x.1

/-- The value of a relocated field: the label's address, a virtual one in `.data`, a scalar one of SPACE 1 in `.sdata`,
shifted as the source says (R117, R127, R133). -/
def relocValue (r : RelocSpec) (dataAt sdataAt : Nat) : Nat :=
  (if r.ofData then dataAt + r.off else 2 ^ 27 + sdataAt + r.off) / 2 ^ r.shift

/-- A section with its fields relocated. -/
def relocSection (j : JobSpec) (sdataAt n : Nat) (bs : List Byte) : List Byte :=
  (j.relocs.filter fun r => r.sect == n).foldl (fun bs r => patchBits bs r.bit r.width (relocValue r j.dataAt sdataAt)) bs

/-- A scalar address of a directive relocated: in SPACE 1 it is an offset of the image (R117). -/
def relocAddr (sdataAt : Nat) (a : Word) : Word := if a.getLsbD 27 then a + BitVec.ofNat 32 sdataAt else a

/-- A launch record with its labels relocated, once the place of its image is known (R117, R127, R133). -/
def relocLaunch (j : JobSpec) (sdataAt : Nat) : JobSpec :=
  { j with
    scalarBytes := relocSection j sdataAt 0 j.scalarBytes, laneBytes := relocSection j sdataAt 1 j.laneBytes
    data := relocSection j sdataAt 2 j.data, sdata := relocSection j sdataAt 3 j.sdata, bdata := relocSection j sdataAt 4 j.bdata
    binds := j.binds.map fun b => { b with obj := relocAddr sdataAt b.obj, base := relocAddr sdataAt b.base } }

/-- A binding of a relocated directive (R27). -/
def bindingOf (b : BindSpec) : Binding :=
  ⟨b.obj.getLsbD 27, (b.obj.extractLsb' 0 27).toNat, b.base.getLsbD 27, (b.base.extractLsb' 0 27).toNat, b.len⟩

/-- A launch as the loader makes it from a relocated record, its image at a place on some dies. -/
def Launch.load (j : JobSpec) (peer sdataAt : Nat) (dies : List Nat) : Launch :=
  let l : Launch := { Launch.none with
    spec := j, scalar := memPut [] 0 j.scalarBytes, scalarLen := j.scalarBytes.length, lane := memPut [] 0 j.laneBytes
    laneLen := j.laneBytes.length, sdataAt := sdataAt, sdataDies := dies, bindings := j.binds.map bindingOf }
  { l with cohorts := j.cohorts.map fun c => (c.index, cohortEntry l peer c) }

/-- Whether n bytes of a binding lie within a block's allocation, or within the partition's rows of every die that holds
blocks (R27). -/
def State.bindFits (s : State) (part : Nat) (dies : List Nat) (j : JobSpec) (a : Word) (n : Nat) : Bool :=
  let off := (a.extractLsb' 0 27).toNat
  if a.getLsbD 27 then dies.all fun d => (s.partition part).rowsOpen d off n else decide (off + n ≤ 1024 * j.bmem)

/-- Whether the process-group table and the bindings of a launch are sound (R27, R62); those of a relocated record are also
held against the ranges that they may lie in. -/
def launchSound (j : JobSpec) : Bool :=
  let peers := j.pgroup.map RankSpec.peer
  let part (b : BindSpec) : Nat := b.base.toNat / 2 ^ 27
  let meets (a b : BindSpec) : Bool :=
    part a == part b && decide (a.base.toNat < b.base.toNat + 64 * b.len) && decide (b.base.toNat < a.base.toNat + 64 * a.len)
  peers.eraseDups.length == peers.length &&
    j.pgroup.all (fun e => match e.buddy with | some b => b != e.peer && peers.contains b | none => true) &&
    decide (j.binds.length ≤ 256) &&
    j.binds.all (fun b => b.obj.toNat % 8 == 0 && b.base.toNat % 64 == 0 && decide (1 ≤ b.len) && decide (b.len ≤ 2 ^ 20) &&
      decide (b.obj.toNat < 2 ^ 28) && decide (b.base.toNat < 2 ^ 28)) &&
    (List.range j.binds.length).all fun i => (List.range i).all fun k =>
      match j.binds[i]?, j.binds[k]? with | some a, some b => !meets a b | _, _ => true

/-- Whether a core of the partition could hold a block of the launch, beside some more rows (R56, R127, R391). -/
def State.coreHolds (s : State) (part c : Nat) (j : JobSpec) (more : Nat) : Bool :=
  match s.quota part c with
  | some q => decide (j.crews ≤ ((List.range 24).filter fun i => q.slots.getLsbD i && s.slotPresent c i).length) &&
      decide (1024 * j.bmem ≤ q.bmemLen) && rowsFit q j.srows (s.imageRows j.job c + more)
  | none => false

/-- The dies that can hold blocks of a launch. -/
def State.blockDies (s : State) (part : Nat) (cores : List Nat) (j : JobSpec) : List Nat :=
  (List.range 4).filter fun d => (coresOnDie cores d).any fun c => s.coreHolds part c j 0

/-- The lowest place of an image at which it lies, on every die that can hold blocks, within one core's quota behind its
six engine rows and the images of the job's launches loaded before (R127). -/
def State.imagePlace (s : State) (part : Nat) (cores : List Nat) (j : JobSpec) : Option Nat :=
  let dies := s.blockDies part cores j
  if imageLen j = 0 then some 0
  else (List.range 64).findSome? fun c =>
    let quotas := dies.map fun d => (s.quota part (64 * d + c), s.imageRows j.job (64 * d + c))
    let lo := quotas.foldl (fun n x => match x.1 with | some q => max n (q.rowLo + 6 + x.2) | none => n) 0
    if quotas.all fun x => match x.1 with | some q => decide (lo + imageLen j ≤ q.rowLo + q.rows) | none => false then
      some (2 ^ 20 * c + 8192 * lo)
    else none

/-- Whether some core of the partition could hold a block of the launch beside its image at a place (R56, R391). -/
def State.blockFits (s : State) (part : Nat) (cores : List Nat) (j : JobSpec) (a : Nat) : Bool :=
  cores.any fun c => s.coreHolds part c j (if a / 2 ^ 20 = c % 64 then imageLen j else 0)

/-- Bytes put into the HBM of a partition from a virtual address of a job's tables, page by page; none where a page is not
present. k bounds the pages. -/
def State.putVirtual (s : State) (part troot va : Nat) : Nat → List Byte → Option State
  | 0, bs => if bs.isEmpty then some s else none
  | k + 1, bs =>
    if bs.isEmpty then some s
    else match s.walk part troot va with
      | none => none
      | some p =>
        let n := p.vbase + p.size - va
        (s.spotWrite (.hbm part (p.base + (va - p.vbase))) (clean (bs.take n))).putVirtual part troot (va + n) k (bs.drop n)

/-- The `.data` image and the records of a `.node` graph put into HBM (R125, R294; log entry 134). -/
def State.putData (s : State) (part troot : Nat) (j : JobSpec) : Option State :=
  let all := (j.dataAt, j.data) :: (match j.graph with | some g => g.records | none => [])
  all.foldl (fun s x => s.bind fun s => s.putVirtual part troot x.1 (x.2.length / 4096 + 2) x.2) (some s)

/-- A launch loaded under an id, its labels relocated, its image on every die that can hold blocks, its data in HBM;
nothing where it fails. -/
def State.loadLaunch (s : State) (part : Nat) (cores : List Nat) (id : Nat) (j : JobSpec) : State × Bool :=
  match s.imagePlace part cores j with
  | none => (s, false)
  | some a =>
    let dies := s.blockDies part cores j
    let j := relocLaunch j a
    if launchSound j && s.blockFits part cores j a &&
        j.binds.all (fun b => s.bindFits part dies j b.obj 8 && s.bindFits part dies j b.base (64 * b.len)) then
      match s.putData part (s.job j.job).troot j with
      | none => (s, false)
      | some s =>
        let l := Launch.load j s.fabric.peer a dies
        let s := { s with launches := mapSet Launch.none s.launches id l }
        let s := j.cohorts.foldl (fun s c =>
          if (cohortEntry l s.fabric.peer c).spans then { s with mem := s.mem.store .hbm c.plist (memberList l c) } else s) s
        (dies.foldl (fun s d =>
          if j.sdata.isEmpty then s else { s with mem := s.mem.store .spad (spadBase d + a) j.sdata }) s, true)
    else (s, false)

/-! ## Fresh start (R384) -/

/-- Pinned tiles of a core zeroed with their status words. -/
def State.zeroPins (s : State) (core : Nat) : State :=
  let s := { s with mem := s.mem.zero .acc (accBase core) 131072 }
  s.updCore core fun c => { c with accStatus := mapSet 0 (mapSet 0 c.accStatus 0 0) 1 0 }

/-- The array of a core zeroed: cells, CAC, SEED, STEP, feedback table, clause-row poison (R268). -/
def State.zeroArray (s : State) (core : Nat) : State :=
  let s := { s with mem := s.mem.zero .cells (cellBase core) 131072 }
  s.updCore core fun c => { c with cac := 0, seed := 0, stepCount := 0, table := [], stepping := none, granules := [] }

/-- A partition's part of a core zeroed: block memory, rows, queues, slots and FIFO, and the pinned tiles and the clause
array that it holds (R384, R411). -/
def State.zeroPart (s : State) (part core : Nat) : State :=
  let s := match s.quota part core with
    | some q =>
      let m := s.mem.zero .bmem (bmemBase core + q.bmemLo) q.bmemLen
      { s with mem := m.zero .spad (spadBase (core / 64) + 2 ^ 20 * (core % 64) + 8192 * q.rowLo) (8192 * q.rows) }
    | none => s
  let k := qkey part core
  let s := s.updQset k fun _ => QSet.empty
  let s := s.updCore core fun c => { c with
    prefetch := c.prefetch.filter fun t => t.part != part
    granules := c.granules.filter fun g => g.key != k
    tile := match c.tile with | some t => if t.1 = k then none else some t | none => none }
  let s := { s with objs := s.objs.filter fun o => !s.keyInPart part core o.1 }
  let s := if (s.core core).arrayOwner = some part then s.zeroArray core else s
  if (s.core core).pinOwner = some part then s.zeroPins core else s

/-- Launch ids given so far. -/
def State.nextLaunch (s : State) : Nat := s.launches.foldl (fun n l => max n (l.1 + 1)) 1

/-- A fresh start of a job on cores: nothing of an earlier job stays; the launches of the job are loaded, and its own
started under the highest free handle. A restore (R420) has set TROOT and the step restored. -/
def State.freshJob (s : State) (part : Nat) (cores : List Nat) (j : JobSpec) (more : List JobSpec) : State :=
  let s := cores.foldl (fun s c => s.zeroPart part c) s
  let s := (s.clearGraphs part).clearDies part
  let s := { s with launches := s.launches.filter fun l => l.2.spec.job != j.job }
  let s := s.updHeat fun h => { h with saved := h.saved.filter fun a => a.job != j.job }
  let old := s.job j.job
  let back := old.restored && !old.present
  let heat := match s.heat.running.find? fun r => r.part == part with | some r => r.heatno | none => 0
  let job : Job := { Job.none with
    present := true, part := part, troot := if back then old.troot else j.troot, heatno := heat
    faultQueues := j.faultQueues, logging := j.logging, restored := back, ckStep := if back then old.ckStep else 0
    lastStep := if back then some old.ckStep else none }
  let s := s.updJob j.job fun _ => job
  let id := s.nextLaunch
  let r := s.loadLaunch part cores id j
  let s := more.foldl (fun s m => (s.loadLaunch part cores s.nextLaunch { m with job := j.job }).1) r.1
  if r.2 && !(s.partition part).sprint then s.launchGraph part j.job id else s

/-- FRESH_START (R384): of the job that a switch brings in, once every core of the switch has drained; or, in a ready
partition that runs nothing and has no switch, of a job that the operating system launches. -/
def execFreshStart (part : Nat) (j : JobSpec) (more : List JobSpec) (s : State) : Result :=
  let mine := s.heat.switches.filter fun w => w.part == part
  .next (if !(s.partition part).ready then s
    else match mine with
    | [] =>
      let cores := (s.partition part).quotas.map QuotaSpec.core
      if (s.outgoing part).isNone && (s.crews.all fun c => !c.2.live || c.2.part != part) then
        (cores.foldl (fun s c => s.setPhase (qkey part c) .running) s).freshJob part cores j more
      else s
    | w :: _ =>
      let fresh (v : Switch) : Bool := !v.idle && !v.resume && s.phaseOf (qkey part v.core) == .drained
      let named := s.heat.sheet.any fun x => x.entry.seq == w.seq && x.entry.job.toNat == j.job
      if mine.all fresh && named then
        let s := s.freshJob part (mine.map Switch.core) j more
        mine.foldl (fun s v => s.setPhase (qkey part v.core) .restored) s
      else s)

/-- The window in which a core's island may not be lowered is over (R435). -/
def State.lowerAgain (s : State) (core : Nat) : State :=
  { s with boot := { s.boot with raised := s.boot.raised.filter (· != core) } }

/-- SWITCH_START (R390): the crews restored go on, abandoned words are issued again, and the engines serve the job. An
idle switch ends with no job. -/
def execSwitchStart (core part : Nat) (s : State) : Result :=
  let isOver (s : State) : State :=
    (s.lowerAgain core).updHeat fun h => { h with switches := h.switches.filter fun w => !(w.part == part && w.core == core) }
  .next (match s.switchOf part core with
    | none => s
    | some w =>
      if w.idle && s.phaseReady part core .drained then isOver (s.setPhase (qkey part core) .idle)
      else if s.phaseReady part core .restored then
        let s := (s.crewsOn part core).foldl (fun s x => s.setCrewAt x.1 { s.crewAt x.1 with caught := false }) s
        isOver (s.setPhase (qkey part core) .running)
      else s)

/-! ## Abort (R374) -/

/-- A save area of a job discarded: its crews have ended with a status, and nothing else of the job is left in it. -/
def SavedArea.discarded (a : SavedArea) (status : Word) : SavedArea :=
  { a with
    crews := a.crews.map fun c => (c.1, { c.2 with live := false, caught := false, status := status, laneQ := [], stack := [], reqs := [] })
    qset := QSet.empty, diesets := [], graphs := [], bank := [], parked := [] }

/-- A job discarded: its crews, those in save areas too, end with a status and without records; its entries, graphs, held
traffic, requests and launches go. -/
def State.discardJob (s : State) (job : Nat) (heat status : Word) : State :=
  let s := (s.crews.filter fun c => c.2.live && c.2.job == job).foldl (fun s c => s.endCrew c.1 status false) s
  let part := (s.job job).part
  let gone (e : QEntry) : Bool := e.job == job
  let s := { s with
    qsets := s.qsets.map fun (x : Nat × QSet) =>
      (x.1, { x.2 with queues := x.2.queues.map fun (q : Nat × Queue) => (q.1, { q.2 with ents := q.2.ents.filter fun e => !gone e }) })
    graphs := s.graphs.filter fun g => g.2.job != job
    launches := s.launches.filter fun l => l.2.spec.job != job
    cores := s.cores.map fun (c : Nat × Core) => (c.1, { c.2 with
      tile := match c.2.tile with
        | some t => if (s.entry t.1 t.2.1 t.2.2).any gone then none else some t
        | none => none
      prefetch := c.2.prefetch.filter fun t => !((s.job job).present && t.part == part)
      granules := c.2.granules.filter fun g => !((s.entry g.key g.q g.ticket).any gone) })
    dies := s.dies.map fun (d : Nat × Die) => (d.1, { d.2 with
      bank := d.2.bank.filter fun t => !((s.job job).present && t.part == part)
      tokens := d.2.tokens.filter fun t => !((s.job job).present && t.part == part) })
    fabric := { s.fabric with
      held := s.fabric.held.filter fun p => p.heat != heat.setWidth 16
      reqs := s.fabric.reqs.filter fun r => r.packet.heat != heat.setWidth 16 } }
  let s := s.updJob job fun j => { j with present := false, restored := false, gather := [], gatherDone := [] }
  let s := (s.heat.saved.filter fun a => a.job == job).foldl (fun s a =>
    match mapFind s.heat.saveAt (256 * a.job + 64 * a.die + a.pos % 64) with
    | some r => s.areaWrite a.die (r - 1) (clean (overlay (s.areaRead a.die (r - 1) 64) 12 [0, 0, 0, 0]))
    | none => s) s
  (s.dropHolds part).updHeat fun h => { h with
    saved := h.saved.map fun a => if a.job = job then a.discarded status else a
    running := h.running.filter fun r => r.heatno != heat }

/-- ABORT (R374): at its START, or at once when that has passed. Later entries of the heat are void, and a switch that
one of them has begun brings in no job. -/
def execAbort (seq : Word) (s : State) : Result :=
  match s.heat.sheet.find? fun x => x.entry.seq == seq && x.entry.kind == 3 && !x.started with
  | none => .next s
  | some x =>
    if s.heat.time < x.entry.start then .next s
    else
      let e := x.entry
      let status : Word := 0x04#8 ++ 0x00#8 ++ (e.failpeer &&& 0x0FFF#16)
      let s := s.discardJob e.job.toNat e.heatno status
      let ours (y : SheetEntry) : Bool := y.entry.heatno == e.heatno && y.entry.kind != 3
      .next ((s.startEntry seq false).updHeat fun h => { h with
        sheet := h.sheet.map fun y => if ours y then { y with void := true } else y
        switches := h.switches.map fun w =>
          if h.sheet.any (fun y => ours y && y.entry.seq == w.seq) then { w with idle := true } else w })

end Sys2Proof.Machine
end

