-- ==== Sys2Proof/Machine/Partitions.lean ====
section
/-! DEFINITION. Making and taking down partitions, and giving a core's clause array and pinned tiles to one (R240, R268,
R406 to R412). -/

namespace Sys2Proof.Machine

/-! ## The partition table (R406, R407, R409) -/

/-- Whether two quotas overlap: on one core, in slots, block memory or rows. -/
def quotasMeet (x y : QuotaSpec) : Bool :=
  x.core == y.core && (x.slots &&& y.slots != 0 || rangesMeet x.bmemLo x.bmemLen y.bmemLo y.bmemLen ||
    rangesMeet x.rowLo x.rows y.rowLo y.rows)

/-- The reserve slots of a core: the highest present slot of each seat that has one (R58). -/
def State.reserveSlots (s : State) (core : Nat) : BitVec 24 :=
  (List.range 4).foldl (fun m seat =>
    if (List.range 6).any fun k => s.slotPresent core (6 * seat + k) then m ||| (1#24 <<< (6 * seat + s.reserveSlot core seat))
    else m) 0

/-- Whether a quota is one that R407 allows: for the sprint partition exactly the reserve; for another no reserve slot,
block memory in 4 KiB units of the lower 224 KiB, rows 0 to 111, and six rows at least where it has crews. -/
def State.quotaSound (s : State) (sprint : Bool) (q : QuotaSpec) : Bool :=
  decide (q.core < 256) &&
    (if sprint then
      q.slots == s.reserveSlots q.core && q.bmemLo == 0x38000 && q.bmemLen == 0x8000 && q.rowLo == 112 && q.rows == 16
    else
      q.slots &&& s.reserveSlots q.core == 0 && q.bmemLo % 4096 == 0 && q.bmemLen % 4096 == 0 &&
        decide (q.bmemLo + q.bmemLen ≤ 0x38000) && decide (q.rowLo + q.rows ≤ 112) && (q.slots == 0 || decide (6 ≤ q.rows)))

/-- Whether the partition table can take a partition: all stages of the start have succeeded, its quotas are sound and on different cores, its sets exist, and
nothing of it belongs to another partition. -/
def State.partSound (s : State) (part : Nat) (q : PartSpec) : Bool :=
  let cores := q.quotas.map QuotaSpec.core
  let others := s.parts.filter fun p => p.1 != part
  s.boot.stage == 8 && decide (part < 16) && !(s.partition part).ready &&
    q.quotas.all (s.quotaSound q.sprint) && cores.eraseDups.length == cores.length &&
    q.sets.all (fun n => decide (n < 48)) && q.sets.eraseDups.length == q.sets.length &&
    others.all fun p => !(q.sprint && p.2.sprint) && p.2.sets.all (fun n => !q.sets.contains n) &&
      p.2.quotas.all fun x => q.quotas.all fun y => !quotasMeet x y

/-- The partitionable bands of sets zeroed, with no poison (R411). -/
def State.zeroBands (s : State) (sets : List Nat) : State :=
  let channels := sets.flatMap fun n => (List.range 8).map fun i => 8 * n + i
  { s with mem := channels.foldl (fun m c => m.zero .hbm (2 ^ 31 * c) s.boot.band) s.mem }

/-- Register banks of a quota zeroed, every full/empty bit full (R411); the REQID counter of a slot goes on (R357). -/
def State.zeroBanks (s : State) (q : QuotaSpec) : State :=
  { s with crews := s.crews.map fun (c : Nat × Crew) =>
      (c.1, if slotCore c.1 = q.core ∧ q.slots.getLsbD (c.1 % 24) then { Crew.empty with reqCounter := c.2.reqCounter } else c.2) }

/-- PARTITION_CREATE (R406, R411): the partition is made, zeroed and reported ready; where a channel or a row fails to take
the zero write, which the device says (log entry 12), it is reported and the partition is not made ready. -/
def execPartitionCreate (part : Nat) (q : PartSpec) (s : State) : Result :=
  .next (if s.partSound part q then
    let sets := sortBy (fun a b => a ≤ b) q.sets
    let s := { s with
      parts := mapSet Partition.none s.parts part ⟨false, q.sprint, q.quotas, sets⟩
      tlb := s.tlb.filter fun e => e.part != part
      walks := s.walks.filter fun w => w.part != part }
    let s := q.quotas.foldl State.zeroBanks (s.zeroBands sets)
    let s := q.quotas.foldl (fun s x => s.zeroPart part x.core) s
    let fails := s.choose
    if fails.1 then { fails.2 with boot := { fails.2.boot with unzeroed := fails.2.boot.unzeroed ++ [part] } }
    else { fails.2 with parts := mapSet Partition.none s.parts part ⟨true, q.sprint, q.quotas, sets⟩ }
  else s)

/-- Entries of a partition's queues retired (R412). -/
def State.retireQueues (s : State) (part : Nat) : State :=
  { s with qsets := s.qsets.filter fun x => keyPart x.1 != part }

/-- PARTITION_TAKEDOWN (R412): crews end with CLASS 0x06, entries are retired, graphs end, and channels, quotas, pinned
tiles and clause arrays are free; a checkpoint copy of the partition ends with it. -/
def execPartitionTakedown (part : Nat) (s : State) : Result :=
  let p := s.partition part
  .next (if p.ready then
    let s := (s.crews.filter fun c => c.2.live && c.2.part == part).foldl (fun s c => s.endCrew c.1 0x06000000 false) s
    let s := ((s.retireQueues part).clearGraphs part).dropHolds part
    let mine (k : Nat) : Bool := keyPart k == part
    let s := { s with
      cores := s.cores.map fun (c : Nat × Core) => (c.1, { c.2 with
        pinOwner := if c.2.pinOwner = some part then none else c.2.pinOwner
        arrayOwner := if c.2.arrayOwner = some part then none else c.2.arrayOwner
        stepping := if c.2.arrayOwner = some part then none else c.2.stepping
        tile := match c.2.tile with | some t => if mine t.1 then none else some t | none => none
        prefetch := c.2.prefetch.filter fun t => t.part != part
        granules := c.2.granules.filter fun g => !mine g.key })
      jobs := s.jobs.map fun (j : Nat × Job) => (j.1, if j.2.part = part then { j.2 with present := false, restored := false, gather := [], gatherDone := [] } else j.2)
      phases := s.phases.filter fun x => !mine x.1
      tlb := s.tlb.filter fun e => e.part != part
      walks := s.walks.filter fun w => w.part != part
      ckpt := { s.ckpt with
        copying := s.ckpt.copying.filter fun c => c.part != part, waiting := s.ckpt.waiting.filter fun w => w.1 != part }
      parts := mapErase s.parts part }
    s.updHeat fun h => { h with
      running := h.running.filter fun r => r.part != part
      switches := h.switches.filter fun w => w.part != part
      saved := h.saved.filter fun a => a.part != part }
  else s)

/-! ## What a core gives to one partition -/

/-- ARRAY_ASSIGN (R268): the operating system gives a core's clause array to a partition with a quota on the core, or, named 16, takes it
back. -/
def execArrayAssign (core part : Nat) (s : State) : Result :=
  .next (if 256 ≤ core then s
    else if 16 ≤ part then s.updCore core fun c => { c with arrayOwner := none }
    else if (s.partition part).ready && (s.quota part core).isSome then (s.zeroArray core).updCore core fun c => { c with arrayOwner := some part }
    else s)

/-- PINNED_TILE_ASSIGN (R240): the operating system gives a core's pinned tiles to a partition with a quota on the core, both slots and
their status words zeroed, or, named 16, takes them back. -/
def execPinnedTileAssign (core part : Nat) (s : State) : Result :=
  .next (if 256 ≤ core then s
    else if 16 ≤ part then s.updCore core fun c => { c with pinOwner := none }
    else if (s.partition part).ready && (s.quota part core).isSome then (s.zeroPins core).updCore core fun c => { c with pinOwner := some part }
    else s)

end Sys2Proof.Machine
end

