-- ==== Sys2Proof/Machine/Sha.lean ====
section
/-! DEFINITION. SHA-256 (FIPS 180-4), which measurement registers, reports and checkpoint shards use (R416, R418, R428,
R429). -/

namespace Sys2Proof.Machine

/-- The round constants. -/
def shaK : List Word :=
  [0x428a2f98, 0x71374491, 0xb5c0fbcf, 0xe9b5dba5, 0x3956c25b, 0x59f111f1, 0x923f82a4, 0xab1c5ed5] ++
  [0xd807aa98, 0x12835b01, 0x243185be, 0x550c7dc3, 0x72be5d74, 0x80deb1fe, 0x9bdc06a7, 0xc19bf174] ++
  [0xe49b69c1, 0xefbe4786, 0x0fc19dc6, 0x240ca1cc, 0x2de92c6f, 0x4a7484aa, 0x5cb0a9dc, 0x76f988da] ++
  [0x983e5152, 0xa831c66d, 0xb00327c8, 0xbf597fc7, 0xc6e00bf3, 0xd5a79147, 0x06ca6351, 0x14292967] ++
  [0x27b70a85, 0x2e1b2138, 0x4d2c6dfc, 0x53380d13, 0x650a7354, 0x766a0abb, 0x81c2c92e, 0x92722c85] ++
  [0xa2bfe8a1, 0xa81a664b, 0xc24b8b70, 0xc76c51a3, 0xd192e819, 0xd6990624, 0xf40e3585, 0x106aa070] ++
  [0x19a4c116, 0x1e376c08, 0x2748774c, 0x34b0bcb5, 0x391c0cb3, 0x4ed8aa4a, 0x5b9cca4f, 0x682e6ff3] ++
  [0x748f82ee, 0x78a5636f, 0x84c87814, 0x8cc70208, 0x90befffa, 0xa4506ceb, 0xbef9a3f7, 0xc67178f2]

/-- The eight working words. -/
structure ShaState where
  a : Word
  b : Word
  c : Word
  d : Word
  e : Word
  f : Word
  g : Word
  h : Word
  deriving DecidableEq, Repr

/-- The initial hash value. -/
def ShaState.init : ShaState :=
  ⟨0x6a09e667, 0xbb67ae85, 0x3c6ef372, 0xa54ff53a, 0x510e527f, 0x9b05688c, 0x1f83d9ab, 0x5be0cd19⟩

/-- One round with constant k and schedule word w. -/
def ShaState.round (s : ShaState) (k w : Word) : ShaState :=
  let big1 := s.e.rotateRight 6 ^^^ s.e.rotateRight 11 ^^^ s.e.rotateRight 25
  let ch := (s.e &&& s.f) ^^^ (~~~s.e &&& s.g)
  let t1 := s.h + big1 + ch + k + w
  let big0 := s.a.rotateRight 2 ^^^ s.a.rotateRight 13 ^^^ s.a.rotateRight 22
  let maj := (s.a &&& s.b) ^^^ (s.a &&& s.c) ^^^ (s.b &&& s.c)
  ⟨t1 + big0 + maj, s.a, s.b, s.c, s.d + t1, s.e, s.f, s.g⟩

/-- n further schedule words put before those so far, newest first. -/
def shaExtend : Nat → List Word → List Word
  | 0, w => w
  | n + 1, w =>
    let x2 := w.getD 1 0
    let x15 := w.getD 14 0
    let s1 := x2.rotateRight 17 ^^^ x2.rotateRight 19 ^^^ (x2 >>> 10)
    let s0 := x15.rotateRight 7 ^^^ x15.rotateRight 18 ^^^ (x15 >>> 3)
    shaExtend n ((s1 + w.getD 6 0 + s0 + w.getD 15 0) :: w)

/-- n big-endian words from bytes. -/
def beWords : Nat → List Byte → List Word
  | 0, _ => []
  | n + 1, bs => (bs.getD 0 0 ++ bs.getD 1 0 ++ bs.getD 2 0 ++ bs.getD 3 0) :: beWords n (bs.drop 4)

/-- One 64-byte block taken in. -/
def ShaState.block (s : ShaState) (bs : List Byte) : ShaState :=
  let w := (shaExtend 48 (beWords 16 bs).reverse).reverse
  let r := (shaK.zip w).foldl (fun t x => t.round x.1 x.2) s
  ⟨s.a + r.a, s.b + r.b, s.c + r.c, s.d + r.d, s.e + r.e, s.f + r.f, s.g + r.g, s.h + r.h⟩

/-- n blocks taken in. -/
def ShaState.blocks (s : ShaState) : Nat → List Byte → ShaState
  | 0, _ => s
  | n + 1, bs => (s.block (bs.take 64)).blocks n (bs.drop 64)

/-- The bytes of a 64-bit number, most significant first. -/
def be64 (n : Nat) : List Byte := (List.range 8).map fun i => BitVec.ofNat 8 (n / 256 ^ (7 - i))

/-- SHA-256 of bytes. -/
def sha256 (m : List Byte) : BitVec 256 :=
  let p := m ++ [0x80] ++ List.replicate ((119 - m.length % 64) % 64) 0 ++ be64 (8 * m.length)
  let s := ShaState.init.blocks (p.length / 64) p
  s.a ++ s.b ++ s.c ++ s.d ++ s.e ++ s.f ++ s.g ++ s.h

/-- The 32 bytes of a digest, most significant first. -/
def digestBytes (d : BitVec 256) : List Byte := (List.range 32).map fun i => d.extractLsb' (8 * (31 - i)) 8

end Sys2Proof.Machine
end

