-- ==== Sys2Proof/Machine/Checkpoint.lean ====
section
/-! DEFINITION. Checkpoints of a job, their restore, the ordering log's replay and steps backwards, freeze
(R376, R413 to R425). -/

namespace Sys2Proof.Machine

/-! ## The mark (R376, R413 to R415) -/

/-- The live crews of a job in slots. -/
def State.jobCrews (s : State) (job : Nat) : List (Nat × Crew) := s.crews.filter fun c => c.2.live && c.2.job == job

/-- The live crews of a job, those in save areas too: a gather stays open for them across a switch (R378). -/
def State.membersOf (s : State) (job : Nat) : List Crew := s.allCrews.filter fun c => c.live && c.job == job

/-- Whether the crew in focus is least over the live crews of its job that do not wait in a synchronising operation that
they have begun (R65). -/
def State.leastOfJob (s : State) : Bool :=
  let me := s.crew
  (s.membersOf me.job).all fun x => x.uid == me.uid || x.inSync || me.orderKey ≤ x.orderKey

/-- Whether the job of the crew in focus runs on other packages too. -/
def State.jobSpans (s : State) : Bool := decide (1 < s.launch.spec.pgroup.length)

/-- Whether a deterministic HEAT.ckpt may begin; one over several packages waits too until the device says that no crew of
another package comes before it (R65; log entry 18). -/
def State.jobBegins (s : State) : Bool × State :=
  if s.settings.det && s.jobSpans then (Config.choice s.choices && s.leastOfJob, s.choose.2)
  else (!s.settings.det || s.leastOfJob, s)

/-- The package's rank entry in the process group of the crew in focus (R62, R414). -/
def State.ownRank (s : State) : Option RankSpec := s.launch.spec.pgroup.find? fun e => e.peer == s.fabric.peer

/-- A mark in the log of every die (R422): ORIGIN all ones, BLOCK the step, KIND[2] set. -/
def State.logMark (s : State) (job : Nat) (step : Word) (clock : DWord) : State :=
  let replayed := match s.ckpt.replay with | some r => r.1 == job | none => false
  if (s.job job).logging && !replayed then
    (List.range 4).foldl (fun s d => s.logPut
      { die := d, job := job, clock := clock, origin := 0xFFFFFFFF, block := step, opc := 0x3B, kind := 4, lane := 0xFF
        heat := (s.job job).heatno, value := 0 }) s
  else s

/-- Whether step a is b or newer (R419). -/
def stepGe (a b : Word) : Bool := decide ((a - b).toNat < 2 ^ 31)

/-- The newest of steps; none of none. -/
def newestStep : List Word → Option Word
  | [] => none
  | a :: rest => match newestStep rest with
    | none => some a
    | some b => some (if stepGe a b then a else b)

/-- The kept steps of a job. -/
def State.kept (s : State) (job : Nat) : List Shard :=
  s.ckpt.shards.filter fun x => x.job == job && x.peer == s.fabric.peer

/-- The kept steps of a job but the newest are freed (R419). -/
def State.freeOlder (s : State) (job : Nat) : State :=
  let newest := newestStep ((s.kept job).map Shard.step)
  { s with ckpt := { s.ckpt with shards := s.ckpt.shards.filter fun x =>
      x.job != job || x.peer != s.fabric.peer || some x.step == newest } }

/-- The package's copy of a step begins, and CK is set in every valid leaf (R415). -/
def State.beginCopy (s : State) (job : Nat) (step : Word) : State :=
  let j := s.job job
  let tree := s.treeFrom j.part 4 j.troot
  let leaves := tree.1.map fun p => (p.entry, p.base, p.size)
  let s := leaves.foldl (fun s l => s.putCk j.part l.1 true) (s.freeOlder job)
  let c : Copying :=
    { job := job, part := j.part, step := step, troot := j.troot, since := s.heat.time, leaves := leaves
      left := treeUnits j.troot tree, done := [] }
  { s with ckpt := { s.ckpt with
      copying := (s.ckpt.copying.filter fun x => x.part != j.part) ++ [c], waiting := s.ckpt.waiting.filter fun w => w.1 != j.part } }

/-- A step of the job of the crew in focus marked at once. -/
def State.markStep (s : State) (step : Word) (clock : DWord) : State :=
  let job := s.crew.job
  let s := (s.updJob job fun j => { j with lastStep := some step }).logMark job step clock
  match s.ownRank with
  | some r => if r.buddy.isSome then s.beginCopy job step else s
  | none => s

/-- The gather of the job of the crew in focus ends when every live crew has arrived, those of other members, with their
steps and clocks, as the device chooses (log entry 18): a mark, or 0x80000003 where the arrivals name different steps. -/
def State.settleGather (s : State) : State :=
  let job := s.crew.job
  let j := s.job job
  let here := (s.membersOf job).all fun c => j.gather.any fun g => g.1 == c.uid
  let far : DWord := if s.jobSpans then Config.farClock s.choices else 0
  let c := if s.jobSpans then s.choose else (true, s)
  let d := if s.jobSpans then c.2.choose else (true, c.2)
  let s := d.2
  match j.gather with
  | [] => s
  | g :: _ =>
    if here && c.1 then
      let clock := clockMax (clockMax j.gatherClock j.endClock) far
      let same := d.1 && j.gather.all fun x => x.2 == g.2
      let v : Word := if same then 0 else 0x80000003
      let s := s.updJob job fun j => { j with
        gather := [], gatherClock := 0, gatherDone := j.gatherDone ++ j.gather.map fun x => (x.1, v, clock) }
      if same then s.markStep g.2 clock else s
    else s

/-- HEAT.ckpt ends with a result, logged as a value from outside the program (R422). -/
def State.endCkpt (s : State) (d : RegNo) (v : Word) (clock : DWord) : State :=
  let r := s.extern 0x3B (v.setWidth 64)
  (r.2.setSreg d (r.1.setWidth 32)).doneSync clock

/-- A crew that has arrived takes its result, or waits. -/
def State.passGather (s : State) (d : RegNo) : State :=
  let s := s.settleGather
  let uid := s.crew.uid
  match (s.job s.crew.job).gatherDone.find? fun x => x.1 == uid with
  | some x =>
    (s.updJob s.crew.job fun j => { j with gatherDone := j.gatherDone.filter fun y => y.1 != uid }).endCkpt d x.2.1 x.2.2
  | none => s.syncWait .sync

/-- The result with which HEAT.ckpt of a step ends before it arrives; in a replay the recorded one. -/
def State.ckptEarly (s : State) (step : Word) : Option Word :=
  let j := s.job s.crew.job
  let old := match j.lastStep with | some l => step == l || !stepGe step l | none => false
  let busy := s.ckpt.copying.any fun c => c.job == s.crew.job
  match s.replayLog with
  | some l =>
    match l.find? fun x => x.again (s.logRecord 0x3B none true 0) with
    | some x => if x.value = 0x80000001 ∨ x.value = 0x80000002 then some (x.value.setWidth 32) else none
    | none => none
  | none => if old then some 0x80000001 else if busy then some 0x80000002 else none

/-- HEAT.ckpt (R376). -/
def execHeatCkpt (d a : RegNo) (s : State) : Result :=
  let uid := s.crew.uid
  let j := s.job s.crew.job
  let begun := s.split.wait = .sync
  if (j.gatherDone.any fun x => x.1 == uid) || (j.gather.any fun x => x.1 == uid) then .next (s.passGather d)
  else if s.divides then .next s.divergent
  else if !begun && !s.crew.lanesIdle then .next (s.stay .lanes)
  else
    let may := if begun then (true, s) else s.jobBegins
    let s := may.2
    if !may.1 then .next (s.stay .lanes)
    else
    let s := s.drain
    if s.crew.writesOut s.curSplit then .next (s.syncWait .sync)
    else
      let step := s.sreg a
      match s.ckptEarly step with
      | some v => .next (s.endCkpt d v 0)
      | none =>
        let clock := s.crew.clock
        .next ((s.updJob s.crew.job fun j => { j with
          gather := j.gather ++ [(uid, step)], gatherClock := clockMax j.gatherClock clock }).passGather d)

/-! ## The copy (R415 to R419) -/

/-- COPY_ON_WRITE (R415): the units at an offset are copied as they stood at the mark, and a write that waits goes on. -/
def execCopyOnWrite (part unit : Nat) (s : State) : Result := .next (s.beforeWrite part unit)

/-- COPY_ON_WRITE_TIMEOUT (R415): 2 µs after a write began to wait, its unit has been copied and the write proceeds. -/
def execCopyOnWriteTimeout (part unit : Nat) (s : State) : Result :=
  let late (u : Nat × Nat) : Bool := s.ckpt.waiting.any fun w => w.1 == part && w.2.1 == u.1 && s.passed w.2.2 2000
  .next (((s.uncopied part unit).filter late).foldl (State.copyUnit part) s)

/-- HASH of a shard (R418): SHA-256 over its (offset, SHA-256) pairs in ascending offset. -/
def shardHash (units : List UnitCopy) : BitVec 256 :=
  sha256 ((sortBy (fun a b => a.off ≤ b.off) units).flatMap fun u => leBytes 8 u.off ++ digestBytes (sha256 u.bytes))

/-- The header of a shard (R418). -/
def shardHeader (job : Nat) (step : Word) (peer troot : Nat) (units : List UnitCopy) (state : Nat) : List Byte :=
  let b := leBytes 4 job ++ leBytes 4 step.toNat ++ leBytes 4 (peer % 4096) ++ leBytes 4 units.length ++ leBytes 8 troot ++
    digestBytes (shardHash units) ++ leBytes 4 state
  b ++ leBytes 4 (crc32c b).toNat

/-- Whether a shard is complete, its CRC holds and its HASH is that of its units (R420). -/
def Shard.sound (x : Shard) : Bool := x.header == shardHeader x.job x.step x.peer x.troot x.units 1

/-- The copy of a job over: CK clears on every leaf, and a record of a kind is posted to fault queue 0 (R417). -/
def State.endCopy (s : State) (c : Copying) (kind cause : Nat) : State :=
  let s := c.leaves.foldl (fun s l => s.putCk c.part l.1 false) s
  let s := { s with ckpt := { s.ckpt with
      copying := s.ckpt.copying.filter fun x => x.job != c.job, waiting := s.ckpt.waiting.filter fun w => w.1 != c.part } }
  s.post c.job 0 { Record.blank kind 0 with cause := cause }

/-- The copy of a job in progress. -/
def State.copyOf (s : State) (job : Nat) : Option Copying :=
  s.ckpt.copying.find? fun c => c.job == job

/-- CHECKPOINT_COMPLETE (R417, R419): within 1 s of the mark the rest is copied; the step is final and kept. -/
def execCheckpointComplete (job : Nat) (s : State) : Result :=
  .next (match s.copyOf job with
    | none => s
    | some c =>
      if s.passed c.since 1000000000 then s
      else
        let s := c.left.foldl (State.copyUnit c.part) s
        match s.copyOf job with
        | none => s
        | some c =>
          let peer := s.fabric.peer
          let x : Shard :=
            { header := shardHeader job c.step peer c.troot c.done 1, job := job, step := c.step, peer := peer
              troot := c.troot, units := c.done, capacity := s.capacity c.part }
          let s := s.endCopy c 0x12 0
          { s with ckpt := { s.ckpt with shards := s.ckpt.shards ++ [x] } })

/-- CHECKPOINT_FAIL (R417): with CAUSE 1 to 3 the step fails and is never kept. -/
def execCheckpointFail (job cause : Nat) (s : State) : Result :=
  .next (match s.copyOf job with
    | some c => if 1 ≤ cause ∧ cause ≤ 3 then s.endCopy c 0x13 cause else s
    | none => s)

/-- CHECKPOINT_TIMEOUT (R416, R417): a step not complete 1 s after its mark fails with CAUSE 1. -/
def execCheckpointTimeout (job : Nat) (s : State) : Result :=
  .next (match s.copyOf job with
    | some c => if s.passed c.since 1000000000 then s.endCopy c 0x13 1 else s
    | none => s)

/-! ## Restore (R420, R421) -/

/-- A unit written into a partition at its offset, poison included. -/
def State.putUnit (s : State) (part : Nat) (u : UnitCopy) : State :=
  s.spotRun (.hbm part u.off) (u.bytes.length / 64 + 2) (u.bytes.zipIdx.map fun x => (x.1, u.poison.contains (x.2 / 64)))

/-- Whether a job's step may be written into a partition: ready, running nothing, and of at least the original capacity;
the job does not run. -/
def State.takesShard (s : State) (part : Nat) (x : Shard) : Bool :=
  (s.partition part).ready && (s.outgoing part).isNone && !(s.job x.job).present && decide (x.capacity ≤ s.capacity part) &&
    s.crews.all fun c => !c.2.live || (c.2.part != part && c.2.job != x.job)

/-- A shard written back: its units at their offsets, TROOT set, the last marked step the step restored; the job then
starts fresh (R384). -/
def State.putShard (s : State) (part : Nat) (x : Shard) : State :=
  let s := { s with tlb := s.tlb.filter fun e => e.part != part, walks := s.walks.filter fun w => w.part != part }
  let s := x.units.foldl (fun s u => s.putUnit part u) s
  s.updJob x.job fun j => { j with
    present := false, part := part, troot := x.troot, ckStep := x.step, restored := true, lastStep := some x.step
    gather := [], gatherClock := 0, gatherDone := [], endClock := 0 }

/-- The steps of a job that the package holds sound. -/
def State.soundSteps (s : State) (job : Nat) : List Word := ((s.kept job).filter Shard.sound).map Shard.step

/-- RESTORE (R420): held gives the steps that each other member reports. The newest step that every member holds is
written back; where there is none, the reports go to the host-die operating system and nothing is written. -/
def execRestore (job part : Nat) (held : List (Nat × List Word)) (s : State) : Result :=
  let own := s.soundSteps job
  let others := held.filter fun h => h.1 != s.fabric.peer
  let common := own.filter fun n => others.all fun h => h.2.contains n
  .next (match newestStep common with
    | none => { s with ckpt := { s.ckpt with reports := s.ckpt.reports ++ (s.fabric.peer, own) :: others } }
    | some n =>
      match (s.kept job).find? fun x => x.step == n with
      | some x => if s.takesShard part x then s.putShard part x else s
      | none => s)

/-! ## Replay (R423, R424) -/

/-- Whether a record is the mark of a step of a job. -/
def LogRecord.marks (r : LogRecord) (job : Nat) (step : Word) : Bool := r.kind == 4 && r.job == job && r.block == step

/-- The job's records of a die since the mark of a step; none where the mark has been overwritten. -/
def State.since (s : State) (job : Nat) (step : Word) (die : Nat) : Option (List LogRecord) :=
  let l := (s.ckpt.log.filter fun r => r.die == die).dropWhile fun r => !r.marks job step
  match l with
  | [] => none
  | _ :: rest => some (rest.filter fun r => r.job == job && r.kind != 4)

/-- The records of every die since the mark. -/
def State.sinceMark (s : State) (job : Nat) (step : Word) : Option (List LogRecord) :=
  (List.range 4).foldl (fun a d => match a, s.since job step d with
    | some x, some y => some (x ++ y)
    | _, _ => none) (some [])

/-- A replay set up from a kept step: refused, with nothing run, where the records since its mark are gone. -/
def State.beginReplay (s : State) (part : Nat) (x : Shard) (target : Option (Nat × DWord)) : State :=
  match s.sinceMark x.job x.step with
  | none => s
  | some l =>
    if s.takesShard part x then
      let s := s.putShard part x
      { s with ckpt := { s.ckpt with replay := some (x.job, l), stepBack := target } }
    else s

/-- The newest of the sound kept steps of a job for which p holds. -/
def State.newestShard (s : State) (job : Nat) (p : Shard → Bool) : Option Shard :=
  let l := (s.kept job).filter fun x => x.sound && p x
  match newestStep (l.map Shard.step) with
  | none => none
  | some n => l.find? fun x => x.step == n

/-- REPLAY (R423): the newest kept step and the log of every die since its mark. -/
def execReplay (job part : Nat) (s : State) : Result :=
  .next (match s.newestShard job fun _ => true with
    | some x => s.beginReplay part x none
    | none => s)

/-- Whether the mark of a shard's step precedes a clock. -/
def State.markedBefore (s : State) (clock : DWord) (x : Shard) : Bool :=
  match s.ckpt.log.find? fun r => r.marks x.job x.step with | some r => decide (r.clock < clock) | none => false

/-- STEP_BACK (R424): a replay from the newest kept step whose mark precedes the clock, until the crew reaches it. -/
def execStepBack (job slot : Nat) (clock : DWord) (s : State) : Result :=
  .next (match s.newestShard job (s.markedBefore clock) with
    | some x => s.beginReplay (s.job job).part x (some (slot, clock))
    | none => s)

/-- Every crew of a job caught, for its state to be read through the save area. -/
def State.catchJob (s : State) (job : Nat) : State :=
  (s.jobCrews job).foldl (fun s c =>
    (s.catchCrew c.1).setPhase (qkey c.2.part (slotCore c.1)) .caught) s

/-- The end of a step backwards: when the crew's clock has reached the target, every crew of the job is caught (R424). -/
def State.endStepBack (s : State) : State :=
  match s.ckpt.stepBack, s.ckpt.replay with
  | some (slot, clock), some (job, _) =>
    let c := s.crewAt slot
    if c.live && c.job == job && decide (clock ≤ c.clock) then
      let s := s.catchJob job
      { s with ckpt := { s.ckpt with stepBack := none } }
    else s
  | _, _ => s

/-! ## Freeze (R425) -/

/-- FREEZE_N (R425): every clock stops and the state stays; only a cold reset restarts the module. -/
def execFreezeN (s : State) : Result := .next { s with boot := { s.boot with frozen := true } }

end Sys2Proof.Machine
end

