-- ==== Sys2Proof/Machine/Sprint.lean ====
section
/-! DEFINITION. Sprints: grant records, the phases of a claimed core, and the end (R391 to R397). -/

namespace Sys2Proof.Machine

/-! ## Grant records (R392, R393) -/

/-- Bytes 0 to 59 of a grant record (R392). -/
def grantBytes (g : Grant) : List Byte :=
  leBytes 8 g.gtime.toNat ++ leBytes 8 g.limit.toNat ++ leBytes 4 g.gseq.toNat ++ leBytes 4 g.heatno.toNat ++
    leBytes 4 g.cmap.toNat ++ leBytes 28 g.res28.toNat ++ leBytes 4 g.seq.toNat

/-- The 64 bytes of a grant record. -/
def grantWire (g : Grant) : List Byte := grantBytes g ++ leBytes 4 g.crc.toNat

/-- The grant record that 64 bytes hold. -/
def grantOfBytes (bs : List Byte) : Grant :=
  { gtime := BitVec.ofNat 64 (leAt bs 0 8), limit := BitVec.ofNat 64 (leAt bs 8 8), gseq := BitVec.ofNat 32 (leAt bs 16 4)
    heatno := BitVec.ofNat 32 (leAt bs 20 4), cmap := BitVec.ofNat 32 (leAt bs 24 4), res28 := BitVec.ofNat 224 (leAt bs 28 28)
    seq := BitVec.ofNat 32 (leAt bs 56 4), crc := BitVec.ofNat 32 (leAt bs 60 4) }

/-- The accepted sprint-window entry that a grant names. -/
def State.windowOf (s : State) (g : Grant) : Option SheetEntry :=
  s.heat.sheet.find? fun x => x.entry.kind == 1 && !x.void && x.entry.heatno == g.heatno && x.entry.seq == g.seq

/-- The cores that a grant claims on a member. -/
def State.claimed (s : State) (g : Grant) (members : List Nat) (peer : Nat) : List Nat :=
  s.coresAt g.cmap.toNat members peer

/-- The last GSEQ that the member took of a grant's window. -/
def State.lastGseqOf (s : State) (g : Grant) : Word := mapGet 0 s.heat.lastGseq g.seq.toNat

/-- The reason for which a member refuses a grant that arrived at a time; none where it takes it (R393). A core that cannot
take sprints (R58, R68) is outside every claim (log entry 136). -/
def State.grantReason (s : State) (g : Grant) (time : DWord) : Option Nat :=
  let now := time.toNat
  let lo := g.gtime.toNat
  if g.crc ≠ crc32c (grantBytes g) ∨ g.res28 ≠ 0 then some 1
  else match s.windowOf g with
  | none => some 1
  | some x =>
    let e := x.entry
    if lo < e.start.toNat ∨ e.start.toNat + e.dur.toNat ≤ lo + g.limit.toNat then some 1
    else if g.gseq.toNat ≤ (s.lastGseqOf g).toNat then some 1
    else if lo < now + 1000 then some 1
    else if (s.claimed g x.members s.fabric.peer).any fun c => !x.cores.contains c || s.boot.noSprint.contains c then some 1
    else if s.heat.tsusp then some 6
    else none

/-- A grant record that arrived at a time is checked; a member whose claimed cores are empty takes no part and sends nothing
(R393). -/
def State.grantArrives (s : State) (g : Grant) (time : DWord) : State :=
  let idle := match s.windowOf g with | some x => (s.claimed g x.members s.fabric.peer).isEmpty | none => false
  match s.grantReason g time with
  | some r => if idle then s else s.tell 0x24 g.heatno g.seq r s.heat.starter
  | none =>
    if idle then s
    else s.updHeat fun h => { h with
      grants := sortBy (fun a b => a.gseq.toNat ≤ b.gseq.toNat) (h.grants ++ [g])
      lastGseq := mapSet 0 h.lastGseq g.seq.toNat g.gseq }

/-- SPRINT_GRANT_RECORD (R392, R393): written into window 255 and checked as it arrives. -/
def execSprintGrantRecord (g : Grant) (s : State) : Result :=
  let s := match s.windowOf g with
    | some x => { s with mem := s.mem.store .hbm (sheetBase + x.entry.memb.toNat + 512) (grantWire g) }
    | none => s
  .next (s.grantArrives g s.heat.time)

/-- The oldest write into window 255 looked at: an entry that the starter has written into its place of the ring is checked,
and so is a grant record behind the member bitmap of a sprint-window entry (R365, R367, R393). -/
def State.takeArrival (s : State) : State :=
  match s.heat.arrivals with
  | [] => s
  | a :: rest =>
    let s := s.updHeat fun h => { h with arrivals := rest }
    let e := entryOfBytes (s.sheetRead a.off 64)
    if !s.starts a.peer ∨ a.len < 64 then s
    else if a.off < mapArea then if a.off = 64 * (e.seq.toNat % 4096) then s.entryArrives e a.time else s
    else if s.heat.sheet.any fun x => x.entry.kind == 1 && x.entry.memb.toNat + 512 == a.off then
      s.grantArrives (grantOfBytes (s.sheetRead a.off 64)) a.time
    else s

/-- SPRINT_REQUEST (R392, R397): the starter gives the grant its GSEQ, the next of the window, and writes the claimed core
maps and then the record into every member's window 255, at least 40 µs before G; it grants none that would meet the next
entry on a claimed core (log entry 135). -/
def execSprintRequest (g : Grant) (s : State) : Result :=
  match s.heat.published.find? fun p => p.entry.kind == 1 && p.entry.heatno == g.heatno && p.entry.seq == g.seq with
  | none => .next s
  | some p =>
    let finish := g.gtime.toNat + g.limit.toNat + 3600
    let meets (e : Published) (m : Nat) : Bool :=
      let cores := s.coresAt e.entry.cmap.toNat e.members m
      (s.claimed g p.members m).any fun c => cores.contains c
    let barred := s.heat.published.any fun e =>
      (e.entry.kind == 0 || e.entry.kind == 2) && decide (g.gtime.toNat ≤ e.entry.start.toNat) &&
        decide (e.entry.start.toNat < finish) && p.members.any (meets e)
    let g := { g with gseq := mapGet 0 s.heat.granted g.seq.toNat + 1, res28 := 0 }
    let g := { g with crc := crc32c (grantBytes g) }
    .next (if s.isStarter && !barred && decide (s.heat.time.toNat + 40000 ≤ g.gtime.toNat) then
      p.members.foldl (fun s m =>
        (s.putRunSheet g.seq m g.cmap.toNat (s.sheetRead g.cmap.toNat (32 * p.members.length))).putRunSheet g.seq m
          (p.entry.memb.toNat + 512) (grantWire g))
        (s.updHeat fun h => { h with granted := mapSet 0 h.granted g.seq.toNat g.gseq })
    else s)

/-! ## The phases (R394, R395) -/

/-- The state with the sprint changed by f. -/
def State.updSprint (s : State) (f : Sprint → Sprint) : State := s.updHeat fun h => { h with sprint := h.sprint.map f }
/-- The stage that a claimed core has reached. -/
def Sprint.stage (x : Sprint) (core : Nat) : Nat := mapGet 0 x.stages core
/-- The state with a claimed core at a stage. -/
def State.setStage (s : State) (core n : Nat) : State := s.updSprint fun x => { x with stages := mapSet 0 x.stages core n }

/-- The grant that is taken next: of those that are first in their window, the one of the least G (R397). -/
def nextGrant (l : List Grant) : Option Grant :=
  let first := l.filter fun g => l.all fun h => h.seq != g.seq || decide (g.gseq.toNat ≤ h.gseq.toNat)
  (sortBy (fun a b => a.gtime ≤ b.gtime) first).head?

/-- The next grant taken up once its G, and the end of the sprint before, have come: its bound counts from the later of the
two, its end stays at G + LIMIT (R396, R397). -/
def State.openSprint (s : State) : State :=
  match s.heat.sprint, nextGrant s.heat.grants with
  | none, some g =>
    if g.gtime ≤ s.heat.time then
      let cores := match s.windowOf g with | some x => s.claimed g x.members s.fabric.peer | none => []
      let start := clockMax g.gtime s.heat.sprintOver
      s.updHeat fun h => { h with
        grants := h.grants.erase g
        sprint := if cores.isEmpty then none else some ⟨g, cores, start, g.gtime + g.limit, [], [], []⟩ }
    else s
  | _, _ => s

/-- A partition's part of a claimed core caught: its crews, its tasks that wait there, and its clause array, which comes to
a boundary and stays (R291, R377). -/
def State.catchForSprint (s : State) (core part : Nat) : State :=
  ((s.crewsOn part core).foldl (fun s y => s.catchCrew y.1) (s.returnTasks part core)).settleArray part core

/-- SPRINT_GRANT (R394): the running jobs' crews on the core are caught and its engines stop: the clause array at a boundary,
the tile task at the end of its K-step (R265). -/
def execSprintGrant (core : Nat) (s : State) : Result :=
  let s := s.openSprint
  .next (match s.heat.sprint with
    | none => s
    | some x =>
      if x.cores.contains core && x.stage core == 0 then
        let s := (s.plainParts.foldl (fun s p => s.catchForSprint core p) s).stopTile core
        let pin := match (s.core core).pinOwner with | some p => p + 1 | none => 0
        let s := s.updCore core fun c => { c with sprint := some x.grant.heatno }
        (s.updSprint fun x => { x with pins := mapSet 0 x.pins core pin }).setStage core 1
      else s)

/-- A pair of accumulator slots written into the save area of the job that a partition runs, under VALID[8]. -/
def State.drainPair (s : State) (part core pair : Nat) : State :=
  match s.outgoingAt part core with
  | none => s
  | some job =>
    let y := s.saveJob part core job
    let x := y.1
    let s := y.2
    let v := s.validOf x
    let s := if v.testBit 8 then s else s.areaWrite x.die (x.base + atStatus) (clean (List.replicate 20 0))
    (s.putPair x pair).setValid x (v ||| 0x100)

/-- ACCUMULATOR_DRAIN (R394): the accumulators go to the save areas; then every element and status word reads zero and
the pinned tiles belong to the sprint partition. -/
def execAccumulatorDrain (core : Nat) (s : State) : Result :=
  .next (match s.heat.sprint with
    | none => s
    | some x =>
      if x.stage core == 1 then
        let c := s.core core
        let s := match c.pinOwner with | some p => s.drainPair p core 0 | none => s
        let s := match c.tile with | some t => s.drainPair (keyPart t.1) core 1 | none => s
        let s := { s with mem := s.mem.zero .acc (accBase core) 262144 }
        (s.updCore core fun c => { c with accStatus := [], tile := none, pinOwner := s.sprintPart }).setStage core 2
      else s)

/-- The parked-request records of the running jobs' crews on a claimed core written (R386). -/
def State.parkRecords (s : State) (core : Nat) (l : List (Req × DWord)) : State :=
  s.plainParts.foldl (fun s p => match s.outgoingAt p core with
    | some job =>
      let y := s.saveJob p core job
      y.2.putParked y.1 ((l.filter fun r => s.reqOf p core r.1).map fun r => (r.1.packet, r.2))
    | none => s) s

/-- Requests of the running jobs on a claimed core: those of crews stop their timers and are parked, those of engines are
given up (R386, R394). -/
def State.tagCore (s : State) (core : Nat) : State :=
  let mine (r : Req) : Bool := s.plainParts.any fun p => s.reqOf p core r
  let outs := s.fabric.reqs.filter mine
  let timed := (outs.filter fun r => r.origin == 0).map fun r => (r, s.timerRun r)
  let parked := timed.map fun r => (r.1.reqid, r.2)
  let s := s.parkRecords core timed
  let stop (r : Req) : Req := if mine r then { r with timer := none } else r
  let s := { s with
    qsets := s.qsets.map fun (q : Nat × QSet) => (q.1, if keyCore q.1 == core && !(s.partition (keyPart q.1)).sprint then q.2.giveUp outs else q.2)
    fabric := { s.fabric with reqs := (s.fabric.reqs.filter fun r => !(mine r && r.origin != 0)).map stop } }
  s.updSprint fun x => { x with parked := x.parked ++ parked }

/-- The sprint launch started fresh on the claimed cores: queue counts zero, crews new; its rows and block memory stay as
they are (R391). -/
def State.sprintLaunch (s : State) (part job : Nat) (cores : List Nat) : State :=
  let s := cores.foldl (fun s c => s.updQset (qkey part c) fun _ => QSet.empty) ((s.clearGraphs part).clearDies part)
  match s.launches.find? fun l => l.2.spec.job == job with
  | some l => s.launchGraph part job l.1
  | none => s

/-- SPRINT_START (R394): traffic drained for at most 2 µs and tagged, the sprint heat runs, and with the last claimed
core its launch starts; blocks are then placed in the reserve slots (R56). -/
def execSprintStart (core : Nat) (s : State) : Result :=
  .next (match s.heat.sprint, s.sprintPart with
    | some x, some part =>
      let outstanding := s.fabric.reqs.any fun r => s.plainParts.any fun p => s.reqOf p core r
      if x.stage core == 2 && (!outstanding || s.passed x.begun 5600) then
        let s := ((s.tagCore core).setStage core 3).lowerAgain core
        match s.windowOf x.grant with
        | none => s
        | some w =>
          let job := w.entry.job.toNat
          let s := if s.heat.running.any fun r => r.part == part then s
            else (s.updJob job fun j => { j with heatno := w.entry.heatno }).updHeat fun h => { h with
              running := h.running ++ [⟨part, w.entry.heatno, job, x.grant.gtime, x.limit, w.entry.seq, x.cores, false⟩] }
          let all := match s.heat.sprint with | some y => y.cores.all fun c => 3 ≤ y.stage c | none => false
          if all then s.sprintLaunch part job x.cores else s
      else s
    | _, _ => s)

/-! ## The end (R396) -/

/-- SPRINT_LIMIT (R396): at G + LIMIT the remaining sprint crews end with CODE 0x02. -/
def execSprintLimit (s : State) : Result :=
  .next (match s.heat.sprint, s.sprintPart with
    | some x, some part =>
      if x.limit ≤ s.heat.time then x.cores.foldl (fun s c => s.resetCrews part c 0x02) s else s
    | _, _ => s)

/-- Whether every sprint crew has ended and none is to come, or the LIMIT is over. -/
def State.sprintDone (s : State) (x : Sprint) (part : Nat) : Bool :=
  (s.crews.all fun c => !(c.2.live && c.2.part == part)) &&
    (decide (x.limit ≤ s.heat.time) || s.graphs.all fun g => graphPart g.1 != part || (g.2.gstate != 1 && g.2.gstate != 2))

/-- SPRINT_END (R396): the accumulators are read back, stopped entries go on from PROG, abandoned words are issued again
and the crews resume; with the last core the sprint is over. -/
def execSprintEnd (core : Nat) (s : State) : Result :=
  .next (match s.heat.sprint, s.sprintPart with
    | some x, some part =>
      if x.stage core == 3 && s.sprintDone x part && x.cores.all fun c => 3 ≤ x.stage c then
        let s := { s with qsets := s.qsets.filter fun q => q.1 != qkey part core }
        let s := (s.leaveSprint x core s.plainParts).setStage core 4
        let s := s.updHeat fun h => { h with running := h.running.filter fun r => r.part != part }
        match s.heat.sprint with
        | some y =>
          if y.cores.all fun c => y.stage c == 4 then
            ((s.clearGraphs part).clearDies part).updHeat fun h => { h with sprint := none, sprintOver := h.time }
          else s
        | none => s
      else s
    | _, _ => s)

end Sys2Proof.Machine
end

