-- ==== Sys2Proof/Machine/Boot.lean ====
section
/-! DEFINITION. The start sequence, measurement and attestation, failed starts, control blocks, power, host accesses through
CXL.mem, and the read-out of a frozen module (R425 to R436). -/

namespace Sys2Proof.Machine

/-- The state with the start, trust and power state changed by f. -/
def State.updBoot (s : State) (f : Boot → Boot) : State := { s with boot := f s.boot }

/-! ## The start sequence (R427, R430, R431) -/

/-- Deadline of a stage after reset release, in ms. -/
def stageDeadline (stage : Nat) : Nat := [0, 5, 50, 500, 4000, 5000, 20000, 30000].getD stage 0

/-- Whether a stage runs: 1 to 7, in minimal mode 1 to 3. -/
def Boot.runs (b : Boot) : Bool := 1 ≤ b.stage && b.stage ≤ 7 && (!b.minimal || b.stage ≤ 3)
/-- Whether the stage that runs has passed its deadline. -/
def Boot.late (b : Boot) : Bool := decide (stageDeadline b.stage * 1000000 < b.upTime)

/-- BOOTRSN of a start that finds FAILCNT at n (R431). -/
def bootReason (cause n stage code : Nat) : Word :=
  BitVec.ofNat 32 (cause % 16 + 16 * (if 3 ≤ n then 1 else 0) + 64 * min n 3 + 256 * (stage % 16) + 4096 * (code % 256))

/-- STAGE and CODE of the last failed start. -/
def Boot.lastStage (b : Boot) : Nat := (b.bootrsn.extractLsb' 8 4).toNat
/-- CODE of the last failed start. -/
def Boot.lastCode (b : Boot) : Nat := (b.bootrsn.extractLsb' 12 8).toNat

/-- A reset of the module: stage 1 of a new start, which increments FAILCNT. What stands outside the module's volatile
state stays: FAILCNT, the fuses, the shards in the buddy's reserve, and the model's own counters and agenda. -/
def State.restart (s : State) (cause stage code : Nat) : State :=
  let n := s.boot.failcnt
  { State.reset with
    ckpt := { Checkpoint.reset with shards := s.ckpt.shards }
    boot := { Boot.reset with
      minimal := decide (3 ≤ n), failcnt := n + 1, bootrsn := bootReason cause n stage code, debugFuse := s.boot.debugFuse }
    nextUid := s.nextUid, agenda := s.agenda, steps := s.steps, choices := s.choices }

/-- COLD_RESET (R425, R427): CAUSE 5 after a freeze, 0 for power-on, else 1. -/
def execColdReset (cause : Nat) (s : State) : Result :=
  .next (s.restart (if s.boot.frozen then 5 else if cause = 0 then 0 else 1) s.boot.lastStage s.boot.lastCode)

/-- REGCAP of a core from the slots present (R68). -/
def capOf (m : BitVec 24) (mapped : Bool) : Word :=
  let n (seat : Nat) : Nat := ((List.range 6).filter fun i => m.getLsbD (6 * seat + i)).length
  BitVec.ofNat 32 (n 0 + 8 * n 1 + 64 * n 2 + 512 * n 3 + 4096 * mapped.toNat)

/-- Whether a core has a seat without a slot, so that it is reported unable to take sprints (R58, R68). -/
def State.emptySeat (s : State) (core : Nat) : Bool :=
  (List.range 4).any fun seat => (List.range 6).all fun k => !s.slotPresent core (6 * seat + k)

/-- Stage 4: banks with persistent faults are mapped out (R67), cores that take no sprints are reported (R58), and the band
size of the channels is fixed (R409). -/
def State.mapBanks (s : State) : State :=
  let s := (List.range 256).foldl (fun s c => s.updCore c fun x => { x with
    regcap := capOf (Config.banksPresent c) (Config.banksMapped c)
    regmap := (Config.banksPresent c).setWidth 32 }) s
  s.updBoot fun b => { b with
    noSprint := (List.range 256).filter s.emptySeat, band := 2 ^ 26 * (Config.bandUnits % 31 + 1) }

/-- Whether the rotor map of a package obeys the rules of R331: each pair holds one peer, every other peer of the domain
appears exactly once, and the maps of the packages are symmetric. -/
def rotorSound (own : Nat) (rotor domain : List (Nat × Nat)) : Bool :=
  let peers := rotor.map Prod.snd
  let others := (domain.map fun x => x.1 / 4096).eraseDups
  rotor.all (fun x => decide (x.1 < 4096) && decide (1 ≤ x.2) && decide (x.2 ≤ 4096) && x.2 != own + 1) &&
    (rotor.map Prod.fst).eraseDups.length == rotor.length && peers.eraseDups.length == peers.length &&
    others.all (fun p => peers.contains (p + 1)) && peers.all (fun p => others.contains (p - 1)) &&
    rotor.all (fun x => mapGet 0 domain (4096 * (x.2 - 1) + own) == x.1 % 8 + 1) &&
    domain.all fun x => decide (1 ≤ x.2) && decide (x.2 ≤ 8) && x.1 / 4096 != x.1 % 4096 &&
      (x.1 % 4096 == own || mapGet 0 domain (4096 * (x.1 % 4096) + x.1 / 4096) == x.2)

/-- Stage 6: rotor map and domain configuration. -/
def State.loadDomain (s : State) : State :=
  { s with
    fabric := { s.fabric with peer := Config.ownPeer % 4096, rotor := Config.rotorMap, domain := Config.domainMaps }
    heat := { s.heat with priority := Config.priority } }

/-- Whether a stage can succeed: stage 6 loads only a rotor map that obeys its rules (R331). -/
def Boot.mayPass (b : Boot) : Bool :=
  b.stage != 6 || rotorSound (Config.ownPeer % 4096) Config.rotorMap Config.domainMaps

/-- A measurement register. -/
def Boot.measure (b : Boot) (i : Nat) : BitVec 256 := mapGet 0 b.measures i
/-- A measurement register extended: Mi becomes SHA-256(Mi ‖ d) (R428). -/
def Boot.extend (b : Boot) (i : Nat) (d : BitVec 256) : Boot :=
  { b with measures := mapSet 0 b.measures i (sha256 (digestBytes (b.measure i) ++ digestBytes d)) }

/-- The measurement register that a stage extends with what it runs or loads; stage 4 extends none (R428; log entry 15). -/
def stageRegister (stage : Nat) : Option Nat :=
  [none, some 0, some 1, some 2, none, some 4, some 5, some 3].getD stage none

/-- What a stage measures extended into its register. -/
def State.measureStage (s : State) : State :=
  match stageRegister s.boot.stage with
  | none => s
  | some i => { s with
      boot := s.boot.extend i (Config.imageDigest i s.boot.debugFuse s.choices), choices := s.choices + 1 }

/-- What a stage leaves when it succeeds: its measurement, 4 the mapped banks, 6 the domain, 7 FAILCNT at zero. Stage 1 has
found the measurement registers clear, as the reset leaves them. -/
def State.stageWork (s : State) : State :=
  let s := s.measureStage
  match s.boot.stage with
  | 4 => s.mapBanks
  | 6 => s.loadDomain
  | 7 => s.updBoot fun b => { b with failcnt := 0 }
  | _ => s

/-- STAGE_COMPLETE (R427, R430): the next stage begins; a stage past its deadline cannot succeed. -/
def execStageComplete (s : State) : Result :=
  .next (if s.boot.runs && !s.boot.late && s.boot.mayPass then s.stageWork.updBoot fun b => { b with stage := b.stage + 1 } else s)

/-- STAGE_FAILURE (R427, R431): stage and code are recorded and the module is reset, with CAUSE 2 where the deadline has
passed, else 3. -/
def execStageFailure (code : BitVec 8) (s : State) : Result :=
  .next (if s.boot.runs then s.restart (if s.boot.late then 2 else 3) s.boot.stage code.toNat else s)

/-- CLEAR_AND_RESTART (R430): FAILCNT becomes 0 and the module is cold-reset by the host. -/
def execClearAndRestart (s : State) : Result :=
  let s := s.updBoot fun b => { b with failcnt := 0 }
  .next (s.restart 1 s.boot.lastStage s.boot.lastCode)

/-! ## Measurement and attestation (R428, R429) -/

/-- MEASUREMENT_EXTEND (R428). -/
def execMeasurementExtend (index : Nat) (digest : BitVec 256) (s : State) : Result :=
  .next (if index < 16 then s.updBoot fun b => b.extend index digest else s)

/-- Bytes 0 to 567 of a report (R429). -/
def Boot.reportBytes (b : Boot) (nonce : BitVec 256) : List Byte :=
  leBytes 4 1 ++ leBytes 4 b.bootrsn.toNat ++ leBytes 16 Config.deviceId.toNat ++ digestBytes nonce ++
    (List.range 16).flatMap fun i => digestBytes (b.measure i)

/-- A signature r then s, each most significant byte first. -/
def signatureBytes (x : BitVec 512) : List Byte := (List.range 64).map fun i => x.extractLsb' (8 * (63 - i)) 8

/-- ATTESTATION_REPORT (R429). -/
def execAttestationReport (nonce : BitVec 256) (s : State) : Result :=
  .next (s.updBoot fun b =>
    let m := b.reportBytes nonce
    { b with report := m ++ signatureBytes (Config.signature (sha256 m)) })

/-! ## Control blocks (R432) -/

/-- A control block. -/
def Boot.block (b : Boot) (n : Nat) : ControlBlock := mapGet ControlBlock.reset b.blocks n
/-- The state with a control block changed by f. -/
def State.updBlock (s : State) (n : Nat) (f : ControlBlock → ControlBlock) : State :=
  s.updBoot fun b => { b with blocks := mapSet ControlBlock.reset b.blocks n (f (b.block n)) }

/-- EXPERT of a block. -/
def ControlBlock.expertOn (c : ControlBlock) : Bool := c.basic.getLsbD 4
/-- The basic register as it reads: bits 4 to 0, and PENDING in bit 31. -/
def ControlBlock.readBasic (c : ControlBlock) : Word := (c.basic &&& 0x1F) ||| (if c.pending.isEmpty then 0 else 0x80000000)
/-- An expert register as it reads: the newest accepted write, else the value in effect, else the preset's. -/
def ControlBlock.readExpert (c : ControlBlock) (n reg : Nat) : Word :=
  match c.pending.find? fun x => x.1 == reg with
  | some x => x.2
  | none => match c.expert.find? fun x => x.1 == reg with
    | some x => x.2
    | none => Config.preset n (c.basic.extractLsb' 1 3).toNat reg

/-- An expert register of a fibre group takes effect as its parameter where the value is in range: the group's block is
1024 + group, and its registers 0 to 2 are WTHR, FHOLD in ns, FMIN; RTHR is register 0 of block 1088 (R340; DESIGN CHOICE,
log entry 17). -/
def State.setParam (s : State) (block reg v : Nat) : State :=
  if 1024 ≤ block ∧ block < 1088 then
    s.updFibreGroup (block - 1024) fun g =>
      match reg with
      | 0 => if 1 ≤ v ∧ v ≤ 65535 then { g with wthr := v } else g
      | 1 => if 1600 ≤ v ∧ v ≤ 1600000 ∧ v % 1600 = 0 then { g with fhold := v } else g
      | 2 => if v = 1 ∨ v = 2 ∨ v = 4 then { g with fmin := v } else g
      | _ => g
  else if block = 1088 ∧ reg = 0 ∧ v ≤ 12800 then s.updFabric fun f => { f with rthr := v }
  else s

/-- BASIC_REGISTER_WRITE (R432): every expert register is loaded again from the preset named. -/
def execBasicRegisterWrite (block : Nat) (value : Word) (s : State) : Result :=
  let s := s.updBlock block fun _ => ⟨value &&& 0x1F, [], []⟩
  .next ((List.range 3).foldl (fun s r => s.setParam block r ((s.boot.block block).readExpert block r).toNat) s)

/-- EXPERT_REGISTER_WRITE (R432): accepted pending, or ignored while EXPERT is 0. -/
def execExpertRegisterWrite (block reg : Nat) (value : Word) (s : State) : Result :=
  .next (s.updBlock block fun c =>
    if c.expertOn then { c with pending := (reg, value) :: c.pending.filter fun x => x.1 != reg } else c)

/-- EXPERT_WRITE_EFFECT (R432): with no work in hand, the writes pending take effect. -/
def execExpertWriteEffect (block : Nat) (s : State) : Result :=
  let s := (s.boot.block block).pending.foldl (fun s x => s.setParam block x.1 x.2.toNat) s
  .next (s.updBlock block fun c =>
    { c with expert := c.pending ++ c.expert.filter (fun x => c.pending.all fun y => y.1 != x.1), pending := [] })

/-! ## Power (R20, R434 to R436) -/

/-- Islands: 0 to 255 cores, 256 to 287 scratchpad and TQU, 288 to 303 copy and decompression, 304 to 399 HBM, 400 to 463
fibre groups, 464 to 511 host die. Whether one is frequency-scaled (R434). -/
def islandScaled (i : Nat) : Bool := decide (i < 304) || (464 ≤ i && decide (i < 512))
/-- The levels in MHz. -/
def islandLevels : List Nat := [2000, 1800, 1600, 1400, 1200]

/-- The time base since which a task waits, when its task queue unit goes from one level to another: the cycles already
waited count on (R5, R305). -/
def rescale (now since : DWord) (old new : Nat) : DWord := now - BitVec.ofNat 64 ((now - since).toNat * old / new)

/-- An island at a level, with the voltage of that level (R20, R434). -/
def State.setLevel (s : State) (island level : Nat) : State :=
  let old := s.boot.level island
  let s := s.updBoot fun b => { b with
    levels := mapSet 2000 b.levels island level
    volts := mapSet (Config.islandVolts island 2000) b.volts island (Config.islandVolts island level) }
  if 256 ≤ island ∧ island < 288 ∧ island % 8 = 0 then
    s.updDie ((island - 256) / 8) fun d => { d with bank := d.bank.map fun t => { t with waited := rescale s.heat.time t.waited old level } }
  else s

/-- The scaled islands of a core: its own, its scratchpad's, its die's task queue unit's, its copy engine's (R20; DESIGN
CHOICE, log entry 131). -/
def coreIslands (core : Nat) : List Nat := [core, 256 + core / 8, 256 + 8 * (core / 64), 288 + core / 16]

/-- Whether an island is in a window of R435. -/
def Boot.inWindow (b : Boot) (island : Nat) : Bool := b.raised.any fun c => (coreIslands c).contains island

/-- ISLAND_LEVEL_CHANGE (R434): an island in a window of R435 is not lowered. -/
def execIslandLevelChange (island level : Nat) (s : State) : Result :=
  .next (if islandScaled island && islandLevels.contains level && !(s.boot.inWindow island && level < s.boot.level island) then
    s.setLevel island level
  else s)

/-- Whether the package holds a START or a grant time that maps or claims a core (R435). -/
def State.startComes (s : State) (core : Nat) : Bool :=
  (s.heat.sheet.any fun x => !x.void && !x.started && x.cores.contains core) ||
    s.heat.grants.any fun g => match s.windowOf g with
      | some x => (s.claimed g x.members s.fabric.peer).contains core
      | none => false

/-- PRE_START_RAISE (R435): the core's islands go to 2.0 GHz and stay there until the switch or sprint start ends. -/
def execPreStartRaise (core : Nat) (s : State) : Result :=
  .next (if core < 256 && s.startComes core then
    ((coreIslands core).foldl (fun s i => s.setLevel i 2000) s).updBoot fun b => { b with
      raised := if b.raised.contains core then b.raised else core :: b.raised }
  else s)

/-- The voltage of an island in mV: at 2.0 GHz where no level has been set. -/
def Boot.volt (b : Boot) (i : Nat) : Nat := mapGet (Config.islandVolts i 2000) b.volts i
/-- The power of an island in the sample that comes, in mW. -/
def Boot.power (b : Boot) (i : Nat) : Nat := Config.islandPower b.samples i (b.level i) (b.volt i)
/-- The power of the module in the sample that comes, in mW. -/
def Boot.modulePower (b : Boot) : Nat := (List.range 512).foldl (fun n i => n + b.power i) 0

/-- The busiest of the scaled islands that may be lowered. -/
def Boot.busiest (b : Boot) : Option Nat :=
  let may := (List.range 512).filter fun i => islandScaled i && !b.inWindow i && decide (1200 < b.level i)
  match may with
  | [] => none
  | i :: rest => some (rest.foldl (fun m k => if b.power m < b.power k then k else m) i)

/-- Samples in 100 ms. -/
def powerWindow : Nat := 100000

/-- POWER_SAMPLE (R20, R436): every 1 µs the energy of the last 100 ms and the time above 4,600 W are counted; above 3,800 W
on average over the last 100 ms the busiest island goes down one level. -/
def execPowerSample (s : State) : Result :=
  let b := s.boot
  if b.upTime < 1000 * (b.samples + 1) then .next s
  else
  let p := b.modulePower
  let gone := if b.window.length < powerWindow then 0 else b.window.getLastD 0
  let energy := b.energy + p - gone
  let t := s.updBoot fun b => { b with
    samples := b.samples + 1, window := (p :: b.window).take powerWindow, energy := energy
    overload := if 4600000 < p then b.overload + 1 else 0 }
  .next (if 3800000 * t.boot.window.length < energy then
    match b.busiest with
    | some i => t.setLevel i (b.level i - 200)
    | none => t
  else t)

/-- POWER_TRIP (R436): more than 4,600 W for 1 ms resets the module with CAUSE 4. -/
def execPowerTrip (s : State) : Result :=
  .next (if 1000 ≤ s.boot.overload then s.restart 4 s.boot.lastStage s.boot.lastCode else s)

/-! ## Host accesses (R433) -/

/-- A partition exported: ready, with no quota on any core. -/
def State.isExported (s : State) (part : Nat) : Bool := (s.partition part).ready && (s.partition part).quotas.isEmpty

/-- CXL_MEM_ACCESS (R433): of an exported partition's HBM, in range; a read takes as many bytes as the data given. -/
def execCxlMemAccess (part : Nat) (write : Bool) (offset : Nat) (data : List Byte) (s : State) : Result :=
  .next (if s.isExported part && decide (offset + data.length ≤ s.capacity part) then
    if write then s.spotRun (.hbm part offset) (data.length / 64 + 2) (data.map fun b => (b, false))
    else s.updBoot fun b => { b with cxlData := s.hbmBytes part offset data.length }
  else s)

/-! ## Read-out (R426) -/

/-- A lane of a slot, by 96 × slot + lane. -/
def State.laneAt (s : State) (n : Nat) : LaneState := (s.crewAt (n / 96)).lane (n % 96)
/-- A split of a slot, by 4 × slot + split. -/
def State.splitAt (s : State) (n : Nat) : Split := (s.crewAt (n / 4)).split (n % 4)

/-- What the instrument network shows of the memories: 0 to 4 eight bytes of block memory, scratchpad, accumulators, clause
cells and HBM; 5 to 9 their poison bits by granule or row; 10 a tag (log entry 106). -/
def State.probeMem (s : State) (target address : Nat) : DWord :=
  let flag (b : Bool) : DWord := if b then 1 else 0
  match target with
  | 0 => BitVec.ofNat 64 (s.mem.nat .bmem address 8)
  | 1 => BitVec.ofNat 64 (s.mem.nat .spad address 8)
  | 2 => BitVec.ofNat 64 (s.mem.nat .acc address 8)
  | 3 => BitVec.ofNat 64 (s.mem.nat .cells address 8)
  | 4 => BitVec.ofNat 64 (s.mem.nat .hbm address 8)
  | 5 => flag (mapGet false s.mem.bmemPoison address)
  | 6 => flag (mapGet false s.mem.spadPoison address)
  | 7 => flag (mapGet false s.mem.accPoison address)
  | 8 => flag (mapGet false s.mem.rowPoison address)
  | 9 => flag (mapGet false s.mem.hbmPoison address)
  | _ => flag (mapGet false s.mem.tags address)

/-- What it shows of the crews: 11 and 12 a lane register and its poison and full bits by 72 × (96 × slot + lane) + row; 13
a result-queue entry by 32 × (96 × slot + lane) + 2 × entry, then its poison; 14 and 15 a lane's flags with its predicates, and its stream, by
96 × slot + lane; 16 a scalar register by 32 × (4 × slot + split) + number; 17 to 19 SPC, LPC and FMTR
of a split; 20 a half of its mask by 2 × (4 × slot + split); 21 the scalar predicates; 22 a CSR by 4096 × slot + number. -/
def State.probeCrew (s : State) (target address : Nat) : DWord :=
  match target with
  | 11 => ((s.laneAt (address / 72)).reg (address % 72)).val
  | 12 => let r := (s.laneAt (address / 72)).reg (address % 72); BitVec.ofNat 64 (r.poison.toNat + 2 * r.full.toNat)
  | 13 => let q := (s.laneAt (address / 32)).q (address / 2 % 16)
    if address % 2 = 0 then q.val else BitVec.ofNat 64 q.poison.toNat
  | 14 => ((s.laneAt address).flags ++ (s.laneAt address).preds).setWidth 64
  | 15 => (s.laneAt address).count ++ (s.laneAt address).sigma
  | 16 => ((s.crewAt (address / 32 / 4)).sreg (address / 32 % 4) (BitVec.ofNat 5 address)).setWidth 64
  | 17 => BitVec.ofNat 64 (s.splitAt address).spc
  | 18 => BitVec.ofNat 64 (s.splitAt address).lpc
  | 19 => (s.splitAt address).fmtr.setWidth 64
  | 20 => ((s.splitAt (address / 2)).mask >>> (64 * (address % 2))).setWidth 64
  | 21 => (s.crewAt address).sp.setWidth 64
  | _ => ({ s with cur := address / 4096 }.csr (address % 4096)).setWidth 64

/-- What it shows of the engines and the host die: 23 issue and S of a queue by 16 × queue set + queue; 24 the status word of
an accumulator slot by 4 × core + slot; 25 to 27 CAC, SEED with STEP, and eight bytes of the feedback table by 256 × core;
28 REGMAP with REGCAP; 29 the time base; 30 BOOTRSN; 31 eight bytes of a measurement register; 32 a control block; 33 an
expert register by 2^16 × block + number. -/
def State.probeDevice (s : State) (target address : Nat) : DWord :=
  let core := s.core address
  match target with
  | 23 => let q := s.queue (address / 16) (address % 16); q.issue ++ q.seq
  | 24 => (mapGet 0 (s.core (address / 4)).accStatus (address % 4)).setWidth 64
  | 25 => core.cac
  | 26 => core.stepCount ++ core.seed
  | 27 => BitVec.ofNat 64 (leNat (memBytes (s.core (address / 256)).table (address % 256) 8))
  | 28 => core.regmap ++ core.regcap
  | 29 => s.heat.time
  | 30 => s.boot.bootrsn.setWidth 64
  | 31 => BitVec.ofNat 64 (leNat (((digestBytes (s.boot.measure (address / 32))).drop (address % 32)).take 8))
  | 32 => (s.boot.block address).readBasic.setWidth 64
  | 33 => ((s.boot.block (address / 65536)).readExpert (address / 65536) (address % 65536)).setWidth 64
  | _ => 0

/-- What the instrument network shows at a target and an address (R426; log entry 106). -/
def State.probe (s : State) (target address : Nat) : DWord :=
  if target ≤ 10 then s.probeMem target address
  else if target ≤ 22 then s.probeCrew target address
  else s.probeDevice target address

/-- TAP_READ (R426): of a frozen module; zero while the debug-enable fuse is clear. The port writes nothing a program
can see. -/
def execTapRead (target address : Nat) (s : State) : Result :=
  .next (if s.boot.frozen then
    { s with boot := { s.boot with tap := if s.boot.debugFuse then s.probe target address else 0 } } else s)

end Sys2Proof.Machine
end

