-- ==== Sys2Proof/Machine/Events.lean ====
section
/-! DEFINITION. Events of the cores: arrivals of long-latency values, traps and terminations as events of their own,
errors of the memories, and the wake of a split that waits for a time (R107, R139, R203, R204, R210, R213). -/

namespace Sys2Proof.Machine

/-- The first value in flight for a lane is taken from its record; a record whose values have all arrived completes. -/
def takeArrival (lane : Nat) : List Inflight → Option (Nat × Arrival × List Inflight)
  | [] => none
  | x :: rest =>
    match x.arrivals.find? fun a => a.lane == lane with
    | some a =>
      let left := x.arrivals.filter fun b => b.lane != lane
      some (x.reg, a, if left.isEmpty then rest else { x with arrivals := left } :: rest)
    | none =>
      match takeArrival lane rest with
      | some y => some (y.1, y.2.1, x :: y.2.2)
      | none => none

/-- LONG_LATENCY_ARRIVAL (R107): the lane's copy of the destination is written and full; the instruction completes, and
the logical clock advances, with its last value (R65, R158). -/
def execLongLatencyArrival (slot lane : Nat) (s : State) : Result :=
  let c := s.crewAt slot
  match takeArrival lane c.inflight with
  | none => .next s
  | some y =>
    let tick : DWord := if y.2.2.length < c.inflight.length then 1 else 0
    .next (s.setCrewAt slot { c.arrive y.1 y.2.1 with inflight := y.2.2, clock := c.clock + tick })

/-- LANE_TRAP (R203): the entry at the head of the lane queue of the crew in focus traps. -/
def execLaneTrap (t : TrapInfo) (s : State) : Result :=
  .next (if s.crew.live && !s.crew.laneQ.isEmpty then s.takeTrap t true false else s)

/-- SCALAR_TRAP (R204): the word of the split in focus traps. -/
def execScalarTrap (t : TrapInfo) (s : State) : Result :=
  .next (if s.crew.live && s.split.live then s.takeTrap t false false else s)

/-- CREW_TERMINATION (R210, R211): the crew in focus ends with an exit status of CLASS 0x01, where its launch has no
handler, or 0x02, where its handler runs. -/
def execCrewTermination (status : Word) (s : State) : Result :=
  let cls := status.extractLsb' 24 8
  .next (if s.crew.live && ((cls == 1 && s.settings.trap == 0) || (cls == 2 && s.crew.trap.handler)) then
    s.endCrew s.cur status true else s)

/-- One lane with the register of a row poisoned: rows 0 to 63 are v, 64 to 71 o, 72 to 87 q, newest first. -/
def LaneState.poisonRow (l : LaneState) (row : Nat) : LaneState :=
  if row < 72 then { l with regs := mapSet LaneReg.zero l.regs row { l.reg row with poison := true } }
  else
    let k := row - 72
    let q := l.queue ++ List.replicate (k + 1 - l.queue.length) ⟨0, false⟩
    { l with queue := listModify (fun v => { v with poison := true }) q k }

/-- REGISTER_ECC_ERROR (R213): the lane of the register becomes poisoned. -/
def execRegisterEccError (slot row lane : Nat) (s : State) : Result :=
  let c := s.crewAt slot
  .next (if c.live && row < 88 then
    s.setCrewAt slot { c with lanes := listModify (fun l => l.poisonRow row) c.lanes lane } else s)

/-- MEMORY_ECC_ERROR (R213): the 64-byte granule becomes poisoned. -/
def execMemoryEccError (spad : Bool) (granule : Nat) (s : State) : Result :=
  .next (if granule < (if spad then 2 ^ 22 else 2 ^ 20) then
    { s with mem := s.mem.mark (spOf spad) (64 * granule) } else s)

/-- The state with an operation done at another crew and split, the focus kept. -/
def State.atSplit (s : State) (slot k : Nat) (f : State → State) : State :=
  { f { s with cur := slot, curSplit := k } with cur := s.cur, curSplit := s.curSplit }

/-- TIME_WAKE (R139): the time base has reached the time a YIELD.time waits for; the word completes. -/
def execTimeWake (slot split : Nat) (s : State) : Result :=
  let c := s.crewAt slot
  match (c.split split).wait with
  | .time t => .next (if c.live && !c.caught && t ≤ s.heat.time then s.atSplit slot split State.done else s)
  | _ => .next s

end Sys2Proof.Machine
end

