-- ==== Sys2Proof/Machine/LaneFloat.lean ====
section
/-! DEFINITION. Floating-point lane arithmetic, the correctly rounded functions, dot products and packed halves (R171 to
R179). -/

namespace Sys2Proof.Machine

/-! ## Basic operations (R171 to R174) -/

/-- FADD (R171). -/
def execFadd (f : LaneFields) (s : State) : Result :=
  laneRun (shRound 0x20 3) (floatLane fun t r a b _ => fAdd t r a b) f s
/-- FSUB (R171). -/
def execFsub (f : LaneFields) (s : State) : Result :=
  laneRun (shRound 0x21 3) (floatLane fun t r a b _ => fSub t r a b) f s
/-- FMUL (R171). -/
def execFmul (f : LaneFields) (s : State) : Result :=
  laneRun (shRound 0x22 3) (floatLane fun t r a b _ => fMul t r a b) f s
/-- FFMA (R171). -/
def execFfma (f : LaneFields) (s : State) : Result := laneRun (shRound 0x23 7) (floatLane fFma) f s
/-- FMIN (R171). -/
def execFmin (f : LaneFields) (s : State) : Result :=
  laneRun (fun _ => shFloat 0x28 3 0) (floatLane fun t r a b _ => fMinMax false t r a b) f s
/-- FMAX (R171). -/
def execFmax (f : LaneFields) (s : State) : Result :=
  laneRun (fun _ => shFloat 0x29 3 0) (floatLane fun t r a b _ => fMinMax true t r a b) f s

/-- FCMP (R172). -/
def execFcmp (f : LaneFields) (s : State) : Result :=
  laneRun (fun f => { shFloat 0x2A 3 0x7F with bad := if f.md.toNat % 8 = 7 then some (9, f.md.toNat) else none })
    (predLane (f.md.toNat / 8 % 16) fun x i a b _ =>
      let r := fCmp (x.f.md.toNat % 8) (floatFmt x.f.fmt.toNat) (x.rounding i 0) a.toNat b.toNat
      (BitVec.ofNat 64 r.1.toNat, r.1, r.2)) f s

/-- FCLS: no flag, FTZ ignored (R172). -/
def execFcls (f : LaneFields) (s : State) : Result :=
  laneRun (fun _ => shFloat 0x2B 1 0) (floatLane fun t _ a _ _ => (fClass t a, 0)) f s
/-- FRND: never RSTO (R173). -/
def execFrnd (f : LaneFields) (s : State) : Result :=
  laneRun (fun _ => { shFloat 0x2C 1 0 with rnd := some false }) (floatLane fun t r a _ _ => fRound t r a) f s
/-- FSCL: n := b[31:0] as I32 (R171). -/
def execFscl (f : LaneFields) (s : State) : Result :=
  laneRun (shRound 0x2D 3) (floatLane fun t r a b _ => fScale t t r a (intOf (intTy 0) b)) f s
/-- FGEX (R173). -/
def execFgex (f : LaneFields) (s : State) : Result :=
  laneRun (shRound 0x2E 1) (floatLane fun t r a _ _ => fExponent t r a) f s
/-- FREM: exact, RND unused (R173). -/
def execFrem (f : LaneFields) (s : State) : Result :=
  laneRun (fun _ => shFloat 0x2F 3 0) (floatLane fun t r a b _ => fRem t r a b) f s
/-- FNXT (R171). -/
def execFnxt (f : LaneFields) (s : State) : Result :=
  laneRun (fun _ => shFloat 0x3F 3 0) (floatLane fun t r a b _ => fNext t r a b) f s
/-- FADD3 (R171). -/
def execFadd3 (f : LaneFields) (s : State) : Result := laneRun (shRound 0x7B 7) (floatLane fAdd3) f s
/-- FSPL (R174). -/
def execFspl (f : LaneFields) (s : State) : Result :=
  laneRun (fun _ => shFloat 0x7D 3 0) (floatLane fun t r a b _ => fSplit t r a b) f s
/-- FCPS (R174). -/
def execFcps (f : LaneFields) (s : State) : Result :=
  laneRun (fun _ => shFloat 0x7E 3 0) (floatLane fun t r a b _ => fProdErr t r a b) f s

/-! ## Correctly rounded functions (R175, R176) -/

/-- FDIV. -/
def execFdiv (f : LaneFields) (s : State) : Result :=
  laneRun (shFunction 0x24 3) (floatLane fun t r a b _ => fDivVal t r (readFloat t r a) (readFloat t r b)) f s
/-- FSQRT. -/
def execFsqrt (f : LaneFields) (s : State) : Result :=
  laneRun (shFunction 0x25 1) (floatLane fun t r a _ _ => fSqrt t r a) f s
/-- FRSQ. -/
def execFrsq (f : LaneFields) (s : State) : Result :=
  laneRun (shFunction 0x26 1) (floatLane fun t r a _ _ => fRsqrt t r a) f s
/-- FRCP: 1 ÷ a. -/
def execFrcp (f : LaneFields) (s : State) : Result :=
  laneRun (shFunction 0x27 1) (floatLane fun t r a _ _ => fDivVal t r .one (readFloat t r a)) f s
/-- FEXP. -/
def execFexp (f : LaneFields) (s : State) : Result :=
  laneRun (shFunction 0x30 1) (floatLane fun t r a _ _ => fExp t r a) f s
/-- FEXP2. -/
def execFexp2 (f : LaneFields) (s : State) : Result :=
  laneRun (shFunction 0x31 1) (floatLane fun t r a _ _ => fExp2 t r a) f s
/-- FLOG. -/
def execFlog (f : LaneFields) (s : State) : Result :=
  laneRun (shFunction 0x32 1) (floatLane fun t r a _ _ => fLog false t r a) f s
/-- FLOG2. -/
def execFlog2 (f : LaneFields) (s : State) : Result :=
  laneRun (shFunction 0x33 1) (floatLane fun t r a _ _ => fLog true t r a) f s
/-- FSIN. -/
def execFsin (f : LaneFields) (s : State) : Result :=
  laneRun (shFunction 0x34 1) (floatLane fun t r a _ _ => fTrig false t r a) f s
/-- FCOS. -/
def execFcos (f : LaneFields) (s : State) : Result :=
  laneRun (shFunction 0x35 1) (floatLane fun t r a _ _ => fTrig true t r a) f s
/-- FTANH. -/
def execFtanh (f : LaneFields) (s : State) : Result :=
  laneRun (shFunction 0x36 1) (floatLane fun t r a _ _ => fTanh t r a) f s
/-- FSIGM. -/
def execFsigm (f : LaneFields) (s : State) : Result :=
  laneRun (shFunction 0x37 1) (floatLane fun t r a _ _ => fSigmoid t r a) f s
/-- FERF. -/
def execFerf (f : LaneFields) (s : State) : Result :=
  laneRun (shFunction 0x38 1) (floatLane fun t r a _ _ => fErf t r a) f s
/-- FPOW. -/
def execFpow (f : LaneFields) (s : State) : Result :=
  laneRun (shFunction 0x39 3) (floatLane fun t r a b _ => fPow t r a b) f s
/-- FATAN: MOD[0] selects the two-operand form. -/
def execFatan (f : LaneFields) (s : State) : Result :=
  laneRun (fun f => { shFunction 0x3A (if f.md.getLsbD 0 then 3 else 1) f with md := 1 })
    (fun x => floatLane (fun t r a b _ => fAtan t r (x.f.md.getLsbD 0) a b) x) f s
/-- FHYP: an infinity wins over a NaN and over poison in neither operand. -/
def execFhyp (f : LaneFields) (s : State) : Result :=
  laneRun (shFunction 0x3B 3) (floatLane fun t r a b _ => fHypot t r a b) f s

/-! ## Dot products (R177, R178) -/

/-- The accepted elements of a dot product of n: floats but F64 and F19, the integer and tapered codes, at most 64/n
bits wide; with FMTC I32 no floating or tapered element. -/
def dotElem (n fmtc c : Nat) : Bool :=
  c ≤ 21 && c != 0 && c != 2 && n * fmtWidth c ≤ 64 && (fmtc != 20 || isIntElem c)

/-- FMTA, FMTB and FMTC of a recorded FMTR (R88). -/
def fmtrField (fmtr : Word) (k : Nat) : Nat := (fmtr.extractLsb' (5 * k) 5).toNat

/-- The first field of FMTR that a dot product does not accept: DETAIL 13 and the code. -/
def dotTrap (n : Nat) (fmtr : Word) : Option TrapInfo :=
  let c := fmtrField fmtr 2
  let bad := [c].filter (fun c => c != 0 && c != 1 && c != 20) ++
    [fmtrField fmtr 0, fmtrField fmtr 1].filter fun k => !dotElem n c k
  bad.head?.map fun k => laneInfo 0x03 13 k

/-- Element k of n in a register: bits from 64k/n up. -/
def dotElemAt (n c : Nat) (v : Nat) (k : Nat) : Val := decodeElem c ((v >>> (64 / n * k)) % 2 ^ fmtWidth c)

/-- c + Σ a_k × b_k rounded once into FMTC (R177), FTZ applied to operands and result of codes 0 to 4. -/
def dotSum (fmtr : Word) (r : Rnd) (n : Nat) (a b c : Nat) : DWord × Flags :=
  let fa := fmtrField fmtr 0
  let fb := fmtrField fmtr 1
  let fc := fmtrField fmtr 2
  let flush (code : Nat) (v : Val) : Val :=
    if r.ftz && decide (code ≤ 4) && isSubnormal (floatFmt code) v then .zero v.neg else v
  let as := (List.range n).map fun k => flush fa (dotElemAt n fa a k)
  let bs := (List.range n).map fun k => flush fb (dotElemAt n fb b k)
  if fc = 20 then
    let prods := termsOf ((as.zip bs).map fun p => valMul p.1 p.2)
    let x := (sumExact ((prods.getD []))).add ⟨intOf (intTy 0) c, 0⟩
    let v := intClamp (intTy 0) (x.num * 2 ^ x.exp.toNat)
    (intBits (intTy 0) v.1, if v.2 then flagNS else 0)
  else
    let fmt := floatFmt fc
    let z := readFloat fmt r c
    let ops := as ++ bs ++ [z]
    let res := withNans fmt r ops
      (match termsOf ((as.zip bs).map fun p => valMul p.1 p.2) with
       | none => invalidBits fmt
       | some ts => roundSum fmt r (sumTerms r.mode (z :: ts)))
    (BitVec.ofNat 64 res.1, res.2)

/-- The shape of DOT2, DOT4 and DOT8: every accumulate format has 24 significand bits or more, so RSTO is refused. -/
def shDot (op : BitVec 8) : Shape := { shMove op 7 with rnd := some false }

/-- A dot product of n elements: FMTR is checked when the instruction executes. -/
def dotBody (n : Nat) : Body := fun x s =>
  match dotTrap n x.e.fmtr with
  | some t => .trap t
  | none => perLane (fun x i a b c => dotSum x.e.fmtr (x.rounding i 0) n a.toNat b.toNat c.toNat) x s

/-- DOT2 (R177). -/
def execDot2 (f : LaneFields) (s : State) : Result := laneRun (fun _ => shDot 0x3C) (dotBody 2) f s
/-- DOT4 (R177). -/
def execDot4 (f : LaneFields) (s : State) : Result := laneRun (fun _ => shDot 0x3D) (dotBody 4) f s
/-- DOT8 (R177). -/
def execDot8 (f : LaneFields) (s : State) : Result := laneRun (fun _ => shDot 0x3E) (dotBody 8) f s

/-- FDOT2: two elements of FMT 1, 3 or 4 and an F32 addend, rounded once to F32 (R178). -/
def execFdot2 (f : LaneFields) (s : State) : Result :=
  laneRun (fun _ => { shFloat 0x7C 7 0 with fmts := [1, 3, 4], rnd := some false })
    (perLane fun x i a b c =>
      let t := floatFmt x.f.fmt.toNat
      let w := fmtWidth x.f.fmt.toNat
      let r := x.rounding i 0
      let el (v : DWord) (k : Nat) : Val := readFloat t r (v.toNat / 2 ^ (w * k) % 2 ^ w)
      let as := [el a 0, el a 1]
      let bs := [el b 0, el b 1]
      let z := readFloat (floatFmt 1) r c.toNat
      let res := withNans (floatFmt 1) r (as ++ bs ++ [z])
        (match termsOf ((as.zip bs).map fun p => valMul p.1 p.2) with
         | none => invalidBits (floatFmt 1)
         | some ts => roundSum (floatFmt 1) r (sumTerms r.mode (z :: ts)))
      (BitVec.ofNat 64 res.1, res.2)) f s

/-! ## Packed halves (R179) -/

/-- Both 16-bit elements of a packed operation: element j by g j. -/
def halvesLane (g : FloatFmt → Nat → Rnd → Nat → Nat → Nat → Nat × Flags) : Body := perLane fun x i a b c =>
  let t := floatFmt x.f.fmt.toNat
  let half (v : DWord) (j : Nat) : Nat := v.toNat / 2 ^ (16 * j) % 2 ^ 16
  let r (j : Nat) := g t j (x.rounding i j) (half a j) (half b j) (half c j)
  (BitVec.ofNat 64 ((r 0).1 + 2 ^ 16 * (r 1).1), (r 0).2 ||| (r 1).2)

/-- A packed instruction that rounds: two draws a lane. -/
def shHalves (op : BitVec 8) (uses : BitVec 3) : Shape :=
  { shFloat op uses 0 with fmts := [3, 4], rnd := some true, draws := 2 }

/-- HADD2 (R179). -/
def execHadd2 (f : LaneFields) (s : State) : Result :=
  laneRun (fun _ => shHalves 0x6C 3) (halvesLane fun t _ r a b _ => fAdd t r a b) f s
/-- HMUL2 (R179). -/
def execHmul2 (f : LaneFields) (s : State) : Result :=
  laneRun (fun _ => shHalves 0x6D 3) (halvesLane fun t _ r a b _ => fMul t r a b) f s
/-- HFMA2 (R179). -/
def execHfma2 (f : LaneFields) (s : State) : Result :=
  laneRun (fun _ => shHalves 0x6E 7) (halvesLane fun t _ r a b c => fFma t r a b c) f s
/-- HMNX2: element 0 the lesser, element 1 the greater; RND unused (R179). -/
def execHmnx2 (f : LaneFields) (s : State) : Result :=
  laneRun (fun _ => { shFloat 0x6F 3 0 with fmts := [3, 4] })
    (halvesLane fun t j r a b _ => fMinMax (j == 1) t r a b) f s

end Sys2Proof.Machine
end

