-- ==== Sys2Proof/Machine/LaneInteger.lean ====
section
/-! DEFINITION. The lane no-operation, the repeat prefix and the integer lane instructions (R109, R110, R158, R163 to
R165). -/

namespace Sys2Proof.Machine

/-- LNOP: no field, no result (R158). -/
def execLnop (f : LaneFields) (s : State) : Result := laneRun (fun _ => .bare 0x00) (fun _ s => .ok s) f s

/-! ## REP (R109, R110) -/

/-- The reserved fields of a REP word, in field-number order (R109). -/
def repReserved (f : LaneFields) : List (Bool × TrapInfo) :=
  [(f.dst != 0, laneInfo 0x01 1 f.dst.toNat), (f.sa != 0, laneInfo 0x01 2 f.sa.toNat),
   (f.sb != 0, laneInfo 0x01 3 f.sb.toNat), (f.sc != 0, laneInfo 0x01 4 f.sc.toNat),
   (f.fe != 0, laneInfo 0x01 5 f.fe.toNat), (f.fmt != 0, laneInfo 0x01 6 f.fmt.toNat),
   (f.rnd != 0, laneInfo 0x01 7 f.rnd.toNat), (f.pred != 0, laneInfo 0x01 8 f.pred.toNat),
   (f.pneg != 0, laneInfo 0x01 8 f.pneg.toNat), (f.md != 0, laneInfo 0x01 9 f.md.toNat),
   (f.imm &&& 0xFFFFC0C0 != 0, laneInfo 0x01 10 f.imm.toNat)]

/-- The next lane instruction of a split behind the entry at the head: queued, else the one in the image behind it
(log entry 10). -/
def State.nextOf (s : State) (e : LaneEntry) (rest : List LaneEntry) : Option (BitVec 96) :=
  match rest.find? fun y => y.owner == e.owner with
  | some y => some y.word
  | none => if e.lpc + 24 ≤ s.launch.laneLen then some (s.launch.laneWordAt (e.lpc + 12)) else none

/-- The illegal-prefix checks against the target. -/
def repTarget (f : LaneFields) : Option (BitVec 96) → List (Bool × TrapInfo)
  | none => []
  | some w => prefixBad (f.imm.extractLsb' 8 4) w

/-- The repeat state a prefix gives its target. -/
def repState (f : LaneFields) : RepState :=
  ⟨f.imm.toNat % 64 + 1, 2 ^ (f.imm.extractLsb' 12 2).toNat, f.imm.extractLsb' 8 4, 0⟩

/-- The first queued entry of a split given a repeat state. -/
def giveRep (k : Nat) (r : RepState) : List LaneEntry → List LaneEntry
  | [] => []
  | e :: rest => if e.owner = k then { e with rep := some r } :: rest else e :: giveRep k r rest

/-- REP: checked against the next lane instruction of the split, which it then repeats; the prefix adds nothing to the
logical clock (R110). -/
def execRep (f : LaneFields) (s : State) : Result :=
  let s := s.ensureHead 0x01 f
  match s.crew.laneQ with
  | [] => .next s
  | e :: rest =>
    match e.prefixTrap.or (firstTrap (repReserved f ++ repTarget f (s.nextOf e rest))) with
    | some t => .next (s.takeTrap t true false)
    | none =>
      .next (s.updCrew fun c =>
        if rest.any fun y => y.owner == e.owner then { c with laneQ := giveRep e.owner (repState f) rest }
        else { c.updSplit e.owner fun p => { p with pendingRep := some (repState f) } with laneQ := rest })

/-! ## Arithmetic (R163) -/

/-- An addition or subtraction, clamped with NS under .sat. -/
def satLane (g : Int → Int → Int) : Body := perLane fun x _ a b _ =>
  let t := intTy x.f.fmt.toNat
  let v := g (intOf t a.toNat) (intOf t b.toNat)
  if x.f.md.getLsbD 0 then (intBits t (intClamp t v).1, if (intClamp t v).2 then flagNS else 0)
  else (intBits t v, 0)

/-- IADD (R163). -/
def execIadd (f : LaneFields) (s : State) : Result := laneRun (fun _ => shInt 0x02 3 1) (satLane (· + ·)) f s
/-- ISUB (R163). -/
def execIsub (f : LaneFields) (s : State) : Result := laneRun (fun _ => shInt 0x03 3 1) (satLane (· - ·)) f s
/-- IMUL (R163). -/
def execImul (f : LaneFields) (s : State) : Result :=
  laneRun (fun _ => shInt 0x04 3 0) (intLane fun _ a b _ => a * b) f s
/-- IMULH: the high w bits of the exact product (R163). -/
def execImulh (f : LaneFields) (s : State) : Result :=
  laneRun (fun _ => shInt 0x05 3 0) (intLane fun t a b _ => a * b / 2 ^ t.width) f s
/-- IMAD (R163). -/
def execImad (f : LaneFields) (s : State) : Result :=
  laneRun (fun _ => shInt 0x06 7 0) (intLane fun _ a b c => a * b + c) f s
/-- IDIV: rounded toward zero; all ones for a zero divisor; the most negative value over -1 wraps to itself (R163). -/
def execIdiv (f : LaneFields) (s : State) : Result :=
  laneRun (fun _ => shInt 0x07 3 0) (intLane fun _ a b _ => if b = 0 then -1 else a.tdiv b) f s
/-- IMIN (R163). -/
def execImin (f : LaneFields) (s : State) : Result :=
  laneRun (fun _ => shInt 0x08 3 0) (intLane fun _ a b _ => min a b) f s
/-- IMAX (R163). -/
def execImax (f : LaneFields) (s : State) : Result :=
  laneRun (fun _ => shInt 0x09 3 0) (intLane fun _ a b _ => max a b) f s
/-- IABS: the most negative value wraps to itself (R163). -/
def execIabs (f : LaneFields) (s : State) : Result :=
  laneRun (fun _ => shInt 0x0A 1 0) (intLane fun _ a _ _ => (a.natAbs : Int)) f s

/-! ## Bits (R163, R164) -/

/-- A function of the w-bit patterns of the operands, extended under the type. -/
def bitsLane (g : Nat → Nat → Nat → Nat → Nat) : Body := plainLane fun x _ a b c =>
  let t := intTy x.f.fmt.toNat
  let m := 2 ^ t.width
  intBits t (g t.width (a.toNat % m) (b.toNat % m) (c.toNat % m))

/-- AND_LANE (R163). -/
def execAndLane (f : LaneFields) (s : State) : Result :=
  laneRun (fun _ => shInt 0x0B 3 0) (bitsLane fun _ a b _ => a &&& b) f s
/-- OR_LANE (R163). -/
def execOrLane (f : LaneFields) (s : State) : Result :=
  laneRun (fun _ => shInt 0x0C 3 0) (bitsLane fun _ a b _ => a ||| b) f s
/-- XOR_LANE (R163). -/
def execXorLane (f : LaneFields) (s : State) : Result :=
  laneRun (fun _ => shInt 0x0D 3 0) (bitsLane fun _ a b _ => a ^^^ b) f s

/-- Bit j of LOP3: the table bit 4a + 2b + c, over the bits below w (R163). -/
def lop3Bits (table a b c : Nat) : Nat → Nat
  | 0 => 0
  | j + 1 =>
    lop3Bits table a b c j +
      (if table.testBit (4 * (a.testBit j).toNat + 2 * (b.testBit j).toNat + (c.testBit j).toNat) then 2 ^ j else 0)

/-- LOP3 (R163). -/
def execLop3 (f : LaneFields) (s : State) : Result :=
  laneRun (fun _ => { shInt 0x0E 7 0 with imm := some 0xFF })
    (plainLane fun x _ a b c =>
      let t := intTy x.f.fmt.toNat
      intBits t (lop3Bits x.f.imm.toNat a.toNat b.toNat c.toNat t.width)) f s
/-- SHL_LANE: by b mod w (R163). -/
def execShlLane (f : LaneFields) (s : State) : Result :=
  laneRun (fun _ => shInt 0x0F 3 0) (bitsLane fun w a b _ => a <<< (b % w)) f s
/-- SHR_LANE (R163). -/
def execShrLane (f : LaneFields) (s : State) : Result :=
  laneRun (fun _ => shInt 0x10 3 0) (bitsLane fun w a b _ => a >>> (b % w)) f s
/-- SRA_LANE: filled with bit w - 1 whatever the type (R163). -/
def execSraLane (f : LaneFields) (s : State) : Result :=
  laneRun (fun _ => shInt 0x11 3 0)
    (bitsLane fun w a b _ => (intOf ⟨w, true⟩ a / 2 ^ (b % w) % 2 ^ w).toNat) f s
/-- ROT: left within w bits (R163). -/
def execRot (f : LaneFields) (s : State) : Result :=
  laneRun (fun _ => shInt 0x12 3 0) (bitsLane fun w a b _ => (a <<< (b % w)) ||| (a >>> (w - b % w))) f s

/-- Set bits among the low n. -/
def popCount (v : Nat) : Nat → Nat
  | 0 => 0
  | n + 1 => popCount v n + (v.testBit n).toNat
/-- Leading zeros within n bits. -/
def leadZeros (v : Nat) : Nat → Nat
  | 0 => 0
  | n + 1 => if v.testBit n then 0 else leadZeros v n + 1

/-- POPC_LANE (R163). -/
def execPopcLane (f : LaneFields) (s : State) : Result :=
  laneRun (fun _ => shInt 0x13 1 0) (bitsLane fun w a _ _ => popCount a w) f s
/-- CLZ_LANE (R163). -/
def execClzLane (f : LaneFields) (s : State) : Result :=
  laneRun (fun _ => shInt 0x14 1 0) (bitsLane fun w a _ _ => leadZeros a w) f s

/-- Position and length of a field within w bits: pos := b[5:0], len := min(b[14:8], w), cut at bit w - 1 (R164). -/
def laneField (w b : Nat) : Nat × Nat :=
  let pos := b % 64
  (pos, min (min (b / 256 % 128) w) (w - min pos w))

/-- The low 15 bits of source b, which hold the field of BFX and BFI whatever the type's width (R164). -/
def fieldOf (w : Nat) (b : DWord) : Nat × Nat := laneField w (b.toNat % 2 ^ 15)

/-- BFX_LANE (R164). -/
def execBfxLane (f : LaneFields) (s : State) : Result :=
  laneRun (fun _ => shInt 0x15 3 0)
    (plainLane fun x _ a b _ =>
      let t := intTy x.f.fmt.toNat
      let (pos, len) := fieldOf t.width b
      if len = 0 then 0 else intBits t (intOf ⟨len, t.signed⟩ ((a.toNat % 2 ^ t.width) >>> pos))) f s

/-- BFI_LANE (R164). -/
def execBfiLane (f : LaneFields) (s : State) : Result :=
  laneRun (fun _ => shInt 0x16 7 0)
    (plainLane fun x _ a b c =>
      let t := intTy x.f.fmt.toNat
      let (pos, len) := fieldOf t.width b
      let m := (2 ^ len - 1) <<< pos
      intBits t ((c.toNat % 2 ^ t.width &&& (2 ^ 64 - 1 - m)) ||| ((a.toNat % 2 ^ len) <<< pos) : Nat)) f s

/-- The relation of ICMP (R165): 0 eq, 1 ne, 2 lt, 3 le, 4 gt, 5 ge. -/
def intRel (cond : Nat) (a b : Int) : Bool :=
  match cond with
  | 0 => a == b
  | 1 => a != b
  | 2 => decide (a < b)
  | 3 => decide (a ≤ b)
  | 4 => decide (b < a)
  | _ => decide (b ≤ a)

/-- ICMP (R165). -/
def execIcmp (f : LaneFields) (s : State) : Result :=
  laneRun (fun f => { shInt 0x17 3 0x7F with bad := if f.md.toNat % 8 ≥ 6 then some (9, f.md.toNat) else none })
    (predLane (f.md.toNat / 8 % 16) fun x _ a b _ =>
      let t := intTy x.f.fmt.toNat
      let r := intRel (x.f.md.toNat % 8) (intOf t a.toNat) (intOf t b.toNat)
      (BitVec.ofNat 64 r.toNat, r, 0)) f s

/-- ISAD (R163). -/
def execIsad (f : LaneFields) (s : State) : Result :=
  laneRun (fun _ => shInt 0x78 7 0) (intLane fun _ a b c => ((a - b).natAbs : Int) + c) f s

/-- MULW: the exact product extended from 2w bits with the type's signedness; not I64 or N64 (R163). -/
def execMulw (f : LaneFields) (s : State) : Result :=
  laneRun (fun _ => { shInt 0x79 3 0 with fmts := [0, 1, 4, 5, 6, 7] })
    (plainLane fun x _ a b _ =>
      let t := intTy x.f.fmt.toNat
      intBits ⟨2 * t.width, t.signed⟩ (intOf t a.toNat * intOf t b.toNat)) f s

/-- ADDC: a + b + c[0], with the carry out of bit w - 1 of the unsigned sum in p_N (R163). -/
def execAddc (f : LaneFields) (s : State) : Result :=
  laneRun (fun _ => shInt 0x7A 7 0x0F)
    (predLane (f.md.toNat % 16) fun x _ a b c =>
      let t := intTy x.f.fmt.toNat
      let v := a.toNat % 2 ^ t.width + b.toNat % 2 ^ t.width + c.toNat % 2
      (intBits t v, decide (2 ^ t.width ≤ v), 0)) f s

end Sys2Proof.Machine
end

