-- ==== Sys2Proof/Machine/LaneReduce.lean ====
section
/-! DEFINITION. Reductions, scans and exchanges, flags, hashes and check codes, and the privileged POIS and LBRK (R91,
R187 to R189, R197, R198, R200). -/

namespace Sys2Proof.Machine

/-! ## The tree (R91) -/

/-- A step of the tree: the draw number it may take and the two inputs give the value and flags. -/
abbrev Node2 := Nat → Nat → Nat → Nat × Flags

/-- What the steps so far have raised and how many have combined two inputs. -/
structure TreeAcc where
  flags : Flags
  steps : Nat
  deriving DecidableEq, Repr

/-- One node: an inactive input passes the other on. -/
def treeNode (g : Node2) (acc : TreeAcc) : Option Nat → Option Nat → Option Nat × TreeAcc
  | none, y => (y, acc)
  | x, none => (x, acc)
  | some x, some y =>
    let r := g acc.steps x y
    (some r.1, ⟨acc.flags ||| r.2, acc.steps + 1⟩)

/-- One level: neighbours combined in ascending order, so beat 0, beat 1, beat 2. -/
def treeLevel (g : Node2) (acc : TreeAcc) : List (Option Nat) → List (Option Nat) × TreeAcc
  | x :: y :: rest =>
    let r := treeNode g acc x y
    let t := treeLevel g r.2 rest
    (r.1 :: t.1, t.2)
  | l => (l, acc)

/-- n levels. -/
def treeLevels (g : Node2) : Nat → List (Option Nat) × TreeAcc → List (Option Nat) × TreeAcc
  | 0, x => x
  | n + 1, x => treeLevels g n (treeLevel g x.2 x.1)

/-- The whole tree over 96 inputs: five levels to one value a beat, then beat 0 with 1, then with 2. -/
def tree (g : Node2) (l : List (Option Nat)) : Option Nat × TreeAcc :=
  match treeLevels g 5 (l, ⟨0, 0⟩) with
  | ([b0, b1, b2], acc) =>
    let r := treeNode g acc b0 b1
    treeNode g r.2 r.1 b2
  | (_, acc) => (none, acc)

/-- The inputs of the executing lanes. -/
def Ctx.inputs (x : Ctx) (width : Nat) : List (Option Nat) :=
  (List.range 96).map fun i => if x.exec.getLsbD i then some ((x.val 0 i).toNat % 2 ^ width) else none

/-- A reduction completes: ring entry, REDDONE, DST and the push; flags go to FSUM only; rounding draws are those of
the lowest executing lane (R91, R152, R187). -/
def Ctx.reduced (x : Ctx) (v : DWord) (flags : Flags) (draws : Nat) (s : State) : Act :=
  let poison := x.lanes.any fun i => x.poison 0 i
  let v := if poison then 0 else v
  let seq := x.e.redFirst + BitVec.ofNat 16 x.e.repAt
  .ok (s.updCrew fun c =>
    let c := x.put (fun _ => ⟨v, poison, 0⟩) c
    { c with
      ring := (⟨seq, v, poison⟩ :: c.ring).take 4, redDone := seq
      fsum := if poison then c.fsum else c.fsum ||| flags
      lanes := match x.lanes with
        | [] => c.lanes
        | low :: _ => listModify (fun l => l.drew draws) c.lanes low })

/-- The rounding of step n of a tree: its draw comes from the lowest executing lane. -/
def Ctx.treeRnd (x : Ctx) (n : Nat) : Rnd := x.rounding (match x.lanes with | [] => 0 | low :: _ => low) n

/-- An integer reduction by g on values of the type, with its identity. -/
def intReduce (g : IntTy → Int → Int → Int) (identity : IntTy → Int) : Body := fun x s =>
  let t := intTy x.f.fmt.toNat
  let node : Node2 := fun _ a b => ((intBits t (g t (intOf t a) (intOf t b))).toNat % 2 ^ t.width, 0)
  x.reduced (intBits t (match (tree node (x.inputs t.width)).1 with | some v => (v : Int) | none => identity t)) 0 0 s

/-- A floating reduction; rounds says whether a step takes a draw under RSTO. -/
def floatReduce (g : FloatFmt → Rnd → Nat → Nat → Nat × Flags) (identity : FloatFmt → Nat) (rounds : Bool) : Body :=
  fun x s =>
    let t := floatFmt x.f.fmt.toNat
    let r := tree (fun n a b => g t (x.treeRnd n) a b)
      ((x.inputs (fmtWidth x.f.fmt.toNat)).map (Option.map (cleanBits t)))
    let v := match r.1 with | some v => v | none => identity t
    x.reduced (BitVec.ofNat 64 v) r.2.flags (if rounds && x.mode == 5 then r.2.steps else 0) s

/-- A reduction that accepts both tables. -/
def bothReduce (int float : Body) : Body := fun x => if x.sh.kind = .int then int x else float x

/-- The shape of RADD, RMIN and RMAX: RND is read, also where no step rounds (R187; log entry 22); draws are taken by the
tree. -/
def shReduce (op : BitVec 8) (f : LaneFields) : Shape :=
  { shBoth op 1 0 f with rnd := some (f.md.getLsbD 7 || stoOk f.fmt) }

/-- RADD (R187). -/
def execRadd (f : LaneFields) (s : State) : Result :=
  laneRun (shReduce 0x4C) (bothReduce (intReduce (fun _ a b => a + b) fun _ => 0)
    (floatReduce fAdd (fun t => packSign t false 0) true)) f s
/-- RMIN (R187). -/
def execRmin (f : LaneFields) (s : State) : Result :=
  laneRun (shReduce 0x4D) (bothReduce (intReduce (fun _ a b => min a b) intMax)
    (floatReduce (fMinMax false) (fun t => infBits t false) false)) f s
/-- RMAX (R187). -/
def execRmax (f : LaneFields) (s : State) : Result :=
  laneRun (shReduce 0x4E) (bothReduce (intReduce (fun _ a b => max a b) intMin)
    (floatReduce (fMinMax true) (fun t => infBits t true) false)) f s

/-- A bitwise reduction. -/
def bitReduce (g : Nat → Nat → Nat) (identity : Int) : Body :=
  intReduce (fun t a b => (g (a % 2 ^ t.width).toNat (b % 2 ^ t.width).toNat : Nat)) fun _ => identity

/-- RAND (R187). -/
def execRand (f : LaneFields) (s : State) : Result :=
  laneRun (fun _ => shInt 0x4F 1 0) (bitReduce (· &&& ·) (-1)) f s
/-- RIOR (R187). -/
def execRior (f : LaneFields) (s : State) : Result :=
  laneRun (fun _ => shInt 0x50 1 0) (bitReduce (· ||| ·) 0) f s
/-- RXOR (R187). -/
def execRxor (f : LaneFields) (s : State) : Result :=
  laneRun (fun _ => shInt 0x51 1 0) (bitReduce (· ^^^ ·) 0) f s
/-- RCNT: the executing lanes with a non-zero value, as N64 (R187). -/
def execRcnt (f : LaneFields) (s : State) : Result :=
  laneRun (fun _ => shInt 0x52 1 0)
    (fun x s =>
      let w := (intTy x.f.fmt.toNat).width
      x.reduced (BitVec.ofNat 64 (x.lanes.filter fun i => (x.val 0 i).toNat % 2 ^ w != 0).length) 0 0 s) f s

/-- Whether lane i's value comes before lane j's for RARG: less, or greater; -0 before +0. -/
def Ctx.argBefore (x : Ctx) (i j : Nat) : Bool :=
  let greatest := x.f.imm.getLsbD 0
  if x.sh.kind = .int then
    let t := intTy x.f.fmt.toNat
    let a := intOf t (x.val 0 i).toNat
    let b := intOf t (x.val 0 j).toNat
    if greatest then decide (b < a) else decide (a < b)
  else
    let t := floatFmt x.f.fmt.toNat
    let r := x.rounding 0 0
    let a := readFloat t r (x.val 0 i).toNat
    let b := readFloat t r (x.val 0 j).toNat
    let less (a b : Val) : Bool := valLt a b || (valEq a b && a.neg && !b.neg)
    if greatest then less b a else less a b

/-- RARG: the lowest index of the least or greatest; NaN lanes ignored; all ones if none qualifies (R187). -/
def execRarg (f : LaneFields) (s : State) : Result :=
  laneRun (fun f => { shBoth 0x53 1 0 f with imm := some 1 })
    (fun x s =>
      let ok := x.lanes.filter fun i =>
        x.sh.kind = .int || !(decodeFloat (floatFmt x.f.fmt.toNat) (x.val 0 i).toNat).isNan
      let best := ok.foldl (fun b i => match b with
        | none => some i
        | some j => if x.argBefore i j then some i else some j) (none : Option Nat)
      x.reduced (match best with | some i => BitVec.ofNat 64 i | none => BitVec.allOnes 64) 0 0 s) f s

/-! ## SCAN (R188) -/

/-- A step of a scan: the lane whose draw it takes, the draw's number, the accumulator and a lane's value. -/
abbrev ScanStep := Nat → Nat → Nat → DWord → Nat × Flags

/-- The scan from the accumulator on: the results of the executing lanes. -/
def scanGo (x : Ctx) (step : ScanStep) (excl : Bool) (out : Nat → DWord) :
    List Nat → Nat → Bool → Bool → List (Nat × LaneRes)
  | [], _, _, _ => []
  | i :: rest, acc, bad, drew =>
    let bad := bad || x.poison 0 i
    let (lane, n) := if excl then (match rest with | [] => (i, drew.toNat) | j :: _ => (j, 0)) else (i, 0)
    let r := step lane n acc (x.val 0 i)
    (i, ⟨out (if excl then acc else r.1), bad, r.2⟩) :: scanGo x step excl out rest r.1 bad true

/-- Rounding draws of an executing lane in a scan: one for the step that forms its d, and in the exclusive form one in
the last lane for the last step, none in the first (log entry 23). -/
def scanDraws (x : Ctx) (excl : Bool) (i : Nat) : Nat :=
  if excl then (if x.lanes.head? = some i then 0 else 1) + (if x.lanes.getLast? = some i then 1 else 0) else 1

/-- SCAN; RND is read also where no step rounds (R188; log entry 22). -/
def execScan (f : LaneFields) (s : State) : Result :=
  laneRun (fun f => { shBoth 0x77 1 7 f with
      rnd := some (f.md.getLsbD 7 || stoOk f.fmt), bad := if f.md.toNat % 4 = 3 then some (9, f.md.toNat) else none })
    (fun x s =>
      let op := x.f.md.toNat % 4
      let excl := x.f.md.getLsbD 2
      let t := intTy x.f.fmt.toNat
      let ft := floatFmt x.f.fmt.toNat
      let isInt := x.sh.kind = .int
      let res :=
        if isInt then
          let g (a b : Int) : Int := if op = 0 then a + b else if op = 1 then min a b else max a b
          let identity : Int := if op = 0 then 0 else if op = 1 then intMax t else intMin t
          scanGo x (fun _ _ a v => ((g (intOf t a) (intOf t v.toNat) % 2 ^ t.width).toNat, 0)) excl
            (fun a => intBits t a) x.lanes (identity % 2 ^ t.width).toNat false false
        else
          let g (r : Rnd) (a b : Nat) : Nat × Flags :=
            if op = 0 then fAdd ft r a b else fMinMax (op == 2) ft r a b
          let identity := if op = 0 then packSign ft false 0 else infBits ft (op == 2)
          scanGo x (fun lane n a v => g (x.rounding lane n) a v.toNat) excl (fun a => BitVec.ofNat 64 a) x.lanes identity
            false false
      let taken := !isInt && op == 0 && x.mode == 5
      .ok (s.updCrew fun c =>
        let c := x.put (mapGet ⟨0, false, 0⟩ res) c
        if taken then x.mapExec (fun i l => l.drew (scanDraws x excl i)) c else c)) f s

/-! ## CMPX (R189) -/

/-- Zero or a power of two up to 64. -/
def isPow7 (n : Nat) : Bool := [1, 2, 4, 8, 16, 32, 64].contains n

/-- CMPX: integers under their type, floats by totalOrder, no flag (R189). -/
def execCmpx (f : LaneFields) (s : State) : Result :=
  laneRun (fun f => { shBoth 0x76 1 0 f with
      imm := some 0x7F7F
      bad := if isPow7 (f.imm.toNat % 128) && (f.imm.toNat / 256 % 128 == 0 || isPow7 (f.imm.toNat / 256 % 128))
        then none else some (10, f.imm.toNat) })
    (fun x s =>
      let m := x.f.imm.toNat % 128
      let dm := x.f.imm.toNat / 256 % 128
      let t := intTy x.f.fmt.toNat
      let isInt := x.sh.kind = .int
      let key (i : Nat) : Int :=
        if isInt then intOf t (x.val 0 i).toNat else totalKey (floatFmt x.f.fmt.toNat) (x.val 0 i).toNat
      let out (i : Nat) : DWord :=
        if isInt then intBits t (intOf t (x.val 0 i).toNat)
        else BitVec.ofNat 64 (cleanBits (floatFmt x.f.fmt.toNat) ((x.val 0 i).toNat % 2 ^ fmtWidth x.f.fmt.toNat))
      x.finish (fun i =>
        let j := i ^^^ m
        if 95 < j || !x.exec.getLsbD j then ⟨out i, x.poison 0 i, 0⟩
        else
          let least := ((i &&& m) == 0) == ((i &&& dm) == 0)
          let pickJ := if least then decide (key j < key i) else decide (key i < key j)
          ⟨out (if pickJ then j else i), x.poison 0 i || x.poison 0 j, 0⟩) s) f s

/-! ## Flags, hashes and check codes (R197, R198) -/

/-- FLRD (R197). -/
def execFlrd (f : LaneFields) (s : State) : Result :=
  laneRun (fun _ => { shMove 0x62 0 with idle := true })
    (plainLane fun x i _ _ _ => (x.c.lane i).flags.setWidth 64) f s

/-- FLCL: clears the mask bits in the executing lanes and in FSUM (R197). -/
def execFlcl (f : LaneFields) (s : State) : Result :=
  laneRun (fun _ => { Shape.bare 0x63 with imm := some 0x3F, idle := true })
    (fun x s => .ok (s.updCrew fun c =>
      let m : Flags := ~~~(x.f.imm.extractLsb' 0 6)
      { x.mapExec (fun _ l => { l with flags := l.flags &&& m }) c with fsum := c.fsum &&& m })) f s

/-- FLST: sets the flag words and ORs the bits into FSUM (R197). -/
def execFlst (f : LaneFields) (s : State) : Result :=
  laneRun (fun _ => { Shape.bare 0x64 with uses := 1, idle := true })
    (fun x s =>
      match x.poisonTrap x.lanes (fun _ => 0) [(0, 5)] with
      | some t => .trap t
      | none =>
        let v (i : Nat) : Flags := (x.val 0 i).extractLsb' 0 6
        .ok (s.updCrew fun c =>
          { x.mapExec (fun i l => { l with flags := v i }) c with
            fsum := x.lanes.foldl (fun fl i => fl ||| v i) c.fsum })) f s

/-- HASH (R198). -/
def execHash (f : LaneFields) (s : State) : Result :=
  laneRun (fun _ => shMove 0x74 3)
    (plainLane fun _ _ a b _ =>
      (mix32 (mix32 (a.extractLsb' 0 32 ^^^ b.extractLsb' 0 32) ^^^ a.extractLsb' 32 32)).setWidth 64) f s

/-- CRC: the CRC-32C register in a[31:0] over the low bytes of b (R198). -/
def execCrc (f : LaneFields) (s : State) : Result :=
  laneRun (fun _ => { shInt 0x75 3 0 with fmts := [1, 3, 5, 7] })
    (plainLane fun x _ a b _ =>
      (crcBytes (a.extractLsb' 0 32) (leBytes ((intTy x.f.fmt.toNat).width / 8) b.toNat)).setWidth 64) f s

/-! ## POIS and LBRK (R200) -/

/-- POIS: a poisoned zero, written and pushed (R200). -/
def execPois (f : LaneFields) (s : State) : Result :=
  laneRun (fun _ => shMove 0x82 0) (fun x s => x.finish (fun _ => ⟨0, true, 0⟩) s) f s

/-- LBRK: once its encoding is accepted, the breakpoint trap that resumes at the next entry (R200, R208; log entry 24). -/
def execLbrk (f : LaneFields) (s : State) : Result :=
  let sh : Shape := { Shape.bare 0x83 with imm := some 0xFFFFFFFF }
  let s := s.ensureHead 0x83 f
  match s.crew.laneQ with
  | [] => .next s
  | e :: _ =>
    match e.prefixTrap.or (sh.check s.settings.priv s.settings.det e.fmtr f) with
    | some t => .next (s.takeTrap t true false)
    | none => .next (s.takeTrap (laneInfo 0x14 0 f.imm.toNat) true true)

end Sys2Proof.Machine
end

