-- ==== Sys2Proof/Machine/ScalarArith.lean ====
section
/-! DEFINITION. Arithmetic, immediates, compares, shifts and bit fields of the scalar stream (R131, R141 to R145). No
word here waits or traps on a result. -/

namespace Sys2Proof.Machine

/-! ## Register arithmetic (R141) -/

/-- A word that sets sD to a function of sA and sB and is complete. -/
def State.alu (s : State) (d a b : RegNo) (f : Word → Word → Word) : Result := .next (s.write d (f (s.sreg a) (s.sreg b)))

/-- ADD (R141). -/
def execAdd (d a b : RegNo) (s : State) : Result := s.alu d a b fun x y => x + y
/-- SUB (R141). -/
def execSub (d a b : RegNo) (s : State) : Result := s.alu d a b fun x y => x - y
/-- MUL (R141). -/
def execMul (d a b : RegNo) (s : State) : Result := s.alu d a b fun x y => x * y

/-- Bits [63:32] of the 64-bit product (R141). -/
def mulHigh (u : Bool) (x y : Word) : Word :=
  if u then (x.setWidth 64 * y.setWidth 64).extractLsb' 32 32
  else (x.signExtend 64 * y.signExtend 64).extractLsb' 32 32

/-- MULH and MULH.u (R141). -/
def execMulh (d a b : RegNo) (u : BitVec 1) (s : State) : Result := s.alu d a b (mulHigh (u == 1))

/-- The quotient rounded toward zero; division by zero gives all ones (R141). -/
def divide (u : Bool) (x y : Word) : Word :=
  if y = 0 then 0xFFFFFFFF else if u then x / y else x.sdiv y

/-- DIV and DIV.u (R141). -/
def execDiv (d a b : RegNo) (u : BitVec 1) (s : State) : Result := s.alu d a b (divide (u == 1))
/-- AND (R141). -/
def execAndS (d a b : RegNo) (s : State) : Result := s.alu d a b fun x y => x &&& y
/-- OR (R141). -/
def execOrS (d a b : RegNo) (s : State) : Result := s.alu d a b fun x y => x ||| y
/-- XOR (R141). -/
def execXorS (d a b : RegNo) (s : State) : Result := s.alu d a b fun x y => x ^^^ y

/-! ## Immediates (R142) -/

/-- ADDI (R142). -/
def execAddi (d a : RegNo) (i : BitVec 16) (s : State) : Result := .next (s.write d (s.sreg a + i.signExtend 32))
/-- LI (R142). -/
def execLi (d : RegNo) (i : BitVec 21) (s : State) : Result := .next (s.write d (i.signExtend 32))
/-- LUI (R142). -/
def execLui (d : RegNo) (i : BitVec 16) (s : State) : Result :=
  .next (s.write d (i ++ (s.sreg d).extractLsb' 0 16))

/-! ## Compare and select (R143) -/

/-- The relation of a cond code, 0 to 5. -/
def relHolds (c : BitVec 3) (u : Bool) (x y : Word) : Bool :=
  let lt := if u then x.ult y else x.slt y
  match c.toNat with
  | 0 => x == y
  | 1 => x != y
  | 2 => lt
  | 3 => lt || x == y
  | 4 => !lt && x != y
  | _ => !lt

/-- The crew with scalar predicate n set to a truth value. -/
def Crew.setSp (c : Crew) (n : BitVec 3) (v : Bool) : Crew :=
  let bit : BitVec 8 := 1 <<< n.toNat
  { c with sp := if v then c.sp ||| bit else c.sp &&& ~~~bit }

/-- CMP: cond 6 and 7 are illegal; with D = s0 only the predicate is kept (R143). -/
def execCmp (d a b : RegNo) (n : BitVec 3) (u : BitVec 1) (c : BitVec 3) (s : State) : Result :=
  if 6 ≤ c then .next (s.illegal 9 (16 * n.toNat + 8 * u.toNat + c.toNat))
  else
    let t := relHolds c (u == 1) (s.sreg a) (s.sreg b)
    .next ((s.updCrew fun cr => cr.setSp n t).write d (Word.ofBool t))

/-- SEL (R143). -/
def execSel (d a b : RegNo) (n : BitVec 3) (s : State) : Result :=
  .next (s.write d (if s.crew.sp.getLsbD n.toNat then s.sreg a else s.sreg b))

/-! ## Shifts (R144) -/

/-- A shift by sB[4:0]. -/
def State.shiftReg (s : State) (d a b : RegNo) (f : Word → Nat → Word) : Result :=
  .next (s.write d (f (s.sreg a) ((s.sreg b).extractLsb' 0 5).toNat))
/-- A shift by an immediate amount. -/
def State.shiftImm (s : State) (d a : RegNo) (n : BitVec 5) (f : Word → Nat → Word) : Result :=
  .next (s.write d (f (s.sreg a) n.toNat))

/-- SHL (R144). -/
def execShl (d a b : RegNo) (s : State) : Result := s.shiftReg d a b fun x n => x <<< n
/-- SHL by an immediate (R144). -/
def execShlImm (d a : RegNo) (n : BitVec 5) (s : State) : Result := s.shiftImm d a n fun x k => x <<< k
/-- SHR (R144). -/
def execShr (d a b : RegNo) (s : State) : Result := s.shiftReg d a b fun x n => x >>> n
/-- SHR by an immediate (R144). -/
def execShrImm (d a : RegNo) (n : BitVec 5) (s : State) : Result := s.shiftImm d a n fun x k => x >>> k
/-- SRA (R144). -/
def execSra (d a b : RegNo) (s : State) : Result := s.shiftReg d a b fun x n => x.sshiftRight n
/-- SRA by an immediate (R144). -/
def execSraImm (d a : RegNo) (n : BitVec 5) (s : State) : Result := s.shiftImm d a n fun x k => x.sshiftRight k
/-- ROL (R144). -/
def execRol (d a b : RegNo) (s : State) : Result := s.shiftReg d a b fun x n => x.rotateLeft n
/-- ROL by an immediate (R144). -/
def execRolImm (d a : RegNo) (n : BitVec 5) (s : State) : Result := s.shiftImm d a n fun x k => x.rotateLeft k
/-- ROR (R144). -/
def execRor (d a b : RegNo) (s : State) : Result := s.shiftReg d a b fun x n => x.rotateRight n
/-- ROR by an immediate (R144). -/
def execRorImm (d a : RegNo) (n : BitVec 5) (s : State) : Result := s.shiftImm d a n fun x k => x.rotateRight k

/-! ## Bit fields (R145) -/

/-- pos and the length that the field has within the word: sB[4:0], and sB[13:8] up to bit 31. -/
def wordField (y : Word) : Nat × Nat :=
  let pos := (y.extractLsb' 0 5).toNat
  (pos, min (y.extractLsb' 8 6).toNat (32 - pos))

/-- BFX of a word. -/
def wordExtract (signed : Bool) (x y : Word) : Word :=
  let (pos, len) := wordField y
  let v := x >>> pos &&& BitVec.ofNat 32 (2 ^ len - 1)
  if signed && len != 0 && v.getLsbD (len - 1) then v ||| ~~~BitVec.ofNat 32 (2 ^ len - 1) else v

/-- BFI of a word into old. -/
def wordInsert (old x y : Word) : Word :=
  let (pos, len) := wordField y
  let m : Word := BitVec.ofNat 32 (2 ^ len - 1) <<< pos
  (old &&& ~~~m) ||| (x <<< pos &&& m)

/-- Leading zeros of the low n bits. -/
def countLead (x : Word) : Nat → Nat
  | 0 => 0
  | n + 1 => if x.getLsbD n then 0 else countLead x n + 1

/-- Set bits of the low n bits. -/
def countOnes (x : Word) : Nat → Nat
  | 0 => 0
  | n + 1 => countOnes x n + (x.getLsbD n).toNat

/-- BFX and BFX.i32 (R145). -/
def execBfx (d a b : RegNo) (sg : BitVec 1) (s : State) : Result := s.alu d a b (wordExtract (sg == 1))
/-- BFI (R145). -/
def execBfi (d a b : RegNo) (s : State) : Result :=
  .next (s.write d (wordInsert (s.sreg d) (s.sreg a) (s.sreg b)))
/-- CLZ (R145). -/
def execClz (d a : RegNo) (s : State) : Result := .next (s.write d (BitVec.ofNat 32 (countLead (s.sreg a) 32)))
/-- POPC (R145). -/
def execPopc (d a : RegNo) (s : State) : Result := .next (s.write d (BitVec.ofNat 32 (countOnes (s.sreg a) 32)))
/-- BREV (R145). -/
def execBrev (d a : RegNo) (s : State) : Result := .next (s.write d (s.sreg a).reverse)

end Sys2Proof.Machine
end

