-- ==== Sys2Proof/Machine/Dispatch.lean ====
section
/-! DEFINITION. The meaning of every operation: one arm for each constructor of Instr, each a direct call of that
operation's own definition. -/

namespace Sys2Proof.Machine

/-- What an operation does to the package. -/
def exec (i : Instr) (s : State) : Host.Outcome State Fault Refusal :=
  match i with
  | .nop => Sys2Proof.Machine.execNop s
  | .nopHint k n => Sys2Proof.Machine.execNopHint k n s
  | .br o => Sys2Proof.Machine.execBr o s
  | .brc c p o => Sys2Proof.Machine.execBrc c p o s
  | .bspl c a o => Sys2Proof.Machine.execBspl c a o s
  | .join => Sys2Proof.Machine.execJoin s
  | .call o => Sys2Proof.Machine.execCall o s
  | .ret a => Sys2Proof.Machine.execRet a s
  | .yield => Sys2Proof.Machine.execYield s
  | .yieldSeq a q => Sys2Proof.Machine.execYieldSeq a q s
  | .yieldJn => Sys2Proof.Machine.execYieldJn s
  | .yieldTime a => Sys2Proof.Machine.execYieldTime a s
  | .exit a => Sys2Proof.Machine.execExit a s
  | .trap ii => Sys2Proof.Machine.execTrap ii s
  | .eret => Sys2Proof.Machine.execEret s
  | .add d a b => Sys2Proof.Machine.execAdd d a b s
  | .sub d a b => Sys2Proof.Machine.execSub d a b s
  | .mul d a b => Sys2Proof.Machine.execMul d a b s
  | .mulh d a b u => Sys2Proof.Machine.execMulh d a b u s
  | .div d a b u => Sys2Proof.Machine.execDiv d a b u s
  | .andS d a b => Sys2Proof.Machine.execAndS d a b s
  | .orS d a b => Sys2Proof.Machine.execOrS d a b s
  | .xorS d a b => Sys2Proof.Machine.execXorS d a b s
  | .shl d a b => Sys2Proof.Machine.execShl d a b s
  | .shlImm d a n => Sys2Proof.Machine.execShlImm d a n s
  | .shr d a b => Sys2Proof.Machine.execShr d a b s
  | .shrImm d a n => Sys2Proof.Machine.execShrImm d a n s
  | .sra d a b => Sys2Proof.Machine.execSra d a b s
  | .sraImm d a n => Sys2Proof.Machine.execSraImm d a n s
  | .rol d a b => Sys2Proof.Machine.execRol d a b s
  | .rolImm d a n => Sys2Proof.Machine.execRolImm d a n s
  | .ror d a b => Sys2Proof.Machine.execRor d a b s
  | .rorImm d a n => Sys2Proof.Machine.execRorImm d a n s
  | .cmp d a b n u c => Sys2Proof.Machine.execCmp d a b n u c s
  | .sel d a b n => Sys2Proof.Machine.execSel d a b n s
  | .addi d a ii => Sys2Proof.Machine.execAddi d a ii s
  | .li d ii => Sys2Proof.Machine.execLi d ii s
  | .lui d ii => Sys2Proof.Machine.execLui d ii s
  | .bfx d a b sc => Sys2Proof.Machine.execBfx d a b sc s
  | .bfi d a b => Sys2Proof.Machine.execBfi d a b s
  | .clz d a => Sys2Proof.Machine.execClz d a s
  | .popc d a => Sys2Proof.Machine.execPopc d a s
  | .brev d a => Sys2Proof.Machine.execBrev d a s
  | .fxck m => Sys2Proof.Machine.execFxck m s
  | .sld d a ii => Sys2Proof.Machine.execSld d a ii s
  | .sst d a ii => Sys2Proof.Machine.execSst d a ii s
  | .satm d a b sc w o => Sys2Proof.Machine.execSatm d a b sc w o s
  | .lrun a n => Sys2Proof.Machine.execLrun a n s
  | .ljmp o => Sys2Proof.Machine.execLjmp o s
  | .movmRead d b => Sys2Proof.Machine.execMovmRead d b s
  | .movmWrite a b => Sys2Proof.Machine.execMovmWrite a b s
  | .movmPred d n b => Sys2Proof.Machine.execMovmPred d n b s
  | .fmts d a => Sys2Proof.Machine.execFmts d a s
  | .fmtsRead d => Sys2Proof.Machine.execFmtsRead d s
  | .rdrd d a => Sys2Proof.Machine.execRdrd d a s
  | .bar n => Sys2Proof.Machine.execBar n s
  | .acqX a => Sys2Proof.Machine.execAcqX a s
  | .acqS a => Sys2Proof.Machine.execAcqS a s
  | .acqW a b => Sys2Proof.Machine.execAcqW a b s
  | .rel a => Sys2Proof.Machine.execRel a s
  | .fence sc => Sys2Proof.Machine.execFence sc s
  | .fenceFlush => Sys2Proof.Machine.execFenceFlush s
  | .qfnc m => Sys2Proof.Machine.execQfnc m s
  | .xfnc => Sys2Proof.Machine.execXfnc s
  | .wseq a q => Sys2Proof.Machine.execWseq a q s
  | .cpy d a b q e sc => Sys2Proof.Machine.execCpy d a b q e sc s
  | .tcpy d a q => Sys2Proof.Machine.execTcpy d a q s
  | .dcpy d a q => Sys2Proof.Machine.execDcpy d a q s
  | .ttsk d a => Sys2Proof.Machine.execTtsk d a s
  | .cainf d a => Sys2Proof.Machine.execCainf d a s
  | .cainfLive d a => Sys2Proof.Machine.execCainfLive d a s
  | .catrn d a => Sys2Proof.Machine.execCatrn d a s
  | .camovLoad d a p => Sys2Proof.Machine.execCamovLoad d a p s
  | .camovStore d a p => Sys2Proof.Machine.execCamovStore d a p s
  | .glch d a => Sys2Proof.Machine.execGlch d a s
  | .spwn d a => Sys2Proof.Machine.execSpwn d a s
  | .jnwt d => Sys2Proof.Machine.execJnwt d s
  | .gctlStatus d a => Sys2Proof.Machine.execGctlStatus d a s
  | .gctlLeft d a => Sys2Proof.Machine.execGctlLeft d a s
  | .gctlNode d a b => Sys2Proof.Machine.execGctlNode d a b s
  | .gctlFree d a => Sys2Proof.Machine.execGctlFree d a s
  | .gctlWait d a => Sys2Proof.Machine.execGctlWait d a s
  | .xmemLd d a w => Sys2Proof.Machine.execXmemLd d a w s
  | .xmemSt a b w => Sys2Proof.Machine.execXmemSt a b w s
  | .xatm d a b sc w o => Sys2Proof.Machine.execXatm d a b sc w o s
  | .xput d a => Sys2Proof.Machine.execXput d a s
  | .coll d a n k => Sys2Proof.Machine.execColl d a n k s
  | .lnkStat d a => Sys2Proof.Machine.execLnkStat d a s
  | .lnkSq d a => Sys2Proof.Machine.execLnkSq d a s
  | .lnkRls d a => Sys2Proof.Machine.execLnkRls d a s
  | .lnkSlot d a b => Sys2Proof.Machine.execLnkSlot d a b s
  | .lnkWait d a b => Sys2Proof.Machine.execLnkWait d a b s
  | .heat d sc => Sys2Proof.Machine.execHeat d sc s
  | .heatCkpt d a => Sys2Proof.Machine.execHeatCkpt d a s
  | .csrRd d n => Sys2Proof.Machine.execCsrRd d n s
  | .csrWr d a n => Sys2Proof.Machine.execCsrWr d a n s
  | .fsumRead d => Sys2Proof.Machine.execFsumRead d s
  | .fsumWrite d a => Sys2Proof.Machine.execFsumWrite d a s
  | .sppWrite d a => Sys2Proof.Machine.execSppWrite d a s
  | .asyncfWrite d a => Sys2Proof.Machine.execAsyncfWrite d a s
  | .trapspcWrite d a => Sys2Proof.Machine.execTrapspcWrite d a s
  | .traplpcWrite d a => Sys2Proof.Machine.execTraplpcWrite d a s
  | .qtailWrite n d a => Sys2Proof.Machine.execQtailWrite n d a s
  | .bndcmdBind d a => Sys2Proof.Machine.execBndcmdBind d a s
  | .bndcmdUnbind d a => Sys2Proof.Machine.execBndcmdUnbind d a s
  | .lnop f => Sys2Proof.Machine.execLnop f s
  | .rep f => Sys2Proof.Machine.execRep f s
  | .iadd f => Sys2Proof.Machine.execIadd f s
  | .isub f => Sys2Proof.Machine.execIsub f s
  | .imul f => Sys2Proof.Machine.execImul f s
  | .imulh f => Sys2Proof.Machine.execImulh f s
  | .imad f => Sys2Proof.Machine.execImad f s
  | .idiv f => Sys2Proof.Machine.execIdiv f s
  | .imin f => Sys2Proof.Machine.execImin f s
  | .imax f => Sys2Proof.Machine.execImax f s
  | .iabs f => Sys2Proof.Machine.execIabs f s
  | .andLane f => Sys2Proof.Machine.execAndLane f s
  | .orLane f => Sys2Proof.Machine.execOrLane f s
  | .xorLane f => Sys2Proof.Machine.execXorLane f s
  | .lop3 f => Sys2Proof.Machine.execLop3 f s
  | .shlLane f => Sys2Proof.Machine.execShlLane f s
  | .shrLane f => Sys2Proof.Machine.execShrLane f s
  | .sraLane f => Sys2Proof.Machine.execSraLane f s
  | .rot f => Sys2Proof.Machine.execRot f s
  | .popcLane f => Sys2Proof.Machine.execPopcLane f s
  | .clzLane f => Sys2Proof.Machine.execClzLane f s
  | .bfxLane f => Sys2Proof.Machine.execBfxLane f s
  | .bfiLane f => Sys2Proof.Machine.execBfiLane f s
  | .icmp f => Sys2Proof.Machine.execIcmp f s
  | .isad f => Sys2Proof.Machine.execIsad f s
  | .mulw f => Sys2Proof.Machine.execMulw f s
  | .addc f => Sys2Proof.Machine.execAddc f s
  | .mov f => Sys2Proof.Machine.execMov f s
  | .movi f => Sys2Proof.Machine.execMovi f s
  | .selLane f => Sys2Proof.Machine.execSelLane f s
  | .lspc f => Sys2Proof.Machine.execLspc f s
  | .ldc f => Sys2Proof.Machine.execLdc f s
  | .pmov f => Sys2Proof.Machine.execPmov f s
  | .prmt f => Sys2Proof.Machine.execPrmt f s
  | .shfl f => Sys2Proof.Machine.execShfl f s
  | .bcst f => Sys2Proof.Machine.execBcst f s
  | .lrot f => Sys2Proof.Machine.execLrot f s
  | .vote f => Sys2Proof.Machine.execVote f s
  | .plop f => Sys2Proof.Machine.execPlop f s
  | .fadd f => Sys2Proof.Machine.execFadd f s
  | .fsub f => Sys2Proof.Machine.execFsub f s
  | .fmul f => Sys2Proof.Machine.execFmul f s
  | .ffma f => Sys2Proof.Machine.execFfma f s
  | .fmin f => Sys2Proof.Machine.execFmin f s
  | .fmax f => Sys2Proof.Machine.execFmax f s
  | .fcmp f => Sys2Proof.Machine.execFcmp f s
  | .fcls f => Sys2Proof.Machine.execFcls f s
  | .frnd f => Sys2Proof.Machine.execFrnd f s
  | .fscl f => Sys2Proof.Machine.execFscl f s
  | .fgex f => Sys2Proof.Machine.execFgex f s
  | .frem f => Sys2Proof.Machine.execFrem f s
  | .fnxt f => Sys2Proof.Machine.execFnxt f s
  | .fadd3 f => Sys2Proof.Machine.execFadd3 f s
  | .fspl f => Sys2Proof.Machine.execFspl f s
  | .fcps f => Sys2Proof.Machine.execFcps f s
  | .fdiv f => Sys2Proof.Machine.execFdiv f s
  | .fsqrt f => Sys2Proof.Machine.execFsqrt f s
  | .frsq f => Sys2Proof.Machine.execFrsq f s
  | .frcp f => Sys2Proof.Machine.execFrcp f s
  | .fexp f => Sys2Proof.Machine.execFexp f s
  | .fexp2 f => Sys2Proof.Machine.execFexp2 f s
  | .flog f => Sys2Proof.Machine.execFlog f s
  | .flog2 f => Sys2Proof.Machine.execFlog2 f s
  | .fsin f => Sys2Proof.Machine.execFsin f s
  | .fcos f => Sys2Proof.Machine.execFcos f s
  | .ftanh f => Sys2Proof.Machine.execFtanh f s
  | .fsigm f => Sys2Proof.Machine.execFsigm f s
  | .ferf f => Sys2Proof.Machine.execFerf f s
  | .fpow f => Sys2Proof.Machine.execFpow f s
  | .fatan f => Sys2Proof.Machine.execFatan f s
  | .fhyp f => Sys2Proof.Machine.execFhyp f s
  | .dot2 f => Sys2Proof.Machine.execDot2 f s
  | .dot4 f => Sys2Proof.Machine.execDot4 f s
  | .dot8 f => Sys2Proof.Machine.execDot8 f s
  | .fdot2 f => Sys2Proof.Machine.execFdot2 f s
  | .hadd2 f => Sys2Proof.Machine.execHadd2 f s
  | .hmul2 f => Sys2Proof.Machine.execHmul2 f s
  | .hfma2 f => Sys2Proof.Machine.execHfma2 f s
  | .hmnx2 f => Sys2Proof.Machine.execHmnx2 f s
  | .cvtf f => Sys2Proof.Machine.execCvtf f s
  | .cvfi f => Sys2Proof.Machine.execCvfi f s
  | .cvif f => Sys2Proof.Machine.execCvif f s
  | .cvii f => Sys2Proof.Machine.execCvii f s
  | .cvts f => Sys2Proof.Machine.execCvts f s
  | .pack f => Sys2Proof.Machine.execPack f s
  | .unpk f => Sys2Proof.Machine.execUnpk f s
  | .tdec f => Sys2Proof.Machine.execTdec f s
  | .tenc f => Sys2Proof.Machine.execTenc f s
  | .qnt f => Sys2Proof.Machine.execQnt f s
  | .dqnt f => Sys2Proof.Machine.execDqnt f s
  | .lrnd f => Sys2Proof.Machine.execLrnd f s
  | .radd f => Sys2Proof.Machine.execRadd f s
  | .rmin f => Sys2Proof.Machine.execRmin f s
  | .rmax f => Sys2Proof.Machine.execRmax f s
  | .rand f => Sys2Proof.Machine.execRand f s
  | .rior f => Sys2Proof.Machine.execRior f s
  | .rxor f => Sys2Proof.Machine.execRxor f s
  | .rcnt f => Sys2Proof.Machine.execRcnt f s
  | .rarg f => Sys2Proof.Machine.execRarg f s
  | .scan f => Sys2Proof.Machine.execScan f s
  | .cmpx f => Sys2Proof.Machine.execCmpx f s
  | .ldb f => Sys2Proof.Machine.execLdb f s
  | .stb f => Sys2Proof.Machine.execStb f s
  | .lds f => Sys2Proof.Machine.execLds f s
  | .sts f => Sys2Proof.Machine.execSts f s
  | .ldsr f => Sys2Proof.Machine.execLdsr f s
  | .stsr f => Sys2Proof.Machine.execStsr f s
  | .ldsb f => Sys2Proof.Machine.execLdsb f s
  | .pushv f => Sys2Proof.Machine.execPushv f s
  | .popv f => Sys2Proof.Machine.execPopv f s
  | .atb f => Sys2Proof.Machine.execAtb f s
  | .casb f => Sys2Proof.Machine.execCasb f s
  | .ats f => Sys2Proof.Machine.execAts f s
  | .cass f => Sys2Proof.Machine.execCass f s
  | .atf f => Sys2Proof.Machine.execAtf f s
  | .flrd f => Sys2Proof.Machine.execFlrd f s
  | .flcl f => Sys2Proof.Machine.execFlcl f s
  | .flst f => Sys2Proof.Machine.execFlst f s
  | .hash f => Sys2Proof.Machine.execHash f s
  | .crc f => Sys2Proof.Machine.execCrc f s
  | .lsav f => Sys2Proof.Machine.execLsav f s
  | .lrst f => Sys2Proof.Machine.execLrst f s
  | .pois f => Sys2Proof.Machine.execPois f s
  | .lbrk f => Sys2Proof.Machine.execLbrk f s
  | .lda f => Sys2Proof.Machine.execLda f s
  | .ldaStatus f => Sys2Proof.Machine.execLdaStatus f s
  | .sta f => Sys2Proof.Machine.execSta f s
  | .staStatus f => Sys2Proof.Machine.execStaStatus f s
  | .sclw f => Sys2Proof.Machine.execSclw f s
  | .idxw f => Sys2Proof.Machine.execIdxw f s
  | .litp f => Sys2Proof.Machine.execLitp f s
  | .cavr f => Sys2Proof.Machine.execCavr f s
  | .cacl f => Sys2Proof.Machine.execCacl f s
  | .cawd f => Sys2Proof.Machine.execCawd f s
  | .longLatencyArrival slot lane => Sys2Proof.Machine.execLongLatencyArrival slot lane s
  | .laneTrap t => Sys2Proof.Machine.execLaneTrap t s
  | .scalarTrap t => Sys2Proof.Machine.execScalarTrap t s
  | .crewTermination status => Sys2Proof.Machine.execCrewTermination status s
  | .registerEccError slot row lane => Sys2Proof.Machine.execRegisterEccError slot row lane s
  | .memoryEccError spad granule => Sys2Proof.Machine.execMemoryEccError spad granule s
  | .blockPlacement core => Sys2Proof.Machine.execBlockPlacement core s
  | .copyEntryStart part core q => Sys2Proof.Machine.execCopyEntryStart part core q s
  | .copyEntryComplete part core q => Sys2Proof.Machine.execCopyEntryComplete part core q s
  | .copyEntryResume part core q => Sys2Proof.Machine.execCopyEntryResume part core q s
  | .copyEntryRetire part core q => Sys2Proof.Machine.execCopyEntryRetire part core q s
  | .mtsTaskStart part core q => Sys2Proof.Machine.execMtsTaskStart part core q s
  | .tileKStep core mismatch => Sys2Proof.Machine.execTileKStep core mismatch s
  | .tileTaskComplete core => Sys2Proof.Machine.execTileTaskComplete core s
  | .tileTaskResume part core q ticket => Sys2Proof.Machine.execTileTaskResume part core q ticket s
  | .tileTaskRetire part core q ticket => Sys2Proof.Machine.execTileTaskRetire part core q ticket s
  | .clauseEntryStart core => Sys2Proof.Machine.execClauseEntryStart core s
  | .trainingStep core => Sys2Proof.Machine.execTrainingStep core s
  | .inferenceSample core k => Sys2Proof.Machine.execInferenceSample core k s
  | .camovOperation core => Sys2Proof.Machine.execCamovOperation core s
  | .clauseEntryComplete core => Sys2Proof.Machine.execClauseEntryComplete core s
  | .clauseEntryRetire core => Sys2Proof.Machine.execClauseEntryRetire core s
  | .clauseGranuleAccess core => Sys2Proof.Machine.execClauseGranuleAccess core s
  | .cellSoftError core word correctable left => Sys2Proof.Machine.execCellSoftError core word correctable left s
  | .graphLoadComplete part handle => Sys2Proof.Machine.execGraphLoadComplete part handle s
  | .token die => Sys2Proof.Machine.execToken die s
  | .nodeDone part handle node => Sys2Proof.Machine.execNodeDone part handle node s
  | .nodeEnterBank part handle node => Sys2Proof.Machine.execNodeEnterBank part handle node s
  | .prefetchFill core => Sys2Proof.Machine.execPrefetchFill core s
  | .tquAging die part index => Sys2Proof.Machine.execTquAging die part index s
  | .engineNodeIssue part handle node => Sys2Proof.Machine.execEngineNodeIssue part handle node s
  | .graphEnd part handle => Sys2Proof.Machine.execGraphEnd part handle s
  | .nodeFault part handle node cause ticket => Sys2Proof.Machine.execNodeFault part handle node cause ticket s
  | .coneVisit part handle head => Sys2Proof.Machine.execConeVisit part handle head s
  | .crewStop slot head => Sys2Proof.Machine.execCrewStop slot head s
  | .coneResolve part handle => Sys2Proof.Machine.execConeResolve part handle s
  | .headRelease part handle node => Sys2Proof.Machine.execHeadRelease part handle node s
  | .rotorSlotStart => Sys2Proof.Machine.execRotorSlotStart s
  | .linkControl fibre width space ack => Sys2Proof.Machine.execLinkControl fibre width space ack s
  | .idleLinkControl fibre => Sys2Proof.Machine.execIdleLinkControl fibre s
  | .flitEgress => Sys2Proof.Machine.execFlitEgress s
  | .flitSend fibre => Sys2Proof.Machine.execFlitSend fibre s
  | .vcStarvation fibre vc => Sys2Proof.Machine.execVcStarvation fibre vc s
  | .flitReceive fibre x => Sys2Proof.Machine.execFlitReceive fibre x s
  | .lightEnd => Sys2Proof.Machine.execLightEnd s
  | .squareStart group => Sys2Proof.Machine.execSquareStart group s
  | .widthHandshake group => Sys2Proof.Machine.execWidthHandshake group s
  | .squareComplete group => Sys2Proof.Machine.execSquareComplete group s
  | .featherStart group => Sys2Proof.Machine.execFeatherStart group s
  | .featherPark group => Sys2Proof.Machine.execFeatherPark group s
  | .readRequest p => Sys2Proof.Machine.execReadRequest p s
  | .writeRequest p => Sys2Proof.Machine.execWriteRequest p s
  | .atomicRequest p => Sys2Proof.Machine.execAtomicRequest p s
  | .xputData p => Sys2Proof.Machine.execXputData p s
  | .collectiveData p => Sys2Proof.Machine.execCollectiveData p s
  | .forwardedRequest p => Sys2Proof.Machine.execForwardedRequest p s
  | .probe p => Sys2Proof.Machine.execProbe p s
  | .readResponse p => Sys2Proof.Machine.execReadResponse p s
  | .writeAck p => Sys2Proof.Machine.execWriteAck p s
  | .atomicResponse p => Sys2Proof.Machine.execAtomicResponse p s
  | .xputAck p => Sys2Proof.Machine.execXputAck p s
  | .collectiveAck p => Sys2Proof.Machine.execCollectiveAck p s
  | .busy p => Sys2Proof.Machine.execBusy p s
  | .busyRetry reqid => Sys2Proof.Machine.execBusyRetry reqid s
  | .progressReport p => Sys2Proof.Machine.execProgressReport p s
  | .poisonedResponse p => Sys2Proof.Machine.execPoisonedResponse p s
  | .requestProbeTimer reqid => Sys2Proof.Machine.execRequestProbeTimer reqid s
  | .requestTimeout reqid => Sys2Proof.Machine.execRequestTimeout reqid s
  | .heldRequestPerform => Sys2Proof.Machine.execHeldRequestPerform s
  | .xqEntryStart part core => Sys2Proof.Machine.execXqEntryStart part core s
  | .xqEntryComplete part core => Sys2Proof.Machine.execXqEntryComplete part core s
  | .xqEntryResume part core => Sys2Proof.Machine.execXqEntryResume part core s
  | .xqEntryRetire part core => Sys2Proof.Machine.execXqEntryRetire part core s
  | .ptpMessage fibre x stamp => Sys2Proof.Machine.execPtpMessage fibre x stamp s
  | .timeServoCorrection offset step fraction => Sys2Proof.Machine.execTimeServoCorrection offset step fraction s
  | .heatSheetPublish e => Sys2Proof.Machine.execHeatSheetPublish e s
  | .heatSheetEntry e => Sys2Proof.Machine.execHeatSheetEntry e s
  | .ack peer heat seq => Sys2Proof.Machine.execAck peer heat seq s
  | .nak peer heat seq reason => Sys2Proof.Machine.execNak peer heat seq reason s
  | .commit sender heat seq => Sys2Proof.Machine.execCommit sender heat seq s
  | .heatStart seq => Sys2Proof.Machine.execHeatStart seq s
  | .heartbeatSend => Sys2Proof.Machine.execHeartbeatSend s
  | .heartbeat peer epoch fromStarter => Sys2Proof.Machine.execHeartbeat peer epoch fromStarter s
  | .heartbeatLoss => Sys2Proof.Machine.execHeartbeatLoss s
  | .candidacy epoch priority peer => Sys2Proof.Machine.execCandidacy epoch priority peer s
  | .electionTimer => Sys2Proof.Machine.execElectionTimer s
  | .electionResult epoch priority peer => Sys2Proof.Machine.execElectionResult epoch priority peer s
  | .memberFailureReport heat failed detail => Sys2Proof.Machine.execMemberFailureReport heat failed detail s
  | .entryRequest peer seq => Sys2Proof.Machine.execEntryRequest peer seq s
  | .abort seq => Sys2Proof.Machine.execAbort seq s
  | .catchCore core part => Sys2Proof.Machine.execCatchCore core part s
  | .deadlineReset core part => Sys2Proof.Machine.execDeadlineReset core part s
  | .save core part => Sys2Proof.Machine.execSave core part s
  | .drainAndTag core part => Sys2Proof.Machine.execDrainAndTag core part s
  | .parkedResponse p => Sys2Proof.Machine.execParkedResponse p s
  | .switchRestore core part seq => Sys2Proof.Machine.execSwitchRestore core part seq s
  | .freshStart part j more => Sys2Proof.Machine.execFreshStart part j more s
  | .switchStart core part => Sys2Proof.Machine.execSwitchStart core part s
  | .sprintGrantRecord g => Sys2Proof.Machine.execSprintGrantRecord g s
  | .sprintGrant core => Sys2Proof.Machine.execSprintGrant core s
  | .accumulatorDrain core => Sys2Proof.Machine.execAccumulatorDrain core s
  | .sprintStart core => Sys2Proof.Machine.execSprintStart core s
  | .sprintLimit => Sys2Proof.Machine.execSprintLimit s
  | .sprintEnd core => Sys2Proof.Machine.execSprintEnd core s
  | .sprintRequest g => Sys2Proof.Machine.execSprintRequest g s
  | .translationWalk part va => Sys2Proof.Machine.execTranslationWalk part va s
  | .translationInvalidate part troot lo hi => Sys2Proof.Machine.execTranslationInvalidate part troot lo hi s
  | .partitionCreate part q => Sys2Proof.Machine.execPartitionCreate part q s
  | .partitionTakedown part => Sys2Proof.Machine.execPartitionTakedown part s
  | .arrayAssign core part => Sys2Proof.Machine.execArrayAssign core part s
  | .pinnedTileAssign core part => Sys2Proof.Machine.execPinnedTileAssign core part s
  | .copyOnWrite part unit => Sys2Proof.Machine.execCopyOnWrite part unit s
  | .copyOnWriteTimeout part unit => Sys2Proof.Machine.execCopyOnWriteTimeout part unit s
  | .checkpointComplete job => Sys2Proof.Machine.execCheckpointComplete job s
  | .checkpointFail job cause => Sys2Proof.Machine.execCheckpointFail job cause s
  | .checkpointTimeout job => Sys2Proof.Machine.execCheckpointTimeout job s
  | .restore job part held => Sys2Proof.Machine.execRestore job part held s
  | .replay job part => Sys2Proof.Machine.execReplay job part s
  | .stepBack job slot clock => Sys2Proof.Machine.execStepBack job slot clock s
  | .freezeN => Sys2Proof.Machine.execFreezeN s
  | .tapRead target address => Sys2Proof.Machine.execTapRead target address s
  | .coldReset cause => Sys2Proof.Machine.execColdReset cause s
  | .stageComplete => Sys2Proof.Machine.execStageComplete s
  | .stageFailure code => Sys2Proof.Machine.execStageFailure code s
  | .measurementExtend index digest => Sys2Proof.Machine.execMeasurementExtend index digest s
  | .attestationReport nonce => Sys2Proof.Machine.execAttestationReport nonce s
  | .clearAndRestart => Sys2Proof.Machine.execClearAndRestart s
  | .basicRegisterWrite block value => Sys2Proof.Machine.execBasicRegisterWrite block value s
  | .expertRegisterWrite block reg value => Sys2Proof.Machine.execExpertRegisterWrite block reg value s
  | .expertWriteEffect block => Sys2Proof.Machine.execExpertWriteEffect block s
  | .islandLevelChange island level => Sys2Proof.Machine.execIslandLevelChange island level s
  | .preStartRaise core => Sys2Proof.Machine.execPreStartRaise core s
  | .powerSample => Sys2Proof.Machine.execPowerSample s
  | .powerTrip => Sys2Proof.Machine.execPowerTrip s
  | .timeWake slot split => Sys2Proof.Machine.execTimeWake slot split s
  | .lightStart => Sys2Proof.Machine.execLightStart s
  | .setupEnd fibre => Sys2Proof.Machine.execSetupEnd fibre s
  | .memberHeartbeatMissed peer => Sys2Proof.Machine.execMemberHeartbeatMissed peer s
  | .cxlMemAccess part write offset data => Sys2Proof.Machine.execCxlMemAccess part write offset data s

end Sys2Proof.Machine
end

