-- ==== Sys2Proof/Machine/HostAccess.lean ====
section
/-! DEFINITION. What the host die does by its privileged path: accesses to all HBM and to every scratchpad row, reads of
control blocks, the peer and window tables, the time messages (R10, R343, R346, R347, R363, R370). -/

namespace Sys2Proof.Machine

/-! ## HBM and scratchpads (R10) -/

/-- The place of an absolute HBM byte: of the partition that owns it, or of a reserved band (R409, R410). -/
def State.hostSpot (s : State) (a : Nat) : Spot :=
  let ch := a / 2 ^ 31
  let b := a % 2 ^ 31
  match s.parts.find? fun p => p.2.sets.contains (ch / 8) with
  | some p =>
    let chs := p.2.channels
    match chs.findIdx? (· == ch) with
    | some i => if b < s.boot.band then .hbm p.1 ((b / 256 * chs.length + i) * 256 + b % 256) else .mem .hbm a
    | none => .mem .hbm a
  | none => .mem .hbm a

/-- The place of a byte that the host die names. -/
def State.hostPlace (s : State) (spad : Bool) (a : Nat) : Spot := if spad then .mem .spad a else s.hostSpot a

/-- Whether n bytes that the host die names exist: in the 256 MiB of scratchpad or in the 768 GiB of HBM, which is untrained
in minimal mode (R430). -/
def State.hostReaches (s : State) (spad : Bool) (a n : Nat) : Bool :=
  decide (a + n ≤ if spad then 4 * 2 ^ 26 else 384 * 2 ^ 31) && !s.boot.minimal

/-- Bytes written by the host die, a granule at a time; k bounds the granules. -/
def State.hostPut (s : State) (spad : Bool) : Nat → Nat → List Byte → State
  | 0, _, _ => s
  | k + 1, a, bs =>
    if bs.isEmpty then s
    else
      let n := 64 - a % 64
      (s.spotWrite (s.hostPlace spad a) (clean (bs.take n))).hostPut spad k (a + n) (bs.drop n)

/-- n bytes as the host die reads them. -/
def State.hostRead (s : State) (spad : Bool) (a n : Nat) : List Byte :=
  (List.range n).map fun i => s.spotByte (s.hostPlace spad (a + i))

/-- The state with bytes that the host die has read. -/
def State.hostSees (s : State) (bs : List Byte) : State := s.updBoot fun b => { b with hostData := bs }

/-! ## Tables (R346, R347) -/

/-- A peer-table entry of 16 bytes. -/
def peerOfBytes (bs : List Byte) : PeerEntry :=
  ⟨(byteAt bs 0).testBit 0, (byteAt bs 0).testBit 1, byteAt bs 2 % 64⟩

/-- A window-table entry of 16 bytes. -/
def windowOfBytes (bs : List Byte) : Window :=
  ⟨leAt bs 0 8, byteAt bs 8, BitVec.ofNat 8 (byteAt bs 9), BitVec.ofNat 16 (leAt bs 10 2), BitVec.ofNat 8 (byteAt bs 12), leAt bs 13 3⟩

/-! ## Time messages (R363) -/

/-- An Announce of the own data set sent to a peer (the standard's layout is PRESUMED, log entry 44). -/
def State.sendAnnounce (s : State) (peer : Nat) : State :=
  s.sendTim peer 0x20 (leBytes 8 s.heat.epoch.toNat ++ leBytes 2 s.fabric.peer ++
    (leBytes 1 0xB ++ List.replicate 46 0 ++ beBytes 16 s.ownClock ++ [0]))

/-! ## Accesses -/

/-- What an access of the host die does. -/
def State.hostAccess (s : State) : HostAccess → State
  | .store spad a bs => if s.hostReaches spad a bs.length then s.hostPut spad (bs.length / 64 + 2) a bs else s
  | .load spad a n => if s.hostReaches spad a n then s.hostSees (s.hostRead spad a n) else s
  | .readBasic n => s.hostSees (leBytes 4 (s.boot.block n).readBasic.toNat)
  | .readExpert n r => s.hostSees (leBytes 4 ((s.boot.block n).readExpert n r).toNat)
  | .readReason => s.hostSees (leBytes 4 s.boot.bootrsn.toNat)
  | .peerEntry part peer bs =>
    if part < 16 ∧ peer < 4096 then
      s.updFabric fun f => { f with peers := mapSet ⟨false, false, 0⟩ f.peers (4096 * part + peer) (peerOfBytes bs) }
    else s
  | .windowEntry t w bs =>
    if t < 64 ∧ w < 256 then s.updFabric fun f => { f with windows := mapSet Window.none f.windows (256 * t + w) (windowOfBytes bs) }
    else s
  | .fibreDelay n d => if n < 512 then s.updFabric fun f => { f with delays := mapSet 0 f.delays n d } else s
  | .sync peer seq => s.sendPtp peer 0x0 seq 0
  | .delayRequest peer seq => s.sendPtp peer 0x2 seq 0
  | .announce peer => s.sendAnnounce peer
  | .askEntries seq => s.tell 0x28 0 seq 0 s.heat.starter
  | .farDeparted launch coh b => s.farGone launch coh b

end Sys2Proof.Machine
end

