-- ==== Sys2Proof/Machine/Turns.lean ====
section
/-! DEFINITION. Who moves next and what a turn does: fetching a scalar word, taking the head of a lane queue, an event.
What the agenda names comes first; then a default order (R63, R64; log entry 1). -/

namespace Sys2Proof.Machine

/-! ## Fetching -/

/-- The scalar word at a byte offset of .scalar (R2, R93). -/
def Launch.scalarWordAt (l : Launch) (spc : Nat) : Word := BitVec.ofNat 32 (memNat l.scalar spc 4)

/-- The state with the focus on a crew slot and split. -/
def State.focus (s : State) (slot split : Nat) : State := { s with cur := slot, curSplit := split }

/-- Whether a word is a CPY that names space 7, which only a privileged crew may issue (R222). -/
def saveCopy (w : Word) : Bool := w.extractLsb' 26 6 == 0x2B && (w.extractLsb' 0 3 == 7 || w.extractLsb' 3 3 == 7)

/-- The next scalar word of the split in focus executed: past the end of .scalar and for a word that is no instruction
the illegal-instruction trap; privilege is checked before the fields (R113). -/
def State.runWord (s : State) : Result :=
  if s.launch.scalarLen < s.split.spc + 4 then .next (s.illegal 12 s.split.spc)
  else if saveCopy (s.launch.scalarWordAt s.split.spc) && !s.settings.priv then .next (s.raise 0x06 0 0 0x2B)
  else
    match decodeScalar (s.launch.scalarWordAt s.split.spc) with
    | .ok i => exec i s
    | .error r => .next (s.illegal r.field r.value)

/-- A scalar turn of a split (R47, R51, R206): splits at one place merge first; a split that may not run does nothing. -/
def State.scalarTurn (s : State) (slot split : Nat) : Result :=
  if !s.runnable.contains (slot, split) then .next s
  else
    let s := s.focus slot split
    match mapFind s.launches s.crew.launch with
    | none => .fault .noLaunchImage
    | some _ =>
      let m := s.crew.mergeEqual split
      ((s.setCrew m.1).focus slot m.2).runWord

/-- The head of the lane queue of the crew in focus executed (R43, R113). -/
def State.runHead (s : State) (e : LaneEntry) : Result :=
  match decodeLane e.word with
  | .ok i => exec i s
  | .error r => .next (s.takeTrap (laneInfo 0x01 r.field r.value) true false)

/-- The result with the focus set back. -/
def refocus (slot split : Nat) : Result → Result
  | .next s => .next (s.focus slot split)
  | .fault f => .fault f
  | .refused r => .refused r

/-- A lane turn of a crew. -/
def State.laneTurn (s : State) (slot : Nat) : Result :=
  let c := s.crewAt slot
  match c.laneQ with
  | [] => .next s
  | e :: _ =>
    if c.live && !c.caught then refocus s.cur s.curSplit ((s.focus slot s.curSplit).runHead e) else .next s

/-! ## Events that the package makes by itself -/

/-- An event as what it does to a state. -/
abbrev Event := State → Result

/-- The event that takes a packet from the inbox. -/
def packetEvent (s : State) (p : Packet) : List Event :=
  if s.isParked p.reqid then [execParkedResponse p]
  else match p.kind.toNat with
    | 0x01 => [execReadRequest p] | 0x02 => [execReadResponse p] | 0x03 => [execWriteRequest p] | 0x04 => [execWriteAck p]
    | 0x05 => [execAtomicRequest p] | 0x06 => [execAtomicResponse p] | 0x07 => [execXputData p] | 0x08 => [execXputAck p]
    | 0x09 => [execBusy p] | 0x0A => [execProbe p] | 0x0B => [execProgressReport p] | 0x0C => [execCollectiveData p]
    | 0x0D => [execCollectiveAck p] | 0x0E => [execPoisonedResponse p] | 0x0F => [execForwardedRequest p]
    | _ => []

/-- The event that takes a message from the firmware's queue of TIM flits (R370). -/
def messageEvent (s : State) (x : Stamped) : List Event :=
  let m := messageOf x.flit s.fabric.peer
  let take (e : Event) : Event := fun s => e (s.updFabric fun f => { f with ptp := f.ptp.erase x })
  match x.flit.kind.toNat with
  | 0x20 => [execPtpMessage x.fibre x.flit x.stamp]
  | 0x21 => [take (execHeartbeat m.sender m.epoch m.starter)]
  | 0x22 => [take (execCandidacy m.epoch (m.value / 4096) (m.value % 4096))]
  | 0x23 => [take (execAck m.sender m.heat m.seq)]
  | 0x24 => [take (execNak m.sender m.heat m.seq m.value)]
  | 0x25 => [take (execCommit ⟨m.sender, m.epoch⟩ m.heat m.seq)]
  | 0x26 => [take (execMemberFailureReport m.heat (m.value % 4096) (m.value / 4096))]
  | 0x27 => [take (execElectionResult m.epoch (m.value / 4096) (m.value % 4096))]
  | 0x28 => [take (execEntryRequest m.sender m.seq)]
  | _ => []

/-- Events of a crew: values that arrive, a time that comes. -/
def crewEvents (x : Nat × Crew) : List Event :=
  x.2.inflight.flatMap (fun f => f.arrivals.map fun a => execLongLatencyArrival x.1 a.lane) ++
    x.2.splits.map fun p => execTimeWake x.1 p.1

/-- Events of the queues of a partition on a core. -/
def queueEvents (x : Nat × QSet) : List Event :=
  let part := keyPart x.1
  let core := keyCore x.1
  x.2.queues.flatMap fun q =>
    if q.1 < 4 ∨ q.1 = 7 then [execCopyEntryStart part core q.1, execCopyEntryComplete part core q.1]
    else if q.1 = 4 ∨ q.1 = 9 then
      execMtsTaskStart part core q.1 :: (q.2.ents.map QEntry.engine).eraseDups.flatMap fun c => [execTileKStep c false, execTileTaskComplete c]
    else if q.1 = 5 ∨ q.1 = 8 then
      [execClauseEntryStart core, execTrainingStep core, execInferenceSample core 0,
       execInferenceSample core 1, execCamovOperation core, execClauseEntryComplete core]
    else [execXqEntryStart part core, execXqEntryComplete part core]

/-- Events of a graph. -/
def graphEvents (s : State) (x : Nat × Graph) : List Event :=
  let part := graphPart x.1
  let h := x.1 % 64
  let node (n : Node) : List Event :=
    (n.faults.map fun f => execNodeFault part h n.id (BitVec.ofNat 8 f.1) f.2) ++
      [execNodeDone part h n.id, execNodeEnterBank part h n.id, execEngineNodeIssue part h n.id]
  execGraphLoadComplete part h :: x.2.nodes.flatMap node ++
    x.2.cones.flatMap (fun c => execConeVisit part h c.head ::
      (s.crews.filter fun y => y.2.live && y.2.part == part && y.2.handle == h).map fun y => execCrewStop y.1 c.head) ++
    [execConeResolve part h, execGraphEnd part h]

/-- Events of a core and of the dies' banks. -/
def coreEvents (s : State) : List Event :=
  (s.parts.flatMap fun p => p.2.quotas.map QuotaSpec.core).eraseDups.flatMap (fun c =>
    [execBlockPlacement c, execPrefetchFill c, execClauseGranuleAccess c]) ++
    s.dies.flatMap fun d => execToken d.1 :: d.2.bank.zipIdx.map fun t => execTquAging d.1 t.1.part t.2

/-- Events of the fabric. -/
def fabricEvents (s : State) : List Event :=
  s.fabric.inbox.flatMap (packetEvent s) ++ [execHeldRequestPerform, execFlitEgress] ++
    s.fabric.reqs.flatMap (fun r => [execBusyRetry r.reqid, execRequestProbeTimer r.reqid, execRequestTimeout r.reqid]) ++
    [execRotorSlotStart, execLightStart, execLightEnd] ++
    s.litLinks.flatMap (fun k => [execSetupEnd (k / 8), execIdleLinkControl (k / 8), execFlitSend (k / 8)] ++
      (s.link k).readyAt.map fun v => execVcStarvation (k / 8) v.1) ++
    s.fabric.ptp.flatMap (messageEvent s) ++
    s.fabric.groups.flatMap fun g =>
      [execSquareStart g.1, execWidthHandshake g.1, execSquareComplete g.1, execFeatherStart g.1, execFeatherPark g.1]

/-- An operation without conditions of its own, as an event. -/
def always (f : State → State) : Event := fun s => .next (f s)

/-- The cores that a START or a grant time of the next 40 µs maps or claims (R435). -/
def State.soonCores (s : State) : List Nat :=
  let soon (t : DWord) : Bool := decide (t.toNat ≤ s.heat.time.toNat + 40000)
  ((s.heat.sheet.filter fun x => !x.started && !x.void && soon x.entry.start).flatMap SheetEntry.cores ++
    (s.heat.grants.filter fun g => soon g.gtime).flatMap fun g => match s.windowOf g with
      | some x => s.claimed g x.members s.fabric.peer
      | none => []).eraseDups

/-- Events of the start, of power and of the checkpoint engine: a stage late; a sample due; the units copied in ascending
order, and then the step complete (R415, R427, R436). -/
def firmwareEvents (s : State) : List Event :=
  (if s.boot.runs && s.boot.late then [execStageFailure 0] else []) ++
    [execPowerSample, execPowerTrip] ++
    s.soonCores.map execPreStartRaise ++
    s.ckpt.waiting.map (fun w => execCopyOnWriteTimeout w.1 w.2.1) ++
    s.ckpt.copying.flatMap fun c =>
      [execCheckpointTimeout c.job, match c.left with | u :: _ => execCopyOnWrite c.part u.1 | [] => execCheckpointComplete c.job]

/-- Events of the timetable, a switch and a sprint. -/
def heatEvents (s : State) : List Event :=
  s.heat.sheet.flatMap (fun x => [execHeatStart x.entry.seq, execAbort x.entry.seq]) ++
    s.heat.switches.flatMap (fun w =>
      [execCatchCore w.core w.part, execDeadlineReset w.core w.part, execSave w.core w.part, execDrainAndTag w.core w.part,
       execSwitchRestore w.core w.part w.seq, execSwitchStart w.core w.part]) ++
    (match s.heat.sprint with
      | some x => execSprintLimit :: x.cores.flatMap fun c => [execSprintGrant c, execAccumulatorDrain c, execSprintStart c, execSprintEnd c]
      | none => if s.heat.grants.isEmpty then [] else [execSprintGrant 0]) ++
    [execHeartbeatSend, execHeartbeatLoss, execElectionTimer, always State.takeArrival, always State.sendEntry] ++
    ((s.heat.sheet.filter SheetEntry.committed).flatMap SheetEntry.members).eraseDups.map execMemberHeartbeatMissed

/-- The events that may be due by themselves. -/
def State.ownEvents (s : State) : List Event :=
  s.crews.flatMap crewEvents ++ s.qsets.flatMap queueEvents ++ s.graphs.flatMap (graphEvents s) ++ coreEvents s ++
    fabricEvents s ++ heatEvents s ++ firmwareEvents s

/-- A list turned by n places, so that every event comes first in its turn. -/
def turned {α : Type} (n : Nat) (l : List α) : List α := l.drop (n % l.length) ++ l.take (n % l.length)

/-- The first event of a list that changes more than the count of choices. -/
def State.firstDue (s : State) : List Event → Option State
  | [] => none
  | i :: rest =>
    match i s with
    | .next t => if { t with choices := s.choices } = s then s.firstDue rest else some t
    | _ => s.firstDue rest

/-! ## A turn -/

/-- The default turn: events, lane work and scalar words in turn, the splits round robin; where there is none of one kind,
the next kind (R63, R64; log entry 1). -/
def State.defaultTurn (s : State) : Result :=
  let due := if s.steps % 3 = 0 then s.firstDue (turned (s.steps / 3) s.ownEvents) else none
  match due with
  | some t => .next t
  | none =>
    if s.steps % 3 ≠ 2 && !(s.crewAt s.cur).laneQ.isEmpty then s.laneTurn s.cur
    else
      match s.scalarTurn s.cur s.curSplit with
      | .next t => .next t.rotate
      | x => x

/-- A turn that the agenda names. -/
def State.turn (s : State) : Turn → Result
  | .event i => exec i s
  | .scalar slot split => s.scalarTurn slot split
  | .lane slot => s.laneTurn slot
  | .host a => .next (s.hostAccess a)

/-- What goes on in a frozen module: its test access port and a cold reset (R425, R426). -/
def frozenTurn : Turn → Bool
  | .event (.tapRead _ _) => true
  | .event (.coldReset _) => true
  | _ => false

/-- The turn that comes next, taken from the agenda. -/
def State.nextTurn (s : State) : Result :=
  match s.agenda with
  | [] => if s.boot.frozen then .next s else s.defaultTurn
  | t :: rest =>
    let s := { s with agenda := rest }
    if s.boot.frozen && !frozenTurn t then .next s else s.turn t

/-- A step over: it is counted, time passes unless the module is frozen (log entry 2), and a step backwards ends when its
target is reached (R424). -/
def State.tick (s : State) : State :=
  let dt := Config.elapsed s.steps
  let s := if s.boot.frozen then s
    else { s with
      heat := s.heat.pass dt
      boot := { s.boot with upTime := s.boot.upTime + dt } }
  { s.endStepBack with steps := s.steps + 1 }

/-- The result after its tick. -/
def ticked : Result → Result
  | .next s => .next s.tick
  | .fault f => .fault f
  | .refused r => .refused r

/-! ## An instruction placed where it is fetched next (log entry 11) -/

/-- Block memory and slots of the crew that is placed for an instruction in a package without one. -/
def placedQuota : QuotaSpec := ⟨0, 0x7DF7DF#24, 0, 0x10000, 0, 64⟩

/-- A package in which a crew of a launch with an empty image has just started (R57) in slot 0 of core 0, in a partition
that owns the core's clause array and pinned tiles. -/
def State.placeCrew (s : State) : State :=
  let part : Partition := ⟨true, false, [placedQuota], []⟩
  let x : Needs := ⟨1, 1, 0x8000, 0x1000, 8, 0, 0⟩
  let node : Node := { recordNode [] 0 none [] with kind := 1, gsSlot := 2 ^ 18 }
  let spec := { Launch.none.spec with job := 1, blocks := 1, crews := 1, bmem := 32, spill := 4, srows := 8 }
  let s := { s with
    parts := mapSet Partition.none s.parts 0 part
    launches := mapSet Launch.none s.launches 1 { Launch.none with spec := spec } }
  let s := (s.updCore 0 fun c => { c with pinOwner := some 0, arrayOwner := some 0 }).updJob 1 fun _ => { Job.none with present := true }
  ((s.setCrewAt 0 (startCrew (s.crewAt 0) s.nextUid 0 63 0 0 1 1 x 0 node)).focus 0 0)

/-- The state with a split that may run in focus, its crew's launch loaded: the split in focus, if it is one, else that of
a crew placed. -/
def State.ready (s : State) : State :=
  let s := { s with boot := { s.boot with frozen := false } }
  if s.runnable.contains (s.cur, s.curSplit) && (mapFind s.launches s.crew.launch).isSome then s else s.placeCrew

/-- A scalar word placed at SPC of the split in focus, whose turn it is. -/
def State.placeScalarWord (s : State) (w : Nat) : State :=
  let s := s.ready
  let spc := s.split.spc
  let s := s.updLaunch s.crew.launch fun l =>
    { l with scalar := memPutNat l.scalar spc 4 w, scalarLen := max l.scalarLen (spc + 4) }
  { s with agenda := .scalar s.cur s.curSplit :: s.agenda }

/-- A lane instruction placed at the head of the crew's lane queue as its split would enqueue it, whose turn it is. -/
def State.placeLaneWord (s : State) (w : Nat) : State :=
  let s := s.ready
  let rest := s.crew.laneQ
  let s := s.updCrew fun c =>
    let d := { c with laneQ := [] }.enqueueLane s.curSplit (BitVec.ofNat 96 w)
    { d with laneQ := d.laneQ ++ rest }
  { s with agenda := .lane s.cur :: s.agenda }

end Sys2Proof.Machine
end

