-- ==== Sys2Proof/Machine/Step.lean ====
section
/-! DEFINITION. One step of the package, and an instruction placed where the step fetches it. -/

namespace Sys2Proof.Machine

/-- One step: the turn that comes next, then the tick. -/
def step (s : State) : Host.Outcome State Fault Refusal := ticked s.nextTurn

/-- The state with an instruction of nbits bits, numbered as the opcode table numbers them, where the step fetches it:
32 bits are a scalar word, else a lane instruction (log entry 11). -/
def State.withFetchWord (s : State) (nbits w : Nat) : State := if nbits = 32 then s.placeScalarWord w else s.placeLaneWord w

end Sys2Proof.Machine
end

