-- ==== Sys2Proof/Safety.lean ====
section
/-! DEFINITION. What claims about the machine are stated in: a safe step, an instruction that completes, the canonical
form of the memories, and what a completed word or lane instruction changes and leaves alone. -/

namespace Sys2Proof.Machine

/-- A step that answers a next state. -/
def State.safe (s : State) : Prop := ∃ t, step s = .next t

/-- An instruction answers a next state of which p holds. -/
def Completes (i : Instr) (s : State) (p : State → Prop) : Prop := ∃ t, exec i s = .next t ∧ p t

/-- The byte memories are in canonical form. -/
abbrev Mem.wf (m : Mem) : Prop := m.bmem.wf ∧ m.spad.wf ∧ m.acc.wf ∧ m.cells.wf ∧ m.hbm.wf

/-- The poison marks and tags are in canonical form. -/
abbrev Mem.marksWf (m : Mem) : Prop :=
  mapWf false m.bmemPoison = true ∧ mapWf false m.tags = true ∧ mapWf false m.spadPoison = true ∧
    mapWf false m.accPoison = true ∧ mapWf false m.rowPoison = true ∧ mapWf false m.hbmPoison = true

/-! ## Scalar words -/

/-- Nothing but the crew in focus differs. -/
def State.onlyCrew (s t : State) : Prop := t = { s with crews := t.crews } ∧ ∀ n, n ≠ s.cur → t.crewAt n = s.crewAt n

/-- The split in focus goes on at a byte offset of .scalar with the crew's clock at a value, and nothing else changes. -/
def State.wentAt (s t : State) (spc : Nat) (clock : DWord) : Prop :=
  s.onlyCrew t ∧ t.crew = { s.crew with splits := t.crew.splits, clock := clock, inSync := t.crew.inSync } ∧
    (∀ k, k ≠ s.curSplit → t.crew.split k = s.crew.split k) ∧ t.split = { s.split with spc := spc, wait := .none }

/-- A word completed with the clock advanced by one (R65). -/
def State.wentTo (s t : State) (spc : Nat) : Prop := s.wentAt t spc (s.crew.clock + 1) ∧ t.crew.inSync = s.crew.inSync

/-- A word completed at the next one, with register d at v, s0 at zero, and every other register, split, crew, memory and
unit as it was (R94, R132). -/
def State.wrote (s t : State) (d : RegNo) (v : Word) : Prop :=
  s.onlyCrew t ∧
    t.crew = { s.crew with shared := t.crew.shared, splits := t.crew.splits, clock := s.crew.clock + 1 } ∧
    (∀ k, k ≠ s.curSplit → t.crew.split k = s.crew.split k) ∧
    t.split = { s.split with spc := s.split.spc + 4, wait := .none, banked := t.split.banked } ∧
    ∀ r, t.sreg r = if r = d ∧ r ≠ 0 then v else s.sreg r

/-- A word that stays where it is: the split waits, and nothing else changes (R132). -/
def State.stayed (s t : State) : Prop :=
  s.onlyCrew t ∧ t.crew = { s.crew with splits := t.crew.splits } ∧
    (∀ k, k ≠ s.curSplit → t.crew.split k = s.crew.split k) ∧ t.split = { s.split with wait := t.split.wait }

/-- The bytes of block memory and scratchpad as the crew in focus reads them (R23). -/
def State.crewByte (s : State) (spad : Bool) (a : Nat) : Byte := s.crew.byte s.mem spad a

/-- No two entries of a store window are for one granule (R23). -/
abbrev windowUnique (w : List WinEntry) : Prop := w.Pairwise fun e f => ¬(e.spad = f.spad ∧ e.granule = f.granule)

/-- The bytes of accumulators, clause cells and HBM, and every mark but those of block memory and scratchpad, are as they
were. -/
def Mem.coreKept (m n : Mem) : Prop :=
  n.acc = m.acc ∧ n.cells = m.cells ∧ n.hbm = m.hbm ∧ n.accPoison = m.accPoison ∧ n.rowPoison = m.rowPoison ∧
    n.hbmPoison = m.hbmPoison

/-- A store of bytes by the crew in focus: the crew reads them at the address and every other byte as before; elsewhere the
array changes only where an entry of the crew's window went there (R22 to R24). -/
def State.put (s t : State) (spad : Bool) (a : Nat) (bs : List Byte) : Prop :=
  let here (sp : Bool) (k : Nat) : Prop := sp = spad ∧ a ≤ k ∧ k < a + bs.length
  (∀ sp k, here sp k → t.crewByte sp k = bs.getD (k - a) 0) ∧
    (∀ sp k, ¬here sp k → t.crewByte sp k = s.crewByte sp k ∧
      (t.mem.byte (spOf sp) k = s.mem.byte (spOf sp) k ∨ t.mem.byte (spOf sp) k = s.crewByte sp k)) ∧
    s.mem.coreKept t.mem

/-- A word completed that stored bytes, wrote register d and changed nothing else but the ordering log: it went on at the
next word (R146, R147). -/
def State.stored (s t : State) (spad : Bool) (a : Nat) (bs : List Byte) (d : RegNo) (v : Word) : Prop :=
  t = { s with crews := t.crews, mem := t.mem, ckpt := t.ckpt } ∧ (∀ n, n ≠ s.cur → t.crewAt n = s.crewAt n) ∧
    t.crew = { s.crew with
      window := t.crew.window, shared := t.crew.shared, splits := t.crew.splits, clock := s.crew.clock + 1 } ∧
    (∀ k, k ≠ s.curSplit → t.crew.split k = s.crew.split k) ∧
    t.split = { s.split with spc := s.split.spc + 4, wait := .none, banked := t.split.banked } ∧
    (∀ r, t.sreg r = if r = d ∧ r ≠ 0 then v else s.sreg r) ∧ s.put t spad a bs

/-- The store window of the crew in focus has drained: it is empty and the array holds what the crew read (R24). -/
def State.emptied (s t : State) : Prop :=
  t.crew.window = [] ∧ (∀ sp k, t.mem.byte (spOf sp) k = s.crewByte sp k) ∧ s.mem.coreKept t.mem

/-- A word completed that drained the window and changed nothing else: it went on at the next word, the clock at a value
(R24, R65, R132). -/
def State.drainedTo (s t : State) (clock : DWord) : Prop :=
  t = { s with crews := t.crews, mem := t.mem } ∧ (∀ n, n ≠ s.cur → t.crewAt n = s.crewAt n) ∧
    t.crew = { s.crew with window := [], splits := t.crew.splits, clock := clock, inSync := t.crew.inSync } ∧
    (∀ k, k ≠ s.curSplit → t.crew.split k = s.crew.split k) ∧
    t.split = { s.split with spc := s.split.spc + 4, wait := .none } ∧ s.emptied t

/-- As wrote, in a state that differs from s in the checkpoint records alone: a value from outside the program goes to the
ordering log (R422). -/
def State.told (s t : State) (d : RegNo) (v : Word) : Prop := ∃ u : State, u = { s with ckpt := u.ckpt } ∧ u.wrote t d v

/-- As wrote, for an even register d and the pair d:d+1. -/
def State.wrotePair (s t : State) (d : RegNo) (v : DWord) : Prop :=
  s.onlyCrew t ∧
    t.crew = { s.crew with shared := t.crew.shared, splits := t.crew.splits, clock := s.crew.clock + 1 } ∧
    (∀ k, k ≠ s.curSplit → t.crew.split k = s.crew.split k) ∧
    t.split = { s.split with spc := s.split.spc + 4, wait := .none, banked := t.split.banked } ∧
    ∀ r, t.sreg r =
      if r = d + 1 then v.extractLsb' 32 32 else if r = d ∧ r ≠ 0 then v.extractLsb' 0 32 else s.sreg r

/-- As told, for a pair. -/
def State.toldPair (s t : State) (d : RegNo) (v : DWord) : Prop :=
  ∃ u : State, u = { s with ckpt := u.ckpt } ∧ u.wrotePair t d v

/-- A value from outside the program as the crew in focus reads it: in a replay the one that the log recorded (R422, R423). -/
def State.outside (s : State) (opc : Nat) (v : DWord) : DWord :=
  match s.replayLog with
  | none => v
  | some l => match l.find? fun x => x.again (s.logRecord opc none true v) with | some x => x.value | none => v

/-- A word completed that issued an entry into queue q of its core: the issue count went up and is the ticket in register
d, the entry stands last in the queue, and no register, other queue or crew changed otherwise (R12). -/
def State.issued (s t : State) (q : Nat) (d : RegNo) (p : QEntry → Prop) : Prop :=
  let k := s.qk
  let n := (s.queue k q).issue + 1
  t = { s with crews := t.crews, qsets := t.qsets, mem := t.mem, launches := t.launches, ckpt := t.ckpt } ∧
    (∀ m, m ≠ s.cur → t.crewAt m = s.crewAt m) ∧
    t.crew = { s.crew with
      shared := t.crew.shared, splits := t.crew.splits, clock := s.crew.clock + 1, unacked := t.crew.unacked } ∧
    t.split = { s.split with spc := s.split.spc + 4, wait := .none, banked := t.split.banked } ∧
    (∀ r, t.sreg r = if r = d ∧ r ≠ 0 then n else s.sreg r) ∧
    (∀ j, j ≠ q → t.queue k j = s.queue k j) ∧ (t.queue k q).issue = n ∧ (t.queue k q).seq = (s.queue k q).seq ∧
    ∃ e, (t.queue k q).ents = (s.queue k q).ents ++ [e] ∧ e.ticket = n ∧ e.state = .queued ∧ e.slot = s.cur ∧
      e.uid = s.crew.uid ∧ e.job = s.crew.job ∧ e.fq = s.crew.fltq ∧ e.node = none ∧ p e

/-! ## Lane instructions -/

/-- The instruction at the head of the crew's lane queue is the one with these fields, as its split enqueued it, not under
a repeat prefix; the crew has its 96 lanes. -/
def State.laneHead (s : State) (op : BitVec 8) (f : LaneFields) (e : LaneEntry) : Prop :=
  s.crew.laneQ.head? = some e ∧ e.word = laneWord op f ∧ e.rep = none ∧ s.crew.lanes.length = 96

/-- The instruction's encoding passes the checks of R113, no register that it needs is empty, and nothing holds it back. -/
def State.laneOk (s : State) (sh : Shape) (f : LaneFields) (e : LaneEntry) : Prop :=
  sh.check s.settings.priv s.settings.det e.fmtr f = none ∧ (s.laneCtx sh e f).emptyTrap = none ∧
    (s.laneCtx sh e f).waits = false

/-- What the executing lanes of an instruction hold after it, and what the others keep: r is each lane's result, push says
whether it is pushed. A poisoned result is zero and raises no flag (R106, R158, R160, R161, R104). -/
def Ctx.lanePushed (x : Ctx) (push : Bool) (r : Nat → LaneRes) (i : Nat) (l m : LaneState) : Prop :=
  let v : LaneRes := if (r i).poison then ⟨0, true, 0⟩ else r i
  (∀ n, m.reg n = if x.exec.getLsbD i ∧ x.f.dst ≠ 0xFF ∧ n = regIndex x.f.dst then ⟨v.val, true, v.poison⟩ else l.reg n) ∧
    m.queue =
      (if x.exec.getLsbD i then (if push then (⟨v.val, v.poison⟩ :: l.queue).take 16 else l.queue)
       else if x.members.getLsbD i ∧ push then (⟨0, false⟩ :: l.queue).take 16 else l.queue) ∧
    m.flags = (if x.exec.getLsbD i then l.flags ||| v.flags else l.flags) ∧ m.sigma = l.sigma ∧
    m.count = (if x.exec.getLsbD i then l.count + BitVec.ofNat 32 x.drawCount else l.count)

/-- A pushing instruction completed: results in the executing lanes, flags in FSUM, the head of the queue gone, the clock
advanced, and nothing else changed; pr is what the predicates of a lane become. -/
def Ctx.pushed (x : Ctx) (r : Nat → LaneRes) (pr : Nat → BitVec 15) (s t : State) : Prop :=
  s.onlyCrew t ∧
    t.crew = { s.crew with
      lanes := t.crew.lanes, fsum := t.crew.fsum, laneQ := s.crew.laneQ.tail, clock := s.crew.clock + 1 } ∧
    t.crew.lanes.length = 96 ∧
    (∀ i < 96, x.lanePushed true r i (s.crew.lane i) (t.crew.lane i) ∧
      (t.crew.lane i).preds = if x.exec.getLsbD i then pr i else (s.crew.lane i).preds) ∧
    ∀ j < 6, t.crew.fsum.getLsbD j =
      (s.crew.fsum.getLsbD j || (List.range 96).any fun i => x.exec.getLsbD i && !(r i).poison && (r i).flags.getLsbD j)

/-- What stops the instruction mk f at the head, in the order of R113: the first encoding check that fails traps; then an
empty register that it needs traps (R108), or it waits. -/
def Stops (mk : LaneFields → Instr) (shape : State → LaneFields → Shape) : Prop :=
  ∀ (s : State) (f : LaneFields) (e : LaneEntry), s.laneHead (shape s f).op f e →
    let check := (shape s f).check s.settings.priv s.settings.det e.fmtr f
    let x := s.laneCtx (shape s f) e f
    (∀ t, check = some t → exec (mk f) s = .next (s.takeTrap t true false)) ∧
    (check = none → ∀ t, x.emptyTrap = some t → exec (mk f) s = .next (s.takeTrap t true false)) ∧
    (check = none → x.emptyTrap = none → x.waits = true → exec (mk f) s = .next s)

/-- The instruction mk f, when it stands at the head and nothing stops it, gives each executing lane the result g; the
predicates stay. -/
def Pushes (mk : LaneFields → Instr) (shape : LaneFields → Shape) (g : Ctx → Nat → LaneRes) : Prop :=
  Stops mk (fun _ => shape) ∧ ∀ (s : State) (f : LaneFields) (e : LaneEntry),
    s.laneHead (shape f).op f e → s.laneOk (shape f) f e →
      Completes (mk f) s fun t =>
        let x := s.laneCtx (shape f) e f
        x.pushed (g x) (fun i => (s.crew.lane i).preds) s t

/-- As Pushes, for an instruction whose sources may not be poisoned and that may write predicates: ok is what it asks of
its operands, pr the predicates of a lane after it. -/
def PushesIf (mk : LaneFields → Instr) (shape : LaneFields → Shape) (ok : Ctx → Prop) (g : Ctx → Nat → LaneRes)
    (pr : Ctx → Nat → BitVec 15) : Prop :=
  Stops mk (fun _ => shape) ∧ ∀ (s : State) (f : LaneFields) (e : LaneEntry),
    s.laneHead (shape f).op f e → s.laneOk (shape f) f e → ok (s.laneCtx (shape f) e f) →
      Completes (mk f) s fun t =>
        let x := s.laneCtx (shape f) e f
        x.pushed (g x) (pr x) s t

/-- A long-latency instruction under way: its destination is empty in the executing lanes, the results are in flight, the
head of the queue is gone and nothing else has changed; with no executing lane it has completed (R107, R158). -/
def Ctx.underWay (x : Ctx) (r : Nat → LaneRes) (s t : State) : Prop :=
  s.onlyCrew t ∧
    t.crew = { s.crew with
      lanes := t.crew.lanes, laneQ := s.crew.laneQ.tail, inflight := t.crew.inflight, clock := t.crew.clock } ∧
    t.crew.lanes.length = 96 ∧
    t.crew.inflight = s.crew.inflight ++
      (if x.lanes.isEmpty then []
       else [⟨regIndex x.f.dst, x.e.owner, x.lanes.map fun i =>
         let v : LaneRes := if (r i).poison then ⟨0, true, 0⟩ else r i
         ⟨i, v.val, v.poison, v.flags⟩⟩]) ∧
    t.crew.clock = (if x.lanes.isEmpty then s.crew.clock + 1 else s.crew.clock) ∧
    ∀ i < 96,
      (∀ n, (t.crew.lane i).reg n =
        if x.exec.getLsbD i ∧ n = regIndex x.f.dst then { (s.crew.lane i).reg n with full := false }
        else (s.crew.lane i).reg n) ∧
      (t.crew.lane i).queue = (s.crew.lane i).queue ∧ (t.crew.lane i).preds = (s.crew.lane i).preds ∧
      (t.crew.lane i).flags = (s.crew.lane i).flags ∧ (t.crew.lane i).sigma = (s.crew.lane i).sigma ∧
      (t.crew.lane i).count =
        (if x.exec.getLsbD i then (s.crew.lane i).count + BitVec.ofNat 32 x.drawCount else (s.crew.lane i).count)

/-- The instruction mk f, when it stands at the head and nothing stops it, sends each executing lane the result g. -/
def Sends (mk : LaneFields → Instr) (shape : LaneFields → Shape) (g : Ctx → Nat → LaneRes) : Prop :=
  Stops mk (fun _ => shape) ∧ ∀ (s : State) (f : LaneFields) (e : LaneEntry),
    s.laneHead (shape f).op f e → s.laneOk (shape f) f e →
      Completes (mk f) s fun t =>
        let x := s.laneCtx (shape f) e f
        x.underWay (g x) s t

/-- The queue and the clock after a lane instruction that changes the crew in focus in its own way. -/
def State.retired (s t : State) : Prop := t.crew.laneQ = s.crew.laneQ.tail ∧ t.crew.clock = s.crew.clock + 1

/-! ## Lane instructions with conditions of their own -/

/-- The number whose bits below n are the ones of which p holds. -/
def bitsWhere (p : Nat → Bool) : Nat → Nat
  | 0 => 0
  | n + 1 => bitsWhere p n + if p n then 2 ^ n else 0

/-- The predicates p0 to p14 of a lane with number n at b; number 15 is no stored predicate (R161). -/
def predsWith (p : BitVec 15) (n : Nat) (b : Bool) : BitVec 15 :=
  .ofNat 15 (bitsWhere (fun j => if j = n then b else p.getLsbD j) 15)

/-- No executing lane has a poisoned value in a source that is both used and listed. -/
def Ctx.clean (x : Ctx) (sources : List Nat) : Prop :=
  ∀ i ∈ x.lanes, ∀ k ∈ sources, x.sh.uses.getLsbD k → x.poison k i = false

/-- The instruction mk f, when it stands at the head, nothing stops it and ok holds, completes in a state that p describes;
its shape may depend on what the crew's partition holds. -/
def Retires (mk : LaneFields → Instr) (shape : State → LaneFields → Shape) (ok : State → Ctx → Prop)
    (p : Ctx → State → State → Prop) : Prop :=
  Stops mk shape ∧ ∀ (s : State) (f : LaneFields) (e : LaneEntry),
    s.laneHead (shape s f).op f e → s.laneOk (shape s f) f e → ok s (s.laneCtx (shape s f) e f) →
      Completes (mk f) s (p (s.laneCtx (shape s f) e f) s)

/-- A completed instruction that changed the lanes of the crew alone: each of the 96 as given. -/
def State.lanesTo (s t : State) (g : Nat → LaneState → LaneState) : Prop :=
  s.onlyCrew t ∧
    t.crew = { s.crew with lanes := t.crew.lanes, laneQ := s.crew.laneQ.tail, clock := s.crew.clock + 1 } ∧
    t.crew.lanes.length = 96 ∧ ∀ i < 96, t.crew.lane i = g i (s.crew.lane i)

/-- A completed instruction that changed memory through the crew's window, drew what its sources drew and left SPP at a
value, and nothing else: the crew reads the bytes that new gives, and every other byte as before (R22 to R24). -/
def State.lanesStored (s t : State) (spp : Nat) (new : Bool → Nat → Option Byte) : Prop :=
  t = { s with crews := t.crews, mem := t.mem } ∧ (∀ n, n ≠ s.cur → t.crewAt n = s.crewAt n) ∧
    t.crew = { s.crew with
      lanes := t.crew.lanes, window := t.crew.window, spp := spp, laneQ := s.crew.laneQ.tail, clock := s.crew.clock + 1 } ∧
    (∀ i < 96, t.crew.lane i = { s.crew.lane i with count := (t.crew.lane i).count }) ∧
    (∀ sp k, t.crewByte sp k = (new sp k).getD (s.crewByte sp k)) ∧ s.mem.coreKept t.mem

/-- A completed reduction: v goes to DST and the push of every executing lane, into the ring and, with its number, into
REDDONE; flags go to FSUM alone, and the lowest executing lane has taken the draws of the steps (R91, R152, R187). -/
def Ctx.reducedTo (x : Ctx) (v : DWord) (flags : Flags) (draws : Nat) (s t : State) : Prop :=
  let poison := x.lanes.any fun i => x.poison 0 i
  let v := if poison then 0 else v
  let seq := x.e.redFirst
  s.onlyCrew t ∧
    t.crew = { s.crew with
      lanes := t.crew.lanes, ring := (⟨seq, v, poison⟩ :: s.crew.ring).take 4, redDone := seq
      fsum := if poison then s.crew.fsum else s.crew.fsum ||| flags
      laneQ := s.crew.laneQ.tail, clock := s.crew.clock + 1 } ∧
    ∀ i < 96, ∃ m, x.lanePushed true (fun _ => ⟨v, poison, 0⟩) i (s.crew.lane i) m ∧
      t.crew.lane i = { m with
        preds := (s.crew.lane i).preds
        count := if x.lanes.head? = some i then m.count + BitVec.ofNat 32 draws else m.count }

/-- As Retires, for a long-latency instruction that sends each executing lane a result. -/
def SendsIf (mk : LaneFields → Instr) (shape : State → LaneFields → Shape) (ok : State → Ctx → Prop)
    (g : State → Ctx → Nat → LaneRes) : Prop := Retires mk shape ok fun x s t => x.underWay (g s x) s t

/-- As Ctx.pushed, with a further change of each lane after the push. -/
def Ctx.pushedThen (x : Ctx) (r : Nat → LaneRes) (post : Nat → LaneState → LaneState) (s t : State) : Prop :=
  s.onlyCrew t ∧
    t.crew = { s.crew with
      lanes := t.crew.lanes, fsum := t.crew.fsum, laneQ := s.crew.laneQ.tail, clock := s.crew.clock + 1 } ∧
    (∀ i < 96, ∃ m, x.lanePushed true r i (s.crew.lane i) m ∧ m.preds = (s.crew.lane i).preds ∧ t.crew.lane i = post i m) ∧
    ∀ j < 6, t.crew.fsum.getLsbD j =
      (s.crew.fsum.getLsbD j || (List.range 96).any fun i => x.exec.getLsbD i && !(r i).poison && (r i).flags.getLsbD j)

/-- A state in which the crew in focus reads the bytes that read gives, SPP at a value, and which differs from s in nothing
else but the ordering log. -/
def State.reads (s u : State) (spp : Nat) (read : Bool → Nat → Byte) : Prop :=
  u = { s with crews := u.crews, mem := u.mem, ckpt := u.ckpt } ∧ (∀ n, n ≠ s.cur → u.crewAt n = s.crewAt n) ∧
    u.crew = { s.crew with window := u.crew.window, spp := spp } ∧ (∀ sp k, u.crewByte sp k = read sp k) ∧
    s.mem.coreKept u.mem

/-- Atomics in their order on what a crew reads: each takes the old value and puts its new one; a poisoned location keeps
its bytes (R35, R195). The reads after all of them, and the old value of each. -/
def atomsOn (poisoned : AtomOp → Bool) (read : Bool → Nat → Byte) : List AtomOp → (Bool → Nat → Byte) × List (Nat × Nat)
  | [] => (read, [])
  | o :: rest =>
    let old := leNat ((List.range o.bytes).map fun j => read o.spad (o.addr + j))
    let new := (o.apply old).1
    let read' (sp : Bool) (k : Nat) : Byte :=
      if !poisoned o ∧ sp = o.spad ∧ o.addr ≤ k ∧ k < o.addr + o.bytes then .ofNat 8 (new / 2 ^ (8 * (k - o.addr))) else read sp k
    let r := atomsOn poisoned read' rest
    (r.1, (o.lane, old) :: r.2)

/-! ## Links and packets -/

/-- Nothing but one link differs. -/
def State.linkOnly (s t : State) (key : Nat) (x : Link) : Prop :=
  t = { s with fabric := { s.fabric with links := t.fabric.links } } ∧ ∀ l, t.link l = if l = key then x else s.link l

/-- Nothing but one fibre group, and the choices taken, differ. -/
def State.groupOnly (s t : State) (g : Nat) (x : Group) : Prop :=
  t = { s with fabric := { s.fabric with groups := t.fabric.groups }, choices := t.choices } ∧
    ∀ l, t.fibreGroup l = if l = g then x else s.fibreGroup l

/-- A packet has been sent: to the own peer it stands in the inbox, else its flits stand last in egress with the next
places of their stream (R18, R332, R350). -/
def State.sentTo (s t : State) (p : Packet) : Prop :=
  let q := { p with pois := coarsePoison (hasHeader p.kind) p.pois }
  if p.dst = s.fabric.peer then
    t.fabric.inbox = s.fabric.inbox ++ [q] ∧ t.fabric.egress = s.fabric.egress ∧ t.fabric.fseq = s.fabric.fseq
  else
    let key := 8 * p.dst + kindVc p.kind
    let n := mapGet 0 s.fabric.fseq key
    let fs := packetFlits q
    t.fabric.inbox = s.fabric.inbox ∧ mapGet 0 t.fabric.fseq key = (n + fs.length) % 2 ^ 32 ∧
      ∃ new, t.fabric.egress = s.fabric.egress ++ new ∧ new.length = fs.length ∧
        ∀ i < fs.length, ∀ x y, new[i]? = some x → fs[i]? = some y → x = { y with fseq := BitVec.ofNat 32 (n + i) }

/-! ## The starter protocol -/

/-- The fabric has taken messages and nothing else: a TIM flit for each destination of each stands last in egress, or, for the
package itself, with its firmware (R370). -/
def State.carried (s t : State) (ms : List Message) : Prop :=
  t.fabric = { s.fabric with ptp := t.fabric.ptp, egress := t.fabric.egress, fseq := t.fabric.fseq } ∧
    let out := ms.flatMap fun m => (if m.toward = everyPeer then s.otherPackages else [m.toward]).map fun d => (d, m)
    let far := out.filter fun x => x.1 != s.fabric.peer
    let own := out.filter fun x => x.1 == s.fabric.peer
    ∃ fs loop, t.fabric.egress = s.fabric.egress ++ fs ∧ t.fabric.ptp = s.fabric.ptp ++ loop ∧
      (fs.map fun f => (f.dst, f.kind, f.payload)) =
        (far.map fun x => (BitVec.ofNat 16 x.1, x.2.kind, BitVec.ofNat 1024 (leNat (messageBody x.2)))) ∧
      (loop.map fun x => (x.flit.kind, x.flit.payload)) =
        own.map fun x => (x.2.kind, BitVec.ofNat 1024 (leNat (messageBody x.2)))

/-- The member bitmap of an entry, then the core maps of n members, are under way to a member's window 255 (R365). -/
def State.putsMaps (s t : State) (e : HeatEntry) (m n : Nat) : Prop :=
  ∃ rs : List Req, (∀ r ∈ rs, r ∈ t.fabric.reqs ∧ r.origin = 4 ∧ r.ticket = e.seq ∧ r.index = m ∧ r.packet.kind = kPutReq ∧
      r.packet.heat = 0 ∧ r.packet.dst = m) ∧
    rs.flatMap (fun r => r.packet.data) = s.sheetRead e.memb.toNat 512 ++ s.sheetRead e.cmap.toNat (32 * n) ∧
    rs.head?.map (fun r => r.packet.addr) = some (.ofNat 64 (m * 2 ^ 52 + 255 * 2 ^ 44 + e.memb.toNat))

/-- A run of bytes is under way to a member's window 255, from an offset on, for a sheet entry (R365). -/
def State.putsRun (t : State) (seq : Word) (m off : Nat) (bs : List Byte) : Prop :=
  ∃ rs : List Req, (∀ r ∈ rs, r ∈ t.fabric.reqs ∧ r.origin = 4 ∧ r.ticket = seq ∧ r.index = m ∧ r.packet.kind = kPutReq ∧
      r.packet.heat = 0 ∧ r.packet.dst = m) ∧
    rs.flatMap (fun r => r.packet.data) = bs ∧
    rs.head?.map (fun r => r.packet.addr) = some (.ofNat 64 (m * 2 ^ 52 + 255 * 2 ^ 44 + off))

end Sys2Proof.Machine
end

