-- ==== Sys2Proof/Certificates/Slice0/Obligations.lean ====
section
/-! DEFINITION. The statements for the provers. Each docstring names the rules of the specification that it states. -/

open Sys2Proof Sys2Proof.Machine

/-! ## Scalar arithmetic -/

/-- The word is the one that decodes to the instruction, and no other does. -/
def Sys2Proof.Claim.EncodedAs (i : Instr) (w : Word) : Prop := ∀ v : Word, decodeScalar v = .ok i ↔ v = w

/-- R92, R141, R142, R144, R145: the words of the arithmetic, immediate, shift and field instructions, each the only one of
its instruction; a word of SHF or BITS whose operation is 5 to 7, and of BITS with FN[3] for another than BFX, is none. -/
def Sys2Proof.Claim.ScalarEncodings : Prop :=
  ∀ (d a b : RegNo) (u : BitVec 1) (i : BitVec 16) (l : BitVec 21) (k : BitVec 5),
    let sr (op : BitVec 6) (b : RegNo) (fn : BitVec 11) : Word := op ++ d ++ a ++ b ++ fn
    (Claim.EncodedAs (.add d a b) (sr 0x0C b 0) ∧ Claim.EncodedAs (.sub d a b) (sr 0x0D b 0) ∧
      Claim.EncodedAs (.mul d a b) (sr 0x0E b 0) ∧ Claim.EncodedAs (.mulh d a b u) (sr 0x0F b (0#10 ++ u)) ∧
      Claim.EncodedAs (.div d a b u) (sr 0x10 b (0#10 ++ u)) ∧ Claim.EncodedAs (.andS d a b) (sr 0x11 b 0) ∧
      Claim.EncodedAs (.orS d a b) (sr 0x12 b 0) ∧ Claim.EncodedAs (.xorS d a b) (sr 0x13 b 0)) ∧
    (Claim.EncodedAs (.addi d a i) (0x17#6 ++ d ++ a ++ i) ∧ Claim.EncodedAs (.li d l) (0x18#6 ++ d ++ l) ∧
      Claim.EncodedAs (.lui d i) (0x19#6 ++ d ++ 0#5 ++ i)) ∧
    (∀ p ∈ [(0, Instr.shl d a b, Instr.shlImm d a k), (1, .shr d a b, .shrImm d a k), (2, .sra d a b, .sraImm d a k),
        (3, .rol d a b, .rolImm d a k), (4, .ror d a b, .rorImm d a k)],
      Claim.EncodedAs p.2.1 (sr 0x14 b (.ofNat 11 p.1)) ∧
        Claim.EncodedAs p.2.2 (sr 0x14 0 (.ofNat 11 (p.1 + 8 + 16 * k.toNat)))) ∧
    (Claim.EncodedAs (.bfx d a b u) (sr 0x1A b (0#7 ++ u ++ 0#3)) ∧ Claim.EncodedAs (.bfi d a b) (sr 0x1A b 1) ∧
      Claim.EncodedAs (.clz d a) (sr 0x1A 0 2) ∧ Claim.EncodedAs (.popc d a) (sr 0x1A 0 3) ∧
      Claim.EncodedAs (.brev d a) (sr 0x1A 0 4)) ∧
    ∀ w : Word, let op := (w.extractLsb' 26 6).toNat; let fn := (w.extractLsb' 0 3).toNat
      ((op = 0x14 ∨ op = 0x1A) ∧ 5 ≤ fn) ∨ (op = 0x1A ∧ fn ≠ 0 ∧ w.getLsbD 3) → ∃ r, decodeScalar w = .error r

/-- R141: ADD, SUB, MUL, MULH, DIV, AND, OR and XOR write their result into sD, a write to s0 is discarded, and nothing
else changes but SPC and the logical clock. -/
def Sys2Proof.Claim.ScalarArithmetic : Prop :=
  ∀ (s : State) (d a b : RegNo), let x := s.sreg a; let y := s.sreg b
    Completes (.add d a b) s (fun t => s.wrote t d (.ofInt 32 (x.toInt + y.toInt))) ∧
    Completes (.sub d a b) s (fun t => s.wrote t d (.ofInt 32 (x.toInt - y.toInt))) ∧
    Completes (.mul d a b) s (fun t => s.wrote t d (.ofNat 32 (x.toNat * y.toNat))) ∧
    Completes (.mulh d a b 0) s (fun t => s.wrote t d (.ofInt 32 (x.toInt * y.toInt / 2 ^ 32))) ∧
    Completes (.mulh d a b 1) s (fun t => s.wrote t d (.ofNat 32 (x.toNat * y.toNat / 2 ^ 32))) ∧
    Completes (.div d a b 0) s (fun t =>
      s.wrote t d (if y = 0 then 0xFFFFFFFF else .ofInt 32 (x.toInt.tdiv y.toInt))) ∧
    Completes (.div d a b 1) s (fun t => s.wrote t d (if y = 0 then 0xFFFFFFFF else .ofNat 32 (x.toNat / y.toNat))) ∧
    (∃ v, Completes (.andS d a b) s (fun t => s.wrote t d v) ∧
      ∀ j < 32, v.getLsbD j = (x.getLsbD j && y.getLsbD j)) ∧
    (∃ v, Completes (.orS d a b) s (fun t => s.wrote t d v) ∧
      ∀ j < 32, v.getLsbD j = (x.getLsbD j || y.getLsbD j)) ∧
    ∃ v, Completes (.xorS d a b) s (fun t => s.wrote t d v) ∧
      ∀ j < 32, v.getLsbD j = (x.getLsbD j != y.getLsbD j)

/-- R142: ADDI, LI and LUI. -/
def Sys2Proof.Claim.ScalarImmediates : Prop :=
  ∀ (s : State) (d a : RegNo) (i : BitVec 16) (l : BitVec 21),
    Completes (.addi d a i) s (fun t => s.wrote t d (.ofInt 32 ((s.sreg a).toInt + i.toInt))) ∧
    Completes (.li d l) s (fun t => s.wrote t d (.ofInt 32 l.toInt)) ∧
    Completes (.lui d i) s fun t => s.wrote t d (.ofNat 32 (i.toNat * 2 ^ 16 + (s.sreg d).toNat % 2 ^ 16))

/-- R144: the shifts and rotations, by sB[4:0] or by the immediate amount. -/
def Sys2Proof.Claim.ScalarShifts : Prop :=
  ∀ (s : State) (d a b : RegNo) (k : BitVec 5), let x := s.sreg a
    let does (reg imm : Instr) (v : Nat → Word) : Prop :=
      Completes reg s (fun t => s.wrote t d (v ((s.sreg b).toNat % 32))) ∧
        Completes imm s fun t => s.wrote t d (v k.toNat)
    does (.shl d a b) (.shlImm d a k) (fun n => .ofNat 32 (x.toNat * 2 ^ n)) ∧
    does (.shr d a b) (.shrImm d a k) (fun n => .ofNat 32 (x.toNat / 2 ^ n)) ∧
    does (.sra d a b) (.sraImm d a k) (fun n => .ofInt 32 (x.toInt / 2 ^ n)) ∧
    does (.rol d a b) (.rolImm d a k) (fun n => .ofNat 32 (x.toNat * 2 ^ n % 2 ^ 32 + x.toNat / 2 ^ (32 - n))) ∧
    does (.ror d a b) (.rorImm d a k) fun n => .ofNat 32 (x.toNat / 2 ^ n + x.toNat * 2 ^ (32 - n) % 2 ^ 32)

/-- R145: BFX, BFI, CLZ, POPC and BREV; a field that would pass bit 31 ends there. -/
def Sys2Proof.Claim.ScalarFields : Prop :=
  ∀ (s : State) (d a b : RegNo), let x := s.sreg a
    let pos := (s.sreg b).toNat % 32
    let len := min ((s.sreg b).toNat / 256 % 64) (32 - pos)
    Completes (.bfx d a b 0) s (fun t => s.wrote t d (.ofNat 32 (x.toNat / 2 ^ pos % 2 ^ len))) ∧
    (∃ v, Completes (.bfx d a b 1) s (fun t => s.wrote t d v) ∧
      ∀ j < 32, v.getLsbD j = (len != 0 && x.getLsbD (pos + min j (len - 1)))) ∧
    (∃ v, Completes (.bfi d a b) s (fun t => s.wrote t d v) ∧
      ∀ j < 32, v.getLsbD j = if pos ≤ j ∧ j < pos + len then x.getLsbD (j - pos) else (s.sreg d).getLsbD j) ∧
    (∃ v, Completes (.clz d a) s (fun t => s.wrote t d v) ∧
      v.toNat ≤ 32 ∧ (∀ j < 32, 32 - v.toNat ≤ j → x.getLsbD j = false) ∧
      (v.toNat < 32 → x.getLsbD (31 - v.toNat) = true)) ∧
    Completes (.popc d a) s (fun t => s.wrote t d (.ofNat 32 ((List.range 32).filter fun j => x.getLsbD j).length)) ∧
    ∃ v, Completes (.brev d a) s (fun t => s.wrote t d v) ∧ ∀ j < 32, v.getLsbD j = x.getLsbD (31 - j)

/-- R143: CMP writes the truth of its relation into sD and into sp_N, of which the other predicates keep theirs; SEL
selects by sp_N; a cond of 6 or 7 raises the illegal-instruction trap. -/
def Sys2Proof.Claim.ScalarCompare : Prop :=
  ∀ (s : State) (d a b : RegNo) (n : BitVec 3) (u : BitVec 1) (c : BitVec 3),
    let x : Int := if u = 1 then (s.sreg a).toNat else (s.sreg a).toInt
    let y : Int := if u = 1 then (s.sreg b).toNat else (s.sreg b).toInt
    let holds : Bool := match c.toNat with
      | 0 => decide (x = y) | 1 => decide (x ≠ y) | 2 => decide (x < y) | 3 => decide (x ≤ y) | 4 => decide (y < x)
      | _ => decide (y ≤ x)
    (c.toNat < 6 → Completes (.cmp d a b n u c) s fun t =>
      ∃ s1, s.onlyCrew s1 ∧ s1.crew = { s.crew with sp := s1.crew.sp } ∧
        (∀ j < 8, s1.crew.sp.getLsbD j = if j = n.toNat then holds else s.crew.sp.getLsbD j) ∧
        s1.wrote t d (if holds then 1 else 0)) ∧
    (6 ≤ c.toNat → ∃ v, exec (.cmp d a b n u c) s = .next (s.raise 0x01 9 0 v)) ∧
    Completes (.sel d a b n) s fun t => s.wrote t d (if s.crew.sp.getLsbD n.toNat then s.sreg a else s.sreg b)

/-- R141, R142, R144, R145, and of R143 the results and the reserved conditions: the scalar arithmetic, immediate, shift,
field and compare words write their result and change nothing else; the encodings of the first four. -/
def Obligations.ScalarResults : Prop := Claim.ScalarEncodings ∧ Claim.ScalarArithmetic ∧ Claim.ScalarImmediates ∧ Claim.ScalarShifts ∧
  Claim.ScalarFields ∧ Claim.ScalarCompare

/-! ## Control of flow -/

/-- R134, R135: the no-operations; the hint of n lines has no architectural effect and never faults. -/
def Sys2Proof.Claim.NoOperations : Prop :=
  ∀ (s : State) (k : BitVec 1) (n : BitVec 9),
    Completes .nop s (fun t => s.wentTo t (s.split.spc + 4)) ∧
    Completes (.nopHint k n) s fun t => s.wentTo t (s.split.spc + 4)

/-- R95, R134: BR, BRC, CALL and RET go to their target where it is a word of .scalar, and raise the illegal-instruction
trap with field number 12 and the target where it is not; CALL links in s31. -/
def Sys2Proof.Claim.Branches : Prop :=
  ∀ (s : State) (o : BitVec 26) (p : BitVec 18) (a : RegNo) (n : BitVec 3),
    let far : Word := .ofInt 32 (s.split.spc + 4 * o.toInt)
    let near : Word := .ofInt 32 (s.split.spc + 4 * p.toInt)
    let inside (t : Word) : Prop := t.toNat % 4 = 0 ∧ t.toNat + 4 ≤ s.launch.scalarLen
    let sp := s.crew.sp.getLsbD n.toNat
    let no := n.setWidth 4
    let traps (i : Instr) (t : Word) : Prop := exec i s = .next (s.raise 0x01 12 0 t)
    (inside far →
      Completes (.br o) s (fun t => s.wentTo t far.toNat) ∧
      Completes (.call o) s fun t =>
        s.onlyCrew t ∧
        t.crew = { s.crew with splits := t.crew.splits, clock := s.crew.clock + 1 } ∧
        (∀ k, k ≠ s.curSplit → t.crew.split k = s.crew.split k) ∧
        t.split = { s.split with spc := far.toNat, wait := .none, banked := t.split.banked } ∧
        ∀ r, t.sreg r = if r = 31 then .ofNat 32 (s.split.spc + 4) else s.sreg r) ∧
    (inside near →
      Completes (.brc 0 no p) s (fun t => s.wentTo t (if sp then near.toNat else s.split.spc + 4)) ∧
      Completes (.brc 1 no p) s (fun t => s.wentTo t (if sp then s.split.spc + 4 else near.toNat)) ∧
      Completes (.brc 2 0 p) s fun t => s.wentTo t near.toNat) ∧
    (inside (s.sreg a) → Completes (.ret a) s fun t => s.wentTo t (s.sreg a).toNat) ∧
    (¬inside far → traps (.br o) far ∧ traps (.call o) far) ∧
    (¬inside near → traps (.brc 0 no p) near ∧ traps (.brc 1 no p) near ∧ traps (.brc 2 0 p) near) ∧
    (¬inside (s.sreg a) → traps (.ret a) (s.sreg a))

/-- R43, R149: LJMP sets the LPC of the split and leaves the queue untouched; an index at or beyond the end of .lane
raises the illegal-instruction trap and leaves LPC. -/
def Sys2Proof.Claim.LaneJump : Prop :=
  ∀ (s : State) (o : BitVec 26),
    (12 * o.toNat + 12 ≤ s.launch.laneLen → Completes (.ljmp o) s fun t =>
      s.onlyCrew t ∧ t.crew = { s.crew with splits := t.crew.splits, clock := s.crew.clock + 1 } ∧
      (∀ k, k ≠ s.curSplit → t.crew.split k = s.crew.split k) ∧
      t.split = { s.split with spc := s.split.spc + 4, wait := .none, lpc := 12 * o.toNat }) ∧
    (s.launch.laneLen < 12 * o.toNat + 12 → exec (.ljmp o) s = .next (s.raise 0x01 12 0 (.ofNat 32 o.toNat)))

/-- R43, R95, R134, R135, R149: the words that only go on, the branches, the call and return, and the jump of the lane
stream. -/
def Obligations.ControlFlow : Prop := Claim.NoOperations ∧ Claim.Branches ∧ Claim.LaneJump

/-- R48, R49: BSPL outside a handler, its lane work done and its targets inside their sections, by the lanes where p_N is
true (T) and false (F); a full stack raises the divergence-overflow trap. -/
def Sys2Proof.Claim.SplitDivides : Prop :=
  ∀ (s : State) (c a : BitVec 4) (o : BitVec 18) (T F : LaneMask),
    let toward : Word := .ofInt 32 (s.split.spc + 4 * o.toInt)
    let li := (s.sreg (a.setWidth 5)).toNat
    let p := s.split
    let others (t : State) (k : Nat) : Prop := ∀ j, j ≠ s.curSplit → j ≠ k → t.crew.split j = s.crew.split j
    let crewIs (t : State) (stack : List StackEntry) : Prop :=
      s.onlyCrew t ∧ t.crew = { s.crew with splits := t.crew.splits, stack := stack, clock := s.crew.clock + 1 }
    s.crew.trap.handler = false → s.crew.splitIdle s.curSplit → toward.toNat % 4 = 0 → toward.toNat + 4 ≤ s.launch.scalarLen →
    12 * (li + 1) ≤ s.launch.laneLen →
    (∀ i < 96, T.getLsbD i = (p.mask.getLsbD i && (s.crew.lane i).pred c.toNat)) →
    (∀ i < 96, F.getLsbD i = (p.mask.getLsbD i && !(s.crew.lane i).pred c.toNat)) →
    (T = 0 → Completes (.bspl c a o) s fun t => s.wentTo t (p.spc + 4)) ∧
    (T ≠ 0 → F = 0 → Completes (.bspl c a o) s fun t =>
      crewIs t s.crew.stack ∧ others t s.curSplit ∧ t.split = { p with spc := toward.toNat, lpc := 12 * li, wait := .none }) ∧
    (∀ n < 4, T ≠ 0 → F ≠ 0 → n ≠ s.curSplit → (s.crew.split n).live = false →
      (∀ m < n, (s.crew.split m).live) → Completes (.bspl c a o) s fun t =>
        crewIs t s.crew.stack ∧ others t n ∧
        t.split = { p with spc := p.spc + 4, wait := .none, members := p.members &&& ~~~T, mask := F } ∧
        t.crew.split n = { Split.free with
          live := true, spc := toward.toNat, lpc := 12 * li, fmtr := p.fmtr, members := T, mask := T, banked := p.banked }) ∧
    (T ≠ 0 → F ≠ 0 → (∀ n < 4, (s.crew.split n).live) → s.crew.stack.length < 32 →
      Completes (.bspl c a o) s fun t =>
        crewIs t (⟨s.curSplit, T, toward.toNat, 12 * li, p.fmtr, p.banked, none⟩ :: s.crew.stack) ∧ others t s.curSplit ∧
        t.split = { p with spc := p.spc + 4, wait := .none, mask := F }) ∧
    (T ≠ 0 → F ≠ 0 → (∀ n < 4, (s.crew.split n).live) → 32 ≤ s.crew.stack.length →
      exec (.bspl c a o) s = .next (s.raise 0x0E 0 0 0))

/-- R50: JOIN of the split in focus, k, outside a handler. It waits while another live split neither stands at a JOIN nor
waits in a synchronisation. A split alone at its JOIN that owns no stack entry goes on. Its top entry with no JOIN
recorded records it and the split runs the entry's path; at the JOIN that its top entry records, the entry is popped and
the parts come together. Two splits at JOINs with equal SPC and LPC, neither with a stack entry, merge into the lower one,
which keeps a repeat prefix of the other where it has none of its own (log entry 9). -/
def Sys2Proof.Claim.SplitsJoin : Prop :=
  ∀ (s : State), let k := s.curSplit; let p := s.split
    k < 4 → p.live → s.crew.trap.handler = false →
    ((∃ j < 4, j ≠ k ∧ (s.crew.split j).meets = false) → Completes .join s s.stayed) ∧
    ((∀ j < 4, j ≠ k → (s.crew.split j).live = false) → s.crew.topOf k = none →
      Completes .join s fun t => s.wentTo t (p.spc + 4)) ∧
    (∀ e, (∀ j < 4, j ≠ k → (s.crew.split j).live = false) → s.crew.topOf k = some e → e.join = none →
      Completes .join s fun t =>
        s.onlyCrew t ∧ t.crew.clock = s.crew.clock + 1 ∧
        t.crew.topOf k = some { e with join := some ⟨p.spc, p.lpc, p.mask, p.members, p.banked⟩ } ∧
        t.split = { p with
          spc := e.spc, lpc := e.lpc, fmtr := e.fmtr, members := e.taken, mask := e.taken, banked := e.banked
          wait := .none, onPath := true }) ∧
    (∀ e r, (∀ j < 4, j ≠ k → (s.crew.split j).live = false) → s.crew.topOf k = some e → e.join = some r →
      r.spc = p.spc → r.lpc = p.lpc → Completes .join s fun t =>
        s.onlyCrew t ∧ t.crew.clock = s.crew.clock + 1 ∧ t.crew.stack.length + 1 = s.crew.stack.length ∧
        t.split = { p with
          spc := r.spc + 4, lpc := r.lpc, fmtr := e.fmtr, banked := r.banked, wait := .none
          members := p.members ||| r.members, mask := p.mask ||| r.mask, onPath := t.split.onPath }) ∧
    (∀ j < k, (∀ i < 4, i ≠ j → i ≠ k → (s.crew.split i).live = false) → (s.crew.split j).live →
      (s.crew.split j).wait = .join → (s.crew.split j).spc = p.spc → (s.crew.split j).lpc = p.lpc →
      s.crew.topOf j = none → s.crew.topOf k = none →
      Completes .join s fun t =>
        (t.crewAt s.cur).split j = { s.crew.split j with
          spc := p.spc + 4, wait := .none, members := (s.crew.split j).members ||| p.members
          mask := (s.crew.split j).mask ||| p.mask
          pendingRep := (s.crew.split j).pendingRep.or p.pendingRep } ∧
        (t.crewAt s.cur).split k = .free ∧ (t.crewAt s.cur).clock = s.crew.clock + 2)

/-- R138, R211: EXIT outside a handler waits for the crew's lane work. While another split lives it ends the split; the
last split that owns no stack entry ends the crew, whose status is the first that is not zero, with class 0. -/
def Sys2Proof.Claim.CrewExits : Prop :=
  ∀ (s : State) (a : RegNo),
    let status := if s.crew.status = 0 then s.sreg a &&& 0x00FFFFFF else s.crew.status
    s.crew.trap.handler = false → mapWf Split.free s.crew.splits →
    (s.crew.lanesIdle = false → Completes (.exit a) s s.stayed) ∧
    (s.crew.lanesIdle → s.crew.topOf s.curSplit = none → (∃ j, j ≠ s.curSplit ∧ (s.crew.split j).live) →
      Completes (.exit a) s fun t =>
        (t.crewAt s.cur).live = s.crew.live ∧ (t.crewAt s.cur).status = status ∧
        (t.crewAt s.cur).split s.curSplit = .free ∧ (t.crewAt s.cur).clock = s.crew.clock + 1) ∧
    (s.crew.lanesIdle → s.crew.topOf s.curSplit = none → (∀ j, j ≠ s.curSplit → (s.crew.split j).live = false) →
      Completes (.exit a) s fun t => (t.crewAt s.cur).live = false ∧ (t.crewAt s.cur).status = status)

/-- R48 to R50, R138, R211: BSPL divides a split, JOIN brings its parts together, and EXIT ends them. -/
def Obligations.Splits : Prop := Claim.SplitDivides ∧ Claim.SplitsJoin ∧ Claim.CrewExits

/-! ## Traps -/

/-- R201, R204, R206: a scalar word's trap outside a handler, in a launch with a handler. The cause has class 0x02; the
handler starts in the trapping split with the queue's entries held and the window drained. -/
def Sys2Proof.Claim.TrapEntry : Prop :=
  ∀ (s : State) (code : BitVec 8) (detail : Nat) (addr opnd : Word),
    s.crew.trap.handler = false → s.settings.trap ≠ 0 →
    let t := s.raise code detail addr opnd
    let lpc := match s.crew.laneQ.find? fun e => e.owner == s.curSplit with | some e => e.lpc | none => s.split.lpc
    t.crew.trap = {
      cause := 0x02#8 ++ code ++ BitVec.ofNat 16 detail, spc := s.split.spc, lpc := lpc
      run := .ofNat 32 (min s.crew.laneQ.length 16 + 32 * s.curSplit + 256 * 0x7F)
      addr := addr, opnd := opnd, addrHi := 0, handler := true, split := s.curSplit, held := s.crew.laneQ
      savedMask := s.split.mask, savedFmtr := s.split.fmtr, savedLpc := s.split.lpc, savedRep := s.split.pendingRep
      savedLrun := s.split.lrunLeft, savedSpc := s.split.spc } ∧
    t.split = { s.split with spc := s.settings.trap, wait := .none, lrunLeft := none, pendingRep := none } ∧
    t.crew.laneQ = [] ∧ t.crew.inflight = [] ∧ t.crew.window = [] ∧ t.crew.shared = s.crew.shared ∧
    t.crew.sp = s.crew.sp ∧ t.crew.live = s.crew.live

/-- R207, R210: a scalar word's trap with no handler ends the crew with class 0x01, in a handler with class 0x02. -/
def Sys2Proof.Claim.TrapEndsCrew : Prop :=
  ∀ (s : State) (code : BitVec 8) (detail : Nat) (addr opnd : Word),
    s.crew.trap.handler ∨ s.settings.trap = 0 →
    let t := s.raise code detail addr opnd
    (t.crewAt s.cur).live = false ∧
    (t.crewAt s.cur).status = (if s.crew.trap.handler then 0x02#8 else 0x01#8) ++ code ++ BitVec.ofNat 16 detail

/-- R201, R204, R206, R207, R210: what a trap saves and where the crew goes, with a handler and without. -/
def Obligations.TrapsTaken : Prop := Claim.TrapEntry ∧ Claim.TrapEndsCrew

/-- R137, R201, R208: TRAP takes the software trap with IMM21 in TRAPOPND, which resumes at the next word; it completes in
that entry. -/
def Sys2Proof.Claim.SoftwareTrap : Prop :=
  ∀ (s : State) (i : BitVec 21), s.crew.trap.handler = false → s.settings.trap ≠ 0 →
    Completes (.trap i) s fun t =>
      t.crew.trap.cause = 0x02130000 ∧ t.crew.trap.spc = s.split.spc + 4 ∧ t.crew.trap.opnd = .ofNat 32 i.toNat ∧
      t.crew.trap.addr = 0 ∧ t.crew.trap.handler ∧ t.split.spc = s.settings.trap

/-- R137, R208: ERET outside a handler raises the illegal-instruction trap; in a handler it waits for the handler's lane
work, then restores the split, requeues or drops the trapping split's held entries by TRAPLPC, requeues every other
split's behind them in their order and goes on at TRAPSPC. -/
def Sys2Proof.Claim.TrapReturn : Prop :=
  ∀ (s : State), let tr := s.crew.trap; let k := tr.split; let p := s.crew.split k
    let mine := tr.held.filter fun e => e.owner == k
    let others := tr.held.filter fun e => e.owner != k
    let first := mine.head?.map LaneEntry.lpc
    let back (q : List LaneEntry) (lpc : Nat) : Prop :=
      Completes .eret s fun t =>
        s.onlyCrew t ∧
        t.crew = { s.crew with
          splits := t.crew.splits, laneQ := q, clock := s.crew.clock + 1, trap := { tr with handler := false, held := [] } } ∧
        (∀ j, j ≠ k → t.crew.split j = s.crew.split j) ∧
        t.crew.split k = { p with
          mask := tr.savedMask, fmtr := tr.savedFmtr, lpc := lpc, pendingRep := tr.savedRep, spc := tr.spc, wait := .none
          lrunLeft := if tr.spc = tr.savedSpc then tr.savedLrun else none }
    (tr.handler = false → exec .eret s = .next (s.raise 0x01 0 0 0x0B)) ∧
    (tr.handler → s.crew.lanesIdle = false → Completes .eret s s.stayed) ∧
    (tr.handler → s.crew.lanesIdle →
      (first = some tr.lpc → back (mine ++ others) tr.savedLpc) ∧
      (first.map (· + 12) = some tr.lpc → back (mine.tail ++ others) tr.savedLpc) ∧
      (first ≠ some tr.lpc → first.map (· + 12) ≠ some tr.lpc → back others tr.lpc))

/-- R137, R201, R208: TRAP and ERET. -/
def Obligations.SoftwareTraps : Prop := Claim.SoftwareTrap ∧ Claim.TrapReturn

/-! ## Scalar memory -/

/-- R131, R133, R146: SLD reads the bytes of the access as its crew sees them, extended by the width that the address
carries. A rejected address raises the range trap, a poisoned granule the poison trap. -/
def Sys2Proof.Claim.ScalarLoad : Prop :=
  ∀ (s : State) (d a : RegNo) (i : BitVec 16), s.crew.memoryIdle →
    let ea : Word := .ofInt 32 ((s.sreg a).toInt + i.toInt)
    (∀ p, s.scalarAddr s.cur ea = some p →
      let n := widBytes p.wid
      let v := leNat ((List.range n).map fun j => s.crewByte p.spad (p.addr + j))
      (s.mem.poisoned (spOf p.spad) p.addr n = false → Completes (.sld d a i) s fun t =>
        s.wrote t d (if p.wid = 1 then .ofInt 32 (BitVec.ofNat 8 v).toInt
          else if p.wid = 3 then .ofInt 32 (BitVec.ofNat 16 v).toInt else .ofNat 32 v)) ∧
      (s.mem.poisoned (spOf p.spad) p.addr n → exec (.sld d a i) s = .next (s.raise 0x09 6 ea 0xFF))) ∧
    (s.scalarAddr s.cur ea = none → exec (.sld d a i) s = .next (s.raise 0x0A (scalarRange ea) ea 0))

/-- R23, R146: SST puts the low bytes of sD at its address, where its crew then reads them; nothing else that the crew
reads changes. The premises rule out windows with two entries for one granule and an allocation that does not begin at a
granule, which no run reaches. -/
def Sys2Proof.Claim.ScalarStore : Prop :=
  ∀ (s : State) (d a : RegNo) (i : BitVec 16), s.crew.memoryIdle → windowUnique s.crew.window → 64 ∣ s.crew.bmemLo →
    let ea : Word := .ofInt 32 ((s.sreg a).toInt + i.toInt)
    (∀ p, s.scalarAddr s.cur ea = some p → Completes (.sst d a i) s fun t =>
      s.stored t p.spad p.addr (leBytes (widBytes p.wid) (s.sreg d).toNat) 0 0) ∧
    (s.scalarAddr s.cur ea = none → exec (.sst d a i) s = .next (s.raise 0x0A (scalarRange ea) ea 0))

/-- R133: what a scalar address is: rejected for a reserved WID or SPACE, an offset outside the block's allocation or the
partition's rows, or an offset that is not a multiple of the width. -/
def Sys2Proof.Claim.ScalarAddresses : Prop :=
  ∀ (s : State) (slot : Nat) (a : Word),
    let wid := a.toNat / 2 ^ 29; let sp := a.toNat / 2 ^ 27 % 4; let off := a.toNat % 2 ^ 27
    let c := s.crewAt slot
    let n := if wid = 0 then 4 else if wid = 1 ∨ wid = 2 then 1 else 2
    s.scalarAddr slot a =
      if 5 ≤ wid ∨ 2 ≤ sp ∨ off % n ≠ 0 then none
      else if sp = 0 then
        if off + n ≤ c.bmemLen then some ⟨false, 2 ^ 18 * slotCore slot + c.bmemLo + off, off, wid⟩ else none
      else if (s.partition c.part).rowsOpen (slotDie slot) off n then
        some ⟨true, 2 ^ 26 * slotDie slot + off, off, wid⟩
      else none

/-- R23, R131, R133, R146: SLD, SST and the addresses that they may not use. -/
def Obligations.ScalarMemory : Prop := Claim.ScalarLoad ∧ Claim.ScalarStore ∧ Claim.ScalarAddresses

/-- R36, R147: SATM outside a deterministic launch acts at the array, its granule's window entry written first, and returns
the old value extended as for SLD; in one, every operation but cas is buffered and returns the value of the crew's first
read. -/
def Obligations.ScalarAtomic : Prop :=
  ∀ (s : State) (d a b : RegNo) (sc w o : BitVec 3) (p : ScalarAddr),
    let ea := s.sreg a
    let n := widBytes w.toNat
    let y := (s.sreg b).toNat % 2 ^ (8 * n)
    let old := leNat ((List.range n).map fun j => s.crewByte p.spad (p.addr + j))
    let int (v : Nat) : Int := if w = 0 ∨ w = 1 ∨ w = 3 then (if 2 * v < 2 ^ (8 * n) then v else (v : Int) - 2 ^ (8 * n)) else v
    let new : Nat := match o.toNat with
      | 0 => (old + y) % 2 ^ (8 * n)
      | 1 => if int old ≤ int y then old else y
      | 2 => if int old ≤ int y then y else old
      | 3 => old &&& y
      | 4 => old ||| y
      | 5 => old ^^^ y
      | 6 => y
      | _ => if old = (s.sreg d).toNat % 2 ^ (8 * n) then y else old
    w.toNat < 5 → sc.toNat < 6 → s.crew.memoryIdle → windowUnique s.crew.window → 64 ∣ s.crew.bmemLo →
    ea.toNat < 2 ^ 29 → s.scalarAddrN s.cur (ea ||| w.setWidth 32 <<< 29) n = some p →
    (s.drainGranule s.cur p.spad p.addr).mem.poisoned (spOf p.spad) p.addr n = false →
    s.replayReady (s.objRecord 0x1E none p.spad p.addr) →
    (s.settings.det = false → Completes (.satm d a b sc w o) s fun t =>
      s.stored t p.spad p.addr (leBytes n new) d (.ofInt 32 (int old))) ∧
    (s.settings.det → o ≠ 7 → (windowFind s.crew.window p.spad (p.addr / 64)).isNone →
      Completes (.satm d a b sc w o) s fun t =>
        t.mem = s.mem ∧ t.sreg d = (if d = 0 then 0 else .ofInt 32 (int (s.crew.firstRead s.mem p.spad p.addr n % 2 ^ (8 * n)))) ∧
        t.split.spc = s.split.spc + 4 ∧
        ∃ u, t.crew.buffered = s.crew.buffered ++ [u] ∧ u.spad = p.spad ∧ u.addr = p.addr ∧ u.op = o ∧
          u.operand.toNat = (s.sreg b).toNat)

/-! ## Driving the lane stream -/

/-- R43, R44, R148: LRUN enqueues n lane instructions from LPC on, each with the mask, FMTR, split and s values of its
enqueue, as far as the queue has room, and stays at its word with the rest. A number that is 0, above 65,535 or runs past
.lane raises the illegal-instruction trap. -/
def Sys2Proof.Claim.LaneRunEnqueues : Prop :=
  ∀ (s : State) (a : RegNo) (i : BitVec 16), let p := s.split
    let n := (s.sreg a).toNat + i.toNat
    let bad := n = 0 ∨ 65535 < n ∨ s.launch.laneLen < p.lpc + 12 * n
    let left := match p.lrunLeft with | some k => k | none => n
    let room := 16 - s.crew.laneQ.length
    (p.lrunLeft = none → bad → exec (.lrun a i) s = .next (s.raise 0x01 12 0 (.ofNat 32 n))) ∧
    (p.lrunLeft.isSome ∨ ¬bad → Completes (.lrun a i) s fun t =>
      ∃ es : List LaneEntry, s.onlyCrew t ∧
        t.crew = { s.crew with
          laneQ := s.crew.laneQ ++ es, redSeq := t.crew.redSeq, splits := t.crew.splits
          clock := if left ≤ room then s.crew.clock + 1 else s.crew.clock } ∧
        es.length = min left room ∧ (∀ k, k ≠ s.curSplit → t.crew.split k = s.crew.split k) ∧
        t.split.lpc = p.lpc + 12 * min left room ∧
        (if left ≤ room then t.split.spc = p.spc + 4 ∧ t.split.lrunLeft = none ∧ t.split.wait = .none
          else t.split.spc = p.spc ∧ t.split.lrunLeft = some (left - room) ∧ t.split.wait = .room) ∧
        t.split.mask = p.mask ∧ t.split.members = p.members ∧ t.split.fmtr = p.fmtr ∧ t.split.banked = p.banked ∧
        ∀ j e, es[j]? = some e →
          let w := s.launch.laneWordAt (p.lpc + 12 * j)
          let value (c : BitVec 8) : Word := if isSreg c then s.sreg (.ofNat 5 (c.toNat - 0xC0)) else 0
          e.word = w ∧ e.lpc = p.lpc + 12 * j ∧ e.mask = p.mask ∧ e.fmtr = p.fmtr ∧ e.split = s.curSplit ∧
          e.owner = s.curSplit ∧
          e.svA = value (laneFields w).sa ∧ e.svB = value (laneFields w).sb ∧ e.svC = value (laneFields w).sc)

/-- R53, R150: MOVM reads a mask word, writes one with the lanes outside the member set zero, and reads a beat of a lane
predicate in the active lanes. -/
def Sys2Proof.Claim.MaskMoves : Prop :=
  ∀ (s : State) (d a : RegNo) (b : BitVec 2) (n : BitVec 4), b ≠ 3 →
    (∃ v, Completes (.movmRead d b) s (fun t => s.wrote t d v) ∧
      ∀ j < 32, v.getLsbD j = s.split.mask.getLsbD (32 * b.toNat + j)) ∧
    Completes (.movmWrite a b) s (fun t =>
      s.onlyCrew t ∧ t.crew = { s.crew with splits := t.crew.splits, clock := s.crew.clock + 1 } ∧
      (∀ k, k ≠ s.curSplit → t.crew.split k = s.crew.split k) ∧
      t.split = { s.split with spc := s.split.spc + 4, wait := .none, mask := t.split.mask } ∧
      ∀ i < 96, t.split.mask.getLsbD i = (s.split.members.getLsbD i &&
        if i / 32 = b.toNat then (s.sreg a).getLsbD (i % 32) else s.split.mask.getLsbD i)) ∧
    (s.crew.splitIdle s.curSplit → ∃ v, Completes (.movmPred d n b) s (fun t => s.wrote t d v) ∧
      ∀ j < 32, v.getLsbD j =
        (s.split.mask.getLsbD (32 * b.toNat + j) && (s.crew.lane (32 * b.toNat + j)).pred n.toNat))

/-- R82, R88, R151: FMTS gives the old FMTR and sets the new one; it rejects a non-zero bit in [31:24], DRND 6 or 7 and
SCLM 4 to 7 with the illegal-format trap. -/
def Sys2Proof.Claim.FormatMoves : Prop :=
  ∀ (s : State) (d a : RegNo), let v := s.sreg a
    let ok := v.toNat / 2 ^ 24 = 0 ∧ v.toNat / 2 ^ 15 % 8 < 6 ∧ v.toNat / 2 ^ 21 % 8 < 4
    (ok → Completes (.fmts d a) s fun t => (s.updSplit fun p => { p with fmtr := v }).wrote t d s.split.fmtr) ∧
    (¬ok → exec (.fmts d a) s = .next (s.raise 0x03 13 0 v)) ∧
    Completes (.fmtsRead d) s fun t => s.wrote t d s.split.fmtr

/-- R43, R44, R53, R82, R88, R148, R150, R151: LRUN enqueues lane instructions; MOVM and FMTS move masks and format
registers. -/
def Obligations.LaneRun : Prop := Claim.LaneRunEnqueues ∧ Claim.MaskMoves ∧ Claim.FormatMoves

/-- R152, R153: RDRD reads a reduction of the ring once it has completed and raises the reduction-lost trap for one that
was never issued; FXCK completes where no flag of its mask stands in FSUM and raises the flag-check trap where one does. -/
def Sys2Proof.Claim.ReductionsAndFlags : Prop :=
  ∀ (s : State) (d a : RegNo) (m : BitVec 6) (e : RingEntry),
    let t0 : BitVec 16 := .ofNat 16 (s.sreg a).toNat
    (d.toNat % 2 = 0 → (s.crew.redSeq - t0).toNat < 0x8000 → s.crew.splitIdle s.curSplit →
      (s.crew.redDone - t0).toNat < 4 → (s.crew.ring.find? fun x => x.seq == t0) = some e → e.poison = false →
      Completes (.rdrd d a) s fun t => s.wrotePair t d e.val) ∧
    (d.toNat % 2 = 0 → 0x8000 ≤ (s.crew.redSeq - t0).toNat →
      exec (.rdrd d a) s = .next (s.raise 0x11 1 (.ofNat 32 t0.toNat) 0)) ∧
    (s.crew.lanesIdle → s.crew.fsum &&& m = 0 → Completes (.fxck m) s fun t => s.wentTo t (s.split.spc + 4)) ∧
    (s.crew.lanesIdle → s.crew.fsum &&& m ≠ 0 →
      exec (.fxck m) s = .next (s.raise 0x12 (s.crew.fsum &&& m).toNat 0 (.ofNat 32 m.toNat))) ∧
    (s.crew.lanesIdle = false → Completes (.fxck m) s s.stayed)

/-! ## Synchronisation -/

/-- R24, R29, R33, R139: FENCE at a scope inside the package, or at PKG or GANG with every remote write of the crew
acknowledged, XFNC, YIELD and a YIELD.time that is past, on a crew whose lane work is done: the window drains and the split
goes on; a FENCE at PKG or GANG waits for the rest. A YIELD.jn without children goes on too. -/
def Sys2Proof.Claim.DrainingWords : Prop :=
  ∀ (s : State) (sc : BitVec 3) (a : RegNo), windowUnique s.crew.window →
    let next := s.crew.clock + 1
    (s.crew.lanesIdle → Completes .xfnc s fun t => s.drainedTo t next) ∧
    (s.crew.lanesIdle → sc.toNat < 6 → (sc.toNat < 4 ∨ s.crew.writesOut s.curSplit = false) →
      Completes (.fence sc) s fun t => s.drainedTo t next) ∧
    (s.crew.lanesIdle → sc.toNat < 6 → 4 ≤ sc.toNat → s.crew.writesOut s.curSplit →
      Completes (.fence sc) s fun t => s.emptied t ∧ t.split.spc = s.split.spc) ∧
    (s.crew.lanesIdle = false → Completes .xfnc s s.stayed ∧
      (sc.toNat < 6 → s.split.wait ≠ .sync → Completes (.fence sc) s s.stayed)) ∧
    (∃ u, s.drainedTo u next ∧ exec .yield s = .next u.rotate) ∧
    (a.toNat % 2 = 0 → s.split.wait = .none → s.spair a ≤ s.heat.time →
      Completes (.yieldTime a) s fun t => s.drainedTo t next) ∧
    (s.split.wait = .none → s.crew.jcnt = 0 → s.crew.cancelled = 0 → s.crew.childClock ≤ s.crew.clock →
      Completes .yieldJn s fun t => s.drainedTo t next) ∧
    (s.split.wait = .none → s.crew.jcnt ≠ 0 → Completes .yieldJn s fun t => s.emptied t ∧ t.split.spc = s.split.spc)

/-- R36, R66, R154: FENCE.flush drains the window and, in a deterministic launch, applies the updates of its crew; there it
raises the divergent-sync trap while the crew is divided. -/
def Sys2Proof.Claim.FenceFlush : Prop :=
  ∀ (s : State), windowUnique s.crew.window →
    (s.settings.det = false → s.crew.lanesIdle → Completes .fenceFlush s fun t =>
      t.crew.window = [] ∧ (∀ sp k, t.mem.byte (spOf sp) k = s.crewByte sp k) ∧ t.split.spc = s.split.spc + 4 ∧
      t.crew.clock = s.crew.clock + 1) ∧
    (s.settings.det → s.crew.divided = false → s.crew.lanesIdle → s.least s.sameBlock →
      Completes .fenceFlush s fun t =>
        t.crew.window = [] ∧ t.crew.buffered = [] ∧ t.crew.firstReads = [] ∧ t.split.spc = s.split.spc + 4 ∧
        t.mem = (s.crew.updates.foldl (fun m b => (b.apply m).1) s.drain.mem)) ∧
    (s.settings.det → s.crew.divided →
      exec .fenceFlush s = .next (s.raise 0x0D s.crew.liveSplits.length 0 0))

/-- R24, R29, R33, R36, R66, R139, R152 to R154: RDRD, FXCK, the words that drain the store window, and FENCE.FLUSH. -/
def Obligations.StreamWords : Prop := Claim.ReductionsAndFlags ∧ Claim.DrainingWords ∧ Claim.FenceFlush

/-- R12, R34, R139, R140: WSEQ and YIELD.seq on a ticket that S covers complete, YIELD.seq after a drain of the window;
a ticket that has not been issued raises the sequence trap, a set async-fault bit the async-fault trap. -/
def Sys2Proof.Claim.TicketWaits : Prop :=
  ∀ (s : State) (a : RegNo) (q : BitVec 4), q.toNat < 7 → s.split.wait = .none → windowUnique s.crew.window →
    let u := s.queue s.qk q.toNat
    let v := s.sreg a
    let issued := ¬(1 ≤ (v - u.issue).toNat ∧ (v - u.issue).toNat < 2 ^ 31)
    let clean := s.crew.asyncf.getLsbD q.toNat = false
    let clock := (if s.crew.clock < u.clockOf v then u.clockOf v else s.crew.clock) + 1
    (issued → clean → (u.seq - v).toNat < 2 ^ 31 →
      Completes (.wseq a q) s (fun t => s.wentAt t (s.split.spc + 4) clock) ∧
      Completes (.yieldSeq a q) s fun t => s.drainedTo t clock) ∧
    (issued → clean → 2 ^ 31 ≤ (u.seq - v).toNat →
      Completes (.wseq a q) s s.stayed ∧ Completes (.yieldSeq a q) s fun t => s.emptied t ∧ t.split.spc = s.split.spc) ∧
    (¬issued → exec (.wseq a q) s = .next (s.raise 0x0F q.toNat v 0) ∧
      exec (.yieldSeq a q) s = .next (s.raise 0x0F q.toNat v 0)) ∧
    (issued → ¬clean → exec (.wseq a q) s = .next (s.raise 0x10 q.toNat v 0) ∧
      exec (.yieldSeq a q) s = .next (s.raise 0x10 q.toNat v 0))

/-- R31: QFNC keeps the issue counts of the queues that its mask names as what a later entry of one of them waits for; a
mask of zero has no effect. It never stops the crew. -/
def Sys2Proof.Claim.QueueFence : Prop :=
  ∀ (s : State) (m : BitVec 7), Completes (.qfnc m) s fun t =>
    t.crew.clock = s.crew.clock + 1 ∧ t.split = { s.split with spc := s.split.spc + 4, wait := .none } ∧ t.mem = s.mem ∧
    (∀ q, t.queue s.qk q = s.queue s.qk q) ∧
    (t.qset s.qk).fences = (s.qset s.qk).fences ++
      (if m = 0 then []
       else [(m, ((List.range 7).filter fun q => m.getLsbD q).map fun q => (q, (s.queue s.qk q).issue))])

/-- R12, R31, R34, R139, R140: the waits for a ticket and the fence of a queue. -/
def Obligations.Tickets : Prop := Claim.TicketWaits ∧ Claim.QueueFence

/-- R26, R28: ACQ.x takes a free object for the split, ACQ.s shares a free or shared one, ACQ.w waits for COUNT and takes
nothing; each first drains the bound entries of the object's regions where it takes it. -/
def Sys2Proof.Claim.Acquires : Prop :=
  ∀ (s : State) (a b : RegNo) (p : ScalarAddr), let u := s.drainBound p
    let w := u.objLow p.spad p.addr
    let alone := ∀ x ∈ s.crews, ∀ k ∈ x.2.splits, ∀ e sp o c n, k.2.wait = .acquire e sp o c n → o ≠ p.addr
    let gone (t : State) : Prop := t.split.spc = s.split.spc + 4 ∧ t.split.wait = .none
    s.objAddr (s.sreg a) = .ok p → s.crew.relRetired p = false → s.relFaulted p = false → s.settings.det = false →
    s.crew.lanesIdle → s.curSplit < 4 → s.split.wait = .none → alone →
    s.replayReady (s.objRecord 0x25 none p.spad p.addr) →
    (u.mem.poisoned (spOf p.spad) p.addr 8 = false → objMode w = 0 → Completes (.acqX a) s fun t =>
      gone t ∧ t.objLow p.spad p.addr = 2 ^ 30 + s.selfHold ∧ t.objCount p.spad p.addr = u.objCount p.spad p.addr) ∧
    (u.mem.poisoned (spOf p.spad) p.addr 8 = false → objMode w = 0 ∨ (objMode w = 2 ∧ objXw w = false) →
      objHold w + 1 < 2 ^ 29 → (objMode w = 0 → objHold w = 0) → Completes (.acqS a) s fun t =>
        gone t ∧ objMode (t.objLow p.spad p.addr) = 2 ∧ objHold (t.objLow p.spad p.addr) = objHold w + 1 ∧
        t.objCount p.spad p.addr = u.objCount p.spad p.addr) ∧
    (u.mem.poisoned (spOf p.spad) p.addr 8 = false → objMode w = 1 ∨ objMode w = 2 → objHold w ≠ s.selfHold →
      Completes (.acqX a) s fun t =>
        t.split.spc = s.split.spc ∧ objXw (t.objLow p.spad p.addr) ∧ objMode (t.objLow p.spad p.addr) = objMode w) ∧
    (s.mem.poisoned (spOf p.spad) p.addr 8 = false → objMode (s.objLow p.spad p.addr) ≠ 3 →
      (s.objCount p.spad p.addr - s.sreg b).toNat < 2 ^ 31 → Completes (.acqW a b) s fun t => gone t ∧ t.mem = s.mem)

/-- R28, R65: REL by the exclusive holder frees the object, REL of a shared one takes one holder off and frees it with the
last; COUNT goes up by one. A REL that owns nothing raises the sync-object trap. -/
def Sys2Proof.Claim.Releases : Prop :=
  ∀ (s : State) (a : RegNo) (p : ScalarAddr), let w := s.objLow p.spad p.addr
    s.objAddr (s.sreg a) = .ok p → s.settings.det = false → s.crew.lanesIdle →
    s.mem.poisoned (spOf p.spad) p.addr 8 = false → s.replayReady (s.objRecord 0x26 none p.spad p.addr) →
    (windowFind s.crew.window p.spad (p.addr / 64)).isNone →
    let rel (mode hold : Nat) : Prop :=
      Completes (.rel a) s fun t =>
        objMode (t.objLow p.spad p.addr) = mode ∧ objHold (t.objLow p.spad p.addr) = hold ∧
        t.objCount p.spad p.addr = s.objCount p.spad p.addr + 1 ∧ t.split.spc = s.split.spc + 4
    (objMode w = 1 → objHold w = s.selfHold → rel 0 0) ∧
    (objMode w = 2 → 1 < objHold w → rel 2 (objHold w - 1)) ∧
    (objMode w = 2 → objHold w = 1 → rel 0 0) ∧
    (objMode w = 0 ∨ (objMode w = 1 ∧ objHold w ≠ s.selfHold) ∨ (objMode w = 2 ∧ objHold w = 0) →
      exec (.rel a) s = .next (s.raise 0x0B 3 (s.sreg a) 0))

/-- R26, R28, R65: ACQ and REL. -/
def Obligations.SyncObjects : Prop := Claim.Acquires ∧ Claim.Releases

/-- R30, R60, R61: BAR in a cohort of this package, outside a deterministic launch. The arrival that reaches TOTAL with the
departures ends the generation and goes on; an earlier one waits; a crew whose generation has passed goes on. A slot that
names no valid cohort raises the cohort trap. -/
def Obligations.Barriers : Prop :=
  ∀ (s : State) (n : BitVec 2) (i : Nat) (h : Cohort),
    let cohort (t : State) : Option Cohort := mapFind t.launch.cohorts i
    (s.split.bar = none → s.cohortOf s.crew n.toNat = none →
      exec (.bar n) s = .next (s.raise 0x0C n.toNat 0 (.ofNat 32 n.toNat))) ∧
    (s.split.bar = none → s.cohortOf s.crew n.toNat = some (i, h) → h.spans = false → s.settings.det = false →
      s.crew.lanesIdle → (h.scope < 4 ∨ s.crew.writesOut s.curSplit = false) → h.arrived.contains s.crew.uid = false →
      s.replayReady (s.logRecord 0x24 none false (.ofNat 64 i)) →
      (h.total ≤ h.arrive + 1 + h.depart → Completes (.bar n) s fun t =>
        t.split.spc = s.split.spc + 4 ∧ t.split.bar = none ∧ t.crew.window = [] ∧
        ∃ g, cohort t = some g ∧ g.gen = h.gen + 1 ∧ g.arrive = 0 ∧ g.arrived = []) ∧
      (h.arrive + 1 + h.depart < h.total → Completes (.bar n) s fun t =>
        t.split.spc = s.split.spc ∧ t.split.bar = some (i, h.gen) ∧ t.split.wait = .sync ∧ t.crew.window = [] ∧
        ∃ g, cohort t = some g ∧ g.gen = h.gen ∧ g.arrive = h.arrive + 1)) ∧
    (∀ g, s.split.bar = some (i, g) → cohort s = some h → h.spans = false → h.gen = g + 1 →
      Completes (.bar n) s fun t => t.split.spc = s.split.spc + 4 ∧ t.split.bar = none ∧ t.split.wait = .none)

/-! ## Issuing to the engines -/

/-- R12, R216 to R218, R222: CPY, TCPY and DCPY into a copy queue with a free entry: the ticket goes to sD, the 64 bytes of
the entry into its slot of the chain row, and no other byte of memory changes. -/
def Sys2Proof.Claim.CopyIssue : Prop :=
  ∀ (s : State) (d a b : RegNo) (q : BitVec 4) (e sp : BitVec 3), q.toNat < 4 → s.waiting s.qk q.toNat < 128 →
    let k := s.qk
    let n := (s.queue k q.toNat).issue + 1
    let slot := s.chainSlot k q.toNat n
    let wrote (t : State) (bs : List Byte) : Prop :=
      (∀ j < 64, t.mem.byte .spad (slot + j) = bs.getD j 0) ∧
      (∀ x, x < slot ∨ slot + 64 ≤ x → t.mem.byte .spad x = s.mem.byte .spad x) ∧ t.mem.bmem = s.mem.bmem ∧
      s.mem.coreKept t.mem ∧ t.launches = s.launches ∧ t.ckpt = s.ckpt ∧ t.crew.unacked = s.crew.unacked
    let entry (opc spaces x y len : Nat) : List Byte :=
      leBytes 1 opc ++ leBytes 1 spaces ++ [0] ++ leBytes 1 s.crew.fltq.toNat ++ leBytes 4 n.toNat ++ leBytes 8 x ++
        leBytes 8 y ++ leBytes 8 len ++ List.replicate 32 0
    let desc (i : Instr) (opc opcode : Nat) : Prop :=
      (s.spadAddr s.crew.part (slotDie s.cur) (s.sreg a) 256 256).isSome → Completes i s fun t =>
        s.issued t q.toNat d (fun x => x.opcode.toNat = opcode) ∧ wrote t (entry opc 0 (s.sreg a).toNat 0 0)
    (a.toNat % 2 = 0 → b.toNat % 2 = 0 → (e.toNat < 7 ∧ sp.toNat < 7) ∨ s.settings.priv →
      Completes (.cpy d a b q e sp) s fun t =>
        s.issued t q.toNat d (fun x => x.opcode = 0x2B) ∧
        wrote t (entry 1 (8 * e.toNat + sp.toNat) (s.spair a).toNat (s.spair b).toNat (s.sreg d).toNat)) ∧
    desc (.tcpy d a q) 2 0x2C ∧ desc (.dcpy d a q) 3 0x2D

/-- R222: what CPY, TCPY and DCPY turn away at issue: a queue code of 4 or more, a pair that is not even, a copy in space 7
by a crew that is not privileged, a descriptor outside the rows or not aligned to 256 bytes; a full queue makes them wait
at their word. -/
def Sys2Proof.Claim.CopyIssueChecks : Prop :=
  ∀ (s : State) (d a b : RegNo) (q : BitVec 4) (e sp : BitVec 3),
    (4 ≤ q.toNat → exec (.cpy d a b q e sp) s = .next (s.raise 0x01 11 0 (.ofNat 32 q.toNat)) ∧
      exec (.tcpy d a q) s = .next (s.raise 0x01 11 0 (.ofNat 32 q.toNat)) ∧
      exec (.dcpy d a q) s = .next (s.raise 0x01 11 0 (.ofNat 32 q.toNat))) ∧
    (q.toNat < 4 →
      (a.toNat % 2 = 1 → exec (.cpy d a b q e sp) s = .next (s.raise 0x01 2 0 (.ofNat 32 a.toNat))) ∧
      (a.toNat % 2 = 0 → b.toNat % 2 = 1 → exec (.cpy d a b q e sp) s = .next (s.raise 0x01 3 0 (.ofNat 32 b.toNat))) ∧
      (a.toNat % 2 = 0 → b.toNat % 2 = 0 → e = 7 ∨ sp = 7 → s.settings.priv = false →
        exec (.cpy d a b q e sp) s = .next (s.raise 0x06 0 0 0x2B)) ∧
      (s.spadAddr s.crew.part (slotDie s.cur) (s.sreg a) 256 256 = none →
        exec (.tcpy d a q) s = .next (s.raise 0x0A 3 (s.sreg a) 0) ∧
        exec (.dcpy d a q) s = .next (s.raise 0x0A 3 (s.sreg a) 0)) ∧
      (a.toNat % 2 = 0 → b.toNat % 2 = 0 → e.toNat < 7 → sp.toNat < 7 → 128 ≤ s.waiting s.qk q.toNat →
        Completes (.cpy d a b q e sp) s s.stayed))

/-- R12, R216, R218, R222: CPY, TCPY and DCPY. -/
def Obligations.CopiesIssued : Prop := Claim.CopyIssue ∧ Claim.CopyIssueChecks

/-- R245 to R247: TTSK on a sound record of the partition's rows that is not poisoned takes a ticket in the matrix queue;
its entry holds the record with the formats of FMTR put in where the record asks for them. -/
def Sys2Proof.Claim.TileIssue : Prop :=
  ∀ (s : State) (d a : RegNo) (p : Nat) (r : List Byte), s.crew.splitIdle s.curSplit → s.waiting s.qk 4 < 64 →
    s.bankCount s.crew.part (slotDie s.cur) < s.bankCap s.crew.part (slotDie s.cur) false →
    s.spadAddr s.crew.part (slotDie s.cur) (s.sreg a) 64 64 = some p → s.mem.poisoned .spad p 64 = false →
    s.tileCheck s.crew.part (slotCore s.cur) s.split.fmtr ((List.range 64).map fun j => s.crewByte true (p + j)) = .ok r →
    Completes (.ttsk d a) s fun t =>
      s.issued t 4 d (fun e => e.opcode = 0x2E ∧ e.recd = r ∧ e.arg = s.sreg a) ∧ t.mem = s.mem ∧ t.launches = s.launches ∧
      t.ckpt = s.ckpt ∧ t.crew.unacked = s.crew.unacked

/-- R279 to R282: CAINF, CAINF.live outside a deterministic launch, CATRN and CAMOV with a part selected, in the partition
that owns the core's array, on a descriptor aligned to 64 bytes inside the block's allocation or the rows. -/
def Sys2Proof.Claim.ClauseIssue : Prop :=
  ∀ (s : State) (d a : RegNo) (p : BitVec 3), s.crew.splitIdle s.curSplit → s.waiting s.qk 5 < 32 →
    let v := s.sreg a
    let does (i : Instr) (opcode fn : Nat) : Prop := Completes i s fun t =>
      s.issued t 5 d (fun e => e.opcode.toNat = opcode ∧ e.fn.toNat = fn ∧ e.arg = v) ∧ t.mem = s.mem ∧
      t.launches = s.launches ∧ t.ckpt = s.ckpt ∧ t.crew.unacked = s.crew.unacked
    ((s.core (slotCore s.cur)).arrayOwner = some s.crew.part → v.toNat % 64 = 0 →
      (s.enginePlace s.crew.part (slotCore s.cur) (some (s.crew.bmemLo, s.crew.bmemLen)) v.toNat 64).isSome →
      does (.cainf d a) 0x2F 0 ∧ (s.settings.det = false → does (.cainfLive d a) 0x2F 1) ∧ does (.catrn d a) 0x30 0 ∧
      (p ≠ 0 → does (.camovLoad d a p) 0x31 p.toNat ∧ does (.camovStore d a p) 0x31 (8 + p.toNat))) ∧
    ((s.core (slotCore s.cur)).arrayOwner ≠ some s.crew.part →
      ∀ i ∈ [Instr.cainf d a, .cainfLive d a, .catrn d a, .camovLoad d a p, .camovStore d a p],
        exec i s = .next (s.raise 0x01 0 0 0))

/-- R60, R358 to R360: XPUT and COLL on a descriptor in the rows take a ticket in the remote queue; XPUT counts as a write
that has not been acknowledged. COLL in a deterministic launch has its place in the order of R65. -/
def Sys2Proof.Claim.RemoteIssue : Prop :=
  ∀ (s : State) (d a : RegNo) (n : BitVec 2) (kind : BitVec 3) (i : Nat) (h : Cohort),
    s.crew.splitIdle s.curSplit → s.waiting s.qk 6 < 32 →
    (s.spadAddr s.crew.part (slotDie s.cur) (s.sreg a) 64 64).isSome →
    Completes (.xput d a) s (fun t =>
      s.issued t 6 d (fun e => e.opcode = 0x38 ∧ e.arg = s.sreg a) ∧ t.mem = s.mem ∧ t.launches = s.launches ∧
      t.ckpt = s.ckpt ∧ t.crew.unacked = s.crew.unacked + 1) ∧
    (kind ≠ 7 → s.cohortOf s.crew n.toNat = some (i, h) → (s.settings.det → s.crew.divided = false) →
      s.mayBegin (fun x => (s.launch.slots x.block).contains i) →
      s.replayReady (s.logRecord 0x39 none false (.ofNat 64 i)) → Completes (.coll d a n kind) s fun t =>
        s.issued t 6 d (fun e => e.opcode = 0x39 ∧ e.fn.toNat = 8 * n.toNat + kind.toNat ∧ e.arg = s.sreg a) ∧
        t.mem = s.mem ∧ t.crew.unacked = s.crew.unacked)

/-- R60, R65, R245, R247, R279, R282, R358, R360: TTSK, CAINF, CATRN, CAMOV, XPUT and COLL. -/
def Obligations.EnginesIssued : Prop := Claim.TileIssue ∧ Claim.ClauseIssue ∧ Claim.RemoteIssue

/-! ## Graphs -/

/-- R309, R310: SPWN of a sound record with room in its bank gives the child's id, one child more to join, and a ready task
of the child in the bank of the crew's die. JNWT and YIELD.jn end when the join count is zero; JNWT reads the children
that were cancelled, and the count begins anew. -/
def Obligations.SpawnAndJoin : Prop :=
  ∀ (s : State) (d a : RegNo) (p : Nat) (r : List Byte), let die := slotDie s.cur
    (s.crew.splitIdle s.curSplit → s.ownRecord (s.sreg a) = some (p, r) → spawnBad r = none →
      s.mem.poisoned .spad p 64 = false → s.crew.jcnt < 65535 → s.slotRoom s.crew.part die 1 →
      s.bankCount s.crew.part die + (s.bankWaiters s.crew.part die).length < s.bankCap s.crew.part die false →
      Completes (.spwn d a) s fun t =>
        ∃ id, id / 2 ^ 23 = 2 * die + 1 ∧ t.sreg d = (if d = 0 then 0 else .ofNat 32 id) ∧
          t.crew.jcnt = s.crew.jcnt + 1 ∧ t.split.spc = s.split.spc + 4 ∧ t.mem = s.mem ∧
          (t.die die).bank.length = (s.die die).bank.length + 1 ∧
          ∃ x, (t.die die).bank.getLast? = some x ∧ x.part = s.crew.part ∧ x.handle = s.crew.handle ∧ x.node = id) ∧
    (s.crew.jcnt = 0 → Completes (.jnwt d) s fun t =>
      t.sreg d = (if d = 0 then 0 else .ofNat 32 s.crew.cancelled) ∧ t.crew.cancelled = 0 ∧ t.mem = s.mem ∧
      t.split.spc = s.split.spc + 4) ∧
    (s.crew.jcnt ≠ 0 → Completes (.jnwt d) s s.stayed) ∧
    (s.crew.jcnt = 0 → Completes .yieldJn s fun t => t.crew.cancelled = 0 ∧ t.split.spc = s.split.spc + 4)

/-- R295, R311: GLCH answers with the lowest free handle, whose graph then loads the header's nodes, or with why it does
not: 0x80000004 for a poisoned header, 0x80000003 for one that it does not take, 0x80000001 without a free handle. -/
def Sys2Proof.Claim.GraphLaunch : Prop :=
  ∀ (s : State) (d a : RegNo) (p : Nat) (r : List Byte), let part := s.crew.part
    s.crew.splitIdle s.curSplit → s.ownRecord (s.sreg a) = some (p, r) →
    (s.mem.poisoned .spad p 64 → Completes (.glch d a) s fun t => s.wrote t d 0x80000004) ∧
    (s.mem.poisoned .spad p 64 = false → s.headerOk r = none → Completes (.glch d a) s fun t => s.wrote t d 0x80000003) ∧
    (∀ o, s.mem.poisoned .spad p 64 = false → s.headerOk r = some o →
      ((∀ h < 64, (s.graph (graphKey part h)).gstate ≠ 0) → Completes (.glch d a) s fun t => s.wrote t d 0x80000001) ∧
      (∀ h < 64, (s.graph (graphKey part h)).gstate = 0 → (∀ g < h, (s.graph (graphKey part g)).gstate ≠ 0) →
        (∀ x < 4, s.slotRoom part x (leAt r (4 * x) 4)) → Completes (.glch d a) s fun t =>
          t.sreg d = (if d = 0 then 0 else .ofNat 32 h) ∧ t.split.spc = s.split.spc + 4 ∧ t.mem = s.mem ∧
          (∀ k, k ≠ graphKey part h → t.graph k = s.graph k) ∧
          let g := t.graph (graphKey part h)
          g.gstate = 1 ∧ g.nodes = [] ∧ g.doneObj = o ∧ g.launch = s.crew.launch ∧ g.job = s.crew.job ∧
          g.ncnt = (List.range 4).map (fun x => leAt r (4 * x) 4) ∧ g.fq.toNat = byteAt r 56))

/-- R312, R325: GCTL on a handle: status, nodes left, a node's header, free of a graph that has ended, and the wait for its
end. Its first three operations are illegal in a deterministic launch. -/
def Sys2Proof.Claim.GraphControl : Prop :=
  ∀ (s : State) (d a b : RegNo), (s.sreg a).toNat < 64 →
    let key := graphKey s.crew.part (s.sreg a).toNat
    let g := s.graph key
    (s.settings.det = false →
      Completes (.gctlStatus d a) s (fun t => s.wrote t d g.status) ∧
      Completes (.gctlLeft d a) s (fun t => s.wrote t d
        (.ofNat 32 (if g.gstate = 1 then g.ncnt.foldl (· + ·) 0
          else (g.nodes.filter fun n => n.state != .done && n.state != .cancelled).length))) ∧
      (g.node ((s.sreg b).toNat % 2 ^ 26) = none → Completes (.gctlNode d a b) s fun t => s.wrote t d 0xFFFFFFFF) ∧
      (∀ n, g.node ((s.sreg b).toNat % 2 ^ 26) = some n → Completes (.gctlNode d a b) s fun t =>
        ∃ v, s.wrote t d v ∧ v.extractLsb' 0 18 = n.header.extractLsb' 0 18 ∧
          v.extractLsb' 24 8 = n.header.extractLsb' 24 8 ∧ (v.extractLsb' 18 6).toNat = n.remaining % 64)) ∧
    (s.settings.det → ∀ i ∈ [(Instr.gctlStatus d a, 0), (.gctlLeft d a, 1), (.gctlNode d a b, 2)],
      exec i.1 s = .next (s.raise 0x01 9 0 (.ofNat 32 i.2))) ∧
    Completes (.gctlFree d a) s (fun t =>
      t.sreg d = (if d = 0 then 0 else g.status) ∧ t.split.spc = s.split.spc + 4 ∧ t.mem = s.mem ∧
      (∀ k, k ≠ key → t.graph k = s.graph k) ∧
      t.graph key = if g.gstate = 3 ∨ g.gstate = 4 ∨ g.gstate = 6 then Graph.free else g) ∧
    (g.gstate = 0 ∨ g.gstate = 3 ∨ g.gstate = 4 ∨ g.gstate = 6 →
      Completes (.gctlWait d a) s fun t => s.wrote t d g.status) ∧
    (g.gstate = 1 ∨ g.gstate = 2 ∨ g.gstate = 5 → Completes (.gctlWait d a) s s.stayed)

/-- R295, R311, R312, R325: GLCH and GCTL. -/
def Obligations.Graphs : Prop := Claim.GraphLaunch ∧ Claim.GraphControl

/-! ## Remote words and links -/

/-- R347, R348, R355 to R357, R423: XMEM.ld, XMEM.st and XATM of a sound form send a request and wait; a peer that the
table does not name and an address that is not a multiple of the width raise the remote trap; the response, when it has
come, completes the word, and a poisoned response raises the remote trap with its DETAIL. -/
def Obligations.RemoteWords : Prop :=
  ∀ (s : State) (d a b : RegNo) (w : BitVec 3), a.toNat % 2 = 0 → w.toNat < 6 →
    (w = 5 → d.toNat % 2 = 0 ∧ b.toNat % 2 = 0) →
    let addr := s.spair a
    let n := if w = 5 then 8 else widBytes w.toNat
    let atom (sc : BitVec 3) : Prop := w.toNat < 5 ∧ (sc = 4 ∨ sc = 5) ∧ s.settings.det = false
    let sends (i : Instr) (kind : BitVec 8) : Prop := s.crewReq = none →
      (s.peerTable s.crew.part (remotePeer addr.toNat) = none → exec i s = .next (s.remoteTrap 1 addr)) ∧
      ∀ x, s.peerTable s.crew.part (remotePeer addr.toNat) = some x →
        (remoteOffset addr.toNat % n ≠ 0 → exec i s = .next (s.remoteTrap 8 addr)) ∧
        (remoteOffset addr.toNat % n = 0 → Completes i s fun t =>
          t.split.spc = s.split.spc ∧ t.split.wait = .remote ∧ t.mem = s.mem ∧ (∀ r, t.sreg r = s.sreg r) ∧
          ∃ q ∈ t.fabric.reqs, q.packet.kind = kind ∧ q.packet.addr = addr ∧ q.packet.len = n ∧ q.packet.wtid = x ∧
            q.packet.dst = remotePeer addr.toNat ∧ q.origin = 0 ∧ ∃ y, t.crewReq = some y ∧ y.reqid = q.reqid)
    let v (p : Packet) : Word := widExtend w.toNat (leNat (p.data.take n))
    sends (.xmemLd d a w) kReadReq ∧ sends (.xmemSt a b w) kWriteReq ∧
    (∀ sc o, atom sc → s.atomBusy (s.atomId (slotCore s.cur) (s.cur % 24) s.crew.reqCounter) = false →
      s.crewOut = false → sends (.xatm d a b sc w o) kAtomReq) ∧
    (∀ q, s.crewReq = some q → q.response = none →
      Completes (.xmemLd d a w) s s.stayed ∧ Completes (.xmemSt a b w) s s.stayed) ∧
    ∀ q p, s.crewReq = some q → q.response = some p →
      (p.kind = kPoisoned → exec (.xmemLd d a w) s = .next (s.dropReq.remoteTrap p.len addr) ∧
        exec (.xmemSt a b w) s = .next (s.dropReq.remoteTrap p.len addr) ∧
        ∀ sc o, atom sc → p.len ≠ 6 → exec (.xatm d a b sc w o) s = .next (s.dropReq.remoteTrap p.len addr)) ∧
      (p.kind ≠ kPoisoned → Completes (.xmemSt a b w) s fun t => s.dropReq.wentTo t (s.split.spc + 4)) ∧
      (p.kind ≠ kPoisoned → p.pois.contains true = false →
        (w ≠ 5 → Completes (.xmemLd d a w) s fun t =>
          s.dropReq.told t d ((s.outside 0x36 ((v p).setWidth 64)).setWidth 32)) ∧
        (w = 5 → Completes (.xmemLd d a w) s fun t =>
          s.dropReq.toldPair t d (s.outside 0x36 (.ofNat 64 (leNat (p.data.take 8))))) ∧
        ∀ sc o, atom sc → Completes (.xatm d a b sc w o) s fun t =>
          (s.dropReq.updCrew fun c => { c with reqCounter := c.reqCounter + 1 }).told t d
            ((s.outside 0x37 ((v p).setWidth 64)).setWidth 32))

/-- R344, R345, R423: LNK stat, sq and rls give the status word of a group below 64, all ones above; sq holds the group
for the partition and rls ends the hold, and nothing else changes. LNK slot and LNK wait give the light start of a slot to
a peer, all ones where there is none; wait waits until then. In a deterministic launch stat, slot and wait are illegal, and
sq and rls give zero. In a replay every value is the recorded one. -/
def Sys2Proof.Claim.LinkWords : Prop :=
  ∀ (s : State) (d a b : RegNo),
    let g := (s.sreg a).toNat
    let v : Word := if 64 ≤ g then 0xFFFFFFFF else s.groupStatus g
    let word (x : Word) : Word := (s.outside 0x3A (x.setWidth 64)).setWidth 32
    let pair (t : State) (x : DWord) : Prop := s.toldPair t d (s.outside 0x3A x)
    let held (t : State) (on : Bool) : Prop :=
      (64 ≤ g → t.fabric = s.fabric ∧ t.jobs = s.jobs) ∧ (g < 64 →
        (∀ p, p ∈ (t.fibreGroup g).holders ↔ if p = s.crew.part then on = true else p ∈ (s.fibreGroup g).holders) ∧
        (∀ x, x ∈ (t.job s.crew.job).holds ↔ if x = g then on = true else x ∈ (s.job s.crew.job).holds) ∧
        (∀ x, x ≠ g → t.fibreGroup x = s.fibreGroup x) ∧ (t.fibreGroup g).lit = (s.fibreGroup g).lit ∧
        ∀ j, j ≠ s.crew.job → t.job j = s.job j)
    let light : DWord := match s.lightTo g (s.sreg b).toNat with | some t => t | none => 0xFFFFFFFFFFFFFFFF
    let rest (t : State) : State := { t with fabric := s.fabric, jobs := s.jobs }
    (s.settings.det = false →
      Completes (.lnkStat d a) s (fun t => s.told t d (word v)) ∧
      Completes (.lnkSq d a) s (fun t => s.told (rest t) d (word v) ∧ held t true) ∧
      Completes (.lnkRls d a) s (fun t => s.told (rest t) d (word v) ∧ held t false) ∧
      (d.toNat % 2 = 0 → g < 4096 → Completes (.lnkSlot d a b) s fun t => pair t light) ∧
      (d.toNat % 2 = 0 → g < 4096 → (∀ w, s.split.wait ≠ .light w) →
        (light ≤ s.heat.time ∨ s.lightTo g (s.sreg b).toNat = none → Completes (.lnkWait d a b) s fun t => pair t light) ∧
        ∀ w, s.lightTo g (s.sreg b).toNat = some w → s.heat.time < w → Completes (.lnkWait d a b) s fun t =>
          s.stayed t ∧ t.split.wait = .light w) ∧
      (d.toNat % 2 = 0 → g < 4096 → ∀ w, s.split.wait = .light w →
        (w ≤ s.heat.time → Completes (.lnkWait d a b) s fun t => pair t w) ∧
        (s.heat.time < w → exec (.lnkWait d a b) s = .next s)) ∧
      ∀ i ∈ [Instr.lnkSlot d a b, .lnkWait d a b],
        (d.toNat % 2 = 1 → exec i s = .next (s.raise 0x01 1 0 (.ofNat 32 d.toNat))) ∧
        (d.toNat % 2 = 0 → 4096 ≤ g → exec i s = .next (s.raise 0x01 2 0 (.ofNat 32 a.toNat)))) ∧
    (s.settings.det →
      (∀ i ∈ [(0, Instr.lnkStat d a), (3, .lnkSlot d a b), (4, .lnkWait d a b)],
        exec i.2 s = .next (s.raise 0x01 9 0 (.ofNat 32 i.1))) ∧
      Completes (.lnkSq d a) s (fun t => s.wrote (rest t) d 0 ∧ held t true) ∧
      Completes (.lnkRls d a) s (fun t => s.wrote (rest t) d 0 ∧ held t false))

/-- R375, R376, R423: HEAT reads the running heat's number, its times and the starter word; in a deterministic launch it is
illegal. HEAT.ckpt of a step at or before the last marked one answers 0x80000001, while a copy of the job runs
0x80000002; it arrives at the job's gather and waits for the job's other crews; the last to arrive marks the step with the
result 0, or ends with 0x80000003 where the arrivals name different steps; a crew whose gather has ended takes its result.
The gather is stated for a job of one package. -/
def Sys2Proof.Claim.HeatWords : Prop :=
  ∀ (s : State) (d a : RegNo) (n : BitVec 3), let step := s.sreg a; let j := s.job s.crew.job
    let gets (t : State) (v : Word) : Prop :=
      (∀ r, t.sreg r = if r = d ∧ r ≠ 0 then (s.outside 0x3B (v.setWidth 64)).setWidth 32 else s.sreg r) ∧
      t.split.spc = s.split.spc + 4 ∧ t.split.wait = .none ∧ (∀ m, m ≠ s.cur → t.crewAt m = s.crewAt m) ∧
      (∀ x, x ≠ s.crew.job → t.job x = s.job x) ∧ t.heat = s.heat ∧ t.fabric = s.fabric ∧ t.qsets = s.qsets
    (n.toNat < 6 → s.settings.det = false →
      Completes (.heat d n) s fun t => s.told t d ((s.outside 0x3B ((s.heatWord n.toNat).setWidth 64)).setWidth 32)) ∧
    (6 ≤ n.toNat ∨ s.settings.det → exec (.heat d n) s = .next (s.raise 0x01 9 0 (.ofNat 32 n.toNat))) ∧
    (windowUnique s.crew.window → s.split.wait = .none → s.divides = false → s.crew.lanesIdle →
      (s.settings.det → s.leastOfJob) → s.jobSpans = false → s.crew.writesOut s.curSplit = false →
      (∀ x ∈ j.gatherDone ++ j.gather.map fun x => (x.1, 0, 0), x.1 ≠ s.crew.uid) →
      (∀ l, s.replayLog = none → j.lastStep = some l → step = l ∨ stepGe step l = false →
        Completes (.heatCkpt d a) s fun t => gets t 0x80000001 ∧ s.emptied t ∧ t.job s.crew.job = j) ∧
      (s.replayLog = none → (∀ l, j.lastStep = some l → step ≠ l ∧ stepGe step l) →
        (∃ c ∈ s.ckpt.copying, c.job = s.crew.job) →
        Completes (.heatCkpt d a) s fun t => gets t 0x80000002 ∧ s.emptied t ∧ t.job s.crew.job = j) ∧
      (s.ckptEarly step = none →
        let all := j.gather ++ [(s.crew.uid, step)]
        let others := (s.membersOf s.crew.job).filter fun c => c.uid != s.crew.uid
        let done (r : Word) (t : State) : Prop := gets t r ∧ s.emptied t ∧ (t.job s.crew.job).gather = [] ∧
          ∃ c, (t.job s.crew.job).gatherDone = j.gatherDone ++ j.gather.map fun x => (x.1, r, c)
        ((∀ c ∈ others, ∃ x ∈ j.gather, x.1 = c.uid) → (∀ x ∈ j.gather, x.2 = step) →
          (∀ r, s.ownRank = some r → r.buddy = none) → Completes (.heatCkpt d a) s fun t => done 0 t ∧ (t.job s.crew.job).lastStep = some step) ∧
        ((∀ c ∈ others, ∃ x ∈ j.gather, x.1 = c.uid) → (∃ x ∈ j.gather, x.2 ≠ step) →
          Completes (.heatCkpt d a) s fun t => done 0x80000003 t ∧ (t.job s.crew.job).lastStep = j.lastStep) ∧
        ((∃ c ∈ others, ∀ x ∈ j.gather, x.1 ≠ c.uid) → Completes (.heatCkpt d a) s fun t =>
          s.emptied t ∧ t.split.spc = s.split.spc ∧ t.split.wait = .sync ∧ (t.job s.crew.job).gather = all ∧
          (t.job s.crew.job).lastStep = j.lastStep ∧ ∀ r, t.sreg r = s.sreg r))) ∧
    ∀ x, j.gatherDone.find? (fun x => x.1 == s.crew.uid) = some x → j.gather = [] →
      Completes (.heatCkpt d a) s fun t => gets t x.2.1 ∧ t.mem = s.mem ∧ (t.job s.crew.job).lastStep = j.lastStep ∧
        (t.job s.crew.job).gatherDone = j.gatherDone.filter fun y => y.1 != s.crew.uid

/-- R344, R345, R375, R376: LNK and HEAT. -/
def Obligations.LinkAndHeat : Prop := Claim.LinkWords ∧ Claim.HeatWords

/-! ## Control and status registers -/

/-- R155: which access the illegal-CSR trap turns away and the DETAIL that it reports first: an unknown number (0), a
privileged number read without the privilege (2), the time base in a deterministic launch (3), a write to a read-only
register (1). -/
def Sys2Proof.Claim.CsrChecks : Prop :=
  ∀ (s : State) (d a : RegNo) (n : BitVec 12), let k := n.toNat
    let rejects (i : Instr) (detail : Nat) : Prop := exec i s = .next (s.raise 0x07 detail 0 (.ofNat 32 k))
    (csrKnown k = false → rejects (.csrRd d n) 0 ∧ rejects (.csrWr d a n) 0) ∧
    (k = 0x032 ∨ k = 0x033 → s.settings.det → rejects (.csrRd d n) 3) ∧
    (k ∈ [0x001, 0x002, 0x003, 0x008, 0x009, 0x013, 0x014, 0x015, 0x023, 0x024, 0x025, 0x030, 0x032, 0x033] →
      rejects (.csrWr d a n) 1) ∧
    (k ∈ [0x010, 0x011, 0x012] → s.crew.trap.handler = false → rejects (.csrWr d a n) 1)

/-- R68, R94, R155, R207: CSR.rd gives a register's contents, CSR.wr gives the old contents and writes the new ones: a
write of ASYNCF clears the ones, SPP takes a multiple of 8 inside the spill stack, TRAPSPC and TRAPLPC in the handler take
a word of .scalar and an instruction of .lane. -/
def Sys2Proof.Claim.CsrAccess : Prop :=
  ∀ (s : State) (d a : RegNo), let v := s.sreg a; let c := s.crew
    let reads (n : BitVec 12) (x : Word) : Prop := Completes (.csrRd d n) s fun t => s.wrote t d x
    let writes (i : Instr) (old : Word) (f : Crew → Crew) : Prop := Completes i s fun t => (s.updCrew f).wrote t d old
    reads 0x001 (.ofNat 32 (c.index + 16 * slotSeat s.cur + 64 * slotPos s.cur + 512 * (slotCore s.cur % 64) +
      32768 * slotDie s.cur)) ∧
    reads 0x002 (.ofNat 32 c.block) ∧ reads 0x010 c.trap.cause ∧ reads 0x011 (.ofNat 32 c.trap.spc) ∧
    reads 0x012 (.ofNat 32 c.trap.lpc) ∧ reads 0x013 c.trap.run ∧ reads 0x014 c.trap.addr ∧ reads 0x015 c.trap.opnd ∧
    reads 0x008 (s.core (slotCore s.cur)).regcap ∧ reads 0x009 (s.core (slotCore s.cur)).regmap ∧
    reads 0x022 (.ofNat 32 c.spp) ∧ reads 0x023 (c.clock.extractLsb' 0 32) ∧ reads 0x024 (c.clock.extractLsb' 32 32) ∧
    reads 0x025 (.ofNat 32 (c.redSeq.toNat + 65536 * c.redDone.toNat)) ∧ reads 0x028 (.ofNat 32 c.asyncf.toNat) ∧
    reads 0x029 (.ofNat 32 c.fltq.toNat) ∧ reads 0x040 (s.queue s.qk 0).issue ∧
    (c.lanesIdle → reads 0x020 (.ofNat 32 c.fsum.toNat) ∧
      Completes (.fsumRead d) s (fun t => s.wrote t d (.ofNat 32 c.fsum.toNat)) ∧
      writes (.fsumWrite d a) (.ofNat 32 c.fsum.toNat) fun c => { c with fsum := .ofNat 6 v.toNat }) ∧
    (c.lanesIdle = false → Completes (.fsumRead d) s s.stayed ∧ Completes (.fsumWrite d a) s s.stayed) ∧
    writes (.asyncfWrite d a) (.ofNat 32 c.asyncf.toNat) (fun c => { c with asyncf := c.asyncf &&& ~~~(.ofNat 7 v.toNat) }) ∧
    writes (.csrWr d a 0x029) (.ofNat 32 c.fltq.toNat) (fun c => { c with fltq := .ofNat 8 v.toNat }) ∧
    (v.toNat % 8 = 0 → c.spillLo ≤ v.toNat → v.toNat ≤ c.spillHi →
      writes (.sppWrite d a) (.ofNat 32 c.spp) fun c => { c with spp := v.toNat }) ∧
    (c.trap.handler → v.toNat % 4 = 0 → v.toNat + 4 ≤ s.launch.scalarLen →
      writes (.trapspcWrite d a) (.ofNat 32 c.trap.spc) fun c => { c with trap := { c.trap with spc := v.toNat } }) ∧
    (c.trap.handler → v.toNat % 12 = 0 → v.toNat + 12 ≤ s.launch.laneLen →
      writes (.traplpcWrite d a) (.ofNat 32 c.trap.lpc) fun c => { c with trap := { c.trap with lpc := v.toNat } })

/-- R68, R94, R155, R207: the reads and writes of the control and status registers. -/
def Obligations.ControlRegisters : Prop := Claim.CsrChecks ∧ Claim.CsrAccess

/-- R220: a write of QTAILn issues the entries that stand in the chain from the tail on, at most 128 in all, after a drain
of the window; sD receives the old tail. A value that it does not take raises the illegal-CSR trap. -/
def Sys2Proof.Claim.ChainTail : Prop :=
  ∀ (s : State) (n : BitVec 2) (d a : RegNo), s.crew.lanesIdle → windowUnique s.crew.window →
    let u := s.queue s.qk n.toNat
    let k := (s.sreg a - u.issue).toNat
    let ok := 1 ≤ k ∧ k ≤ 128 ∧ (s.sreg a - u.seq).toNat ≤ 128
    (ok → Completes (.qtailWrite n d a) s fun t =>
      (t.queue s.qk n.toNat).issue = s.sreg a ∧ (t.queue s.qk n.toNat).ents.length = u.ents.length + k ∧
      t.sreg d = (if d = 0 then 0 else u.issue) ∧ t.split.spc = s.split.spc + 4 ∧ s.emptied t) ∧
    (¬ok → exec (.qtailWrite n d a) s = .next (s.raise 0x07 4 0 (.ofNat 32 (0x040 + n.toNat))))

/-- R27, R156: a write of BNDCMD drains the window and then binds the region that BNDBASE and BNDLEN name to the object of
BNDOBJ, or removes the entry with that region base and that object; a request that it rejects leaves the table and sets
BNDCMD[31], an accepted one clears it. That a place in block memory counts as its offset in every block of the launch is
the model's choice (log entry 112). -/
def Sys2Proof.Claim.BindingWrites : Prop :=
  ∀ (s : State) (d a : RegNo), (mapFind s.launches s.crew.launch).isSome →
    let l := s.launch.bindings
    let does (i : Instr) (table : List Binding) (err : Bool) : Prop := Completes i s fun t =>
      t.launch.bindings = table ∧ t.crew.bndErr = err ∧ t.crew.window = [] ∧ t.split.spc = s.split.spc + 4 ∧
      t.sreg d = if d = 0 then 0 else if s.crew.bndErr then 0x80000000 else 0
    (∀ b, s.bindingHere true = some b →
      let free := l.length < 256 ∧ ∀ x ∈ l, x.regSpad = b.regSpad →
        x.regOff + 64 * x.granules ≤ b.regOff ∨ b.regOff + 64 * b.granules ≤ x.regOff
      (free → does (.bndcmdBind d a) (l ++ [b]) false) ∧ (¬free → does (.bndcmdBind d a) l true)) ∧
    (s.bindingHere true = none → does (.bndcmdBind d a) l true) ∧
    (∀ b, s.bindingHere false = some b →
      let same (x : Binding) : Bool :=
        x.objSpad == b.objSpad && x.objOff == b.objOff && x.regSpad == b.regSpad && x.regOff == b.regOff
      (l.any same → does (.bndcmdUnbind d a) (l.eraseP same) false) ∧
      (l.any same = false → does (.bndcmdUnbind d a) l true)) ∧
    (s.bindingHere false = none → does (.bndcmdUnbind d a) l true)

/-- R27, R156, R220: the writes that are commands, of the copy queue tails and of the binding registers. -/
def Obligations.CsrCommands : Prop := Claim.ChainTail ∧ Claim.BindingWrites

/-! ## Integer lane instructions -/

/-- R163 to R165: the integer lane instructions on the operands as integers of the type, or on their w bits; IADD and ISUB
clamp under .sat and raise NS where the clamp acts; ICMP and ADDC also write predicate N, which 15 leaves unwritten, and
are stated for sources that are not poisoned where they write one. -/
def Obligations.LaneIntegers : Prop :=
  let ty (x : Ctx) : IntTy := intTy x.f.fmt.toNat
  let int (x : Ctx) (k i : Nat) : Int := intOf (ty x) (x.val k i).toNat
  let bit (x : Ctx) (k i j : Nat) : Bool := (x.val k i).getLsbD j
  let low (x : Ctx) (k i : Nat) : Nat := (x.val k i).toNat % 2 ^ (ty x).width
  let res (x : Ctx) (i : Nat) (v : Int) : LaneRes := ⟨intBits (ty x) v, x.anyPoison i, 0⟩
  let arith (mk : LaneFields → Instr) (op : BitVec 8) (uses : BitVec 3) (g : IntTy → Int → Int → Int → Int) : Prop :=
    Pushes mk (fun _ => shInt op uses 0) fun x i => res x i (g (ty x) (int x 0 i) (int x 1 i) (int x 2 i))
  let clamped (mk : LaneFields → Instr) (op : BitVec 8) (g : Int → Int → Int) : Prop :=
    Pushes mk (fun _ => shInt op 3 1) fun x i =>
      let v := g (int x 0 i) (int x 1 i)
      let c := max (intMin (ty x)) (min (intMax (ty x)) v)
      if x.f.md.getLsbD 0 then ⟨intBits (ty x) c, x.anyPoison i, if c = v then 0 else flagNS⟩ else res x i v
  let field (x : Ctx) (i : Nat) : Nat × Nat :=
    let w := (ty x).width
    let pos := (x.val 1 i).toNat % 64
    (pos, min (min ((x.val 1 i).toNat / 256 % 128) w) (w - pos))
  let relation (c : Nat) (a b : Int) : Bool := match c with
    | 0 => decide (a = b) | 1 => decide (a ≠ b) | 2 => decide (a < b) | 3 => decide (a ≤ b) | 4 => decide (b < a)
    | _ => decide (b ≤ a)
  (clamped .iadd 0x02 (· + ·) ∧ clamped .isub 0x03 (· - ·)) ∧
  (arith .imul 0x04 3 (fun _ a b _ => a * b) ∧ arith .imulh 0x05 3 (fun t a b _ => a * b / 2 ^ t.width) ∧
    arith .imad 0x06 7 (fun _ a b c => a * b + c) ∧
    arith .idiv 0x07 3 (fun _ a b _ => if b = 0 then -1 else a.tdiv b) ∧ arith .imin 0x08 3 (fun _ a b _ => min a b) ∧
    arith .imax 0x09 3 (fun _ a b _ => max a b) ∧ arith .iabs 0x0A 1 (fun _ a _ _ => if a < 0 then -a else a) ∧
    arith .isad 0x78 7 (fun _ a b c => (if a < b then b - a else a - b) + c)) ∧
  (Pushes .andLane (fun _ => shInt 0x0B 3 0) (fun x i => res x i (bitsWhere (fun j => bit x 0 i j && bit x 1 i j) (ty x).width)) ∧
    Pushes .orLane (fun _ => shInt 0x0C 3 0) (fun x i => res x i (bitsWhere (fun j => bit x 0 i j || bit x 1 i j) (ty x).width)) ∧
    Pushes .xorLane (fun _ => shInt 0x0D 3 0) (fun x i => res x i (bitsWhere (fun j => bit x 0 i j != bit x 1 i j) (ty x).width)) ∧
    Pushes .lop3 (fun _ => { shInt 0x0E 7 0 with imm := some 0xFF }) fun x i => res x i (bitsWhere (fun j =>
      x.f.imm.getLsbD (4 * (bit x 0 i j).toNat + 2 * (bit x 1 i j).toNat + (bit x 2 i j).toNat)) (ty x).width)) ∧
  (arith .shlLane 0x0F 3 (fun t a b _ => a * 2 ^ (b % t.width).toNat) ∧
    Pushes .shrLane (fun _ => shInt 0x10 3 0) (fun x i => res x i (low x 0 i / 2 ^ (low x 1 i % (ty x).width) : Nat)) ∧
    Pushes .sraLane (fun _ => shInt 0x11 3 0) (fun x i => res x i
      (intOf ⟨(ty x).width, true⟩ (x.val 0 i).toNat / 2 ^ (low x 1 i % (ty x).width))) ∧
    Pushes .rot (fun _ => shInt 0x12 3 0) fun x i =>
      let w := (ty x).width
      res x i (bitsWhere (fun j => bit x 0 i ((j + w - low x 1 i % w) % w)) w)) ∧
  (Pushes .popcLane (fun _ => shInt 0x13 1 0) (fun x i =>
      res x i ((List.range (ty x).width).filter fun j => bit x 0 i j).length) ∧
    Pushes .clzLane (fun _ => shInt 0x14 1 0) (fun x i =>
      res x i ((List.range (ty x).width).takeWhile fun j => !bit x 0 i ((ty x).width - 1 - j)).length) ∧
    Pushes .bfxLane (fun _ => shInt 0x15 3 0) (fun x i =>
      let (pos, len) := field x i
      if len = 0 then ⟨0, x.anyPoison i, 0⟩ else res x i (intOf ⟨len, (ty x).signed⟩ (low x 0 i / 2 ^ pos))) ∧
    Pushes .bfiLane (fun _ => shInt 0x16 7 0) fun x i =>
      let (pos, len) := field x i
      res x i (bitsWhere (fun j => if pos ≤ j ∧ j < pos + len then bit x 0 i (j - pos) else bit x 2 i j) (ty x).width)) ∧
  (PushesIf .icmp (fun f => { shInt 0x17 3 0x7F with bad := if f.md.toNat % 8 ≥ 6 then some (9, f.md.toNat) else none })
      (fun x => x.f.md.toNat / 8 % 16 ≠ 15 → x.clean [0, 1])
      (fun x i => ⟨if relation (x.f.md.toNat % 8) (int x 0 i) (int x 1 i) then 1 else 0, x.anyPoison i, 0⟩)
      (fun x i => predsWith (x.c.lane i).preds (x.f.md.toNat / 8 % 16) (relation (x.f.md.toNat % 8) (int x 0 i) (int x 1 i))) ∧
    Pushes .mulw (fun _ => { shInt 0x79 3 0 with fmts := [0, 1, 4, 5, 6, 7] })
      (fun x i => ⟨intBits ⟨2 * (ty x).width, (ty x).signed⟩ (int x 0 i * int x 1 i), x.anyPoison i, 0⟩) ∧
    PushesIf .addc (fun _ => shInt 0x7A 7 0x0F) (fun x => x.f.md.toNat % 16 ≠ 15 → x.clean [0, 1, 2])
      (fun x i => res x i (low x 0 i + low x 1 i + low x 2 i % 2 : Nat))
      (fun x i => predsWith (x.c.lane i).preds (x.f.md.toNat % 16)
        (decide (2 ^ (ty x).width ≤ low x 0 i + low x 1 i + low x 2 i % 2))))

/-- R110, R158: LNOP changes nothing but the queue and the clock. REP gives the split's next lane instruction its repeat
state, in the queue or, where none is queued, in the split, and adds nothing to the clock. -/
def Obligations.LaneNopAndRepeat : Prop :=
  Retires .lnop (fun _ _ => .bare 0x00) (fun _ _ => True) (fun _ s t => s.lanesTo t fun _ l => l) ∧
  ∀ (s : State) (f : LaneFields) (e : LaneEntry) (rest : List LaneEntry),
    let r : RepState := ⟨f.imm.toNat % 64 + 1, 2 ^ (f.imm.toNat / 2 ^ 12 % 4), f.imm.extractLsb' 8 4, 0⟩
    let plain : Prop := f = { f with
      dst := 0, sa := 0, sb := 0, sc := 0, fe := 0, fmt := 0, rnd := 0, pred := 0, pneg := 0, md := 0 }
    let regs (w : BitVec 96) : Prop := let t := laneFields w
      (f.imm.getLsbD 8 → isReg t.dst) ∧ (f.imm.getLsbD 9 → isReg t.sa) ∧ (f.imm.getLsbD 10 → isReg t.sb) ∧
        (f.imm.getLsbD 11 → isReg t.sc)
    let may (w : BitVec 96) : Prop := laneOpcode w ∉ [0x01#8, 0x76, 0x77, 0x80, 0x81, 0x82, 0x83] ∧ regs w
    s.crew.laneQ = e :: rest → e.rep = none → plain → f.imm &&& 0xFFFFC0C0 = 0 →
    (∀ y more, rest = y :: more → y.owner = e.owner → may y.word → Completes (.rep f) s fun t =>
      s.onlyCrew t ∧ t.crew = { s.crew with laneQ := { y with rep := some r } :: more }) ∧
    (rest = [] → (e.lpc + 24 ≤ s.launch.laneLen → may (s.launch.laneWordAt (e.lpc + 12))) → Completes (.rep f) s fun t =>
      s.onlyCrew t ∧ t.crew = { s.crew with splits := t.crew.splits, laneQ := [] } ∧
      (∀ k, k ≠ e.owner → t.crew.split k = s.crew.split k) ∧
      t.crew.split e.owner = { s.crew.split e.owner with pendingRep := some r }) ∧
    ∀ y more, rest = y :: more → y.owner = e.owner → laneOpcode y.word ∈ [0x01#8, 0x76, 0x77, 0x80, 0x81, 0x82, 0x83] →
      exec (.rep f) s = .next (s.takeTrap (laneInfo 0x04 0 (laneOpcode y.word).toNat) true false)

/-! ## Moves, exchanges and predicates -/

/-- R159, R166 to R170: moves, selection, lane numbers, constants, byte permutation, the exchanges between lanes, votes and
predicate functions. The forms that trap on a poisoned source are stated for sources that are not poisoned. That BCST and
LROT without an executing lane change nothing is the model's reading (log entry 20). -/
def Obligations.LaneMoves : Prop :=
  let source (x : Ctx) (i : Nat) (j : Int) : Nat := if 0 ≤ j ∧ j ≤ 95 ∧ x.members.getLsbD j.toNat then j.toNat else i
  let from0 (x : Ctx) (i : Nat) (j : Int) : LaneRes := ⟨x.val 0 (source x i j), x.poison 0 (source x i j), 0⟩
  let count (x : Ctx) (i : Nat) : Nat := (x.val 1 i).toNat % 2 ^ 32
  let same (x : Ctx) (i : Nat) : BitVec 15 := (x.c.lane i).preds
  (Pushes .mov (fun _ => shMove 0x18 1) (fun x i => ⟨x.val 0 i, x.anyPoison i, 0⟩) ∧
    Pushes .movi (fun _ => { shMove 0x19 1 with imm := some 0xFFFFFFFF }) (fun x i =>
      ⟨.ofNat 64 (x.f.imm.toNat * 2 ^ 32 + (x.val 0 i).toNat % 2 ^ 32), x.anyPoison i, 0⟩) ∧
    Pushes .selLane (fun _ => { shMove 0x1A 3 with md := 0x0F }) (fun x i =>
      let k := if (x.c.lane i).pred (x.f.md.toNat % 16) then 0 else 1
      ⟨x.val k i, x.poison k i, 0⟩) ∧
    Pushes .prmt (fun _ => { shMove 0x67 3 with imm := some 0xFFFFFFFF }) (fun x i =>
      ⟨.ofNat 64 (leNat ((List.range 8).map fun j =>
        let k := x.f.imm.toNat / 16 ^ j % 16
        (if k < 8 then x.val 0 i else x.val 1 i).extractLsb' (8 * (k % 8)) 8)), x.anyPoison i, 0⟩)) ∧
  (Pushes .lspc (fun _ => { shMove 0x1F 0 with imm := some 3 }) (fun x i =>
      ⟨match x.f.imm.toNat with
        | 0 => .ofNat 64 ((List.range i).filter fun j => x.exec.getLsbD j).length
        | 1 => .ofNat 64 x.lanes.length
        | 2 => .ofNat 64 (x.lanes.headD 96)
        | _ => (x.e.mask.extractLsb' (32 * (i / 32)) 32).setWidth 64, false, 0⟩) ∧
    PushesIf .ldc (shBoth 0x5C 1 0)
      (fun x => x.clean [0] ∧ (x.sh.kind = .int → ∀ i ∈ x.lanes, (x.val 0 i).toNat % 64 < 48))
      (fun x i => ⟨constVal x.constFmt ((x.val 0 i).toNat % 64), false, 0⟩) same ∧
    PushesIf .pmov (fun f => { shMove 0x66 (if f.md.getLsbD 0 then 1 else 0) with md := 1 }) (fun x => x.clean [0])
      (fun x i => ⟨.ofNat 64 (2 ^ 15 + (same x i).toNat), false, 0⟩)
      (fun x i => if x.f.md.getLsbD 0 then (x.val 0 i).extractLsb' 0 15 else same x i)) ∧
  (PushesIf .shfl (fun _ => { shMove 0x1B 3 with md := 3, members := true }) (fun x => x.clean [1])
      (fun x i => from0 x i (match x.f.md.toNat % 4 with
        | 0 => (count x i : Int) | 1 => (i : Int) - count x i | 2 => (i : Int) + count x i
        | _ => (Nat.xor i (count x i) : Int))) same ∧
    (let lowest (x : Ctx) : Prop := ∃ low, x.lanes.head? = some low ∧ (x.sh.uses.getLsbD 1 → x.poison 1 low = false)
     PushesIf .bcst (fun _ => { shMove 0x1C 3 with members := true }) lowest
       (fun x i => from0 x i (count x (x.lanes.headD 0))) same ∧
     PushesIf .lrot (fun _ => { shMove 0x1D 3 with members := true }) lowest
       (fun x i => from0 x i (((i : Int) - count x (x.lanes.headD 0)) % 96)) same) ∧
    Retires .bcst (fun _ _ => { shMove 0x1C 3 with members := true }) (fun _ x => x.lanes = [])
      (fun _ s t => s.lanesTo t fun _ l => l) ∧
    Retires .lrot (fun _ _ => { shMove 0x1D 3 with members := true }) (fun _ x => x.lanes = [])
      (fun _ s t => s.lanesTo t fun _ l => l)) ∧
  (let pick (x : Ctx) : Nat := x.f.md.toNat / 4 % 16
   let vote (x : Ctx) : Bool :=
     if x.f.md.toNat % 4 = 0 then x.lanes.any fun i => (x.c.lane i).pred (pick x) else x.lanes.all fun i => (x.c.lane i).pred (pick x)
   PushesIf .vote (fun f => { shMove 0x1E 0 with md := 0x3F, imm := some 0x3F, bad := voteBad f }) (fun _ => True)
     (fun x _ => ⟨if x.f.md.toNat % 4 = 2 then .ofNat 64 (bitsWhere (fun j =>
         let i := 32 * (x.f.imm.toNat / 16 % 4) + j
         x.exec.getLsbD i && (x.c.lane i).pred (pick x)) 32)
       else if vote x then 1 else 0, false, 0⟩)
     (fun x i => predsWith (same x i) (x.f.imm.toNat % 16) (vote x))) ∧
  Retires .plop (fun _ f => { Shape.bare 0x65 with
      md := 0x0F, imm := some 0x000FFFFF, bad := if f.md.toNat % 16 = 15 then some (9, f.md.toNat) else none })
    (fun _ _ => True)
    (fun x s t => s.lanesTo t fun i l =>
      let p (k : Nat) : Nat := (l.pred (x.f.imm.toNat / 2 ^ k % 16)).toNat
      if x.exec.getLsbD i then
        { l with preds := predsWith l.preds (x.f.md.toNat % 16) (x.f.imm.getLsbD (4 * p 8 + 2 * p 12 + p 16)) }
      else l)

/-! ## Floating-point lane instructions -/

/-- R171 to R174, R177 to R179: the floating lane arithmetic, the dot products and the packed halves: each result is
the exact value rounded once. -/
def Obligations.LaneFloats : Prop :=
  let fmt (x : Ctx) : FloatFmt := floatFmt x.f.fmt.toNat
  let does (mk : LaneFields → Instr) (shape : LaneFields → Shape) (g : FloatFmt → Rnd → Nat → Nat → Nat → Nat × Flags) : Prop :=
    Pushes mk shape fun x i =>
      let r := g (fmt x) (x.rounding i 0) (x.val 0 i).toNat (x.val 1 i).toNat (x.val 2 i).toNat
      ⟨.ofNat 64 r.1, x.anyPoison i, r.2⟩
  let halves (mk : LaneFields → Instr) (shape : LaneFields → Shape) (g : Nat → FloatFmt → Rnd → Nat → Nat → Nat → Nat × Flags) : Prop :=
    Pushes mk shape fun x i =>
      let h (k j : Nat) : Nat := (x.val k i).toNat / 2 ^ (16 * j) % 2 ^ 16
      let r (j : Nat) := g j (fmt x) (x.rounding i j) (h 0 j) (h 1 j) (h 2 j)
      ⟨.ofNat 64 ((r 0).1 + 2 ^ 16 * (r 1).1), x.anyPoison i, (r 0).2 ||| (r 1).2⟩
  let dot (mk : LaneFields → Instr) (op : BitVec 8) (n : Nat) : Prop :=
    PushesIf mk (fun _ => shDot op) (fun x => dotTrap n x.e.fmtr = none)
      (fun x i =>
        let r := dotSum x.e.fmtr (x.rounding i 0) n (x.val 0 i).toNat (x.val 1 i).toNat (x.val 2 i).toNat
        ⟨r.1, x.anyPoison i, r.2⟩) fun x i => (x.c.lane i).preds
  let plain (op : BitVec 8) (uses : BitVec 3) : LaneFields → Shape := fun _ => shFloat op uses 0
  (does .fadd (shRound 0x20 3) (fun t r a b _ => fAdd t r a b) ∧ does .fsub (shRound 0x21 3) (fun t r a b _ => fSub t r a b) ∧
    does .fmul (shRound 0x22 3) (fun t r a b _ => fMul t r a b) ∧ does .ffma (shRound 0x23 7) fFma ∧
    does .fadd3 (shRound 0x7B 7) fAdd3 ∧ does .fscl (shRound 0x2D 3) (fun t r a b _ => fScale t t r a (intOf ⟨32, true⟩ b)) ∧
    does .fgex (shRound 0x2E 1) fun t r a _ _ => fExponent t r a) ∧
  (does .fmin (plain 0x28 3) (fun t r a b _ => fMinMax false t r a b) ∧
    does .fmax (plain 0x29 3) (fun t r a b _ => fMinMax true t r a b) ∧
    does .fcls (plain 0x2B 1) (fun t _ a _ _ => (fClass t a, 0)) ∧
    does .frnd (fun _ => { shFloat 0x2C 1 0 with rnd := some false }) (fun t r a _ _ => fRound t r a) ∧
    does .frem (plain 0x2F 3) (fun t r a b _ => fRem t r a b) ∧ does .fnxt (plain 0x3F 3) (fun t r a b _ => fNext t r a b) ∧
    does .fspl (plain 0x7D 3) (fun t r a b _ => fSplit t r a b) ∧
    does .fcps (plain 0x7E 3) fun t r a b _ => fProdErr t r a b) ∧
  PushesIf .fcmp (fun f => { shFloat 0x2A 3 0x7F with bad := if f.md.toNat % 8 = 7 then some (9, f.md.toNat) else none })
    (fun x => x.f.md.toNat / 8 % 16 ≠ 15 → x.clean [0, 1])
    (fun x i =>
      let r := fCmp (x.f.md.toNat % 8) (fmt x) (x.rounding i 0) (x.val 0 i).toNat (x.val 1 i).toNat
      ⟨if r.1 then 1 else 0, x.anyPoison i, r.2⟩)
    (fun x i => predsWith (x.c.lane i).preds (x.f.md.toNat / 8 % 16)
      (fCmp (x.f.md.toNat % 8) (fmt x) (x.rounding i 0) (x.val 0 i).toNat (x.val 1 i).toNat).1) ∧
  (dot .dot2 0x3C 2 ∧ dot .dot4 0x3D 4 ∧ dot .dot8 0x3E 8) ∧
  Pushes .fdot2 (fun _ => { shFloat 0x7C 7 0 with fmts := [1, 3, 4], rnd := some false }) (fun x i =>
    let w := fmtWidth x.f.fmt.toNat
    let r := x.rounding i 0
    let el (k j : Nat) : Val := readFloat (fmt x) r ((x.val k i).toNat / 2 ^ (w * j) % 2 ^ w)
    let z := readFloat (floatFmt 1) r (x.val 2 i).toNat
    let v := withNans (floatFmt 1) r [el 0 0, el 0 1, el 1 0, el 1 1, z]
      (match valMul (el 0 0) (el 1 0), valMul (el 0 1) (el 1 1) with
       | some p, some q => roundSum (floatFmt 1) r (sumTerms r.mode [z, p, q])
       | _, _ => invalidBits (floatFmt 1))
    ⟨.ofNat 64 v.1, x.anyPoison i, v.2⟩) ∧
  (halves .hadd2 (fun _ => shHalves 0x6C 3) (fun _ t r a b _ => fAdd t r a b) ∧
    halves .hmul2 (fun _ => shHalves 0x6D 3) (fun _ t r a b _ => fMul t r a b) ∧
    halves .hfma2 (fun _ => shHalves 0x6E 7) (fun _ t r a b c => fFma t r a b c) ∧
    halves .hmnx2 (fun _ => { shFloat 0x6F 3 0 with fmts := [3, 4] }) fun j t r a b _ => fMinMax (j == 1) t r a b)

/-- R107, R175, R176: the correctly rounded functions are long-latency producers: the destination is empty in the executing
lanes until the values arrive. -/
def Obligations.LaneFunctions : Prop :=
  let does (mk : LaneFields → Instr) (op : BitVec 8) (uses : BitVec 3) (g : FloatFmt → Rnd → Nat → Nat → Nat × Flags) : Prop :=
    Sends mk (shFunction op uses) fun x i =>
      let r := g (floatFmt x.f.fmt.toNat) (x.rounding i 0) (x.val 0 i).toNat (x.val 1 i).toNat
      ⟨.ofNat 64 r.1, x.anyPoison i, r.2⟩
  (does .fdiv 0x24 3 (fun t r a b => fDivVal t r (readFloat t r a) (readFloat t r b)) ∧
    does .fsqrt 0x25 1 (fun t r a _ => fSqrt t r a) ∧ does .frsq 0x26 1 (fun t r a _ => fRsqrt t r a) ∧
    does .frcp 0x27 1 fun t r a _ => fDivVal t r .one (readFloat t r a)) ∧
  (does .fexp 0x30 1 (fun t r a _ => fExp t r a) ∧ does .fexp2 0x31 1 (fun t r a _ => fExp2 t r a) ∧
    does .flog 0x32 1 (fun t r a _ => fLog false t r a) ∧ does .flog2 0x33 1 (fun t r a _ => fLog true t r a) ∧
    does .fsin 0x34 1 (fun t r a _ => fTrig false t r a) ∧ does .fcos 0x35 1 (fun t r a _ => fTrig true t r a) ∧
    does .ftanh 0x36 1 (fun t r a _ => fTanh t r a) ∧ does .fsigm 0x37 1 (fun t r a _ => fSigmoid t r a) ∧
    does .ferf 0x38 1 (fun t r a _ => fErf t r a) ∧ does .fpow 0x39 3 (fun t r a b => fPow t r a b) ∧
    does .fhyp 0x3B 3 fun t r a b => fHypot t r a b) ∧
  Sends .fatan (fun f => { shFunction 0x3A (if f.md.getLsbD 0 then 3 else 1) f with md := 1 }) fun x i =>
    let r := fAtan (floatFmt x.f.fmt.toNat) (x.rounding i 0) (x.f.md.getLsbD 0) (x.val 0 i).toNat (x.val 1 i).toNat
    ⟨.ofNat 64 r.1, x.anyPoison i, r.2⟩

/-! ## Conversions and the random stream -/

/-- R180 to R186: conversions round the exact value once into the destination; PACK, UNPK and the tapered words; QNT and
DQNT; LRND gives the lane's next draw, or takes a new seed and gives its first. That UNPK quiets a NaN or makes it canonical
under NANM, and does not flush, is the model's reading (log entry 118). -/
def Obligations.LaneConversions : Prop :=
  let dst (x : Ctx) : Nat := x.f.fmt.toNat
  let src (x : Ctx) : FloatFmt := floatFmt (x.f.md.toNat % 32)
  let rnd (x : Ctx) (i : Nat) : Rnd := let r := x.rounding i 0; if 5 ≤ dst x then { r with ftz := false } else r
  let a (x : Ctx) (i : Nat) : Nat := (x.val 0 i).toNat
  let float (x : Ctx) (i : Nat) (v : Nat × Flags) : LaneRes := ⟨.ofNat 64 v.1, x.anyPoison i, v.2⟩
  let srcInt (x : Ctx) (i : Nat) : Int := intOf (intTy (x.f.md.toNat % 8)) (a x i)
  (Pushes .cvtf (fun f => { shFloat 0x40 1 0x1F with
        fmts := allFloatCodes, srcFmt := some (0x1F, allFloatCodes), rnd := some (stoOk f.fmt), draws := 1 })
      (fun x i => float x i (roundVal (floatFmt (dst x)) (rnd x i) (readFloat (src x) (rnd x i) (a x i)))) ∧
    Pushes .cvfi (fun f => { shInt 0x41 1 0x1F with
        srcFmt := some (0x1F, allFloatCodes), rnd := some (decide (4 ≤ f.fmt.toNat)), draws := 1 })
      (fun x i =>
        let v := roundToInt (intTy (dst x)) (x.rounding i 0) (readFloat (src x) (x.rounding i 0) (a x i))
        ⟨intBits (intTy (dst x)) v.1, x.anyPoison i, v.2⟩) ∧
    Pushes .cvif (fun f => { shFloat 0x42 1 0x07 with fmts := allFloatCodes, rnd := some (stoOk f.fmt), draws := 1 })
      (fun x i => float x i
        (roundFloat (floatFmt (dst x)) (rnd x i) (decide (srcInt x i < 0)) (srcInt x i).natAbs 0 false)) ∧
    Pushes .cvii (fun _ => shInt 0x43 1 0x87)
      (fun x i =>
        let t := intTy (dst x)
        let c := max (intMin t) (min (intMax t) (srcInt x i))
        if x.f.md.getLsbD 7 then ⟨intBits t c, x.anyPoison i, if c = srcInt x i then 0 else flagNS⟩
        else ⟨intBits t (srcInt x i), x.anyPoison i, 0⟩) ∧
    Pushes .cvts (fun f => { shFloat 0x48 3 0x1F with
        fmts := allFloatCodes, srcFmt := some (0x1F, floatCodes), rnd := some (stoOk f.fmt), draws := 1 })
      (fun x i => float x i (fScale (src x) (floatFmt (dst x)) (rnd x i) (a x i) (intOf ⟨32, true⟩ (x.val 1 i).toNat)))) ∧
  (Pushes .pack (fun f => { shFloat 0x44 7 0x87 with
        kind := if f.fmt < 15 then .float else .int, fmts := packCodes, rnd := some true, bad := packBad f
        draws := if f.fmt < 15 then 2 else 0 })
      (fun x i =>
        let w := fmtWidth (dst x)
        let lo := packElem (dst x) (x.rounding i 0) (x.f.md.getLsbD 7) (a x i % 2 ^ 32)
        let hi := packElem (dst x) (x.rounding i 1) (x.f.md.getLsbD 7) ((x.val 1 i).toNat % 2 ^ 32)
        let o := 2 * w * (x.f.md.toNat % 8)
        ⟨.ofNat 64 (bitsWhere (fun j =>
          if o ≤ j ∧ j < o + w then lo.1.testBit (j - o)
          else if o + w ≤ j ∧ j < o + 2 * w then hi.1.testBit (j - o - w) else (x.val 2 i).getLsbD j) 64),
          x.anyPoison i, lo.2 ||| hi.2⟩) ∧
    Pushes .unpk (fun f => { shFloat 0x45 1 0x3F with
        kind := if f.fmt < 15 then .float else .int, fmts := unpkCodes
        bad := if unpkCodes.contains f.fmt.toNat && 64 / fmtWidth f.fmt.toNat ≤ f.md.toNat % 64
          then some (9, f.md.toNat) else none })
      (fun x i =>
        let w := fmtWidth (dst x)
        let v := decodeElem (dst x) (a x i / 2 ^ (w * (x.f.md.toNat % 64)) % 2 ^ w)
        ⟨if dst x < 15 then .ofNat 64 (roundVal (floatFmt 1) { Rnd.rne with nanm := x.e.fmtr.getLsbD 20 } v).1
          else match v with | .num n m _ => intBits ⟨32, true⟩ (if n then -(m : Int) else m) | _ => 0,
          x.anyPoison i, 0⟩) ∧
    Pushes .tdec (fun _ => { shFloat 0x49 1 0 with fmts := taperCodes })
      (fun x i => float x i ((roundVal (floatFmt 1) .rne (decodeTaper (taperFmt (dst x)) (a x i))).1, 0)) ∧
    Pushes .tenc (fun _ => { shFloat 0x4A 1 0 with fmts := taperCodes, rnd := some true, draws := 1 })
      (fun x i => float x i (roundTaper (taperFmt (dst x)) (x.rounding i 0) (decodeFloat (floatFmt 1) (a x i))))) ∧
  (let bad (f : LaneFields) : Option (Nat × Nat) := if f.fmt ≠ 30 ∧ f.imm ≠ 0 then some (10, f.imm.toNat) else none
   let mode (x : Ctx) : Nat := (x.e.fmtr.extractLsb' 21 3).toNat
   PushesIf .qnt (fun f => { shFloat 0x46 5 0 with
        fmts := blockCodes, rnd := some true, draws := 1, imm := some 0xFFFFFFFF, bad := bad f })
      (fun x => mode x < 4)
      (fun x i =>
        let block := x.lanes.filter fun j => qntBlock (dst x) j == qntBlock (dst x) i
        let r := qntLane x block i
        ⟨r.1, x.poison 0 i || (decide (mode x < 2) && block.any fun j => x.poison 0 j) ||
          (mode x == 2 && (block.take 1).any fun j => x.poison 2 j), r.2⟩)
      (fun x i => (x.c.lane i).preds) ∧
    Pushes .dqnt (fun f => { shFloat 0x47 1 0 with
        fmts := blockCodes, rnd := some false, imm := some 0xFFFFFFFF, bad := bad f })
      (fun x i =>
        let el := decodeElem (dst x) (a x i % 2 ^ fmtWidth (dst x))
        let scale := scaleVal (dst x) (a x i / 2 ^ 16 % (if dst x = 31 then 2 ^ 16 else 2 ^ 8))
        let t : Val := if dst x = 30 then decodeFloat (floatFmt 1) x.f.imm.toNat else .one
        float x i (match scaledElem el [scale, t] with
          | some v => roundVal (floatFmt 1) (x.rounding i 0) v | none => invalidBits (floatFmt 1)))) ∧
  Retires .lrnd (fun _ f => { shMove 0x4B (if f.md.getLsbD 0 then 1 else 0) with md := 1 }) (fun _ x => x.clean [0])
    fun x s t =>
      let seeded := x.f.md.getLsbD 0
      let seed (i : Nat) : Word := mix32 ((x.val 0 i).extractLsb' 0 32) ^^^
        .ofNat 32 ((s.crew.block * 16 + s.crew.index) * 96 + i)
      let draw (i : Nat) : Word :=
        if seeded then drawAt (seed i) 0 else drawAt (s.crew.lane i).sigma ((s.crew.lane i).count + .ofNat 32 (x.randsBefore 3))
      x.pushedThen (fun j => ⟨(draw j).setWidth 64, false, 0⟩)
        (fun i l =>
          if x.exec.getLsbD i then
            { l with sigma := if seeded then seed i else l.sigma, count := if seeded then 1 else l.count + 1 }
          else l) s t

/-! ## Reductions, scans and exchanges -/

/-- R91, R187, R188, R189: the integer reductions give the sum, the least, the greatest and the bitwise functions of the
executing lanes' values, in any order of the tree the same; the floating ones follow the tree of R91. The result goes to
every executing lane, to the ring and to REDDONE. SCAN accumulates in ascending lane order; CMPX exchanges with lane i XOR
m. The ignored bits of an F19 source read as zero. That RND is read where no step rounds, and which lane's draw a step of an
exclusive SCAN takes, is the model's choice (log entries 22 and 23). -/
def Obligations.LaneReductions : Prop :=
  let ty (x : Ctx) : IntTy := intTy x.f.fmt.toNat
  let fmt (x : Ctx) : FloatFmt := floatFmt x.f.fmt.toNat
  let int (x : Ctx) (i : Nat) : Int := intOf (ty x) (x.val 0 i).toNat
  let bit (x : Ctx) (i j : Nat) : Bool := (x.val 0 i).getLsbD j
  let width (x : Ctx) : Nat := (ty x).width
  let gives (mk : LaneFields → Instr) (shape : LaneFields → Shape) (v : Ctx → Int) : Prop :=
    Retires mk (fun _ => shape) (fun _ x => x.sh.kind = .int) fun x s t => x.reducedTo (intBits (ty x) (v x)) 0 0 s t
  let float (mk : LaneFields → Instr) (shape : LaneFields → Shape) (g : FloatFmt → Rnd → Nat → Nat → Nat × Flags)
      (identity : FloatFmt → Nat) (draws : Bool) : Prop :=
    Retires mk (fun _ => shape) (fun _ x => x.sh.kind = .float) fun x s t =>
      let r := tree (fun n a b => g (fmt x) (x.rounding (x.lanes.headD 0) n) a b)
        ((x.inputs (fmtWidth x.f.fmt.toNat)).map (Option.map (cleanBits (fmt x))))
      x.reducedTo (.ofNat 64 (r.1.getD (identity (fmt x)))) r.2.flags (if draws ∧ x.mode = 5 then r.2.steps else 0) s t
  (gives .radd (shReduce 0x4C) (fun x => x.lanes.foldl (fun v i => v + int x i) 0) ∧
    gives .rmin (shReduce 0x4D) (fun x => x.lanes.foldl (fun v i => min v (int x i)) (intMax (ty x))) ∧
    gives .rmax (shReduce 0x4E) (fun x => x.lanes.foldl (fun v i => max v (int x i)) (intMin (ty x))) ∧
    gives .rand (fun _ => shInt 0x4F 1 0) (fun x => bitsWhere (fun j => x.lanes.all fun i => bit x i j) (width x)) ∧
    gives .rior (fun _ => shInt 0x50 1 0) (fun x => bitsWhere (fun j => x.lanes.any fun i => bit x i j) (width x)) ∧
    gives .rxor (fun _ => shInt 0x51 1 0) (fun x =>
      bitsWhere (fun j => (x.lanes.filter fun i => bit x i j).length % 2 == 1) (width x))) ∧
  (float .radd (shReduce 0x4C) fAdd (fun _ => 0) True ∧
    float .rmin (shReduce 0x4D) (fMinMax false) (fun t => infBits t false) False ∧
    float .rmax (shReduce 0x4E) (fMinMax true) (fun t => infBits t true) False) ∧
  Retires .rcnt (fun _ _ => shInt 0x52 1 0) (fun _ _ => True) (fun x s t =>
    x.reducedTo (.ofNat 64 (x.lanes.filter fun i => (List.range (width x)).any (bit x i)).length) 0 0 s t) ∧
  Retires .rarg (fun _ f => { shBoth 0x53 1 0 f with imm := some 1 }) (fun _ _ => True) (fun x s t =>
    let numbers := x.lanes.filter fun i => x.sh.kind = .int || !(decodeFloat (fmt x) (x.val 0 i).toNat).isNan
    x.reducedTo (match numbers.find? fun i => numbers.all fun j => !x.argBefore j i with
      | some i => .ofNat 64 i | none => BitVec.allOnes 64) 0 0 s t) ∧
  (let shape (f : LaneFields) : Shape := { shBoth 0x77 1 7 f with
     rnd := some (f.md.getLsbD 7 || stoOk f.fmt), bad := if f.md.toNat % 4 = 3 then some (9, f.md.toNat) else none }
   Retires .scan (fun _ => shape) (fun _ x => x.sh.kind = .int) (fun x s t =>
     let op := x.f.md.toNat % 4
     let upTo (i : Nat) : List Nat := x.lanes.filter fun j => if x.f.md.getLsbD 2 then decide (j < i) else decide (j ≤ i)
     let v (i : Nat) : Int := (upTo i).foldl
       (fun v j => if op = 0 then v + int x j else if op = 1 then min v (int x j) else max v (int x j))
       (if op = 0 then 0 else if op = 1 then intMax (ty x) else intMin (ty x))
     x.pushedThen (fun i => ⟨intBits (ty x) (v i), x.lanes.any fun j => decide (j ≤ i) && x.poison 0 j, 0⟩) (fun _ l => l) s t) ∧
   Retires .scan (fun _ => shape) (fun _ x => x.sh.kind = .float) (fun x s t =>
     let op := x.f.md.toNat % 4
     let excl := x.f.md.getLsbD 2
     let g (r : Rnd) (a b : Nat) : Nat × Flags := if op = 0 then fAdd (fmt x) r a b else fMinMax (op == 2) (fmt x) r a b
     let res := scanGo x (fun lane n a v => g (x.rounding lane n) a v.toNat) excl (fun a => .ofNat 64 a) x.lanes
       (if op = 0 then 0 else infBits (fmt x) (op == 2)) false false
     x.pushedThen (mapGet ⟨0, false, 0⟩ res)
       (fun i l => if op = 0 ∧ x.mode = 5 ∧ x.exec.getLsbD i then l.drew (scanDraws x excl i) else l) s t)) ∧
  Pushes .cmpx (fun f => { shBoth 0x76 1 0 f with
      imm := some 0x7F7F
      bad := if isPow7 (f.imm.toNat % 128) && (f.imm.toNat / 256 % 128 == 0 || isPow7 (f.imm.toNat / 256 % 128))
        then none else some (10, f.imm.toNat) })
    (fun x i =>
      let m := x.f.imm.toNat % 128
      let dm := x.f.imm.toNat / 256 % 128
      let j := Nat.xor i m
      let key (i : Nat) : Int := if x.sh.kind = .int then int x i else totalKey (fmt x) (x.val 0 i).toNat
      let out (i : Nat) : DWord :=
        if x.sh.kind = .int then intBits (ty x) (int x i)
        else .ofNat 64 (cleanBits (fmt x) ((x.val 0 i).toNat % 2 ^ fmtWidth x.f.fmt.toNat))
      let least : Bool := (Nat.land i m == 0) == (Nat.land i dm == 0)
      if 95 < j ∨ x.exec.getLsbD j = false then ⟨out i, x.poison 0 i, 0⟩
      else ⟨out (if least then (if key j < key i then j else i) else (if key i < key j then j else i)),
        x.poison 0 i || x.poison 0 j, 0⟩)

/-! ## Lane accesses to memory -/

/-- R22, R23, R190 to R194: lane loads give each executing lane the bytes that its crew reads at its address, extended under
the type, with the array's poison; lane stores act in ascending lane order; the row and broadcast forms; the spill stack
moves by 768 bytes. The addresses are those that R190 accepts and the sources are not poisoned. The premises on the window
and on the block's base hold in every state that a run reaches. -/
def Obligations.LaneMemory : Prop :=
  let base (x : Ctx) (i : Nat) : Int :=
    if x.f.sa = 0x18 then 0 else if isSreg x.f.sa then (x.e.svA.toNat : Int) else (x.val 0 i).toInt
  let index (x : Ctx) (i : Nat) : Int := if x.f.sb = 0x18 then 0 else (x.val 1 i).toInt * 2 ^ (x.f.md.toNat % 4)
  let n (x : Ctx) : Nat := (intTy x.f.fmt.toNat).width / 8
  let ea (x : Ctx) (i : Nat) : Int := base x i + index x i + x.f.imm.toInt
  let rowEa (x : Ctx) (i : Nat) : Int := base x i + x.f.imm.toInt + i * n x
  let spot (s : State) (x : Ctx) (spad : Bool) (ea : Int) : Nat :=
    match s.placeLane spad (n x) (n x) ea with | .ok a => a | .error _ => 0
  let reach (s : State) (x : Ctx) (spad : Bool) (lanes : List Nat) (ea : Ctx → Nat → Int) : Prop :=
    ∀ i ∈ lanes, ∃ a, s.placeLane spad (n x) (n x) (ea x i) = .ok a
  let orderly (s : State) : Prop := windowUnique s.crew.window ∧ 64 ∣ s.crew.bmemLo
  let loaded (s : State) (x : Ctx) (spad : Bool) (ea : Int) : LaneRes :=
    let a := spot s x spad ea
    ⟨intBits (intTy x.f.fmt.toNat) (leNat ((List.range (n x)).map fun j => s.crewByte spad (a + j))),
      s.mem.poisoned (spOf spad) a (n x), 0⟩
  let stores (x : Ctx) (spad : Bool) (ea : Ctx → Nat → Int) (s t : State) : Prop :=
    s.lanesStored t s.crew.spp fun sp k =>
      (x.lanes.reverse.find? fun i =>
        sp == spad && decide (spot s x spad (ea x i) ≤ k) && decide (k < spot s x spad (ea x i) + n x)).map fun i =>
          (x.val 2 i).extractLsb' (8 * (k - spot s x spad (ea x i))) 8
  let oneRow (x : Ctx) : Prop := ∀ i ∈ x.lanes, ∀ j ∈ x.lanes, rowEa x i / 8192 = rowEa x j / 8192
  (∀ (s : State) (spad : Bool) (m al : Nat) (ea : Int), s.placeLane spad m al ea =
    let off := (ea % 2 ^ 27).toNat
    if ea < 0 ∨ 2 ^ 32 ≤ ea ∨ ea / 2 ^ 27 ≠ (if spad then 1 else 0) then .error 3
    else if off % al ≠ 0 then .error (if spad then 1 else 0)
    else if spad then
      (if (s.partition s.crew.part).rowsOpen (slotDie s.cur) off m then .ok (2 ^ 26 * slotDie s.cur + off) else .error 1)
    else if off + m ≤ s.crew.bmemLen then .ok (2 ^ 18 * slotCore s.cur + s.crew.bmemLo + off) else .error 0) ∧
  (∀ p ∈ [((Instr.ldb, 0x54#8), false), ((.lds, 0x56), true)],
    SendsIf p.1.1 (fun _ => shIndexed p.1.2 3 .long) (fun s x => x.clean [0, 1] ∧ reach s x p.2 x.lanes ea)
      fun s x i => loaded s x p.2 (ea x i)) ∧
  (∀ p ∈ [((Instr.stb, 0x55#8), false), ((.sts, 0x57), true)],
    Retires p.1.1 (fun _ => shIndexed p.1.2 7 .none)
      (fun s x => x.clean [0, 1, 2] ∧ reach s x p.2 x.lanes ea ∧ orderly s) fun x s t => stores x p.2 ea s t) ∧
  SendsIf .ldsr (fun _ _ => { shMem 0x58 1 .long with ruleA := .sbase })
    (fun s x => reach s x true x.lanes rowEa ∧ oneRow x) (fun s x i => loaded s x true (rowEa x i)) ∧
  Retires .stsr (fun _ _ => { shMem 0x59 5 .none with ruleA := .sbase })
    (fun s x => x.clean [2] ∧ reach s x true x.lanes rowEa ∧ oneRow x ∧ orderly s) (fun x s t => stores x true rowEa s t) ∧
  SendsIf .ldsb (fun _ => shIndexed 0x7F 3 .long)
    (fun s x => let low := x.lanes.take 1
      (∀ i ∈ low, ∀ k < 2, x.poison k i = false) ∧ reach s x true low ea)
    (fun s x _ => loaded s x true (ea x (x.lanes.headD 0))) ∧
  Retires .pushv (fun _ _ => { Shape.bare 0x5A with uses := 1 }) (fun s _ => s.crew.spillLo + 768 ≤ s.crew.spp ∧ orderly s)
    (fun x s t =>
      let a (i : Nat) : Nat := 2 ^ 18 * slotCore s.cur + s.crew.bmemLo + (s.crew.spp - 768) + 8 * i
      (s.lanesStored t (s.crew.spp - 768) fun sp k =>
        (x.lanes.find? fun i => !sp && decide (a i ≤ k) && decide (k < a i + 8)).map fun i =>
          (x.val 0 i).extractLsb' (8 * (k - a i)) 8) ∧
      ∀ i ∈ x.lanes, x.poison 0 i → t.mem.poisoned .bmem (a i) 8) ∧
  Retires .popv (fun _ _ => { Shape.bare 0x5B with dst := .long }) (fun s _ => s.crew.spp + 768 ≤ s.crew.spillHi ∧ orderly s)
    (fun x s t =>
      let a (i : Nat) : Nat := 2 ^ 18 * slotCore s.cur + s.crew.bmemLo + s.crew.spp + 8 * i
      ∃ u, s.reads u (s.crew.spp + 768) s.crewByte ∧
        x.underWay (fun i => ⟨.ofNat 64 (leNat ((List.range 8).map fun j => s.crewByte false (a i + j))),
          u.mem.poisoned .bmem (a i) 8, 0⟩) u t)

/-- R36, R195, R196: a lane atomic outside a deterministic launch, and a compare-and-swap of BLOCK scope in one when its crew
is the least of its block and undivided, acts in ascending lane order on what the crew reads and returns each old value;
another atomic of a deterministic launch is buffered and returns the value of the crew's first read. A poisoned location
keeps its bytes and gives a poisoned zero. -/
def Obligations.LaneAtomics : Prop :=
  let bytes (x : Ctx) : Nat :=
    if x.sh.kind = .float then fmtWidth x.f.fmt.toNat / 8 else (intTy x.f.fmt.toNat).width / 8
  let ea (x : Ctx) (i : Nat) : Int :=
    (if x.f.sa = 0x18 then 0 else if isSreg x.f.sa then (x.e.svA.toNat : Int) else (x.val 0 i).toInt) + x.f.imm.toInt
  let spot (s : State) (x : Ctx) (spad : Bool) (i : Nat) : Nat :=
    match s.placeLane spad (bytes x) (bytes x) (ea x i) with | .ok a => a | .error _ => 0
  let atom (s : State) (x : Ctx) (spad cas : Bool) (i : Nat) : AtomOp :=
    { spad := spad, addr := spot s x spad i, ty := if x.sh.kind = .float then 16 + x.f.fmt.toNat else x.f.fmt.toNat
      op := x.f.md.toNat % 8, lane := i, b := x.val 1 i, swap := if cas then some (x.val 2 i) else none
      rnd := x.rounding i 0, mode := x.mode, fmtr := x.e.fmtr }
  let ready (s : State) (x : Ctx) (spad : Bool) : Prop :=
    x.clean [0, 1, 2] ∧ windowUnique s.crew.window ∧ 64 ∣ s.crew.bmemLo ∧ ∀ i ∈ x.lanes,
      (∃ a, s.placeLane spad (bytes x) (bytes x) (ea x i) = .ok a) ∧
      s.replayReady (s.objRecord x.sh.op.toNat (some i) spad (spot s x spad i)) ∧
      (s.mem.poisoned (spOf spad) (spot s x spad i) (bytes x) → windowFind s.crew.window spad (spot s x spad i / 64) = none)
  let taint (s : State) (o : AtomOp) : Bool := s.mem.poisoned (spOf o.spad) o.addr o.bytes
  let acts (mk : LaneFields → Instr) (shape : LaneFields → Shape) (spad cas : Bool) : Prop :=
    Retires mk (fun _ => shape)
      (fun s x => ready s x spad ∧ (s.settings.det → cas ∧ x.f.md.toNat / 8 % 8 = 1 ∧ x.c.divided = false ∧
        s.least fun c => c.block == x.c.block))
      fun x s t =>
        let r := atomsOn (taint s) s.crewByte (x.lanes.map (atom s x spad cas))
        ∃ u, s.reads u s.crew.spp r.1 ∧ x.underWay (fun i =>
          let o := atom s x spad cas i
          let old := mapGet 0 r.2 i
          ⟨o.value old, taint s o, (o.apply old).2⟩) u t
  let buffers (mk : LaneFields → Instr) (shape : LaneFields → Shape) (spad : Bool) : Prop :=
    Retires mk (fun _ => shape)
      (fun s x => ready s x spad ∧ s.settings.det ∧
        ∀ i ∈ x.lanes, taint s (atom s x spad false i) = false ∧ windowFind s.crew.window spad (spot s x spad i / 64) = none)
      fun x s t => ∃ u, u = { s with crews := u.crews, ckpt := u.ckpt } ∧
        (∀ m, m ≠ s.cur → u.crewAt m = s.crewAt m) ∧
        u.crew = { s.crew with
          firstReads := u.crew.firstReads
          buffered := s.crew.buffered ++ (x.lanes.map (atom s x spad false)).map fun o =>
            ⟨o.spad, o.addr, o.ty, .ofNat 3 o.op, o.b, o.mode, .ofNat 16 o.rnd.draw, o.fmtr, o.lane⟩ } ∧
        x.underWay (fun i =>
          let o := atom s x spad false i
          ⟨o.value (s.crew.firstRead s.mem spad o.addr o.bytes), false, 0⟩) u t
  let atf (f : LaneFields) : Shape := { shAtom 0x61 3 3 2 f with
    kind := .float, fmts := [0, 1, 3, 4], rnd := some (stoOk f.fmt), draws := if f.md.toNat % 8 = 0 then 1 else 0 }
  (acts .atb (shAtom 0x5D 3 2 6) false false ∧ acts .casb (shAtom 0x5E 7 2 0) false true ∧
    acts .ats (shAtom 0x5F 3 3 6) true false ∧ acts .cass (shAtom 0x60 7 3 0) true true ∧ acts .atf atf true false) ∧
  buffers .atb (shAtom 0x5D 3 2 6) false ∧ buffers .ats (shAtom 0x5F 3 3 6) true ∧ buffers .atf atf true

/-! ## Flags, check codes and the privileged lane instructions -/

/-- R197 to R200: the flag instructions, which wait for the lane work before them; HASH and CRC; the privileged save and
restore of a register and of its 96 full and poison bits; POIS; LBRK, whose effect is the breakpoint trap that resumes
behind it. -/
def Obligations.LaneFlagsAndPrivileged : Prop :=
  let flags (x : Ctx) : Flags := x.f.imm.extractLsb' 0 6
  Pushes .flrd (fun _ => { shMove 0x62 0 with idle := true }) (fun x i => ⟨(x.c.lane i).flags.setWidth 64, false, 0⟩) ∧
  Retires .flcl (fun _ _ => { Shape.bare 0x63 with imm := some 0x3F, idle := true }) (fun _ _ => True)
    (fun x s t =>
      s.onlyCrew t ∧ t.crew = { s.crew with
        lanes := t.crew.lanes, fsum := s.crew.fsum &&& ~~~flags x, laneQ := s.crew.laneQ.tail, clock := s.crew.clock + 1 } ∧
      ∀ i < 96, t.crew.lane i =
        if x.exec.getLsbD i then { s.crew.lane i with flags := (s.crew.lane i).flags &&& ~~~flags x } else s.crew.lane i) ∧
  Retires .flst (fun _ _ => { Shape.bare 0x64 with uses := 1, idle := true })
    (fun _ x => x.clean [0])
    (fun x s t =>
      s.onlyCrew t ∧ t.crew = { s.crew with
        lanes := t.crew.lanes, fsum := t.crew.fsum, laneQ := s.crew.laneQ.tail, clock := s.crew.clock + 1 } ∧
      (∀ i < 96, t.crew.lane i = { s.crew.lane i with
        flags := if x.exec.getLsbD i then (x.val 0 i).extractLsb' 0 6 else (s.crew.lane i).flags
        count := (t.crew.lane i).count }) ∧
      ∀ j < 6, t.crew.fsum.getLsbD j = (s.crew.fsum.getLsbD j || x.lanes.any fun i => (x.val 0 i).getLsbD j)) ∧
  Pushes .hash (fun _ => shMove 0x74 3) (fun x i =>
    ⟨(mix32 (mix32 ((x.val 0 i).extractLsb' 0 32 ^^^ (x.val 1 i).extractLsb' 0 32) ^^^ (x.val 0 i).extractLsb' 32 32)).setWidth 64,
      x.anyPoison i, 0⟩) ∧
  Pushes .crc (fun _ => { shInt 0x75 3 0 with fmts := [1, 3, 5, 7] }) (fun x i =>
    let b (j : Nat) : Byte := (x.val 1 i).extractLsb' (8 * j) 8
    ⟨(((List.range ((intTy x.f.fmt.toNat).width / 8)).map b).foldl crcByte ((x.val 0 i).extractLsb' 0 32)).setWidth 64,
      x.anyPoison i, 0⟩) ∧
  Retires .lsav (fun _ _ => { Shape.bare 0x80 with
      uses := 5, imm := some 0xFFFFFFFF, ruleA := .sbase, ruleC := .register, anyState := true })
    (fun s x => windowUnique s.crew.window ∧ 64 ∣ s.crew.bmemLo ∧ ∃ a, s.placeLane false 800 64 (x.ea false 0) = .ok a)
    (fun x s t => ∀ a, s.placeLane false 800 64 (x.ea false 0) = .ok a →
      let reg (i : Nat) : LaneReg := (s.crew.lane i).reg (regIndex x.f.sc)
      s.lanesStored t s.crew.spp fun sp k =>
        let j := k - a
        if sp ∨ k < a ∨ a + 800 ≤ k then none
        else if j < 768 then some ((reg (j / 8)).val.extractLsb' (8 * (j % 8)) 8)
        else if j < 780 then some (.ofNat 8 (bitsWhere (fun b => (reg (8 * (j - 768) + b)).full) 8))
        else if j < 792 then some (.ofNat 8 (bitsWhere (fun b => (reg (8 * (j - 780) + b)).poison) 8))
        else some 0) ∧
  Retires .lrst (fun _ _ => { Shape.bare 0x81 with uses := 1, dst := .reg, imm := some 0xFFFFFFFF, ruleA := .sbase })
    (fun s x => ∃ a, s.placeLane false 800 64 (x.ea false 0) = .ok a)
    (fun x s t => ∀ a, s.placeLane false 800 64 (x.ea false 0) = .ok a →
      let marked (o i : Nat) : Bool := (s.crewByte false (a + o + i / 8)).getLsbD (i % 8)
      let tainted (i : Nat) : Bool := s.mem.poisoned .bmem (a + 8 * i) 8 || s.mem.poisoned .bmem (a + 768) 24
      s.onlyCrew t ∧
      t.crew = { s.crew with lanes := t.crew.lanes, laneQ := s.crew.laneQ.tail, clock := s.crew.clock + 1 } ∧
      ∀ i < 96, t.crew.lane i = { s.crew.lane i with regs := (t.crew.lane i).regs } ∧
        ∀ r, (t.crew.lane i).reg r =
          if r = regIndex x.f.dst then
            ⟨.ofNat 64 (leNat ((List.range 8).map fun j => s.crewByte false (a + 8 * i + j))), marked 768 i,
              marked 780 i || tainted i⟩
          else (s.crew.lane i).reg r) ∧
  Pushes .pois (fun _ => shMove 0x82 0) (fun _ _ => ⟨0, true, 0⟩) ∧
  ∀ (s : State) (f : LaneFields) (e : LaneEntry),
    s.crew.laneQ.head? = some e → e.rep = none → s.crew.trap.handler = false → s.settings.trap ≠ 0 →
    ({ Shape.bare 0x83 with imm := some 0xFFFFFFFF } : Shape).check s.settings.priv s.settings.det e.fmtr f = none →
    Completes (.lbrk f) s fun t =>
      t.crew.trap.cause = 0x01140000 ∧ t.crew.trap.opnd = f.imm ∧ t.crew.trap.lpc = e.lpc + 12 ∧
      t.crew.trap.split = e.owner ∧ t.crew.trap.held = s.crew.laneQ ∧ t.crew.trap.handler ∧
      (t.crew.split e.owner).spc = s.settings.trap ∧ (t.crew.split e.owner).mask = e.mask

/-! ## Lane accesses to the engines -/

/-- R253, R256, R261, R262: LDA and STA reach the pinned tiles of a core whose pins the crew's partition holds, while no
task holds the tile; SCLW pushes the executing lanes' scales into the open batch of the FIFO, stated while the core runs no
task that has taken a batch; IDXW writes the entries of an index slot that no issued task has yet to take. -/
def Obligations.LaneTileAccess : Prop :=
  let core (s : State) : Nat := slotCore s.cur
  let free (s : State) (x : Ctx) : Prop :=
    s.tileHeld (core s) (x.f.imm.toNat % 2) = false ∧ (x.f.fmt = 0 → x.f.md = 0 → s.tileHeld (core s) 1 = false)
  let w (x : Ctx) : Nat := if x.f.fmt = 0 then 8 else 4
  let spot (s : State) (x : Ctx) (i : Nat) : Nat :=
    let a := (x.val 0 i).toNat
    2 ^ 18 * core s + 65536 * (x.f.imm.toNat % 2) + w x * (128 * (a / 256 % 128) + a % 128)
  let held (sh : Shape) (s : State) : Shape :=
    if (s.core (core s)).pinOwner = some s.crew.part then sh else { sh with bad := some (0, 0) }
  let status (op : BitVec 8) (uses : BitVec 3) (d : DstUse) : Shape :=
    { Shape.bare op with uses := uses, dst := d, md := 1, imm := some 1 }
  let done (s t : State) : Prop := t.crew = { s.crew with
    lanes := t.crew.lanes, laneQ := s.crew.laneQ.tail, clock := s.crew.clock + 1 } ∧
    (∀ n, n ≠ s.cur → t.crewAt n = s.crewAt n) ∧
    ∀ i < 96, t.crew.lane i = { s.crew.lane i with count := (t.crew.lane i).count }
  SendsIf .lda (fun s f => held (shTile 0x70 1 .long f) s) (fun s x => free s x ∧ x.clean [0])
    (fun s x i =>
      let v := leNat ((List.range (w x)).map fun j => s.mem.byte .acc (spot s x i + j))
      ⟨if x.f.fmt = 20 then .ofInt 64 (BitVec.ofNat 32 v).toInt else .ofNat 64 v, s.mem.poisoned .acc (spot s x i) (w x), 0⟩) ∧
  Retires .sta (fun s f => held (shTile 0x71 3 .none f) s) (fun s x => free s x ∧ x.clean [0, 1])
    (fun x s t =>
      t = { s with crews := t.crews, mem := t.mem } ∧ done s t ∧
      t.mem = { s.mem with acc := t.mem.acc, accPoison := t.mem.accPoison } ∧
      ∀ k, t.mem.byte .acc k =
        match x.lanes.reverse.find? fun i => decide (spot s x i ≤ k) && decide (k < spot s x i + w x) with
        | some i => (x.val 1 i).extractLsb' (8 * (k - spot s x i)) 8
        | none => s.mem.byte .acc k) ∧
  SendsIf .ldaStatus (fun s _ => held (status 0x70 0 .long) s) (fun s x => free s x)
    (fun s x _ => ⟨(mapGet (0 : Word) (s.core (core s)).accStatus (x.f.imm.toNat % 2)).setWidth 64, false, 0⟩) ∧
  Retires .staStatus (fun s _ => held (status 0x71 2 .none) s) (fun s x => free s x ∧ x.clean [1])
    (fun x s t =>
      t = { s with crews := t.crews, cores := t.cores } ∧ done s t ∧ (∀ k, k ≠ core s → t.core k = s.core k) ∧
      t.core (core s) = { s.core (core s) with accStatus := (t.core (core s)).accStatus } ∧
      ∀ n, mapGet (0 : Word) (t.core (core s)).accStatus n =
        if n = x.f.imm.toNat % 2 ∧ x.lanes ≠ [] then .ofNat 32 ((x.val 1 (x.lanes.headD 0)).toNat % 32)
        else mapGet (0 : Word) (s.core (core s)).accStatus n) ∧
  (let entry (x : Ctx) (i : Nat) : ScaleEntry :=
     let bits := if x.f.md.getLsbD 1 then 32 else if x.f.fmt = 31 then 16 else 8
     ⟨x.f.fmt, x.f.md.getLsbD 1, .ofNat 32 ((x.val 0 i).toNat % 2 ^ bits)⟩
   let ents (x : Ctx) : List ScaleEntry := (if x.f.md.getLsbD 1 then x.lanes.take 1 else x.lanes).map (entry x)
   Retires .sclw (fun _ f => { Shape.bare 0x72 with
       uses := 1, kind := .float, fmts := blockCodes, md := 3
       bad := if f.md.getLsbD 1 ∧ f.fmt ≠ 30 then some (9, f.md.toNat) else none })
     (fun s x => x.clean [0] ∧ fifoCount (s.qset s.qk).fifo + (ents x).length ≤ 512 ∧
       ∀ k q y, s.tileTask (core s) = some (k, q, y) → ∀ b ∈ (s.qset (fifoKey k y)).fifo, b.taker ≠ some (q, y.ticket))
     (fun x s t =>
       t = { s with crews := t.crews, qsets := t.qsets } ∧ done s t ∧ (∀ k, k ≠ s.qk → t.qset k = s.qset k) ∧
       t.qset s.qk = { s.qset s.qk with fifo := (t.qset s.qk).fifo } ∧
       let l := (s.qset s.qk).fifo
       let last := x.f.md.getLsbD 0
       (∀ b, l.getLast? = some b → b.closed = false → b.dropped = false →
         (t.qset s.qk).fifo = l.dropLast ++ [{ b with ents := b.ents ++ ents x, closed := last }]) ∧
       ((l = [] ∨ ∃ b, l.getLast? = some b ∧ b.closed) → (ents x ≠ [] ∨ last) →
         (t.qset s.qk).fifo = l ++ [⟨ents x, last, none, 0, false⟩]))) ∧
  Retires .idxw (fun _ _ => { Shape.bare 0x73 with uses := 1, md := 7, imm := some 127 })
    (fun s x => x.clean [0] ∧ s.slotInUse s.qk (x.f.md.toNat % 8) = false)
    (fun x s t =>
      t = { s with crews := t.crews, qsets := t.qsets } ∧ done s t ∧ (∀ k, k ≠ s.qk → t.qset k = s.qset k) ∧
      t.qset s.qk = { s.qset s.qk with slots := (t.qset s.qk).slots } ∧
      ∀ n, mapGet (0 : Word) (t.qset s.qk).slots n =
        match x.lanes.find? fun i =>
          decide (x.f.imm.toNat % 128 + i ≤ 127) && n == 128 * (x.f.md.toNat % 8) + x.f.imm.toNat % 128 + i with
        | some i => (x.val 0 i).extractLsb' 0 32
        | none => mapGet 0 (s.qset s.qk).slots n)

/-- R269, R284, R285: LITP, CAVR, CACL and CAWD reach the clause array of a core whose array the crew's partition owns, at a
boundary between its operations; they wait while one is under way. -/
def Obligations.LaneClauseAccess : Prop :=
  let core (s : State) : Nat := slotCore s.cur
  let held (sh : Shape) (s : State) : Shape :=
    if (s.core (core s)).arrayOwner = some s.crew.part then sh else { sh with bad := some (0, 0) }
  let cell (s : State) (c k : Nat) : Byte := s.mem.byte .cells (2 ^ 17 * core s + 512 * c + k)
  let poisoned (s : State) (c : Nat) : Bool := s.mem.poisoned .cells (2 ^ 17 * core s + 512 * c) 512
  let pushes (mk : LaneFields → Instr) (shape : LaneFields → Shape) (g : State → Ctx → Nat → LaneRes) : Prop :=
    Retires mk (fun s f => held (shape f) s) (fun s x => s.arrayBusy (core s) = false ∧ x.clean [0]) fun x s t =>
      x.pushed (g s x) (fun i => (s.crew.lane i).preds) s t
  let waits (mk : LaneFields → Instr) (shape : State → LaneFields → Shape) : Prop :=
    ∀ (s : State) (f : LaneFields) (e : LaneEntry), s.laneHead (shape s f).op f e → s.laneOk (shape s f) f e →
      s.arrayBusy (core s) → exec (mk f) s = .next s
  pushes .litp (fun _ => shMove 0x68 1) (fun s x i =>
    let a := (x.val 0 i).toNat
    ⟨.ofNat 64 (bitsWhere (fun j => decide (128 ≤ (cell s (a % 256) (64 * (a / 256 % 8) + j)).toNat)) 64),
      poisoned s (a % 256), 0⟩) ∧
  pushes .cavr (fun f => { shMove 0x69 0 with
      imm := some 15, bad := if f.imm.toNat < 16 ∧ 10 ≤ f.imm.toNat then some (10, f.imm.toNat) else none })
    (fun s x _ =>
      let k := x.f.imm.toNat % 16
      let y := s.core (core s)
      ⟨if k = 0 then y.cac else if k = 1 then .ofNat 64 (y.stepCount.toNat * 2 ^ 32 + y.seed.toNat)
        else .ofNat 64 (leNat ((List.range 8).map fun j => memGet y.table (8 * (k - 2) + j))), false, 0⟩) ∧
  pushes .cacl (fun _ => shMove 0x6A 1) (fun s x i =>
    let w := (x.val 0 i).toNat % 2 ^ 14
    ⟨.ofNat 64 (leNat ((List.range 8).map fun j => cell s (w / 64) (8 * (w % 64) + j))), poisoned s (w / 64), 0⟩) ∧
  waits .litp (fun s _ => held (shMove 0x68 1) s) ∧ waits .cacl (fun s _ => held (shMove 0x6A 1) s) ∧
  waits .cawd (fun s _ => held { Shape.bare 0x6B with uses := 3 } s) ∧
  Retires .cawd (fun s _ => held { Shape.bare 0x6B with uses := 3 } s)
    (fun s x => s.arrayBusy (core s) = false ∧ x.clean [0, 1])
    (fun x s t =>
      t = { s with crews := t.crews, mem := t.mem } ∧ (∀ n, n ≠ s.cur → t.crewAt n = s.crewAt n) ∧
      t.crew = { s.crew with lanes := t.crew.lanes, laneQ := s.crew.laneQ.tail, clock := s.crew.clock + 1 } ∧
      (∀ i < 96, t.crew.lane i = { s.crew.lane i with count := (t.crew.lane i).count }) ∧
      t.mem = { s.mem with cells := t.mem.cells } ∧
      ∀ k, t.mem.byte .cells k =
        let a (i : Nat) : Nat := 2 ^ 17 * core s + 8 * ((x.val 0 i).toNat % 2 ^ 14)
        match x.lanes.reverse.find? fun i => decide (a i ≤ k) && decide (k < a i + 8) with
        | some i => (x.val 1 i).extractLsb' (8 * (k - a i)) 8
        | none => s.mem.byte .cells k)

/-! ## Events of the cores -/

/-- R107, R139, R203, R204, R210, R211, R213: the arrival of a value of a long-latency producer, traps of the lane and the
scalar stream taken as events, a crew's termination, the errors of registers and memories, and the wake of a split that
waits for a time. -/
def Obligations.CoreEvents : Prop :=
  (∀ (s : State) (slot lane : Nat) (y : Inflight) (rest : List Inflight) (a : Arrival), let c := s.crewAt slot
    c.inflight = y :: rest → y.arrivals.find? (fun b => b.lane == lane) = some a → lane < c.lanes.length →
    Completes (.longLatencyArrival slot lane) s fun t =>
      let left := y.arrivals.filter fun b => b.lane != lane
      t = { s with crews := t.crews } ∧ (∀ k, k ≠ slot → t.crewAt k = s.crewAt k) ∧
      t.crewAt slot = { c with
        lanes := (t.crewAt slot).lanes, fsum := c.fsum ||| a.flags
        inflight := if left = [] then rest else { y with arrivals := left } :: rest
        clock := if left = [] then c.clock + 1 else c.clock } ∧
      (∀ i, i ≠ lane → (t.crewAt slot).lane i = c.lane i) ∧
      (t.crewAt slot).lane lane = { c.lane lane with
        regs := ((t.crewAt slot).lane lane).regs, flags := (c.lane lane).flags ||| a.flags } ∧
      ∀ r, ((t.crewAt slot).lane lane).reg r = if r = y.reg then ⟨a.val, true, a.poison⟩ else (c.lane lane).reg r) ∧
  (∀ (s : State) (i : TrapInfo) (e : LaneEntry), s.crew.live → s.crew.laneQ.head? = some e → s.crew.trap.handler = false →
    s.settings.trap ≠ 0 → Completes (.laneTrap i) s fun t =>
      t.crew.trap.cause = 0x01#8 ++ i.code ++ i.detail ∧ t.crew.trap.addr = i.addr ∧ t.crew.trap.opnd = i.opnd ∧
      t.crew.trap.lpc = e.lpc ∧ t.crew.trap.split = e.owner ∧ t.crew.trap.held = s.crew.laneQ ∧ t.crew.trap.handler ∧
      t.crew.laneQ = [] ∧ t.crew.window = [] ∧ (t.crew.split e.owner).spc = s.settings.trap ∧
      (t.crew.split e.owner).mask = e.mask) ∧
  (∀ (s : State) (i : TrapInfo), s.crew.live → s.split.live → s.crew.trap.handler = false → s.settings.trap ≠ 0 →
    Completes (.scalarTrap i) s fun t =>
      t.crew.trap.cause = 0x02#8 ++ i.code ++ i.detail ∧ t.crew.trap.addr = i.addr ∧ t.crew.trap.opnd = i.opnd ∧
      t.crew.trap.spc = s.split.spc ∧ t.crew.trap.split = s.curSplit ∧ t.crew.trap.held = s.crew.laneQ ∧
      t.crew.trap.handler ∧ t.crew.laneQ = [] ∧ t.crew.window = [] ∧ t.split.spc = s.settings.trap) ∧
  (∀ (s : State) (w : Word), let cls := w.extractLsb' 24 8
    s.crew.live → (cls = 1 ∧ s.settings.trap = 0 ∨ cls = 2 ∧ s.crew.trap.handler) →
    Completes (.crewTermination w) s fun t =>
      (t.crewAt s.cur).live = false ∧ (t.crewAt s.cur).status = w ∧ (t.crewAt s.cur).laneQ = [] ∧
      (t.crewAt s.cur).window = []) ∧
  (∀ (s : State) (slot row lane : Nat), let c := s.crewAt slot
    c.live → lane < c.lanes.length →
    (row < 72 → Completes (.registerEccError slot row lane) s fun t =>
      t = { s with crews := t.crews } ∧ (∀ k, k ≠ slot → t.crewAt k = s.crewAt k) ∧
      t.crewAt slot = { c with lanes := (t.crewAt slot).lanes } ∧ (∀ i, i ≠ lane → (t.crewAt slot).lane i = c.lane i) ∧
      (t.crewAt slot).lane lane = { c.lane lane with regs := ((t.crewAt slot).lane lane).regs } ∧
      ∀ r, ((t.crewAt slot).lane lane).reg r =
        if r = row then { (c.lane lane).reg r with poison := true } else (c.lane lane).reg r) ∧
    (72 ≤ row → row < 88 → Completes (.registerEccError slot row lane) s fun t =>
      t = { s with crews := t.crews } ∧ (∀ k, k ≠ slot → t.crewAt k = s.crewAt k) ∧
      t.crewAt slot = { c with lanes := (t.crewAt slot).lanes } ∧ (∀ i, i ≠ lane → (t.crewAt slot).lane i = c.lane i) ∧
      (t.crewAt slot).lane lane = { c.lane lane with queue := ((t.crewAt slot).lane lane).queue } ∧
      ∀ k, (((t.crewAt slot).lane lane).queue.getD k ⟨0, false⟩) =
        let v := (c.lane lane).queue.getD k ⟨0, false⟩
        if k = row - 72 then { v with poison := true } else v)) ∧
  (∀ (s : State) (spad : Bool) (g : Nat), g < (if spad then 2 ^ 22 else 2 ^ 20) →
    Completes (.memoryEccError spad g) s fun t =>
      t = { s with mem := t.mem } ∧ (∀ sp a, t.mem.byte sp a = s.mem.byte sp a) ∧ t.mem.tags = s.mem.tags ∧
      ∀ a n, 0 < n → t.mem.poisoned (spOf spad) a n =
        (s.mem.poisoned (spOf spad) a n || (decide (a / 64 ≤ g) && decide (g ≤ (a + n - 1) / 64)))) ∧
  ∀ (s : State) (slot k : Nat) (w : DWord), let c := s.crewAt slot
    c.live → c.caught = false → (c.split k).wait = .time w → w ≤ s.heat.time →
    Completes (.timeWake slot k) s fun t =>
      t = { s with crews := t.crews } ∧ (∀ j, j ≠ slot → t.crewAt j = s.crewAt j) ∧
      t.crewAt slot = { c with splits := (t.crewAt slot).splits, clock := c.clock + 1 } ∧
      (∀ j, j ≠ k → (t.crewAt slot).split j = c.split j) ∧
      (t.crewAt slot).split k = { c.split k with spc := (c.split k).spc + 4, wait := .none }

/-- R55 to R57, R306: the block at the head of a core's prefetch buffer is placed once it fits: its crews start in the slots
given, in index order, with every register full and zero, all 96 lanes in one split at the entry point, and the block's memory. -/
def Obligations.BlockPlacement : Prop :=
  ∀ (s : State) (core : Nat) (b : Task) (rest : List Task) (n : Node) (slots : List Nat) (lo : Nat),
    let x := s.needs (graphKey b.part b.handle) n
    (s.core core).prefetch = b :: rest → s.engineRuns (qkey b.part core) → s.node (graphKey b.part b.handle) b.node = some n →
    s.fit b.part core (s.graph (graphKey b.part b.handle)).job x = some (slots, lo) → slots.Nodup →
    Completes (.blockPlacement core) s fun t =>
      (t.core core).prefetch = rest ∧ t.nextUid = s.nextUid + slots.length ∧
      (∀ j, j ∉ slots.map (24 * core + ·) → t.crewAt j = s.crewAt j) ∧
      ∀ i, ∀ (h : i < slots.length), let c := t.crewAt (24 * core + slots[i])
        c.live ∧ c.index = i ∧ c.block = b.block ∧ c.uid = s.nextUid + i ∧ c.part = b.part ∧ c.handle = b.handle ∧
        c.node = n.id ∧ c.launch = x.launch ∧ c.under = (s.graph (graphKey b.part b.handle)).launch ∧ c.bmemLo = lo ∧ c.bmemLen = x.bmem ∧ c.spp = x.bmem - i * x.spill ∧
        c.clock = 0 ∧ c.laneQ = [] ∧ c.window = [] ∧ c.ring = List.replicate 4 ⟨0, 0, false⟩ ∧ (∀ r, c.sreg 0 r = 0) ∧
        c.lanes.length = 96 ∧
        (∀ l < 96, ∀ r, (c.lane l).reg r = LaneReg.zero) ∧ (∀ k, k ≠ 0 → (c.split k).live = false) ∧
        c.split 0 = { Split.free with live := true, spc := x.spc, lpc := x.lpc, members := allLanes, mask := allLanes }

/-! ## Entries of the engines -/

/-- R14, R215, R217, R219, R233: the head of a copy queue starts, with STAT 1, or faults with its cause; when its last unit
has moved it completes: its release is performed, STAT is 2 and S is its ticket. A faulted entry of a cause that may be
resumed goes on from PROG; one that is retired passes S without a release and marks its issuer. -/
def Obligations.CopyEntries : Prop :=
  ∀ (s : State) (part core q : Nat) (e : QEntry), let k := qkey part core
    q < 4 ∨ q = 7 → s.headEntry k q = some e → s.entry k q e.ticket = some e →
    let slot := s.chainSlot k q e.ticket
    let stat (t : State) (x : QEntry) (code : Nat) : Prop :=
      t.mem.nat .spad (slot + 40) 8 = x.progWord % 2 ^ 64 ∧
      t.mem.nat .spad (slot + 56) 4 = code + 16 * (x.cause % 256) + 4096 * x.flags.toNat ∧ t.mem.bmem = s.mem.bmem ∧
      ∀ a, a < slot + 40 ∨ slot + 48 ≤ a ∧ a < slot + 56 ∨ slot + 60 ≤ a → t.mem.byte .spad a = s.mem.byte .spad a
    let alone (rest : List QEntry) : Prop :=
      (s.queue k q).ents = e :: rest ∧ ∀ r ∈ rest, r.ticket ≠ e.ticket ∧ r.state ≠ .complete
    let passed (t : State) (rest : List QEntry) : Prop :=
      (t.queue k q).ents = rest ∧ (t.queue k q).seq = e.ticket ∧ (t.queue k q).issue = (s.queue k q).issue
    (s.engineRuns k → e.state = .queued → s.afterDone k e →
      (∀ x, s.copyChecks k q e = .ok x → Completes (.copyEntryStart part core q) s fun t =>
        t.entry k q e.ticket = some { x with state := .running } ∧ stat t x 1 ∧
        t = { s with qsets := t.qsets, mem := t.mem }) ∧
      (∀ c a, s.copyChecks k q e = .error (c, a) → Completes (.copyEntryStart part core q) s fun t =>
        (t.queue k q).seq = (s.queue k q).seq ∧ ∃ x, t.entry k q e.ticket = some x ∧ x.state = .faulted ∧ x.cause = c ∧
          x.faultAddr = .ofNat 64 a)) ∧
    (s.engineRuns k → e.state = .running → e.resp = [] → e.pending = [] → e.job'.units ≤ e.prog →
      Completes (.copyEntryStart part core q) s fun t =>
        t.entry k q e.ticket = some { e with state := .moved } ∧ t = { s with qsets := t.qsets }) ∧
    (s.engineRuns k → e.state = .moved →
      (∀ g ∈ (s.core core).granules, ¬(g.key = k ∧ g.q = q ∧ g.ticket = e.ticket)) → ∀ rest, alone rest →
      Completes (.copyEntryComplete part core q) s fun t =>
        passed t rest ∧ (e.rel = none → stat t e 2) ∧
        ∀ sp a, e.rel = some (sp, a) → (sp = false ∨ a + 8 ≤ slot ∨ slot + 64 ≤ a) →
          t.mem.nat (spOf sp) (a + 4) 4 = (s.mem.nat (spOf sp) (a + 4) 4 + 1) % 2 ^ 32) ∧
    (e.state = .faulted → e.cause ∈ [1, 2, 9] → Completes (.copyEntryResume part core q) s fun t =>
      let x := { e with state := .running, cause := 0, faultAddr := 0, rdet := 0 }
      t.entry k q e.ticket = some x ∧ (t.queue k q).seq = (s.queue k q).seq ∧ stat t x 1 ∧
      t = { s with qsets := t.qsets, mem := t.mem }) ∧
    (e.state = .faulted → e.node = none → ∀ rest, alone rest → Completes (.copyEntryRetire part core q) s fun t =>
      passed t rest ∧ stat t e 4 ∧ let c := s.crewAt e.slot
      (c.live → c.uid = e.uid → (t.crewAt e.slot).asyncf = c.asyncf ||| (1#7 <<< q)) ∧
      (c.live = false ∨ c.uid ≠ e.uid → t.crews = s.crews))

/-- R248, R250, R251, R254, R258, R264: the task that the scheduler of a die serves next, of a partition the one issued
earliest, starts on its engine and keeps its rows, tensor scales and ring header, or faults with the cause of its start; a
step adds the products of its K elements to each output and PROG goes up; a task whose last step is done writes its
completion word, and S passes it; a faulted task is resumed or retired. The step is stated for a task without ring, scales
and redundancy that has further steps. -/
def Obligations.TileTasks : Prop :=
  (∀ (s : State) (part die core q : Nat), s.tileFirst part die = some (core, q) →
    ∃ e c, s.tileReady part core q = some (e, c) ∧
      ∀ core' q', core' = 64 * die ∧ q' = 9 ∨ core' / 64 = die ∧ q' = 4 → ∀ e' c', s.tileReady part core' q' = some (e', c') →
        e.since < e'.since ∨ e.since = e'.since ∧ e.engine ≤ e'.engine) ∧
  (∀ (s : State) (part core q c : Nat) (e : QEntry), let k := queueKey part core q; let t := tileRec e.recd
    q = 4 ∨ q = 9 → (s.queue k q).ents.find? (fun x => x.state == .queued) = some e → s.engineRuns k → s.afterDone k e →
    s.tileWaits part e.engine t →
    (t.pin → ∀ x ∈ (s.queue k q).ents.takeWhile fun x => x.ticket != e.ticket, (tileRec x.recd).pin → x.state = .complete) →
    s.engineFor part e.engine t.pin = some c →
    s.mtsNext (core / 64) = some (part, if q = 9 then core / 64 * 64 else core, q) →
    let rows := s.tileRows (keyPart k) e.engine t
    (s.tileStartBad (keyPart k) e.engine t rows e.arg.toNat = none → Completes (.mtsTaskStart part core q) s fun u =>
      (u.core c).tile = some (k, q, e.ticket) ∧ (u.die (core / 64)).served = part ∧
      u.entry k q e.ticket = some { e with
        state := .running, engine := c, prog := 0, prog2 := 0, rows := rows ++ s.tileTensors e.engine t
        ring := s.tileHeader e.engine t } ∧
      (t.csrc = 2 → u.mem = s.mem) ∧
      (t.csrc = 0 → ∀ i < t.tileBytes, u.mem.byte .acc (2 ^ 18 * c + 65536 * t.slot + i) = 0)) ∧
    (∀ b a, s.tileStartBad (keyPart k) e.engine t rows e.arg.toNat = some (b, a) →
      Completes (.mtsTaskStart part core q) s fun u =>
        ∃ x, u.entry k q e.ticket = some x ∧ x.state = .faulted ∧ x.cause = b ∧ x.faultAddr = .ofNat 64 a)) ∧
  (∀ (s : State) (core k q : Nat) (e : QEntry) (m : Bool) (x y : Scan) (sa sb : List (List (Byte × Bool))),
    let t := tileRec e.recd
    s.tileTask core = some (k, q, e) → e.state = .running → s.engineRuns (qkey (keyPart k) core) → e.resp = [] →
    e.pending = [] → e.engine = core → t.ring = false → t.scales = 0 → t.red = false → e.prog + 1 < t.nsteps →
    t.m ≤ 128 → t.n ≤ 128 →
    Scan.segments ⟨s, [], []⟩ k e (tileAddr t.aspace t.abase) t.segA
      ((List.range t.m).map fun i => e.rows.getD i 0 * t.astr + e.prog * t.segA) = (x, .ok sa) →
    Scan.segments x k e (tileAddr t.bspace t.bbase) t.segB
      ((List.range t.n).map fun j => e.prog * 128 * t.segB + j * t.segB) = (y, .ok sb) →
    y.s.mem = s.mem → y.s.qsets = s.qsets → t.fmtc = 0 ∨ t.fmtc = 1 ∨ t.fmtc = 20 → e.prog2 = 0 →
    Completes (.tileKStep core m) s fun u =>
      u.entry k q e.ticket = some { e with prog := e.prog + 1, resp := [] } ∧ u.mem.spad = s.mem.spad ∧
      u.mem.bmem = s.mem.bmem ∧
      (∀ a, (∀ r < t.m, ∀ c < t.n, a < t.elem core r c ∨ t.elem core r c + t.elemBytes ≤ a) →
        u.mem.byte .acc a = s.mem.byte .acc a) ∧
      ∀ r < t.m, ∀ c < t.n,
        let ops (code : Nat) (l : List (List (Byte × Bool))) (i : Nat) (b : Bool) : List (Option Val) :=
          (operand code (t.kp e.prog) (l.getD i []) [] (e.tensor t b)).elems
        u.mem.nat .acc (t.elem core r c) t.elemBytes =
          (accumulate t.fmtc (s.mem.nat .acc (t.elem core r c) t.elemBytes)
            (List.zipWith stepProduct (ops t.fmta sa r false) (ops t.fmtb sb c true))).1 % 2 ^ (8 * t.elemBytes)) ∧
  (∀ (s : State) (core k q : Nat) (e : QEntry) (rest : List QEntry), let t := tileRec e.recd
    s.tileTask core = some (k, q, e) → e.state = .moved → s.engineRuns (qkey (keyPart k) core) →
    s.batchEnds k q e t = .got [] → (s.queue k q).ents = e :: rest → (∀ r ∈ rest, r.ticket ≠ e.ticket ∧ r.state ≠ .complete) →
    Completes (.tileTaskComplete core) s fun u =>
      (u.core core).tile = none ∧ (u.queue k q).ents = rest ∧ (u.queue k q).seq = e.ticket ∧ u.crews = s.crews ∧
      (e.rel = none → t.drain = false →
        let a := 2 ^ 26 * (core / 64) + e.arg.toNat % 2 ^ 27
        u.mem.nat .spad (a + 8) 4 = (s.tileStatus core t).toNat ∧ u.mem.nat .spad (a + 12) 4 = e.ticket.toNat ∧
        u.mem.acc = s.mem.acc ∧ ∀ b, b < a + 8 ∨ a + 16 ≤ b → u.mem.byte .spad b = s.mem.byte .spad b)) ∧
  (∀ (s : State) (part core q : Nat) (e : QEntry), let k := queueKey part core q; let t := tileRec e.recd
    let x := { e with state := .running, cause := 0, faultAddr := 0, rdet := 0, buf := [], flags := 0 }
    q = 4 ∨ q = 9 → s.entry k q e.ticket = some e → e.state = .faulted → e.cause ∈ [1, 2, 9] →
    (t.pin → (s.core e.engine).tile = some (k, q, e.ticket) ∨ s.engineFree part e.engine →
      Completes (.tileTaskResume part core q e.ticket) s fun u =>
        u.entry k q e.ticket = some x ∧ (u.core e.engine).tile = some (k, q, e.ticket) ∧
        u = { s with qsets := u.qsets, cores := u.cores }) ∧
    (t.pin = false → s.engineFree part e.engine → Completes (.tileTaskResume part core q e.ticket) s fun u =>
      u.entry k q e.ticket = some x ∧ (u.core e.engine).tile = some (k, q, e.ticket) ∧
      (mapGet (0 : Word) (u.core e.engine).accStatus 2).toNat = e.flags.toNat)) ∧
  ∀ (s : State) (part core q : Nat) (e : QEntry) (rest : List QEntry), let k := queueKey part core q; let t := tileRec e.recd
    q = 4 ∨ q = 9 → e.state = .faulted → e.node = none → (s.queue k q).ents = e :: rest →
    (∀ r ∈ rest, r.ticket ≠ e.ticket ∧ r.state ≠ .complete) →
    Completes (.tileTaskRetire part core q e.ticket) s fun u =>
      (u.queue k q).ents = rest ∧ (u.queue k q).seq = e.ticket ∧
      (t.pin → (u.core e.engine).tile =
        if (s.core e.engine).tile = some (k, q, e.ticket) then none else (s.core e.engine).tile) ∧
      let a := 2 ^ 26 * (e.engine / 64) + e.arg.toNat % 2 ^ 27
      u.mem.nat .spad (a + 12) 4 = e.ticket.toNat ∧ u.mem.acc = s.mem.acc ∧
      ∀ b, b < a + 8 ∨ a + 16 ≤ b → u.mem.byte .spad b = s.mem.byte .spad b

/-- R274, R276, R279, R281, R283, R288 to R290, R292, R293: the entries of a clause array start in order; a training step
changes the cells that its sample says and advances STEP; an inference sample writes its vote row, a live one from cells
that the step in progress has passed and from those it has not; CAMOV loads and stores the parts that FN names a granule at a
time; an entry whose samples are done completes; a faulted one is retired; copies reach the array a granule at a time; a
soft error that cannot be corrected poisons its row. -/
def Obligations.ArrayEntries : Prop :=
  ∀ (s : State) (core k : Nat), s.arrayKey core = some k → s.engineRuns k → keyCore k = core →
    let base := 2 ^ 17 * core
    (∀ q e, (s.arrayEntries k).find? (fun x => x.2.state == .queued) = some (q, e) → s.afterDone k e →
      (let ahead := (s.arrayEntries k).takeWhile fun x => x.2.state != .queued
       if e.live then ∀ x ∈ ahead, x.2.opcode ≠ 0x31 ∧ x.2.live = false else ahead = []) →
      (e.opcode ≠ 0x31 → ∀ x, s.arrayChecks k e = .ok x → Completes (.clauseEntryStart core) s fun t =>
        t.entry k q e.ticket = some { x with state := .running, prog := 0, rows := [(s.core core).cac.toNat] } ∧
        t = { s with qsets := t.qsets }) ∧
      (e.opcode ≠ 0x31 → ∀ c, s.arrayChecks k e = .error c → Completes (.clauseEntryStart core) s fun t =>
        ∃ x, t.entry k q e.ticket = some x ∧ x.state = .faulted ∧ x.cause = c) ∧
      (e.opcode = 0x31 → (∀ x ∈ imageParts e.fn, (s.entryPlace k e (e.arg.toNat + x.1) x.2).isSome) →
        Completes (.clauseEntryStart core) s fun t =>
          t.entry k q e.ticket = some { e with state := .running } ∧ t = { s with qsets := t.qsets })) ∧
    (∀ q e l, s.arrayRunning core false = some (k, q, e) → e.opcode = 0x30 →
      (s.core core).stepping = none ∧ s.trainSample k e = .cells l ∨ (s.core core).stepping = some ⟨l, false⟩ →
      (l.map fun x => (x.1, x.2.1)).Nodup → (∀ x ∈ l, x.2.1 < 512) →
      Completes (.trainingStep core) s fun t =>
        (t.core core).stepCount = (s.core core).stepCount + 1 ∧ (t.core core).stepping = none ∧
        t.mem = { s.mem with cells := t.mem.cells } ∧
        (∀ x ∈ l, t.mem.byte .cells (base + 512 * x.1 + x.2.1) = .ofNat 8 x.2.2) ∧
        (∀ a, (∀ x ∈ l, a ≠ base + 512 * x.1 + x.2.1) → t.mem.byte .cells a = s.mem.byte .cells a) ∧
        t.entry k q e.ticket = some { e with
          prog := e.prog + 1, state := if (arrayRec e.recd).n ≤ e.prog + 1 then .moved else e.state }) ∧
    (∀ q e l, s.arrayRunning core false = some (k, q, e) → e.opcode = 0x30 → (s.core core).stepping = some ⟨l, true⟩ →
      Completes (.trainingStep core) s fun t => (t.core core).stepCount = (s.core core).stepCount + 1 ∧
        ∃ x, t.entry k q e.ticket = some x ∧ x.state = .faulted ∧ x.cause = 16) ∧
    (∀ q e c, s.arrayRunning core false = some (k, q, e) → e.opcode = 0x30 → (s.core core).stepping = none →
      s.trainSample k e = .fault c → Completes (.trainingStep core) s fun t =>
        (t.core core).stepCount = (s.core core).stepCount ∧ t.mem.cells = s.mem.cells ∧
        ∃ x, t.entry k q e.ticket = some x ∧ x.state = .faulted ∧ x.cause = c) ∧
    (∀ n q e i o, s.arrayRunning core (n != 0) = some (k, q, e) → e.opcode = 0x2F →
      let x := arrayRec e.recd
      let f := cacFields (if e.live then .ofNat 64 (e.rows.headD 0) else (s.core core).cac)
      let ahead : List (Nat × Nat × Nat) := match s.stepNow core with | some st => st.cells | none => []
      let cell (c j : Nat) : Nat :=
        match (if c + 1 < n then ahead.find? fun x => x.1 == c && x.2.1 == j else none) with
        | some x => x.2.2
        | none => s.cell core c j
      s.entryPlace k e (x.inp + 32 * e.prog) 32 = some i → s.entryPlace k e (x.out + 32 * e.prog) 32 = some o →
      s.spotsPoisoned i 32 = false → x.flags.testBit 1 = false → f.nc ≤ 16 → (s.spotKey o).2 % 64 + 32 ≤ 64 →
      (∃ sp a, o = .mem sp a) →
      let out (c : Nat) : Bool :=
        decide (c < f.ncl) && !s.rowPoisoned core c && clauseOut f (cell c) (fun j => (s.spotNat i 32).testBit j) false
      Completes (.inferenceSample core n) s fun t =>
        (∀ c < f.nc, t.spotNat (o.plus (2 * c)) 2 = (voteOf f out c % 2 ^ 16).toNat) ∧ t.mem.cells = s.mem.cells ∧
        (t.core core).stepping = (if n < 2 then (s.core core).stepping else s.stepNow core) ∧
        t.entry k q e.ticket = some { e with
          prog := e.prog + 1, state := if x.n ≤ e.prog + 1 then .moved else e.state }) ∧
    (∀ q e p, s.arrayRunning core false = some (k, q, e) → s.entry k q e.ticket = some e → e.opcode = 0x31 →
      s.entryPlace k e e.arg.toNat 0 = some p →
      let l := imageGranules e.fn
      let moved (t : State) (n : Nat) : Prop := ∃ x, t.entry k q e.ticket = some x ∧ x.prog = n ∧
        x.state = (if l.length ≤ n then .moved else .running) ∧ x = { e with prog := n, prog2 := x.prog2, state := x.state }
      let hdr := e.fn.getLsbD 0
      let tab := e.fn.getLsbD 1
      let head := hdr.toNat + tab.toNat
      (e.fn.getLsbD 3 = false → e.prog = 0 → head ≠ 0 →
        (hdr → s.spotsPoisoned p 64 = false ∧ cacValid (.ofNat 64 (leAt (s.spotBytes p 64) 0 8)) ∧
          zeroAt (s.spotBytes p 64) 16 48) →
        (tab → s.spotsPoisoned (p.plus 64) 64 = false ∧ tableValid (s.spotBytes (p.plus 64) 64)) →
        Completes (.camovOperation core) s fun t => moved t head ∧ t.mem = s.mem ∧
          (hdr → (t.core core).cac = .ofNat 64 (leAt (s.spotBytes p 64) 0 8) ∧
            (t.core core).seed = .ofNat 32 (leAt (s.spotBytes p 64) 8 4) ∧
            (t.core core).stepCount = .ofNat 32 (leAt (s.spotBytes p 64) 12 4)) ∧
          (hdr = false → (t.core core).cac = (s.core core).cac ∧ (t.core core).seed = (s.core core).seed ∧
            (t.core core).stepCount = (s.core core).stepCount) ∧
          (tab → t.clauseTable core = s.spotBytes (p.plus 64) 64) ∧
          (tab = false → t.clauseTable core = s.clauseTable core)) ∧
      (e.fn.getLsbD 3 = false → e.prog = 0 → head ≠ 0 →
        (hdr ∧ s.spotsPoisoned p 64) ∨ (tab ∧ s.spotsPoisoned (p.plus 64) 64) → Completes (.camovOperation core) s fun t =>
          t.mem.cells = s.mem.cells ∧ ∃ x, t.entry k q e.ticket = some x ∧ x.state = .faulted ∧ x.cause = 10) ∧
      (e.fn.getLsbD 3 = false → e.prog ≠ 0 ∨ head = 0 → ∀ o, l[e.prog]? = some o → 128 ≤ o →
        Completes (.camovOperation core) s fun t => moved t (e.prog + 1) ∧ t.cores = s.cores ∧
          (∀ a, t.mem.byte .cells a =
            if base + o - 128 ≤ a ∧ a < base + o - 64 then s.spotByte (p.plus (o + (a - (base + o - 128))))
            else s.mem.byte .cells a) ∧
          (s.spotsPoisoned (p.plus o) 64 → t.rowPoisoned core ((o - 128) / 512))) ∧
      (e.fn.getLsbD 3 → ∀ o sp b, l[e.prog]? = some o → p = .mem sp b → (b + o) % 64 = 0 → sp ≠ .cells →
        Completes (.camovOperation core) s fun t => moved t (e.prog + 1) ∧ t.cores = s.cores ∧ t.mem.cells = s.mem.cells ∧
          (∀ a, a < b + o ∨ b + o + 64 ≤ a → t.mem.byte sp a = s.mem.byte sp a) ∧
          (o = 0 → t.mem.nat sp (b + o) 8 = (s.core core).cac.toNat ∧ t.mem.nat sp (b + o + 8) 4 = (s.core core).seed.toNat ∧
            t.mem.nat sp (b + o + 12) 4 = (s.core core).stepCount.toNat) ∧
          (o = 64 → ∀ j < 64, t.mem.byte sp (b + o + j) = (s.clauseTable core).getD j 0) ∧
          (128 ≤ o → ∀ j < 64, t.mem.byte sp (b + o + j) = s.mem.byte .cells (base + o - 128 + j)))) ∧
    (∀ q e rest, (s.arrayEntries k).find? (fun x => x.2.state == .moved) = some (q, e) → (s.queue k q).ents = e :: rest →
      (∀ r ∈ rest, r.ticket ≠ e.ticket ∧ r.state ≠ .complete) → Completes (.clauseEntryComplete core) s fun t =>
        (t.queue k q).ents = rest ∧ (t.queue k q).seq = e.ticket ∧ (e.rel = none → t.mem = s.mem) ∧
        ∀ sp a, e.rel = some (sp, a) →
          t.mem.nat (spOf sp) (a + 4) 4 = (s.mem.nat (spOf sp) (a + 4) 4 + 1) % 2 ^ 32) ∧
    (∀ q e rest, (s.arrayEntries k).find? (fun x => x.2.state == .faulted && x.2.node.isNone) = some (q, e) →
      (s.queue k q).ents = e :: rest → (∀ r ∈ rest, r.ticket ≠ e.ticket ∧ r.state ≠ .complete) →
      Completes (.clauseEntryRetire core) s fun t =>
        (t.queue k q).ents = rest ∧ (t.queue k q).seq = e.ticket ∧ t.mem.bmem = s.mem.bmem ∧ t.mem.spad = s.mem.spad ∧
        let c := s.crewAt e.slot
        (c.live → c.uid = e.uid → (t.crewAt e.slot).asyncf = c.asyncf ||| (1#7 <<< q))) ∧
    (∀ g, s.arrayBusy core = false → s.granuleOffers core = [g] → (g.bytes.map Prod.fst).Nodup →
      Completes (.clauseGranuleAccess core) s fun t =>
        (t.core core).granules = (s.core core).granules.erase g ∧ t.mem.bmem = s.mem.bmem ∧ t.mem.spad = s.mem.spad ∧
        (∀ b ∈ g.bytes, t.mem.byte .cells (base + g.addr + b.1) = b.2.1) ∧
        (∀ a, (∀ b ∈ g.bytes, a ≠ base + g.addr + b.1) → t.mem.byte .cells a = s.mem.byte .cells a) ∧
        ((∃ b ∈ g.bytes, b.2.2 = true) → t.rowPoisoned core (g.addr / 512))) ∧
    (s.arrayBusy core → exec (.clauseGranuleAccess core) s = .next s) ∧
    (∀ w left, w < 16384 →
      let lost (t : State) : Prop := t.rowPoisoned core (w / 64) ∧
        ∀ a, t.mem.byte .cells a =
          if base + 8 * w ≤ a ∧ a < base + 8 * w + 8 then left.extractLsb' (8 * (a - base - 8 * w)) 8
          else s.mem.byte .cells a
      (s.stepNow core = none → Completes (.cellSoftError core w false left) s fun t =>
        lost t ∧ t = { s with mem := t.mem }) ∧
      (∀ st, (s.core core).stepping = some st → Completes (.cellSoftError core w false left) s fun t => lost t ∧
        ∃ found, (t.core core).stepping =
          some ⟨st.cells.filter fun x => (512 * x.1 + x.2.1) / 8 != w, st.bad || found⟩) ∧
      Completes (.cellSoftError core w true left) s fun t =>
        t = { s with boot := { s.boot with errors := s.boot.errors + 1 } })

/-! ## Graphs -/

/-- R299 to R301, R303 to R305, R308, R312, R327: a graph loads its nodes, those without predecessors READY, or fails; a
token reaches its target; a node that is over sends its tokens; READY nodes enter their banks, the prefetch buffers and the
engine queues; a waiting task ages; a graph whose nodes are at rest ends. -/
def Obligations.GraphEvents : Prop :=
  ∀ (s : State) (part handle : Nat), let key := graphKey part handle; let g := s.graph key
    s.gsRuns part →
    (let all := (List.range 4).flatMap fun d => (List.range (g.ncnt.getD d 0)).map fun i => (d, i)
     ∀ u l, g.gstate = 1 →
      (s.gsNodes key (s.job g.job).troot all = (u, l, none) → badSuccessor l = none → u.graph key = g →
        (l.map Node.id).Nodup → (∀ n ∈ l, n.state = .wait) → Completes (.graphLoadComplete part handle) s fun t =>
          (t.graph key).gstate = 2 ∧ (t.graph key).nodes.map Node.id = l.map Node.id ∧
          (∀ n ∈ (t.graph key).nodes, n.state = if n.remaining = 0 then .ready else .wait) ∧ t.mem = u.mem) ∧
      (∀ f, s.gsNodes key (s.job g.job).troot all = (u, l, f) → f.isSome ∨ (badSuccessor l).isSome →
        Completes (.graphLoadComplete part handle) s fun t => (t.graph key).gstate = 6 ∧ (t.graph key).nodes = [])) ∧
    (∀ die tk rest n, (s.die die).tokens = tk :: rest → tk.part = part → tk.handle = handle →
      s.node key tk.target = some n → tk.slot < 64 →
      (n.arrived.getLsbD tk.slot → Completes (.token die) s fun t =>
        (t.die die).tokens = rest ∧ t.graph key = { g with dupTok := true } ∧ t.mem = s.mem) ∧
      (n.arrived.getLsbD tk.slot = false → n.state = .wait → Completes (.token die) s fun t =>
        (t.die die).tokens = rest ∧ (t.graph key).dupTok = g.dupTok ∧ t.mem = s.mem ∧
        ∃ x, t.node key tk.target = some x ∧ x.remaining = n.remaining - 1 ∧
          (∀ i < 64, x.arrived.getLsbD i = (n.arrived.getLsbD i || i == tk.slot)) ∧
          x.state = if n.remaining = 1 then .ready else .wait)) ∧
    (∀ id n, s.node key id = some n → s.nodeOver key n →
      (idSpawned id = false → Completes (.nodeDone part handle id) s fun t =>
        t.node key id = some { n with state := .done } ∧
        (∀ d, (t.die d).tokens = (s.die d).tokens ++
          (n.succs.filter fun x => idDie x.1 == d).map fun x => ⟨part, handle, x.1, x.2⟩) ∧
        (n.flags.getLsbD 1 = false → t.mem = s.mem) ∧
        (n.flags.getLsbD 1 → let a := 2 ^ 26 * idDie id + n.link.toNat % 2 ^ 27
          t.mem.nat .spad (a + 4) 4 = (s.mem.nat .spad (a + 4) 4 + 1) % 2 ^ 32)) ∧
      (∀ slot p, idSpawned id → n.parent = some (slot, (s.crewAt slot).uid, p) → (s.crewAt slot).live →
        Completes (.nodeDone part handle id) s fun t => ∃ u : State,
          (u.crewAt slot).jcnt = (s.crewAt slot).jcnt - 1 ∧ (u.crewAt slot).cancelled = (s.crewAt slot).cancelled ∧
          u.node key id = none ∧ t = u.coneTick key)) ∧
    (∀ id n u, let die := idDie id
      s.node key id = some n → (∃ w ∈ s.bankWaiters part die, w.1 = key ∧ w.2.1 = id) →
      (∀ w ∈ s.bankWaiters part die, n.since ≤ w.2.2) →
      s.bankCount part die < s.bankCap part die (n.record.isNone && !idSpawned n.id) → s.launchCheck key n = (u, none) →
      let b := if n.kind = 1 then u.nodeBlocks (u.graph key) n else (2 ^ 26 + id, 1)
      u.node key id = some n →
      (b.2 ≠ 0 → Completes (.nodeEnterBank part handle id) s fun t =>
        (t.die die).bank = (u.die die).bank ++ [⟨part, handle, id, b.1, n.prio, u.steps, u.heat.time, false⟩] ∧
        t.node key id = some { n with entered := true } ∧ t.mem = u.mem) ∧
      (b.2 = 0 → Completes (.nodeEnterBank part handle id) s fun t =>
        t.dies = u.dies ∧ t.node key id = some { n with entered := true, state := .running })) ∧
    (∀ core b, (s.core core).prefetch.length < 2 → s.chooseTask core = some b → Completes (.prefetchFill core) s fun t =>
      (t.core core).prefetch = (s.core core).prefetch ++ [b] ∧ (t.core core).lastPart = b.part ∧
      t = { s with cores := t.cores, dies := t.dies } ∧ (∀ c, c ≠ core → t.core c = s.core c) ∧
      ∀ n, s.node (graphKey b.part b.handle) b.node = some n → b.one ∨ n.kind ≠ 1 →
        (t.die (idDie b.node)).bank = (s.die (idDie b.node)).bank.erase b) ∧
    (∀ die index b, ((s.die die).bank.filter fun x => x.part == part)[index]? = some b → 0 < b.cls →
      8192 * 1000 ≤ (s.heat.time.toNat - b.waited.toNat) * s.boot.level (256 + 8 * die) →
      Completes (.tquAging die part index) s fun t =>
        t = { s with dies := t.dies } ∧ (∀ d, d ≠ die → t.die d = s.die d) ∧ (t.die die).tokens = (s.die die).tokens ∧
        (t.die die).bank = (s.die die).bank.map fun x =>
          if x = b then { x with cls := x.cls - 1, waited := s.heat.time } else x) ∧
    (∀ id n e, let kq := nodeQueue part n.id n.kind n.tileX
      s.node key id = some n → n.state = .ready → 2 ≤ n.kind → (∀ w ∈ s.queueWaiters kq.1 kq.2, n.since ≤ w.2.2) →
      s.waiting kq.1 kq.2 < graphCap kq.2 → s.nodeIssue key n = some e →
      Completes (.engineNodeIssue part handle id) s fun t =>
        let q := s.queue kq.1 kq.2
        (t.queue kq.1 kq.2).issue = q.issue + 1 ∧ (t.queue kq.1 kq.2).seq = q.seq ∧
        (∃ x, (t.queue kq.1 kq.2).ents = q.ents ++ [x] ∧ x.ticket = q.issue + 1 ∧ x.node = e.node ∧ x.opcode = e.opcode ∧
          x.state = e.state) ∧
        t.node key id = some { n with state := .running, entered := true } ∧ t.mem.bmem = s.mem.bmem) ∧
    (g.gstate = 2 → s.tokensOut part handle = false → (∀ c ∈ g.cones, c.resolved ≠ none) →
      (∀ n ∈ g.nodes, idSpawned n.id = false ∧ n.state ∈ [NodeState.done, .faulted, .cancelled]) →
      Completes (.graphEnd part handle) s fun t =>
        (t.graph key).gstate = (if g.nodes.all fun n => n.state == .done then 3 else 4) ∧ (t.graph key).nodes = [] ∧
        (t.graph key).cones = [] ∧ t.crews = s.crews)

/-- R314, R316 to R318, R320 to R323: a node that faults opens a cone; a visit cancels a member that waits and stops one that
runs; the crews of CANCELLING members are stopped with class 0x05; a quiet cone is retried while its head has budget, else
abandoned; a repaired head becomes READY. -/
def Obligations.ConeEvents : Prop :=
  ∀ (s : State) (part handle : Nat), let key := graphKey part handle; let g := s.graph key
    s.gsRuns part → (g.nodes.map Node.id).Nodup →
    (∀ id n (c : BitVec 8) k, s.node key id = some n → (c.toNat, k) ∈ n.faults → n.state = .ready ∨ n.state = .running →
      Completes (.nodeFault part handle id c k) s fun t =>
        (t.graph key).faultSeen ∧ (∃ x, t.node key id = some x ∧ x.state = .faulted) ∧
        ∃ y ∈ (t.graph key).cones, y.head = id ∧ y.headUid = n.uid ∧ y.cause = c.toNat ∧ y.resolved = none) ∧
    (∀ id n (c : BitVec 8) k, s.node key id = some n → (c.toNat, k) ∈ n.faults → n.state ≠ .ready → n.state ≠ .running →
      n.state ≠ .cancelling → Completes (.nodeFault part handle id c k) s fun t =>
        (t.graph key).cones = g.cones ∧ t.node key id = some { n with faults := n.faults.erase (c.toNat, k) } ∧
        t.mem = s.mem) ∧
    (∀ head y id m, g.cones.find? (fun c => c.head == head && c.resolved.isNone) = some y →
      y.members[y.visited]? = some (id, m.uid) → s.node key id = some m → idSpawned id = false →
      (m.state = .wait ∨ m.state = .ready → Completes (.coneVisit part handle head) s fun t =>
        ∃ x, t.node key id = some x ∧ x.state = .cancelled) ∧
      (m.state = .running → m.crews ≠ [] → Completes (.coneVisit part handle head) s fun t =>
        ∃ x, t.node key id = some x ∧ x.state = .cancelling ∧ x.blocksLeft = 0) ∧
      (m.state = .done → Completes (.coneVisit part handle head) s fun t =>
        ∃ x, t.node key id = some x ∧ x.state = .done)) ∧
    (∀ slot head, s.toStop (s.crewAt slot) head → (s.crewAt slot).caught = false → Completes (.crewStop slot head) s fun t =>
      (t.crewAt slot).live = false ∧ (t.crewAt slot).status = 0x05#8 ++ 0#8 ++ BitVec.ofNat 16 head) ∧
    (∀ y h, let u := s.coneTick key
      (u.graph key).cones.find? (fun c => c.resolved.isNone) = some y → y.quiet →
      u.node key y.head = some h → h.uid = y.headUid →
      (h.attempt < h.budget → Completes (.coneResolve part handle) s fun t =>
        ∃ x, t.node key y.head = some x ∧ x.attempt = h.attempt + 1 ∧ (x.state = .retryWait ∨ x.state = .ready)) ∧
      (h.budget ≤ h.attempt → h.state = .faulted → idSpawned y.head = false →
        Completes (.coneResolve part handle) s fun t => ∃ x, t.node key y.head = some x ∧ x.state = .faulted)) ∧
    ∀ id n, s.node key id = some n → n.state = .retryWait → g.inPending n.key = false →
      Completes (.headRelease part handle id) s fun t => ∃ x, t.node key id = some x ∧ x.state = .ready

/-! ## Links -/

/-- R335: an ACK of the current light. The flits that it covers are kept nowhere any more; where it comes with a flit, their
space is given back (log entry 122). One that shows a gap (log entry 123) puts every flit that is not acknowledged back at
the head of the queue, to be sent again from the first one's LSEQ on. -/
def Sys2Proof.Claim.AckTaken : Prop :=
  ∀ (s : State) (k : Nat) (ack : Word) (credit : Bool), let l := s.link k; let t := s.takeAck k ack credit
    let done := l.unacked.filter fun x => ackCovers ack x.lseq
    let left (l : List Flit) := l.filter fun x => !done.any fun y => flitSame y x
    let gap : Prop := done = [] ∧ ack = l.lastAck ∧ ∃ x ∈ l.unacked, x.lseq.toNat < l.ackMark
    t = { s with fabric := { s.fabric with
      links := t.fabric.links, egress := left s.fabric.egress, groups := t.fabric.groups, routes := t.fabric.routes } } ∧
    (∀ j, j ≠ k → t.link j = { s.link j with
      queue := left (s.link j).queue, unacked := left (s.link j).unacked, old := left (s.link j).old }) ∧
    (¬gap → t.link k = { l with
        queue := left l.queue, unacked := left l.unacked, old := left l.old, lastAck := ack, ackMark := l.lseq
        space := (t.link k).space } ∧
      ∀ v, mapGet 0 (t.link k).space v =
        mapGet 0 l.space v + if credit then (done.filter fun x => flitVc x == v).length else 0) ∧
    (gap → t.link k = { l with
        queue := l.unacked ++ l.queue, unacked := [], lastAck := ack, ackMark := l.lseq
        lseq := (t.link k).lseq, space := (t.link k).space } ∧
      (∀ x, l.unacked.head? = some x → (t.link k).lseq = x.lseq.toNat) ∧
      ∀ v, mapGet 0 (t.link k).space v = mapGet 0 l.space v + (l.unacked.filter fun x => flitVc x == v).length)

/-- R330, R332, R334, R335: a slot begins dark; light comes on with fresh sequences and a beat that carries the ACK of the
link before; the setup takes the far end's beat, and a later beat its space and ACK; unsent and unacknowledged flits are
routed again when the light ends. -/
def Sys2Proof.Claim.LightOfSlot : Prop :=
  ∀ (s : State) (fibre : Nat), let k := 8 * fibre + s.fabric.slot % 8; let now := s.heat.time.toNat
    let setup := 1600 * s.fabric.slot + 120
    (s.fabric.light = false → s.fabric.slot < now / 1600 → Completes .rotorSlotStart s fun t =>
      t = { s with fabric := { s.fabric with slot := now / 1600 } }) ∧
    (s.fabric.light = false → s.fabric.slot = now / 1600 → 1600 * s.fabric.slot + 100 ≤ now →
      (s.fabric.rotor.map Prod.fst).Nodup → Completes .lightStart s fun t =>
        t = { s with fabric := { s.fabric with light := true, links := t.fabric.links } } ∧
        ∀ l, t.link l = if l ∈ s.litLinks then
            { s.link l with
              heard := false, isOver := false, lseq := 0, lastIn := 0xFFFFFFFF, starved := none, readyAt := []
              freeAt := 0, wire := [], lastAck := 0xFFFFFFFF, ackMark := 0
              beats := [⟨(s.fibreGroup (groupOf l)).lit, s.ingress (l / 8), (s.link l).lastIn, s.heat.time⟩] }
          else s.link l) ∧
    (∀ width space ack, s.fabric.light → s.fabric.slot = now / 1600 → s.farEnd k ≠ none → width ∈ [1, 2, 4, 8] →
      space.length = 5 →
      (now < setup → let gone := (s.link k).old.filter fun x => ackCovers ack x.lseq
        let left (l : List Flit) := l.filter fun x => !gone.any fun y => flitSame y x
        Completes (.linkControl fibre width space ack) s fun t =>
          t = { s with fabric := { s.fabric with
            links := t.fabric.links, egress := left s.fabric.egress, groups := t.fabric.groups, routes := t.fabric.routes } } ∧
          (t.link k).heard ∧ (t.link k).width = width ∧ (t.link k).old = [] ∧
          (∀ v < 5, mapGet 0 (t.link k).space v = space.getD v 0 ∧ mapGet 0 (t.link k).shown v = space.getD v 0) ∧
          ∀ l, (t.link l).queue = left (s.link l).queue ∧ (t.link l).unacked = left (s.link l).unacked) ∧
      (setup ≤ now → (s.link k).heard → let u := s.takeAck k ack false
        Completes (.linkControl fibre width space ack) s fun t =>
          t = { u with fabric := { u.fabric with links := t.fabric.links } } ∧ (∀ l, l ≠ k → t.link l = u.link l) ∧
          t.link k = { u.link k with
            space := (t.link k).space, shown := (t.link k).shown, readyAt := (t.link k).readyAt } ∧
          ∀ v < 5, mapGet 0 (t.link k).shown v = space.getD v 0 ∧ mapGet 0 (t.link k).space v =
            space.getD v 0 - ((u.link k).unacked.filter fun x => flitVc x == v).length) ∧
      (setup ≤ now → (s.link k).heard = false → exec (.linkControl fibre width space ack) s = .next s)) ∧
    (s.fabric.light → s.fabric.slot = now / 1600 → s.farEnd k ≠ none → (s.link k).isOver = false → setup ≤ now →
      Completes (.setupEnd fibre) s fun t => s.linkOnly t k { s.link k with isOver := true, readyAt := (t.link k).readyAt } ∧
        ((s.link k).heard → ∀ v < 5, (mapFind (t.link k).readyAt v).isSome = (s.readyFlit k v).isSome)) ∧
    (s.fabric.light → s.fabric.slot < now / 1600 → (s.fabric.rotor.map Prod.fst).Nodup →
      let u := (s.fabric.ingress.map Prod.fst).eraseDups.foldl State.moveOn s
      Completes .lightEnd s fun t =>
        t = { u with fabric := { u.fabric with
          light := false, links := t.fabric.links, groups := t.fabric.groups, egress := t.fabric.egress } } ∧
        (∀ l, t.link l = if l ∈ s.litLinks then { s.link l with
            old := (s.link l).unacked ++ (s.link l).old, unacked := [], queue := [], heard := false, readyAt := [] }
          else s.link l) ∧
        t.fabric.egress = (s.litLinks.reverse.flatMap fun l => ((s.link l).unacked ++ (s.link l).queue).map fun x =>
          flitOn x (kindVc x.kind) (x.src.toNat != s.fabric.peer)) ++ s.fabric.egress ∧
        ∀ j, t.fibreGroup j = { s.fibreGroup j with
          idleAt := if s.depth j ≠ 0 ∧ t.depth j = 0 then s.heat.time else (s.fibreGroup j).idleAt
          stage := let f := (s.fibreGroup j).since.toNat
            if (s.fibreGroup j).stage = 2 ∧ 1600 * (f / 1600 + 1) < f + 100 then 1 else (s.fibreGroup j).stage })

/-- R340 to R342: a group below its full width squares when its depth reaches WTHR or a partition holds it, unless the
firmware defers it; one idle for FHOLD feathers to FMIN; both change the width at a flit boundary after a handshake of
100 ns in one light. -/
def Sys2Proof.Claim.GroupWidths : Prop :=
  ∀ (s : State) (group : Nat), let now := s.heat.time.toNat; let g := s.fibreGroup group; let f := g.since.toNat
    let boundary : Prop := ∀ l ∈ s.fabric.links, groupOf l.1 = group → l.2.freeAt ≤ 7 * now
    let within : Prop := f + 100 ≤ 1600 * (f / 1600 + 1)
    let lit : Prop := s.fabric.light ∧ s.fabric.slot = now / 1600
    (group < 64 → g.lit < 8 → g.state = 0 ∨ g.state = 3 →
      (g.wthr ≤ s.depth group ∨ g.holders ≠ [] → Completes (.squareStart group) s fun t =>
        s.groupOnly t group { g with state := 3, tgt := 8 } ∨
        s.groupOnly t group { g with state := 1, tgt := 8, stage := 0, since := s.heat.time }) ∧
      (s.depth group < g.wthr → g.holders = [] → Completes (.squareStart group) s fun t =>
        s.groupOnly t group { g with state := 0, tgt := g.lit })) ∧
    (lit → g.state = 1 ∧ g.stage = 0 ∧ f + 1500 ≤ now ∨ g.state = 2 ∧ g.stage = 0 →
      Completes (.widthHandshake group) s fun t => s.groupOnly t group { g with stage := 2, since := s.heat.time }) ∧
    (lit → g.state = 1 ∨ g.state = 2 → g.stage = 1 → Completes (.widthHandshake group) s fun t =>
      s.groupOnly t group { g with stage := 2, since := .ofNat 64 (1600 * s.fabric.slot + 100) }) ∧
    (g.state = 1 → g.stage = 2 →
      (f + 100 ≤ now → within → boundary → Completes (.squareComplete group) s fun t =>
        s.groupOnly t group { g with lit := 8, tgt := 8, state := 0, stage := 0, idleAt := s.heat.time }) ∧
      (¬within → Completes (.squareComplete group) s fun t => s.groupOnly t group { g with stage := 1 })) ∧
    (group < 64 → g.state = 0 → g.fmin < g.lit → s.depth group = 0 → g.holders = [] → g.idleAt.toNat + g.fhold ≤ now →
      Completes (.featherStart group) s fun t =>
        s.groupOnly t group { g with state := 2, tgt := g.fmin, stage := 0, since := s.heat.time }) ∧
    (g.state = 2 → g.stage = 2 →
      (f + 100 ≤ now → within → boundary → Completes (.featherPark group) s fun t =>
        s.groupOnly t group { g with lit := g.fmin, tgt := g.fmin, state := 0, stage := 0 }) ∧
      (¬within → Completes (.featherPark group) s fun t => s.groupOnly t group { g with stage := 1 }))

/-- R330, R332, R334, R335, R340 to R342: the light of the slots, and the widths of the fibre groups. -/
def Obligations.SlotEvents : Prop := Claim.AckTaken ∧ Claim.LightOfSlot ∧ Claim.GroupWidths

/-- R338, R339, R388: the oldest flit in egress is routed: directly, or over the relay peer that reaches its destination
first; the other flits of its packet take its route. Where egress is empty, the oldest flit of the relay buffer that no
standing heat holds goes to its destination on its own VC. -/
def Sys2Proof.Claim.FlitRoutes : Prop :=
  ∀ (s : State) (x : Flit), let now := s.heat.time.toNat
    let queued (t : State) (key : Nat) (y : Flit) : Prop := ∀ l, t.link l = { s.link l with
      queue := if l = key then (s.link l).queue ++ [y] else (s.link l).queue, readyAt := (t.link l).readyAt }
    (∀ rest, s.fabric.egress = x :: rest →
      (s.direct x.dst.toNat = none → Completes .flitEgress s fun t =>
        t = { s with fabric := { s.fabric with egress := rest } }) ∧
      ∀ tD key, s.direct x.dst.toNat = some (tD, key) →
        let routed (t : State) (key : Nat) (y : Flit) : Prop := queued t key y ∧
          t = { s with fabric := { s.fabric with
            egress := rest, links := t.fabric.links, groups := t.fabric.groups, routes := t.fabric.routes } }
        (x.ctl.getLsbD 3 → Completes .flitEgress s fun t => routed t key x ∧ t.fabric.routes = s.fabric.routes) ∧
        (x.ctl.getLsbD 3 = false → x.ctl.getLsbD 4 →
          (kindVc x.kind = 4 ∨ tD ≤ now + s.fabric.rthr ∨ s.relayBarred x.heat x.dst.toNat ∨
              (∀ y ∈ s.relays x.dst.toNat tD, tD ≤ y.1) → Completes .flitEgress s fun t =>
            routed t key x ∧ ⟨streamOf x, x.fseq, 0⟩ ∈ t.fabric.routes) ∧
          (∀ t2 r via, kindVc x.kind ≠ 4 → now + s.fabric.rthr < tD →
            s.relayBarred x.heat x.dst.toNat = false → (t2, r) ∈ s.relays x.dst.toNat tD →
            (∀ y ∈ s.relays x.dst.toNat tD, t2 < y.1 ∨ t2 = y.1 ∧ r ≤ y.2) → t2 < tD → s.linkTo r = some via →
            Completes .flitEgress s fun t =>
              routed t via (flitOn x 3 true) ∧ ⟨streamOf x, x.fseq, r + 1⟩ ∈ t.fabric.routes)) ∧
        (∀ r, x.ctl.getLsbD 3 = false → x.ctl.getLsbD 4 = false → s.fabric.routes.filter (fun r => r.holds x) = [r] →
          (r.via = 0 → Completes .flitEgress s fun t => routed t key x) ∧
          ∀ via, r.via ≠ 0 → s.linkTo (r.via - 1) = some via → Completes .flitEgress s fun t =>
            routed t via (flitOn x 3 true))) ∧
    ∀ tD key, s.fabric.egress = [] →
      s.fabric.relay.find? (fun y => y.heat == 0 || s.heatRuns y.heat || !s.heatStands y.heat) = some x →
      s.direct x.dst.toNat = some (tD, key) → Completes .flitEgress s fun t =>
        t = { s with fabric := { s.fabric with
          relay := s.fabric.relay.erase x, links := t.fabric.links, groups := t.fabric.groups } } ∧
        queued t key (flitOn x (kindVc x.kind) true)

/-- R330, R332 to R334, R336, R337, R343: a port sends the flit whose turn it is from the next point of the beat grid on,
if it ends within the light, with LSEQ, ACK, CRC and, for TIM, its timestamp; a VC with a flit ready for 64 flit times sends
next; an idle end sends a beat. What the ingress buffer holds moves on before a flit is sent (log entry 122). -/
def Sys2Proof.Claim.FlitSends : Prop :=
  ∀ (s : State) (fibre : Nat), let k := 8 * fibre + s.fabric.slot % 8; let now := s.heat.time.toNat; let w := s.linkWidth k
    let setup := 1600 * s.fabric.slot + 120
    let start := 7 * setup + (7 * now - 7 * setup + 9) / 10 * 10
    let flitTime := 10 * ((8 + w - 1) / w)
    s.fabric.light → s.fabric.slot = now / 1600 → (s.link k).heard → (s.link k).isOver → w ≠ 0 →
    (∀ x, (s.link k).freeAt ≤ start → start + flitTime ≤ 7 * (1600 * (s.fabric.slot + 1)) → s.nextFlit k = some x →
      let u := s.moveOn fibre
      Completes (.flitSend fibre) s fun t =>
        t = { u with heat := t.heat, fabric := { u.fabric with links := t.fabric.links, groups := t.fabric.groups } } ∧
        (x.kind ≠ 0x20 → t.heat = s.heat) ∧
        (∀ l, l ≠ k → t.link l = s.link l) ∧ (t.link k).queue = (s.link k).queue.erase x ∧
        (t.link k).lseq = (s.link k).lseq + 1 ∧ (t.link k).freeAt = start + flitTime ∧
        mapGet 0 (t.link k).space (flitVc x) = mapGet 0 (s.link k).space (flitVc x) - 1 ∧
        ∃ y, (t.link k).unacked = (s.link k).unacked ++ [y] ∧ y.lseq = BitVec.ofNat 16 (s.link k).lseq ∧
          y.ack = (s.link k).lastIn ∧ y.crc = crc32c (flitBytes y) ∧ y.fseq = x.fseq ∧ y.dst = x.dst ∧ y.kind = x.kind ∧
          (flitVc x ≠ 4 → y.payload = x.payload ∧ y.aux = x.aux) ∧
          (flitVc x = 4 → mapGet 0 s.fabric.delays fibre = 0 →
            y.aux = BitVec.ofNat 64 (now % 2 ^ 48 * 2 ^ 16 + s.heat.fraction.toNat)) ∧
          ∀ i < 8, (t.link k).wire[i]? =
            some (i % w, ((flitBytes y ++ leBytes 4 y.crc.toNat).drop (20 * i)).take 20)) ∧
    (∀ vc since, mapFind (s.link k).readyAt vc = some since → (s.readyFlit k vc).isSome →
      7 * since.toNat + 64 * flitTime ≤ 7 * now →
      Completes (.vcStarvation fibre vc) s fun t => s.linkOnly t k { s.link k with starved := some vc }) ∧
    (s.nextFlit k = none → (∀ b, (s.link k).beats.head? = some b → 7 * b.time.toNat + 640 ≤ 7 * now) →
      7 * setup + 640 ≤ 7 * now → Completes (.idleLinkControl fibre) s fun t =>
        s.linkOnly t k { s.link k with
          beats := ⟨(s.fibreGroup (groupOf k)).lit, s.ingress fibre, (s.link k).lastIn, s.heat.time⟩ :: (s.link k).beats })

/-- R330, R332, R335, R336, R339, R343, R350: outside the light and in its setup nothing is received, and an unsound flit
has no effect; the ACK of another is taken; one out of order, or without room, is discarded. One in order is delivered,
relayed or given to the time servo with its ingress timestamp, or waits in its ingress buffer as the device chooses (log
entry 122), where no flit of the fibre waits before it. -/
def Sys2Proof.Claim.FlitReceives : Prop :=
  ∀ (s : State) (fibre : Nat) (x : Flit), let k := 8 * fibre + s.fabric.slot % 8; let now := s.heat.time.toNat
    let u := s.takeAck k x.ack true
    let kept (t : State) : Prop := ∀ l, t.link l = { u.link l with
      lastIn := (t.link l).lastIn, readyAt := (t.link l).readyAt } ∧ (l ≠ k → (t.link l).lastIn = (s.link l).lastIn)
    (s.fabric.light = false ∨ s.fabric.slot ≠ now / 1600 ∨ now < 1600 * s.fabric.slot + 120 ∨ flitSound x = false →
      exec (.flitReceive fibre x) s = .next s) ∧
    (s.fabric.light → s.fabric.slot = now / 1600 → 1600 * s.fabric.slot + 120 ≤ now → s.farEnd k ≠ none → flitSound x →
      (x.lseq.setWidth 32 ≠ (s.link k).lastIn + 1 ∨ s.hasRoom fibre x = false → Completes (.flitReceive fibre x) s fun t =>
        t = { u with fabric := { u.fabric with links := t.fabric.links } } ∧ kept t ∧ (t.link k).lastIn = (s.link k).lastIn) ∧
      (x.lseq.setWidth 32 = (s.link k).lastIn + 1 → s.hasRoom fibre x → (∀ y ∈ s.fabric.ingress, y.1 ≠ fibre) →
        let got (t : State) : Prop := t = { s with fabric := t.fabric, choices := t.choices } ∧ kept t ∧
          (t.link k).lastIn = x.lseq.setWidth 32 ∧ t.fabric.egress = u.fabric.egress
        let waits (t : State) : Prop := kindVc x.kind ≠ 4 ∧ t.fabric.ingress = s.fabric.ingress ++ [(fibre, x)] ∧
          t.fabric.relay = s.fabric.relay ∧ t.fabric.inbox = s.fabric.inbox ∧ t.fabric.ptp = s.fabric.ptp
        let goes (t : State) : Prop := t.fabric.ingress = s.fabric.ingress
        (x.dst.toNat ≠ s.fabric.peer → x.ctl.getLsbD 3 → Completes (.flitReceive fibre x) s fun t => got t ∧
          (waits t ∨ goes t ∧ t.fabric.relay = s.fabric.relay ++ [x] ∧ t.fabric.inbox = s.fabric.inbox)) ∧
        (x.dst.toNat = s.fabric.peer →
          let seen := mapGet [] s.fabric.accepted (8 * x.src.toNat + kindVc x.kind)
          (acceptSeq seen x.fseq = none → Completes (.flitReceive fibre x) s fun t => got t ∧
            (waits t ∨ goes t ∧ t.fabric.inbox = s.fabric.inbox ∧ t.fabric.ptp = s.fabric.ptp)) ∧
          ((acceptSeq seen x.fseq).isSome → kindReserved x.kind = false →
            (0x20 ≤ x.kind → Completes (.flitReceive fibre x) s fun t => got t ∧ goes t ∧
              t.fabric.ptp = s.fabric.ptp ++ [⟨fibre, x, s.portTime fibre⟩]) ∧
            (x.kind < 0x20 → x.ctl.getLsbD 4 → x.ctl.getLsbD 5 → Completes (.flitReceive fibre x) s fun t => got t ∧
              (waits t ∨ goes t ∧ t.fabric.inbox = s.fabric.inbox ++ [packetOf [x] s.fabric.peer]))))))

/-- R330, R332 to R339, R343, R350, R388: routes, sending and receiving. -/
def Obligations.FlitEvents : Prop := Claim.FlitRoutes ∧ Claim.FlitSends ∧ Claim.FlitReceives

/-! ## Requests and their targets -/

namespace Sys2Proof.Claim

/-- An answer of a kind to a request of the package ends the request and reaches its crew's record or its engine entry; one
to no request is discarded (R348, R353, R356, R357, R359, R362). -/
def Answers (mk : Packet → Instr) (kind : BitVec 8) : Prop :=
  ∀ (s : State) (p : Packet), p.kind = kind → p.dst = s.fabric.peer → s.isParked p.reqid = false →
    (kind = kPoisoned → p.len ≠ 5 ∧ p.len ≠ 6) →
    let gone (t : State) := t.fabric.inbox = s.fabric.inbox.erase p ∧ t.mem = s.mem ∧ t.cores = s.cores ∧
      t.fabric.reqs = s.fabric.reqs.filter (fun x => x.reqid != p.reqid) ∧ t.fabric.egress = s.fabric.egress
    (s.findReq p.reqid = none → Completes (mk p) s fun t => gone t ∧ t.crews = s.crews ∧ t.qsets = s.qsets) ∧
    (∀ r, s.findReq p.reqid = some r → r.origin = 0 → Completes (mk p) s fun t =>
      gone t ∧ t.qsets = s.qsets ∧ ∀ n, t.crewAt n = { s.crewAt n with
        reqs := (s.crewAt n).reqs.map fun q =>
          if q.reqid = p.reqid then { q with response := some { p with addr := r.packet.addr } } else q }) ∧
    (∀ r, s.findReq p.reqid = some r → r.origin = 4 → Completes (mk p) s fun t =>
      gone t ∧ t.crews = s.crews ∧ t.qsets = s.qsets) ∧
    ∀ r e, s.findReq p.reqid = some r → r.origin ≠ 0 → r.origin ≠ 4 → s.entry r.qset r.q r.ticket = some e →
      Completes (mk p) s fun t =>
      gone t ∧ t.crews = s.crews ∧ t.entry r.qset r.q r.ticket = some { e with
        pending := e.pending.filter (· != p.reqid), resp := e.resp ++ [{ p with addr := r.packet.addr, wtid := r.index }] }

/-- A request of a kind that has come in time is served, for n bytes of its window with the permission asked, as act says
where the checks give a place; else it is held, sent on once, or refused with a DETAIL. A forwarded one (again) is answered
to the peer that its REQID names (R347, R348, R351, R353, R388). -/
def Serves (mk : Packet → Instr) (kind : BitVec 8) (again : Bool) (n : Packet → Nat) (need : BitVec 3)
    (ok : Packet → Prop) (act : Packet → State → Spot → State → Prop) : Prop :=
  ∀ (s : State) (r : Packet), r.kind = kind → r.dst = s.fabric.peer → s.isParked r.reqid = false →
    s.heat.time.toNat ≤ r.sendt.toNat + 399000 → ok r → let u := s.served r
    let p := if again then { r with src := r.reqid.toNat % 4096 } else r
    (s.cached p.reqid = none →
      (∀ v x, u.admission p (remoteOffset p.addr.toNat) (n p) need again = (v, .spot x) → Completes (mk r) s (act p v x)) ∧
      (∀ v d, u.admission p (remoteOffset p.addr.toNat) (n p) need again = (v, .refuse d) → Completes (mk r) s fun t =>
        t.mem = v.mem ∧ v.sentTo t (v.answerTo p kPoisoned d [])) ∧
      (∀ v toward, u.admission p (remoteOffset p.addr.toNat) (n p) need again = (v, .forward toward) → Completes (mk r) s fun t =>
        t.mem = s.mem ∧
        (256 ≤ u.forwardsInUse (u.dieTo toward) → u.sentTo t (u.answerTo p kBusy 0 [])) ∧
        (u.forwardsInUse (u.dieTo toward) < 256 → u.sentTo t { p with
          kind := kForward, src := s.fabric.peer, dst := toward, opw := (p.opw &&& 0xFC03FFFF#32) ||| (p.kind.setWidth 32 <<< 18)
          addr := BitVec.ofNat 64 (toward * 2 ^ 52 + p.addr.toNat % 2 ^ 52) })) ∧
      (∀ v, u.admission p (remoteOffset p.addr.toNat) (n p) need again = (v, .held) →
        let used := ((s.fabric.held.filter fun q => q.heat == p.heat).map fun q => (packetPayload q).length).sum
        Completes (mk r) s fun t => t.mem = s.mem ∧
          (2 ^ 26 < used + (packetPayload p).length → u.sentTo t (u.answerTo p kBusy 0 []) ∧ t.fabric.held = s.fabric.held) ∧
          (used + (packetPayload p).length ≤ 2 ^ 26 → t.fabric.held = s.fabric.held ++ [p] ∧
            u.sentTo t { u.answerTo p kReport 0 [] with held := true })))

/-- A read answers the bytes of the place with their poison (R349). -/
def readAct (p : Packet) (v : State) (x : Spot) (t : State) : Prop :=
  t.mem = v.mem ∧ v.sentTo t (v.answerTo p kReadRsp p.len
    ((List.range p.len).map fun i => (v.spotByte (x.plus i), v.spotPoison (x.plus i))))

/-- A write stores the bytes with their poison and acknowledges (R349). -/
def writeAct (p : Packet) (v : State) (x : Spot) (t : State) : Prop :=
  t.mem = (v.spotWrite x (p.data.zip p.pois)).mem ∧ t.crews = v.crews ∧
    (v.spotWrite x (p.data.zip p.pois)).sentTo t (v.answerTo p kWriteAck 0 [])

/-- An atomic answers the old value and stores the new one, and its answer is kept; with no room in the cache it is
answered busy, and a poisoned location keeps its bytes (R349, R354). -/
def atomAct (p : Packet) (v : State) (x : Spot) (t : State) : Prop :=
  let die := v.windowDie p
  let n := widBytes (atomWidth p)
  let young := v.fabric.cache.filter fun c => decide (v.heat.time.toNat < c.time.toNat + 4000000)
  let full := 4096 ≤ (young.filter fun c => c.die == die).length
  (full → v.sentTo t (v.answerTo p kBusy 0 []) ∧ t.mem = v.mem) ∧
    (¬full → v.spotsPoisoned x n → let a := v.answerTo p kAtomRsp n (List.replicate n (0, true))
      v.sentTo t a ∧ t.mem = v.mem ∧ t.fabric.cache = young ++ [⟨die, p.reqid, a, v.heat.time⟩]) ∧
    (¬full → v.spotsPoisoned x n = false → let old := v.spotNat x n
      let a := v.answerTo p kAtomRsp n ((leBytes n old).map fun b => (b, false))
      v.sentTo t a ∧ t.mem = (v.spotPut x (leBytes n (atomNew p old))).mem ∧
        t.fabric.cache = young ++ [⟨die, p.reqid, a, v.heat.time⟩])

end Sys2Proof.Claim

open Sys2Proof.Claim

/-- R348, R352, R353, R356, R357, R359, R362, R373: what an answer, a busy answer, a report, the timers of a request and a
response of DETAIL 5 or 6 do at the requester. -/
def Obligations.AnswerEvents : Prop :=
  Answers .readResponse kReadRsp ∧ Answers .writeAck kWriteAck ∧ Answers .atomicResponse kAtomRsp ∧
  Answers .xputAck kPutAck ∧ Answers .collectiveAck kCollAck ∧ Answers .poisonedResponse kPoisoned ∧
  (∀ (s : State) (p : Packet) (r : Req), p.kind = kPoisoned → p.dst = s.fabric.peer → s.isParked p.reqid = false →
    s.findReq p.reqid = some r → p.len = 5 ∨ p.len = 6 → Completes (.poisonedResponse p) s fun t =>
      t.fabric.reqs = s.fabric.reqs.filter (fun x => x.reqid != p.reqid) ∧ t.mem = s.mem ∧
      (r.origin = 0 → ∀ n, t.crewAt n = { s.crewAt n with reqs := (s.crewAt n).reqs.map fun q =>
        if q.reqid = p.reqid then { q with response := some { p with addr := r.packet.addr } } else q }) ∧
      ∀ h, s.heat.running.find? (fun r => r.heatno.setWidth 16 == p.heat) = some h →
        let m : Message := ⟨0x26, s.heat.epoch, s.fabric.peer, s.isStarter, h.heatno, h.seq, p.src + 4096 * p.len, s.heat.starter⟩
        t.heat.sent = s.heat.sent ++ [m] ∧
        (s.heat.starter ≠ s.fabric.peer → s.heat.starter < 4096 → ∃ f, t.fabric.egress = s.fabric.egress ++ [f] ∧ f.kind = 0x26 ∧
          f.dst.toNat = s.heat.starter ∧ (leBytes 128 f.payload.toNat).take f.len.toNat = messageBody m)) ∧
  (∀ (s : State) (p : Packet), p.kind = kBusy → p.dst = s.fabric.peer → s.isParked p.reqid = false →
    Completes (.busy p) s fun t => t = { s with fabric := { s.fabric with
      inbox := s.fabric.inbox.erase p
      reqs := s.fabric.reqs.map fun r => if r.reqid = p.reqid then
        { r with busy := r.busy + 1, timer := some s.heat.time, waitingRetry := true, probed := false } else r } }) ∧
  (∀ (s : State) (p : Packet), p.kind = kReport → p.dst = s.fabric.peer → s.isParked p.reqid = false →
    Completes (.progressReport p) s fun t => t = { s with fabric := { s.fabric with
      inbox := s.fabric.inbox.erase p
      reqs := s.fabric.reqs.map fun r =>
        if some r.reqid = (s.fabric.reqs.find? fun x => x.reqid.extractLsb' 0 63 == p.reqid.extractLsb' 0 63).map Req.reqid then
          { r with timer := if p.held then none else some s.heat.time, probed := false } else r } }) ∧
  (∀ (s : State) (id : DWord) (r : Req) (at' : DWord), s.findReq id = some r → r.timer = some at' → r.waitingRetry →
    at'.toNat + (1000 * 2 ^ min r.busy 7 + 64 * (s.fabric.peer % 16)) ≤ s.heat.time.toNat →
    Completes (.busyRetry id) s fun t =>
      t.fabric.reqs = s.fabric.reqs.filter (fun x => x.reqid != id) ++ [{ r with
        packet := { r.packet with sendt := s.heat.time }, timer := some s.heat.time, waitingRetry := false, probed := false }] ∧
      s.sentTo t { r.packet with sendt := s.heat.time } ∧ t = { s with fabric := t.fabric }) ∧
  (∀ (s : State) (id : DWord) (r : Req) (at' : DWord), s.findReq id = some r → r.timer = some at' →
    (r.probed = false → at'.toNat + 200000 ≤ s.heat.time.toNat → Completes (.requestProbeTimer id) s fun t =>
      t.fabric.reqs = s.fabric.reqs.map (fun x => if x.reqid = id then { x with probed := true } else x) ∧
      s.sentTo t { r.packet with kind := kProbe, data := [], pois := [] } ∧ t = { s with fabric := t.fabric }) ∧
    (at'.toNat + 400000 ≤ s.heat.time.toNat → r.origin = 0 → r.packet.reqid = id → Completes (.requestTimeout id) s fun t =>
      t.fabric.reqs = s.fabric.reqs.filter (fun x => x.reqid != id) ∧ t.mem = s.mem ∧
      ∀ n, t.crewAt n = { s.crewAt n with reqs := (s.crewAt n).reqs.map fun q =>
        if q.reqid = id then { q with response := some { r.packet with kind := kPoisoned, len := 6, data := [], pois := [] } }
        else q }))

/-- R347 to R354, R359, R361, R362, R388: what a target does with reads, writes, atomics, XPUT data, collective data,
forwarded and held requests and probes. -/
def Obligations.TargetEvents : Prop :=
  Serves .readRequest kReadReq false Packet.len 1 (fun _ => True) readAct ∧
  Serves .writeRequest kWriteReq false (fun p => p.data.length) 2 (fun _ => True) writeAct ∧
  Serves .atomicRequest kAtomReq false (fun p => widBytes (atomWidth p)) 4 (fun _ => True) atomAct ∧
  Serves .xputData kPutReq false (fun p => max p.len (p.data.zip p.pois).length) 2 (fun p => putSignal p = false)
    (fun p v x t => t.mem = (v.spotWrite x (p.data.zip p.pois)).mem ∧
      (v.spotWrite x (p.data.zip p.pois)).sentTo t (v.answerTo p kPutAck 0 [])) ∧
  Serves .forwardedRequest kForward true Packet.len 1 (fun p => p.opw.extractLsb' 18 8 = kReadReq) readAct ∧
  Serves .forwardedRequest kForward true (fun p => p.data.length) 2 (fun p => p.opw.extractLsb' 18 8 = kWriteReq) writeAct ∧
  Serves .forwardedRequest kForward true (fun p => widBytes (atomWidth p)) 4
    (fun p => p.opw.extractLsb' 18 8 = kAtomReq) atomAct ∧
  Serves .forwardedRequest kForward true (fun p => max p.len (p.data.zip p.pois).length) 2
    (fun p => p.opw.extractLsb' 18 8 = kPutReq ∧ putSignal p = false)
    (fun p v x t => t.mem = (v.spotWrite x (p.data.zip p.pois)).mem ∧
      (v.spotWrite x (p.data.zip p.pois)).sentTo t (v.answerTo p kPutAck 0 [])) ∧
  (∀ (s : State) (p r : Packet), p.dst = s.fabric.peer → s.isParked p.reqid = false →
    s.heat.time.toNat ≤ p.sendt.toNat + 399000 → s.cached p.reqid = some r →
    (p.kind = kAtomReq → Completes (.atomicRequest p) s fun t => t.mem = s.mem ∧ (s.served p).sentTo t r) ∧
    (p.kind = kPutReq → putSignal p → Completes (.xputData p) s fun t => t.mem = s.mem ∧ (s.served p).sentTo t r)) ∧
  (∀ (s v w : State) (p : Packet) (x obj : Spot), p.kind = kPutReq → p.dst = s.fabric.peer → s.isParked p.reqid = false →
    s.heat.time.toNat ≤ p.sendt.toNat + 399000 → putSignal p → s.cached p.reqid = none →
    let bs := (p.data.zip p.pois).drop 8
    (s.served p).admission p (remoteOffset p.addr.toNat) (max p.len bs.length) 2 false = (v, .spot x) →
    (v.cacheRoom (v.windowDie p)).2 → (v.cacheRoom (v.windowDie p)).1.admission p (leNat (p.data.take 8)) 8 4 false = (w, .spot obj) →
    w.spotsPoisoned obj 8 = false → Completes (.xputData p) s fun t =>
      let y := (w.spotWrite x bs).spotRelease obj (w.signalClock p)
      t.mem = y.mem ∧ y.sentTo t (y.answerTo p kPutAck 0 []) ∧ ∃ c, t.fabric.cache = y.fabric.cache ++ [c] ∧
        c.reqid = p.reqid ∧ c.time = y.heat.time) ∧
  (∀ (s : State) (p : Packet), p.kind = kCollReq → p.dst = s.fabric.peer → s.isParked p.reqid = false →
    s.heat.time.toNat ≤ p.sendt.toNat + 399000 → let u := s.served p
    (s.heatRuns p.heat → Completes (.collectiveData p) s fun t => t.mem = s.mem ∧ u.sentTo t (u.answerTo p kCollAck 0 []) ∧
      t.fabric.collective = if s.fabric.collective.any (fun q => q.reqid == p.reqid) then s.fabric.collective
        else s.fabric.collective ++ [p]) ∧
    (s.heatRuns p.heat = false → s.heatStands p.heat = false → Completes (.collectiveData p) s fun t =>
      t.mem = s.mem ∧ u.sentTo t (u.answerTo p kPoisoned 5 []) ∧ t.fabric.collective = s.fabric.collective)) ∧
  (∀ (s : State) (p : Packet), p.kind = kProbe → p.dst = s.fabric.peer → s.isParked p.reqid = false → let u := s.served p
    (s.fabric.held.any (fun q => q.reqid == p.reqid) → Completes (.probe p) s fun t =>
      t.mem = s.mem ∧ u.sentTo t { u.answerTo p kReport 0 [] with held := true }) ∧
    (s.fabric.held.any (fun q => q.reqid == p.reqid) = false →
      let waits := u.fabric.inbox.any fun q => q.reqid == p.reqid && hasHeader q.kind
      (waits → Completes (.probe p) s fun t => t.mem = s.mem ∧
        let again (q : Packet) : Packet := if q.reqid = p.reqid then { q with sendt := s.heat.time } else q
        let v : State := { u with fabric := { u.fabric with inbox := u.fabric.inbox.map again } }
        v.sentTo t (u.answerTo p kReport 0 [])) ∧
      (∀ r, waits = false → s.cached p.reqid = some r → Completes (.probe p) s fun t => t.mem = s.mem ∧ u.sentTo t r) ∧
      (waits = false → s.cached p.reqid = none →
        (u.forwarded.any (fun f => f.aux == p.reqid) → Completes (.probe p) s fun t =>
          t.mem = s.mem ∧ u.sentTo t (u.answerTo p kReport 0 [])) ∧
        (u.forwarded.any (fun f => f.aux == p.reqid) = false → Completes (.probe p) s fun t => t = u)))) ∧
  ∀ (s : State) (p : Packet), s.fabric.held.find? (fun q => s.heatRuns q.heat || !s.heatStands q.heat) = some p →
    let u := { s with fabric := { s.fabric with held := s.fabric.held.erase p } }
    let q := if p.kind = kForward then { p with src := p.reqid.toNat % 4096 } else p
    (s.heatRuns p.heat = false → Completes .heldRequestPerform s fun t =>
      t.mem = s.mem ∧ t.fabric.held = s.fabric.held.erase p ∧ u.sentTo t (u.answerTo q kPoisoned 5 [])) ∧
    (∀ v x, s.heatRuns p.heat → p.kind = kReadReq → u.admission p (remoteOffset p.addr.toNat) p.len 1 false = (v, .spot x) →
      Completes .heldRequestPerform s (readAct p v x)) ∧
    (∀ v x, s.heatRuns p.heat → p.kind = kWriteReq → u.admission p (remoteOffset p.addr.toNat) p.data.length 2 false = (v, .spot x) →
      Completes .heldRequestPerform s (writeAct p v x))

/-- R347, R348, R351, R387: the checks of a request at its target, in their order. -/
def Obligations.TargetChecks : Prop :=
  ∀ (s : State) (p : Packet) (off n : Nat) (need : BitVec 3) (again : Bool),
    let win := remoteWindow p.addr.toNat
    let w := mapGet Window.none s.fabric.windows (256 * p.wtid + win)
    let bad : Prop := w.perm.getLsbD 3 = false ∨ w.perm.extractLsb' 4 3 ≠ 0 ∨ w.res ≠ 0 ∨ 2 ^ 52 ≤ w.base ∨
      (w.perm.getLsbD 7 ∧ w.base % 2 ^ 40 ≠ 0) ∨
      (w.perm.getLsbD 7 = false ∧ (w.base % 4096 ≠ 0 ∨ 2 ≤ w.loc.extractLsb' 4 2 ∨ 32 < w.size))
    let service : Prop := win = 255 ∧ p.heat = 0 ∧ w.heatf = 0 ∧ p.reqid.getLsbD 26
    (bad → s.admission p off n need again = (s, .refuse 2)) ∧
    (¬bad → ¬service →
      (p.heat ≠ w.heatf ∨ p.heat = 0 → s.admission p off n need again = (s, .refuse 5)) ∧
      (p.heat = w.heatf → p.heat ≠ 0 → s.heatRuns p.heat = false →
        s.admission p off n need again = (s, if s.heatStands p.heat then .held else .refuse 5))) ∧
    (¬bad → service ∨ p.heat = w.heatf ∧ p.heat ≠ 0 ∧ s.heatRuns p.heat →
      (win = 255 → w.perm.getLsbD 7 = false → w.loc.extractLsb' 4 2 = 0 → s.admission p off n need again = (s,
        if min (2 ^ (12 + w.size)) (2 ^ 24) < off + n ∨ 2 ^ 24 < w.base + off + n then .refuse 3
        else if w.perm.extractLsb' 0 3 &&& need ≠ need then .refuse 4
        else .spot (.mem .hbm (2 ^ 31 * 384 - 2 ^ 24 + w.base + off)))) ∧
      (w.perm.getLsbD 7 → s.admission p off n need again = (s, if again then .refuse 2 else .forward (w.base / 2 ^ 40))) ∧
      (win ≠ 255 ∨ w.loc.extractLsb' 4 2 = 1 → w.perm.getLsbD 7 = false →
        (2 ^ (12 + w.size) < off + n → s.admission p off n need again = (s, .refuse 3)) ∧
        (off + n ≤ 2 ^ (12 + w.size) → let part := (w.loc.extractLsb' 0 4).toNat; let die := (w.loc.extractLsb' 6 2).toNat
          (w.loc.extractLsb' 4 2 = 1 →
            ((s.partition part).rowsOpen die (w.base + off) n = false → s.admission p off n need again = (s, .refuse 3)) ∧
            ((s.partition part).rowsOpen die (w.base + off) n →
              s.admission p off n need again = (s, if w.perm.extractLsb' 0 3 &&& need ≠ need then .refuse 4
                else .spot (.mem .spad (spadBase die + w.base + off))))) ∧
          (w.loc.extractLsb' 4 2 = 0 →
            (w.perm.extractLsb' 0 3 &&& need ≠ need → s.admission p off n need again = (s, .refuse 4)) ∧
            (w.perm.extractLsb' 0 3 &&& need = need →
              let r := s.translate (256 + die) part (s.job (s.partJob part)).troot (w.base + off)
                (need.getLsbD 0 || need.getLsbD 2) (need.getLsbD 1 || need.getLsbD 2)
              (∀ o, r.2 = .ok o → s.admission p off n need again = (r.1, .spot (.hbm part o))) ∧
              (∀ c, r.2 = .error c → (s.admission p off n need again).2 = .refuse 9))))))

/-! ## The queue of the fabric unit -/

/-- R358 to R362: the head of an xq queue starts, with its bytes staged, or faults with its cause; a running XPUT sends the
next piece to a target that has not had it, or notes the target that the requester refuses, takes the answers, and is over
when every target has acknowledged or faulted with cause 9; a collective writes its result when every block has
contributed, and faults where a block's descriptor differs or a block is gone; an entry that is over releases and S passes
it; a faulted one is resumed or retired. -/
def Obligations.FabricEntries : Prop :=
  ∀ (s : State) (part core : Nat) (e : QEntry) (rest : List QEntry), let k := qkey part core
    (s.queue k 6).ents = e :: rest → e.state ≠ .complete → (∀ r ∈ rest, r.ticket ≠ e.ticket ∧ r.state ≠ .complete) →
    let base := spadBase (keyCore k / 64) + e.arg.toNat % 2 ^ 27
    let faults (t : State) (c : Nat) : Prop := (t.queue k 6).seq = (s.queue k 6).seq ∧
      ∃ x, t.entry k 6 e.ticket = some x ∧ x.state = .faulted ∧ x.cause = c
    let graphIdle : Prop := (s.queue (queueKey part core 10) 10).ents = []
    (s.engineRuns k → graphIdle →
      (e.opcode = 0x38 →
        let d := s.mem.bytes .spad base 64
        let x := putRec d
        let n := 64 + 8 * x.nt
        let rows : Prop := (s.spadAddr (keyPart k) (keyCore k / 64) e.arg 64 n).isSome
        (e.state = .queued → s.afterDone k e →
          (s.mem.poisoned .spad base 64 → Completes (.xqEntryStart part core) s (faults · 10)) ∧
          (s.mem.poisoned .spad base 64 = false → putOk d = false → Completes (.xqEntryStart part core) s (faults · 5)) ∧
          (s.mem.poisoned .spad base 64 = false → putOk d →
            (¬rows → Completes (.xqEntryStart part core) s (faults · 3)) ∧
            (rows → s.mem.poisoned .spad base n = false →
              (s.entryPlace k e x.src x.len = none → Completes (.xqEntryStart part core) s (faults · 3)) ∧
              ∀ p, s.entryPlace k e x.src x.len = some p → x.flags.testBit 0 = false →
                Completes (.xqEntryStart part core) s fun t =>
                  t = { s with qsets := t.qsets } ∧ t.entry k 6 e.ticket = some { e with
                    recd := s.mem.bytes .spad base n, state := .running, prog := 0, prog2 := 0
                    buf := (List.range x.len).map fun i => (s.spotByte (p.plus i), s.spotPoison (p.plus i)) }))) ∧
        (e.state = .running → let x := putRec e.recd
          let failed (i detail : Nat) (more : List Packet) : QEntry := { e with
            resp := more, prog2 := e.prog2 ||| 2 ^ i
            faultAddr := if e.prog2 = 0 then .ofNat 64 (x.targets.getD i 0) else e.faultAddr
            rdet := if e.prog2 = 0 then detail else e.rdet }
          (∀ p more, e.resp = p :: more → p.kind = kPoisoned → Completes (.xqEntryStart part core) s fun t =>
            t = { s with qsets := t.qsets } ∧ t.entry k 6 e.ticket = some (failed (p.wtid / 32) p.len more)) ∧
          (∀ p more, e.resp = p :: more → p.kind ≠ kPoisoned → Completes (.xqEntryStart part core) s fun t =>
            ∃ y, t.entry k 6 e.ticket = some y ∧ y.resp = more ∧ y.rows = p.wtid :: e.rows ∧ y.prog2 = e.prog2 ∧
              y.prog = if (List.range (x.chunks (p.wtid / 32)).length).all fun c => y.rows.contains (32 * (p.wtid / 32) + c)
                then e.prog ||| 2 ^ (p.wtid / 32) else e.prog) ∧
          (e.resp = [] →
            (∀ i index a off m, s.putNext k 6 e x = some (i, index, a, off, m) →
              (s.peerTable (keyPart k) (remotePeer a) = none → Completes (.xqEntryStart part core) s fun t =>
                t = { s with qsets := t.qsets } ∧ t.entry k 6 e.ticket = some (failed i 1 [])) ∧
              ∀ w, s.peerTable (keyPart k) (remotePeer a) = some w →
                (x.flags.testBit 1 → x.sig % 8 ≠ 0 → Completes (.xqEntryStart part core) s fun t =>
                  t = { s with qsets := t.qsets } ∧ t.entry k 6 e.ticket = some (failed i 8 [])) ∧
                ((x.flags.testBit 1 → x.sig % 8 = 0) → Completes (.xqEntryStart part core) s fun t =>
                  ∃ r ∈ t.fabric.reqs, r.packet.kind = kPutReq ∧ r.packet.addr = .ofNat 64 a ∧ r.packet.wtid = w ∧
                    r.index = index ∧ r.packet.len = x.len - off ∧
                    r.packet.data = (if x.flags.testBit 1 ∧ off + m = x.len then leBytes 8 x.sig else []) ++
                      ((e.buf.drop off).take m).map Prod.fst ∧ t.mem = s.mem ∧ t.crews = s.crews)) ∧
            (s.putNext k 6 e x = none → e.pending = [] →
              (e.prog2 ≠ 0 → Completes (.xqEntryStart part core) s fun t =>
                faults t 9 ∧ ∃ y, t.entry k 6 e.ticket = some y ∧ y.faultAddr = e.faultAddr ∧ y.rdet = e.rdet) ∧
              (e.prog2 = 0 → Completes (.xqEntryStart part core) s fun t =>
                t.entry k 6 e.ticket = some { e with state := .moved } ∧ t.mem = s.mem ∧ let c := s.crewAt e.slot
                (c.live → c.uid = e.uid → (t.crewAt e.slot).unacked = c.unacked - 1)))))) ∧
      (e.opcode = 0x39 →
        let l := mapGet Launch.none s.launches (e.rows.getD 0 0)
        let coh := e.rows.getD 1 0
        let gen := e.rows.getD 2 0
        let blocks := l.ringBlocks coh
        (e.state = .queued → s.afterDone k e → s.mem.poisoned .spad base 64 = false → e.node = none →
          collOk (s.mem.bytes .spad base 64) blocks.length coh (some (e.fn.toNat % 8)) = false →
          Completes (.xqEntryStart part core) s (faults · 5)) ∧
        (e.state = .running → e.resp = [] → e.pending = [] → l.otherPeers coh s.fabric.peer = [] →
          (∀ r ∈ rest, r.opcode ≠ 0x39) → ∀ cs : List (List Byte × List (Byte × Bool)),
          (blocks.map fun b => s.contribution l coh gen b) = cs.map some →
          let key (d : List Byte) : List Byte := d.take 5 ++ d.drop 8
          let x := collRec e.recd
          let p := l.position coh e.block
          let r := x.result p (cs.map Prod.snd)
          let n := (x.lens blocks.length p).2
          ((∃ c ∈ cs, key c.1 ≠ key (e.recd.take 16)) → Completes (.xqEntryStart part core) s (faults · 18)) ∧
          ((∀ c ∈ cs, key c.1 = key (e.recd.take 16)) → n = 0 → (collAddr x.dst).isSome →
            Completes (.xqEntryStart part core) s fun t =>
              (∃ y, t.entry k 6 e.ticket = some y ∧ y.state = .moved) ∧ t.mem = s.mem ∧ t.crews = s.crews) ∧
          ((∀ c ∈ cs, key c.1 = key (e.recd.take 16)) → ∀ da u, collAddr x.dst = some da → n ≠ 0 →
            s.collWrite k 6 e da 0 (n / 64 + 2) r.1 = (u, none) → u.qsets = s.qsets → Completes (.xqEntryStart part core) s fun t =>
              (∃ y, t.entry k 6 e.ticket = some y ∧ y.state = .moved) ∧
              (x.reduces → t.mem.nat .spad (base + 36) 4 = r.2.toNat) ∧ (x.reduces = false → t.mem = u.mem))) ∧
        (e.state = .running → e.resp = [] → e.pending = [] → l.otherPeers coh s.fabric.peer = [] →
          (∀ r ∈ rest, r.opcode ≠ 0x39) →
          (∃ b ∈ blocks, s.contribution l coh gen b = none ∧ l.blockGone coh b) →
          Completes (.xqEntryStart part core) s (faults · 17)))) ∧
    (s.engineRuns k → graphIdle → e.state = .moved → (∀ r ∈ rest, r.state ≠ .moved) →
      Completes (.xqEntryComplete part core) s fun t =>
        (t.queue k 6).ents = rest ∧ (t.queue k 6).seq = e.ticket ∧ t.crews = s.crews ∧ t.fabric = s.fabric ∧
        (e.rel = none → t.mem = s.mem) ∧
        ∀ sp a, e.rel = some (sp, a) → t.mem.nat (spOf sp) (a + 4) 4 = (s.mem.nat (spOf sp) (a + 4) 4 + 1) % 2 ^ 32) ∧
    (e.state = .faulted →
      (e.cause ∈ [1, 2, 9] → Completes (.xqEntryResume part core) s fun t =>
        t = { s with qsets := t.qsets } ∧ t.entry k 6 e.ticket = some { e with
          state := if e.recd = [] then .queued else .running
          cause := 0, faultAddr := 0, rdet := 0, prog2 := 0, resp := [], rows := if e.opcode = 0x39 then e.rows else [] }) ∧
      (e.node = none → Completes (.xqEntryRetire part core) s fun t =>
        (t.queue k 6).ents = rest ∧ (t.queue k 6).seq = e.ticket ∧ t.mem.bmem = s.mem.bmem ∧ t.mem.spad = s.mem.spad ∧
        let c := s.crewAt e.slot
        (c.live → c.uid = e.uid → (t.crewAt e.slot).asyncf = c.asyncf ||| (1#7 <<< 6) ∧
          (t.crewAt e.slot).unacked = if e.opcode = 0x38 then c.unacked - 1 else c.unacked)))

/-! ## Time, heat sheet and starter -/

/-- R343, R363, R364, R365, R369 to R373: the servo takes the oldest message of a fibre and moves the time base, never back;
heartbeats, their loss, candidacies and the election; the starter's entries, whose maps go first, its heat numbers, answers,
reports and abort entries. The layout of the messages is PRESUMED (log entry 44). -/
def Obligations.StarterEvents : Prop :=
  ∀ (s : State), let starts := s.heat.starter = s.fabric.peer ∧ s.heat.candidacyAt = none; let now := s.heat.time.toNat
    let msg (epoch : DWord) (kind : BitVec 8) (heat seq : Word) (value toward : Nat) : Message :=
      ⟨kind, epoch, s.fabric.peer, s.isStarter, heat, seq, value, toward⟩
    let told (t : State) (h : Heat) (ms : List Message) : Prop :=
      t = { s with heat := { h with sent := s.heat.sent ++ ms }, fabric := t.fabric } ∧ s.carried t ms
    (∀ fibre flit stamp, let x : Stamped := ⟨fibre, flit, stamp⟩
      let found := s.fabric.ptp.find? fun x => x.fibre == fibre && x.flit.kind == 0x20
      (found ≠ some x → Completes (.ptpMessage fibre flit stamp) s fun t => t = s) ∧
      (found = some x → let m := (leBytes 128 x.flit.payload.toNat).drop ptpAt
        let kind := byteAt m 0 % 16; let peer := x.flit.src.toNat; let servo := s.heat.servo
        let taken (t : State) (v : Servo) : Prop := t = { s with
          heat := { s.heat with servo := v }
          fabric := { s.fabric with ptp := s.fabric.ptp.erase x, lastStamp := .ofNat 64 (x.stamp / 65536) } }
        let takes (v : Servo) : Prop := Completes (.ptpMessage fibre flit stamp) s fun t => taken t v
        (kind = 0 → s.grandmaster = some peer →
          takes { servo with offset := some (x.stamp - (messageTime m + mapGet 0 servo.delays peer)) }) ∧
        (kind = 0 → s.grandmaster ≠ some peer → takes servo) ∧
        (kind = 2 → peer ≠ s.fabric.peer → Completes (.ptpMessage fibre flit stamp) s fun t => t.heat = s.heat ∧
          ∃ a b, t.fabric.egress = s.fabric.egress ++ [a, b] ∧ ∀ f ∈ [a, b], f.kind = 0x20 ∧ f.dst = .ofNat 16 peer) ∧
        (kind = 3 → takes { servo with answered := mapSet (0, 0) servo.answered peer ((messageTime m).toNat, x.stamp) }) ∧
        (kind = 0xA → let a := mapGet (0, 0) servo.answered peer
          takes { servo with
            delays := mapSet 0 servo.delays peer (((a.2 : Int) - mapGet 0 servo.asked peer - (a.1 - messageTime m)) / 2) }) ∧
        (kind = 0xB → let key := beAt m 47 16
          ((∀ k p at', servo.best = some (k, p, at') → key ≤ k ∨ p = peer) →
            takes { servo with best := some (key, peer, s.heat.time) }) ∧
          ∀ k p at', servo.best = some (k, p, at') → k < key → p ≠ peer → s.passed at' Config.announceTimeout = false →
            takes servo))) ∧
    (∀ off whole fraction, let step : Int := 65536 * whole + fraction.toNat
      (s.offset ≠ some off → Completes (.timeServoCorrection off whole fraction) s fun t => t = s) ∧
      (s.offset = some off → now * 65536 + s.heat.fraction.toNat + step.toNat < 2 ^ 80 →
      Completes (.timeServoCorrection off whole fraction) s fun t =>
        t = { s with
          heat := { s.heat with
            time := t.heat.time, fraction := t.heat.fraction, slew := t.heat.slew, steadyRuns := t.heat.steadyRuns
            tsusp := t.heat.tsusp }
          fabric := { s.fabric with links := t.fabric.links } } ∧
        (∀ key, t.link key = { s.link key with readyAt := (t.link key).readyAt }) ∧
        ((∀ r ∈ s.heat.running, r.stopped) → 0 ≤ step → t.heat.slew = 0 ∧
          t.heat.time.toNat * 65536 + t.heat.fraction.toNat = now * 65536 + s.heat.fraction.toNat + step.toNat) ∧
        ((∃ r ∈ s.heat.running, r.stopped = false) ∨ step < 0 → t.heat.slew = step ∧ t.heat.time = s.heat.time ∧ t.heat.fraction = s.heat.fraction) ∧
        (off < -250 * 65536 ∨ 250 * 65536 < off → t.heat.tsusp) ∧
        (-100 * 65536 ≤ off → off ≤ 100 * 65536 → t.heat.steadyRuns = min (s.heat.steadyRuns + 1) 16 ∧
          (15 ≤ s.heat.steadyRuns → t.heat.tsusp = false) ∧ (s.heat.steadyRuns < 15 → t.heat.tsusp = s.heat.tsusp)) ∧
        (off < -100 * 65536 ∨ 100 * 65536 < off → t.heat.steadyRuns = 0 ∧
          (-250 * 65536 ≤ off → off ≤ 250 * 65536 → t.heat.tsusp = s.heat.tsusp)))) ∧
    (starts → s.heat.lastHeartbeat.toNat + 100000 ≤ now → Completes .heartbeatSend s fun t =>
      told t { s.heat with lastHeartbeat := s.heat.time }
        [msg s.heat.epoch 0x21 0 0 (4096 * s.heat.priority + s.fabric.peer) everyPeer]) ∧
    (¬starts ∨ now < s.heat.lastHeartbeat.toNat + 100000 → Completes .heartbeatSend s fun t => t = s) ∧
    (∀ peer epoch, let h := { s.heat with memberBeats := mapSet 0 s.heat.memberBeats peer s.heat.time }
      Completes (.heartbeat peer epoch false) s (fun t => t = { s with heat := h }) ∧
      (epoch < s.heat.epoch ∨ epoch = s.heat.epoch ∧ (peer ≠ s.heat.starter ∨ s.heat.candidacyAt ≠ none) →
        Completes (.heartbeat peer epoch true) s fun t =>
        t = { s with heat := h }) ∧
      (s.heat.epoch < epoch ∨ epoch = s.heat.epoch ∧ peer = s.heat.starter ∧ s.heat.candidacyAt = none →
        Completes (.heartbeat peer epoch true) s fun t =>
        let h := { h with epoch := epoch, starter := peer, candidacyAt := none, lastHeartbeat := s.heat.time }
        (peer = s.fabric.peer → t = { s with heat := h }) ∧
        (peer ≠ s.fabric.peer → told t h [⟨0x21, epoch, s.fabric.peer, false,
          (s.heat.running.head?.map Running.heatno).getD 0, 0, s.heat.tsusp.toNat, peer⟩]))) ∧
    (let own := (s.heat.priority, s.fabric.peer)
      let stands (t : State) (epoch : DWord) (least : Nat × Nat) : Prop := told t { s.heat with
        epoch := epoch, candidacyAt := some s.heat.time, lastHeartbeat := s.heat.time, candidate := some least }
        [⟨0x22, epoch, s.fabric.peer, false, 0, 0, 4096 * s.heat.priority + s.fabric.peer, everyPeer⟩]
      let less (a b : Nat × Nat) : Prop := a.1 < b.1 ∨ a.1 = b.1 ∧ a.2 < b.2
      (¬starts → s.heat.lastHeartbeat.toNat + 300000 ≤ now → Completes .heartbeatLoss s (stands · (s.heat.epoch + 1) own)) ∧
      (starts ∨ now < s.heat.lastHeartbeat.toNat + 300000 → Completes .heartbeatLoss s fun t => t = s) ∧
      ∀ epoch priority peer,
        (s.heat.epoch < epoch →
          (less (priority, peer) own → Completes (.candidacy epoch priority peer) s (stands · epoch (priority, peer))) ∧
          (¬less (priority, peer) own → Completes (.candidacy epoch priority peer) s (stands · epoch own))) ∧
        (epoch < s.heat.epoch ∨ epoch = s.heat.epoch ∧ s.heat.candidacyAt = none →
          Completes (.candidacy epoch priority peer) s fun t => t = s) ∧
        (∀ x, epoch = s.heat.epoch → s.heat.candidacyAt ≠ none → s.heat.candidate = some x →
          (less (priority, peer) x → Completes (.candidacy epoch priority peer) s fun t =>
            t = { s with heat := { s.heat with candidate := some (priority, peer) } }) ∧
          (¬less (priority, peer) x → Completes (.candidacy epoch priority peer) s fun t => t = s)) ∧
        (s.heat.epoch ≤ epoch → priority < 256 → Completes (.electionResult epoch priority peer) s fun t =>
          t = { s with heat := { s.heat with
            epoch := epoch, starter := peer, candidacyAt := none, lastHeartbeat := s.heat.time } }) ∧
        (epoch < s.heat.epoch → Completes (.electionResult epoch priority peer) s fun t => t = s)) ∧
    (∀ at' x, s.heat.candidacyAt = some at' → s.heat.candidate = some x →
      (now < at'.toNat + 25600 → Completes .electionTimer s fun t => t = s) ∧
      (at'.toNat + 25600 ≤ now →
        let h := { s.heat with starter := x.2, candidacyAt := none, lastHeartbeat := s.heat.time }
        (x.2 ≠ s.fabric.peer → Completes .electionTimer s fun t => t = { s with heat := h }) ∧
        (x.2 = s.fabric.peer → Completes .electionTimer s fun t =>
          let mine (k : BitVec 8) : Message :=
            ⟨k, s.heat.epoch, s.fabric.peer, true, 0, 0, 4096 * s.heat.priority + s.fabric.peer, everyPeer⟩
          told t { h with
            published := t.heat.published, nextSeq := t.heat.nextSeq, numbers := t.heat.numbers, lastNumber := t.heat.lastNumber }
            [mine 0x27, mine 0x21] ∧
          (∀ p ∈ t.heat.published, p.entry ∈ s.ringEntries ∧ p.members = s.membersAt p.entry.memb.toNat ∧ p.barred ∧
            p.committed = false ∧ p.owed = []) ∧
          (∀ e ∈ s.ringEntries, ∃ p ∈ t.heat.published, p.entry = e) ∧
          ∀ e, s.ringEntries = [e] → t.heat.nextSeq = e.seq + 1))) ∧
    (∀ e : HeatEntry, starts → e.seq = s.heat.nextSeq → e.kind = 3 ∨ now + 2000000 ≤ e.start.toNat →
      let ms := s.membersAt e.memb.toNat
      let known := mapGet none s.heat.numbers e.job.toNat
      let published (t : State) : Prop := t.heat.published = s.heat.published ++ [⟨e, ms, [], false, false, ms⟩] ∧
        t.heat.nextSeq = e.seq + 1 ∧ t.mem = s.mem ∧ t.crews = s.crews ∧ t.qsets = s.qsets ∧ t.heat.sheet = s.heat.sheet ∧
        ∀ m, ms = [m] → s.putsMaps t e m 1
      (e.kind = 2 → Completes (.heatSheetPublish e) s fun t => published t ∧ t.heat.numbers = s.heat.numbers) ∧
      (e.kind = 3 → Completes (.heatSheetPublish e) s fun t => published t ∧
        t.heat.numbers = mapSet none s.heat.numbers e.job.toNat none) ∧
      (e.kind < 2 → ∀ n, known = some n →
        (e.heatno = n → Completes (.heatSheetPublish e) s fun t => published t ∧ t.heat.numbers = s.heat.numbers) ∧
        (e.heatno ≠ n → Completes (.heatSheetPublish e) s fun t => t = s)) ∧
      (e.kind < 2 → known = none →
        (s.numberFree e.heatno → e.heatno ≠ s.heat.lastNumber → seqAtMost s.heat.lastNumber e.heatno →
          Completes (.heatSheetPublish e) s fun t => published t ∧ t.heat.lastNumber = e.heatno ∧
            t.heat.numbers = mapSet none s.heat.numbers e.job.toNat (some e.heatno)) ∧
        (e.heatno.setWidth 16 = (0 : BitVec 16) → Completes (.heatSheetPublish e) s fun t => t = s))) ∧
    (∀ e : HeatEntry, ¬starts ∨ e.seq ≠ s.heat.nextSeq ∨ e.kind ≠ 3 ∧ e.start.toNat < now + 2000000 →
      Completes (.heatSheetPublish e) s fun t => t = s) ∧
    (∀ peer heat seq p, s.heat.published.find? (fun p => p.entry.heatno == heat && p.entry.seq == seq) = some p →
      s.heat.published = [p] → starts → p.entry.kind = 0 → p.committed = false → peer ∈ p.members →
      let acks := if p.acks.contains peer then p.acks else peer :: p.acks
      (p.entry.deadline < s.heat.time → Completes (.ack peer heat seq) s fun t =>
        t = { s with heat := { s.heat with published := [{ p with barred := true }] } }) ∧
      (s.heat.time ≤ p.entry.deadline → (p.barred ∨ ∃ m ∈ p.members, m ∉ acks) → Completes (.ack peer heat seq) s fun t =>
        t = { s with heat := { s.heat with published := [{ p with acks := acks }] } }) ∧
      (s.heat.time ≤ p.entry.deadline → p.barred = false → (∀ m ∈ p.members, m ∈ acks) → Completes (.ack peer heat seq) s fun t =>
        told t { s.heat with published := [{ p with acks := acks, committed := true }] }
          (p.members.map fun m => msg s.heat.epoch 0x25 heat seq 0 m)) ∧
      ∀ reason, 1 ≤ reason → reason ≤ 7 → Completes (.nak peer heat seq reason) s fun t =>
        t = { s with heat := { s.heat with published := [{ p with barred := true }] } }) ∧
    (∀ peer seq p, starts → s.heat.published = [p] →
      (seqAtMost seq p.entry.seq → peer ∈ p.members → peer ∉ p.owed → p.members.length ≤ 4096 → Completes (.entryRequest peer seq) s fun t =>
        t.heat = { s.heat with published := [{ p with owed := p.owed ++ [peer] }] } ∧ t.mem = s.mem ∧ t.crews = s.crews ∧
        s.putsMaps t p.entry peer p.members.length) ∧
      (seqAtMost seq p.entry.seq = false ∨ peer ∉ p.members → Completes (.entryRequest peer seq) s fun t => t = s)) ∧
    (∀ heat failed detail e ms, s.entryOf heat = some (e, ms) → starts → detail < 256 →
      (heat ∈ s.heat.aborted → Completes (.memberFailureReport heat failed detail) s fun t => t = s) ∧
      (heat ∉ s.heat.aborted → Completes (.memberFailureReport heat failed detail) s fun t =>
        t.mem = s.mem ∧ t.crews = s.crews ∧ t.heat.sheet = s.heat.sheet ∧ t.heat.nextSeq = s.heat.nextSeq + 1 ∧
        t.heat.numbers = mapSet none s.heat.numbers e.job.toNat none ∧
        t.heat.aborted = s.heat.aborted ++ [heat] ∧ ∃ p, t.heat.published = s.heat.published ++ [p] ∧ p.members = ms ∧
          p.owed = ms ∧ p.entry.kind = 3 ∧ p.entry.dur = 0 ∧ p.entry.start = s.heat.time + 100000 ∧
          p.entry.failpeer = .ofNat 16 (failed % 4096) ∧ p.entry.heatno = e.heatno ∧ p.entry.job = e.job ∧
          p.entry.seq = s.heat.nextSeq ∧ p.entry.crc = crc32c (entryBytes p.entry))) ∧
    (∀ peer r, peer ≠ s.fabric.peer → s.heat.running = [r] →
      (clockMax r.start (mapGet 0 s.heat.memberBeats peer)).toNat + 300000 ≤ now →
      (∃ x ∈ s.heat.sheet, x.entry.seq = r.seq ∧ x.committed ∧ peer ∈ x.members) →
      Completes (.memberHeartbeatMissed peer) s fun t =>
        told t { s.heat with memberBeats := mapSet 0 s.heat.memberBeats peer s.heat.time }
          [msg s.heat.epoch 0x26 r.heatno r.seq peer s.heat.starter])

/-- R365 to R368, R371, R372, R374: a member writes an entry of its starter into its ring, makes the checks in order and
answers; a COMMIT of the starter by the START is recorded; entries take effect in START order: a normal one goes on where its
heat runs on the same cores, or begins a switch on each core of its map, idle without a COMMIT; an abort ends the heat's
job, in its slots and in its save areas. The save areas come with the acceptance (log entry 35). -/
def Obligations.SheetEvents : Prop :=
  ∀ (s : State),
    (∀ peer (e : HeatEntry), peer ≠ s.heat.starter ∨ s.heat.candidacyAt ≠ none → Completes (.heatSheetEntry ⟨peer, e⟩) s fun t => t = s) ∧
    (∀ e : HeatEntry, s.heat.candidacyAt = none → let u := { s with mem := s.mem.store .hbm (sheetBase + 64 * (e.seq.toNat % 4096)) (entryWire e) }
      let arrives (p : State → Prop) : Prop := Completes (.heatSheetEntry ⟨s.heat.starter, e⟩) s p
      ((∃ x ∈ s.heat.sheet, x.entry = e) → arrives fun t => t = u) ∧
      ((∀ x ∈ s.heat.sheet, x.entry ≠ e) →
        let now := s.heat.time.toNat
        let members := u.membersAt e.memb.toNat
        let cores := u.coresAt e.cmap.toNat members s.fabric.peer
        let say (t : State) (h : Heat) (kind : BitVec 8) (value : Nat) : Prop :=
          let ms := if e.kind = 0 then [(⟨kind, s.heat.epoch, s.fabric.peer, s.isStarter, e.heatno, e.seq,
            value, s.heat.starter⟩ : Message)] else []
          t = { u with heat := { h with sent := s.heat.sent ++ ms }, fabric := t.fabric } ∧ s.carried t ms
        let nak (t : State) (r : Nat) : Prop := say t s.heat 0x24 r
        (entryForm e members.length = false → arrives (nak · 1)) ∧
        (entryForm e members.length →
          (e.kind ≠ 3 → e.start.toNat < now + 1000000 → arrives (nak · 2)) ∧
          (e.kind = 3 ∨ now + 1000000 ≤ e.start.toNat →
            (e.kind = 0 → e.start.toNat < e.deadline.toNat + 500000 → arrives (nak · 1)) ∧
            ((e.kind = 0 → e.deadline.toNat + 500000 ≤ e.start.toNat) →
              (cores = [] → arrives fun t => t = u) ∧
              (cores ≠ [] → let joins : Prop := e.kind = 0 ∨ e.kind = 2
                (joins → u.sheetFree e cores = false → arrives (nak · 3)) ∧
                ((joins → u.sheetFree e cores) →
                  (u.partsReady e cores = false → arrives (nak · 4)) ∧
                  (u.partsReady e cores → u.reserveReady cores = false → arrives (nak · 5)) ∧
                  (u.partsReady e cores → u.reserveReady cores → s.heat.tsusp → arrives (nak · 6)) ∧
                  (u.partsReady e cores → u.reserveReady cores → s.heat.tsusp = false →
                    (e.flags.getLsbD 0 → u.resumeFits e cores = false → arrives (nak · 7)) ∧
                    (e.flags.getLsbD 0 = false ∨ u.resumeFits e cores → arrives fun t =>
                      say t { s.heat with
                        sheet := s.heat.sheet ++ [⟨e, cores, members, false, false, false, e.kind == 2⟩]
                        saveAt := t.heat.saveAt } 0x23 0 ∧
                      (2 ≤ e.kind → t.heat.saveAt = s.heat.saveAt) ∧
                      (e.kind < 2 → ∀ c ∈ cores, mapFind t.heat.saveAt (256 * e.job.toNat + 64 * (c / 64) +
                        (cores.filter fun d => d / 64 == c / 64 && d < c).length) ≠ none)))))))))) ∧
    (∀ peer epoch heat seq,
      (epoch = s.heat.epoch → peer = s.heat.starter → s.heat.candidacyAt = none → Completes (.commit ⟨peer, epoch⟩ heat seq) s fun t =>
        t = { s with heat := { s.heat with sheet := t.heat.sheet } } ∧
        t.heat.sheet = s.heat.sheet.map fun x =>
          if x.entry.heatno = heat ∧ x.entry.seq = seq ∧ x.entry.kind = 0 ∧ x.started = false ∧ s.heat.time ≤ x.entry.start then
            { x with committed := true }
          else x) ∧
      (epoch ≠ s.heat.epoch ∨ peer ≠ s.heat.starter ∨ s.heat.candidacyAt ≠ none → Completes (.commit ⟨peer, epoch⟩ heat seq) s fun t => t = s)) ∧
    (∀ seq x, s.heat.sheet.find? (fun x => x.entry.seq == seq && !x.started && x.entry.kind != 3) = some x →
      let first : Prop := ∀ y ∈ s.heat.sheet, y.started = false → y.void = false → x.entry.start ≤ y.entry.start
      (s.heat.time < x.entry.start ∨ ¬first → Completes (.heatStart seq) s fun t => t = s) ∧
      (x.entry.start ≤ s.heat.time → first →
      let started (idle : Bool) (t : State) : Prop :=
        t.heat.sheet = (s.expire.heat.sheet.map fun y => if y.entry.seq = seq then { y with started := true, idle := y.idle || idle } else y)
      (x.entry.kind = 1 → Completes (.heatStart seq) s fun t =>
        started false t ∧ t = { s with heat := { s.heat with sheet := t.heat.sheet } }) ∧
      (x.entry.kind ≠ 1 → ∀ p, partsOf x.entry = [p] →
        let idle : Bool := decide (x.entry.kind = 2) || !x.committed || x.void
        let same (r : Running) : Bool := !r.stopped && r.part == p && r.heatno == x.entry.heatno && r.cores == x.cores
        (idle = false → s.heat.running.any same → Completes (.heatStart seq) s fun t =>
          started false t ∧ t = { s with heat := { s.heat with sheet := t.heat.sheet, running := t.heat.running } } ∧
          t.heat.running = s.heat.running.map fun r =>
            if same r then { r with start := x.entry.start, finish := x.entry.start + x.entry.dur, seq := seq } else r) ∧
        (idle ∨ s.heat.running.any same = false → Completes (.heatStart seq) s fun t =>
          started idle t ∧ t = { s with heat := { s.heat with sheet := t.heat.sheet, switches := t.heat.switches } } ∧
          t.heat.switches = (s.heat.switches.filter fun w => !(w.part == p && x.cores.contains w.core)) ++
            x.cores.map fun c => (⟨p, c, seq, idle, x.entry.flags.getLsbD 0, s.heat.time, false⟩ : Switch))))) ∧
    ∀ seq x, s.heat.sheet.find? (fun x => x.entry.seq == seq && x.entry.kind == 3 && !x.started) = some x →
      (s.heat.time < x.entry.start → Completes (.abort seq) s fun t => t = s) ∧
      (x.entry.start ≤ s.heat.time → Completes (.abort seq) s fun t =>
        let status : Word := 0x04#8 ++ 0x00#8 ++ (x.entry.failpeer &&& 0x0FFF#16)
        (∀ n, (s.crewAt n).live → (s.crewAt n).job = x.entry.job.toNat →
          (t.crewAt n).live = false ∧ (t.crewAt n).status = status) ∧
        ((s.crews.map Prod.fst).Nodup → ∀ n, (s.crewAt n).job ≠ x.entry.job.toNat → (s.crewAt n).buffered = [] →
          (s.crewAt n).firstReads = [] → t.crewAt n = s.crewAt n) ∧
        (t.job x.entry.job.toNat).present = false ∧ (∀ r ∈ t.heat.running, r.heatno ≠ x.entry.heatno) ∧
        (∀ k q, ∀ e ∈ (t.queue k q).ents, e.job ≠ x.entry.job.toNat) ∧
        (∀ p ∈ t.fabric.held, p.heat ≠ x.entry.heatno.setWidth 16) ∧
        (∀ a ∈ t.heat.saved, a.job = x.entry.job.toNat → ∀ c ∈ a.crews, c.2.live = false) ∧
        ∀ y ∈ t.heat.sheet, y.entry.heatno = x.entry.heatno → y.entry.kind ≠ 3 → y.void)

/-! ## Switches and sprints -/

/-- R16, R313, R344, R377, R378, R380: the catch holds the crews of a partition's part of a core at their next word with nothing
in flight, applies the tokens on their way, ends its holds and gives its prefetched tasks back to the head of their banks; a
catch that has not come 1.5 µs after its begin ends the crews with CLASS 3, CODE 1. -/
def Obligations.CatchEvents : Prop :=
  ∀ (s : State) (core part : Nat) (w : Switch), let k := qkey part core
    s.switchOf part core = some w → core < 256 → (s.core core).sprint = none →
    let mine (n : Nat) : Prop := slotCore n = core ∧ (s.crewAt n).live ∧ (s.crewAt n).part = part
    let caught (t : State) : Prop := t.phaseOf k = .caught ∧ (∀ b ∈ (t.core core).prefetch, b.part ≠ part) ∧
      (∀ g, part ∉ (t.fibreGroup g).holders) ∧ (∀ d < 4, ∀ x ∈ (t.die d).tokens, x.part ≠ part) ∧
      (∀ d < 4, (t.die d).bank = (((s.core core).prefetch.filter fun b => b.part == part && idDie b.node == d).map fun b =>
        { b with one := true }) ++ (s.die d).bank) ∧
      (∀ n, slotCore n ≠ core → (s.crewAt n).buffered = [] → (s.crewAt n).firstReads = [] → t.crewAt n = s.crewAt n)
    let late : Prop := w.since.toNat + 1500 ≤ s.heat.time.toNat
    (w.begun = false → s.phaseOf k = .running ∧ ¬late ∨ s.phaseOf k = .idle → Completes (.catchCore core part) s fun t => caught t ∧
      ∀ n, mine n → (t.crewAt n).caught ∧ (t.crewAt n).live ∧ (t.crewAt n).inflight = [] ∧ (t.crewAt n).window = [] ∧
        (t.crewAt n).laneQ = (s.crewAt n).laneQ ∧ (t.crewAt n).shared = (s.crewAt n).shared ∧ (t.crewAt n).reqs = (s.crewAt n).reqs ∧
        ∀ j, ((t.crewAt n).split j).spc = ((s.crewAt n).split j).spc) ∧
    (w.begun ∨ s.phaseOf k = .running ∧ late → Completes (.catchCore core part) s fun t => t = s) ∧
    (w.begun = false → s.phaseOf k = .running → late →
      Completes (.deadlineReset core part) s fun t =>
      caught t ∧ ∀ n, mine n → (t.crewAt n).live = false ∧ (t.crewAt n).status = 0x03#8 ++ 0x01#8 ++ BitVec.ofNat 16 core) ∧
    (¬late → Completes (.deadlineReset core part) s fun t => t = s)

/-- R373, R381 to R387, R390: the save writes the save area and nothing else of the core; the drain takes the job's crews and
requests away, parks those of crews and gives up those of entries, and with the last core changes the running heats; a parked
response is kept; a restore puts back what the area holds, or reports the package; a fresh start loads a job; the start lets
the crews go on. -/
def Obligations.SwitchEvents : Prop :=
  ∀ (s : State) (core part : Nat), let k := qkey part core
    let coreSame (t : State) : Prop :=
      t.mem.bmem = s.mem.bmem ∧ t.mem.spad = s.mem.spad ∧ t.mem.acc = s.mem.acc ∧ t.mem.cells = s.mem.cells
    (s.phaseReady part core .caught →
      let stops (t : State) : Prop :=
        let last : Prop := ∀ v ∈ s.heat.switches, v.part = part → v.core ≠ core → v.core / 64 = core / 64 →
          s.phaseOf (qkey part v.core) ∉ [.running, .idle, .caught]
        (last → t.heat.running = s.heat.running.map fun r => if r.part = part then { r with stopped := true } else r) ∧
        (¬last → t.heat.running = s.heat.running)
      (s.outgoingAt part core = none → Completes (.save core part) s fun t =>
        t = { s with phases := t.phases, heat := t.heat } ∧ t.phaseOf k = .saved ∧ stops t) ∧
      (∀ job, s.outgoingAt part core = some job → Completes (.save core part) s fun t =>
        let base := (s.saveJob part core job).1.base
        t.phaseOf k = .saved ∧ stops t ∧ t.crews = s.crews ∧ t.qsets = s.qsets ∧ t.fabric = s.fabric ∧ coreSame t ∧
        t.areaNat (core / 64) base 4 = job % 2 ^ 32 ∧ t.areaNat (core / 64) (base + 4) 4 = (s.job job).heatno.toNat ∧
        t.areaNat (core / 64) (base + 16) 8 = s.heat.time.toNat ∧ t.areaNat (core / 64) (base + 24) 2 = 0)) ∧
    (s.phaseReady part core .caught = false → Completes (.save core part) s fun t => t = s) ∧
    (∀ w, s.switchOf part core = some w → s.phaseReady part core .saved →
      let waits (r : Req) : Prop := s.reqOf part core r ∨ State.dieReqOf part (core / 64) r
      ((∃ r ∈ s.fabric.reqs, waits r) → s.heat.time.toNat < w.since.toNat + 2000 →
        Completes (.drainAndTag core part) s fun t => t = s) ∧
      ((∀ r ∈ s.fabric.reqs, ¬waits r) ∨ w.since.toNat + 2000 ≤ s.heat.time.toNat →
      let last : Prop := ∀ v ∈ s.heat.switches, v.part = part → v.core ≠ core → s.phaseOf (qkey part v.core) = .drained
      let others := s.heat.running.filter fun r => r.part != part
      let enters (t : State) : Prop := (last → w.idle → t.heat.running = others) ∧
        (∀ x, last → w.idle = false → s.heat.sheet.find? (fun x => x.entry.seq == w.seq) = some x →
          t.heat.running = others ++ [⟨part, x.entry.heatno, x.entry.job.toNat, x.entry.start, x.entry.start + x.entry.dur,
            w.seq, x.cores, false⟩]) ∧
        ((∃ v ∈ s.heat.switches, v.part = part ∧ v.core ≠ core ∧ s.phaseOf (qkey part v.core) = .saved) →
          t.heat.running = s.heat.running)
      (s.outgoingAt part core = none → Completes (.drainAndTag core part) s fun t =>
        t.phaseOf k = .drained ∧ t = { s with phases := t.phases, heat := t.heat } ∧ enters t) ∧
      (∀ job, s.outgoingAt part core = some job → Completes (.drainAndTag core part) s fun t =>
        t.phaseOf k = .drained ∧ coreSame t ∧ enters t ∧
        ((s.crews.map Prod.fst).Nodup → ∀ n, slotCore n = core → (s.crewAt n).live → (s.crewAt n).part = part →
          t.crewAt n = { Crew.empty with reqCounter := (s.crewAt n).reqCounter }) ∧
        (∀ n, slotCore n ≠ core → t.crewAt n = s.crewAt n) ∧
        (∀ r ∈ t.fabric.reqs, r ∈ s.fabric.reqs ∧ s.reqOf part core r = false) ∧
        ∃ a ∈ t.heat.saved, a.job = job ∧ a.part = part ∧ a.core = core ∧ a.die = core / 64 ∧
          a.crews.map Prod.fst = (s.crewsOn part core).map (fun c => c.1 % 24) ∧
          a.parked = ((s.fabric.reqs.filter fun r => r.origin == 0 && s.reqOf part core r).map fun r => (r, s.timerRun r)) ∧
          ∀ q, ∀ e ∈ (a.qset.queue q).ents, e.pending = []))) ∧
    (∀ p, p.dst = s.fabric.peer → s.isParked p.reqid → p ∈ s.fabric.inbox →
      p.kind ∈ [kReadRsp, kWriteAck, kAtomRsp, kPoisoned] → (p.kind = kPoisoned → p.len ≠ 5 ∧ p.len ≠ 6) →
      Completes (.parkedResponse p) s fun t =>
        t.fabric.inbox = s.fabric.inbox.erase p ∧ coreSame t ∧ t.isParked p.reqid = false ∧
        (s.findReq p.reqid = none → t.crews = s.crews) ∧
        (∀ r, s.findReq p.reqid = some r → r.origin = 0 → ∀ n, t.crewAt n = { s.crewAt n with
          reqs := (s.crewAt n).reqs.map fun q =>
            if q.reqid = p.reqid then { q with response := some { p with addr := r.packet.addr } } else q }) ∧
        ∀ a ∈ t.heat.saved, ∀ c ∈ a.crews, ∀ q ∈ c.2.reqs, q.reqid = p.reqid → q.response = some p ∧ q.parked = false) ∧
    (∀ w x seq, s.switchOf part core = some w → s.heat.sheet.find? (fun x => x.entry.seq == seq) = some x →
      s.phaseReady part core .drained → w.seq = seq → w.resume → w.idle = false →
      let job := x.entry.job.toNat
      let pos := ((coresOnDie x.cores (core / 64)).filter fun c => c < core).length
      let at' := mapFind s.heat.saveAt (256 * job + 64 * (core / 64) + pos)
      let area := s.heat.saved.find? fun a => a.job == job && a.die == core / 64 && a.pos == pos
      let refused (t : State) : Prop :=
        let idle (v : Switch) : Switch := if v.part = part ∧ v.core = core then { v with idle := true } else v
        let all := s.heat.switches.all fun v => v.part != part || v.core == core || v.idle
        let m : Message := ⟨0x26, s.heat.epoch, s.fabric.peer, s.isStarter, x.entry.heatno, seq, s.fabric.peer,
          s.heat.starter⟩
        t = { s with
          heat := { s.heat with
            switches := s.heat.switches.map idle, running := s.heat.running.filter fun r => !(all && r.part == part)
            sent := s.heat.sent ++ [m] }
          fabric := t.fabric } ∧ s.carried t [m]
      (area = none → Completes (.switchRestore core part seq) s refused) ∧
      (∀ r a, at' = some r → area = some a → s.areaNat (core / 64) (r - 1) 4 ≠ job →
        Completes (.switchRestore core part seq) s refused) ∧
      (∀ r a, at' = some r → area = some a → a.part = part →
        s.areaNat (core / 64) (r - 1) 4 = job → Completes (.switchRestore core part seq) s fun t =>
          let base := r - 1
          let valid := s.areaNat (core / 64) (base + 8) 4
          let saved (o : Nat) : Byte := s.spotByte (s.saveSpot (core / 64) (base + o))
          t.phaseOf k = .restored ∧ (t.job job).present ∧ (t.job job).part = part ∧ (t.job job).heatno = x.entry.heatno ∧
          t.heat.saved = s.heat.saved.erase a ∧
          (valid.testBit 0 → ∀ n i c, (n, i) ∈ (s.recordSlots core).zipIdx → mapFind a.crews n = some c →
            (s.areaNat (core / 64) (base + 12) 4).testBit i → ∀ j < 96, (t.crewAt (24 * core + n)).lane j =
              recordLane (s.areaRead (core / 64) (base + 0x1000 + 81920 * i) 81920) j) ∧
          (valid.testBit 1 → ∀ i < a.quota.bmemLen,
            t.mem.byte .bmem (bmemBase core + a.quota.bmemLo + i) = saved (0x191000 + a.quota.bmemLo + i)) ∧
          (valid.testBit 2 → ∀ i < 8192 * a.quota.rows,
            t.mem.byte .spad (spadBase (core / 64) + 2 ^ 20 * (core % 64) + 8192 * a.quota.rowLo + i) =
              saved (0x1C9000 + 8192 * a.quota.rowLo + i)))) ∧
    (∀ j more, (s.partition part).ready → (s.partition part).sprint = false →
      (∀ w ∈ s.heat.switches, w.part ≠ part) → s.outgoing part = none → (∀ c ∈ s.crews, c.2.live → c.2.part ≠ part) →
      Completes (.freshStart part j more) s fun t =>
        (t.job j.job).present ∧ (t.job j.job).part = part ∧ (t.job j.job).faultQueues = j.faultQueues ∧
        (∀ q ∈ (s.partition part).quotas, s.quota part q.core = some q →
          (∀ i < q.bmemLen, t.mem.byte .bmem (bmemBase q.core + q.bmemLo + i) = 0) ∧
          (j.sdata = [] → more = [] → ∀ i < 8192 * q.rows,
            t.mem.byte .spad (spadBase (q.core / 64) + 2 ^ 20 * (q.core % 64) + 8192 * q.rowLo + i) = 0)) ∧
        ∀ q ∈ (s.partition part).quotas, t.qset (qkey part q.core) = QSet.empty) ∧
    (∀ j more w x, (s.partition part).ready → s.heat.switches.filter (fun v => v.part == part) = [w] → w.core = core →
      w.idle = false → w.resume = false → s.phaseOf k = .drained → x ∈ s.heat.sheet → x.entry.seq = w.seq →
      x.entry.job.toNat = j.job → Completes (.freshStart part j more) s fun t =>
        t.phaseOf k = .restored ∧ (t.job j.job).present ∧ (t.job j.job).part = part ∧ t.qset k = QSet.empty ∧
        ∀ q, s.quota part core = some q → ∀ i < q.bmemLen, t.mem.byte .bmem (bmemBase core + q.bmemLo + i) = 0) ∧
    (∀ w, s.switchOf part core = some w →
      let same (t : State) : Prop := t.switchOf part core = none ∧ t.mem = s.mem ∧ t.qsets = s.qsets ∧ t.fabric = s.fabric ∧
        t.jobs = s.jobs ∧ t.launches = s.launches ∧ t.graphs = s.graphs
      (w.idle → s.phaseReady part core .drained → Completes (.switchStart core part) s fun t =>
        same t ∧ t.phaseOf k = .idle ∧ t.crews = s.crews) ∧
      (w.idle = false → s.phaseReady part core .restored → Completes (.switchStart core part) s fun t =>
        same t ∧ t.phaseOf k = .running ∧ ∀ n,
          (slotCore n = core → (s.crewAt n).live → (s.crewAt n).part = part →
            t.crewAt n = { s.crewAt n with caught := false }) ∧
          (slotCore n ≠ core → t.crewAt n = s.crewAt n)))

/-- R391 to R397: a grant record is checked and kept or refused with its reason; the starter grants; the first claimed core's
grant opens the sprint and catches the running jobs; the accumulators are drained and read zero; the sprint heat runs; its
crews end at the LIMIT; a core gets its accumulators and crews back; with the last core the sprint is over. A core with an
empty seat is outside every claim (log entry 136). -/
def Obligations.SprintEvents : Prop :=
  ∀ (s : State), let now := s.heat.time.toNat
    (∀ (g : Grant), (s.windowOf g = none → s.grantReason g s.heat.time = some 1) ∧
      ∀ x, s.windowOf g = some x →
      let lo := g.gtime.toNat
      let start := x.entry.start.toNat
      let bad : Prop := g.crc ≠ crc32c (grantBytes g) ∨ g.res28 ≠ 0 ∨ lo < start ∨
        start + x.entry.dur.toNat ≤ lo + g.limit.toNat ∨ g.gseq.toNat ≤ (mapGet 0 s.heat.lastGseq g.seq.toNat).toNat ∨
        lo < now + 1000 ∨ ∃ c ∈ s.claimed g x.members s.fabric.peer, c ∉ x.cores ∨ c ∈ s.boot.noSprint
      (bad → s.grantReason g s.heat.time = some 1) ∧
      (¬bad → s.grantReason g s.heat.time = if s.heat.tsusp then some 6 else none)) ∧
    (∀ (g : Grant) (u : State),
      let refused (r : Nat) : Prop := Completes (.sprintGrantRecord g) s fun t =>
        let m : Message := ⟨0x24, s.heat.epoch, s.fabric.peer, s.isStarter, g.heatno, g.seq, r, s.heat.starter⟩
        t = { u with heat := { u.heat with sent := s.heat.sent ++ [m] }, fabric := t.fabric } ∧ u.carried t [m]
      (s.windowOf g = none → u = s → refused 1) ∧
      ∀ x, s.windowOf g = some x →
        u = { s with mem := s.mem.store .hbm (sheetBase + x.entry.memb.toNat + 512) (grantWire g) } →
        (u.claimed g x.members s.fabric.peer = [] → Completes (.sprintGrantRecord g) s fun t => t = u) ∧
        (u.claimed g x.members s.fabric.peer ≠ [] →
          (∀ r, u.grantReason g s.heat.time = some r → refused r) ∧
          (u.grantReason g s.heat.time = none → Completes (.sprintGrantRecord g) s fun t =>
            t = { u with heat := { u.heat with
              grants := t.heat.grants, lastGseq := mapSet 0 s.heat.lastGseq g.seq.toNat g.gseq } } ∧
            ∀ y, y ∈ t.heat.grants ↔ y ∈ s.heat.grants ∨ y = g))) ∧
    (∀ (g : Grant) (p : Published),
      s.heat.published.find? (fun p => p.entry.kind == 1 && p.entry.heatno == g.heatno && p.entry.seq == g.seq) = some p →
      let claims (m c : Nat) : Prop := c ∈ s.claimed g p.members m
      let barred : Prop := ∃ e ∈ s.heat.published, (e.entry.kind = 0 ∨ e.entry.kind = 2) ∧
        g.gtime.toNat ≤ e.entry.start.toNat ∧ e.entry.start.toNat < g.gtime.toNat + g.limit.toNat + 3600 ∧
        ∃ m ∈ p.members, ∃ c, claims m c ∧ c ∈ s.coresAt e.entry.cmap.toNat e.members m
      let may : Prop := s.heat.starter = s.fabric.peer ∧ s.heat.candidacyAt = none ∧ now + 40000 ≤ g.gtime.toNat ∧ ¬barred
      (¬may → Completes (.sprintRequest g) s fun t => t = s) ∧
      (may → Completes (.sprintRequest g) s fun t =>
        let h := { g with gseq := mapGet 0 s.heat.granted g.seq.toNat + 1, res28 := 0 }
        t.mem = s.mem ∧ t.crews = s.crews ∧
        t.heat = { s.heat with granted := mapSet 0 s.heat.granted g.seq.toNat h.gseq } ∧
        ∀ m ∈ p.members, p.members.length ≤ 4096 →
          t.putsRun g.seq m g.cmap.toNat (s.sheetRead g.cmap.toNat (32 * p.members.length)) ∧
          t.putsRun g.seq m (p.entry.memb.toNat + 512) (grantWire { h with crc := crc32c (grantBytes h) }))) ∧
    (∀ core x,
      let opens (y : Sprint) : Prop := s.heat.sprint = none ∧ ∃ g w, nextGrant s.heat.grants = some g ∧ g.gtime.toNat ≤ now ∧
        s.windowOf g = some w ∧ y = ⟨g, s.claimed g w.members s.fabric.peer, clockMax g.gtime s.heat.sprintOver,
          g.gtime + g.limit, [], [], []⟩
      (s.heat.sprint = some x ∨ opens x → x.cores.contains core → x.stage core = 0 → Completes (.sprintGrant core) s fun t =>
        (t.core core).sprint = some x.grant.heatno ∧ t.heat.running = s.heat.running ∧
        (∃ y, t.heat.sprint = some y ∧ y.stage core = 1 ∧ y.grant = x.grant ∧ y.cores = x.cores ∧ y.begun = x.begun ∧
          y.limit = x.limit ∧ y.parked = x.parked ∧
          y.pins = mapSet 0 x.pins core (match (s.core core).pinOwner with | some p => p + 1 | none => 0)) ∧
        (∀ n, slotCore n ≠ core → (s.crewAt n).buffered = [] → (s.crewAt n).firstReads = [] → t.crewAt n = s.crewAt n) ∧
        ∀ n, slotCore n = core → (s.crewAt n).live → (s.crewAt n).part ∈ s.plainParts →
          (t.crewAt n).caught ∧ (t.crewAt n).live ∧ (t.crewAt n).window = [] ∧
            (t.crewAt n).laneQ = (s.crewAt n).laneQ ∧ (t.crewAt n).shared = (s.crewAt n).shared) ∧
      (s.heat.sprint = some x → x.cores.contains core = false ∨ x.stage core ≠ 0 → Completes (.sprintGrant core) s fun t => t = s) ∧
      (s.heat.sprint = none → (∀ g ∈ s.heat.grants, now < g.gtime.toNat) → Completes (.sprintGrant core) s fun t => t = s)) ∧
    (∀ core x, s.heat.sprint = some x → (x.stage core ≠ 1 → Completes (.accumulatorDrain core) s fun t => t = s) ∧
      (x.stage core = 1 → Completes (.accumulatorDrain core) s fun t =>
      (∀ i < 262144, t.mem.byte .acc (accBase core + i) = 0) ∧ (t.core core).accStatus = [] ∧ (t.core core).tile = none ∧
      (t.core core).pinOwner = s.sprintPart ∧ (∃ y, t.heat.sprint = some y ∧ y.stage core = 2) ∧ t.crews = s.crews ∧
      t.qsets = s.qsets ∧ t.mem.bmem = s.mem.bmem ∧ t.mem.spad = s.mem.spad ∧ t.mem.cells = s.mem.cells ∧
      ∀ p job, (s.core core).pinOwner = some p → (s.core core).tile = none → s.outgoingAt p core = some job →
        let base := (s.saveJob p core job).1.base
        (t.areaNat (core / 64) (base + 8) 4).testBit 8 ∧ (t.areaNat (core / 64) (base + 0x2EA800) 4).testBit 0 ∧
        ∀ i < 131072, t.spotByte (t.saveSpot (core / 64) (base + 0x2A9000 + i)) = s.mem.byte .acc (accBase core + i))) ∧
    (∀ core x part w, s.heat.sprint = some x → s.sprintPart = some part → s.windowOf x.grant = some w →
      let mine (r : Req) : Prop := ∃ p ∈ s.plainParts, s.reqOf p core r
      let waits : Prop := (∃ r ∈ s.fabric.reqs, mine r) ∧ now < x.begun.toNat + 5600
      (x.stage core ≠ 2 ∨ waits → Completes (.sprintStart core) s fun t => t = s) ∧
      (x.stage core = 2 → ¬waits → Completes (.sprintStart core) s fun t =>
        t.mem.bmem = s.mem.bmem ∧ t.mem.spad = s.mem.spad ∧ t.mem.acc = s.mem.acc ∧ t.mem.cells = s.mem.cells ∧
        t.crews = s.crews ∧ (∃ y, t.heat.sprint = some y ∧ y.stage core = 3) ∧
        (∀ r ∈ t.fabric.reqs, ∃ q ∈ s.fabric.reqs,
          (mine q → q.origin = 0 ∧ r = { q with timer := none }) ∧ (¬mine q → r = q)) ∧
        ((∀ r ∈ s.heat.running, r.part ≠ part) → t.heat.running = s.heat.running ++
          [⟨part, w.entry.heatno, w.entry.job.toNat, x.grant.gtime, x.limit, w.entry.seq, x.cores, false⟩]) ∧
        ((∃ r ∈ s.heat.running, r.part = part) → t.heat.running = s.heat.running))) ∧
    (∀ x part, s.heat.sprint = some x → s.sprintPart = some part →
      (s.heat.time < x.limit → Completes .sprintLimit s fun t => t = s) ∧
      (x.limit ≤ s.heat.time → Completes .sprintLimit s fun t =>
      (∀ n, slotCore n ∈ x.cores → slotCore n < 256 → (s.crewAt n).live → (s.crewAt n).part = part →
        (t.crewAt n).live = false ∧ (t.crewAt n).status = 0x03#8 ++ 0x02#8 ++ BitVec.ofNat 16 (slotCore n)) ∧
      ∀ n, slotCore n ∉ x.cores → (s.crewAt n).buffered = [] → (s.crewAt n).firstReads = [] → t.crewAt n = s.crewAt n)) ∧
    ∀ core x part, s.heat.sprint = some x → s.sprintPart = some part →
      let ends : Prop := x.stage core = 3 ∧ s.sprintDone x part ∧ ∀ c ∈ x.cores, 3 ≤ x.stage c
      (¬ends → Completes (.sprintEnd core) s fun t => t = s) ∧
      (ends → Completes (.sprintEnd core) s fun t =>
        (t.core core).sprint = none ∧ t.heat.running = s.heat.running.filter (fun r => r.part != part) ∧
        (∀ n, slotCore n = core → (s.crewAt n).live → (s.crewAt n).part ∈ s.plainParts →
          t.crewAt n = { s.crewAt n with caught := false }) ∧
        (∀ n, slotCore n ≠ core → t.crewAt n = s.crewAt n) ∧
        (∀ p job, mapGet 0 x.pins core = p + 1 → p ∈ s.plainParts → s.findTile core = none → s.outgoingAt p core = some job →
          let base := (s.saveJob p core job).1.base
          (t.core core).pinOwner = some p ∧ ∀ i < 131072, t.mem.byte .acc (accBase core + i) =
            if (s.areaNat (core / 64) (base + 8) 4).testBit 8 ∧ (s.areaNat (core / 64) (base + 0x2EA800) 4).testBit 0
            then s.spotByte (s.saveSpot (core / 64) (base + 0x2A9000 + i)) else 0) ∧
        (∀ r run, x.parked = [(r.reqid, run)] → s.fabric.reqs = [r] → r.timer = none →
          (∃ n, slotCore n = core ∧ (s.crewAt n).live ∧ (s.crewAt n).part ∈ s.plainParts ∧
            ∃ q ∈ (s.crewAt n).reqs, q.reqid = r.reqid) →
          t.fabric.reqs = [{ r with timer := some (s.heat.time - run) }]) ∧
        ((∃ c ∈ x.cores, c ≠ core ∧ x.stage c ≠ 4) → ∃ y, t.heat.sprint = some y ∧ y.stage core = 4) ∧
        ((∀ c ∈ x.cores, c = core ∨ x.stage c = 4) → t.heat.sprint = none ∧ t.heat.sprintOver = s.heat.time))

/-! ## Memory of partitions, checkpoints, start and power -/

/-- R240, R268, R401 to R404, R406, R407, R411, R412: a walk fills the caches of the dies; an invalidation empties them and
the walk caches; a partition is made, zeroed and ready, or reported where a zero write fails; it is taken down with its crews
ended by CLASS 6; clause array and pinned tiles are given, zeroed, and taken back. -/
def Obligations.PartitionEvents : Prop :=
  ∀ (s : State) (part : Nat),
    (∀ va j, (s.jobs.filter fun j => j.2.present && j.2.part == part) = [j] → (∀ w ∈ s.walks, w.part ≠ part) →
      Completes (.translationWalk part va) s fun t =>
        t = { s with tlb := t.tlb, walks := t.walks, choices := t.choices } ∧
        (s.walk part j.2.troot va.toNat = none → t.tlb = s.tlb) ∧
        ∀ p, s.walk part j.2.troot va.toNat = some p → ∀ d < 4, ∃ e ∈ t.tlb, e.cache = 256 + d ∧ e.part = part ∧
          e.troot = j.2.troot ∧ e.base = p.vbase ∧ e.size = p.size ∧ e.page = p.base ∧ e.read = p.read ∧ e.write = p.write) ∧
    (let walks := s.walks.filter fun w => w.part != part;
      (∀ troot lo hi, Completes (.translationInvalidate part (some troot) lo hi) s fun t =>
        t = { s with tlb := t.tlb, walks := walks } ∧ ∀ e, e ∈ t.tlb ↔ e ∈ s.tlb ∧
          ¬(e.part = part ∧ e.troot = troot ∧ e.base < hi ∧ lo < e.base + e.size)) ∧
      ∀ lo hi, Completes (.translationInvalidate part none lo hi) s fun t =>
        t = { s with tlb := t.tlb, walks := walks } ∧ ∀ e, e ∈ t.tlb ↔ e ∈ s.tlb ∧ e.part ≠ part) ∧
    (∀ q, (s.partSound part q = false → Completes (.partitionCreate part q) s fun t => t = s) ∧
      (s.partSound part q → Completes (.partitionCreate part q) s fun t =>
      (t.partition part).ready = !Config.choice s.choices ∧
      t.boot.unzeroed = s.boot.unzeroed ++ (if Config.choice s.choices then [part] else []) ∧
      (t.partition part).quotas = q.quotas ∧ (t.partition part).sprint = q.sprint ∧
      (∀ n, n ∈ (t.partition part).sets ↔ n ∈ q.sets) ∧ (∀ p, p ≠ part → t.partition p = s.partition p) ∧
      (∀ n ∈ q.sets, ∀ i < 8, ∀ a < s.boot.band, t.mem.byte .hbm (2 ^ 31 * (8 * n + i) + a) = 0) ∧
      (∀ x ∈ q.quotas, (∀ i < x.bmemLen, t.mem.byte .bmem (bmemBase x.core + x.bmemLo + i) = 0) ∧
        (∀ i < 8192 * x.rows, t.mem.byte .spad (spadBase (x.core / 64) + 2 ^ 20 * (x.core % 64) + 8192 * x.rowLo + i) = 0) ∧
        t.qset (qkey part x.core) = QSet.empty ∧
        ∀ n, slotCore n = x.core → x.slots.getLsbD (n % 24) →
          t.crewAt n = { Crew.empty with reqCounter := (s.crewAt n).reqCounter }) ∧
      (∀ n, (∀ x ∈ q.quotas, slotCore n = x.core → x.slots.getLsbD (n % 24) = false) → t.crewAt n = s.crewAt n) ∧
      (∀ e ∈ t.tlb, e.part ≠ part) ∧ ∀ w ∈ t.walks, w.part ≠ part)) ∧
    ((s.partition part).ready = false → Completes (.partitionTakedown part) s fun t => t = s) ∧
    ((s.partition part).ready → Completes (.partitionTakedown part) s fun t =>
      t.partition part = Partition.none ∧ (∀ p, p ≠ part → t.partition p = s.partition p) ∧
      (∀ n, (s.crewAt n).live → (s.crewAt n).part = part → (t.crewAt n).live = false ∧ (t.crewAt n).status = 0x06000000) ∧
      (∀ c, (t.core c).pinOwner ≠ some part ∧ (t.core c).arrayOwner ≠ some part ∧ ∀ b ∈ (t.core c).prefetch, b.part ≠ part) ∧
      (∀ r ∈ t.heat.running, r.part ≠ part) ∧ (∀ a ∈ t.heat.saved, a.part ≠ part) ∧ (∀ w ∈ t.heat.switches, w.part ≠ part) ∧
      (∀ j ∈ t.jobs, j.2.part = part → j.2.present = false) ∧ (∀ g ∈ t.graphs, graphPart g.1 ≠ part) ∧
      (∀ e ∈ t.tlb, e.part ≠ part) ∧ (∀ w ∈ t.walks, w.part ≠ part) ∧ (∀ c ∈ t.ckpt.copying, c.part ≠ part) ∧
      (part < 16 → ∀ core < 256, t.qset (qkey part core) = QSet.empty)) ∧
    (∀ core < 256,
      (16 ≤ part → Completes (.arrayAssign core part) s (fun t =>
          t = { s with cores := t.cores } ∧ t.core core = { s.core core with arrayOwner := none } ∧
          ∀ c, c ≠ core → t.core c = s.core c) ∧
        Completes (.pinnedTileAssign core part) s fun t =>
          t = { s with cores := t.cores } ∧ t.core core = { s.core core with pinOwner := none } ∧
          ∀ c, c ≠ core → t.core c = s.core c) ∧
      (part < 16 → (s.partition part).ready = false ∨ s.quota part core = none →
        Completes (.arrayAssign core part) s (fun t => t = s) ∧ Completes (.pinnedTileAssign core part) s fun t => t = s) ∧
      (part < 16 → (s.partition part).ready → s.quota part core ≠ none →
        Completes (.arrayAssign core part) s (fun t =>
          t = { s with cores := t.cores, mem := t.mem } ∧ (∀ c, c ≠ core → t.core c = s.core c) ∧
          t.core core = { s.core core with
            arrayOwner := some part, cac := 0, seed := 0, stepCount := 0, table := [], stepping := none, granules := [] } ∧
          (∀ a, t.mem.byte .cells a = if cellBase core ≤ a ∧ a < cellBase core + 131072 then 0 else s.mem.byte .cells a) ∧
          t.mem.bmem = s.mem.bmem ∧ t.mem.spad = s.mem.spad ∧ t.mem.acc = s.mem.acc ∧ t.mem.hbm = s.mem.hbm) ∧
        Completes (.pinnedTileAssign core part) s fun t =>
          t = { s with cores := t.cores, mem := t.mem } ∧ (∀ c, c ≠ core → t.core c = s.core c) ∧
          (t.core core).pinOwner = some part ∧ mapGet 0 (t.core core).accStatus 0 = 0 ∧
          mapGet 0 (t.core core).accStatus 1 = 0 ∧
          (∀ a, t.mem.byte .acc a = if accBase core ≤ a ∧ a < accBase core + 131072 then 0 else s.mem.byte .acc a) ∧
          t.mem.bmem = s.mem.bmem ∧ t.mem.spad = s.mem.spad ∧ t.mem.cells = s.mem.cells ∧ t.mem.hbm = s.mem.hbm))

/-- R413 to R424: the units of a checkpoint are copied as they stood at the mark, on a write and after 2 µs; a copy
completes within a second, its shard kept, or fails, CK clear; a kept step is written back; a replay and a step backwards
are set up from a kept step. -/
def Obligations.CheckpointEvents : Prop :=
  ∀ (s : State) (job part : Nat),
    (let copied (t : State) (unit : Nat) (c : Copying) : Prop :=
        t = { s with mem := t.mem, ckpt := t.ckpt } ∧ t.uncopied part unit = [] ∧
        ∃ d new, t.ckpt.copying.filter (fun x => x.part == part) = [d] ∧ d.job = c.job ∧ d.step = c.step ∧
          d.done = c.done ++ new ∧ new.map UnitCopy.off = (s.uncopied part unit).map Prod.fst ∧
          (c.leaves = [] → t.mem = s.mem ∧
            new.map UnitCopy.bytes = (s.uncopied part unit).map fun u => s.hbmBytes part u.1 u.2)
      ∀ unit, (s.uncopied part unit = [] → Completes (.copyOnWrite part unit) s fun t => t = s) ∧
        ((∀ w ∈ s.ckpt.waiting, s.heat.time.toNat < w.2.2.toNat + 2000) →
          Completes (.copyOnWriteTimeout part unit) s fun t => t = s) ∧
        ∀ c, s.ckpt.copying.filter (fun x => x.part == part) = [c] →
          Completes (.copyOnWrite part unit) s (copied · unit c) ∧
          ((∀ u ∈ s.uncopied part unit, ∃ w ∈ s.ckpt.waiting, w.1 = part ∧ w.2.1 = u.1 ∧
              w.2.2.toNat + 2000 ≤ s.heat.time.toNat) → Completes (.copyOnWriteTimeout part unit) s fun t =>
            copied t unit c ∧ ∀ w ∈ t.ckpt.waiting, ∀ u ∈ s.uncopied part unit, w.1 ≠ part ∨ w.2.1 ≠ u.1)) ∧
    (s.copyOf job = none → Completes (.checkpointComplete job) s (fun t => t = s) ∧
      Completes (.checkpointTimeout job) s (fun t => t = s) ∧ ∀ cause, Completes (.checkpointFail job cause) s fun t => t = s) ∧
    (∀ c, s.copyOf job = some c → s.ckpt.copying.filter (fun x => x.part == c.part) = [c] →
      s.ckpt.copying.filter (fun x => x.job == job) = [c] →
      let late : Prop := c.since.toNat + 1000000000 ≤ s.heat.time.toNat
      let fails (t : State) : Prop := t.copyOf job = none ∧ t.ckpt.shards = s.ckpt.shards ∧ t.crews = s.crews
      (¬late → Completes (.checkpointTimeout job) s (fun t => t = s) ∧ Completes (.checkpointComplete job) s fun t =>
        t.copyOf job = none ∧ t.crews = s.crews ∧ ∃ x, t.ckpt.shards = s.ckpt.shards ++ [x] ∧ x.job = job ∧ x.step = c.step ∧
          x.troot = c.troot ∧ x.peer = s.fabric.peer ∧ x.sound ∧
          x.units.map UnitCopy.off = c.done.map UnitCopy.off ++ c.left.map Prod.fst) ∧
      (late → Completes (.checkpointTimeout job) s fails ∧ Completes (.checkpointComplete job) s fun t => t = s) ∧
      ∀ cause, (1 ≤ cause → cause ≤ 3 → Completes (.checkpointFail job cause) s fails) ∧
        (cause = 0 ∨ 3 < cause → Completes (.checkpointFail job cause) s fun t => t = s)) ∧
    (let puts (t : State) (x : Shard) : Prop := let j := t.job x.job
        j.troot = x.troot ∧ j.ckStep = x.step ∧ j.restored ∧ j.present = false ∧ j.lastStep = some x.step ∧
        (∀ e ∈ t.tlb, e.part ≠ j.part) ∧ (∀ w ∈ t.walks, w.part ≠ j.part) ∧ t.crews = s.crews;
      (∀ held, let own := s.soundSteps job
        let others := held.filter fun h => h.1 != s.fabric.peer
        let common := own.filter fun n => others.all fun h => h.2.contains n
        (common = [] → Completes (.restore job part held) s fun t =>
          t = { s with ckpt := { s.ckpt with reports := s.ckpt.reports ++ (s.fabric.peer, own) :: others } }) ∧
        (∀ n x, newestStep common = some n → (s.kept job).find? (fun x => x.step == n) = some x →
          (s.takesShard part x = false → Completes (.restore job part held) s fun t => t = s) ∧
          (s.takesShard part x → Completes (.restore job part held) s fun t => puts t x ∧ (t.job job).part = part ∧
            ∀ u, x.units = [u] → (s.partition part).channels.Nodup → s.boot.band ≤ 2 ^ 31 →
              u.off + u.bytes.length ≤ s.capacity part → (∀ c ∈ s.ckpt.copying, c.part ≠ part) →
              ∀ i < u.bytes.length, t.mem.byte .hbm (s.hbmKey part (u.off + i)) = u.bytes.getD i 0))) ∧
      (∀ x, s.newestShard job (fun _ => true) = some x →
        (s.sinceMark job x.step = none ∨ s.takesShard part x = false → Completes (.replay job part) s fun t => t = s) ∧
        ∀ l, s.sinceMark job x.step = some l → s.takesShard part x → Completes (.replay job part) s fun t =>
          t.ckpt.replay = some (job, l) ∧ t.ckpt.stepBack = none ∧ puts t x ∧ (t.job job).part = part) ∧
      (s.newestShard job (fun _ => true) = none → Completes (.replay job part) s fun t => t = s) ∧
      ∀ slot clock, (s.newestShard job (s.markedBefore clock) = none → Completes (.stepBack job slot clock) s fun t => t = s) ∧
        ∀ x, s.newestShard job (s.markedBefore clock) = some x →
          (s.sinceMark job x.step = none ∨ s.takesShard (s.job job).part x = false →
            Completes (.stepBack job slot clock) s fun t => t = s) ∧
          ∀ l, s.sinceMark job x.step = some l → s.takesShard (s.job job).part x →
            Completes (.stepBack job slot clock) s fun t =>
              t.ckpt.replay = some (job, l) ∧ t.ckpt.stepBack = some (slot, clock) ∧ puts t x)

namespace Sys2Proof.Claim

/-- A reset of the module: all but FAILCNT, the fuses, the shards and the model's own counters is as after reset. -/
def restarted (s t : State) (cause stage code : Nat) (fails : Nat) : Prop :=
  t = { State.reset with
    ckpt := { Checkpoint.reset with shards := s.ckpt.shards }, boot := t.boot
    nextUid := s.nextUid, agenda := s.agenda, steps := s.steps, choices := s.choices } ∧
    t.boot = { Boot.reset with
      minimal := decide (3 ≤ fails), failcnt := fails + 1, debugFuse := s.boot.debugFuse
      bootrsn := BitVec.ofNat 32 (cause % 16 + 16 * (if 3 ≤ fails then 1 else 0) + 64 * min fails 3 + 256 * (stage % 16) +
        4096 * (code % 256)) }

end Sys2Proof.Claim

/-- R425 to R433: the module freezes, its port reads where the fuse is set, and a cold reset starts it again; a stage
succeeds in its deadline or fails with its cause; registers are measured and reported; control blocks take writes; the host
reaches an exported partition. -/
def Obligations.StartEvents : Prop :=
  ∀ (s : State), let b := s.boot
    let deadline (n : Nat) : Nat := [0, 5, 50, 500, 4000, 5000, 20000, 30000].getD n 0
    let runs : Prop := 1 ≤ b.stage ∧ b.stage ≤ 7 ∧ (b.minimal → b.stage ≤ 3)
    let lastStage := (b.bootrsn.extractLsb' 8 4).toNat
    let lastCode := (b.bootrsn.extractLsb' 12 8).toNat
    Completes .freezeN s (fun t => t = { s with boot := { b with frozen := true } }) ∧
    (∀ target address, b.frozen →
      (b.debugFuse → Completes (.tapRead target address) s fun t =>
        t = { s with boot := { b with tap := s.probe target address } }) ∧
      (b.debugFuse = false → Completes (.tapRead target address) s fun t => t = { s with boot := { b with tap := 0 } })) ∧
    (∀ cause, Completes (.coldReset cause) s fun t =>
      restarted s t (if b.frozen then 5 else if cause = 0 then 0 else 1) lastStage lastCode b.failcnt) ∧
    (let may : Prop := runs ∧ b.upTime ≤ deadline b.stage * 1000000
      let sound : Bool := rotorSound (Config.ownPeer % 4096) Config.rotorMap Config.domainMaps;
      (¬may → Completes .stageComplete s fun t => t = s) ∧
      (may → Completes .stageComplete s fun t =>
        let b' := { b with stage := b.stage + 1 }
        let digest (i : Nat) := sha256 (digestBytes (b.measure i) ++ digestBytes (Config.imageDigest i b.debugFuse s.choices))
        let extended (i : Nat) : Boot := { b' with measures := mapSet 0 b.measures i (digest i) }
        (b.stage = 7 → t = { s with boot := { extended 3 with failcnt := 0 }, choices := s.choices + 1 }) ∧
        (∀ x ∈ [(1, 0), (2, 1), (3, 2), (5, 4)], b.stage = x.1 →
          t = { s with boot := extended x.2, choices := s.choices + 1 }) ∧
        (b.stage = 6 → t = if sound then { s with
          boot := extended 5
          choices := s.choices + 1
          fabric := { s.fabric with
            peer := Config.ownPeer % 4096, rotor := Config.rotorMap, domain := Config.domainMaps }
          heat := { s.heat with priority := Config.priority } } else s) ∧
        (b.stage = 4 → t = { s with
            boot := { b' with noSprint := t.boot.noSprint, band := 2 ^ 26 * (Config.bandUnits % 31 + 1) }
            cores := t.cores } ∧
          ∀ c < 256, let present (n : Nat) : Prop := (Config.banksPresent c).getLsbD n
            t.core c = { s.core c with
              regmap := (Config.banksPresent c).setWidth 32, regcap := capOf (Config.banksPresent c) (Config.banksMapped c) } ∧
            (c ∈ t.boot.noSprint ↔ ∃ seat < 4, ∀ k < 6, ¬present (6 * seat + k))))) ∧
    (∀ code, ¬runs → Completes (.stageFailure code) s fun t => t = s) ∧
    (∀ code, runs → Completes (.stageFailure code) s fun t =>
      restarted s t (if deadline b.stage * 1000000 < b.upTime then 2 else 3) b.stage code.toNat b.failcnt) ∧
    Completes .clearAndRestart s (fun t => restarted s t 1 lastStage lastCode 0) ∧
    (∀ i d, i < 16 → Completes (.measurementExtend i d) s fun t =>
      t = { s with boot := { b with measures := t.boot.measures } } ∧
      ∀ j, t.boot.measure j = if j = i then sha256 (digestBytes (b.measure i) ++ digestBytes d) else b.measure j) ∧
    (∀ nonce, Completes (.attestationReport nonce) s fun t =>
      let m := leBytes 4 1 ++ leBytes 4 b.bootrsn.toNat ++ leBytes 16 Config.deviceId.toNat ++ digestBytes nonce ++
        (List.range 16).flatMap fun i => digestBytes (b.measure i)
      t = { s with boot := { b with report := m ++ signatureBytes (Config.signature (sha256 m)) } }) ∧
    (∀ n v reg, let c := b.block n
      let only (t : State) (x : ControlBlock) : Prop := t = { s with
          boot := { b with blocks := t.boot.blocks }
          fabric := { s.fabric with groups := t.fabric.groups, rthr := t.fabric.rthr } } ∧
        (∀ m, t.boot.block m = if m = n then x else b.block m) ∧
        (∀ g, n ≠ 1024 + g → t.fibreGroup g = s.fibreGroup g) ∧ (n ≠ 1088 → t.fabric.rthr = s.fabric.rthr)
      Completes (.basicRegisterWrite n v) s (fun t => only t ⟨v &&& 0x1F, [], []⟩ ∧ (t.boot.block n).readBasic = v &&& 0x1F ∧
        (t.boot.block n).readExpert n reg = Config.preset n (v.extractLsb' 1 3).toNat reg) ∧
      (c.basic.getLsbD 4 → Completes (.expertRegisterWrite n reg v) s fun t =>
        t.fabric = s.fabric ∧ (∃ x, only t x) ∧ (t.boot.block n).readExpert n reg = v ∧
        (t.boot.block n).readBasic = (c.basic &&& 0x1F) ||| 0x80000000) ∧
      (c.basic.getLsbD 4 = false → Completes (.expertRegisterWrite n reg v) s fun t => only t c ∧ t.fabric = s.fabric) ∧
      Completes (.expertWriteEffect n) s fun t => (∃ x, only t x) ∧ (t.boot.block n).readBasic = c.basic &&& 0x1F ∧
        (∀ r, (t.boot.block n).readExpert n r = c.readExpert n r) ∧ (c.pending = [] → t.fabric.rthr = s.fabric.rthr) ∧
        ∀ r w, c.pending = [(r, w)] →
          (∀ g < 64, n = 1024 + g → let x := s.fibreGroup g; let k := w.toNat
            (r = 0 → 1 ≤ k → k ≤ 65535 → t.fibreGroup g = { x with wthr := k }) ∧
            (r = 1 → 1600 ≤ k → k ≤ 1600000 → k % 1600 = 0 → t.fibreGroup g = { x with fhold := k }) ∧
            (r = 2 → k = 1 ∨ k = 2 ∨ k = 4 → t.fibreGroup g = { x with fmin := k }) ∧
            (r > 2 → t.fibreGroup g = x)) ∧
          (n = 1088 → r = 0 → w.toNat ≤ 12800 → t.fabric.rthr = w.toNat)) ∧
    ∀ part off data, (s.partition part).ready → (s.partition part).quotas = [] → off + data.length ≤ s.capacity part →
      Completes (.cxlMemAccess part false off data) s (fun t =>
        t = { s with boot := { b with cxlData := (List.range data.length).map fun i => s.mem.byte .hbm (s.hbmKey part (off + i)) } }) ∧
      (data.length ≤ 64 - off % 64 → data ≠ [] → (∀ c ∈ s.ckpt.copying, c.part ≠ part) → Completes (.cxlMemAccess part true off data) s fun t =>
        t = { s with mem := t.mem } ∧ t.mem.bmem = s.mem.bmem ∧
        ∀ a, t.mem.byte .hbm a = if s.hbmKey part off ≤ a ∧ a < s.hbmKey part off + data.length
          then data.getD (a - s.hbmKey part off) 0 else s.mem.byte .hbm a)

/-- R434 to R436: levels of islands, the raise before a START, a power sample and the trip after 1 ms above 4,600 W. -/
def Obligations.PowerEvents : Prop :=
  ∀ (s : State), let b := s.boot
    (let rescaled (i level : Nat) (t : State) : Prop :=
        (∀ k, t.boot.level k = if k = i then level else b.level k) ∧
        (∀ k, t.boot.volt k = if k = i then Config.islandVolts i level else b.volt k) ∧
        (i ∉ [256, 264, 272, 280] → t.dies = s.dies) ∧
        ∀ d, i = 256 + 8 * d → d < 4 → (∀ e, e ≠ d → t.die e = s.die e) ∧ t.die d = { s.die d with
          bank := (s.die d).bank.map fun x => { x with
            waited := s.heat.time - .ofNat 64 ((s.heat.time - x.waited).toNat * b.level i / level) } };
      (∀ i level,
        let may : Prop := (i < 304 ∨ 464 ≤ i ∧ i < 512) ∧ level ∈ [2000, 1800, 1600, 1400, 1200] ∧
          ((∃ c ∈ b.raised, i ∈ coreIslands c) → b.level i ≤ level)
        (may → Completes (.islandLevelChange i level) s fun t =>
          t = { s with boot := { b with levels := t.boot.levels, volts := t.boot.volts }, dies := t.dies } ∧ rescaled i level t) ∧
        (¬may → Completes (.islandLevelChange i level) s fun t => t = s)) ∧
      (∀ core,
        (core < 256 → s.startComes core → Completes (.preStartRaise core) s fun t =>
          t = { s with
            boot := { b with levels := t.boot.levels, volts := t.boot.volts, raised := t.boot.raised }, dies := t.dies } ∧
          (∀ k, t.boot.level k = if k ∈ coreIslands core then 2000 else b.level k) ∧
          (∀ k, t.boot.volt k = if k ∈ coreIslands core then Config.islandVolts k 2000 else b.volt k) ∧
          (∀ d, d ≠ core / 64 → t.die d = s.die d) ∧ ∀ i, i ∈ t.boot.raised ↔ i = core ∨ i ∈ b.raised) ∧
        (256 ≤ core ∨ s.startComes core = false → Completes (.preStartRaise core) s fun t => t = s)) ∧
      let draw (i : Nat) : Nat := Config.islandPower b.samples i (b.level i) (b.volt i)
      let p := b.modulePower
      let window := (p :: b.window).take 100000
      let e := b.energy + p - (if b.window.length < 100000 then 0 else b.window.getLastD 0)
      let c := { b with
        samples := b.samples + 1, window := window, energy := e, overload := if 4600000 < p then b.overload + 1 else 0 }
      let high : Prop := 3800000 * window.length < e
      let may (i : Nat) : Prop := (i < 304 ∨ 464 ≤ i ∧ i < 512) ∧ (∀ c ∈ b.raised, i ∉ coreIslands c) ∧ 1200 < b.level i
      let due : Prop := 1000 * (b.samples + 1) ≤ b.upTime
      p = ((List.range 512).map draw).sum ∧
      (¬due → Completes .powerSample s fun t => t = s) ∧
      (due → ¬high ∨ (∀ i, ¬may i) → Completes .powerSample s fun t => t = { s with boot := c }) ∧
      (due → high → (∃ i, may i) → Completes .powerSample s fun t =>
        t = { s with boot := { c with levels := t.boot.levels, volts := t.boot.volts }, dies := t.dies } ∧
        ∃ i, may i ∧ (∀ k, may k → draw k ≤ draw i) ∧ rescaled i (b.level i - 200) t)) ∧
    (b.overload < 1000 → Completes .powerTrip s fun t => t = s) ∧
    (1000 ≤ b.overload → Completes .powerTrip s fun t =>
      restarted s t 4 (b.bootrsn.extractLsb' 8 4).toNat (b.bootrsn.extractLsb' 12 8).toNat b.failcnt)

/-! ## The encodings, the step and reset -/

/-- R93 to R98: the scalar encoding of every well-formed instruction that has one decodes to that instruction, and every word
that decodes is the encoding of the well-formed instruction that it gives: no bit of a word is dropped. -/
def Obligations.ScalarWordsRoundTrip : Prop :=
  (∀ (i : Instr) (w : Word), wellFormed i → encodeScalar i = some w → decodeScalar w = .ok i) ∧
    ∀ (i : Instr) (w : Word), decodeScalar w = .ok i → wellFormed i ∧ encodeScalar i = some w

/-- R99, R111, R112: the same for lane instructions; the words of opcodes up to 0x83 all decode, those above do not. -/
def Obligations.LaneWordsRoundTrip : Prop :=
  (∀ (i : Instr) (w : BitVec 96), wellFormed i → encodeLane i = some w → decodeLane w = .ok i) ∧
    (∀ (i : Instr) (w : BitVec 96), decodeLane w = .ok i → wellFormed i ∧ encodeLane i = some w) ∧
    ∀ w : BitVec 96, (∃ i, decodeLane w = .ok i) ↔ (w.extractLsb' 88 8).toNat ≤ 0x83

/-- Every step keeps the canonical form of the five byte memories: keys strictly rising, no listed byte equal to what an
unlisted one reads as, so that equal memories are equal data. The form is the model's own (log entry 3); R17, R240, R267
and R409 give the memories. -/
def Obligations.MemoriesStayCanonical : Prop :=
  ∀ s t : State, s.mem.wf → step s = .next t → t.mem.wf

/-- R331, R407, R427, R428: right after reset the memories are in canonical form and hold nothing, no partition is ready, no crew
lives, no link is mapped, the measurement registers are cleared, the start is at stage 1 and the module is not frozen; what
an unlisted byte reads as is the model's choice (log entry 3). -/
def Obligations.AfterReset : Prop :=
  let s := State.reset
  s.mem.wf ∧ s.mem.marksWf ∧ (∀ sp a, s.mem.byte sp a = 0) ∧ (∀ p, (s.partition p).ready = false) ∧
    (∀ n, (s.crewAt n).live = false) ∧ (∀ k, s.farEnd k = none) ∧ (∀ i, s.boot.measure i = 0) ∧ s.boot.stage = 1 ∧
    s.boot.frozen = false ∧ s.boot.minimal = false ∧ ∀ k q, (s.queue k q).issue = 0 ∧ (s.queue k q).seq = 0

/-- A step runs the decoded instruction. In a module that is not frozen, a scalar turn of a split that may run is exec of
the instruction that the word at its SPC decodes to, with the split in focus, equal splits merged first (R47, R51); a
lane turn is exec of the instruction at the head of the crew's lane queue (R43), the focus set back; an event is its own
exec. Each is followed by the tick: the step is counted and time goes on by a free amount (log entry 2). A word that
decodes to nothing, and an SPC past the end of .scalar, raise the illegal-instruction trap (R95, R201); of a CPY of space 7
the privilege is checked before its fields (R113). Without an agenda the turn is the model's default (log entry 1): of its
three kinds the scalar one is stated. In a frozen module only the test access port and a cold reset
act (R425, R426). -/
def Obligations.StepRunsTheInstruction : Prop :=
  ∀ (s : State) (turn : Turn) (rest : List Turn), let u := { s with agenda := rest }
    let ticks (t v : State) : Prop := v = { t with
      heat := t.heat.pass (Config.elapsed t.steps)
      boot := { t.boot with upTime := t.boot.upTime + Config.elapsed t.steps }, steps := t.steps + 1 }
    let goes (t : State) : Prop := t.boot.frozen = false → t.ckpt.stepBack = none → ∃ v, ticks t v ∧ step s = .next v
    let merged (slot k : Nat) : State :=
      let m := (s.crewAt slot).mergeEqual k
      ((u.focus slot k).setCrew m.1).focus slot m.2
    (s.agenda = turn :: rest → s.boot.frozen = false →
      (∀ slot k l, turn = .scalar slot k → (slot, k) ∈ s.runnable → mapFind s.launches (s.crewAt slot).launch = some l →
        let x := merged slot k
        (l.scalarLen < x.split.spc + 4 → goes (x.raise 0x01 12 0 (.ofNat 32 x.split.spc))) ∧
        (x.split.spc + 4 ≤ l.scalarLen → let w : Word := .ofNat 32 (memNat l.scalar x.split.spc 4)
          (∀ i t, decodeScalar w = .ok i → exec i x = .next t → goes t) ∧
          ∀ r, decodeScalar w = .error r →
            (saveCopy w = false ∨ x.settings.priv → goes (x.raise 0x01 r.field 0 (.ofNat 32 r.value))) ∧
            (saveCopy w → x.settings.priv = false → goes (x.raise 0x06 0 0 0x2B)))) ∧
      (∀ slot e q i t, turn = .lane slot → (s.crewAt slot).laneQ = e :: q → (s.crewAt slot).live →
        (s.crewAt slot).caught = false → decodeLane e.word = .ok i → exec i (u.focus slot s.curSplit) = .next t →
        goes (t.focus s.cur s.curSplit)) ∧
      ∀ i t, turn = .event i → exec i u = .next t → goes t) ∧
    (s.agenda = turn :: rest → s.boot.frozen → s.ckpt.stepBack = none →
      (∀ i t, turn = .event i → (∃ a b, i = .tapRead a b) → exec i u = .next t → t.boot.frozen → t.ckpt.stepBack = none →
        step s = .next { t with steps := t.steps + 1 }) ∧
      ((∀ i, turn = .event i → (∀ a b, i ≠ .tapRead a b) ∧ ∀ c, i ≠ .coldReset c) →
        step s = .next { u with steps := s.steps + 1 })) ∧
    (s.agenda = [] → s.boot.frozen = false → s.steps % 3 = 2 → (s.cur, s.curSplit) ∈ s.runnable →
      ∀ l, mapFind s.launches s.crew.launch = some l →
        let m := s.crew.mergeEqual s.curSplit
        let x := (s.setCrew m.1).focus s.cur m.2
        x.split.spc + 4 ≤ l.scalarLen →
        ∀ i t, decodeScalar (.ofNat 32 (memNat l.scalar x.split.spc 4)) = .ok i → exec i x = .next t → goes t.rotate)

/-- Words of the specification's encodings, written out bit by bit, decode to the instruction that they stand for (R92,
R93, R97 to R99, R109, R111, R124): a sanity statement. -/
def Obligations.DecodedWords : Prop :=
  decodeScalar 0b010111_00011_00100_1111111111111110 = .ok (.addi 3 4 0xFFFE) ∧
  decodeScalar 0b011000_00101_000000000000001100100 = .ok (.li 5 100) ∧
  decodeScalar 0b010101_00001_00011_00100_00000_10_0_010 = .ok (.cmp 1 3 4 2 0 2) ∧
  decodeScalar 0b000100_0001_0110_000000000000000101 = .ok (.bspl 1 6 5) ∧
  decodeScalar 0b100100_00000_00000_00000_00000000010 = .ok (.bar 2) ∧
  decodeScalar 0b100101_00000_01010_01011_00000000010 = .ok (.acqW 10 11) ∧
  decodeScalar 0b001000_00000_01000_00000_0001_0000001 = .ok (.yieldSeq 8 1) ∧
  decodeScalar 0b111100_00100_00000_0000000000010000 = .ok (.csrRd 4 0x010) ∧
  decodeScalar 0b000001_00000_00000_00000_00000000000 = .ok .nop ∧
  decodeScalar 0 = .error ⟨0, 0⟩ ∧ decodeScalar 0xFFFFFFFF = .error ⟨0, 0x3F⟩ ∧
  decodeLane 0b00100000_01001010_01010100_10000001_00011000_000_00001_000_1111_0_00000000_00000000000000000000000000000000 =
    .ok (.fadd ⟨0x4A, 0x54, 0x81, 0x18, 0, 1, 0, 15, 0, 0, 0⟩) ∧
  decodeLane 0b00000001_00000000_00000000_00000000_00000000_000_00000_000_0000_0_00000000_00000000000000000000001100000011 =
    .ok (.rep ⟨0, 0, 0, 0, 0, 0, 0, 0, 0, 0, 0x303⟩) ∧
  decodeLane 0b01010110_01000100_11000101_01000010_00011000_000_00001_000_1111_0_00000010_00000000000000000000000000010000 =
    .ok (.lds ⟨0x44, 0xC5, 0x42, 0x18, 0, 1, 0, 15, 0, 2, 16⟩)
end

