-- ==== Sys2Proof/Laws/Maps.lean ====
section
/-! SUPPORT. Laws of the sparse maps and of byte memories: a read after a write, what a write leaves alone, the canonical
form kept by every operation, little-endian numbers. -/

namespace Sys2Proof.Machine

variable {α : Type}

/-! ## Reads after updates -/

@[simp] theorem mapGet_nil (d : α) (k : Nat) : mapGet d [] k = d := rfl

theorem mapGet_mapErase_same (d : α) (m : List (Nat × α)) (k : Nat) : mapGet d (mapErase m k) k = d := by
  induction m with
  | nil => rfl
  | cons x rest ih =>
    obtain ⟨k', v⟩ := x
    by_cases h : k' = k
    · simpa [mapErase, h] using ih
    · simpa [mapErase, mapGet, h] using ih

theorem mapGet_mapErase_ne (d : α) (m : List (Nat × α)) {k j : Nat} (hjk : j ≠ k) :
    mapGet d (mapErase m k) j = mapGet d m j := by
  induction m with
  | nil => rfl
  | cons x rest ih =>
    obtain ⟨k', v⟩ := x
    by_cases h : k' = k
    · have hne : k' ≠ j := fun e => hjk (e.symm.trans h)
      simp only [mapErase, h, if_true, mapGet]
      rw [ih, if_neg (fun e => hjk e.symm)]
    · simp only [mapErase, h, if_false, mapGet, ih]

theorem mapGet_mapInsert_same (d : α) (m : List (Nat × α)) (k : Nat) (v : α) (hk : ∀ x ∈ m, x.1 ≠ k) :
    mapGet d (mapInsert m k v) k = v := by
  induction m with
  | nil => simp [mapInsert, mapGet]
  | cons x rest ih =>
    obtain ⟨k', w⟩ := x
    by_cases h : k < k'
    · simp [mapInsert, h, mapGet]
    · have hne : k' ≠ k := hk (k', w) (by simp)
      simp only [mapInsert, h, if_false, mapGet, hne]
      exact ih fun y hy => hk y (by simp [hy])

theorem mapGet_mapInsert_ne (d : α) (m : List (Nat × α)) {k j : Nat} (v : α) (hjk : j ≠ k) :
    mapGet d (mapInsert m k v) j = mapGet d m j := by
  induction m with
  | nil => simp [mapInsert, mapGet, Ne.symm hjk]
  | cons x rest ih =>
    obtain ⟨k', w⟩ := x
    by_cases h : k < k'
    · simp [mapInsert, h, mapGet, Ne.symm hjk]
    · simp only [mapInsert, h, if_false, mapGet, ih]

theorem mapErase_keys (m : List (Nat × α)) (k : Nat) : ∀ x ∈ mapErase m k, x.1 ≠ k := by
  induction m with
  | nil => simp [mapErase]
  | cons x rest ih =>
    obtain ⟨k', v⟩ := x
    by_cases h : k' = k
    · simpa [mapErase, h] using ih
    · intro y hy
      simp only [mapErase, h, if_false, List.mem_cons] at hy
      rcases hy with rfl | hy
      · exact h
      · exact ih y hy

variable [DecidableEq α]

@[simp] theorem mapGet_mapSet_same (d : α) (m : List (Nat × α)) (k : Nat) (v : α) :
    mapGet d (mapSet d m k v) k = v := by
  unfold mapSet
  split
  · next h => rw [mapGet_mapErase_same, h]
  · exact mapGet_mapInsert_same d _ k v (mapErase_keys m k)

theorem mapGet_mapSet_ne (d : α) (m : List (Nat × α)) {k j : Nat} (v : α) (hjk : j ≠ k) :
    mapGet d (mapSet d m k v) j = mapGet d m j := by
  unfold mapSet
  split
  · exact mapGet_mapErase_ne d m hjk
  · rw [mapGet_mapInsert_ne d _ v hjk, mapGet_mapErase_ne d m hjk]

theorem mapGet_mapSet (d : α) (m : List (Nat × α)) (k j : Nat) (v : α) :
    mapGet d (mapSet d m k v) j = if j = k then v else mapGet d m j := by
  split
  · next h => rw [h, mapGet_mapSet_same]
  · next h => exact mapGet_mapSet_ne d m v h

/-! ## The canonical form -/

theorem mapWfFrom_mono (d : α) {lo hi : Nat} (h : lo ≤ hi) (m : List (Nat × α)) (hm : mapWfFrom d hi m = true) :
    mapWfFrom d lo m = true := by
  cases m with
  | nil => rfl
  | cons x rest =>
    simp only [mapWfFrom, Bool.and_eq_true, decide_eq_true_eq] at hm ⊢
    exact ⟨⟨le_trans h hm.1.1, hm.1.2⟩, hm.2⟩

theorem mapWfFrom_filter (d : α) (p : Nat × α → Bool) (m : List (Nat × α)) :
    ∀ lo, mapWfFrom d lo m = true → mapWfFrom d lo (m.filter p) = true := by
  induction m with
  | nil => intro lo _; rfl
  | cons x rest ih =>
    intro lo h
    simp only [mapWfFrom, Bool.and_eq_true, decide_eq_true_eq] at h
    by_cases hp : p x
    · simp only [List.filter_cons, hp, if_true, mapWfFrom, Bool.and_eq_true, decide_eq_true_eq]
      exact ⟨h.1, ih _ h.2⟩
    · simp only [List.filter_cons, hp, Bool.false_eq_true, if_false]
      exact mapWfFrom_mono d (le_trans h.1.1 (Nat.le_succ _)) _ (ih _ h.2)

omit [DecidableEq α] in
theorem mapErase_eq_filter (m : List (Nat × α)) (k : Nat) : mapErase m k = m.filter fun x => decide (x.1 ≠ k) := by
  induction m with
  | nil => rfl
  | cons x rest ih =>
    obtain ⟨k', v⟩ := x
    by_cases h : k' = k <;> simp [mapErase, h, ih]

theorem mapWfFrom_insert (d : α) (k : Nat) (v : α) (hv : v ≠ d) (m : List (Nat × α)) :
    ∀ lo, lo ≤ k → (∀ x ∈ m, x.1 ≠ k) → mapWfFrom d lo m = true → mapWfFrom d lo (mapInsert m k v) = true := by
  induction m with
  | nil => intro lo hlo _ _; simp [mapInsert, mapWfFrom, hlo, hv]
  | cons x rest ih =>
    obtain ⟨k', w⟩ := x
    intro lo hlo hk hm
    simp only [mapWfFrom, Bool.and_eq_true, decide_eq_true_eq] at hm
    by_cases h : k < k'
    · simp only [mapInsert, h, if_true, mapWfFrom, Bool.and_eq_true, decide_eq_true_eq]
      exact ⟨⟨hlo, hv⟩, ⟨⟨h, hm.1.2⟩, hm.2⟩⟩
    · have hne : k' ≠ k := hk (k', w) (by simp)
      simp only [mapInsert, h, if_false, mapWfFrom, Bool.and_eq_true, decide_eq_true_eq]
      exact ⟨hm.1, ih (k' + 1) (by omega) (fun y hy => hk y (by simp [hy])) hm.2⟩

/-- Writing a map keeps its canonical form. -/
theorem mapWf_mapSet (d : α) (m : List (Nat × α)) (k : Nat) (v : α) (h : mapWf d m = true) :
    mapWf d (mapSet d m k v) = true := by
  have he : mapWf d (mapErase m k) = true := by
    rw [mapErase_eq_filter]; exact mapWfFrom_filter d _ m 0 h
  unfold mapSet
  split
  · exact he
  · next hv => exact mapWfFrom_insert d k v hv _ 0 (Nat.zero_le _) (mapErase_keys m k) he

/-- Taking entries out keeps the canonical form. -/
theorem mapWf_filter (d : α) (m : List (Nat × α)) (p : Nat × α → Bool) (h : mapWf d m = true) :
    mapWf d (m.filter p) = true := mapWfFrom_filter d p m 0 h

/-- Equal reads in the canonical form mean equal maps: an entry of one is listed in the other. -/
theorem mapGet_of_wfFrom_lt (d : α) (m : List (Nat × α)) :
    ∀ {lo k : Nat}, mapWfFrom d lo m = true → k < lo → mapGet d m k = d := by
  induction m with
  | nil => intros; rfl
  | cons x rest ih =>
    obtain ⟨k', v⟩ := x
    intro lo k h hk
    simp only [mapWfFrom, Bool.and_eq_true, decide_eq_true_eq] at h
    have hne : k' ≠ k := by omega
    simp only [mapGet, hne, if_false]
    exact ih h.2 (by omega)

/-- Two canonical maps that read alike everywhere are one list. -/
theorem mapWfFrom_ext (d : α) (m : List (Nat × α)) :
    ∀ {n : List (Nat × α)} {lo : Nat}, mapWfFrom d lo m = true → mapWfFrom d lo n = true →
      (∀ k, mapGet d m k = mapGet d n k) → m = n := by
  induction m with
  | nil =>
    intro n lo _ hn hg
    cases n with
    | nil => rfl
    | cons y rest =>
      simp only [mapWfFrom, Bool.and_eq_true, decide_eq_true_eq] at hn
      have := hg y.1
      simp only [mapGet, if_true] at this
      exact absurd this.symm hn.1.2
  | cons x rest ih =>
    obtain ⟨k, v⟩ := x
    intro n lo hm hn hg
    cases n with
    | nil =>
      simp only [mapWfFrom, Bool.and_eq_true, decide_eq_true_eq] at hm
      have := hg k
      simp only [mapGet, if_true] at this
      exact absurd this hm.1.2
    | cons y rest' =>
      obtain ⟨j, w⟩ := y
      simp only [mapWfFrom, Bool.and_eq_true, decide_eq_true_eq] at hm hn
      have hkj : k = j := by
        rcases Nat.lt_trichotomy k j with h | h | h
        · have := hg k
          simp only [mapGet, if_true, Nat.ne_of_gt h, if_false] at this
          rw [mapGet_of_wfFrom_lt d rest' hn.2 (by omega)] at this
          exact absurd this hm.1.2
        · exact h
        · have := hg j
          simp only [mapGet, if_true, Nat.ne_of_gt h, if_false] at this
          rw [mapGet_of_wfFrom_lt d rest hm.2 (by omega)] at this
          exact absurd this.symm hn.1.2
      subst hkj
      have hvw : v = w := by simpa [mapGet] using hg k
      subst hvw
      have : rest = rest' := ih hm.2 hn.2 fun i => by
        by_cases h : i = k
        · subst h
          rw [mapGet_of_wfFrom_lt d rest hm.2 (by omega), mapGet_of_wfFrom_lt d rest' hn.2 (by omega)]
        · have := hg i
          simpa [mapGet, Ne.symm h] using this
      rw [this]

/-! ## Byte memories -/

@[simp] theorem memGet_memSet_same (m : Memory) (a : Nat) (b : Byte) : memGet (memSet m a b) a = b :=
  mapGet_mapSet_same 0#8 m a b

theorem memGet_memSet_ne (m : Memory) {a c : Nat} (b : Byte) (h : c ≠ a) : memGet (memSet m a b) c = memGet m c :=
  mapGet_mapSet_ne 0#8 m b h

theorem memSet_wf (m : Memory) (a : Nat) (b : Byte) (h : m.wf) : (memSet m a b).wf := mapWf_mapSet 0#8 m a b h

/-- Writing bytes keeps the canonical form. -/
theorem memPut_wf (bs : List Byte) : ∀ (m : Memory) (a : Nat), m.wf → (memPut m a bs).wf := by
  induction bs with
  | nil => intro m a h; exact h
  | cons b rest ih => intro m a h; exact ih _ _ (memSet_wf m a b h)

theorem memPutNat_wf (m : Memory) (a n v : Nat) (h : m.wf) : (memPutNat m a n v).wf := memPut_wf _ m a h

/-- Zeroing a range keeps the canonical form. -/
theorem memZero_wf (m : Memory) (a n : Nat) (h : m.wf) : (memZero m a n).wf := mapWf_filter 0#8 m _ h

/-- A write leaves every byte outside its range alone. -/
theorem memGet_memPut_outside (bs : List Byte) :
    ∀ (m : Memory) (a c : Nat), (c < a ∨ a + bs.length ≤ c) → memGet (memPut m a bs) c = memGet m c := by
  induction bs with
  | nil => intros; rfl
  | cons b rest ih =>
    intro m a c h
    simp only [List.length_cons] at h
    rw [memPut, ih _ _ _ (by omega), memGet_memSet_ne m b (by omega)]

/-- A byte of the range reads as it was written. -/
theorem memGet_memPut_inside (bs : List Byte) :
    ∀ (m : Memory) (a i : Nat) (h : i < bs.length), memGet (memPut m a bs) (a + i) = bs[i] := by
  induction bs with
  | nil => intro m a i h; simp at h
  | cons b rest ih =>
    intro m a i h
    cases i with
    | zero =>
      rw [memPut, memGet_memPut_outside rest _ _ _ (by omega)]
      simp
    | succ j =>
      have hj : j < rest.length := by simpa using h
      have := ih (memSet m a b) (a + 1) j hj
      rw [memPut, show a + (j + 1) = a + 1 + j by omega, this]
      simp

theorem memBytes_length (m : Memory) (n : Nat) : ∀ a, (memBytes m a n).length = n := by
  induction n with
  | zero => intro a; rfl
  | succ k ih => intro a; simp [memBytes, ih]

theorem memBytes_getElem (m : Memory) (n : Nat) :
    ∀ (a i : Nat) (h : i < (memBytes m a n).length), (memBytes m a n)[i] = memGet m (a + i) := by
  induction n with
  | zero => intro a i h; simp [memBytes] at h
  | succ k ih =>
    intro a i h
    cases i with
    | zero => simp [memBytes]
    | succ j =>
      have hj : j < (memBytes m (a + 1) k).length := by simpa [memBytes] using h
      have := ih (a + 1) j hj
      simp only [memBytes, List.getElem_cons_succ, this]
      congr 1
      omega

/-- A read of a range gives back what was written to it. -/
theorem memBytes_memPut (m : Memory) (a : Nat) (bs : List Byte) : memBytes (memPut m a bs) a bs.length = bs := by
  apply List.ext_getElem
  · exact memBytes_length _ _ _
  · intro i h1 h2
    rw [memBytes_getElem, memGet_memPut_inside bs m a i h2]

/-- Reads of a range that a write does not touch. -/
theorem memBytes_memPut_outside (m : Memory) (a : Nat) (bs : List Byte) (n : Nat) :
    ∀ c, (c + n ≤ a ∨ a + bs.length ≤ c) → memBytes (memPut m a bs) c n = memBytes m c n := by
  induction n with
  | zero => intros; rfl
  | succ k ih =>
    intro c h
    rw [memBytes, memBytes, memGet_memPut_outside bs m a c (by omega), ih (c + 1) (by omega)]

/-! ## Little-endian numbers -/

theorem leBytes_length (n : Nat) : ∀ v, (leBytes n v).length = n := by
  induction n with
  | zero => intro v; rfl
  | succ k ih => intro v; simp [leBytes, ih]

theorem leNat_leBytes (n : Nat) : ∀ v, leNat (leBytes n v) = v % 256 ^ n := by
  induction n with
  | zero => intro v; simp [leBytes, leNat, Nat.mod_one]
  | succ k ih =>
    intro v
    rw [leBytes, leNat, ih, BitVec.toNat_ofNat, pow_succ' 256 k, Nat.mod_mul]

/-- A number written is read back modulo the range's size. -/
theorem memNat_memPutNat (m : Memory) (a n v : Nat) : memNat (memPutNat m a n v) a n = v % 256 ^ n := by
  unfold memNat memPutNat
  conv_lhs => rw [show n = (leBytes n v).length from (leBytes_length n v).symm]
  rw [leBytes_length, show memBytes (memPut m a (leBytes n v)) a n = leBytes n v from ?_, leNat_leBytes]
  have := memBytes_memPut m a (leBytes n v)
  rwa [leBytes_length] at this

/-- Numbers whose range a write does not touch. -/
theorem memNat_memPutNat_outside (m : Memory) (a n v c k : Nat) (h : c + k ≤ a ∨ a + n ≤ c) :
    memNat (memPutNat m a n v) c k = memNat m c k := by
  unfold memNat memPutNat
  rw [memBytes_memPut_outside m a _ k c (by rw [leBytes_length]; exact h)]

/-! ## Lists changed at a place -/

theorem listModify_length {β : Type} (f : β → β) (l : List β) : ∀ i, (listModify f l i).length = l.length := by
  induction l with
  | nil => intro i; rfl
  | cons x rest ih =>
    intro i
    cases i with
    | zero => rfl
    | succ j => simp [listModify, ih]

end Sys2Proof.Machine
end

