-- ==== Sys2Proof/Laws/State.lean ====
section
/-! SUPPORT. Laws of the state: what each update leaves as it is, one lemma per field, and the reads of what it writes. -/

namespace Sys2Proof.Machine

/-! ## State.setCrewAt -/

@[simp] theorem State.setCrewAt_cur (s : State) (n : Nat) (c : Crew) : (s.setCrewAt n c).cur = s.cur := rfl
@[simp] theorem State.setCrewAt_curSplit (s : State) (n : Nat) (c : Crew) : (s.setCrewAt n c).curSplit = s.curSplit := rfl
@[simp] theorem State.setCrewAt_launches (s : State) (n : Nat) (c : Crew) : (s.setCrewAt n c).launches = s.launches := rfl
@[simp] theorem State.setCrewAt_jobs (s : State) (n : Nat) (c : Crew) : (s.setCrewAt n c).jobs = s.jobs := rfl
@[simp] theorem State.setCrewAt_mem (s : State) (n : Nat) (c : Crew) : (s.setCrewAt n c).mem = s.mem := rfl
@[simp] theorem State.setCrewAt_objs (s : State) (n : Nat) (c : Crew) : (s.setCrewAt n c).objs = s.objs := rfl
@[simp] theorem State.setCrewAt_cores (s : State) (n : Nat) (c : Crew) : (s.setCrewAt n c).cores = s.cores := rfl
@[simp] theorem State.setCrewAt_qsets (s : State) (n : Nat) (c : Crew) : (s.setCrewAt n c).qsets = s.qsets := rfl
@[simp] theorem State.setCrewAt_phases (s : State) (n : Nat) (c : Crew) : (s.setCrewAt n c).phases = s.phases := rfl
@[simp] theorem State.setCrewAt_parts (s : State) (n : Nat) (c : Crew) : (s.setCrewAt n c).parts = s.parts := rfl
@[simp] theorem State.setCrewAt_graphs (s : State) (n : Nat) (c : Crew) : (s.setCrewAt n c).graphs = s.graphs := rfl
@[simp] theorem State.setCrewAt_dies (s : State) (n : Nat) (c : Crew) : (s.setCrewAt n c).dies = s.dies := rfl
@[simp] theorem State.setCrewAt_tlb (s : State) (n : Nat) (c : Crew) : (s.setCrewAt n c).tlb = s.tlb := rfl
@[simp] theorem State.setCrewAt_walks (s : State) (n : Nat) (c : Crew) : (s.setCrewAt n c).walks = s.walks := rfl
@[simp] theorem State.setCrewAt_fabric (s : State) (n : Nat) (c : Crew) : (s.setCrewAt n c).fabric = s.fabric := rfl
@[simp] theorem State.setCrewAt_heat (s : State) (n : Nat) (c : Crew) : (s.setCrewAt n c).heat = s.heat := rfl
@[simp] theorem State.setCrewAt_ckpt (s : State) (n : Nat) (c : Crew) : (s.setCrewAt n c).ckpt = s.ckpt := rfl
@[simp] theorem State.setCrewAt_boot (s : State) (n : Nat) (c : Crew) : (s.setCrewAt n c).boot = s.boot := rfl
@[simp] theorem State.setCrewAt_nextUid (s : State) (n : Nat) (c : Crew) : (s.setCrewAt n c).nextUid = s.nextUid := rfl
@[simp] theorem State.setCrewAt_agenda (s : State) (n : Nat) (c : Crew) : (s.setCrewAt n c).agenda = s.agenda := rfl
@[simp] theorem State.setCrewAt_steps (s : State) (n : Nat) (c : Crew) : (s.setCrewAt n c).steps = s.steps := rfl
@[simp] theorem State.setCrewAt_choices (s : State) (n : Nat) (c : Crew) : (s.setCrewAt n c).choices = s.choices := rfl

/-! ## State.setCrew -/

@[simp] theorem State.setCrew_cur (s : State) (c : Crew) : (s.setCrew c).cur = s.cur := rfl
@[simp] theorem State.setCrew_curSplit (s : State) (c : Crew) : (s.setCrew c).curSplit = s.curSplit := rfl
@[simp] theorem State.setCrew_launches (s : State) (c : Crew) : (s.setCrew c).launches = s.launches := rfl
@[simp] theorem State.setCrew_jobs (s : State) (c : Crew) : (s.setCrew c).jobs = s.jobs := rfl
@[simp] theorem State.setCrew_mem (s : State) (c : Crew) : (s.setCrew c).mem = s.mem := rfl
@[simp] theorem State.setCrew_objs (s : State) (c : Crew) : (s.setCrew c).objs = s.objs := rfl
@[simp] theorem State.setCrew_cores (s : State) (c : Crew) : (s.setCrew c).cores = s.cores := rfl
@[simp] theorem State.setCrew_qsets (s : State) (c : Crew) : (s.setCrew c).qsets = s.qsets := rfl
@[simp] theorem State.setCrew_phases (s : State) (c : Crew) : (s.setCrew c).phases = s.phases := rfl
@[simp] theorem State.setCrew_parts (s : State) (c : Crew) : (s.setCrew c).parts = s.parts := rfl
@[simp] theorem State.setCrew_graphs (s : State) (c : Crew) : (s.setCrew c).graphs = s.graphs := rfl
@[simp] theorem State.setCrew_dies (s : State) (c : Crew) : (s.setCrew c).dies = s.dies := rfl
@[simp] theorem State.setCrew_tlb (s : State) (c : Crew) : (s.setCrew c).tlb = s.tlb := rfl
@[simp] theorem State.setCrew_walks (s : State) (c : Crew) : (s.setCrew c).walks = s.walks := rfl
@[simp] theorem State.setCrew_fabric (s : State) (c : Crew) : (s.setCrew c).fabric = s.fabric := rfl
@[simp] theorem State.setCrew_heat (s : State) (c : Crew) : (s.setCrew c).heat = s.heat := rfl
@[simp] theorem State.setCrew_ckpt (s : State) (c : Crew) : (s.setCrew c).ckpt = s.ckpt := rfl
@[simp] theorem State.setCrew_boot (s : State) (c : Crew) : (s.setCrew c).boot = s.boot := rfl
@[simp] theorem State.setCrew_nextUid (s : State) (c : Crew) : (s.setCrew c).nextUid = s.nextUid := rfl
@[simp] theorem State.setCrew_agenda (s : State) (c : Crew) : (s.setCrew c).agenda = s.agenda := rfl
@[simp] theorem State.setCrew_steps (s : State) (c : Crew) : (s.setCrew c).steps = s.steps := rfl
@[simp] theorem State.setCrew_choices (s : State) (c : Crew) : (s.setCrew c).choices = s.choices := rfl

/-! ## State.updCrew -/

@[simp] theorem State.updCrew_cur (s : State) (f : Crew → Crew) : (s.updCrew f).cur = s.cur := rfl
@[simp] theorem State.updCrew_curSplit (s : State) (f : Crew → Crew) : (s.updCrew f).curSplit = s.curSplit := rfl
@[simp] theorem State.updCrew_launches (s : State) (f : Crew → Crew) : (s.updCrew f).launches = s.launches := rfl
@[simp] theorem State.updCrew_jobs (s : State) (f : Crew → Crew) : (s.updCrew f).jobs = s.jobs := rfl
@[simp] theorem State.updCrew_mem (s : State) (f : Crew → Crew) : (s.updCrew f).mem = s.mem := rfl
@[simp] theorem State.updCrew_objs (s : State) (f : Crew → Crew) : (s.updCrew f).objs = s.objs := rfl
@[simp] theorem State.updCrew_cores (s : State) (f : Crew → Crew) : (s.updCrew f).cores = s.cores := rfl
@[simp] theorem State.updCrew_qsets (s : State) (f : Crew → Crew) : (s.updCrew f).qsets = s.qsets := rfl
@[simp] theorem State.updCrew_phases (s : State) (f : Crew → Crew) : (s.updCrew f).phases = s.phases := rfl
@[simp] theorem State.updCrew_parts (s : State) (f : Crew → Crew) : (s.updCrew f).parts = s.parts := rfl
@[simp] theorem State.updCrew_graphs (s : State) (f : Crew → Crew) : (s.updCrew f).graphs = s.graphs := rfl
@[simp] theorem State.updCrew_dies (s : State) (f : Crew → Crew) : (s.updCrew f).dies = s.dies := rfl
@[simp] theorem State.updCrew_tlb (s : State) (f : Crew → Crew) : (s.updCrew f).tlb = s.tlb := rfl
@[simp] theorem State.updCrew_walks (s : State) (f : Crew → Crew) : (s.updCrew f).walks = s.walks := rfl
@[simp] theorem State.updCrew_fabric (s : State) (f : Crew → Crew) : (s.updCrew f).fabric = s.fabric := rfl
@[simp] theorem State.updCrew_heat (s : State) (f : Crew → Crew) : (s.updCrew f).heat = s.heat := rfl
@[simp] theorem State.updCrew_ckpt (s : State) (f : Crew → Crew) : (s.updCrew f).ckpt = s.ckpt := rfl
@[simp] theorem State.updCrew_boot (s : State) (f : Crew → Crew) : (s.updCrew f).boot = s.boot := rfl
@[simp] theorem State.updCrew_nextUid (s : State) (f : Crew → Crew) : (s.updCrew f).nextUid = s.nextUid := rfl
@[simp] theorem State.updCrew_agenda (s : State) (f : Crew → Crew) : (s.updCrew f).agenda = s.agenda := rfl
@[simp] theorem State.updCrew_steps (s : State) (f : Crew → Crew) : (s.updCrew f).steps = s.steps := rfl
@[simp] theorem State.updCrew_choices (s : State) (f : Crew → Crew) : (s.updCrew f).choices = s.choices := rfl

/-! ## State.updSplit -/

@[simp] theorem State.updSplit_cur (s : State) (f : Split → Split) : (s.updSplit f).cur = s.cur := rfl
@[simp] theorem State.updSplit_curSplit (s : State) (f : Split → Split) : (s.updSplit f).curSplit = s.curSplit := rfl
@[simp] theorem State.updSplit_launches (s : State) (f : Split → Split) : (s.updSplit f).launches = s.launches := rfl
@[simp] theorem State.updSplit_jobs (s : State) (f : Split → Split) : (s.updSplit f).jobs = s.jobs := rfl
@[simp] theorem State.updSplit_mem (s : State) (f : Split → Split) : (s.updSplit f).mem = s.mem := rfl
@[simp] theorem State.updSplit_objs (s : State) (f : Split → Split) : (s.updSplit f).objs = s.objs := rfl
@[simp] theorem State.updSplit_cores (s : State) (f : Split → Split) : (s.updSplit f).cores = s.cores := rfl
@[simp] theorem State.updSplit_qsets (s : State) (f : Split → Split) : (s.updSplit f).qsets = s.qsets := rfl
@[simp] theorem State.updSplit_phases (s : State) (f : Split → Split) : (s.updSplit f).phases = s.phases := rfl
@[simp] theorem State.updSplit_parts (s : State) (f : Split → Split) : (s.updSplit f).parts = s.parts := rfl
@[simp] theorem State.updSplit_graphs (s : State) (f : Split → Split) : (s.updSplit f).graphs = s.graphs := rfl
@[simp] theorem State.updSplit_dies (s : State) (f : Split → Split) : (s.updSplit f).dies = s.dies := rfl
@[simp] theorem State.updSplit_tlb (s : State) (f : Split → Split) : (s.updSplit f).tlb = s.tlb := rfl
@[simp] theorem State.updSplit_walks (s : State) (f : Split → Split) : (s.updSplit f).walks = s.walks := rfl
@[simp] theorem State.updSplit_fabric (s : State) (f : Split → Split) : (s.updSplit f).fabric = s.fabric := rfl
@[simp] theorem State.updSplit_heat (s : State) (f : Split → Split) : (s.updSplit f).heat = s.heat := rfl
@[simp] theorem State.updSplit_ckpt (s : State) (f : Split → Split) : (s.updSplit f).ckpt = s.ckpt := rfl
@[simp] theorem State.updSplit_boot (s : State) (f : Split → Split) : (s.updSplit f).boot = s.boot := rfl
@[simp] theorem State.updSplit_nextUid (s : State) (f : Split → Split) : (s.updSplit f).nextUid = s.nextUid := rfl
@[simp] theorem State.updSplit_agenda (s : State) (f : Split → Split) : (s.updSplit f).agenda = s.agenda := rfl
@[simp] theorem State.updSplit_steps (s : State) (f : Split → Split) : (s.updSplit f).steps = s.steps := rfl
@[simp] theorem State.updSplit_choices (s : State) (f : Split → Split) : (s.updSplit f).choices = s.choices := rfl

/-! ## State.setSreg -/

@[simp] theorem State.setSreg_cur (s : State) (r : RegNo) (v : Word) : (s.setSreg r v).cur = s.cur := rfl
@[simp] theorem State.setSreg_curSplit (s : State) (r : RegNo) (v : Word) : (s.setSreg r v).curSplit = s.curSplit := rfl
@[simp] theorem State.setSreg_launches (s : State) (r : RegNo) (v : Word) : (s.setSreg r v).launches = s.launches := rfl
@[simp] theorem State.setSreg_jobs (s : State) (r : RegNo) (v : Word) : (s.setSreg r v).jobs = s.jobs := rfl
@[simp] theorem State.setSreg_mem (s : State) (r : RegNo) (v : Word) : (s.setSreg r v).mem = s.mem := rfl
@[simp] theorem State.setSreg_objs (s : State) (r : RegNo) (v : Word) : (s.setSreg r v).objs = s.objs := rfl
@[simp] theorem State.setSreg_cores (s : State) (r : RegNo) (v : Word) : (s.setSreg r v).cores = s.cores := rfl
@[simp] theorem State.setSreg_qsets (s : State) (r : RegNo) (v : Word) : (s.setSreg r v).qsets = s.qsets := rfl
@[simp] theorem State.setSreg_phases (s : State) (r : RegNo) (v : Word) : (s.setSreg r v).phases = s.phases := rfl
@[simp] theorem State.setSreg_parts (s : State) (r : RegNo) (v : Word) : (s.setSreg r v).parts = s.parts := rfl
@[simp] theorem State.setSreg_graphs (s : State) (r : RegNo) (v : Word) : (s.setSreg r v).graphs = s.graphs := rfl
@[simp] theorem State.setSreg_dies (s : State) (r : RegNo) (v : Word) : (s.setSreg r v).dies = s.dies := rfl
@[simp] theorem State.setSreg_tlb (s : State) (r : RegNo) (v : Word) : (s.setSreg r v).tlb = s.tlb := rfl
@[simp] theorem State.setSreg_walks (s : State) (r : RegNo) (v : Word) : (s.setSreg r v).walks = s.walks := rfl
@[simp] theorem State.setSreg_fabric (s : State) (r : RegNo) (v : Word) : (s.setSreg r v).fabric = s.fabric := rfl
@[simp] theorem State.setSreg_heat (s : State) (r : RegNo) (v : Word) : (s.setSreg r v).heat = s.heat := rfl
@[simp] theorem State.setSreg_ckpt (s : State) (r : RegNo) (v : Word) : (s.setSreg r v).ckpt = s.ckpt := rfl
@[simp] theorem State.setSreg_boot (s : State) (r : RegNo) (v : Word) : (s.setSreg r v).boot = s.boot := rfl
@[simp] theorem State.setSreg_nextUid (s : State) (r : RegNo) (v : Word) : (s.setSreg r v).nextUid = s.nextUid := rfl
@[simp] theorem State.setSreg_agenda (s : State) (r : RegNo) (v : Word) : (s.setSreg r v).agenda = s.agenda := rfl
@[simp] theorem State.setSreg_steps (s : State) (r : RegNo) (v : Word) : (s.setSreg r v).steps = s.steps := rfl
@[simp] theorem State.setSreg_choices (s : State) (r : RegNo) (v : Word) : (s.setSreg r v).choices = s.choices := rfl

/-! ## State.setSpair -/

@[simp] theorem State.setSpair_cur (s : State) (r : RegNo) (v : DWord) : (s.setSpair r v).cur = s.cur := rfl
@[simp] theorem State.setSpair_curSplit (s : State) (r : RegNo) (v : DWord) : (s.setSpair r v).curSplit = s.curSplit := rfl
@[simp] theorem State.setSpair_launches (s : State) (r : RegNo) (v : DWord) : (s.setSpair r v).launches = s.launches := rfl
@[simp] theorem State.setSpair_jobs (s : State) (r : RegNo) (v : DWord) : (s.setSpair r v).jobs = s.jobs := rfl
@[simp] theorem State.setSpair_mem (s : State) (r : RegNo) (v : DWord) : (s.setSpair r v).mem = s.mem := rfl
@[simp] theorem State.setSpair_objs (s : State) (r : RegNo) (v : DWord) : (s.setSpair r v).objs = s.objs := rfl
@[simp] theorem State.setSpair_cores (s : State) (r : RegNo) (v : DWord) : (s.setSpair r v).cores = s.cores := rfl
@[simp] theorem State.setSpair_qsets (s : State) (r : RegNo) (v : DWord) : (s.setSpair r v).qsets = s.qsets := rfl
@[simp] theorem State.setSpair_phases (s : State) (r : RegNo) (v : DWord) : (s.setSpair r v).phases = s.phases := rfl
@[simp] theorem State.setSpair_parts (s : State) (r : RegNo) (v : DWord) : (s.setSpair r v).parts = s.parts := rfl
@[simp] theorem State.setSpair_graphs (s : State) (r : RegNo) (v : DWord) : (s.setSpair r v).graphs = s.graphs := rfl
@[simp] theorem State.setSpair_dies (s : State) (r : RegNo) (v : DWord) : (s.setSpair r v).dies = s.dies := rfl
@[simp] theorem State.setSpair_tlb (s : State) (r : RegNo) (v : DWord) : (s.setSpair r v).tlb = s.tlb := rfl
@[simp] theorem State.setSpair_walks (s : State) (r : RegNo) (v : DWord) : (s.setSpair r v).walks = s.walks := rfl
@[simp] theorem State.setSpair_fabric (s : State) (r : RegNo) (v : DWord) : (s.setSpair r v).fabric = s.fabric := rfl
@[simp] theorem State.setSpair_heat (s : State) (r : RegNo) (v : DWord) : (s.setSpair r v).heat = s.heat := rfl
@[simp] theorem State.setSpair_ckpt (s : State) (r : RegNo) (v : DWord) : (s.setSpair r v).ckpt = s.ckpt := rfl
@[simp] theorem State.setSpair_boot (s : State) (r : RegNo) (v : DWord) : (s.setSpair r v).boot = s.boot := rfl
@[simp] theorem State.setSpair_nextUid (s : State) (r : RegNo) (v : DWord) : (s.setSpair r v).nextUid = s.nextUid := rfl
@[simp] theorem State.setSpair_agenda (s : State) (r : RegNo) (v : DWord) : (s.setSpair r v).agenda = s.agenda := rfl
@[simp] theorem State.setSpair_steps (s : State) (r : RegNo) (v : DWord) : (s.setSpair r v).steps = s.steps := rfl
@[simp] theorem State.setSpair_choices (s : State) (r : RegNo) (v : DWord) : (s.setSpair r v).choices = s.choices := rfl

/-! ## State.jump -/

@[simp] theorem State.jump_cur (s : State) (n : Nat) : (s.jump n).cur = s.cur := rfl
@[simp] theorem State.jump_curSplit (s : State) (n : Nat) : (s.jump n).curSplit = s.curSplit := rfl
@[simp] theorem State.jump_launches (s : State) (n : Nat) : (s.jump n).launches = s.launches := rfl
@[simp] theorem State.jump_jobs (s : State) (n : Nat) : (s.jump n).jobs = s.jobs := rfl
@[simp] theorem State.jump_mem (s : State) (n : Nat) : (s.jump n).mem = s.mem := rfl
@[simp] theorem State.jump_objs (s : State) (n : Nat) : (s.jump n).objs = s.objs := rfl
@[simp] theorem State.jump_cores (s : State) (n : Nat) : (s.jump n).cores = s.cores := rfl
@[simp] theorem State.jump_qsets (s : State) (n : Nat) : (s.jump n).qsets = s.qsets := rfl
@[simp] theorem State.jump_phases (s : State) (n : Nat) : (s.jump n).phases = s.phases := rfl
@[simp] theorem State.jump_parts (s : State) (n : Nat) : (s.jump n).parts = s.parts := rfl
@[simp] theorem State.jump_graphs (s : State) (n : Nat) : (s.jump n).graphs = s.graphs := rfl
@[simp] theorem State.jump_dies (s : State) (n : Nat) : (s.jump n).dies = s.dies := rfl
@[simp] theorem State.jump_tlb (s : State) (n : Nat) : (s.jump n).tlb = s.tlb := rfl
@[simp] theorem State.jump_walks (s : State) (n : Nat) : (s.jump n).walks = s.walks := rfl
@[simp] theorem State.jump_fabric (s : State) (n : Nat) : (s.jump n).fabric = s.fabric := rfl
@[simp] theorem State.jump_heat (s : State) (n : Nat) : (s.jump n).heat = s.heat := rfl
@[simp] theorem State.jump_ckpt (s : State) (n : Nat) : (s.jump n).ckpt = s.ckpt := rfl
@[simp] theorem State.jump_boot (s : State) (n : Nat) : (s.jump n).boot = s.boot := rfl
@[simp] theorem State.jump_nextUid (s : State) (n : Nat) : (s.jump n).nextUid = s.nextUid := rfl
@[simp] theorem State.jump_agenda (s : State) (n : Nat) : (s.jump n).agenda = s.agenda := rfl
@[simp] theorem State.jump_steps (s : State) (n : Nat) : (s.jump n).steps = s.steps := rfl
@[simp] theorem State.jump_choices (s : State) (n : Nat) : (s.jump n).choices = s.choices := rfl

/-! ## State.done -/

@[simp] theorem State.done_cur (s : State) : (s.done).cur = s.cur := rfl
@[simp] theorem State.done_curSplit (s : State) : (s.done).curSplit = s.curSplit := rfl
@[simp] theorem State.done_launches (s : State) : (s.done).launches = s.launches := rfl
@[simp] theorem State.done_jobs (s : State) : (s.done).jobs = s.jobs := rfl
@[simp] theorem State.done_mem (s : State) : (s.done).mem = s.mem := rfl
@[simp] theorem State.done_objs (s : State) : (s.done).objs = s.objs := rfl
@[simp] theorem State.done_cores (s : State) : (s.done).cores = s.cores := rfl
@[simp] theorem State.done_qsets (s : State) : (s.done).qsets = s.qsets := rfl
@[simp] theorem State.done_phases (s : State) : (s.done).phases = s.phases := rfl
@[simp] theorem State.done_parts (s : State) : (s.done).parts = s.parts := rfl
@[simp] theorem State.done_graphs (s : State) : (s.done).graphs = s.graphs := rfl
@[simp] theorem State.done_dies (s : State) : (s.done).dies = s.dies := rfl
@[simp] theorem State.done_tlb (s : State) : (s.done).tlb = s.tlb := rfl
@[simp] theorem State.done_walks (s : State) : (s.done).walks = s.walks := rfl
@[simp] theorem State.done_fabric (s : State) : (s.done).fabric = s.fabric := rfl
@[simp] theorem State.done_heat (s : State) : (s.done).heat = s.heat := rfl
@[simp] theorem State.done_ckpt (s : State) : (s.done).ckpt = s.ckpt := rfl
@[simp] theorem State.done_boot (s : State) : (s.done).boot = s.boot := rfl
@[simp] theorem State.done_nextUid (s : State) : (s.done).nextUid = s.nextUid := rfl
@[simp] theorem State.done_agenda (s : State) : (s.done).agenda = s.agenda := rfl
@[simp] theorem State.done_steps (s : State) : (s.done).steps = s.steps := rfl
@[simp] theorem State.done_choices (s : State) : (s.done).choices = s.choices := rfl

/-! ## State.stay -/

@[simp] theorem State.stay_cur (s : State) (w : Wait) : (s.stay w).cur = s.cur := rfl
@[simp] theorem State.stay_curSplit (s : State) (w : Wait) : (s.stay w).curSplit = s.curSplit := rfl
@[simp] theorem State.stay_launches (s : State) (w : Wait) : (s.stay w).launches = s.launches := rfl
@[simp] theorem State.stay_jobs (s : State) (w : Wait) : (s.stay w).jobs = s.jobs := rfl
@[simp] theorem State.stay_mem (s : State) (w : Wait) : (s.stay w).mem = s.mem := rfl
@[simp] theorem State.stay_objs (s : State) (w : Wait) : (s.stay w).objs = s.objs := rfl
@[simp] theorem State.stay_cores (s : State) (w : Wait) : (s.stay w).cores = s.cores := rfl
@[simp] theorem State.stay_qsets (s : State) (w : Wait) : (s.stay w).qsets = s.qsets := rfl
@[simp] theorem State.stay_phases (s : State) (w : Wait) : (s.stay w).phases = s.phases := rfl
@[simp] theorem State.stay_parts (s : State) (w : Wait) : (s.stay w).parts = s.parts := rfl
@[simp] theorem State.stay_graphs (s : State) (w : Wait) : (s.stay w).graphs = s.graphs := rfl
@[simp] theorem State.stay_dies (s : State) (w : Wait) : (s.stay w).dies = s.dies := rfl
@[simp] theorem State.stay_tlb (s : State) (w : Wait) : (s.stay w).tlb = s.tlb := rfl
@[simp] theorem State.stay_walks (s : State) (w : Wait) : (s.stay w).walks = s.walks := rfl
@[simp] theorem State.stay_fabric (s : State) (w : Wait) : (s.stay w).fabric = s.fabric := rfl
@[simp] theorem State.stay_heat (s : State) (w : Wait) : (s.stay w).heat = s.heat := rfl
@[simp] theorem State.stay_ckpt (s : State) (w : Wait) : (s.stay w).ckpt = s.ckpt := rfl
@[simp] theorem State.stay_boot (s : State) (w : Wait) : (s.stay w).boot = s.boot := rfl
@[simp] theorem State.stay_nextUid (s : State) (w : Wait) : (s.stay w).nextUid = s.nextUid := rfl
@[simp] theorem State.stay_agenda (s : State) (w : Wait) : (s.stay w).agenda = s.agenda := rfl
@[simp] theorem State.stay_steps (s : State) (w : Wait) : (s.stay w).steps = s.steps := rfl
@[simp] theorem State.stay_choices (s : State) (w : Wait) : (s.stay w).choices = s.choices := rfl

/-! ## State.write -/

@[simp] theorem State.write_cur (s : State) (d : RegNo) (v : Word) : (s.write d v).cur = s.cur := rfl
@[simp] theorem State.write_curSplit (s : State) (d : RegNo) (v : Word) : (s.write d v).curSplit = s.curSplit := rfl
@[simp] theorem State.write_launches (s : State) (d : RegNo) (v : Word) : (s.write d v).launches = s.launches := rfl
@[simp] theorem State.write_jobs (s : State) (d : RegNo) (v : Word) : (s.write d v).jobs = s.jobs := rfl
@[simp] theorem State.write_mem (s : State) (d : RegNo) (v : Word) : (s.write d v).mem = s.mem := rfl
@[simp] theorem State.write_objs (s : State) (d : RegNo) (v : Word) : (s.write d v).objs = s.objs := rfl
@[simp] theorem State.write_cores (s : State) (d : RegNo) (v : Word) : (s.write d v).cores = s.cores := rfl
@[simp] theorem State.write_qsets (s : State) (d : RegNo) (v : Word) : (s.write d v).qsets = s.qsets := rfl
@[simp] theorem State.write_phases (s : State) (d : RegNo) (v : Word) : (s.write d v).phases = s.phases := rfl
@[simp] theorem State.write_parts (s : State) (d : RegNo) (v : Word) : (s.write d v).parts = s.parts := rfl
@[simp] theorem State.write_graphs (s : State) (d : RegNo) (v : Word) : (s.write d v).graphs = s.graphs := rfl
@[simp] theorem State.write_dies (s : State) (d : RegNo) (v : Word) : (s.write d v).dies = s.dies := rfl
@[simp] theorem State.write_tlb (s : State) (d : RegNo) (v : Word) : (s.write d v).tlb = s.tlb := rfl
@[simp] theorem State.write_walks (s : State) (d : RegNo) (v : Word) : (s.write d v).walks = s.walks := rfl
@[simp] theorem State.write_fabric (s : State) (d : RegNo) (v : Word) : (s.write d v).fabric = s.fabric := rfl
@[simp] theorem State.write_heat (s : State) (d : RegNo) (v : Word) : (s.write d v).heat = s.heat := rfl
@[simp] theorem State.write_ckpt (s : State) (d : RegNo) (v : Word) : (s.write d v).ckpt = s.ckpt := rfl
@[simp] theorem State.write_boot (s : State) (d : RegNo) (v : Word) : (s.write d v).boot = s.boot := rfl
@[simp] theorem State.write_nextUid (s : State) (d : RegNo) (v : Word) : (s.write d v).nextUid = s.nextUid := rfl
@[simp] theorem State.write_agenda (s : State) (d : RegNo) (v : Word) : (s.write d v).agenda = s.agenda := rfl
@[simp] theorem State.write_steps (s : State) (d : RegNo) (v : Word) : (s.write d v).steps = s.steps := rfl
@[simp] theorem State.write_choices (s : State) (d : RegNo) (v : Word) : (s.write d v).choices = s.choices := rfl

/-! ## State.updCore -/

@[simp] theorem State.updCore_cur (s : State) (n : Nat) (f : Core → Core) : (s.updCore n f).cur = s.cur := rfl
@[simp] theorem State.updCore_curSplit (s : State) (n : Nat) (f : Core → Core) : (s.updCore n f).curSplit = s.curSplit := rfl
@[simp] theorem State.updCore_crews (s : State) (n : Nat) (f : Core → Core) : (s.updCore n f).crews = s.crews := rfl
@[simp] theorem State.updCore_launches (s : State) (n : Nat) (f : Core → Core) : (s.updCore n f).launches = s.launches := rfl
@[simp] theorem State.updCore_jobs (s : State) (n : Nat) (f : Core → Core) : (s.updCore n f).jobs = s.jobs := rfl
@[simp] theorem State.updCore_mem (s : State) (n : Nat) (f : Core → Core) : (s.updCore n f).mem = s.mem := rfl
@[simp] theorem State.updCore_objs (s : State) (n : Nat) (f : Core → Core) : (s.updCore n f).objs = s.objs := rfl
@[simp] theorem State.updCore_qsets (s : State) (n : Nat) (f : Core → Core) : (s.updCore n f).qsets = s.qsets := rfl
@[simp] theorem State.updCore_phases (s : State) (n : Nat) (f : Core → Core) : (s.updCore n f).phases = s.phases := rfl
@[simp] theorem State.updCore_parts (s : State) (n : Nat) (f : Core → Core) : (s.updCore n f).parts = s.parts := rfl
@[simp] theorem State.updCore_graphs (s : State) (n : Nat) (f : Core → Core) : (s.updCore n f).graphs = s.graphs := rfl
@[simp] theorem State.updCore_dies (s : State) (n : Nat) (f : Core → Core) : (s.updCore n f).dies = s.dies := rfl
@[simp] theorem State.updCore_tlb (s : State) (n : Nat) (f : Core → Core) : (s.updCore n f).tlb = s.tlb := rfl
@[simp] theorem State.updCore_walks (s : State) (n : Nat) (f : Core → Core) : (s.updCore n f).walks = s.walks := rfl
@[simp] theorem State.updCore_fabric (s : State) (n : Nat) (f : Core → Core) : (s.updCore n f).fabric = s.fabric := rfl
@[simp] theorem State.updCore_heat (s : State) (n : Nat) (f : Core → Core) : (s.updCore n f).heat = s.heat := rfl
@[simp] theorem State.updCore_ckpt (s : State) (n : Nat) (f : Core → Core) : (s.updCore n f).ckpt = s.ckpt := rfl
@[simp] theorem State.updCore_boot (s : State) (n : Nat) (f : Core → Core) : (s.updCore n f).boot = s.boot := rfl
@[simp] theorem State.updCore_nextUid (s : State) (n : Nat) (f : Core → Core) : (s.updCore n f).nextUid = s.nextUid := rfl
@[simp] theorem State.updCore_agenda (s : State) (n : Nat) (f : Core → Core) : (s.updCore n f).agenda = s.agenda := rfl
@[simp] theorem State.updCore_steps (s : State) (n : Nat) (f : Core → Core) : (s.updCore n f).steps = s.steps := rfl
@[simp] theorem State.updCore_choices (s : State) (n : Nat) (f : Core → Core) : (s.updCore n f).choices = s.choices := rfl

/-! ## State.updJob -/

@[simp] theorem State.updJob_cur (s : State) (n : Nat) (f : Job → Job) : (s.updJob n f).cur = s.cur := rfl
@[simp] theorem State.updJob_curSplit (s : State) (n : Nat) (f : Job → Job) : (s.updJob n f).curSplit = s.curSplit := rfl
@[simp] theorem State.updJob_crews (s : State) (n : Nat) (f : Job → Job) : (s.updJob n f).crews = s.crews := rfl
@[simp] theorem State.updJob_launches (s : State) (n : Nat) (f : Job → Job) : (s.updJob n f).launches = s.launches := rfl
@[simp] theorem State.updJob_mem (s : State) (n : Nat) (f : Job → Job) : (s.updJob n f).mem = s.mem := rfl
@[simp] theorem State.updJob_objs (s : State) (n : Nat) (f : Job → Job) : (s.updJob n f).objs = s.objs := rfl
@[simp] theorem State.updJob_cores (s : State) (n : Nat) (f : Job → Job) : (s.updJob n f).cores = s.cores := rfl
@[simp] theorem State.updJob_qsets (s : State) (n : Nat) (f : Job → Job) : (s.updJob n f).qsets = s.qsets := rfl
@[simp] theorem State.updJob_phases (s : State) (n : Nat) (f : Job → Job) : (s.updJob n f).phases = s.phases := rfl
@[simp] theorem State.updJob_parts (s : State) (n : Nat) (f : Job → Job) : (s.updJob n f).parts = s.parts := rfl
@[simp] theorem State.updJob_graphs (s : State) (n : Nat) (f : Job → Job) : (s.updJob n f).graphs = s.graphs := rfl
@[simp] theorem State.updJob_dies (s : State) (n : Nat) (f : Job → Job) : (s.updJob n f).dies = s.dies := rfl
@[simp] theorem State.updJob_tlb (s : State) (n : Nat) (f : Job → Job) : (s.updJob n f).tlb = s.tlb := rfl
@[simp] theorem State.updJob_walks (s : State) (n : Nat) (f : Job → Job) : (s.updJob n f).walks = s.walks := rfl
@[simp] theorem State.updJob_fabric (s : State) (n : Nat) (f : Job → Job) : (s.updJob n f).fabric = s.fabric := rfl
@[simp] theorem State.updJob_heat (s : State) (n : Nat) (f : Job → Job) : (s.updJob n f).heat = s.heat := rfl
@[simp] theorem State.updJob_ckpt (s : State) (n : Nat) (f : Job → Job) : (s.updJob n f).ckpt = s.ckpt := rfl
@[simp] theorem State.updJob_boot (s : State) (n : Nat) (f : Job → Job) : (s.updJob n f).boot = s.boot := rfl
@[simp] theorem State.updJob_nextUid (s : State) (n : Nat) (f : Job → Job) : (s.updJob n f).nextUid = s.nextUid := rfl
@[simp] theorem State.updJob_agenda (s : State) (n : Nat) (f : Job → Job) : (s.updJob n f).agenda = s.agenda := rfl
@[simp] theorem State.updJob_steps (s : State) (n : Nat) (f : Job → Job) : (s.updJob n f).steps = s.steps := rfl
@[simp] theorem State.updJob_choices (s : State) (n : Nat) (f : Job → Job) : (s.updJob n f).choices = s.choices := rfl

/-! ## State.updGraph -/

@[simp] theorem State.updGraph_cur (s : State) (k : Nat) (f : Graph → Graph) : (s.updGraph k f).cur = s.cur := rfl
@[simp] theorem State.updGraph_curSplit (s : State) (k : Nat) (f : Graph → Graph) : (s.updGraph k f).curSplit = s.curSplit := rfl
@[simp] theorem State.updGraph_crews (s : State) (k : Nat) (f : Graph → Graph) : (s.updGraph k f).crews = s.crews := rfl
@[simp] theorem State.updGraph_launches (s : State) (k : Nat) (f : Graph → Graph) : (s.updGraph k f).launches = s.launches := rfl
@[simp] theorem State.updGraph_jobs (s : State) (k : Nat) (f : Graph → Graph) : (s.updGraph k f).jobs = s.jobs := rfl
@[simp] theorem State.updGraph_mem (s : State) (k : Nat) (f : Graph → Graph) : (s.updGraph k f).mem = s.mem := rfl
@[simp] theorem State.updGraph_objs (s : State) (k : Nat) (f : Graph → Graph) : (s.updGraph k f).objs = s.objs := rfl
@[simp] theorem State.updGraph_cores (s : State) (k : Nat) (f : Graph → Graph) : (s.updGraph k f).cores = s.cores := rfl
@[simp] theorem State.updGraph_qsets (s : State) (k : Nat) (f : Graph → Graph) : (s.updGraph k f).qsets = s.qsets := rfl
@[simp] theorem State.updGraph_phases (s : State) (k : Nat) (f : Graph → Graph) : (s.updGraph k f).phases = s.phases := rfl
@[simp] theorem State.updGraph_parts (s : State) (k : Nat) (f : Graph → Graph) : (s.updGraph k f).parts = s.parts := rfl
@[simp] theorem State.updGraph_dies (s : State) (k : Nat) (f : Graph → Graph) : (s.updGraph k f).dies = s.dies := rfl
@[simp] theorem State.updGraph_tlb (s : State) (k : Nat) (f : Graph → Graph) : (s.updGraph k f).tlb = s.tlb := rfl
@[simp] theorem State.updGraph_walks (s : State) (k : Nat) (f : Graph → Graph) : (s.updGraph k f).walks = s.walks := rfl
@[simp] theorem State.updGraph_fabric (s : State) (k : Nat) (f : Graph → Graph) : (s.updGraph k f).fabric = s.fabric := rfl
@[simp] theorem State.updGraph_heat (s : State) (k : Nat) (f : Graph → Graph) : (s.updGraph k f).heat = s.heat := rfl
@[simp] theorem State.updGraph_ckpt (s : State) (k : Nat) (f : Graph → Graph) : (s.updGraph k f).ckpt = s.ckpt := rfl
@[simp] theorem State.updGraph_boot (s : State) (k : Nat) (f : Graph → Graph) : (s.updGraph k f).boot = s.boot := rfl
@[simp] theorem State.updGraph_nextUid (s : State) (k : Nat) (f : Graph → Graph) : (s.updGraph k f).nextUid = s.nextUid := rfl
@[simp] theorem State.updGraph_agenda (s : State) (k : Nat) (f : Graph → Graph) : (s.updGraph k f).agenda = s.agenda := rfl
@[simp] theorem State.updGraph_steps (s : State) (k : Nat) (f : Graph → Graph) : (s.updGraph k f).steps = s.steps := rfl
@[simp] theorem State.updGraph_choices (s : State) (k : Nat) (f : Graph → Graph) : (s.updGraph k f).choices = s.choices := rfl

/-! ## State.updNode -/

@[simp] theorem State.updNode_cur (s : State) (k i : Nat) (f : Node → Node) : (s.updNode k i f).cur = s.cur := rfl
@[simp] theorem State.updNode_curSplit (s : State) (k i : Nat) (f : Node → Node) : (s.updNode k i f).curSplit = s.curSplit := rfl
@[simp] theorem State.updNode_crews (s : State) (k i : Nat) (f : Node → Node) : (s.updNode k i f).crews = s.crews := rfl
@[simp] theorem State.updNode_launches (s : State) (k i : Nat) (f : Node → Node) : (s.updNode k i f).launches = s.launches := rfl
@[simp] theorem State.updNode_jobs (s : State) (k i : Nat) (f : Node → Node) : (s.updNode k i f).jobs = s.jobs := rfl
@[simp] theorem State.updNode_mem (s : State) (k i : Nat) (f : Node → Node) : (s.updNode k i f).mem = s.mem := rfl
@[simp] theorem State.updNode_objs (s : State) (k i : Nat) (f : Node → Node) : (s.updNode k i f).objs = s.objs := rfl
@[simp] theorem State.updNode_cores (s : State) (k i : Nat) (f : Node → Node) : (s.updNode k i f).cores = s.cores := rfl
@[simp] theorem State.updNode_qsets (s : State) (k i : Nat) (f : Node → Node) : (s.updNode k i f).qsets = s.qsets := rfl
@[simp] theorem State.updNode_phases (s : State) (k i : Nat) (f : Node → Node) : (s.updNode k i f).phases = s.phases := rfl
@[simp] theorem State.updNode_parts (s : State) (k i : Nat) (f : Node → Node) : (s.updNode k i f).parts = s.parts := rfl
@[simp] theorem State.updNode_dies (s : State) (k i : Nat) (f : Node → Node) : (s.updNode k i f).dies = s.dies := rfl
@[simp] theorem State.updNode_tlb (s : State) (k i : Nat) (f : Node → Node) : (s.updNode k i f).tlb = s.tlb := rfl
@[simp] theorem State.updNode_walks (s : State) (k i : Nat) (f : Node → Node) : (s.updNode k i f).walks = s.walks := rfl
@[simp] theorem State.updNode_fabric (s : State) (k i : Nat) (f : Node → Node) : (s.updNode k i f).fabric = s.fabric := rfl
@[simp] theorem State.updNode_heat (s : State) (k i : Nat) (f : Node → Node) : (s.updNode k i f).heat = s.heat := rfl
@[simp] theorem State.updNode_ckpt (s : State) (k i : Nat) (f : Node → Node) : (s.updNode k i f).ckpt = s.ckpt := rfl
@[simp] theorem State.updNode_boot (s : State) (k i : Nat) (f : Node → Node) : (s.updNode k i f).boot = s.boot := rfl
@[simp] theorem State.updNode_nextUid (s : State) (k i : Nat) (f : Node → Node) : (s.updNode k i f).nextUid = s.nextUid := rfl
@[simp] theorem State.updNode_agenda (s : State) (k i : Nat) (f : Node → Node) : (s.updNode k i f).agenda = s.agenda := rfl
@[simp] theorem State.updNode_steps (s : State) (k i : Nat) (f : Node → Node) : (s.updNode k i f).steps = s.steps := rfl
@[simp] theorem State.updNode_choices (s : State) (k i : Nat) (f : Node → Node) : (s.updNode k i f).choices = s.choices := rfl

/-! ## State.updDie -/

@[simp] theorem State.updDie_cur (s : State) (d : Nat) (f : Die → Die) : (s.updDie d f).cur = s.cur := rfl
@[simp] theorem State.updDie_curSplit (s : State) (d : Nat) (f : Die → Die) : (s.updDie d f).curSplit = s.curSplit := rfl
@[simp] theorem State.updDie_crews (s : State) (d : Nat) (f : Die → Die) : (s.updDie d f).crews = s.crews := rfl
@[simp] theorem State.updDie_launches (s : State) (d : Nat) (f : Die → Die) : (s.updDie d f).launches = s.launches := rfl
@[simp] theorem State.updDie_jobs (s : State) (d : Nat) (f : Die → Die) : (s.updDie d f).jobs = s.jobs := rfl
@[simp] theorem State.updDie_mem (s : State) (d : Nat) (f : Die → Die) : (s.updDie d f).mem = s.mem := rfl
@[simp] theorem State.updDie_objs (s : State) (d : Nat) (f : Die → Die) : (s.updDie d f).objs = s.objs := rfl
@[simp] theorem State.updDie_cores (s : State) (d : Nat) (f : Die → Die) : (s.updDie d f).cores = s.cores := rfl
@[simp] theorem State.updDie_qsets (s : State) (d : Nat) (f : Die → Die) : (s.updDie d f).qsets = s.qsets := rfl
@[simp] theorem State.updDie_phases (s : State) (d : Nat) (f : Die → Die) : (s.updDie d f).phases = s.phases := rfl
@[simp] theorem State.updDie_parts (s : State) (d : Nat) (f : Die → Die) : (s.updDie d f).parts = s.parts := rfl
@[simp] theorem State.updDie_graphs (s : State) (d : Nat) (f : Die → Die) : (s.updDie d f).graphs = s.graphs := rfl
@[simp] theorem State.updDie_tlb (s : State) (d : Nat) (f : Die → Die) : (s.updDie d f).tlb = s.tlb := rfl
@[simp] theorem State.updDie_walks (s : State) (d : Nat) (f : Die → Die) : (s.updDie d f).walks = s.walks := rfl
@[simp] theorem State.updDie_fabric (s : State) (d : Nat) (f : Die → Die) : (s.updDie d f).fabric = s.fabric := rfl
@[simp] theorem State.updDie_heat (s : State) (d : Nat) (f : Die → Die) : (s.updDie d f).heat = s.heat := rfl
@[simp] theorem State.updDie_ckpt (s : State) (d : Nat) (f : Die → Die) : (s.updDie d f).ckpt = s.ckpt := rfl
@[simp] theorem State.updDie_boot (s : State) (d : Nat) (f : Die → Die) : (s.updDie d f).boot = s.boot := rfl
@[simp] theorem State.updDie_nextUid (s : State) (d : Nat) (f : Die → Die) : (s.updDie d f).nextUid = s.nextUid := rfl
@[simp] theorem State.updDie_agenda (s : State) (d : Nat) (f : Die → Die) : (s.updDie d f).agenda = s.agenda := rfl
@[simp] theorem State.updDie_steps (s : State) (d : Nat) (f : Die → Die) : (s.updDie d f).steps = s.steps := rfl
@[simp] theorem State.updDie_choices (s : State) (d : Nat) (f : Die → Die) : (s.updDie d f).choices = s.choices := rfl

/-! ## State.updQset -/

@[simp] theorem State.updQset_cur (s : State) (k : Nat) (f : QSet → QSet) : (s.updQset k f).cur = s.cur := rfl
@[simp] theorem State.updQset_curSplit (s : State) (k : Nat) (f : QSet → QSet) : (s.updQset k f).curSplit = s.curSplit := rfl
@[simp] theorem State.updQset_crews (s : State) (k : Nat) (f : QSet → QSet) : (s.updQset k f).crews = s.crews := rfl
@[simp] theorem State.updQset_launches (s : State) (k : Nat) (f : QSet → QSet) : (s.updQset k f).launches = s.launches := rfl
@[simp] theorem State.updQset_jobs (s : State) (k : Nat) (f : QSet → QSet) : (s.updQset k f).jobs = s.jobs := rfl
@[simp] theorem State.updQset_mem (s : State) (k : Nat) (f : QSet → QSet) : (s.updQset k f).mem = s.mem := rfl
@[simp] theorem State.updQset_objs (s : State) (k : Nat) (f : QSet → QSet) : (s.updQset k f).objs = s.objs := rfl
@[simp] theorem State.updQset_cores (s : State) (k : Nat) (f : QSet → QSet) : (s.updQset k f).cores = s.cores := rfl
@[simp] theorem State.updQset_phases (s : State) (k : Nat) (f : QSet → QSet) : (s.updQset k f).phases = s.phases := rfl
@[simp] theorem State.updQset_parts (s : State) (k : Nat) (f : QSet → QSet) : (s.updQset k f).parts = s.parts := rfl
@[simp] theorem State.updQset_graphs (s : State) (k : Nat) (f : QSet → QSet) : (s.updQset k f).graphs = s.graphs := rfl
@[simp] theorem State.updQset_dies (s : State) (k : Nat) (f : QSet → QSet) : (s.updQset k f).dies = s.dies := rfl
@[simp] theorem State.updQset_tlb (s : State) (k : Nat) (f : QSet → QSet) : (s.updQset k f).tlb = s.tlb := rfl
@[simp] theorem State.updQset_walks (s : State) (k : Nat) (f : QSet → QSet) : (s.updQset k f).walks = s.walks := rfl
@[simp] theorem State.updQset_fabric (s : State) (k : Nat) (f : QSet → QSet) : (s.updQset k f).fabric = s.fabric := rfl
@[simp] theorem State.updQset_heat (s : State) (k : Nat) (f : QSet → QSet) : (s.updQset k f).heat = s.heat := rfl
@[simp] theorem State.updQset_ckpt (s : State) (k : Nat) (f : QSet → QSet) : (s.updQset k f).ckpt = s.ckpt := rfl
@[simp] theorem State.updQset_boot (s : State) (k : Nat) (f : QSet → QSet) : (s.updQset k f).boot = s.boot := rfl
@[simp] theorem State.updQset_nextUid (s : State) (k : Nat) (f : QSet → QSet) : (s.updQset k f).nextUid = s.nextUid := rfl
@[simp] theorem State.updQset_agenda (s : State) (k : Nat) (f : QSet → QSet) : (s.updQset k f).agenda = s.agenda := rfl
@[simp] theorem State.updQset_steps (s : State) (k : Nat) (f : QSet → QSet) : (s.updQset k f).steps = s.steps := rfl
@[simp] theorem State.updQset_choices (s : State) (k : Nat) (f : QSet → QSet) : (s.updQset k f).choices = s.choices := rfl

/-! ## State.updQueue -/

@[simp] theorem State.updQueue_cur (s : State) (k q : Nat) (f : Queue → Queue) : (s.updQueue k q f).cur = s.cur := rfl
@[simp] theorem State.updQueue_curSplit (s : State) (k q : Nat) (f : Queue → Queue) : (s.updQueue k q f).curSplit = s.curSplit := rfl
@[simp] theorem State.updQueue_crews (s : State) (k q : Nat) (f : Queue → Queue) : (s.updQueue k q f).crews = s.crews := rfl
@[simp] theorem State.updQueue_launches (s : State) (k q : Nat) (f : Queue → Queue) : (s.updQueue k q f).launches = s.launches := rfl
@[simp] theorem State.updQueue_jobs (s : State) (k q : Nat) (f : Queue → Queue) : (s.updQueue k q f).jobs = s.jobs := rfl
@[simp] theorem State.updQueue_mem (s : State) (k q : Nat) (f : Queue → Queue) : (s.updQueue k q f).mem = s.mem := rfl
@[simp] theorem State.updQueue_objs (s : State) (k q : Nat) (f : Queue → Queue) : (s.updQueue k q f).objs = s.objs := rfl
@[simp] theorem State.updQueue_cores (s : State) (k q : Nat) (f : Queue → Queue) : (s.updQueue k q f).cores = s.cores := rfl
@[simp] theorem State.updQueue_phases (s : State) (k q : Nat) (f : Queue → Queue) : (s.updQueue k q f).phases = s.phases := rfl
@[simp] theorem State.updQueue_parts (s : State) (k q : Nat) (f : Queue → Queue) : (s.updQueue k q f).parts = s.parts := rfl
@[simp] theorem State.updQueue_graphs (s : State) (k q : Nat) (f : Queue → Queue) : (s.updQueue k q f).graphs = s.graphs := rfl
@[simp] theorem State.updQueue_dies (s : State) (k q : Nat) (f : Queue → Queue) : (s.updQueue k q f).dies = s.dies := rfl
@[simp] theorem State.updQueue_tlb (s : State) (k q : Nat) (f : Queue → Queue) : (s.updQueue k q f).tlb = s.tlb := rfl
@[simp] theorem State.updQueue_walks (s : State) (k q : Nat) (f : Queue → Queue) : (s.updQueue k q f).walks = s.walks := rfl
@[simp] theorem State.updQueue_fabric (s : State) (k q : Nat) (f : Queue → Queue) : (s.updQueue k q f).fabric = s.fabric := rfl
@[simp] theorem State.updQueue_heat (s : State) (k q : Nat) (f : Queue → Queue) : (s.updQueue k q f).heat = s.heat := rfl
@[simp] theorem State.updQueue_ckpt (s : State) (k q : Nat) (f : Queue → Queue) : (s.updQueue k q f).ckpt = s.ckpt := rfl
@[simp] theorem State.updQueue_boot (s : State) (k q : Nat) (f : Queue → Queue) : (s.updQueue k q f).boot = s.boot := rfl
@[simp] theorem State.updQueue_nextUid (s : State) (k q : Nat) (f : Queue → Queue) : (s.updQueue k q f).nextUid = s.nextUid := rfl
@[simp] theorem State.updQueue_agenda (s : State) (k q : Nat) (f : Queue → Queue) : (s.updQueue k q f).agenda = s.agenda := rfl
@[simp] theorem State.updQueue_steps (s : State) (k q : Nat) (f : Queue → Queue) : (s.updQueue k q f).steps = s.steps := rfl
@[simp] theorem State.updQueue_choices (s : State) (k q : Nat) (f : Queue → Queue) : (s.updQueue k q f).choices = s.choices := rfl

/-! ## State.updEntry -/

@[simp] theorem State.updEntry_cur (s : State) (k q : Nat) (t : Word) (f : QEntry → QEntry) : (s.updEntry k q t f).cur = s.cur := rfl
@[simp] theorem State.updEntry_curSplit (s : State) (k q : Nat) (t : Word) (f : QEntry → QEntry) : (s.updEntry k q t f).curSplit = s.curSplit := rfl
@[simp] theorem State.updEntry_crews (s : State) (k q : Nat) (t : Word) (f : QEntry → QEntry) : (s.updEntry k q t f).crews = s.crews := rfl
@[simp] theorem State.updEntry_launches (s : State) (k q : Nat) (t : Word) (f : QEntry → QEntry) : (s.updEntry k q t f).launches = s.launches := rfl
@[simp] theorem State.updEntry_jobs (s : State) (k q : Nat) (t : Word) (f : QEntry → QEntry) : (s.updEntry k q t f).jobs = s.jobs := rfl
@[simp] theorem State.updEntry_mem (s : State) (k q : Nat) (t : Word) (f : QEntry → QEntry) : (s.updEntry k q t f).mem = s.mem := rfl
@[simp] theorem State.updEntry_objs (s : State) (k q : Nat) (t : Word) (f : QEntry → QEntry) : (s.updEntry k q t f).objs = s.objs := rfl
@[simp] theorem State.updEntry_cores (s : State) (k q : Nat) (t : Word) (f : QEntry → QEntry) : (s.updEntry k q t f).cores = s.cores := rfl
@[simp] theorem State.updEntry_phases (s : State) (k q : Nat) (t : Word) (f : QEntry → QEntry) : (s.updEntry k q t f).phases = s.phases := rfl
@[simp] theorem State.updEntry_parts (s : State) (k q : Nat) (t : Word) (f : QEntry → QEntry) : (s.updEntry k q t f).parts = s.parts := rfl
@[simp] theorem State.updEntry_graphs (s : State) (k q : Nat) (t : Word) (f : QEntry → QEntry) : (s.updEntry k q t f).graphs = s.graphs := rfl
@[simp] theorem State.updEntry_dies (s : State) (k q : Nat) (t : Word) (f : QEntry → QEntry) : (s.updEntry k q t f).dies = s.dies := rfl
@[simp] theorem State.updEntry_tlb (s : State) (k q : Nat) (t : Word) (f : QEntry → QEntry) : (s.updEntry k q t f).tlb = s.tlb := rfl
@[simp] theorem State.updEntry_walks (s : State) (k q : Nat) (t : Word) (f : QEntry → QEntry) : (s.updEntry k q t f).walks = s.walks := rfl
@[simp] theorem State.updEntry_fabric (s : State) (k q : Nat) (t : Word) (f : QEntry → QEntry) : (s.updEntry k q t f).fabric = s.fabric := rfl
@[simp] theorem State.updEntry_heat (s : State) (k q : Nat) (t : Word) (f : QEntry → QEntry) : (s.updEntry k q t f).heat = s.heat := rfl
@[simp] theorem State.updEntry_ckpt (s : State) (k q : Nat) (t : Word) (f : QEntry → QEntry) : (s.updEntry k q t f).ckpt = s.ckpt := rfl
@[simp] theorem State.updEntry_boot (s : State) (k q : Nat) (t : Word) (f : QEntry → QEntry) : (s.updEntry k q t f).boot = s.boot := rfl
@[simp] theorem State.updEntry_nextUid (s : State) (k q : Nat) (t : Word) (f : QEntry → QEntry) : (s.updEntry k q t f).nextUid = s.nextUid := rfl
@[simp] theorem State.updEntry_agenda (s : State) (k q : Nat) (t : Word) (f : QEntry → QEntry) : (s.updEntry k q t f).agenda = s.agenda := rfl
@[simp] theorem State.updEntry_steps (s : State) (k q : Nat) (t : Word) (f : QEntry → QEntry) : (s.updEntry k q t f).steps = s.steps := rfl
@[simp] theorem State.updEntry_choices (s : State) (k q : Nat) (t : Word) (f : QEntry → QEntry) : (s.updEntry k q t f).choices = s.choices := rfl

/-! ## State.updFabric -/

@[simp] theorem State.updFabric_cur (s : State) (f : Fabric → Fabric) : (s.updFabric f).cur = s.cur := rfl
@[simp] theorem State.updFabric_curSplit (s : State) (f : Fabric → Fabric) : (s.updFabric f).curSplit = s.curSplit := rfl
@[simp] theorem State.updFabric_crews (s : State) (f : Fabric → Fabric) : (s.updFabric f).crews = s.crews := rfl
@[simp] theorem State.updFabric_launches (s : State) (f : Fabric → Fabric) : (s.updFabric f).launches = s.launches := rfl
@[simp] theorem State.updFabric_jobs (s : State) (f : Fabric → Fabric) : (s.updFabric f).jobs = s.jobs := rfl
@[simp] theorem State.updFabric_mem (s : State) (f : Fabric → Fabric) : (s.updFabric f).mem = s.mem := rfl
@[simp] theorem State.updFabric_objs (s : State) (f : Fabric → Fabric) : (s.updFabric f).objs = s.objs := rfl
@[simp] theorem State.updFabric_cores (s : State) (f : Fabric → Fabric) : (s.updFabric f).cores = s.cores := rfl
@[simp] theorem State.updFabric_qsets (s : State) (f : Fabric → Fabric) : (s.updFabric f).qsets = s.qsets := rfl
@[simp] theorem State.updFabric_phases (s : State) (f : Fabric → Fabric) : (s.updFabric f).phases = s.phases := rfl
@[simp] theorem State.updFabric_parts (s : State) (f : Fabric → Fabric) : (s.updFabric f).parts = s.parts := rfl
@[simp] theorem State.updFabric_graphs (s : State) (f : Fabric → Fabric) : (s.updFabric f).graphs = s.graphs := rfl
@[simp] theorem State.updFabric_dies (s : State) (f : Fabric → Fabric) : (s.updFabric f).dies = s.dies := rfl
@[simp] theorem State.updFabric_tlb (s : State) (f : Fabric → Fabric) : (s.updFabric f).tlb = s.tlb := rfl
@[simp] theorem State.updFabric_walks (s : State) (f : Fabric → Fabric) : (s.updFabric f).walks = s.walks := rfl
@[simp] theorem State.updFabric_heat (s : State) (f : Fabric → Fabric) : (s.updFabric f).heat = s.heat := rfl
@[simp] theorem State.updFabric_ckpt (s : State) (f : Fabric → Fabric) : (s.updFabric f).ckpt = s.ckpt := rfl
@[simp] theorem State.updFabric_boot (s : State) (f : Fabric → Fabric) : (s.updFabric f).boot = s.boot := rfl
@[simp] theorem State.updFabric_nextUid (s : State) (f : Fabric → Fabric) : (s.updFabric f).nextUid = s.nextUid := rfl
@[simp] theorem State.updFabric_agenda (s : State) (f : Fabric → Fabric) : (s.updFabric f).agenda = s.agenda := rfl
@[simp] theorem State.updFabric_steps (s : State) (f : Fabric → Fabric) : (s.updFabric f).steps = s.steps := rfl
@[simp] theorem State.updFabric_choices (s : State) (f : Fabric → Fabric) : (s.updFabric f).choices = s.choices := rfl

/-! ## State.updHeat -/

@[simp] theorem State.updHeat_cur (s : State) (f : Heat → Heat) : (s.updHeat f).cur = s.cur := rfl
@[simp] theorem State.updHeat_curSplit (s : State) (f : Heat → Heat) : (s.updHeat f).curSplit = s.curSplit := rfl
@[simp] theorem State.updHeat_crews (s : State) (f : Heat → Heat) : (s.updHeat f).crews = s.crews := rfl
@[simp] theorem State.updHeat_launches (s : State) (f : Heat → Heat) : (s.updHeat f).launches = s.launches := rfl
@[simp] theorem State.updHeat_jobs (s : State) (f : Heat → Heat) : (s.updHeat f).jobs = s.jobs := rfl
@[simp] theorem State.updHeat_mem (s : State) (f : Heat → Heat) : (s.updHeat f).mem = s.mem := rfl
@[simp] theorem State.updHeat_objs (s : State) (f : Heat → Heat) : (s.updHeat f).objs = s.objs := rfl
@[simp] theorem State.updHeat_cores (s : State) (f : Heat → Heat) : (s.updHeat f).cores = s.cores := rfl
@[simp] theorem State.updHeat_qsets (s : State) (f : Heat → Heat) : (s.updHeat f).qsets = s.qsets := rfl
@[simp] theorem State.updHeat_phases (s : State) (f : Heat → Heat) : (s.updHeat f).phases = s.phases := rfl
@[simp] theorem State.updHeat_parts (s : State) (f : Heat → Heat) : (s.updHeat f).parts = s.parts := rfl
@[simp] theorem State.updHeat_graphs (s : State) (f : Heat → Heat) : (s.updHeat f).graphs = s.graphs := rfl
@[simp] theorem State.updHeat_dies (s : State) (f : Heat → Heat) : (s.updHeat f).dies = s.dies := rfl
@[simp] theorem State.updHeat_tlb (s : State) (f : Heat → Heat) : (s.updHeat f).tlb = s.tlb := rfl
@[simp] theorem State.updHeat_walks (s : State) (f : Heat → Heat) : (s.updHeat f).walks = s.walks := rfl
@[simp] theorem State.updHeat_fabric (s : State) (f : Heat → Heat) : (s.updHeat f).fabric = s.fabric := rfl
@[simp] theorem State.updHeat_ckpt (s : State) (f : Heat → Heat) : (s.updHeat f).ckpt = s.ckpt := rfl
@[simp] theorem State.updHeat_boot (s : State) (f : Heat → Heat) : (s.updHeat f).boot = s.boot := rfl
@[simp] theorem State.updHeat_nextUid (s : State) (f : Heat → Heat) : (s.updHeat f).nextUid = s.nextUid := rfl
@[simp] theorem State.updHeat_agenda (s : State) (f : Heat → Heat) : (s.updHeat f).agenda = s.agenda := rfl
@[simp] theorem State.updHeat_steps (s : State) (f : Heat → Heat) : (s.updHeat f).steps = s.steps := rfl
@[simp] theorem State.updHeat_choices (s : State) (f : Heat → Heat) : (s.updHeat f).choices = s.choices := rfl

/-! ## State.setObjLow -/

@[simp] theorem State.setObjLow_cur (s : State) (sp : Bool) (a w : Nat) : (s.setObjLow sp a w).cur = s.cur := rfl
@[simp] theorem State.setObjLow_curSplit (s : State) (sp : Bool) (a w : Nat) : (s.setObjLow sp a w).curSplit = s.curSplit := rfl
@[simp] theorem State.setObjLow_crews (s : State) (sp : Bool) (a w : Nat) : (s.setObjLow sp a w).crews = s.crews := rfl
@[simp] theorem State.setObjLow_launches (s : State) (sp : Bool) (a w : Nat) : (s.setObjLow sp a w).launches = s.launches := rfl
@[simp] theorem State.setObjLow_jobs (s : State) (sp : Bool) (a w : Nat) : (s.setObjLow sp a w).jobs = s.jobs := rfl
@[simp] theorem State.setObjLow_objs (s : State) (sp : Bool) (a w : Nat) : (s.setObjLow sp a w).objs = s.objs := rfl
@[simp] theorem State.setObjLow_cores (s : State) (sp : Bool) (a w : Nat) : (s.setObjLow sp a w).cores = s.cores := rfl
@[simp] theorem State.setObjLow_qsets (s : State) (sp : Bool) (a w : Nat) : (s.setObjLow sp a w).qsets = s.qsets := rfl
@[simp] theorem State.setObjLow_phases (s : State) (sp : Bool) (a w : Nat) : (s.setObjLow sp a w).phases = s.phases := rfl
@[simp] theorem State.setObjLow_parts (s : State) (sp : Bool) (a w : Nat) : (s.setObjLow sp a w).parts = s.parts := rfl
@[simp] theorem State.setObjLow_graphs (s : State) (sp : Bool) (a w : Nat) : (s.setObjLow sp a w).graphs = s.graphs := rfl
@[simp] theorem State.setObjLow_dies (s : State) (sp : Bool) (a w : Nat) : (s.setObjLow sp a w).dies = s.dies := rfl
@[simp] theorem State.setObjLow_tlb (s : State) (sp : Bool) (a w : Nat) : (s.setObjLow sp a w).tlb = s.tlb := rfl
@[simp] theorem State.setObjLow_walks (s : State) (sp : Bool) (a w : Nat) : (s.setObjLow sp a w).walks = s.walks := rfl
@[simp] theorem State.setObjLow_fabric (s : State) (sp : Bool) (a w : Nat) : (s.setObjLow sp a w).fabric = s.fabric := rfl
@[simp] theorem State.setObjLow_heat (s : State) (sp : Bool) (a w : Nat) : (s.setObjLow sp a w).heat = s.heat := rfl
@[simp] theorem State.setObjLow_ckpt (s : State) (sp : Bool) (a w : Nat) : (s.setObjLow sp a w).ckpt = s.ckpt := rfl
@[simp] theorem State.setObjLow_boot (s : State) (sp : Bool) (a w : Nat) : (s.setObjLow sp a w).boot = s.boot := rfl
@[simp] theorem State.setObjLow_nextUid (s : State) (sp : Bool) (a w : Nat) : (s.setObjLow sp a w).nextUid = s.nextUid := rfl
@[simp] theorem State.setObjLow_agenda (s : State) (sp : Bool) (a w : Nat) : (s.setObjLow sp a w).agenda = s.agenda := rfl
@[simp] theorem State.setObjLow_steps (s : State) (sp : Bool) (a w : Nat) : (s.setObjLow sp a w).steps = s.steps := rfl
@[simp] theorem State.setObjLow_choices (s : State) (sp : Bool) (a w : Nat) : (s.setObjLow sp a w).choices = s.choices := rfl

/-! ## State.release -/

@[simp] theorem State.release_cur (s : State) (sp : Bool) (a : Nat) (k : DWord) : (s.release sp a k).cur = s.cur := rfl
@[simp] theorem State.release_curSplit (s : State) (sp : Bool) (a : Nat) (k : DWord) : (s.release sp a k).curSplit = s.curSplit := rfl
@[simp] theorem State.release_crews (s : State) (sp : Bool) (a : Nat) (k : DWord) : (s.release sp a k).crews = s.crews := rfl
@[simp] theorem State.release_launches (s : State) (sp : Bool) (a : Nat) (k : DWord) : (s.release sp a k).launches = s.launches := rfl
@[simp] theorem State.release_jobs (s : State) (sp : Bool) (a : Nat) (k : DWord) : (s.release sp a k).jobs = s.jobs := rfl
@[simp] theorem State.release_cores (s : State) (sp : Bool) (a : Nat) (k : DWord) : (s.release sp a k).cores = s.cores := rfl
@[simp] theorem State.release_qsets (s : State) (sp : Bool) (a : Nat) (k : DWord) : (s.release sp a k).qsets = s.qsets := rfl
@[simp] theorem State.release_phases (s : State) (sp : Bool) (a : Nat) (k : DWord) : (s.release sp a k).phases = s.phases := rfl
@[simp] theorem State.release_parts (s : State) (sp : Bool) (a : Nat) (k : DWord) : (s.release sp a k).parts = s.parts := rfl
@[simp] theorem State.release_graphs (s : State) (sp : Bool) (a : Nat) (k : DWord) : (s.release sp a k).graphs = s.graphs := rfl
@[simp] theorem State.release_dies (s : State) (sp : Bool) (a : Nat) (k : DWord) : (s.release sp a k).dies = s.dies := rfl
@[simp] theorem State.release_tlb (s : State) (sp : Bool) (a : Nat) (k : DWord) : (s.release sp a k).tlb = s.tlb := rfl
@[simp] theorem State.release_walks (s : State) (sp : Bool) (a : Nat) (k : DWord) : (s.release sp a k).walks = s.walks := rfl
@[simp] theorem State.release_fabric (s : State) (sp : Bool) (a : Nat) (k : DWord) : (s.release sp a k).fabric = s.fabric := rfl
@[simp] theorem State.release_heat (s : State) (sp : Bool) (a : Nat) (k : DWord) : (s.release sp a k).heat = s.heat := rfl
@[simp] theorem State.release_ckpt (s : State) (sp : Bool) (a : Nat) (k : DWord) : (s.release sp a k).ckpt = s.ckpt := rfl
@[simp] theorem State.release_boot (s : State) (sp : Bool) (a : Nat) (k : DWord) : (s.release sp a k).boot = s.boot := rfl
@[simp] theorem State.release_nextUid (s : State) (sp : Bool) (a : Nat) (k : DWord) : (s.release sp a k).nextUid = s.nextUid := rfl
@[simp] theorem State.release_agenda (s : State) (sp : Bool) (a : Nat) (k : DWord) : (s.release sp a k).agenda = s.agenda := rfl
@[simp] theorem State.release_steps (s : State) (sp : Bool) (a : Nat) (k : DWord) : (s.release sp a k).steps = s.steps := rfl
@[simp] theorem State.release_choices (s : State) (sp : Bool) (a : Nat) (k : DWord) : (s.release sp a k).choices = s.choices := rfl

/-! ## State.focus -/

@[simp] theorem State.focus_crews (s : State) (n k : Nat) : (s.focus n k).crews = s.crews := rfl
@[simp] theorem State.focus_launches (s : State) (n k : Nat) : (s.focus n k).launches = s.launches := rfl
@[simp] theorem State.focus_jobs (s : State) (n k : Nat) : (s.focus n k).jobs = s.jobs := rfl
@[simp] theorem State.focus_mem (s : State) (n k : Nat) : (s.focus n k).mem = s.mem := rfl
@[simp] theorem State.focus_objs (s : State) (n k : Nat) : (s.focus n k).objs = s.objs := rfl
@[simp] theorem State.focus_cores (s : State) (n k : Nat) : (s.focus n k).cores = s.cores := rfl
@[simp] theorem State.focus_qsets (s : State) (n k : Nat) : (s.focus n k).qsets = s.qsets := rfl
@[simp] theorem State.focus_phases (s : State) (n k : Nat) : (s.focus n k).phases = s.phases := rfl
@[simp] theorem State.focus_parts (s : State) (n k : Nat) : (s.focus n k).parts = s.parts := rfl
@[simp] theorem State.focus_graphs (s : State) (n k : Nat) : (s.focus n k).graphs = s.graphs := rfl
@[simp] theorem State.focus_dies (s : State) (n k : Nat) : (s.focus n k).dies = s.dies := rfl
@[simp] theorem State.focus_tlb (s : State) (n k : Nat) : (s.focus n k).tlb = s.tlb := rfl
@[simp] theorem State.focus_walks (s : State) (n k : Nat) : (s.focus n k).walks = s.walks := rfl
@[simp] theorem State.focus_fabric (s : State) (n k : Nat) : (s.focus n k).fabric = s.fabric := rfl
@[simp] theorem State.focus_heat (s : State) (n k : Nat) : (s.focus n k).heat = s.heat := rfl
@[simp] theorem State.focus_ckpt (s : State) (n k : Nat) : (s.focus n k).ckpt = s.ckpt := rfl
@[simp] theorem State.focus_boot (s : State) (n k : Nat) : (s.focus n k).boot = s.boot := rfl
@[simp] theorem State.focus_nextUid (s : State) (n k : Nat) : (s.focus n k).nextUid = s.nextUid := rfl
@[simp] theorem State.focus_agenda (s : State) (n k : Nat) : (s.focus n k).agenda = s.agenda := rfl
@[simp] theorem State.focus_steps (s : State) (n k : Nat) : (s.focus n k).steps = s.steps := rfl
@[simp] theorem State.focus_choices (s : State) (n k : Nat) : (s.focus n k).choices = s.choices := rfl

/-! ## Reads of what was written -/

@[simp] theorem State.crewAt_setCrewAt_same (s : State) (n : Nat) (c : Crew) : (s.setCrewAt n c).crewAt n = c :=
  mapGet_mapSet_same _ _ _ _

theorem State.crewAt_setCrewAt_ne (s : State) {n m : Nat} (c : Crew) (h : m ≠ n) : (s.setCrewAt n c).crewAt m = s.crewAt m :=
  mapGet_mapSet_ne _ _ _ h

@[simp] theorem State.crew_setCrew (s : State) (c : Crew) : (s.setCrew c).crew = c := mapGet_mapSet_same _ _ _ _

@[simp] theorem State.crew_updCrew (s : State) (f : Crew → Crew) : (s.updCrew f).crew = f s.crew := mapGet_mapSet_same _ _ _ _

theorem State.crewAt_setCrew_ne (s : State) (c : Crew) {m : Nat} (h : m ≠ s.cur) : (s.setCrew c).crewAt m = s.crewAt m :=
  mapGet_mapSet_ne _ _ _ h

theorem State.crewAt_updCrew_ne (s : State) (f : Crew → Crew) {m : Nat} (h : m ≠ s.cur) :
    (s.updCrew f).crewAt m = s.crewAt m := mapGet_mapSet_ne _ _ _ h

@[simp] theorem Crew.split_setSplit_same (c : Crew) (k : Nat) (p : Split) : (c.setSplit k p).split k = p :=
  mapGet_mapSet_same _ _ _ _

theorem Crew.split_setSplit_ne (c : Crew) {k j : Nat} (p : Split) (h : j ≠ k) : (c.setSplit k p).split j = c.split j :=
  mapGet_mapSet_ne _ _ _ h

@[simp] theorem Crew.split_updSplit_same (c : Crew) (k : Nat) (f : Split → Split) :
    (c.updSplit k f).split k = f (c.split k) := mapGet_mapSet_same _ _ _ _

theorem Crew.split_updSplit_ne (c : Crew) {k j : Nat} (f : Split → Split) (h : j ≠ k) :
    (c.updSplit k f).split j = c.split j := mapGet_mapSet_ne _ _ _ h

@[simp] theorem State.core_updCore_same (s : State) (n : Nat) (f : Core → Core) : (s.updCore n f).core n = f (s.core n) :=
  mapGet_mapSet_same _ _ _ _

theorem State.core_updCore_ne (s : State) {n m : Nat} (f : Core → Core) (h : m ≠ n) : (s.updCore n f).core m = s.core m :=
  mapGet_mapSet_ne _ _ _ h

@[simp] theorem State.job_updJob_same (s : State) (n : Nat) (f : Job → Job) : (s.updJob n f).job n = f (s.job n) :=
  mapGet_mapSet_same _ _ _ _

theorem State.job_updJob_ne (s : State) {n m : Nat} (f : Job → Job) (h : m ≠ n) : (s.updJob n f).job m = s.job m :=
  mapGet_mapSet_ne _ _ _ h

@[simp] theorem State.graph_updGraph_same (s : State) (k : Nat) (f : Graph → Graph) :
    (s.updGraph k f).graph k = f (s.graph k) := mapGet_mapSet_same _ _ _ _

theorem State.graph_updGraph_ne (s : State) {k j : Nat} (f : Graph → Graph) (h : j ≠ k) :
    (s.updGraph k f).graph j = s.graph j := mapGet_mapSet_ne _ _ _ h

@[simp] theorem State.die_updDie_same (s : State) (d : Nat) (f : Die → Die) : (s.updDie d f).die d = f (s.die d) :=
  mapGet_mapSet_same _ _ _ _

theorem State.die_updDie_ne (s : State) {d e : Nat} (f : Die → Die) (h : e ≠ d) : (s.updDie d f).die e = s.die e :=
  mapGet_mapSet_ne _ _ _ h

@[simp] theorem State.qset_updQset_same (s : State) (k : Nat) (f : QSet → QSet) : (s.updQset k f).qset k = f (s.qset k) :=
  mapGet_mapSet_same _ _ _ _

theorem State.qset_updQset_ne (s : State) {k j : Nat} (f : QSet → QSet) (h : j ≠ k) : (s.updQset k f).qset j = s.qset j :=
  mapGet_mapSet_ne _ _ _ h

@[simp] theorem QSet.queue_updQueue_same (x : QSet) (q : Nat) (f : Queue → Queue) :
    (x.updQueue q f).queue q = f (x.queue q) := mapGet_mapSet_same _ _ _ _

theorem QSet.queue_updQueue_ne (x : QSet) {q r : Nat} (f : Queue → Queue) (h : r ≠ q) :
    (x.updQueue q f).queue r = x.queue r := mapGet_mapSet_ne _ _ _ h

@[simp] theorem State.queue_updQueue_same (s : State) (k q : Nat) (f : Queue → Queue) :
    (s.updQueue k q f).queue k q = f (s.queue k q) := by
  simp [State.updQueue, State.queue]

theorem State.queue_updQueue_ne (s : State) {k q j r : Nat} (f : Queue → Queue) (h : ¬(j = k ∧ r = q)) :
    (s.updQueue k q f).queue j r = s.queue j r := by
  unfold State.queue State.updQueue
  by_cases hj : j = k
  · subst hj
    rw [State.qset_updQset_same, QSet.queue_updQueue_ne _ _ fun e => h ⟨rfl, e⟩]
  · rw [State.qset_updQset_ne _ _ hj]

end Sys2Proof.Machine
end

