-- ==== Sys2Proof/Laws/Operands.lean ====
section
/-! SUPPORT. Laws of scalar completion and of running a lane instruction: what a register write, a jump, a lane trap and a
lane result change. -/

namespace Sys2Proof.Machine

/-! ## Registers and completion of scalar words -/

@[simp] theorem Crew.setSreg_zero (c : Crew) (k : Nat) (v : Word) : c.setSreg k 0 v = c := by simp [Crew.setSreg]

@[simp] theorem Crew.sreg_zero (c : Crew) (k : Nat) : c.sreg k 0 = 0 := by simp [Crew.sreg]

/-- A register reads as it was written; s0 stays zero; the others stay. -/
theorem Crew.sreg_setSreg (c : Crew) (k : Nat) (d r : RegNo) (v : Word) :
    (c.setSreg k d v).sreg k r = if r = d ∧ r ≠ 0 then v else c.sreg k r := by
  by_cases hd : d = 0
  · subst hd
    rw [Crew.setSreg_zero, if_neg (by rintro ⟨h, h'⟩; exact h' h)]
  by_cases hr : r = 0
  · subst hr; simp [Crew.sreg]
  have hne : r.toNat = d.toNat ↔ r = d := ⟨fun h => BitVec.eq_of_toNat_eq h, fun h => h ▸ rfl⟩
  unfold Crew.setSreg Crew.sreg
  simp only [hd, hr, if_false, not_false_eq_true, and_true, ne_eq]
  by_cases h1 : d.toNat < 16 <;> by_cases h2 : r.toNat < 16
  · simp only [h1, h2, if_true]
    rw [mapGet_mapSet]
    by_cases h : r = d <;> simp [h, hne]
  · have : r ≠ d := by rintro rfl; exact h2 h1
    simp [h1, h2, this, Crew.split]
  · have : r ≠ d := by rintro rfl; exact h1 h2
    simp only [h1, h2, this, if_false, if_true]
    rfl
  · simp only [h1, h2, if_false, Crew.split_updSplit_same]
    rw [mapGet_mapSet]
    by_cases h : r = d <;> simp [h, hne]

theorem Crew.setSreg_split_ne (c : Crew) {k j : Nat} (d : RegNo) (v : Word) (h : j ≠ k) :
    (c.setSreg k d v).split j = c.split j := by
  unfold Crew.setSreg
  split
  · rfl
  · split
    · rfl
    · exact Crew.split_updSplit_ne _ _ h

theorem Crew.setSreg_eq (c : Crew) (k : Nat) (d : RegNo) (v : Word) :
    c.setSreg k d v = { c with shared := (c.setSreg k d v).shared, splits := (c.setSreg k d v).splits } := by
  unfold Crew.setSreg
  split
  · rfl
  · split <;> rfl

theorem Crew.setSreg_split (c : Crew) (k : Nat) (d : RegNo) (v : Word) :
    (c.setSreg k d v).split k = { c.split k with banked := ((c.setSreg k d v).split k).banked } := by
  unfold Crew.setSreg
  split
  · rfl
  · split
    · rfl
    · simp

@[simp] theorem State.crew_setSreg (s : State) (r : RegNo) (v : Word) :
    (s.setSreg r v).crew = s.crew.setSreg s.curSplit r v := State.crew_updCrew _ _

@[simp] theorem State.crewAt_cur (s : State) : s.crewAt s.cur = s.crew := rfl

theorem State.onlyCrew_updCrew (s : State) (f : Crew → Crew) : s.onlyCrew (s.updCrew f) :=
  ⟨rfl, fun _ h => State.crewAt_updCrew_ne s f h⟩

theorem State.onlyCrew_trans {s t u : State} (h : s.onlyCrew t) (h' : t.onlyCrew u) : s.onlyCrew u := by
  obtain ⟨h1, h2⟩ := h
  obtain ⟨h3, h4⟩ := h'
  have hc : t.cur = s.cur := by rw [h1]
  refine ⟨?_, fun n hn => ?_⟩
  · rw [h3]
    conv_lhs => rw [h1]
  · rw [h4 n (by rw [hc]; exact hn), h2 n hn]

/-- What a jump does (R65, R132). -/
theorem State.jump_wentTo (s : State) (spc : Nat) : s.wentTo (s.jump spc) spc := by
  have hc : (s.jump spc).crew =
      { s.crew.updSplit s.curSplit fun p => { p with spc := spc, wait := .none } with clock := s.crew.clock + 1 } :=
    State.crew_updCrew _ _
  refine ⟨⟨State.onlyCrew_updCrew s _, ?_, fun k hk => ?_, ?_⟩, ?_⟩
  · rw [hc]; rfl
  · rw [hc]
    exact Crew.split_updSplit_ne s.crew (fun p => { p with spc := spc, wait := .none }) hk
  · unfold State.split
    rw [hc]
    exact Crew.split_updSplit_same s.crew s.curSplit (fun p => { p with spc := spc, wait := .none })
  · rw [hc]; rfl

/-- What a completed word that writes a register does (R94, R132). -/
theorem State.write_wrote (s : State) (d : RegNo) (v : Word) : s.wrote (s.write d v) d v := by
  have hj := State.jump_wentTo (s.setSreg d v) ((s.setSreg d v).split.spc + 4)
  have hspc : (s.setSreg d v).split.spc = s.split.spc := by
    unfold State.split
    rw [State.crew_setSreg, State.setSreg_curSplit, Crew.setSreg_split]
  obtain ⟨⟨hoc, hcrew, hsplits, hsplit⟩, hin⟩ := hj
  have hwrite : s.write d v = (s.setSreg d v).jump ((s.setSreg d v).split.spc + 4) := rfl
  rw [hwrite]
  refine ⟨State.onlyCrew_trans (State.onlyCrew_updCrew s _) hoc, ?_, fun k hk => ?_, ?_, fun r => ?_⟩
  · rw [hcrew, hin, State.crew_setSreg, Crew.setSreg_eq]
  · rw [hsplits k (by simpa using hk), State.crew_setSreg]
    exact Crew.setSreg_split_ne _ _ _ hk
  · rw [hsplit, hspc]
    unfold State.split
    rw [State.crew_setSreg, State.setSreg_curSplit, Crew.setSreg_split]
  · rw [← show s.crew.sreg s.curSplit r = s.sreg r from rfl, ← Crew.sreg_setSreg]
    have hs : ((s.setSreg d v).jump ((s.setSreg d v).split.spc + 4)).crew.split s.curSplit =
        { (s.setSreg d v).split with spc := (s.setSreg d v).split.spc + 4, wait := .none } := hsplit
    show ((s.setSreg d v).jump _).crew.sreg s.curSplit r = _
    unfold Crew.sreg
    rw [hs, hcrew, State.crew_setSreg]
    unfold State.split
    rw [State.crew_setSreg, State.setSreg_curSplit]

/-- What staying at a word does (R132). -/
theorem State.stay_stayed (s : State) (w : Wait) : s.stayed (s.stay w) := by
  have hc : (s.stay w).crew = s.crew.updSplit s.curSplit fun p => { p with wait := w } := State.crew_updCrew _ _
  refine ⟨State.onlyCrew_updCrew s fun c => c.updSplit s.curSplit fun p => { p with wait := w }, ?_, fun k hk => ?_, ?_⟩
  · rw [hc]; rfl
  · rw [hc]; exact Crew.split_updSplit_ne _ _ hk
  · unfold State.split
    rw [hc]
    show (s.crew.updSplit s.curSplit _).split s.curSplit = _
    simp

end Sys2Proof.Machine
end

