-- ==== Sys2Proof/Laws/Lanes.lean ====
section
/-! SUPPORT. Laws of running a lane instruction: what the lanes of a crew hold after a change of each lane, and what the
common bodies do when nothing stops the instruction. -/

namespace Sys2Proof.Machine

/-! ## Lanes changed one by one -/

@[simp] theorem length_mapLanes (g : Nat → LaneState → LaneState) (k : Nat) (l : List LaneState) :
    (mapLanes g k l).length = l.length := by
  induction l generalizing k with
  | nil => rfl
  | cons a l ih => simp [mapLanes, ih]

theorem getD_mapLanes (g : Nat → LaneState → LaneState) (d : LaneState) (l : List LaneState) (k i : Nat)
    (h : i < l.length) : (mapLanes g k l).getD i d = g (k + i) (l.getD i d) := by
  induction l generalizing k i with
  | nil => simp at h
  | cons a l ih =>
    cases i with
    | zero => simp [mapLanes]
    | succ i =>
      have := ih (k + 1) i (by simpa using h)
      simp only [mapLanes, List.getD_cons_succ, this]
      congr 1
      omega

theorem Crew.lane_mapLanes (c : Crew) (g : Nat → LaneState → LaneState) {i : Nat} (h : i < c.lanes.length) :
    Crew.lane { c with lanes := mapLanes g 0 c.lanes } i = g i (c.lane i) := by
  have := getD_mapLanes g LaneState.empty c.lanes 0 i h
  simpa [Crew.lane] using this

theorem Crew.lane_mapExec (x : Ctx) (g : Nat → LaneState → LaneState) (c : Crew) {i : Nat} (h : i < c.lanes.length) :
    (x.mapExec g c).lane i = if x.exec.getLsbD i then g i (c.lane i) else c.lane i :=
  Crew.lane_mapLanes c _ h

theorem Ctx.mapExec_eq (x : Ctx) (g : Nat → LaneState → LaneState) (c : Crew) :
    x.mapExec g c = { c with lanes := (x.mapExec g c).lanes } := rfl

theorem Ctx.length_mapExec (x : Ctx) (g : Nat → LaneState → LaneState) (c : Crew) :
    (x.mapExec g c).lanes.length = c.lanes.length := by simp [Ctx.mapExec]

theorem Ctx.takeDraws_eq (x : Ctx) (c : Crew) : x.takeDraws c = { c with lanes := (x.takeDraws c).lanes } := by
  unfold Ctx.takeDraws
  split
  · rfl
  · exact x.mapExec_eq _ c

theorem Ctx.length_takeDraws (x : Ctx) (c : Crew) : (x.takeDraws c).lanes.length = c.lanes.length := by
  unfold Ctx.takeDraws
  split
  · rfl
  · exact x.length_mapExec _ c

/-- The draws of the executing lanes are counted, and nothing else of a lane changes (R104). -/
theorem Ctx.lane_takeDraws (x : Ctx) (c : Crew) {i : Nat} (h : i < c.lanes.length) :
    (x.takeDraws c).lane i =
      { c.lane i with
        count := if x.exec.getLsbD i then (c.lane i).count + BitVec.ofNat 32 x.drawCount else (c.lane i).count } := by
  unfold Ctx.takeDraws
  split
  · next hz => simp [hz]
  · rw [Crew.lane_mapExec x _ c h]
    split
    · rfl
    · rfl

/-! ## Registers of a lane -/

@[simp] theorem LaneState.reg_setReg (l : LaneState) (r n : Nat) (v : DWord) (p : Bool) :
    (l.setReg r v p).reg n = if n = r then ⟨v, true, p⟩ else l.reg n := by
  simp [LaneState.setReg, LaneState.reg, mapGet_mapSet]

@[simp] theorem LaneState.reg_setEmpty (l : LaneState) (r n : Nat) :
    (l.setEmpty r).reg n = if n = r then { l.reg n with full := false } else l.reg n := by
  unfold LaneState.setEmpty LaneState.reg
  rw [mapGet_mapSet]
  split
  · next h => subst h; rfl
  · rfl

/-! ## The flags of all lanes -/

theorem getLsbD_foldl_or (g : Nat → Flags) (l : List Nat) (z : Flags) (j : Nat) :
    (l.foldl (fun fl i => fl ||| g i) z).getLsbD j = (z.getLsbD j || l.any fun i => (g i).getLsbD j) := by
  induction l generalizing z with
  | nil => simp
  | cons a l ih => simp [ih, Bool.or_assoc]

theorem LaneRes.getLsbD_settle (r : LaneRes) (j : Nat) : r.settle.flags.getLsbD j = (!r.poison && r.flags.getLsbD j) := by
  unfold LaneRes.settle
  cases r.poison <;> simp

theorem Ctx.getLsbD_allFlags (x : Ctx) (g : Nat → LaneRes) (j : Nat) :
    (x.allFlags g).getLsbD j =
      (List.range 96).any fun i => x.exec.getLsbD i && !(g i).poison && (g i).flags.getLsbD j := by
  unfold Ctx.allFlags Ctx.lanes
  rw [getLsbD_foldl_or (fun i => (g i).settle.flags)]
  simp [LaneRes.getLsbD_settle, List.any_filter, Bool.and_assoc]

/-! ## Results -/

theorem Ctx.put_eq (x : Ctx) (g : Nat → LaneRes) (c : Crew) :
    x.put g c = { c with lanes := (x.put g c).lanes, fsum := (x.put g c).fsum } := rfl

theorem Ctx.length_put (x : Ctx) (g : Nat → LaneRes) (c : Crew) : (x.put g c).lanes.length = c.lanes.length := by
  simp [Ctx.put]

theorem Ctx.lane_put (x : Ctx) (g : Nat → LaneRes) (c : Crew) {i : Nat} (h : i < c.lanes.length) :
    (x.put g c).lane i = x.putLane g i (c.lane i) := Crew.lane_mapLanes _ _ h

theorem Ctx.preds_putLane (x : Ctx) (g : Nat → LaneRes) (i : Nat) (l : LaneState) :
    (x.putLane g i l).preds = l.preds := by
  unfold Ctx.putLane LaneState.push LaneState.setReg
  simp only
  split <;> [skip; split] <;> (try split) <;> (try split) <;> rfl

/-- What writing and pushing a lane's result does, after its draws have been counted. -/
theorem Ctx.lanePushed_putLane (x : Ctx) (g : Nat → LaneRes) (i : Nat) (l : LaneState) :
    x.lanePushed (x.sh.dst = .push) g i l
      (x.putLane g i { l with
        count := if x.exec.getLsbD i then l.count + BitVec.ofNat 32 x.drawCount else l.count }) := by
  have hs : (if (g i).poison then (⟨0, true, 0⟩ : LaneRes) else g i) = (g i).settle := rfl
  unfold Ctx.lanePushed
  simp only [hs]
  by_cases he : x.exec.getLsbD i <;> by_cases hm : x.members.getLsbD i <;> by_cases hd : x.f.dst = 255#8 <;>
    by_cases hp : x.sh.dst = .push <;>
    simp [Ctx.putLane, LaneState.push, LaneState.setReg, LaneState.reg, mapGet_mapSet, he, hm, hd, hp]

/-! ## The head of the queue -/

theorem retireHead_none {e : LaneEntry} {q : List LaneEntry} (h : q.head? = some e) (hr : e.rep = none) :
    retireHead q = q.tail := by
  cases q with
  | nil => rfl
  | cons a q =>
    obtain rfl : a = e := by simpa using h
    simp [retireHead, hr]

/-- A lane instruction that stands at the head, passes its checks and is held back by nothing runs its body. -/
theorem laneRun_body {shape : LaneFields → Shape} {body : Body} {f : LaneFields} {s : State} {e : LaneEntry} {op : BitVec 8}
    (hh : s.laneHead op f e) (hok : s.laneOk (shape f) f e) :
    laneRun shape body f s = s.laneBody body (s.laneCtx (shape f) e f) := by
  obtain ⟨hq, -, hrep, -⟩ := hh
  obtain ⟨hc, ht, hw⟩ := hok
  obtain ⟨rest, hl⟩ : ∃ rest, s.crew.laneQ = e :: rest := by
    cases h : s.crew.laneQ with
    | nil => simp [h] at hq
    | cons a r => exact ⟨r, by simp [h] at hq; rw [hq]⟩
  have hens : s.ensureHead (shape f).op f = s := by simp [State.ensureHead, hl]
  have hv : s.laneVerdict shape e f = .go (s.laneCtx (shape f) e f) := by
    simp [State.laneVerdict, LaneEntry.prefixTrap, LaneEntry.fields, hrep, hc, ht, hw]
  simp only [laneRun, hens, hl, hv]

/-- A lane instruction at the head that something stops traps or waits (R108, R113). -/
theorem stops_of_run {mk : LaneFields → Instr} {shape : State → LaneFields → Shape} {body : LaneFields → Body}
    (hrun : ∀ f s, exec (mk f) s = laneRun (shape s) (body f) f s) : Stops mk shape := by
  rintro s f e ⟨hq, -, hrep, -⟩
  obtain ⟨rest, hl⟩ : ∃ rest, s.crew.laneQ = e :: rest := by
    cases h : s.crew.laneQ with
    | nil => simp [h] at hq
    | cons a r => exact ⟨r, by simp [h] at hq; rw [hq]⟩
  have hens : s.ensureHead (shape s f).op f = s := by simp [State.ensureHead, hl]
  refine ⟨fun t hc => ?_, fun hc t ht => ?_, fun hc ht hw => ?_⟩
  · have hv : s.laneVerdict (shape s) e f = .trap t := by simp [State.laneVerdict, LaneEntry.prefixTrap, LaneEntry.fields, hrep, hc]
    simp only [hrun, laneRun, hens, hl, hv]
  · have hv : s.laneVerdict (shape s) e f = .trap t := by simp [State.laneVerdict, LaneEntry.prefixTrap, LaneEntry.fields, hrep, hc, ht]
    simp only [hrun, laneRun, hens, hl, hv]
  · have hv : s.laneVerdict (shape s) e f = .wait := by simp [State.laneVerdict, LaneEntry.prefixTrap, LaneEntry.fields, hrep, hc, ht, hw]
    simp only [hrun, laneRun, hens, hl, hv]

/-- The crew after the draws, an effect and the retirement of the head. -/
theorem State.crew_updCrew3 (s : State) (f g h : Crew → Crew) :
    (((s.updCrew f).updCrew g).updCrew h).crew = h (g (f s.crew)) := by simp [State.crew_updCrew]

theorem State.onlyCrew_updCrew3 (s : State) (f g h : Crew → Crew) :
    s.onlyCrew (((s.updCrew f).updCrew g).updCrew h) :=
  State.onlyCrew_trans (State.onlyCrew_trans (State.onlyCrew_updCrew s f) (State.onlyCrew_updCrew _ g))
    (State.onlyCrew_updCrew _ h)

/-- A pushing body whose effect on the crew is put and then a change of the predicates. -/
theorem pushed_of_put {s : State} {sh : Shape} {f : LaneFields} {e : LaneEntry} {op : BitVec 8}
    (hh : s.laneHead op f e) (hd : sh.dst = .push) (g : Nat → LaneRes) (pr : Nat → BitVec 15) (post : Crew → Crew)
    (hpost : ∀ c : Crew, c.lanes.length = 96 → (∀ i < 96, (c.lane i).preds = (s.crew.lane i).preds) →
      post c = { c with lanes := (post c).lanes } ∧ (post c).lanes.length = 96 ∧
        ∀ i < 96, (post c).lane i =
          { c.lane i with preds := if (s.laneCtx sh e f).exec.getLsbD i then pr i else (c.lane i).preds }) :
    let x := s.laneCtx sh e f
    x.pushed g pr s (((s.updCrew x.takeDraws).updCrew fun c => post (x.put g c)).updCrew fun c => c.retire false) := by
  intro x
  obtain ⟨hq, -, hrep, hlen⟩ := hh
  have hx : x.sh.dst = .push := hd
  have h1 : (x.takeDraws s.crew).lanes.length = 96 := by rw [x.length_takeDraws, hlen]
  have h2 : (x.put g (x.takeDraws s.crew)).lanes.length = 96 := by rw [x.length_put, h1]
  obtain ⟨hp1, hp2, hp3⟩ := hpost (x.put g (x.takeDraws s.crew)) h2 fun i hi => by
    rw [x.lane_put g _ (by rw [h1]; exact hi), x.preds_putLane, x.lane_takeDraws _ (by rw [hlen]; exact hi)]
  refine ⟨State.onlyCrew_updCrew3 .., ?_, ?_, fun i hi => ⟨?_, ?_⟩, fun j _ => ?_⟩
  · rw [State.crew_updCrew3, hp1, x.put_eq, x.takeDraws_eq]
    simp only [Crew.retire, retireHead_none hq hrep]
    rfl
  · rw [State.crew_updCrew3]; exact hp2
  · rw [State.crew_updCrew3]
    have hl : Crew.lane ((post (x.put g (x.takeDraws s.crew))).retire false) i =
        (post (x.put g (x.takeDraws s.crew))).lane i := rfl
    rw [hl, hp3 i hi, x.lane_put g _ (by rw [h1]; exact hi), x.lane_takeDraws _ (by rw [hlen]; exact hi)]
    have := x.lanePushed_putLane g i (s.crew.lane i)
    simp only [hx, decide_true] at this
    exact this
  · rw [State.crew_updCrew3]
    have hl : Crew.lane ((post (x.put g (x.takeDraws s.crew))).retire false) i =
        (post (x.put g (x.takeDraws s.crew))).lane i := rfl
    rw [hl, hp3 i hi, x.lane_put g _ (by rw [h1]; exact hi), x.preds_putLane,
      x.lane_takeDraws _ (by rw [hlen]; exact hi)]
  · rw [State.crew_updCrew3]
    have : ((post (x.put g (x.takeDraws s.crew))).retire false).fsum = s.crew.fsum ||| x.allFlags g := by
      rw [hp1, x.takeDraws_eq]; rfl
    rw [this, BitVec.getLsbD_or, x.getLsbD_allFlags]

/-! ## What the common bodies do -/

/-- A pushing instruction that gives each executing lane a value. -/
theorem pushes_of_finish {mk : LaneFields → Instr} {shape : LaneFields → Shape} {body : Body} {g : Ctx → Nat → LaneRes}
    (hrun : ∀ f s, exec (mk f) s = laneRun shape body f s) (hd : ∀ f, (shape f).dst = .push)
    (hb : ∀ x s, x.sh.dst = .push → body x s = .ok (s.updCrew (x.put (g x)))) : Pushes mk shape g := by
  refine ⟨stops_of_run hrun, fun s f e hh hok => ?_⟩
  refine ⟨_, ?_, pushed_of_put hh (hd f) (g (s.laneCtx (shape f) e f)) _ id fun c hc hp => ⟨rfl, hc, fun i hi => ?_⟩⟩
  · rw [hrun, laneRun_body hh hok, State.laneBody, hb _ _ (hd f)]
    have : ((s.laneCtx (shape f) e f).sh.dst = .long) = False := by
      simp [show (s.laneCtx (shape f) e f).sh.dst = .push from hd f]
    simp [this]
  · simp [← hp i hi]

theorem finish_push {x : Ctx} (h : x.sh.dst = .push) (g : Nat → LaneRes) (s : State) :
    x.finish g s = .ok (s.updCrew (x.put g)) := by simp [Ctx.finish, h]

/-- perLane gives each executing lane the value, flags and poison of its own sources. -/
theorem pushes_perLane {mk : LaneFields → Instr} {shape : LaneFields → Shape}
    {g : Ctx → Nat → DWord → DWord → DWord → DWord × Flags}
    (hrun : ∀ f s, exec (mk f) s = laneRun shape (perLane g) f s) (hd : ∀ f, (shape f).dst = .push) :
    Pushes mk shape fun x i =>
      ⟨(g x i (x.val 0 i) (x.val 1 i) (x.val 2 i)).1, x.anyPoison i, (g x i (x.val 0 i) (x.val 1 i) (x.val 2 i)).2⟩ :=
  pushes_of_finish hrun hd fun _ s h => finish_push h _ s

/-- A lane's predicates after one of them has been set. -/
theorem Ctx.lane_setPred (x : Ctx) (n : Nat) (p : Nat → Bool) (c : Crew) {i : Nat} (h : i < c.lanes.length) :
    (x.setPred n p c).lane i =
      if x.exec.getLsbD i ∧ n ≠ 15 then (c.lane i).setPred n (p i) else c.lane i := by
  unfold Ctx.setPred
  by_cases hn : n = 15
  · simp [hn]
  · simp only [hn, if_false, ne_eq, not_false_eq_true, and_true]
    exact Crew.lane_mapExec x _ c h

theorem Ctx.setPred_eq (x : Ctx) (n : Nat) (p : Nat → Bool) (c : Crew) :
    x.setPred n p c = { c with lanes := (x.setPred n p c).lanes } := by
  unfold Ctx.setPred
  split <;> rfl

theorem Ctx.length_setPred (x : Ctx) (n : Nat) (p : Nat → Bool) (c : Crew) :
    (x.setPred n p c).lanes.length = c.lanes.length := by
  unfold Ctx.setPred
  split
  · rfl
  · exact x.length_mapExec _ c

/-- A pushing body that also sets a predicate. -/
theorem pushed_setPred {s : State} {sh : Shape} {f : LaneFields} {e : LaneEntry} {op : BitVec 8}
    (hh : s.laneHead op f e) (hd : sh.dst = .push) (g : Nat → LaneRes) (n : Nat) (p : Nat → Bool) :
    let x := s.laneCtx sh e f
    x.pushed g (fun i => if n = 15 then (s.crew.lane i).preds else ((s.crew.lane i).setPred n (p i)).preds) s
      (((s.updCrew x.takeDraws).updCrew fun c => x.setPred n p (x.put g c)).updCrew fun c => c.retire false) := by
  intro x
  refine pushed_of_put hh hd g _ (x.setPred n p) fun c hc hp => ⟨x.setPred_eq n p c, ?_, fun i hi => ?_⟩
  · rw [x.length_setPred, hc]
  · rw [x.lane_setPred n p c (by rw [hc]; exact hi)]
    by_cases he : x.exec.getLsbD i
    · by_cases hn : n = 15
      · simp [hn, ← hp i hi]
      · simp [he, hn, LaneState.setPred, ← hp i hi, show (s.laneCtx sh e f).exec.getLsbD i = true from he]
    · simp [he, show ¬(s.laneCtx sh e f).exec.getLsbD i = true from he]

/-- predLane: the poison trap apart, each executing lane gets a value and, unless the number is 15, a predicate. -/
theorem pushesIf_predLane {mk : LaneFields → Instr} {shape : LaneFields → Shape} {n : LaneFields → Nat}
    {g : Ctx → Nat → DWord → DWord → DWord → DWord × Bool × Flags}
    (hrun : ∀ f s, exec (mk f) s = laneRun shape (predLane (n f) g) f s) (hd : ∀ f, (shape f).dst = .push) :
    PushesIf mk shape
      (fun x => n x.f ≠ 15 → ∀ i ∈ x.lanes, ∀ k < 3, x.sh.uses.getLsbD k → x.poison k i = false)
      (fun x i =>
        let r := g x i (x.val 0 i) (x.val 1 i) (x.val 2 i)
        ⟨r.1, x.anyPoison i, r.2.2⟩)
      (fun x i =>
        if n x.f = 15 then (x.c.lane i).preds
        else ((x.c.lane i).setPred (n x.f) (g x i (x.val 0 i) (x.val 1 i) (x.val 2 i)).2.1).preds) := by
  refine ⟨stops_of_run hrun, fun s f e hh hok hp => ?_⟩
  refine ⟨_, ?_, pushed_setPred hh (hd f) _ _ _⟩
  rw [hrun, laneRun_body hh hok, State.laneBody]
  have hl : ((s.laneCtx (shape f) e f).sh.dst = .long) = False := by
    simp [show (s.laneCtx (shape f) e f).sh.dst = .push from hd f]
  have ht : (if n f = 15 then none
      else (s.laneCtx (shape f) e f).poisonTrap (s.laneCtx (shape f) e f).lanes (fun _ => 0) [(0, 3), (1, 3), (2, 3)]) =
      none := by
    split
    · rfl
    · next hn =>
      have := hp hn
      simp only [Ctx.poisonTrap, List.findSome?_eq_none_iff, Option.map_eq_none_iff, List.find?_eq_none]
      intro u hu i hi
      have hk : u.1 < 3 := by
        simp only [List.mem_cons, List.not_mem_nil, or_false] at hu
        rcases hu with rfl | rfl | rfl <;> decide
      have := this i hi u.1 hk
      cases hus : BitVec.getLsbD (s.laneCtx (shape f) e f).sh.uses u.1
      · simp
      · simp [this hus]
  simp only [predLane, ht, hl, decide_false]
  rfl

/-! ## Long-latency producers -/

theorem Ctx.later_nil {x : Ctx} (h : x.lanes.isEmpty = true) (g : Nat → LaneRes) (c : Crew) :
    x.later g c = { c with clock := c.clock + 1 } := by simp [Ctx.later, h]

theorem Ctx.exec_of_nil {x : Ctx} (h : x.lanes.isEmpty = true) {i : Nat} (hi : i < 96) : x.exec.getLsbD i = false := by
  have : x.lanes = [] := by simpa using h
  by_contra hc
  have : i ∈ x.lanes := List.mem_filter.mpr ⟨List.mem_range.mpr hi, by simpa only [Bool.not_eq_false] using hc⟩
  simp_all

/-- A long-latency instruction that gives each executing lane a value sends it (R107, R158). -/
theorem sends_of_finish {mk : LaneFields → Instr} {shape : LaneFields → Shape} {body : Body} {g : Ctx → Nat → LaneRes}
    (hrun : ∀ f s, exec (mk f) s = laneRun shape body f s) (hd : ∀ f, (shape f).dst = .long)
    (hb : ∀ x s, x.sh.dst = .long → body x s = .ok (s.updCrew (x.later (g x)))) : Sends mk shape g := by
  refine ⟨stops_of_run hrun, fun s f e hh hok => ?_⟩
  have hlong : (s.laneCtx (shape f) e f).sh.dst = .long := hd f
  have hex : exec (mk f) s = .next ((((s.updCrew (s.laneCtx (shape f) e f).takeDraws).updCrew
      ((s.laneCtx (shape f) e f).later (g (s.laneCtx (shape f) e f)))).updCrew fun c => c.retire true)) := by
    rw [hrun, laneRun_body hh hok, State.laneBody, hb _ _ (hd f)]
    simp [hlong]
  refine ⟨_, hex, ?_⟩
  obtain ⟨hq, -, hrep, hlen⟩ := hh
  generalize hxx : s.laneCtx (shape f) e f = x at *
  have h1 : (x.takeDraws s.crew).lanes.length = 96 := by rw [x.length_takeDraws, hlen]
  have htd := x.takeDraws_eq s.crew
  have hr := retireHead_none hq hrep
  cases hn : x.lanes.isEmpty
  · refine ⟨State.onlyCrew_updCrew3 .., ?_, ?_, ?_, ?_, fun i hi => ?_⟩
    · rw [State.crew_updCrew3, htd]
      simp [Ctx.later, hn, Crew.retire, hr, Ctx.mapExec]
    · rw [State.crew_updCrew3]
      simp [Ctx.later, hn, Crew.retire, Ctx.mapExec, h1]
    · rw [State.crew_updCrew3, htd]
      simp [Ctx.later, hn, Crew.retire, LaneRes.settle]
    · rw [State.crew_updCrew3, htd]
      simp [Ctx.later, hn, Crew.retire, Ctx.mapExec]
    · rw [State.crew_updCrew3]
      have hl : Crew.lane ((x.later (g x) (x.takeDraws s.crew)).retire true) i =
          (x.mapExec (fun _ l => l.setEmpty (regIndex x.f.dst)) (x.takeDraws s.crew)).lane i := by
        simp [Ctx.later, hn, Crew.retire, Crew.lane]
      rw [hl, Crew.lane_mapExec x _ _ (by rw [h1]; exact hi), x.lane_takeDraws _ (by rw [hlen]; exact hi)]
      by_cases he : x.exec.getLsbD i
      · simp only [he, if_true]
        refine ⟨fun n => ?_, rfl, rfl, rfl, rfl, rfl⟩
        rw [LaneState.reg_setEmpty]
        simp only [true_and]
        rfl
      · simp only [he]
        exact ⟨fun n => by simp [LaneState.reg], rfl, rfl, rfl, rfl, rfl⟩
  · refine ⟨State.onlyCrew_updCrew3 .., ?_, ?_, ?_, ?_, fun i hi => ?_⟩
    · rw [State.crew_updCrew3, htd]
      simp [Ctx.later, hn, Crew.retire, hr]
    · rw [State.crew_updCrew3]
      simp [Ctx.later, hn, Crew.retire, h1]
    · rw [State.crew_updCrew3, htd]
      simp [Ctx.later, hn, Crew.retire]
    · rw [State.crew_updCrew3, htd]
      simp [Ctx.later, hn, Crew.retire]
    · rw [State.crew_updCrew3]
      have hl : Crew.lane ((x.later (g x) (x.takeDraws s.crew)).retire true) i = (x.takeDraws s.crew).lane i := by
        simp [Ctx.later, hn, Crew.retire, Crew.lane]
      rw [hl, x.lane_takeDraws _ (by rw [hlen]; exact hi)]
      simp [Ctx.exec_of_nil hn hi, LaneState.reg]

theorem finish_long {x : Ctx} (h : x.sh.dst = .long) (g : Nat → LaneRes) (s : State) :
    x.finish g s = .ok (s.updCrew (x.later g)) := by simp [Ctx.finish, h]

/-- perLane of a long-latency instruction. -/
theorem sends_perLane {mk : LaneFields → Instr} {shape : LaneFields → Shape}
    {g : Ctx → Nat → DWord → DWord → DWord → DWord × Flags}
    (hrun : ∀ f s, exec (mk f) s = laneRun shape (perLane g) f s) (hd : ∀ f, (shape f).dst = .long) :
    Sends mk shape fun x i =>
      ⟨(g x i (x.val 0 i) (x.val 1 i) (x.val 2 i)).1, x.anyPoison i, (g x i (x.val 0 i) (x.val 1 i) (x.val 2 i)).2⟩ :=
  sends_of_finish hrun hd fun _ s h => finish_long h _ s

end Sys2Proof.Machine
end

