-- ==== Sys2Proof/Laws/Memory.lean ====
section
/-! SUPPORT. Laws of the package's memories: what a store changes, and that every operation over them keeps the canonical
form. -/

namespace Sys2Proof.Machine

/-! ## Spaces and marks -/

@[simp] theorem Mem.space_setSpace (m : Mem) (sp tp : Sp) (b : Memory) :
    (m.setSpace sp b).space tp = if tp = sp then b else m.space tp := by cases sp <;> cases tp <;> rfl

@[simp] theorem Mem.space_setPoison (m : Mem) (sp tp : Sp) (p : List (Nat × Bool)) :
    (m.setPoison sp p).space tp = m.space tp := by cases sp <;> cases tp <;> rfl

@[simp] theorem Mem.poison_setPoison (m : Mem) (sp tp : Sp) (p : List (Nat × Bool)) :
    (m.setPoison sp p).poison tp = if tp = sp then p else m.poison tp := by cases sp <;> cases tp <;> rfl

@[simp] theorem Mem.poison_setSpace (m : Mem) (sp tp : Sp) (b : Memory) :
    (m.setSpace sp b).poison tp = m.poison tp := by cases sp <;> cases tp <;> rfl

@[simp] theorem Mem.space_tags (m : Mem) (l : List (Nat × Bool)) (tp : Sp) : ({ m with tags := l }).space tp = m.space tp := by
  cases tp <;> rfl

@[simp] theorem Mem.poison_tags (m : Mem) (l : List (Nat × Bool)) (tp : Sp) : ({ m with tags := l }).poison tp = m.poison tp := by
  cases tp <;> rfl

/-- The canonical form, said of each space. -/
theorem Mem.wf_iff (m : Mem) : m.wf ↔ ∀ sp, (m.space sp).wf :=
  ⟨fun ⟨h1, h2, h3, h4, h5⟩ sp => by cases sp <;> assumption, fun h => ⟨h .bmem, h .spad, h .acc, h .cells, h .hbm⟩⟩

/-- Memories with the same bytes are in canonical form together. -/
theorem Mem.wf_congr {m n : Mem} (h : ∀ sp, n.space sp = m.space sp) : n.wf ↔ m.wf := by simp only [Mem.wf_iff, h]

theorem Mem.setSpace_wf {m : Mem} (sp : Sp) {b : Memory} (h : m.wf) (hb : b.wf) : (m.setSpace sp b).wf := by
  rw [Mem.wf_iff] at h ⊢
  intro tp
  rw [Mem.space_setSpace]
  split
  · exact hb
  · exact h tp

theorem Mem.setPoison_wf {m : Mem} (sp : Sp) (p : List (Nat × Bool)) (h : m.wf) : (m.setPoison sp p).wf :=
  (Mem.wf_congr fun tp => Mem.space_setPoison m sp tp p).2 h

/-! ## Stores -/

/-- The bytes of a space after a store. -/
@[simp] theorem Mem.space_store (m : Mem) (sp tp : Sp) (a : Nat) (bs : List Byte) :
    (m.store sp a bs).space tp = if tp = sp then memPut (m.space sp) a bs else m.space tp := by
  unfold Mem.store
  cases sp <;> cases tp <;> rfl

/-- A byte outside a store reads as before. -/
theorem Mem.byte_store_outside (m : Mem) (sp tp : Sp) (a c : Nat) (bs : List Byte)
    (h : tp ≠ sp ∨ c < a ∨ a + bs.length ≤ c) : (m.store sp a bs).byte tp c = m.byte tp c := by
  unfold Mem.byte
  rw [Mem.space_store]
  split
  · next he =>
    subst he
    exact memGet_memPut_outside bs _ a c (h.resolve_left (fun n => n rfl))
  · rfl

/-- A byte of a store reads as it was written. -/
theorem Mem.byte_store_inside (m : Mem) (sp : Sp) (a i : Nat) (bs : List Byte) (h : i < bs.length) :
    (m.store sp a bs).byte sp (a + i) = bs[i] := by
  unfold Mem.byte
  rw [Mem.space_store, if_pos rfl]
  exact memGet_memPut_inside bs _ a i h

/-- A number stored is read back modulo its size. -/
theorem Mem.nat_storeNat (m : Mem) (sp : Sp) (a n v : Nat) : (m.storeNat sp a n v).nat sp a n = v % 256 ^ n := by
  unfold Mem.nat Mem.storeNat
  rw [Mem.space_store, if_pos rfl]
  exact memNat_memPutNat _ a n v

/-- A number outside a store reads as before. -/
theorem Mem.nat_storeNat_outside (m : Mem) (sp tp : Sp) (a n v c k : Nat) (h : tp ≠ sp ∨ c + k ≤ a ∨ a + n ≤ c) :
    (m.storeNat sp a n v).nat tp c k = m.nat tp c k := by
  unfold Mem.nat Mem.storeNat
  rw [Mem.space_store]
  split
  · next he =>
    subst he
    exact memNat_memPutNat_outside _ a n v c k (h.resolve_left (fun n => n rfl))
  · rfl

theorem Mem.store_wf {m : Mem} (sp : Sp) (a : Nat) (bs : List Byte) (h : m.wf) : (m.store sp a bs).wf := by
  rw [Mem.wf_iff] at h ⊢
  intro tp
  rw [Mem.space_store]
  split
  · exact memPut_wf bs _ a (h sp)
  · exact h tp

theorem Mem.storeNat_wf {m : Mem} (sp : Sp) (a n v : Nat) (h : m.wf) : (m.storeNat sp a n v).wf := Mem.store_wf sp a _ h

theorem Mem.mark_wf {m : Mem} (sp : Sp) (a : Nat) (h : m.wf) : (m.mark sp a).wf := Mem.setPoison_wf sp _ h

/-- A mark leaves every byte. -/
@[simp] theorem Mem.space_mark (m : Mem) (sp tp : Sp) (a : Nat) : (m.mark sp a).space tp = m.space tp :=
  Mem.space_setPoison m sp tp _

@[simp] theorem Mem.space_zero (m : Mem) (sp tp : Sp) (a n : Nat) :
    (m.zero sp a n).space tp = if tp = sp then memZero (m.space sp) a n else m.space tp := by
  unfold Mem.zero
  cases sp <;> cases tp <;> rfl

theorem Mem.zero_wf {m : Mem} (sp : Sp) (a n : Nat) (h : m.wf) : (m.zero sp a n).wf := by
  rw [Mem.wf_iff] at h ⊢
  intro tp
  rw [Mem.space_zero]
  split
  · exact memZero_wf _ a n (h sp)
  · exact h tp

/-! ## Folds -/

/-- A property that each turn keeps holds after a fold. -/
theorem foldl_keeps {α β : Type} (p : β → Prop) (f : β → α → β) (l : List α) :
    ∀ b, (∀ b x, x ∈ l → p b → p (f b x)) → p b → p (l.foldl f b) := by
  induction l with
  | nil => intro b _ h; exact h
  | cons x rest ih =>
    intro b hf h
    exact ih _ (fun b y hy => hf b y (by simp [hy])) (hf b x (by simp) h)

theorem WinEntry.drain_wf (e : WinEntry) {m : Mem} (h : m.wf) : (e.drain m).wf := by
  unfold WinEntry.drain
  dsimp only
  split
  · exact Mem.store_wf _ _ _ h
  · refine foldl_keeps Mem.wf _ _ m (fun b j _ hb => ?_) h
    split
    · exact Mem.store_wf _ _ _ hb
    · refine foldl_keeps Mem.wf _ _ b (fun c i _ hc => ?_) hb
      split
      · exact Mem.store_wf _ _ _ hc
      · exact hc

theorem Buffered.apply_wf (b : Buffered) {m : Mem} (h : m.wf) : (b.apply m).1.wf := by
  unfold Buffered.apply
  dsimp only
  split
  · split
    · exact h
    · exact Mem.storeNat_wf _ _ _ _ h
  · split
    · exact h
    · exact Mem.storeNat_wf _ _ _ _ h

/-! ## Operations of a crew -/

theorem State.drainIf_wf {s : State} (slot : Nat) (p : WinEntry → Bool) (h : s.mem.wf) : (s.drainIf slot p).mem.wf := by
  unfold State.drainIf
  dsimp only
  split
  · exact h
  · exact foldl_keeps Mem.wf _ _ _ (fun b e _ hb => e.drain_wf hb) h

theorem State.drain_wf {s : State} (h : s.mem.wf) : s.drain.mem.wf := State.drainIf_wf _ _ h

theorem State.flushAt_wf {s : State} (slot : Nat) (h : s.mem.wf) : (s.flushAt slot).mem.wf := by
  unfold State.flushAt
  dsimp only
  split
  · exact h
  · exact foldl_keeps (fun x : Mem × Crew => x.1.wf) _ _ _ (fun x b _ hx => b.apply_wf hx) h

theorem State.windowStore_wf {s : State} (slot : Nat) (spad : Bool) (a : Nat) (bs : List Byte) (h : s.mem.wf) :
    (s.windowStore slot spad a bs).mem.wf := by
  unfold State.windowStore
  dsimp only
  split
  · exact h
  · split
    · split
      · exact h
      · exact WinEntry.drain_wf _ h
    · exact h

theorem State.post_wf {s : State} (job launch : Nat) (r : Record) (h : s.mem.wf) : (s.post job launch r).mem.wf := by
  unfold State.post
  split
  · exact h
  · next q _ =>
    dsimp only
    generalize (if s.mem.nat Sp.hbm (q + 8) 4 = 0 then 0 else
      (s.mem.nat Sp.hbm q 4 + 1) % s.mem.nat Sp.hbm (q + 8) 4 : Nat) = next
    rw [apply_ite State.mem]
    split
    · exact Mem.storeNat_wf _ _ _ _ h
    · exact Mem.storeNat_wf _ _ _ _ (Mem.store_wf _ _ _ h)

/-! ## Sync objects -/

theorem State.setObjLow_wf {s : State} (spad : Bool) (a w : Nat) (h : s.mem.wf) : (s.setObjLow spad a w).mem.wf :=
  Mem.storeNat_wf _ _ _ _ h

theorem State.release_wf {s : State} (spad : Bool) (a : Nat) (clk : DWord) (h : s.mem.wf) : (s.release spad a clk).mem.wf :=
  Mem.storeNat_wf _ _ _ _ h

theorem State.setXw_wf {s : State} (spad : Bool) (a : Nat) (v : Bool) (h : s.mem.wf) : (s.setXw spad a v).mem.wf := by
  unfold State.setXw
  dsimp only
  split <;> split
  · exact h
  · exact Mem.storeNat_wf _ _ _ _ h
  · exact h
  · exact Mem.storeNat_wf _ _ _ _ h

/-! ## HBM and places -/

theorem State.putCk_wf {s : State} (part at' : Nat) (b : Bool) (h : s.mem.wf) : (s.putCk part at' b).mem.wf :=
  Mem.store_wf _ _ _ h

theorem State.copyUnit_wf {s : State} (part : Nat) (u : Nat × Nat) (h : s.mem.wf) : (s.copyUnit part u).mem.wf := by
  unfold State.copyUnit
  split
  · exact h
  · exact foldl_keeps (fun t : State => t.mem.wf) _ _ _ (fun t l _ ht => State.putCk_wf _ _ _ ht) h

theorem State.beforeWrite_wf {s : State} (part off : Nat) (h : s.mem.wf) : (s.beforeWrite part off).mem.wf :=
  foldl_keeps (fun t : State => t.mem.wf) _ _ _ (fun _ u _ ht => State.copyUnit_wf part u ht) h

theorem State.hbmStore_wf {s : State} (part off : Nat) (bs : List Byte) (h : s.mem.wf) : (s.hbmStore part off bs).mem.wf :=
  Mem.store_wf _ _ _ (State.beforeWrite_wf part off h)

theorem State.spotPut_wf {s : State} (x : Spot) (bs : List Byte) (h : s.mem.wf) : (s.spotPut x bs).mem.wf := by
  cases x with
  | mem sp a => exact Mem.store_wf _ _ _ h
  | hbm p o => exact State.hbmStore_wf p o bs h

theorem State.spotMark_wf {s : State} (x : Spot) (h : s.mem.wf) : (s.spotMark x).mem.wf := Mem.mark_wf _ _ h

theorem State.spotRun_wf (n : Nat) : ∀ {s : State} (x : Spot) (bs : List (Byte × Bool)), s.mem.wf → (s.spotRun x n bs).mem.wf := by
  induction n with
  | zero => intro s x bs h; exact h
  | succ n ih =>
    intro s x bs h
    unfold State.spotRun
    split
    · exact h
    · dsimp only
      split
      · exact ih _ _ (State.spotMark_wf x (State.spotPut_wf x _ h))
      · exact ih _ _ (State.spotPut_wf x _ h)

theorem State.spotWrite_wf {s : State} (x : Spot) (bs : List (Byte × Bool)) (h : s.mem.wf) : (s.spotWrite x bs).mem.wf :=
  State.spotRun_wf _ x bs h

theorem State.spotRelease_wf {s : State} (x : Spot) (clk : DWord) (h : s.mem.wf) : (s.spotRelease x clk).mem.wf := by
  unfold State.spotRelease
  split
  · exact State.release_wf _ _ _ h
  · exact State.release_wf _ _ _ h
  · exact State.spotPut_wf _ _ h

/-! ## Reset -/

/-- The memories are in canonical form right after reset. -/
theorem State.reset_mem_wf : State.reset.mem.wf := by
  refine ⟨?_, ?_, ?_, ?_, ?_⟩ <;> rfl

end Sys2Proof.Machine
end

