-- ==== Sys2Proof/Laws/Ops.lean ====
section
/-! SUPPORT. Laws of the shared operations: what each one can change. Later proofs cite these and unfold none of them. -/

namespace Sys2Proof.Machine

/-! ## What an operation leaves alone -/

/-- Only memory differs after a fault record (R234). -/
theorem State.post_frame (s : State) (job launch : Nat) (r : Record) :
    s.post job launch r = { s with mem := (s.post job launch r).mem } := by
  unfold State.post
  split
  · rfl
  · next q _ =>
    dsimp only
    generalize (if s.mem.nat Sp.hbm (q + 8) 4 = 0 then 0 else
      (s.mem.nat Sp.hbm q 4 + 1) % s.mem.nat Sp.hbm (q + 8) 4 : Nat) = next
    split <;> rfl

/-- Only the crews and memory differ after a window drains (R24). -/
theorem State.drainIf_frame (s : State) (slot : Nat) (p : WinEntry → Bool) :
    s.drainIf slot p = { s with crews := (s.drainIf slot p).crews, mem := (s.drainIf slot p).mem } := by
  unfold State.drainIf
  dsimp only
  split <;> rfl

/-- A crew whose window has drained, and the others (R24). -/
theorem State.crewAt_drainIf (s : State) (slot n : Nat) (p : WinEntry → Bool) :
    (s.drainIf slot p).crewAt n =
      if n = slot then { s.crewAt slot with window := (s.crewAt slot).window.filter fun e => !p e } else s.crewAt n := by
  unfold State.drainIf
  dsimp only
  split
  · next h =>
    have hw : (s.crewAt slot).window = [] := by simpa using h
    split
    · next hn => subst hn; rw [hw]; cases hc : s.crewAt n; simp_all
    · rfl
  · exact mapGet_mapSet Crew.empty s.crews slot n _

/-- Only the crews and memory differ after an ordinary store (R23). -/
theorem State.windowStore_frame (s : State) (slot : Nat) (spad : Bool) (a : Nat) (bs : List Byte) :
    s.windowStore slot spad a bs =
      { s with crews := (s.windowStore slot spad a bs).crews, mem := (s.windowStore slot spad a bs).mem } := by
  unfold State.windowStore
  dsimp only
  split
  · rfl
  · split
    · split <;> rfl
    · rfl

/-- Only the crews and memory differ after a flush point (R36). -/
theorem State.flushAt_frame (s : State) (slot : Nat) :
    s.flushAt slot = { s with crews := (s.flushAt slot).crews, mem := (s.flushAt slot).mem } := by
  unfold State.flushAt
  dsimp only
  split <;> rfl

/-- Only memory differs when XW is set. -/
theorem State.setXw_frame (s : State) (spad : Bool) (a : Nat) (v : Bool) : s.setXw spad a v = { s with mem := (s.setXw spad a v).mem } := by
  unfold State.setXw
  dsimp only
  split <;> split <;> rfl

/-- Only the crews and memory differ when a wait is abandoned. -/
theorem State.abandon_frame (s : State) (slot k : Nat) :
    s.abandon slot k = { s with crews := (s.abandon slot k).crews, mem := (s.abandon slot k).mem } := by
  unfold State.abandon
  dsimp only
  split
  · rw [State.setXw_frame]; rfl
  · rfl

/-- Only the checkpoint records differ when an operation is logged (R422). -/
theorem State.logOp_frame (s : State) (r : LogRecord) : s.logOp r = { s with ckpt := (s.logOp r).ckpt } := by
  unfold State.logOp
  split
  · rfl
  · split <;> rfl

/-- Only the checkpoint records differ when a value from outside is logged (R422). -/
theorem State.extern_frame (s : State) (opc : Nat) (v : DWord) :
    (s.extern opc v).2 = { s with ckpt := (s.extern opc v).2.ckpt } := by
  unfold State.extern
  dsimp only
  split <;> exact State.logOp_frame s _

/-! ## Issuing -/

theorem QSet.queue_updQueue (x : QSet) (q j : Nat) (f : Queue → Queue) :
    (x.updQueue q f).queue j = if j = q then f (x.queue q) else x.queue j :=
  mapGet_mapSet Queue.empty x.queues q j _

/-- An issue counts, gives the count as the ticket and appends the entry; other queues stay (R12). -/
theorem State.enqueue_spec (s : State) (k q : Nat) (e : QEntry) :
    (s.enqueue k q e).2 = (s.queue k q).issue + 1 ∧
      ((s.enqueue k q e).1.queue k q).issue = (s.queue k q).issue + 1 ∧
      ((s.enqueue k q e).1.queue k q).seq = (s.queue k q).seq ∧
      ((s.enqueue k q e).1.queue k q).ents = (s.queue k q).ents ++
        [{ e with ticket := (s.queue k q).issue + 1, after := (s.qset k).fencedBy q, since := s.steps }] ∧
      ∀ j, j ≠ q → (s.enqueue k q e).1.queue k j = s.queue k j := by
  have hq (j : Nat) : (s.enqueue k q e).1.queue k j =
      if j = q then
        { s.queue k q with
          issue := (s.queue k q).issue + 1
          ents := (s.queue k q).ents ++
            [{ e with ticket := (s.queue k q).issue + 1, after := (s.qset k).fencedBy q, since := s.steps }]
          clocks := ((s.queue k q).issue + 1, e.clock) :: (s.queue k q).clocks }
      else s.queue k j := by
    show ((s.updQset k _).qset k).queue j = _
    rw [State.qset_updQset_same, QSet.queue_updQueue]
    rfl
  refine ⟨rfl, ?_, ?_, ?_, fun j hj => ?_⟩
  · rw [hq, if_pos rfl]
  · rw [hq, if_pos rfl]
  · rw [hq, if_pos rfl]
  · rw [hq, if_neg hj]

/-! ## The canonical form of memory through ends and traps -/

theorem State.abandon_wf {s : State} (slot k : Nat) (h : s.mem.wf) : (s.abandon slot k).mem.wf := by
  unfold State.abandon
  dsimp only
  split
  · exact State.setXw_wf _ _ _ h
  · exact h

theorem State.abandonAll_wf {s : State} (slot : Nat) (h : s.mem.wf) : (s.abandonAll slot).mem.wf :=
  foldl_keeps (fun t : State => t.mem.wf) _ _ _ (fun _ p _ ht => State.abandon_wf slot p.1 ht) h

theorem State.flushArrived_wf {s : State} (launch : Nat) (uids : List Nat) (h : s.mem.wf) :
    (s.flushArrived launch uids).mem.wf :=
  foldl_keeps (fun t : State => t.mem.wf) _ _ _ (fun _ p _ ht => State.flushAt_wf p.1 ht) h

theorem State.updLaunch_mem (s : State) (id : Nat) (f : Launch → Launch) : (s.updLaunch id f).mem = s.mem := by
  unfold State.updLaunch
  split <;> rfl

theorem State.barrierCheck_wf {s : State} (launch i : Nat) (h : s.mem.wf) : (s.barrierCheck launch i).mem.wf := by
  unfold State.barrierCheck
  split
  · exact h
  · split
    · exact h
    · next c _ =>
      have hp : (if c.spans then s.choose else (false, s)).2.mem.wf := by split <;> exact h
      generalize (if c.spans then s.choose else (false, s)) = x at hp
      dsimp only
      split
      · rw [State.updLaunch_mem]; exact State.flushArrived_wf _ _ hp
      · exact hp

theorem State.depart_wf {s : State} (c : Crew) (h : s.mem.wf) : (s.depart c).mem.wf :=
  foldl_keeps (fun t : State => t.mem.wf) _ _ _
    (fun t i _ ht => State.barrierCheck_wf _ _ (by rw [State.updLaunch_mem]; exact ht)) h

theorem State.endCrew_wf {s : State} (slot : Nat) (status : Word) (post : Bool) (h : s.mem.wf) :
    (s.endCrew slot status post).mem.wf := by
  unfold State.endCrew
  extract_lets s1 q s2 s3 s4 c tr s5 r s6
  have h3 : s3.mem.wf := State.drainIf_wf slot _ (State.abandonAll_wf slot h)
  clear_value s3
  have h4 : s4.mem.wf := by
    simp only [s4]
    split
    · exact State.flushAt_wf slot h3
    · exact h3
  have h5 : s5.mem.wf := h4
  clear_value s5 s4
  have h6 : s6.mem.wf := by
    simp only [s6]
    split
    · exact State.post_wf _ _ _ h5
    · exact h5
  clear_value s6
  exact State.depart_wf c h6

/-- Taking a trap keeps the canonical form of memory. -/
theorem State.takeTrap_wf {s : State} (t : TrapInfo) (lane advance : Bool) (h : s.mem.wf) :
    (s.takeTrap t lane advance).mem.wf := by
  unfold State.takeTrap
  dsimp only
  split
  · exact State.endCrew_wf _ _ _ (State.drainIf_wf _ _ (State.abandonAll_wf _ h))
  · exact State.drainIf_wf _ _ (State.abandonAll_wf _ h)

theorem State.raise_wf {s : State} (code : BitVec 8) (detail : Nat) (addr opnd : Word) (h : s.mem.wf) :
    (s.raise code detail addr opnd).mem.wf := State.takeTrap_wf _ _ _ h

end Sys2Proof.Machine
end

