-- ==== Sys2Proof/Laws/PerInstr.lean ====
section
/-! SUPPORT. A fact about every instruction's encoding, constructor by constructor: no instruction's word carries a
reserved opcode (R98, R112), and no instruction has both a scalar word and a lane word. -/

namespace Sys2Proof.Laws.Encoding

/-- R98, R112: the word of an instruction carries no reserved opcode, and an instruction has at most one word. -/
def Statement (i : Instr) : Prop :=
  (∀ w, encodeScalar i = some w → 1 ≤ w.toNat / 2 ^ 26 ∧ w.toNat / 2 ^ 26 ≤ 0x3C) ∧
    (∀ w, encodeLane i = some w → w.toNat / 2 ^ 88 ≤ 0x83) ∧ (encodeScalar i = none ∨ encodeLane i = none)

/-- The high bits of a concatenation. -/
theorem high_append {n m : Nat} (x : BitVec n) (y : BitVec m) (k : Nat) (h : m ≤ k) :
    (x ++ y).toNat / 2 ^ k = x.toNat / 2 ^ (k - m) := by
  have hy : y.toNat / 2 ^ k = 0 :=
    Nat.div_eq_of_lt (lt_of_lt_of_le y.isLt (Nat.pow_le_pow_right (by decide) h))
  rw [BitVec.toNat_append, ← Nat.shiftRight_eq_div_pow, Nat.shiftRight_or_distrib, Nat.shiftRight_eq_div_pow y.toNat, hy,
    Nat.or_zero, Nat.shiftRight_eq_div_pow, Nat.shiftLeft_eq]
  obtain ⟨j, rfl⟩ := Nat.exists_eq_add_of_le h
  rw [Nat.pow_add, Nat.mul_comm x.toNat, Nat.mul_div_mul_left _ _ (Nat.two_pow_pos m), Nat.add_sub_cancel_left]

/-- The opcode of a lane word. -/
theorem high_laneWord (op : BitVec 8) (f : LaneFields) : (laneWord op f).toNat / 2 ^ 88 = op.toNat := by
  unfold laneWord
  simp only [high_append, Nat.reduceSub, Nat.reduceLeDiff, Nat.pow_zero, Nat.div_one]

/-- An instruction without a word. -/
theorem ofEvent {i : Instr} (hs : encodeScalar i = none) (hl : laneForm i = none) : Statement i := by
  refine ⟨?_, ?_, .inl hs⟩
  · rw [hs]; exact fun w h => absurd h (by simp)
  · rw [encodeLane, hl]; exact fun w h => absurd h (by simp)

/-- An instruction with a lane word. -/
theorem ofLane {i : Instr} {op : BitVec 8} {f : LaneFields} (hs : encodeScalar i = none) (hl : laneForm i = some (op, f))
    (h : op.toNat ≤ 0x83) : Statement i := by
  refine ⟨?_, ?_, .inl hs⟩
  · rw [hs]; exact fun w h => absurd h (by simp)
  · rw [encodeLane, hl]
    intro w hw
    rw [← Option.some.inj hw, high_laneWord]
    exact h

/-- An instruction with a scalar word. -/
theorem ofScalar {i : Instr} {w : Word} (hs : encodeScalar i = some w) (hl : laneForm i = none)
    (h : 1 ≤ w.toNat / 2 ^ 26 ∧ w.toNat / 2 ^ 26 ≤ 0x3C) : Statement i := by
  refine ⟨?_, ?_, .inr (by rw [encodeLane, hl]; rfl)⟩
  · rw [hs]; intro v hv; rw [← Option.some.inj hv]; exact h
  · rw [encodeLane, hl]; exact fun w h => absurd h (by simp)

theorem nop : Statement .nop := ofScalar rfl rfl (by decide)
theorem nopHint (k : BitVec 1) (n : BitVec 9) : Statement (.nopHint k n) := ofScalar rfl rfl (by simp only [high_append, Nat.reduceLeDiff, Nat.reduceSub]; decide)
theorem br (o : BitVec 26) : Statement (.br o) := ofScalar rfl rfl (by simp only [high_append, Nat.reduceLeDiff, Nat.reduceSub]; decide)
theorem brc (c : BitVec 4) (p : BitVec 4) (o : BitVec 18) : Statement (.brc c p o) := ofScalar rfl rfl (by simp only [high_append, Nat.reduceLeDiff, Nat.reduceSub]; decide)
theorem bspl (c : BitVec 4) (a : BitVec 4) (o : BitVec 18) : Statement (.bspl c a o) := ofScalar rfl rfl (by simp only [high_append, Nat.reduceLeDiff, Nat.reduceSub]; decide)
theorem join : Statement .join := ofScalar rfl rfl (by decide)
theorem call (o : BitVec 26) : Statement (.call o) := ofScalar rfl rfl (by simp only [high_append, Nat.reduceLeDiff, Nat.reduceSub]; decide)
theorem ret (a : RegNo) : Statement (.ret a) := ofScalar rfl rfl (by simp only [high_append, Nat.reduceLeDiff, Nat.reduceSub]; decide)
theorem yield : Statement .yield := ofScalar rfl rfl (by decide)
theorem yieldSeq (a : RegNo) (q : BitVec 4) : Statement (.yieldSeq a q) := ofScalar rfl rfl (by simp only [high_append, Nat.reduceLeDiff, Nat.reduceSub]; decide)
theorem yieldJn : Statement .yieldJn := ofScalar rfl rfl (by decide)
theorem yieldTime (a : RegNo) : Statement (.yieldTime a) := ofScalar rfl rfl (by simp only [high_append, Nat.reduceLeDiff, Nat.reduceSub]; decide)
theorem exit (a : RegNo) : Statement (.exit a) := ofScalar rfl rfl (by simp only [high_append, Nat.reduceLeDiff, Nat.reduceSub]; decide)
theorem trap (i : BitVec 21) : Statement (.trap i) := ofScalar rfl rfl (by simp only [high_append, Nat.reduceLeDiff, Nat.reduceSub]; decide)
theorem eret : Statement .eret := ofScalar rfl rfl (by decide)
theorem add (d : RegNo) (a : RegNo) (b : RegNo) : Statement (.add d a b) := ofScalar rfl rfl (by simp only [high_append, Nat.reduceLeDiff, Nat.reduceSub]; decide)
theorem sub (d : RegNo) (a : RegNo) (b : RegNo) : Statement (.sub d a b) := ofScalar rfl rfl (by simp only [high_append, Nat.reduceLeDiff, Nat.reduceSub]; decide)
theorem mul (d : RegNo) (a : RegNo) (b : RegNo) : Statement (.mul d a b) := ofScalar rfl rfl (by simp only [high_append, Nat.reduceLeDiff, Nat.reduceSub]; decide)
theorem mulh (d : RegNo) (a : RegNo) (b : RegNo) (u : BitVec 1) : Statement (.mulh d a b u) := ofScalar rfl rfl (by simp only [high_append, Nat.reduceLeDiff, Nat.reduceSub]; decide)
theorem div (d : RegNo) (a : RegNo) (b : RegNo) (u : BitVec 1) : Statement (.div d a b u) := ofScalar rfl rfl (by simp only [high_append, Nat.reduceLeDiff, Nat.reduceSub]; decide)
theorem andS (d : RegNo) (a : RegNo) (b : RegNo) : Statement (.andS d a b) := ofScalar rfl rfl (by simp only [high_append, Nat.reduceLeDiff, Nat.reduceSub]; decide)
theorem orS (d : RegNo) (a : RegNo) (b : RegNo) : Statement (.orS d a b) := ofScalar rfl rfl (by simp only [high_append, Nat.reduceLeDiff, Nat.reduceSub]; decide)
theorem xorS (d : RegNo) (a : RegNo) (b : RegNo) : Statement (.xorS d a b) := ofScalar rfl rfl (by simp only [high_append, Nat.reduceLeDiff, Nat.reduceSub]; decide)
theorem shl (d : RegNo) (a : RegNo) (b : RegNo) : Statement (.shl d a b) := ofScalar rfl rfl (by simp only [high_append, Nat.reduceLeDiff, Nat.reduceSub]; decide)
theorem shlImm (d : RegNo) (a : RegNo) (n : BitVec 5) : Statement (.shlImm d a n) := ofScalar rfl rfl (by simp only [high_append, Nat.reduceLeDiff, Nat.reduceSub]; decide)
theorem shr (d : RegNo) (a : RegNo) (b : RegNo) : Statement (.shr d a b) := ofScalar rfl rfl (by simp only [high_append, Nat.reduceLeDiff, Nat.reduceSub]; decide)
theorem shrImm (d : RegNo) (a : RegNo) (n : BitVec 5) : Statement (.shrImm d a n) := ofScalar rfl rfl (by simp only [high_append, Nat.reduceLeDiff, Nat.reduceSub]; decide)
theorem sra (d : RegNo) (a : RegNo) (b : RegNo) : Statement (.sra d a b) := ofScalar rfl rfl (by simp only [high_append, Nat.reduceLeDiff, Nat.reduceSub]; decide)
theorem sraImm (d : RegNo) (a : RegNo) (n : BitVec 5) : Statement (.sraImm d a n) := ofScalar rfl rfl (by simp only [high_append, Nat.reduceLeDiff, Nat.reduceSub]; decide)
theorem rol (d : RegNo) (a : RegNo) (b : RegNo) : Statement (.rol d a b) := ofScalar rfl rfl (by simp only [high_append, Nat.reduceLeDiff, Nat.reduceSub]; decide)
theorem rolImm (d : RegNo) (a : RegNo) (n : BitVec 5) : Statement (.rolImm d a n) := ofScalar rfl rfl (by simp only [high_append, Nat.reduceLeDiff, Nat.reduceSub]; decide)
theorem ror (d : RegNo) (a : RegNo) (b : RegNo) : Statement (.ror d a b) := ofScalar rfl rfl (by simp only [high_append, Nat.reduceLeDiff, Nat.reduceSub]; decide)
theorem rorImm (d : RegNo) (a : RegNo) (n : BitVec 5) : Statement (.rorImm d a n) := ofScalar rfl rfl (by simp only [high_append, Nat.reduceLeDiff, Nat.reduceSub]; decide)
theorem cmp (d : RegNo) (a : RegNo) (b : RegNo) (n : BitVec 3) (u : BitVec 1) (c : BitVec 3) : Statement (.cmp d a b n u c) := ofScalar rfl rfl (by simp only [high_append, Nat.reduceLeDiff, Nat.reduceSub]; decide)
theorem sel (d : RegNo) (a : RegNo) (b : RegNo) (n : BitVec 3) : Statement (.sel d a b n) := ofScalar rfl rfl (by simp only [high_append, Nat.reduceLeDiff, Nat.reduceSub]; decide)
theorem addi (d : RegNo) (a : RegNo) (i : BitVec 16) : Statement (.addi d a i) := ofScalar rfl rfl (by simp only [high_append, Nat.reduceLeDiff, Nat.reduceSub]; decide)
theorem li (d : RegNo) (i : BitVec 21) : Statement (.li d i) := ofScalar rfl rfl (by simp only [high_append, Nat.reduceLeDiff, Nat.reduceSub]; decide)
theorem lui (d : RegNo) (i : BitVec 16) : Statement (.lui d i) := ofScalar rfl rfl (by simp only [high_append, Nat.reduceLeDiff, Nat.reduceSub]; decide)
theorem bfx (d : RegNo) (a : RegNo) (b : RegNo) (s : BitVec 1) : Statement (.bfx d a b s) := ofScalar rfl rfl (by simp only [high_append, Nat.reduceLeDiff, Nat.reduceSub]; decide)
theorem bfi (d : RegNo) (a : RegNo) (b : RegNo) : Statement (.bfi d a b) := ofScalar rfl rfl (by simp only [high_append, Nat.reduceLeDiff, Nat.reduceSub]; decide)
theorem clz (d : RegNo) (a : RegNo) : Statement (.clz d a) := ofScalar rfl rfl (by simp only [high_append, Nat.reduceLeDiff, Nat.reduceSub]; decide)
theorem popc (d : RegNo) (a : RegNo) : Statement (.popc d a) := ofScalar rfl rfl (by simp only [high_append, Nat.reduceLeDiff, Nat.reduceSub]; decide)
theorem brev (d : RegNo) (a : RegNo) : Statement (.brev d a) := ofScalar rfl rfl (by simp only [high_append, Nat.reduceLeDiff, Nat.reduceSub]; decide)
theorem fxck (m : BitVec 6) : Statement (.fxck m) := ofScalar rfl rfl (by simp only [high_append, Nat.reduceLeDiff, Nat.reduceSub]; decide)
theorem sld (d : RegNo) (a : RegNo) (i : BitVec 16) : Statement (.sld d a i) := ofScalar rfl rfl (by simp only [high_append, Nat.reduceLeDiff, Nat.reduceSub]; decide)
theorem sst (d : RegNo) (a : RegNo) (i : BitVec 16) : Statement (.sst d a i) := ofScalar rfl rfl (by simp only [high_append, Nat.reduceLeDiff, Nat.reduceSub]; decide)
theorem satm (d : RegNo) (a : RegNo) (b : RegNo) (s : BitVec 3) (w : BitVec 3) (o : BitVec 3) : Statement (.satm d a b s w o) := ofScalar rfl rfl (by simp only [high_append, Nat.reduceLeDiff, Nat.reduceSub]; decide)
theorem lrun (a : RegNo) (n : BitVec 16) : Statement (.lrun a n) := ofScalar rfl rfl (by simp only [high_append, Nat.reduceLeDiff, Nat.reduceSub]; decide)
theorem ljmp (o : BitVec 26) : Statement (.ljmp o) := ofScalar rfl rfl (by simp only [high_append, Nat.reduceLeDiff, Nat.reduceSub]; decide)
theorem movmRead (d : RegNo) (b : BitVec 2) : Statement (.movmRead d b) := ofScalar rfl rfl (by simp only [high_append, Nat.reduceLeDiff, Nat.reduceSub]; decide)
theorem movmWrite (a : RegNo) (b : BitVec 2) : Statement (.movmWrite a b) := ofScalar rfl rfl (by simp only [high_append, Nat.reduceLeDiff, Nat.reduceSub]; decide)
theorem movmPred (d : RegNo) (n : BitVec 4) (b : BitVec 2) : Statement (.movmPred d n b) := ofScalar rfl rfl (by simp only [high_append, Nat.reduceLeDiff, Nat.reduceSub]; decide)
theorem fmts (d : RegNo) (a : RegNo) : Statement (.fmts d a) := ofScalar rfl rfl (by simp only [high_append, Nat.reduceLeDiff, Nat.reduceSub]; decide)
theorem fmtsRead (d : RegNo) : Statement (.fmtsRead d) := ofScalar rfl rfl (by simp only [high_append, Nat.reduceLeDiff, Nat.reduceSub]; decide)
theorem rdrd (d : RegNo) (a : RegNo) : Statement (.rdrd d a) := ofScalar rfl rfl (by simp only [high_append, Nat.reduceLeDiff, Nat.reduceSub]; decide)
theorem bar (n : BitVec 2) : Statement (.bar n) := ofScalar rfl rfl (by simp only [high_append, Nat.reduceLeDiff, Nat.reduceSub]; decide)
theorem acqX (a : RegNo) : Statement (.acqX a) := ofScalar rfl rfl (by simp only [high_append, Nat.reduceLeDiff, Nat.reduceSub]; decide)
theorem acqS (a : RegNo) : Statement (.acqS a) := ofScalar rfl rfl (by simp only [high_append, Nat.reduceLeDiff, Nat.reduceSub]; decide)
theorem acqW (a : RegNo) (b : RegNo) : Statement (.acqW a b) := ofScalar rfl rfl (by simp only [high_append, Nat.reduceLeDiff, Nat.reduceSub]; decide)
theorem rel (a : RegNo) : Statement (.rel a) := ofScalar rfl rfl (by simp only [high_append, Nat.reduceLeDiff, Nat.reduceSub]; decide)
theorem fence (s : BitVec 3) : Statement (.fence s) := ofScalar rfl rfl (by simp only [high_append, Nat.reduceLeDiff, Nat.reduceSub]; decide)
theorem fenceFlush : Statement .fenceFlush := ofScalar rfl rfl (by decide)
theorem qfnc (m : BitVec 7) : Statement (.qfnc m) := ofScalar rfl rfl (by simp only [high_append, Nat.reduceLeDiff, Nat.reduceSub]; decide)
theorem xfnc : Statement .xfnc := ofScalar rfl rfl (by decide)
theorem wseq (a : RegNo) (q : BitVec 4) : Statement (.wseq a q) := ofScalar rfl rfl (by simp only [high_append, Nat.reduceLeDiff, Nat.reduceSub]; decide)
theorem cpy (d : RegNo) (a : RegNo) (b : RegNo) (q : BitVec 4) (e : BitVec 3) (s : BitVec 3) : Statement (.cpy d a b q e s) := ofScalar rfl rfl (by simp only [high_append, Nat.reduceLeDiff, Nat.reduceSub]; decide)
theorem tcpy (d : RegNo) (a : RegNo) (q : BitVec 4) : Statement (.tcpy d a q) := ofScalar rfl rfl (by simp only [high_append, Nat.reduceLeDiff, Nat.reduceSub]; decide)
theorem dcpy (d : RegNo) (a : RegNo) (q : BitVec 4) : Statement (.dcpy d a q) := ofScalar rfl rfl (by simp only [high_append, Nat.reduceLeDiff, Nat.reduceSub]; decide)
theorem ttsk (d : RegNo) (a : RegNo) : Statement (.ttsk d a) := ofScalar rfl rfl (by simp only [high_append, Nat.reduceLeDiff, Nat.reduceSub]; decide)
theorem cainf (d : RegNo) (a : RegNo) : Statement (.cainf d a) := ofScalar rfl rfl (by simp only [high_append, Nat.reduceLeDiff, Nat.reduceSub]; decide)
theorem cainfLive (d : RegNo) (a : RegNo) : Statement (.cainfLive d a) := ofScalar rfl rfl (by simp only [high_append, Nat.reduceLeDiff, Nat.reduceSub]; decide)
theorem catrn (d : RegNo) (a : RegNo) : Statement (.catrn d a) := ofScalar rfl rfl (by simp only [high_append, Nat.reduceLeDiff, Nat.reduceSub]; decide)
theorem camovLoad (d : RegNo) (a : RegNo) (p : BitVec 3) : Statement (.camovLoad d a p) := ofScalar rfl rfl (by simp only [high_append, Nat.reduceLeDiff, Nat.reduceSub]; decide)
theorem camovStore (d : RegNo) (a : RegNo) (p : BitVec 3) : Statement (.camovStore d a p) := ofScalar rfl rfl (by simp only [high_append, Nat.reduceLeDiff, Nat.reduceSub]; decide)
theorem glch (d : RegNo) (a : RegNo) : Statement (.glch d a) := ofScalar rfl rfl (by simp only [high_append, Nat.reduceLeDiff, Nat.reduceSub]; decide)
theorem spwn (d : RegNo) (a : RegNo) : Statement (.spwn d a) := ofScalar rfl rfl (by simp only [high_append, Nat.reduceLeDiff, Nat.reduceSub]; decide)
theorem jnwt (d : RegNo) : Statement (.jnwt d) := ofScalar rfl rfl (by simp only [high_append, Nat.reduceLeDiff, Nat.reduceSub]; decide)
theorem gctlStatus (d : RegNo) (a : RegNo) : Statement (.gctlStatus d a) := ofScalar rfl rfl (by simp only [high_append, Nat.reduceLeDiff, Nat.reduceSub]; decide)
theorem gctlLeft (d : RegNo) (a : RegNo) : Statement (.gctlLeft d a) := ofScalar rfl rfl (by simp only [high_append, Nat.reduceLeDiff, Nat.reduceSub]; decide)
theorem gctlNode (d : RegNo) (a : RegNo) (b : RegNo) : Statement (.gctlNode d a b) := ofScalar rfl rfl (by simp only [high_append, Nat.reduceLeDiff, Nat.reduceSub]; decide)
theorem gctlFree (d : RegNo) (a : RegNo) : Statement (.gctlFree d a) := ofScalar rfl rfl (by simp only [high_append, Nat.reduceLeDiff, Nat.reduceSub]; decide)
theorem gctlWait (d : RegNo) (a : RegNo) : Statement (.gctlWait d a) := ofScalar rfl rfl (by simp only [high_append, Nat.reduceLeDiff, Nat.reduceSub]; decide)
theorem xmemLd (d : RegNo) (a : RegNo) (w : BitVec 3) : Statement (.xmemLd d a w) := ofScalar rfl rfl (by simp only [high_append, Nat.reduceLeDiff, Nat.reduceSub]; decide)
theorem xmemSt (a : RegNo) (b : RegNo) (w : BitVec 3) : Statement (.xmemSt a b w) := ofScalar rfl rfl (by simp only [high_append, Nat.reduceLeDiff, Nat.reduceSub]; decide)
theorem xatm (d : RegNo) (a : RegNo) (b : RegNo) (s : BitVec 3) (w : BitVec 3) (o : BitVec 3) : Statement (.xatm d a b s w o) := ofScalar rfl rfl (by simp only [high_append, Nat.reduceLeDiff, Nat.reduceSub]; decide)
theorem xput (d : RegNo) (a : RegNo) : Statement (.xput d a) := ofScalar rfl rfl (by simp only [high_append, Nat.reduceLeDiff, Nat.reduceSub]; decide)
theorem coll (d : RegNo) (a : RegNo) (n : BitVec 2) (k : BitVec 3) : Statement (.coll d a n k) := ofScalar rfl rfl (by simp only [high_append, Nat.reduceLeDiff, Nat.reduceSub]; decide)
theorem lnkStat (d : RegNo) (a : RegNo) : Statement (.lnkStat d a) := ofScalar rfl rfl (by simp only [high_append, Nat.reduceLeDiff, Nat.reduceSub]; decide)
theorem lnkSq (d : RegNo) (a : RegNo) : Statement (.lnkSq d a) := ofScalar rfl rfl (by simp only [high_append, Nat.reduceLeDiff, Nat.reduceSub]; decide)
theorem lnkRls (d : RegNo) (a : RegNo) : Statement (.lnkRls d a) := ofScalar rfl rfl (by simp only [high_append, Nat.reduceLeDiff, Nat.reduceSub]; decide)
theorem lnkSlot (d : RegNo) (a : RegNo) (b : RegNo) : Statement (.lnkSlot d a b) := ofScalar rfl rfl (by simp only [high_append, Nat.reduceLeDiff, Nat.reduceSub]; decide)
theorem lnkWait (d : RegNo) (a : RegNo) (b : RegNo) : Statement (.lnkWait d a b) := ofScalar rfl rfl (by simp only [high_append, Nat.reduceLeDiff, Nat.reduceSub]; decide)
theorem heat (d : RegNo) (s : BitVec 3) : Statement (.heat d s) := ofScalar rfl rfl (by simp only [high_append, Nat.reduceLeDiff, Nat.reduceSub]; decide)
theorem heatCkpt (d : RegNo) (a : RegNo) : Statement (.heatCkpt d a) := ofScalar rfl rfl (by simp only [high_append, Nat.reduceLeDiff, Nat.reduceSub]; decide)
theorem csrRd (d : RegNo) (n : BitVec 12) : Statement (.csrRd d n) := ofScalar rfl rfl (by simp only [high_append, Nat.reduceLeDiff, Nat.reduceSub]; decide)
theorem csrWr (d : RegNo) (a : RegNo) (n : BitVec 12) : Statement (.csrWr d a n) := ofScalar rfl rfl (by simp only [high_append, Nat.reduceLeDiff, Nat.reduceSub]; decide)
theorem fsumRead (d : RegNo) : Statement (.fsumRead d) := ofScalar rfl rfl (by simp only [high_append, Nat.reduceLeDiff, Nat.reduceSub]; decide)
theorem fsumWrite (d a : RegNo) : Statement (.fsumWrite d a) := ofScalar rfl rfl (by simp only [high_append, Nat.reduceLeDiff, Nat.reduceSub]; decide)
theorem sppWrite (d a : RegNo) : Statement (.sppWrite d a) := ofScalar rfl rfl (by simp only [high_append, Nat.reduceLeDiff, Nat.reduceSub]; decide)
theorem asyncfWrite (d a : RegNo) : Statement (.asyncfWrite d a) := ofScalar rfl rfl (by simp only [high_append, Nat.reduceLeDiff, Nat.reduceSub]; decide)
theorem trapspcWrite (d a : RegNo) : Statement (.trapspcWrite d a) := ofScalar rfl rfl (by simp only [high_append, Nat.reduceLeDiff, Nat.reduceSub]; decide)
theorem traplpcWrite (d a : RegNo) : Statement (.traplpcWrite d a) := ofScalar rfl rfl (by simp only [high_append, Nat.reduceLeDiff, Nat.reduceSub]; decide)
theorem qtailWrite (n : BitVec 2) (d a : RegNo) : Statement (.qtailWrite n d a) := ofScalar rfl rfl (by simp only [high_append, Nat.reduceLeDiff, Nat.reduceSub]; decide)
theorem bndcmdBind (d a : RegNo) : Statement (.bndcmdBind d a) := ofEvent rfl rfl
theorem bndcmdUnbind (d a : RegNo) : Statement (.bndcmdUnbind d a) := ofEvent rfl rfl
theorem lnop (f : LaneFields) : Statement (.lnop f) := ofLane rfl rfl (by decide)
theorem rep (f : LaneFields) : Statement (.rep f) := ofLane rfl rfl (by decide)
theorem iadd (f : LaneFields) : Statement (.iadd f) := ofLane rfl rfl (by decide)
theorem isub (f : LaneFields) : Statement (.isub f) := ofLane rfl rfl (by decide)
theorem imul (f : LaneFields) : Statement (.imul f) := ofLane rfl rfl (by decide)
theorem imulh (f : LaneFields) : Statement (.imulh f) := ofLane rfl rfl (by decide)
theorem imad (f : LaneFields) : Statement (.imad f) := ofLane rfl rfl (by decide)
theorem idiv (f : LaneFields) : Statement (.idiv f) := ofLane rfl rfl (by decide)
theorem imin (f : LaneFields) : Statement (.imin f) := ofLane rfl rfl (by decide)
theorem imax (f : LaneFields) : Statement (.imax f) := ofLane rfl rfl (by decide)
theorem iabs (f : LaneFields) : Statement (.iabs f) := ofLane rfl rfl (by decide)
theorem andLane (f : LaneFields) : Statement (.andLane f) := ofLane rfl rfl (by decide)
theorem orLane (f : LaneFields) : Statement (.orLane f) := ofLane rfl rfl (by decide)
theorem xorLane (f : LaneFields) : Statement (.xorLane f) := ofLane rfl rfl (by decide)
theorem lop3 (f : LaneFields) : Statement (.lop3 f) := ofLane rfl rfl (by decide)
theorem shlLane (f : LaneFields) : Statement (.shlLane f) := ofLane rfl rfl (by decide)
theorem shrLane (f : LaneFields) : Statement (.shrLane f) := ofLane rfl rfl (by decide)
theorem sraLane (f : LaneFields) : Statement (.sraLane f) := ofLane rfl rfl (by decide)
theorem rot (f : LaneFields) : Statement (.rot f) := ofLane rfl rfl (by decide)
theorem popcLane (f : LaneFields) : Statement (.popcLane f) := ofLane rfl rfl (by decide)
theorem clzLane (f : LaneFields) : Statement (.clzLane f) := ofLane rfl rfl (by decide)
theorem bfxLane (f : LaneFields) : Statement (.bfxLane f) := ofLane rfl rfl (by decide)
theorem bfiLane (f : LaneFields) : Statement (.bfiLane f) := ofLane rfl rfl (by decide)
theorem icmp (f : LaneFields) : Statement (.icmp f) := ofLane rfl rfl (by decide)
theorem isad (f : LaneFields) : Statement (.isad f) := ofLane rfl rfl (by decide)
theorem mulw (f : LaneFields) : Statement (.mulw f) := ofLane rfl rfl (by decide)
theorem addc (f : LaneFields) : Statement (.addc f) := ofLane rfl rfl (by decide)
theorem mov (f : LaneFields) : Statement (.mov f) := ofLane rfl rfl (by decide)
theorem movi (f : LaneFields) : Statement (.movi f) := ofLane rfl rfl (by decide)
theorem selLane (f : LaneFields) : Statement (.selLane f) := ofLane rfl rfl (by decide)
theorem lspc (f : LaneFields) : Statement (.lspc f) := ofLane rfl rfl (by decide)
theorem ldc (f : LaneFields) : Statement (.ldc f) := ofLane rfl rfl (by decide)
theorem pmov (f : LaneFields) : Statement (.pmov f) := ofLane rfl rfl (by decide)
theorem prmt (f : LaneFields) : Statement (.prmt f) := ofLane rfl rfl (by decide)
theorem shfl (f : LaneFields) : Statement (.shfl f) := ofLane rfl rfl (by decide)
theorem bcst (f : LaneFields) : Statement (.bcst f) := ofLane rfl rfl (by decide)
theorem lrot (f : LaneFields) : Statement (.lrot f) := ofLane rfl rfl (by decide)
theorem vote (f : LaneFields) : Statement (.vote f) := ofLane rfl rfl (by decide)
theorem plop (f : LaneFields) : Statement (.plop f) := ofLane rfl rfl (by decide)
theorem fadd (f : LaneFields) : Statement (.fadd f) := ofLane rfl rfl (by decide)
theorem fsub (f : LaneFields) : Statement (.fsub f) := ofLane rfl rfl (by decide)
theorem fmul (f : LaneFields) : Statement (.fmul f) := ofLane rfl rfl (by decide)
theorem ffma (f : LaneFields) : Statement (.ffma f) := ofLane rfl rfl (by decide)
theorem fmin (f : LaneFields) : Statement (.fmin f) := ofLane rfl rfl (by decide)
theorem fmax (f : LaneFields) : Statement (.fmax f) := ofLane rfl rfl (by decide)
theorem fcmp (f : LaneFields) : Statement (.fcmp f) := ofLane rfl rfl (by decide)
theorem fcls (f : LaneFields) : Statement (.fcls f) := ofLane rfl rfl (by decide)
theorem frnd (f : LaneFields) : Statement (.frnd f) := ofLane rfl rfl (by decide)
theorem fscl (f : LaneFields) : Statement (.fscl f) := ofLane rfl rfl (by decide)
theorem fgex (f : LaneFields) : Statement (.fgex f) := ofLane rfl rfl (by decide)
theorem frem (f : LaneFields) : Statement (.frem f) := ofLane rfl rfl (by decide)
theorem fnxt (f : LaneFields) : Statement (.fnxt f) := ofLane rfl rfl (by decide)
theorem fadd3 (f : LaneFields) : Statement (.fadd3 f) := ofLane rfl rfl (by decide)
theorem fspl (f : LaneFields) : Statement (.fspl f) := ofLane rfl rfl (by decide)
theorem fcps (f : LaneFields) : Statement (.fcps f) := ofLane rfl rfl (by decide)
theorem fdiv (f : LaneFields) : Statement (.fdiv f) := ofLane rfl rfl (by decide)
theorem fsqrt (f : LaneFields) : Statement (.fsqrt f) := ofLane rfl rfl (by decide)
theorem frsq (f : LaneFields) : Statement (.frsq f) := ofLane rfl rfl (by decide)
theorem frcp (f : LaneFields) : Statement (.frcp f) := ofLane rfl rfl (by decide)
theorem fexp (f : LaneFields) : Statement (.fexp f) := ofLane rfl rfl (by decide)
theorem fexp2 (f : LaneFields) : Statement (.fexp2 f) := ofLane rfl rfl (by decide)
theorem flog (f : LaneFields) : Statement (.flog f) := ofLane rfl rfl (by decide)
theorem flog2 (f : LaneFields) : Statement (.flog2 f) := ofLane rfl rfl (by decide)
theorem fsin (f : LaneFields) : Statement (.fsin f) := ofLane rfl rfl (by decide)
theorem fcos (f : LaneFields) : Statement (.fcos f) := ofLane rfl rfl (by decide)
theorem ftanh (f : LaneFields) : Statement (.ftanh f) := ofLane rfl rfl (by decide)
theorem fsigm (f : LaneFields) : Statement (.fsigm f) := ofLane rfl rfl (by decide)
theorem ferf (f : LaneFields) : Statement (.ferf f) := ofLane rfl rfl (by decide)
theorem fpow (f : LaneFields) : Statement (.fpow f) := ofLane rfl rfl (by decide)
theorem fatan (f : LaneFields) : Statement (.fatan f) := ofLane rfl rfl (by decide)
theorem fhyp (f : LaneFields) : Statement (.fhyp f) := ofLane rfl rfl (by decide)
theorem dot2 (f : LaneFields) : Statement (.dot2 f) := ofLane rfl rfl (by decide)
theorem dot4 (f : LaneFields) : Statement (.dot4 f) := ofLane rfl rfl (by decide)
theorem dot8 (f : LaneFields) : Statement (.dot8 f) := ofLane rfl rfl (by decide)
theorem fdot2 (f : LaneFields) : Statement (.fdot2 f) := ofLane rfl rfl (by decide)
theorem hadd2 (f : LaneFields) : Statement (.hadd2 f) := ofLane rfl rfl (by decide)
theorem hmul2 (f : LaneFields) : Statement (.hmul2 f) := ofLane rfl rfl (by decide)
theorem hfma2 (f : LaneFields) : Statement (.hfma2 f) := ofLane rfl rfl (by decide)
theorem hmnx2 (f : LaneFields) : Statement (.hmnx2 f) := ofLane rfl rfl (by decide)
theorem cvtf (f : LaneFields) : Statement (.cvtf f) := ofLane rfl rfl (by decide)
theorem cvfi (f : LaneFields) : Statement (.cvfi f) := ofLane rfl rfl (by decide)
theorem cvif (f : LaneFields) : Statement (.cvif f) := ofLane rfl rfl (by decide)
theorem cvii (f : LaneFields) : Statement (.cvii f) := ofLane rfl rfl (by decide)
theorem cvts (f : LaneFields) : Statement (.cvts f) := ofLane rfl rfl (by decide)
theorem pack (f : LaneFields) : Statement (.pack f) := ofLane rfl rfl (by decide)
theorem unpk (f : LaneFields) : Statement (.unpk f) := ofLane rfl rfl (by decide)
theorem tdec (f : LaneFields) : Statement (.tdec f) := ofLane rfl rfl (by decide)
theorem tenc (f : LaneFields) : Statement (.tenc f) := ofLane rfl rfl (by decide)
theorem qnt (f : LaneFields) : Statement (.qnt f) := ofLane rfl rfl (by decide)
theorem dqnt (f : LaneFields) : Statement (.dqnt f) := ofLane rfl rfl (by decide)
theorem lrnd (f : LaneFields) : Statement (.lrnd f) := ofLane rfl rfl (by decide)
theorem radd (f : LaneFields) : Statement (.radd f) := ofLane rfl rfl (by decide)
theorem rmin (f : LaneFields) : Statement (.rmin f) := ofLane rfl rfl (by decide)
theorem rmax (f : LaneFields) : Statement (.rmax f) := ofLane rfl rfl (by decide)
theorem rand (f : LaneFields) : Statement (.rand f) := ofLane rfl rfl (by decide)
theorem rior (f : LaneFields) : Statement (.rior f) := ofLane rfl rfl (by decide)
theorem rxor (f : LaneFields) : Statement (.rxor f) := ofLane rfl rfl (by decide)
theorem rcnt (f : LaneFields) : Statement (.rcnt f) := ofLane rfl rfl (by decide)
theorem rarg (f : LaneFields) : Statement (.rarg f) := ofLane rfl rfl (by decide)
theorem scan (f : LaneFields) : Statement (.scan f) := ofLane rfl rfl (by decide)
theorem cmpx (f : LaneFields) : Statement (.cmpx f) := ofLane rfl rfl (by decide)
theorem ldb (f : LaneFields) : Statement (.ldb f) := ofLane rfl rfl (by decide)
theorem stb (f : LaneFields) : Statement (.stb f) := ofLane rfl rfl (by decide)
theorem lds (f : LaneFields) : Statement (.lds f) := ofLane rfl rfl (by decide)
theorem sts (f : LaneFields) : Statement (.sts f) := ofLane rfl rfl (by decide)
theorem ldsr (f : LaneFields) : Statement (.ldsr f) := ofLane rfl rfl (by decide)
theorem stsr (f : LaneFields) : Statement (.stsr f) := ofLane rfl rfl (by decide)
theorem ldsb (f : LaneFields) : Statement (.ldsb f) := ofLane rfl rfl (by decide)
theorem pushv (f : LaneFields) : Statement (.pushv f) := ofLane rfl rfl (by decide)
theorem popv (f : LaneFields) : Statement (.popv f) := ofLane rfl rfl (by decide)
theorem atb (f : LaneFields) : Statement (.atb f) := ofLane rfl rfl (by decide)
theorem casb (f : LaneFields) : Statement (.casb f) := ofLane rfl rfl (by decide)
theorem ats (f : LaneFields) : Statement (.ats f) := ofLane rfl rfl (by decide)
theorem cass (f : LaneFields) : Statement (.cass f) := ofLane rfl rfl (by decide)
theorem atf (f : LaneFields) : Statement (.atf f) := ofLane rfl rfl (by decide)
theorem flrd (f : LaneFields) : Statement (.flrd f) := ofLane rfl rfl (by decide)
theorem flcl (f : LaneFields) : Statement (.flcl f) := ofLane rfl rfl (by decide)
theorem flst (f : LaneFields) : Statement (.flst f) := ofLane rfl rfl (by decide)
theorem hash (f : LaneFields) : Statement (.hash f) := ofLane rfl rfl (by decide)
theorem crc (f : LaneFields) : Statement (.crc f) := ofLane rfl rfl (by decide)
theorem lsav (f : LaneFields) : Statement (.lsav f) := ofLane rfl rfl (by decide)
theorem lrst (f : LaneFields) : Statement (.lrst f) := ofLane rfl rfl (by decide)
theorem pois (f : LaneFields) : Statement (.pois f) := ofLane rfl rfl (by decide)
theorem lbrk (f : LaneFields) : Statement (.lbrk f) := ofLane rfl rfl (by decide)
theorem lda (f : LaneFields) : Statement (.lda f) := ofLane rfl rfl (by decide)
theorem ldaStatus (f : LaneFields) : Statement (.ldaStatus f) := ofLane rfl rfl (by decide)
theorem sta (f : LaneFields) : Statement (.sta f) := ofLane rfl rfl (by decide)
theorem staStatus (f : LaneFields) : Statement (.staStatus f) := ofLane rfl rfl (by decide)
theorem sclw (f : LaneFields) : Statement (.sclw f) := ofLane rfl rfl (by decide)
theorem idxw (f : LaneFields) : Statement (.idxw f) := ofLane rfl rfl (by decide)
theorem litp (f : LaneFields) : Statement (.litp f) := ofLane rfl rfl (by decide)
theorem cavr (f : LaneFields) : Statement (.cavr f) := ofLane rfl rfl (by decide)
theorem cacl (f : LaneFields) : Statement (.cacl f) := ofLane rfl rfl (by decide)
theorem cawd (f : LaneFields) : Statement (.cawd f) := ofLane rfl rfl (by decide)
theorem longLatencyArrival (slot lane : Nat) : Statement (.longLatencyArrival slot lane) := ofEvent rfl rfl
theorem laneTrap (t : TrapInfo) : Statement (.laneTrap t) := ofEvent rfl rfl
theorem scalarTrap (t : TrapInfo) : Statement (.scalarTrap t) := ofEvent rfl rfl
theorem crewTermination (status : Word) : Statement (.crewTermination status) := ofEvent rfl rfl
theorem registerEccError (slot row lane : Nat) : Statement (.registerEccError slot row lane) := ofEvent rfl rfl
theorem memoryEccError (spad : Bool) (granule : Nat) : Statement (.memoryEccError spad granule) := ofEvent rfl rfl
theorem blockPlacement (core : Nat) : Statement (.blockPlacement core) := ofEvent rfl rfl
theorem copyEntryStart (part core q : Nat) : Statement (.copyEntryStart part core q) := ofEvent rfl rfl
theorem copyEntryComplete (part core q : Nat) : Statement (.copyEntryComplete part core q) := ofEvent rfl rfl
theorem copyEntryResume (part core q : Nat) : Statement (.copyEntryResume part core q) := ofEvent rfl rfl
theorem copyEntryRetire (part core q : Nat) : Statement (.copyEntryRetire part core q) := ofEvent rfl rfl
theorem mtsTaskStart (part core q : Nat) : Statement (.mtsTaskStart part core q) := ofEvent rfl rfl
theorem tileKStep (core : Nat) (mismatch : Bool) : Statement (.tileKStep core mismatch) := ofEvent rfl rfl
theorem tileTaskComplete (core : Nat) : Statement (.tileTaskComplete core) := ofEvent rfl rfl
theorem tileTaskResume (part core q : Nat) (ticket : Word) : Statement (.tileTaskResume part core q ticket) := ofEvent rfl rfl
theorem tileTaskRetire (part core q : Nat) (ticket : Word) : Statement (.tileTaskRetire part core q ticket) := ofEvent rfl rfl
theorem clauseEntryStart (core : Nat) : Statement (.clauseEntryStart core) := ofEvent rfl rfl
theorem trainingStep (core : Nat) : Statement (.trainingStep core) := ofEvent rfl rfl
theorem inferenceSample (core k : Nat) : Statement (.inferenceSample core k) := ofEvent rfl rfl
theorem camovOperation (core : Nat) : Statement (.camovOperation core) := ofEvent rfl rfl
theorem clauseEntryComplete (core : Nat) : Statement (.clauseEntryComplete core) := ofEvent rfl rfl
theorem clauseEntryRetire (core : Nat) : Statement (.clauseEntryRetire core) := ofEvent rfl rfl
theorem clauseGranuleAccess (core : Nat) : Statement (.clauseGranuleAccess core) := ofEvent rfl rfl
theorem cellSoftError (core word : Nat) (correctable : Bool) (left : DWord) : Statement (.cellSoftError core word correctable left) := ofEvent rfl rfl
theorem graphLoadComplete (part handle : Nat) : Statement (.graphLoadComplete part handle) := ofEvent rfl rfl
theorem token (die : Nat) : Statement (.token die) := ofEvent rfl rfl
theorem nodeDone (part handle node : Nat) : Statement (.nodeDone part handle node) := ofEvent rfl rfl
theorem nodeEnterBank (part handle node : Nat) : Statement (.nodeEnterBank part handle node) := ofEvent rfl rfl
theorem prefetchFill (core : Nat) : Statement (.prefetchFill core) := ofEvent rfl rfl
theorem tquAging (die part index : Nat) : Statement (.tquAging die part index) := ofEvent rfl rfl
theorem engineNodeIssue (part handle node : Nat) : Statement (.engineNodeIssue part handle node) := ofEvent rfl rfl
theorem graphEnd (part handle : Nat) : Statement (.graphEnd part handle) := ofEvent rfl rfl
theorem nodeFault (part handle node : Nat) (cause : BitVec 8) (ticket : Word) : Statement (.nodeFault part handle node cause ticket) := ofEvent rfl rfl
theorem coneVisit (part handle head : Nat) : Statement (.coneVisit part handle head) := ofEvent rfl rfl
theorem crewStop (slot head : Nat) : Statement (.crewStop slot head) := ofEvent rfl rfl
theorem coneResolve (part handle : Nat) : Statement (.coneResolve part handle) := ofEvent rfl rfl
theorem headRelease (part handle node : Nat) : Statement (.headRelease part handle node) := ofEvent rfl rfl
theorem rotorSlotStart : Statement .rotorSlotStart := ofEvent rfl rfl
theorem linkControl (fibre width : Nat) (space : List Nat) (ack : Word) : Statement (.linkControl fibre width space ack) := ofEvent rfl rfl
theorem idleLinkControl (fibre : Nat) : Statement (.idleLinkControl fibre) := ofEvent rfl rfl
theorem flitEgress : Statement .flitEgress := ofEvent rfl rfl
theorem flitSend (fibre : Nat) : Statement (.flitSend fibre) := ofEvent rfl rfl
theorem vcStarvation (fibre vc : Nat) : Statement (.vcStarvation fibre vc) := ofEvent rfl rfl
theorem flitReceive (fibre : Nat) (x : Flit) : Statement (.flitReceive fibre x) := ofEvent rfl rfl
theorem lightEnd : Statement .lightEnd := ofEvent rfl rfl
theorem squareStart (group : Nat) : Statement (.squareStart group) := ofEvent rfl rfl
theorem widthHandshake (group : Nat) : Statement (.widthHandshake group) := ofEvent rfl rfl
theorem squareComplete (group : Nat) : Statement (.squareComplete group) := ofEvent rfl rfl
theorem featherStart (group : Nat) : Statement (.featherStart group) := ofEvent rfl rfl
theorem featherPark (group : Nat) : Statement (.featherPark group) := ofEvent rfl rfl
theorem readRequest (p : Packet) : Statement (.readRequest p) := ofEvent rfl rfl
theorem writeRequest (p : Packet) : Statement (.writeRequest p) := ofEvent rfl rfl
theorem atomicRequest (p : Packet) : Statement (.atomicRequest p) := ofEvent rfl rfl
theorem xputData (p : Packet) : Statement (.xputData p) := ofEvent rfl rfl
theorem collectiveData (p : Packet) : Statement (.collectiveData p) := ofEvent rfl rfl
theorem forwardedRequest (p : Packet) : Statement (.forwardedRequest p) := ofEvent rfl rfl
theorem probe (p : Packet) : Statement (.probe p) := ofEvent rfl rfl
theorem readResponse (p : Packet) : Statement (.readResponse p) := ofEvent rfl rfl
theorem writeAck (p : Packet) : Statement (.writeAck p) := ofEvent rfl rfl
theorem atomicResponse (p : Packet) : Statement (.atomicResponse p) := ofEvent rfl rfl
theorem xputAck (p : Packet) : Statement (.xputAck p) := ofEvent rfl rfl
theorem collectiveAck (p : Packet) : Statement (.collectiveAck p) := ofEvent rfl rfl
theorem busy (p : Packet) : Statement (.busy p) := ofEvent rfl rfl
theorem busyRetry (reqid : DWord) : Statement (.busyRetry reqid) := ofEvent rfl rfl
theorem progressReport (p : Packet) : Statement (.progressReport p) := ofEvent rfl rfl
theorem poisonedResponse (p : Packet) : Statement (.poisonedResponse p) := ofEvent rfl rfl
theorem requestProbeTimer (reqid : DWord) : Statement (.requestProbeTimer reqid) := ofEvent rfl rfl
theorem requestTimeout (reqid : DWord) : Statement (.requestTimeout reqid) := ofEvent rfl rfl
theorem heldRequestPerform : Statement .heldRequestPerform := ofEvent rfl rfl
theorem xqEntryStart (part core : Nat) : Statement (.xqEntryStart part core) := ofEvent rfl rfl
theorem xqEntryComplete (part core : Nat) : Statement (.xqEntryComplete part core) := ofEvent rfl rfl
theorem xqEntryResume (part core : Nat) : Statement (.xqEntryResume part core) := ofEvent rfl rfl
theorem xqEntryRetire (part core : Nat) : Statement (.xqEntryRetire part core) := ofEvent rfl rfl
theorem ptpMessage (fibre : Nat) (x : Flit) (stamp : Nat) : Statement (.ptpMessage fibre x stamp) := ofEvent rfl rfl
theorem timeServoCorrection (offset step : Int) (fraction : BitVec 16) :
    Statement (.timeServoCorrection offset step fraction) := ofEvent rfl rfl
theorem heatSheetPublish (e : HeatEntry) : Statement (.heatSheetPublish e) := ofEvent rfl rfl
theorem heatSheetEntry (e : SentEntry) : Statement (.heatSheetEntry e) := ofEvent rfl rfl
theorem ack (peer : Nat) (heat seq : Word) : Statement (.ack peer heat seq) := ofEvent rfl rfl
theorem nak (peer : Nat) (heat seq : Word) (reason : Nat) : Statement (.nak peer heat seq reason) := ofEvent rfl rfl
theorem commit (sender : Sender) (heat seq : Word) : Statement (.commit sender heat seq) := ofEvent rfl rfl
theorem heatStart (seq : Word) : Statement (.heatStart seq) := ofEvent rfl rfl
theorem heartbeatSend : Statement .heartbeatSend := ofEvent rfl rfl
theorem heartbeat (peer : Nat) (epoch : DWord) (fromStarter : Bool) : Statement (.heartbeat peer epoch fromStarter) := ofEvent rfl rfl
theorem heartbeatLoss : Statement .heartbeatLoss := ofEvent rfl rfl
theorem candidacy (epoch : DWord) (priority peer : Nat) : Statement (.candidacy epoch priority peer) := ofEvent rfl rfl
theorem electionTimer : Statement .electionTimer := ofEvent rfl rfl
theorem electionResult (epoch : DWord) (priority peer : Nat) : Statement (.electionResult epoch priority peer) := ofEvent rfl rfl
theorem memberFailureReport (heat : Word) (failed : Nat) (detail : Nat) : Statement (.memberFailureReport heat failed detail) := ofEvent rfl rfl
theorem entryRequest (peer : Nat) (seq : Word) : Statement (.entryRequest peer seq) := ofEvent rfl rfl
theorem abort (seq : Word) : Statement (.abort seq) := ofEvent rfl rfl
theorem catchCore (core part : Nat) : Statement (.catchCore core part) := ofEvent rfl rfl
theorem deadlineReset (core part : Nat) : Statement (.deadlineReset core part) := ofEvent rfl rfl
theorem save (core part : Nat) : Statement (.save core part) := ofEvent rfl rfl
theorem drainAndTag (core part : Nat) : Statement (.drainAndTag core part) := ofEvent rfl rfl
theorem parkedResponse (p : Packet) : Statement (.parkedResponse p) := ofEvent rfl rfl
theorem switchRestore (core part : Nat) (seq : Word) : Statement (.switchRestore core part seq) := ofEvent rfl rfl
theorem freshStart (part : Nat) (j : JobSpec) (more : List JobSpec) : Statement (.freshStart part j more) := ofEvent rfl rfl
theorem switchStart (core part : Nat) : Statement (.switchStart core part) := ofEvent rfl rfl
theorem sprintGrantRecord (g : Grant) : Statement (.sprintGrantRecord g) := ofEvent rfl rfl
theorem sprintGrant (core : Nat) : Statement (.sprintGrant core) := ofEvent rfl rfl
theorem accumulatorDrain (core : Nat) : Statement (.accumulatorDrain core) := ofEvent rfl rfl
theorem sprintStart (core : Nat) : Statement (.sprintStart core) := ofEvent rfl rfl
theorem sprintLimit : Statement .sprintLimit := ofEvent rfl rfl
theorem sprintEnd (core : Nat) : Statement (.sprintEnd core) := ofEvent rfl rfl
theorem sprintRequest (g : Grant) : Statement (.sprintRequest g) := ofEvent rfl rfl
theorem translationWalk (part : Nat) (va : DWord) : Statement (.translationWalk part va) := ofEvent rfl rfl
theorem translationInvalidate (part : Nat) (troot : Option Nat) (lo hi : Nat) :
    Statement (.translationInvalidate part troot lo hi) := ofEvent rfl rfl
theorem partitionCreate (part : Nat) (q : PartSpec) : Statement (.partitionCreate part q) := ofEvent rfl rfl
theorem partitionTakedown (part : Nat) : Statement (.partitionTakedown part) := ofEvent rfl rfl
theorem arrayAssign (core part : Nat) : Statement (.arrayAssign core part) := ofEvent rfl rfl
theorem pinnedTileAssign (core part : Nat) : Statement (.pinnedTileAssign core part) := ofEvent rfl rfl
theorem copyOnWrite (part unit : Nat) : Statement (.copyOnWrite part unit) := ofEvent rfl rfl
theorem copyOnWriteTimeout (part unit : Nat) : Statement (.copyOnWriteTimeout part unit) := ofEvent rfl rfl
theorem checkpointComplete (job : Nat) : Statement (.checkpointComplete job) := ofEvent rfl rfl
theorem checkpointFail (job : Nat) (cause : Nat) : Statement (.checkpointFail job cause) := ofEvent rfl rfl
theorem checkpointTimeout (job : Nat) : Statement (.checkpointTimeout job) := ofEvent rfl rfl
theorem restore (job part : Nat) (held : List (Nat × List Word)) : Statement (.restore job part held) := ofEvent rfl rfl
theorem replay (job part : Nat) : Statement (.replay job part) := ofEvent rfl rfl
theorem stepBack (job slot : Nat) (clock : DWord) : Statement (.stepBack job slot clock) := ofEvent rfl rfl
theorem freezeN : Statement .freezeN := ofEvent rfl rfl
theorem tapRead (target address : Nat) : Statement (.tapRead target address) := ofEvent rfl rfl
theorem coldReset (cause : Nat) : Statement (.coldReset cause) := ofEvent rfl rfl
theorem stageComplete : Statement .stageComplete := ofEvent rfl rfl
theorem stageFailure (code : BitVec 8) : Statement (.stageFailure code) := ofEvent rfl rfl
theorem measurementExtend (index : Nat) (digest : BitVec 256) : Statement (.measurementExtend index digest) := ofEvent rfl rfl
theorem attestationReport (nonce : BitVec 256) : Statement (.attestationReport nonce) := ofEvent rfl rfl
theorem clearAndRestart : Statement .clearAndRestart := ofEvent rfl rfl
theorem basicRegisterWrite (block : Nat) (value : Word) : Statement (.basicRegisterWrite block value) := ofEvent rfl rfl
theorem expertRegisterWrite (block reg : Nat) (value : Word) : Statement (.expertRegisterWrite block reg value) := ofEvent rfl rfl
theorem expertWriteEffect (block : Nat) : Statement (.expertWriteEffect block) := ofEvent rfl rfl
theorem islandLevelChange (island level : Nat) : Statement (.islandLevelChange island level) := ofEvent rfl rfl
theorem preStartRaise (core : Nat) : Statement (.preStartRaise core) := ofEvent rfl rfl
theorem powerSample : Statement .powerSample := ofEvent rfl rfl
theorem powerTrip : Statement .powerTrip := ofEvent rfl rfl
theorem timeWake (slot split : Nat) : Statement (.timeWake slot split) := ofEvent rfl rfl
theorem lightStart : Statement .lightStart := ofEvent rfl rfl
theorem setupEnd (fibre : Nat) : Statement (.setupEnd fibre) := ofEvent rfl rfl
theorem memberHeartbeatMissed (peer : Nat) : Statement (.memberHeartbeatMissed peer) := ofEvent rfl rfl
theorem cxlMemAccess (part : Nat) (write : Bool) (offset : Nat) (data : List Byte) : Statement (.cxlMemAccess part write offset data) := ofEvent rfl rfl

end Sys2Proof.Laws.Encoding
end

