-- ==== Sys2Proof/Tests/States.lean ====
section
/-! SUPPORT. The small states that the tests and the witnesses of the statements use. -/

namespace Sys2Proof.Tests
open Sys2Proof Sys2Proof.Machine

/-- The state after an instruction, or the state before it where there is none. -/
def run (i : Instr) (s : State) : State := match exec i s with | .next t => t | _ => s

/-- The state that an outcome answers. -/
def after (r : Host.Outcome State Fault Refusal) : State := match r with | .next t => t | _ => State.reset

/-- A computation answers a value. -/
def isOk {E A : Type} [DecidableEq A] (r : Except E A) (x : A) : Bool := match r with | .ok y => decide (y = x) | .error _ => false

/-- A computation answers an error. -/
def isError {E A : Type} [DecidableEq E] (r : Except E A) (x : E) : Bool :=
  match r with | .ok _ => false | .error y => decide (y = x)

/-- Crew 0 as the placement of a block leaves it, with changes of its launch and of itself. -/
def base (f : Launch → Launch) (g : Crew → Crew) : State := (State.reset.placeCrew.updLaunch 1 f).updCrew g

/-- A launch image with n scalar words and n lane instructions. -/
def words (n : Nat) (l : Launch) : Launch := { l with scalarLen := 4 * n, laneLen := 12 * n }

/-- As words 8, deterministic. -/
def det (l : Launch) : Launch := { words 8 l with spec := { l.spec with det := true } }

/-- As words 8, privileged. -/
def priv (l : Launch) : Launch := { words 8 l with spec := { l.spec with priv := true } }

/-- As words 8, with a trap handler at byte 16. -/
def handled (l : Launch) : Launch := { words 8 l with spec := { l.spec with trap := 16 } }

/-- Scalar registers of split 0. -/
def regs (l : List (Nat × Word)) (c : Crew) : Crew := l.foldl (fun c x => c.setSreg 0 (.ofNat 5 x.1) x.2) c

/-- Predicates of the lanes. -/
def withPreds (p : Nat → BitVec 15) (c : Crew) : Crew :=
  { c with lanes := c.lanes.zipIdx.map fun x => { x.1 with preds := p x.2 } }

/-- The lower 48 lanes. -/
def mid : LaneMask := .ofNat 96 (2 ^ 48 - 1)

/-- A queued lane instruction of split 0. -/
def queued : LaneEntry := ⟨0x020000000000000000000000, 24, 7, 3, 0, 0, 1, 2, 3, 0, none, false⟩

/-- A store window with an entry of block memory and one of the scratchpad. -/
def twoStores (c : Crew) : Crew :=
  { c with window := [⟨false, 1, 0xA1A2A3A4A5A6A7A8, 0xFF, false⟩, ⟨true, 512, 0x1122334455667788, 0x0F, true⟩] }

/-- Two splits, of the lower and the upper lanes. -/
def two (f g : Split → Split) (c : Crew) : Crew :=
  { c with splits :=
      [(0, f { c.split 0 with members := mid, mask := mid }), (1, g { c.split 0 with members := ~~~mid, mask := ~~~mid })] }

/-- All four splits live, lanes in the first. -/
def four (c : Crew) : Crew :=
  { c with splits := (List.range 4).map fun k =>
      (k, { c.split 0 with live := true, mask := if k = 0 then (c.split 0).mask else 0, members := if k = 0 then BitVec.allOnes 96 else 0 }) }

/-- In the trap handler, one instruction held. -/
def handler (c : Crew) : Crew :=
  { c with trap := { c.trap with
      handler := true, spc := 20, lpc := 24, savedMask := 5, savedFmtr := 3, savedLpc := 36, held := [queued], savedSpc := 20
      savedLrun := some 3 } }

/-- Split 1 in focus. -/
def second (s : State) : State := { s with curSplit := 1 }

/-- Partition 0 has the channels of set 0, and its virtual addresses below 4 GiB name the same offsets (TROOT 0). -/
def paged (s : State) : State :=
  let s := { s with parts := mapSet Partition.none s.parts 0 { s.partition 0 with sets := [0] } }
  { s with mem := (s.mem.storeNat .hbm (s.hbmKey 0 0) 8 0x2003).storeNat .hbm (s.hbmKey 0 0x2000) 8 0xC0D }

/-- Bytes stored at an offset of partition 0, within one granule. -/
def hbmPut (off : Nat) (bs : List Byte) (s : State) : State := { s with mem := s.mem.store .hbm (s.hbmKey 0 off) bs }

/-- The outcome is a next state. -/
def completes (i : Instr) (s : State) : Bool := match exec i s with | .next _ => true | _ => false

end Sys2Proof.Tests
end

