-- ==== Sys2Proof/Tests/Slice0.lean ====
section
/-! SUPPORT. Tests of the layers: the checks of WellFormed, the encodings written out bit by bit from the specification's
tables, a few results worked out by hand, and witnesses of the statements about encodings, steps and memory. -/

namespace Sys2Proof.Tests
open Sys2Proof Sys2Proof.Machine
set_option Elab.async false

/-! ## Each check of WellFormed refuses a term -/

/-- Lane fields with the status bit of LDA and STA, and without. -/
def statusFields : LaneFields := ⟨0x41, 0x18, 0x18, 0x18, 0, 0, 0, 15, 0, 1, 0⟩
def elementFields : LaneFields := { statusFields with md := 0 }

theorem test_wellFormed_forms :
    wellFormed (.csrRd 1 0x020) = false ∧ wellFormed (.csrWr 1 2 0x028) = false ∧ wellFormed (.lda statusFields) = false ∧
    wellFormed (.ldaStatus elementFields) = false ∧ wellFormed (.sta statusFields) = false ∧
    wellFormed (.staStatus elementFields) = false ∧ wellFormed (.lda elementFields) = true ∧
    wellFormed (.csrWr 1 2 0x010) = true := by decide +kernel
theorem test_wellFormed_numbers :
    wellFormed (.longLatencyArrival 6144 0) = false ∧ wellFormed (.longLatencyArrival 0 96) = false ∧
    wellFormed (.blockPlacement 256) = false ∧ wellFormed (.copyEntryStart 16 0 0) = false ∧
    wellFormed (.copyEntryStart 0 0 10) = false ∧ wellFormed (.token 4) = false ∧ wellFormed (.graphEnd 0 64) = false ∧
    wellFormed (.nodeDone 0 0 67108864) = false ∧ wellFormed (.flitSend 512) = false ∧ wellFormed (.squareStart 64) = false ∧
    wellFormed (.timeWake 0 4) = false ∧ wellFormed (.memberHeartbeatMissed 4096) = false ∧
    wellFormed (.longLatencyArrival 6143 95) = true := by decide +kernel
/-- A packet of peer 0 without data. -/
def emptyPacket : Packet := ⟨1, 0, 0, 0, 0, 0, 0, 0, 0, 0, [], [], false⟩
theorem test_wellFormed_packet :
    packetOk { emptyPacket with src := 4096 } = false ∧ packetOk { emptyPacket with data := [0] } = false ∧
    packetOk emptyPacket = true := by decide +kernel

/-- The instruction that a word decodes to. -/
def scalarIs (w : Word) (i : Instr) : Bool := isOk (decodeScalar w) i
def laneIs (w : BitVec 96) (i : Instr) : Bool := isOk (decodeLane w) i

/-! ## Words written out from the encoding tables (R92 to R99, R111, R124) -/

theorem test_decode_memory :
    scalarIs 0b011100_00001_00010_0000000000001000 (.sld 1 2 8) ∧
    scalarIs 0b011101_00001_00010_1111111111111000 (.sst 1 2 0xFFF8) ∧
    scalarIs 0b011110_00001_00010_00011_00_010_001_100 (.satm 1 2 3 2 1 4) := by decide +kernel
theorem test_decode_streams :
    scalarIs 0b011111_00000_00111_0000000000000101 (.lrun 7 5) ∧
    scalarIs 0b100001_00100_00000_00000_0000000_10_00 (.movmRead 4 2) ∧
    scalarIs 0b100011_00100_00101_00000_00000000000 (.rdrd 4 5) ∧
    scalarIs 0b101010_00000_00011_00000_0110_0000000 (.wseq 3 6) := by decide +kernel
theorem test_decode_engines :
    scalarIs 0b101011_00001_00010_00011_0001_0_010_001 (.cpy 1 2 3 1 2 1) ∧
    scalarIs 0b101110_00001_00010_00000_0100_0000000 (.ttsk 1 2) ∧
    scalarIs 0b110000_00001_00010_00000_0101_0000000 (.catrn 1 2) ∧
    scalarIs 0b110010_00001_00010_00000_00000000000 (.glch 1 2) ∧
    scalarIs 0b110011_00001_00010_00000_00000000000 (.spwn 1 2) := by decide +kernel
theorem test_decode_remote :
    scalarIs 0b110110_00001_00010_00000_0000000_010_0 (.xmemLd 1 2 2) ∧
    scalarIs 0b110111_00001_00010_00011_00_101_001_000 (.xatm 1 2 3 5 1 0) ∧
    scalarIs 0b111001_00001_00010_00000_0110_00_10_001 (.coll 1 2 2 1) ∧
    scalarIs 0b111010_00001_00010_00011_00000000011 (.lnkSlot 1 2 3) ∧
    scalarIs 0b111011_00001_00000_0000000000000_011 (.heat 1 3) := by decide +kernel
theorem test_decode_control :
    scalarIs 0b111100_00000_00010_1_000_000000010000 (.csrWr 0 2 0x010) ∧
    scalarIs 0b001010_00000_000000000000000000111 (.trap 7) ∧
    scalarIs 0b001000_00000_01000_00000_00000000011 (.yieldTime 8) := by decide +kernel
theorem test_decode_lane_arithmetic :
    laneIs 0b00000010_01000001_01000010_01000011_00011000_000_00010_000_1111_0_00000001_00000000000000000000000000000000 (.iadd ⟨0x41, 0x42, 0x43, 0x18, 0, 2, 0, 15, 0, 1, 0⟩) ∧
    laneIs 0b00011000_01000001_01000010_00011000_00011000_001_00000_000_0011_1_00000000_00000000000000000000000000000000 (.mov ⟨0x41, 0x42, 0x18, 0x18, 1, 0, 0, 3, 1, 0, 0⟩) ∧
    laneIs 0b01000000_01000001_01000010_00011000_00011000_000_00100_001_1111_0_00000001_00000000000000000000000000000000 (.cvtf ⟨0x41, 0x42, 0x18, 0x18, 0, 4, 1, 15, 0, 1, 0⟩) ∧
    laneIs 0b01001100_01000001_01000010_00011000_00011000_000_00010_000_1111_0_10000000_00000000000000000000000000000000 (.radd ⟨0x41, 0x42, 0x18, 0x18, 0, 2, 0, 15, 0, 0x80, 0⟩) ∧
    laneIs 0b00110000_01000001_01000010_00011000_00011000_000_00001_000_1111_0_00000000_00000000000000000000000000000000 (.fexp ⟨0x41, 0x42, 0x18, 0x18, 0, 1, 0, 15, 0, 0, 0⟩) := by decide +kernel
theorem test_decode_lane_engines :
    laneIs 0b01110000_01000001_01000010_00011000_00011000_000_00001_000_1111_0_00000000_00000000000000000000000000000001 (.lda ⟨0x41, 0x42, 0x18, 0x18, 0, 1, 0, 15, 0, 0, 1⟩) ∧
    laneIs 0b01101000_01000001_01000010_00011000_00011000_000_00000_000_1111_0_00000000_00000000000000000000000000000000 (.litp ⟨0x41, 0x42, 0x18, 0x18, 0, 0, 0, 15, 0, 0, 0⟩) ∧
    laneIs 0b01011101_01000001_01000010_01000011_00011000_000_00011_000_1111_0_00001000_00000000000000000000000000000000 (.atb ⟨0x41, 0x42, 0x43, 0x18, 0, 3, 0, 15, 0, 8, 0⟩) ∧
    laneIs 0b10000011_11111111_00011000_00011000_00011000_000_00000_000_1111_0_00000000_00000000000000000001001000110100 (.lbrk ⟨0xFF, 0x18, 0x18, 0x18, 0, 0, 0, 15, 0, 0, 0x1234⟩) ∧
    (match decodeLane 0b10000100_11111111_00011000_00011000_00011000_000_00000_000_1111_0_00000000_00000000000000000000000000000000 with
     | .ok _ => false | .error _ => true) = true := by decide +kernel

/-! ## Witnesses of the statements about encodings, steps and memory -/

/-- A step answers a next state. -/
def stepGoes (s : State) : Bool := match step s with | .next t => t.steps == s.steps + 1 | _ => false
theorem witness_ScalarWordsRoundTrip :
    wellFormed (.sst 1 2 0xFFF8) = true ∧ encodeScalar (.sst 1 2 0xFFF8) = some 0x7422FFF8 ∧
    scalarIs 0x7422FFF8 (.sst 1 2 0xFFF8) := by decide +kernel
theorem witness_LaneWordsRoundTrip :
    let f : LaneFields := ⟨0x41, 0x42, 0x43, 0x18, 0, 2, 0, 15, 0, 1, 0⟩
    wellFormed (.iadd f) = true ∧ encodeLane (.iadd f) = some 0x024142431802_1E01_00000000 ∧
    laneIs 0x024142431802_1E01_00000000 (.iadd f) ∧
    (0x83 : Nat) ≤ 0x83 ∧ ((0x024142431802_1E01_00000000 : BitVec 96).extractLsb' 88 8).toNat ≤ 0x83 := by decide +kernel
theorem witness_MemoriesStayCanonical :
    decide State.reset.mem.wf = true ∧ stepGoes State.reset = true := by decide +kernel

/-- A word that is no instruction. -/
def refused (w : Word) : Bool := match decodeScalar w with | .ok _ => false | .error _ => true
/-- Words of SHF with operation 5 and of BITS with operation 5, and with FN[3] for CLZ. -/
theorem witness_ScalarResults_encodings :
    scalarIs (0x30221800) (.add 1 2 3) ∧ scalarIs 0x502207FF (.rorImm 1 2 31) = false ∧
    refused 0x50221805 ∧ refused 0x68221805 ∧ refused 0x6822000A := by decide +kernel

/-- A scalar NOP at SPC, a lane NOP at the queue's head, and an event, each next on the agenda. -/
def scalarTurn : State := State.reset.withFetchWord 32 0x04000000
def laneTurn : State := State.reset.withFetchWord 96 0xFF181818_0000_1E00_00000000
def eventTurn : State := { State.reset with agenda := [.event .stageComplete] }
theorem witness_StepRunsTheInstruction_turns :
    scalarTurn.agenda.length = 1 ∧ scalarTurn.boot.frozen = false ∧ (0, 0) ∈ scalarTurn.runnable ∧
    (mapFind scalarTurn.launches (scalarTurn.crewAt 0).launch).isSome ∧
    scalarTurn.split.spc + 4 ≤ scalarTurn.launch.scalarLen ∧
    isOk (decodeScalar (.ofNat 32 (memNat scalarTurn.launch.scalar scalarTurn.split.spc 4))) .nop ∧ stepGoes scalarTurn ∧
    laneTurn.crew.laneQ.length = 1 ∧ (laneTurn.crewAt 0).live ∧ (laneTurn.crewAt 0).caught = false ∧ stepGoes laneTurn ∧
    stepGoes eventTurn := by decide +kernel
/-- A scalar turn of a crew whose words have run out, and of a word that no instruction has. -/
def pastTheEnd : State := { base id id with agenda := [.scalar 0 0] }
def noWord : State := { base (words 1) id with agenda := [.scalar 0 0] }
theorem witness_StepRunsTheInstruction_traps :
    (0, 0) ∈ pastTheEnd.runnable ∧ pastTheEnd.launch.scalarLen < pastTheEnd.split.spc + 4 ∧ stepGoes pastTheEnd ∧
    (0, 0) ∈ noWord.runnable ∧ noWord.split.spc + 4 ≤ noWord.launch.scalarLen ∧
    isError (decodeScalar (.ofNat 32 (memNat noWord.launch.scalar noWord.split.spc 4))) ⟨0, 0⟩ ∧ stepGoes noWord := by
  decide +kernel
/-- A CPY of space 7 with FN[6] set in an unprivileged launch, whose trap is the one of privilege. -/
def noCopy : State := State.reset.withFetchWord 32 0xAC000047
theorem witness_StepRunsTheInstruction_privilege :
    (0, 0) ∈ noCopy.runnable ∧ noCopy.split.spc + 4 ≤ noCopy.launch.scalarLen ∧
    isError (decodeScalar (.ofNat 32 (memNat noCopy.launch.scalar noCopy.split.spc 4))) ⟨9, 0x47⟩ ∧
    saveCopy (.ofNat 32 (memNat noCopy.launch.scalar noCopy.split.spc 4)) ∧ noCopy.settings.priv = false ∧
    stepGoes noCopy := by
  decide +kernel
/-- A frozen module with a tap read, and with another event; and no agenda on a scalar step. -/
def frozenEvent : State := { State.reset with boot := { State.reset.boot with frozen := true }, agenda := [.event .stageComplete] }
def defaultTurn : State := { scalarTurn with agenda := [], steps := 2 }
theorem witness_StepRunsTheInstruction_frozen :
    frozenEvent.ckpt.stepBack = none ∧ stepGoes { frozenEvent with agenda := [.event (.tapRead 0 0)] } ∧ stepGoes frozenEvent ∧ defaultTurn.steps % 3 = 2 ∧
    (defaultTurn.cur, defaultTurn.curSplit) ∈ defaultTurn.runnable ∧ stepGoes defaultTurn := by decide +kernel

/-! ## Results worked out by hand -/

/-- What a scalar word leaves in s3, with s1 and s2 as given. -/
def scalarResult (i : Instr) (a b : Word) : Word := (run i (base (words 8) (regs [(1, a), (2, b)]))).sreg 3
theorem test_scalar_arithmetic :
    scalarResult (.add 3 1 2) 0xFFFFFFFF 2 = 1 ∧ scalarResult (.sub 3 1 2) 1 2 = 0xFFFFFFFF ∧
    scalarResult (.mulh 3 1 2 1) 0xFFFFFFFF 0xFFFFFFFF = 0xFFFFFFFE ∧
    scalarResult (.addi 3 1 0xFFFF) 5 0 = 4 ∧ scalarResult (.lui 3 0x8000) 0 0 = 0x80000000 := by decide +kernel
theorem test_scalar_bits :
    scalarResult (.sra 3 1 2) 0x80000000 4 = 0xF8000000 ∧ scalarResult (.rol 3 1 2) 0x80000001 1 = 3 ∧
    scalarResult (.clz 3 1) 0x00010000 0 = 15 ∧ scalarResult (.popc 3 1) 0xF0F0 0 = 8 ∧
    scalarResult (.brev 3 1) 1 0 = 0x80000000 ∧ scalarResult (.bfx 3 1 2 1) 0x00000080 0x0404 = 0xFFFFFFF8 := by decide +kernel

/-- What a lane instruction leaves in v1 of lane 0, with v2, v3 and v4 as given; none while its destination is empty. -/
def laneResult (op : BitVec 8) (uses : BitVec 3) (fmt : BitVec 5) (md : BitVec 8) (a b c : DWord) : Option DWord :=
  let f : LaneFields := ⟨0x41, if uses.getLsbD 0 then 0x42 else 0x18, if uses.getLsbD 1 then 0x43 else 0x18,
    if uses.getLsbD 2 then 0x44 else 0x18, 0, fmt, 0, 15, 0, md, 0⟩
  let reg (v : DWord) : LaneReg := ⟨v, true, false⟩
  let s := (base (words 8) fun c' => ({ c' with lanes := (List.range 96).map fun _ =>
    (⟨[(2, reg a), (3, reg b), (4, reg c)], [], 0, 0, 0, 0⟩ : LaneState) }).updSplit 0 fun p => { p with mask := 1 }).updCrew
      fun c' => c'.enqueueLane 0 (laneWord op f)
  match decodeLane (laneWord op f) with
  | .ok i => let r := ((run i s).crew.lane 0).reg 1; if r.full then some r.val else none
  | .error _ => none
theorem test_lane_integers :
    laneResult 0x02 3 0 1 0x7FFFFFFF 1 0 = some 0x7FFFFFFF ∧ laneResult 0x02 3 0 0 0x7FFFFFFF 1 0 = some 0xFFFFFFFF80000000 ∧
    laneResult 0x05 3 1 0 0xFFFFFFFF 0xFFFFFFFF 0 = some 0xFFFFFFFE ∧ laneResult 0x13 1 2 0 0xF0F0 0 0 = some 8 := by decide +kernel
theorem test_lane_floats :
    laneResult 0x20 3 1 0 0x3F800000 0x40000000 0 = some 0x40400000 ∧
    laneResult 0x23 7 1 0 0x40000000 0x40400000 0x3F800000 = some 0x40E00000 ∧
    laneResult 0x22 3 4 0 0x3C00 0x4000 0 = some 0x4000 := by decide +kernel
theorem test_lane_conversions :
    laneResult 0x42 1 1 0 0xFFFFFFFF 0 0 = some 0xBF800000 ∧ laneResult 0x41 1 0 1 0xC0200000 0 0 = some 0xFFFFFFFFFFFFFFFE := by
  decide +kernel

end Sys2Proof.Tests
end

