-- ==== Sys2Proof/Tests/WitnessEngines.lean ====
section
/-! SUPPORT. Witnesses of the statements about the events of cores, queues, engines and graphs: for each clause a state and
operands that meet its hypotheses, the instruction completing there. -/

namespace Sys2Proof.Tests
open Sys2Proof Sys2Proof.Machine
set_option Elab.async false

/-! ## CoreEvents -/

def wArrival : State := base (words 8) fun c => { c with inflight := [⟨3, 0, [⟨5, 7, false, 1⟩]⟩] }
theorem witness_CoreEvents_arrival :
    (wArrival.crewAt 0).inflight = [⟨3, 0, [⟨5, 7, false, 1⟩]⟩] ∧ 5 < (wArrival.crewAt 0).lanes.length ∧
    (run (.longLatencyArrival 0 5) wArrival).crew.inflight = [] ∧
    ((run (.longLatencyArrival 0 5) wArrival).crew.lane 5).reg 3 = ⟨7, true, false⟩ := by decide +kernel

def wTrap : State := base handled fun c => { c with laneQ := [queued] }
theorem witness_CoreEvents_traps :
    wTrap.crew.live ∧ wTrap.split.live ∧ wTrap.crew.laneQ.head? = some queued ∧ wTrap.crew.trap.handler = false ∧
    wTrap.settings.trap ≠ 0 ∧
    (run (.laneTrap (laneInfo 9 6 0)) wTrap).crew.trap.cause = 0x01090006 ∧
    (run (.scalarTrap (laneInfo 9 6 0)) wTrap).crew.trap.cause = 0x02090006 := by decide +kernel

def wNoHandler : State := base (words 8) id
def wInHandler : State := base handled handler
theorem witness_CoreEvents_termination :
    wNoHandler.crew.live ∧ wNoHandler.settings.trap = 0 ∧ wInHandler.crew.live ∧ wInHandler.crew.trap.handler ∧
    (run (.crewTermination 0x01090006) wNoHandler).crew.status = 0x01090006 ∧
    (run (.crewTermination 0x02090006) wInHandler).crew.live = false := by decide +kernel

theorem witness_CoreEvents_ecc :
    (wNoHandler.crewAt 0).live ∧ 95 < (wNoHandler.crewAt 0).lanes.length ∧
    ((run (.registerEccError 0 71 95) wNoHandler).crew.lane 95).reg 71 = ⟨0, true, true⟩ ∧
    completes (.registerEccError 0 87 95) wNoHandler ∧
    (run (.memoryEccError true 512) wNoHandler).mem.poisoned .spad 0x8000 1 := by decide +kernel

def wTimed : State := base (words 8) fun c => c.updSplit 0 fun p => { p with wait := .time 0 }
theorem witness_CoreEvents_wake :
    (wTimed.crewAt 0).live ∧ (wTimed.crewAt 0).caught = false ∧ ((wTimed.crewAt 0).split 0).wait = .time 0 ∧
    (0 : DWord) ≤ wTimed.heat.time ∧ (run (.timeWake 0 0) wTimed).split.spc = 4 := by decide +kernel

/-! ## BlockPlacement -/

def wTask : Task := ⟨0, 3, 2 ^ 26, 0, 0, 0, 0, false⟩
def wLaunchNode : Node := { recordNode [] 0 none [] with kind := 1, id := 2 ^ 26, gsSlot := 2 ^ 18, state := .ready }
/-- A graph of handle 3 with one LAUNCH node in a partition whose core 0 is free. -/
def wGraph (n : Node) : State :=
  { (State.reset.placeCrew.updLaunch 1 (words 8)).setCrewAt 0 Crew.empty with
    graphs := [(graphKey 0 3, { Graph.free with gstate := 2, nodes := [n], launch := 1, job := 1, ncnt := [1, 0, 0, 0] })] }
def wPrefetched : State := (wGraph { wLaunchNode with state := .running }).updCore 0 fun c => { c with prefetch := [wTask] }
theorem witness_BlockPlacement :
    (wPrefetched.core 0).prefetch = [wTask] ∧ wPrefetched.engineRuns (qkey 0 0) ∧
    wPrefetched.node (graphKey 0 3) (2 ^ 26) = some { wLaunchNode with state := .running } ∧
    wPrefetched.fit 0 0 1 (wPrefetched.needs (graphKey 0 3) { wLaunchNode with state := .running }) = some ([0], 0) ∧
    ((run (.blockPlacement 0) wPrefetched).crewAt 0).live := by decide +kernel

/-! ## CopyEntries -/

/-- A copy of 8 bytes within block memory issued into queue 0, and what it becomes in turn. -/
def wIssued : State :=
  run (.cpy 3 4 6 0 1 1) (base (words 8) (regs [(3, 8), (4, 0x08000400), (6, 0x08000800)]))
def wEntry (s : State) (q : Nat) : QEntry := ((s.queue s.qk q).ents.head?).getD (s.newEntry 0 0 0)
def wCopyBad : State := { wIssued with mem := wIssued.mem.mark .spad (wIssued.chainSlot 0 0 1) }
def wCopying : State := after (execCopyEntryStart 0 0 0 wIssued)
def wCopied : State := wCopying.updEntry 0 0 1 fun e => { e with prog := 8 }
def wMoved : State := after (execCopyEntryStart 0 0 0 wCopied)
def wCopyFault : State := wCopying.updEntry 0 0 1 fun e => { e with state := .faulted, cause := 9, rdet := 3 }
theorem witness_CopyEntries_start :
    wIssued.headEntry 0 0 = some (wEntry wIssued 0) ∧ wIssued.entry 0 0 1 = some (wEntry wIssued 0) ∧
    wIssued.engineRuns 0 ∧ (wEntry wIssued 0).state = .queued ∧ wIssued.afterDone 0 (wEntry wIssued 0) ∧
    isOk (wIssued.copyChecks 0 0 (wEntry wIssued 0)) { wEntry wCopying 0 with state := .queued } ∧
    (wEntry wCopying 0).state = .running := by decide +kernel
theorem witness_CopyEntries_badStart :
    wCopyBad.headEntry 0 0 = some (wEntry wCopyBad 0) ∧ wCopyBad.entry 0 0 1 = some (wEntry wCopyBad 0) ∧
    isError (wCopyBad.copyChecks 0 0 (wEntry wCopyBad 0)) (10, wCopyBad.chainAddr 0 0 1) ∧
    (wEntry (run (.copyEntryStart 0 0 0) wCopyBad) 0).cause = 10 := by decide +kernel
theorem witness_CopyEntries_end :
    wCopied.engineRuns 0 ∧ (wEntry wCopied 0).state = .running ∧ (wEntry wCopied 0).resp = [] ∧
    (wEntry wCopied 0).pending = [] ∧ (wEntry wCopied 0).job'.units ≤ (wEntry wCopied 0).prog ∧
    (wEntry wMoved 0).state = .moved ∧ (wMoved.core 0).granules = [] ∧
    (wMoved.queue 0 0).ents = [wEntry wMoved 0] ∧ (wEntry wMoved 0).rel = none ∧
    ((run (.copyEntryComplete 0 0 0) wMoved).queue 0 0).seq = 1 := by decide +kernel
theorem witness_CopyEntries_faulted :
    (wEntry wCopyFault 0).state = .faulted ∧ (wEntry wCopyFault 0).cause ∈ [1, 2, 9] ∧ (wEntry wCopyFault 0).node = none ∧
    (wCopyFault.queue 0 0).ents = [wEntry wCopyFault 0] ∧
    (wCopyFault.crewAt (wEntry wCopyFault 0).slot).uid = (wEntry wCopyFault 0).uid ∧
    (wEntry (run (.copyEntryResume 0 0 0) wCopyFault) 0).state = .running ∧
    (run (.copyEntryRetire 0 0 0) wCopyFault).crew.asyncf = 1 := by decide +kernel

theorem witness_CopyEntries_release :
    let s := wMoved.updEntry 0 0 1 fun e => { e with rel := some (false, 0x80) }
    (wEntry s 0).rel = some (false, 0x80) ∧ (wEntry s 0).state = .moved ∧ (s.queue 0 0).ents = [wEntry s 0] ∧
    (run (.copyEntryComplete 0 0 0) s).mem.nat .bmem 0x84 4 = 1 := by decide +kernel

/-! ## TileTasks -/

/-- A task of 2 by 2 outputs and 10 products each, in float32, drained to scratchpad byte 200H, of two steps. -/
def wTileRec (b5 b6 : Byte) : List Byte :=
  [4, 1, 1, 1, 1, b5, 4 + b6, 1, 1, 1, 9, 0, 0, 0, 0, 0] ++ leBytes 8 0x08000400 ++ leBytes 8 0x08000800 ++
    leBytes 4 0x08000200 ++ List.replicate 28 0
def wTileBase (r : List Byte) : State :=
  let s := base (words 8) (regs [(1, 0x08000100)])
  { s with mem := ((s.mem.store .spad 0x100 r).storeNat .spad 0x400 4 0x3F800000).storeNat .spad 0x800 4 0x40000000 }
def wTile : State := run (.ttsk 3 1) (wTileBase (wTileRec 0 0))
def wTileOn : State := after (execMtsTaskStart 0 0 4 wTile)

def wTileIdx : State :=
  let s := run (.ttsk 3 1) (wTileBase ((((wTileRec 0 1).set 0 20).set 37 9).set 39 8))
  { s with mem := s.mem.mark .spad 0x900 }
def wTileDone : State := wTileOn.updEntry 0 4 1 fun e => { e with prog := 2, state := .moved }
def wTileFault : State := (wTileOn.updEntry 0 4 1 fun e => { e with state := .faulted, cause := 1 }).updCore 0 fun c => { c with tile := none }

def wScanA : Scan × Except Halt (List (List (Byte × Bool))) :=
  Scan.segments ⟨wTileOn, [], []⟩ 0 (wEntry wTileOn 4) (tileAddr 1 0x08000400) 32 [0, 64]
def wScanB : Scan × Except Halt (List (List (Byte × Bool))) :=
  Scan.segments wScanA.1 0 (wEntry wTileOn 4) (tileAddr 1 0x08000800) 32 [0, 32]
def lengthIs {E A : Type} (r : Except E (List A)) (n : Nat) : Bool := match r with | .ok l => l.length == n | .error _ => false
def gotNone (g : ScaleGet) : Bool := match g with | .got [] => true | _ => false
theorem witness_TileTasks_start :
    let e := wEntry wTile 4
    let t := tileRec e.recd
    (wTile.queue 0 4).ents.find? (fun x => x.state == .queued) = some e ∧ wTile.engineRuns 0 ∧ wTile.afterDone 0 e ∧
    wTile.tileWaits 0 e.engine t ∧ t.pin = false ∧ wTile.engineFor 0 e.engine t.pin = some 0 ∧ t.csrc = 0 ∧
    wTile.tileStartBad 0 e.engine t (wTile.tileRows 0 e.engine t) e.arg.toNat = none ∧
    (wTileOn.core 0).tile = some (0, 4, 1) ∧ (wEntry (run (.mtsTaskStart 0 0 4) wTile) 4).state = .running := by decide +kernel
theorem witness_TileTasks_served :
    wTile.tileFirst 0 0 = some (0, 4) ∧ wTile.mtsNext 0 = some (0, 0, 4) ∧
    (wTile.tileReady 0 0 4).map (fun x => x.1.since) = some (wEntry wTile 4).since ∧
    (wEntry wTileOn 4).rows = [0, 1] ∧ (wTileOn.die 0).served = 0 := by decide +kernel
theorem witness_TileTasks_badStart :
    let e := wEntry wTileIdx 4
    let t := tileRec e.recd
    (wTileIdx.queue 0 4).ents.find? (fun x => x.state == .queued) = some e ∧ wTileIdx.engineRuns 0 ∧
    wTileIdx.tileWaits 0 e.engine t ∧ wTileIdx.engineFor 0 e.engine t.pin = some 0 ∧
    wTileIdx.tileStartBad 0 e.engine t (wTileIdx.tileRows 0 e.engine t) e.arg.toNat = some (10, 0x08000900) ∧
    (wEntry (run (.mtsTaskStart 0 0 4) wTileIdx) 4).cause = 10 := by decide +kernel
theorem witness_TileTasks_step :
    let e := wEntry wTileOn 4
    let t := tileRec e.recd
    wTileOn.tileTask 0 = some (0, 4, e) ∧ e.state = .running ∧ wTileOn.engineRuns 0 ∧ e.resp = [] ∧ e.pending = [] ∧
    e.engine = 0 ∧ t.ring = false ∧ t.scales = 0 ∧ t.red = false ∧ e.prog + 1 < t.nsteps ∧ t.m = 2 ∧ t.n = 2 ∧
    t.segA = 32 ∧ t.segB = 32 ∧ t.fmtc = 1 ∧ e.prog2 = 0 ∧
    ((List.range t.m).map fun i => e.rows.getD i 0 * t.astr + e.prog * t.segA) = [0, 64] ∧
    ((List.range t.n).map fun j => e.prog * 128 * t.segB + j * t.segB) = [0, 32] ∧
    lengthIs wScanA.2 2 ∧ lengthIs wScanB.2 2 ∧
    wScanB.1.s.mem = wTileOn.mem ∧ wScanB.1.s.qsets = wTileOn.qsets ∧
    (run (.tileKStep 0 false) wTileOn).mem.nat .acc (t.elem 0 0 0) 4 = 0x40000000 := by decide +kernel
theorem witness_TileTasks_complete :
    let e := wEntry wTileDone 4
    wTileDone.tileTask 0 = some (0, 4, e) ∧ e.state = .moved ∧ wTileDone.engineRuns 0 ∧
    gotNone (wTileDone.batchEnds 0 4 e (tileRec e.recd)) ∧
    (wTileDone.queue 0 4).ents = [e] ∧ e.rel = none ∧
    ((run (.tileTaskComplete 0) wTileDone).queue 0 4).seq = 1 := by decide +kernel
theorem witness_TileTasks_faulted :
    let e := wEntry wTileFault 4
    wTileFault.entry 0 4 1 = some e ∧ e.state = .faulted ∧ e.cause ∈ [1, 2, 9] ∧ (tileRec e.recd).pin = false ∧
    wTileFault.engineFree 0 e.engine ∧ e.node = none ∧ (wTileFault.queue 0 4).ents = [e] ∧
    (wEntry (run (.tileTaskResume 0 0 4 1) wTileFault) 4).state = .running ∧
    ((run (.tileTaskRetire 0 0 4 1) wTileFault).queue 0 4).seq = 1 := by decide +kernel
/-- A pinned task that faulted, which keeps its engine. -/
def wPinFault : State := (after (execMtsTaskStart 0 0 4 wTileIdx)).updEntry 0 4 1 fun e => { e with cause := 9 }
theorem witness_TileTasks_pinned :
    let e := wEntry wPinFault 4
    wPinFault.entry 0 4 1 = some e ∧ e.state = .faulted ∧ e.cause ∈ [1, 2, 9] ∧ (tileRec e.recd).pin ∧
    (wPinFault.core e.engine).tile = some (0, 4, 1) ∧ (wPinFault.queue 0 4).ents = [e] ∧ e.node = none ∧
    (wEntry (run (.tileTaskResume 0 0 4 1) wPinFault) 4).state = .running ∧
    ((run (.tileTaskRetire 0 0 4 1) wPinFault).core 0).tile = none := by decide +kernel

/-! ## ArrayEntries -/

/-- Two clauses of two features and two classes, threshold 1. -/
def wCac : DWord := .ofNat 64 (2 + 2 * 2 ^ 9 + 2 * 2 ^ 18 + 2 ^ 23 + 2 ^ 33)
def wArrayRec (opk out : Nat) : List Byte :=
  [.ofNat 8 opk, 0, 0, 0] ++ leBytes 4 1 ++ leBytes 4 0x08000400 ++ leBytes 4 out ++ List.replicate 48 0
def wArrayBase (cac : DWord) : State :=
  let s := base (words 8) (regs [(1, 0x08000100), (2, 0x08000140), (4, 0x08000700)])
  { s.updCore 0 fun c => { c with cac := cac } with
    mem := ((((s.mem.store .spad 0x100 (wArrayRec 1 0x08000500)).store .spad 0x140 (wArrayRec 2 0x08000600)).store .spad 0x600
      [0, 0xFF]).store .spad 0x700 (leBytes 8 wCac.toNat ++ [5])).store .spad 0x400 [3] }
def wInfer : State := run (.cainf 3 1) (wArrayBase wCac)
def wInferOn : State := after (execClauseEntryStart 0 wInfer)
def wTrain : State := run (.catrn 3 2) (wArrayBase wCac)
def wTrainOn : State := after (execClauseEntryStart 0 wTrain)
def wLive : State := after (execClauseEntryStart 0 (run (.cainfLive 3 1) (wArrayBase wCac)))
def wLoad : State := run (.camovLoad 3 4 1) (wArrayBase 0)
def wLoadOn : State := after (execClauseEntryStart 0 wLoad)
def wStoreOn : State := after (execClauseEntryStart 0 (run (.camovStore 3 4 1) (wArrayBase wCac)))
def wArrayMoved : State := after (execCamovOperation 0 wStoreOn)
def wArrayFault : State := after (execClauseEntryStart 0 (run (.cainf 3 1) (wArrayBase 0)))
def wGranule : ClauseGranule := ⟨64, (List.range 64).map fun i => (i, (9, i == 5)), 0, 0, 1, false⟩
def wGranules : State := (wArrayBase wCac).updCore 0 fun c => { c with granules := [wGranule] }
theorem witness_ArrayEntries_start :
    wInfer.arrayKey 0 = some 0 ∧ wInfer.engineRuns 0 ∧
    (wInfer.arrayEntries 0).find? (fun x => x.2.state == .queued) = some (5, wEntry wInfer 5) ∧
    wInfer.afterDone 0 (wEntry wInfer 5) ∧ (wInfer.arrayEntries 0).takeWhile (fun x => x.2.state != .queued) = [] ∧
    (wEntry wInfer 5).live = false ∧ (wEntry wInfer 5).opcode ≠ 0x31 ∧
    isOk (wInfer.arrayChecks 0 (wEntry wInfer 5)) { wEntry wInferOn 5 with state := .queued, rows := [] } ∧
    (wEntry (run (.clauseEntryStart 0) wInfer) 5).state = .running := by decide +kernel
theorem witness_ArrayEntries_badStart :
    let s := run (.cainf 3 1) (wArrayBase 0)
    s.arrayKey 0 = some 0 ∧ s.engineRuns 0 ∧ (s.arrayEntries 0).find? (fun x => x.2.state == .queued) = some (5, wEntry s 5) ∧
    isError (s.arrayChecks 0 (wEntry s 5)) 14 ∧ (wEntry (run (.clauseEntryStart 0) s) 5).cause = 14 := by decide +kernel
theorem witness_ArrayEntries_loadStart :
    (wLoad.arrayEntries 0).find? (fun x => x.2.state == .queued) = some (5, wEntry wLoad 5) ∧ (wEntry wLoad 5).opcode = 0x31 ∧
    (∀ x ∈ imageParts (wEntry wLoad 5).fn, (wLoad.entryPlace 0 (wEntry wLoad 5) (0x08000700 + x.1) x.2).isSome) ∧
    (wEntry (run (.clauseEntryStart 0) wLoad) 5).state = .running := by decide +kernel
def wCellWrites : List (Nat × Nat × Nat) := match wTrainOn.trainSample 0 (wEntry wTrainOn 5) with | .cells l => l | .fault _ => []
def isCells (t : Train) : Bool := match t with | .cells _ => true | .fault _ => false
theorem witness_ArrayEntries_train :
    wTrainOn.arrayRunning 0 false = some (0, 5, wEntry wTrainOn 5) ∧ (wEntry wTrainOn 5).opcode = 0x30 ∧
    isCells (wTrainOn.trainSample 0 (wEntry wTrainOn 5)) ∧ (wCellWrites.map fun x => (x.1, x.2.1)).Nodup ∧
    (∀ x ∈ wCellWrites, x.2.1 < 512) ∧ ((run (.trainingStep 0) wTrainOn).core 0).stepCount = 1 := by decide +kernel
theorem witness_ArrayEntries_infer :
    let e := wEntry wInferOn 5
    let x := arrayRec e.recd
    wInferOn.arrayRunning 0 false = some (0, 5, e) ∧ e.opcode = 0x2F ∧
    wInferOn.entryPlace 0 e (x.inp + 32 * e.prog) 32 = some (.mem .spad 0x400) ∧
    wInferOn.entryPlace 0 e (x.out + 32 * e.prog) 32 = some (.mem .spad 0x500) ∧
    wInferOn.spotsPoisoned (.mem .spad 0x400) 32 = false ∧ x.flags.testBit 1 = false ∧
    (cacFields (wInferOn.core 0).cac).nc ≤ 16 ∧ (wInferOn.spotKey (.mem .spad 0x500)).2 % 64 + 32 ≤ 64 ∧
    (wEntry (run (.inferenceSample 0 0) wInferOn) 5).state = .moved ∧
    wLive.arrayRunning 0 true = some (0, 5, wEntry wLive 5) ∧ (wEntry wLive 5).live ∧
    (wEntry (run (.inferenceSample 0 1) wLive) 5).state = .moved := by decide +kernel
theorem witness_ArrayEntries_image :
    wLoadOn.arrayRunning 0 false = some (0, 5, wEntry wLoadOn 5) ∧ (wEntry wLoadOn 5).fn.getLsbD 3 = false ∧
    wLoadOn.entryPlace 0 (wEntry wLoadOn 5) 0x08000700 0 = some (.mem .spad 0x700) ∧
    ((run (.camovOperation 0) wLoadOn).core 0).cac = wCac ∧
    wStoreOn.arrayRunning 0 false = some (0, 5, wEntry wStoreOn 5) ∧ (wEntry wStoreOn 5).fn.getLsbD 3 ∧
    (wEntry (run (.camovOperation 0) wStoreOn) 5).state = .moved := by decide +kernel
/-- A step in progress, whose sweep found a word that cannot be corrected or not, and one whose input is poisoned. -/
def wStepping (bad : Bool) : State := wTrainOn.updCore 0 fun c => { c with stepping := some ⟨wCellWrites, bad⟩ }
def wTrainFault : State := { wTrainOn with mem := wTrainOn.mem.mark .spad 0x400 }
def isFault (t : Train) (c : Nat) : Bool := match t with | .cells _ => false | .fault x => x == c
theorem witness_ArrayEntries_steps :
    let e := wEntry wTrainOn 5
    let f := wEntry wTrainFault 5
    (wStepping false).arrayRunning 0 false = some (0, 5, e) ∧ ((wStepping false).core 0).stepping = some ⟨wCellWrites, false⟩ ∧
    ((run (.trainingStep 0) (wStepping false)).core 0).stepCount = 1 ∧
    (wStepping true).arrayRunning 0 false = some (0, 5, e) ∧ (wEntry (run (.trainingStep 0) (wStepping true)) 5).cause = 16 ∧
    wTrainFault.arrayRunning 0 false = some (0, 5, f) ∧ (wTrainFault.core 0).stepping = none ∧
    isFault (wTrainFault.trainSample 0 f) 10 ∧ (wEntry (run (.trainingStep 0) wTrainFault) 5).cause = 10 ∧
    ((run (.trainingStep 0) wTrainFault).core 0).stepCount = 0 := by decide +kernel
/-- A live inference beside a training entry that runs. -/
def wBoth : State := after (execClauseEntryStart 0 (run (.cainfLive 3 1) wTrainOn))
theorem witness_ArrayEntries_live :
    (wBoth.arrayRunning 0 true).map (fun x => (x.1, x.2.1, x.2.2.live)) = some (0, 5, true) ∧ (wBoth.stepNow 0).isSome ∧
    ((run (.inferenceSample 0 2) wBoth).core 0).stepping = wBoth.stepNow 0 ∧
    ((run (.inferenceSample 0 1) wBoth).core 0).stepping = none ∧ wBoth.arrayBusy 0 = false ∧
    (run (.inferenceSample 0 2) wBoth).arrayBusy 0 ∧ (wStepping false).arrayBusy 0 ∧
    run (.clauseGranuleAccess 0) (wStepping false) = wStepping false := by decide +kernel
/-- A CAMOV under way over an image at scratchpad byte 700H: the table and the cells in, all three parts out. -/
def wImage (i : Instr) (poison : Bool) (prog : Nat) : State :=
  let s := (run i (wArrayBase wCac)).updEntry 0 5 1 fun e => { e with state := .running, prog := prog }
  { s with mem := if poison then s.mem.mark .spad 0x740 else (s.mem.storeNat .spad 0x780 8 0x77).storeNat .cells 0 8 0x55 }
theorem witness_ArrayEntries_imageParts :
    let t := wImage (.camovLoad 3 4 2) false 0
    let p := wImage (.camovLoad 3 4 2) true 0
    let c := wImage (.camovLoad 3 4 4) false 0
    let o (n : Nat) := wImage (.camovStore 3 4 7) false n
    t.arrayRunning 0 false = some (0, 5, wEntry t 5) ∧ t.entry 0 5 1 = some (wEntry t 5) ∧
    t.entryPlace 0 (wEntry t 5) 0x08000700 0 = some (.mem .spad 0x700) ∧ (wEntry t 5).fn.getLsbD 1 ∧
    t.spotsPoisoned (.mem .spad 0x740) 64 = false ∧ tableValid (t.spotBytes (.mem .spad 0x740) 64) ∧
    completes (.camovOperation 0) t ∧ p.spotsPoisoned (.mem .spad 0x740) 64 ∧
    (wEntry (run (.camovOperation 0) p) 5).cause = 10 ∧ (wEntry c 5).fn.getLsbD 0 = false ∧ (wEntry c 5).fn.getLsbD 1 = false ∧
    (imageGranules (wEntry c 5).fn)[0]? = some 128 ∧ (run (.camovOperation 0) c).mem.nat .cells 0 8 = 0x77 ∧
    ((imageGranules (wEntry (o 0) 5).fn)[0]?, (imageGranules (wEntry (o 0) 5).fn)[1]?, (imageGranules (wEntry (o 0) 5).fn)[2]?) =
      (some 0, some 64, some 128) ∧ (run (.camovOperation 0) (o 0)).mem.nat .spad 0x700 8 = wCac.toNat ∧
    (wEntry (run (.camovOperation 0) (o 1)) 5).prog = 2 ∧ (run (.camovOperation 0) (o 2)).mem.nat .spad 0x780 8 = 0x55 := by
  decide +kernel
theorem witness_ArrayEntries_errors :
    wGranules.stepNow 0 = none ∧ (wStepping false).stepNow 0 = some ⟨wCellWrites, false⟩ ∧
    ((run (.cellSoftError 0 0 false 1) (wStepping false)).core 0).stepping.isSome ∧
    (run (.cellSoftError 0 0 true 1) wGranules).boot.errors = wGranules.boot.errors + 1 := by decide +kernel
theorem witness_ArrayEntries_end :
    (wArrayMoved.arrayEntries 0).find? (fun x => x.2.state == .moved) = some (5, wEntry wArrayMoved 5) ∧
    (wArrayMoved.queue 0 5).ents = [wEntry wArrayMoved 5] ∧ (wEntry wArrayMoved 5).rel = none ∧
    ((run (.clauseEntryComplete 0) wArrayMoved).queue 0 5).seq = 1 ∧
    (wArrayFault.arrayEntries 0).find? (fun x => x.2.state == .faulted && x.2.node.isNone) =
      some (5, wEntry wArrayFault 5) ∧ (wArrayFault.queue 0 5).ents = [wEntry wArrayFault 5] ∧
    (run (.clauseEntryRetire 0) wArrayFault).crew.asyncf = 0x20 := by decide +kernel
theorem witness_ArrayEntries_cells :
    wGranules.granuleOffers 0 = [wGranule] ∧ wGranules.arrayBusy 0 = false ∧ (wGranule.bytes.map Prod.fst).Nodup ∧
    (run (.clauseGranuleAccess 0) wGranules).mem.byte .cells 64 = 9 ∧ wGranules.arrayRunning 0 false = none ∧
    (run (.cellSoftError 0 16383 false 1) wGranules).mem.byte .cells 131064 = 1 := by decide +kernel

/-! ## GraphEvents -/

def wNode (id : Nat) (st : NodeState) : Node := { recordNode [] id none [] with kind := 1, state := st, gsSlot := id }
/-- A graph of handle 3, partition 0, with these nodes. -/
def wNodes (g : Nat) (l : List Node) : State :=
  { State.reset.placeCrew.updLaunch 1 (words 8) with
    graphs := [(graphKey 0 3, { Graph.free with gstate := g, nodes := l, launch := 1, job := 1, ncnt := [1, 0, 0, 0], nbase := [0x4000, 0, 0, 0] })] }
def wLoading : State :=
  hbmPut 0x4000 ([1] ++ List.replicate 39 0 ++ List.replicate 20 0xFF ++ List.replicate 4 0) (paged (wNodes 1 []))
def wLoaded : State := (wLoading.gsNodes 3 0 [(0, 0)]).1
theorem witness_GraphEvents_load :
    wLoading.gsRuns 0 ∧ (wLoading.graph 3).gstate = 1 ∧
    ((List.range 4).flatMap fun d => (List.range ((wLoading.graph 3).ncnt.getD d 0)).map fun i => (d, i)) = [(0, 0)] ∧
    (wLoading.job (wLoading.graph 3).job).troot = 0 ∧
    (wLoading.gsNodes 3 0 [(0, 0)]).2 = ([{ wNode 0 .wait with record := some 0x4000 }], none) ∧
    wLoaded.graph 3 = wLoading.graph 3 ∧ badSuccessor [{ wNode 0 .wait with record := some 0x4000 }] = none ∧
    ((run (.graphLoadComplete 0 3) wLoading).graph 3).gstate = 2 ∧
    ((wNodes 1 []).gsNodes 3 0 [(0, 0)]).2 = ([], some (1, 0, 0x4000)) ∧
    ((run (.graphLoadComplete 0 3) (wNodes 1 [])).graph 3).gstate = 6 := by decide +kernel
def wTokens (arrived : DWord) : State :=
  (wNodes 2 [{ wNode 0 .wait with npred := 2, remaining := 1, arrived := arrived }]).updDie 0 fun d => { d with tokens := [⟨0, 3, 0, 1⟩] }
theorem witness_GraphEvents_token :
    ((wTokens 1).die 0).tokens = [⟨0, 3, 0, 1⟩] ∧ (wTokens 1).node 3 0 = some { wNode 0 .wait with npred := 2, remaining := 1, arrived := 1 } ∧
    (1#64).getLsbD 1 = false ∧ (2#64).getLsbD 1 ∧ ((run (.token 0) (wTokens 2)).graph 3).dupTok ∧
    (((run (.token 0) (wTokens 1)).node 3 0).map Node.state) = some .ready := by decide +kernel
def wOver : State := wNodes 2 [{ wNode 0 .running with succs := [(1, 0)] }, wNode 1 .wait]
def wSpawned : State :=
  (wNodes 2 [{ wNode (2 ^ 23) .running with parent := some (0, 1, 0) }]).updCrew fun c => { c with jcnt := 1 }
theorem witness_GraphEvents_done :
    wOver.node 3 0 = some { wNode 0 .running with succs := [(1, 0)] } ∧
    wOver.nodeOver 3 { wNode 0 .running with succs := [(1, 0)] } ∧ idSpawned 0 = false ∧
    ((run (.nodeDone 0 3 0) wOver).die 0).tokens = [⟨0, 3, 1, 0⟩] ∧
    wSpawned.node 3 (2 ^ 23) = some { wNode (2 ^ 23) .running with parent := some (0, 1, 0) } ∧ idSpawned (2 ^ 23) ∧
    wSpawned.nodeOver 3 { wNode (2 ^ 23) .running with parent := some (0, 1, 0) } ∧ (wSpawned.crewAt 0).uid = 1 ∧
    (wSpawned.crewAt 0).live ∧ (run (.nodeDone 0 3 (2 ^ 23)) wSpawned).crew.jcnt = 0 := by decide +kernel
def wReady : State := wNodes 2 [wNode 0 .ready, { wNode 1 .ready with since := 1 }]
def wNoBlocks : State := wReady.updLaunch 1 fun l => { l with spec := { l.spec with blocks := 0 } }
theorem witness_GraphEvents_bank :
    wReady.node 3 0 = some (wNode 0 .ready) ∧ wReady.bankWaiters 0 0 = [(3, 0, 0), (3, 1, 1)] ∧
    wReady.bankCount 0 0 < wReady.bankCap 0 0 true ∧ wReady.launchCheck 3 (wNode 0 .ready) = (wReady, none) ∧
    wReady.nodeBlocks (wReady.graph 3) (wNode 0 .ready) = (0, 1) ∧
    wNoBlocks.nodeBlocks (wNoBlocks.graph 3) (wNode 0 .ready) = (0, 0) ∧
    ((run (.nodeEnterBank 0 3 0) wReady).die 0).bank.length = 1 ∧
    ((run (.nodeEnterBank 0 3 0) wNoBlocks).node 3 0).map Node.state = some .running := by decide +kernel
def wBanked : State := after (execNodeEnterBank 0 3 0 wReady)
def wAged : State := { wBanked.updDie 0 fun d => { d with bank := d.bank.map fun b => { b with cls := 2 } } with
  heat := { wBanked.heat with time := 4096 } }
theorem witness_GraphEvents_prefetch :
    (wBanked.core 0).prefetch.length < 2 ∧ (wBanked.chooseTask 0).isSome ∧
    ((run (.prefetchFill 0) wBanked).core 0).prefetch.length = 1 ∧
    ((((wAged.die 0).bank.filter fun x => x.part == 0)[0]?).map fun b => (b.cls, b.waited)) = some (2, 0) ∧
    0 + 4096 ≤ wAged.heat.time.toNat ∧ ((run (.tquAging 0 0 0) wAged).die 0).bank.map Task.cls = [1] := by decide +kernel
def wCopyNode : State :=
  let s := wNodes 2 [{ wNode 0 .ready with kind := 2, entry := 0x08000100 }]
  { s with mem := s.mem.store .spad 0x100 (1 :: List.replicate 63 0) }
theorem witness_GraphEvents_issue :
    let n := { wNode 0 .ready with kind := 2, entry := 0x08000100 }
    wCopyNode.node 3 0 = some n ∧ n.state = .ready ∧ 2 ≤ n.kind ∧ nodeQueue 0 n.id n.kind n.tileX = (0, 7) ∧
    wCopyNode.queueWaiters 0 7 = [(3, 0, 0)] ∧ wCopyNode.waiting 0 7 < graphCap 7 ∧ (wCopyNode.nodeIssue 3 n).isSome ∧
    ((run (.engineNodeIssue 0 3 0) wCopyNode).queue 0 7).issue = 1 := by decide +kernel
def wEnding : State := wNodes 2 [wNode 0 .done, wNode 1 .faulted]
theorem witness_GraphEvents_end :
    (wEnding.graph 3).gstate = 2 ∧ (wEnding.graph 3).cones = [] ∧
    (∀ n ∈ (wEnding.graph 3).nodes, idSpawned n.id = false ∧ n.state ∈ [NodeState.done, .faulted, .cancelled]) ∧
    ((run (.graphEnd 0 3) wEnding).graph 3).gstate = 4 := by decide +kernel

/-! ## ConeEvents -/

def wFaulting : State := wNodes 2 [{ wNode 0 .running with faults := [(3, 7)], succs := [(1, 0)] }, wNode 1 .wait]
/-- A pending cone of head 0 with members 1 to 3. -/
def wCone (l : List Node) (visited : Nat) (quiet : Bool) : State :=
  (wNodes 2 ({ wNode 0 .faulted with succs := [(1, 0)], budget := 1 } :: l)).updGraph 3 fun g =>
    { g with cones := [⟨0, 0, [(1, 0), (2, 0), (3, 0)], visited, [], quiet, none, 3⟩] }
def wMembers : List Node := [wNode 1 .wait, { wNode 2 .running with crews := [9] }, wNode 3 .done]
def wStopping : State := (wCone [] 3 false).updCrew fun c => { c with handle := 3, node := 0 }
def wRetry : State := wCone [wNode 1 .cancelled] 3 true
def wSpent : State := wRetry.updGraph 3 fun g => { g with nodes := g.nodes.map fun n => { n with budget := 0 } }
def wHeld : State := wNodes 2 [wNode 0 .retryWait]
theorem witness_ConeEvents_fault :
    wFaulting.gsRuns 0 ∧ ((wFaulting.graph 3).nodes.map Node.id).Nodup ∧
    wFaulting.node 3 0 = some { wNode 0 .running with faults := [(3, 7)], succs := [(1, 0)] } ∧
    ((run (.nodeFault 0 3 0 3 7) wFaulting).graph 3).faultSeen := by decide +kernel
theorem witness_ConeEvents_lateFault :
    let n := { wNode 0 .done with faults := [(3, 7)] }
    let s := wNodes 2 [n]
    s.node 3 0 = some n ∧ n.state ≠ .ready ∧ n.state ≠ .running ∧ n.state ≠ .cancelling ∧
    ((run (.nodeFault 0 3 0 3 7) s).node 3 0).map Node.faults = some [] := by decide +kernel
theorem witness_ConeEvents_visit :
    (∀ v < 3, let s := wCone wMembers v false
      s.gsRuns 0 ∧ (s.graph 3).cones.find? (fun c => c.head == 0 && c.resolved.isNone) = some ⟨0, 0, [(1, 0), (2, 0), (3, 0)], v, [], false, none, 3⟩ ∧
      ([(1, 0), (2, 0), (3, 0)] : List (Nat × Nat))[v]? = some (v + 1, 0) ∧ s.node 3 (v + 1) = wMembers[v]? ∧ idSpawned (v + 1) = false) ∧
    (((run (.coneVisit 0 3 0) (wCone wMembers 0 false)).node 3 1).map Node.state) = some .cancelled ∧
    (((run (.coneVisit 0 3 0) (wCone wMembers 1 false)).node 3 2).map Node.state) = some .cancelling ∧
    (((run (.coneVisit 0 3 0) (wCone wMembers 2 false)).node 3 3).map Node.state) = some .done := by decide +kernel
theorem witness_ConeEvents_resolve :
    wStopping.toStop (wStopping.crewAt 0) 0 ∧ (wStopping.crewAt 0).caught = false ∧
    (run (.crewStop 0 0) wStopping).crew.status = 0x05000000 ∧
    ((wRetry.coneTick 3).graph 3).cones = [⟨0, 0, [(1, 0), (2, 0), (3, 0)], 3, [], true, none, 3⟩] ∧
    (wRetry.coneTick 3).node 3 0 = some { wNode 0 .faulted with succs := [(1, 0)], budget := 1 } ∧
    ((run (.coneResolve 0 3) wRetry).node 3 0).map Node.attempt = some 1 ∧
    (wSpent.coneTick 3).node 3 0 = some { wNode 0 .faulted with succs := [(1, 0)] } ∧
    ((run (.coneResolve 0 3) wSpent).node 3 0).map Node.state = some .faulted ∧
    wHeld.node 3 0 = some (wNode 0 .retryWait) ∧ (wHeld.graph 3).inPending (wNode 0 .retryWait).key = false ∧
    ((run (.headRelease 0 3 0) wHeld).node 3 0).map Node.state = some .ready := by decide +kernel

end Sys2Proof.Tests
end

