-- ==== Sys2Proof/Tests/WitnessFabric.lean ====
section
/-! SUPPORT. Witnesses of the statements about links, flits, requests and the queue of the fabric unit. -/

namespace Sys2Proof.Tests
open Sys2Proof Sys2Proof.Machine
set_option Elab.async false

/-! ## SlotEvents -/

/-- Fibre 0 leads to peer 1 in matching 0, fibre 1 to peer 2 in matching 1. -/
def wRotor (slot : Nat) (light : Bool) (time : DWord) : State :=
  { State.reset with
    fabric := { State.reset.fabric with rotor := [(0, 2), (9, 3)], slot := slot, light := light }
    heat := { State.reset.heat with time := time } }
def setLink (k : Nat) (x : Link) (s : State) : State :=
  { s with fabric := { s.fabric with links := mapSet Link.dark s.fabric.links k x } }
def setGroup (g : Nat) (x : Group) (s : State) : State :=
  { s with fabric := { s.fabric with groups := mapSet Group.reset s.fabric.groups g x } }
/-- A packet of peer 2 to this package in heat 5 through window 1. -/
def wPacket (kind : BitVec 8) (len : Nat) (data : List Byte) : Packet :=
  ⟨kind, 5, 2, 0, 9, .ofNat 64 (2 ^ 44 + 64), 0, 0, len, 0, data, data.map fun _ => false, false⟩
def wFlit : Flit := packetFlit { wPacket kReadRsp 4 [1, 2, 3, 4] with dst := 1, src := 0 } 1 0
def wUnacked : State :=
  setLink 0 { Link.dark with heard := true, isOver := true, unacked := [{ wFlit with lseq := 0 }], queue := [{ wFlit with fseq := 1 }] }
    (wRotor 0 true 120)
theorem witness_SlotEvents_slots :
    (wRotor 0 false 1600).fabric.light = false ∧ (wRotor 0 false 1600).fabric.slot < 1600 / 1600 ∧
    (run .rotorSlotStart (wRotor 0 false 1600)).fabric.slot = 1 ∧
    (wRotor 0 false 100).fabric.slot = 100 / 1600 ∧ ((wRotor 0 false 100).fabric.rotor.map Prod.fst).Nodup ∧
    (wRotor 0 false 100).litLinks = [0] ∧ (run .lightStart (wRotor 0 false 100)).fabric.light ∧
    (wRotor 0 true 120).farEnd 0 = some 1 ∧ ((wRotor 0 true 120).link 0).isOver = false ∧
    ((run (.setupEnd 0) (wRotor 0 true 120)).link 0).isOver ∧
    (wRotor 0 true 1600).fabric.slot < 1600 / 1600 ∧ (run .lightEnd (wRotor 0 true 1600)).fabric.light = false := by
  decide +kernel
theorem witness_SlotEvents_control :
    (8 : Nat) ∈ [1, 2, 4, 8] ∧ ((run (.linkControl 0 8 [64, 32, 64, 64, 4] 0) (wRotor 0 true 110)).link 0).heard ∧
    (wUnacked.link 0).isOver ∧ (wUnacked.link 0).heard ∧ ackCovers 0 0 ∧
    ((run (.linkControl 0 8 [64, 32, 64, 64, 4] 0) wUnacked).link 0).unacked = [] := by decide +kernel
theorem witness_SlotEvents_acks :
    let gapped : State := setLink 0 { Link.dark with
      heard := true, isOver := true, unacked := [{ wFlit with lseq := 3 }], lastAck := 2, ackMark := 5 } (wRotor 0 true 120)
    ackCovers 2 3 = false ∧ (gapped.link 0).lastAck = 2 ∧ (gapped.link 0).ackMark = 5 ∧
    ((gapped.takeAck 0 2 true).link 0).queue = [{ wFlit with lseq := 3 }] ∧ ((gapped.takeAck 0 2 true).link 0).lseq = 3 ∧
    ((gapped.takeAck 0 1 true).link 0).queue = [] ∧ ((wUnacked.takeAck 0 0 true).link 0).unacked = [] ∧
    ((wRotor 0 true 120).link 0).heard = false ∧
    run (.linkControl 0 8 [64, 32, 64, 64, 4] 0) (wRotor 0 true 120) = wRotor 0 true 120 := by decide +kernel
theorem witness_SlotEvents_width :
    let narrow (s st : Nat) (h : List Nat) : Group := { Group.reset with lit := 4, tgt := 4, fmin := 2, state := s, stage := st, holders := h }
    let s1 := setGroup 0 (narrow 0 0 [0]) (wRotor 0 true 1590)
    let s2 := setGroup 0 (narrow 1 0 []) (wRotor 0 true 1590)
    let s3 := setGroup 0 (narrow 1 2 []) (wRotor 0 true 1590)
    let s4 := setGroup 0 { narrow 0 0 [] with fhold := 1590 } (wRotor 0 true 1590)
    let s5 := setGroup 0 (narrow 2 1 []) (wRotor 0 true 1590)
    let s6 := setGroup 0 (narrow 2 2 []) (wRotor 0 true 1590)
    let s7 := setGroup 0 { narrow 1 2 [] with since := 1550 } (wRotor 0 true 1590)
    let s8 := setGroup 0 (narrow 3 0 []) (wRotor 0 true 1590)
    (s1.fibreGroup 0).lit < 8 ∧ (s1.fibreGroup 0).state = 0 ∧ (s1.fibreGroup 0).holders ≠ [] ∧
    (s2.fibreGroup 0).stage = 0 ∧ (s2.fibreGroup 0).since.toNat + 1500 ≤ 1590 ∧ s2.fabric.light ∧ s2.fabric.slot = 1590 / 1600 ∧
    (s5.fibreGroup 0).stage = 1 ∧
    ((run (.widthHandshake 0) s2).fibreGroup 0).stage = 2 ∧ ((run (.widthHandshake 0) s5).fibreGroup 0).stage = 2 ∧
    (s3.fibreGroup 0).since.toNat + 100 ≤ 1590 ∧ (s3.fibreGroup 0).since.toNat + 100 ≤ 1600 * (0 / 1600 + 1) ∧
    s3.fabric.links = [] ∧ ((run (.squareComplete 0) s3).fibreGroup 0).lit = 8 ∧
    ¬((s7.fibreGroup 0).since.toNat + 100 ≤ 1600 * ((s7.fibreGroup 0).since.toNat / 1600 + 1)) ∧
    ((run (.squareComplete 0) s7).fibreGroup 0).stage = 1 ∧ (s8.fibreGroup 0).state = 3 ∧ s8.depth 0 < (s8.fibreGroup 0).wthr ∧
    ((run (.squareStart 0) s8).fibreGroup 0).state = 0 ∧
    (s4.fibreGroup 0).fmin < (s4.fibreGroup 0).lit ∧ s4.depth 0 = 0 ∧
    (s4.fibreGroup 0).idleAt.toNat + (s4.fibreGroup 0).fhold ≤ 1590 ∧ ((run (.featherStart 0) s4).fibreGroup 0).state = 2 ∧
    ((run (.featherPark 0) s6).fibreGroup 0).lit = 2 := by decide +kernel

/-! ## FlitEvents -/

def wEgress (x : Flit) : State := { wRotor 0 true 120 with fabric := { (wRotor 0 true 120).fabric with egress := [x] } }
/-- Peer 2 is reached over fibre 1 in matching 1, or over peer 1 in a matching that comes sooner. -/
def wRelay : State :=
  let s := setLink 0 { Link.dark with heard := true, isOver := true, width := 8, space := [(3, 8)], shown := [(3, 8)] } (wEgress { wFlit with dst := 2 })
  { s with fabric := { s.fabric with rotor := [(0, 2), (12, 3)], domain := [(4096 * 1 + 2, 2)], rthr := 0 } }
def wLinkReady (x : Flit) : State :=
  setLink 0 { Link.dark with heard := true, isOver := true, width := 8, space := [(2, 1)], queue := [x] } (wRotor 0 true 200)
def wStarving : State :=
  setLink 0 { Link.dark with heard := true, isOver := true, width := 1, space := [(2, 1)], queue := [wFlit], readyAt := [(2, 150)] } (wRotor 0 true 1200)
def wIdle : State := setLink 0 { Link.dark with heard := true, isOver := true, width := 8 } (wRotor 0 true 1200)
def sealed (x : Flit) : Flit := { x with crc := crc32c (flitBytes x) }
/-- A flit to this package that the far end of fibre 0 sends as the first of its link. -/
def wInFlit (kind : BitVec 8) (dst : Nat) : Flit :=
  sealed { packetFlit { wPacket kind 4 [1, 2, 3, 4] with dst := dst } 1 0 with lseq := 0, ack := 0xFFFFFFFF }
def wListening : State := setLink 0 { Link.dark with heard := true, isOver := true, lastIn := 0xFFFFFFFF } (wRotor 0 true 200)
/-- What waits in the ingress buffer of fibre 0 moves on. -/
def wWaitingFlits (l : List Flit) : State :=
  ({ wListening with fabric := { wListening.fabric with ingress := l.map fun x => (0, x) } } : State).moveOn 0
theorem witness_FlitEvents_route :
    (wEgress { wFlit with dst := 3 }).direct 3 = none ∧ (run .flitEgress (wEgress { wFlit with dst := 3 })).fabric.egress = [] ∧
    ((wEgress wFlit).direct 1).isSome ∧ wFlit.ctl.getLsbD 4 ∧ wFlit.ctl.getLsbD 3 = false ∧
    kindVc { wFlit with kind := 0x20 }.kind = 4 ∧ ((run .flitEgress (wEgress { wFlit with kind := 0x20 })).link 0).queue.length = 1 ∧
    wRelay.direct 2 = some (lightAt 4, 12) ∧ wRelay.relays 2 (lightAt 4) = [(lightAt 1, 1)] ∧ lightAt 1 < lightAt 4 ∧
    wRelay.linkTo 1 = some 0 ∧ 120 + wRelay.fabric.rthr < lightAt 4 ∧ wRelay.relayBarred 5 2 = false ∧
    ((run .flitEgress wRelay).link 0).queue.map (fun x => x.ctl.getLsbD 3) = [true] := by decide +kernel
theorem witness_FlitEvents_send :
    (wLinkReady wFlit).fabric.light ∧ ((wLinkReady wFlit).link 0).heard ∧ ((wLinkReady wFlit).link 0).isOver ∧ (wLinkReady wFlit).linkWidth 0 = 8 ∧
    7 * 200 + 80 / 8 ≤ 7 * (1600 * (0 + 1)) ∧ (wLinkReady wFlit).nextFlit 0 = some wFlit ∧
    ((run (.flitSend 0) (wLinkReady wFlit)).link 0).lseq = 1 ∧
    wStarving.linkWidth 0 = 1 ∧ (wStarving.readyFlit 0 2).isSome ∧ mapFind (wStarving.link 0).readyAt 2 = some 150 ∧
    7 * 150 + 64 * 80 ≤ 7 * 1200 ∧
    ((run (.vcStarvation 0 2) wStarving).link 0).starved = some 2 ∧
    wIdle.nextFlit 0 = none ∧ ((wIdle.link 0).beats.head?) = none ∧ 7 * 120 + 640 ≤ 7 * 1200 ∧
    ((run (.idleLinkControl 0) wIdle).link 0).beats.length = 1 := by decide +kernel
theorem witness_FlitEvents_receive :
    wListening.farEnd 0 ≠ none ∧ flitSound { wInFlit kReadRsp 0 with crc := 0 } = false ∧
    (∀ x ∈ [wInFlit kReadRsp 0, wInFlit kReadRsp 7, wInFlit 0x20 0], flitSound x ∧ x.ack = 0xFFFFFFFF ∧
      x.lseq.setWidth 32 = (wListening.link 0).lastIn + 1 ∧ (acceptSeq [] x.fseq).isSome ∧ kindReserved x.kind = false) ∧
    flitSound (sealed { wInFlit kReadRsp 7 with ctl := (wInFlit kReadRsp 7).ctl ||| 8 }) ∧
    (wInFlit kReadRsp 0).ctl.getLsbD 4 ∧ (wInFlit kReadRsp 0).ctl.getLsbD 5 ∧
    acceptSeq [0] (wInFlit kReadRsp 0).fseq = none ∧
    wListening.fabric.ingress = [] ∧ wListening.hasRoom 0 (wInFlit kReadRsp 0) ∧
    completes (.flitReceive 0 (wInFlit kReadRsp 0)) wListening ∧ (wWaitingFlits [wInFlit kReadRsp 0]).fabric.inbox.length = 1 ∧
    completes (.flitReceive 0 (sealed { wInFlit kReadRsp 7 with ctl := (wInFlit kReadRsp 7).ctl ||| 8 })) wListening ∧
    (wWaitingFlits [sealed { wInFlit kReadRsp 7 with ctl := (wInFlit kReadRsp 7).ctl ||| 8 }]).fabric.relay.length = 1 ∧
    (run (.flitReceive 0 (wInFlit 0x20 0)) wListening).fabric.ptp.length = 1 := by decide +kernel
/-- One flit that fits before the light ends, one that is out of order or has no room. -/
def wFullIngress : State := { wListening with fabric := { wListening.fabric with ingress := List.replicate 64 (0, wInFlit kReadRsp 0) } }
theorem witness_FlitEvents_discards :
    let x := wInFlit kReadRsp 0
    let late := sealed { x with lseq := 3 }
    flitSound late ∧ late.lseq.setWidth 32 ≠ (wListening.link 0).lastIn + 1 ∧
    ((run (.flitReceive 0 late) wListening).link 0).lastIn = 0xFFFFFFFF ∧ wFullIngress.hasRoom 0 x = false ∧
    ((run (.flitReceive 0 x) wFullIngress).link 0).lastIn = 0xFFFFFFFF ∧
    (wListening.takeAck 0 0 true).fabric.egress = [] ∧ (wRotor 0 false 200).fabric.light = false ∧
    run (.flitReceive 0 x) (wRotor 0 false 200) = wRotor 0 false 200 := by decide +kernel
/-- Flits in egress whose route is kept, of a relayed packet, and one in the relay buffer. -/
theorem witness_FlitEvents_more :
    let later := { wFlit with ctl := wFlit.ctl &&& 0xEF }
    let kept (via : Nat) : State := { wEgress later with fabric := { (wEgress later).fabric with routes := [⟨streamOf later, later.fseq, via⟩] } }
    let onward := { wFlit with ctl := wFlit.ctl ||| 8 }
    let relayed : State := { wRotor 0 true 120 with fabric := { (wRotor 0 true 120).fabric with relay := [onward] } }
    later.ctl.getLsbD 4 = false ∧ later.ctl.getLsbD 3 = false ∧
    ((kept 0).fabric.routes.filter fun r => r.holds later) = [⟨streamOf later, later.fseq, 0⟩] ∧
    ((run .flitEgress (kept 0)).link 0).queue = [later] ∧
    ((kept 2).fabric.routes.filter fun r => r.holds later) = [⟨streamOf later, later.fseq, 2⟩] ∧ (kept 2).linkTo 1 = some 0 ∧
    ((run .flitEgress (kept 2)).link 0).queue.map (fun x => x.ctl.getLsbD 3) = [true] ∧
    onward.ctl.getLsbD 3 ∧ ((run .flitEgress (wEgress onward)).link 0).queue = [onward] ∧ relayed.fabric.egress = [] ∧
    (relayed.fabric.relay.find? fun y => y.heat == 0 || relayed.heatRuns y.heat || !relayed.heatStands y.heat) = some onward ∧
    (relayed.direct 1).isSome ∧ (run .flitEgress relayed).fabric.relay = [] := by decide +kernel

/-! ## AnswerEvents -/

/-- Heat 5 runs on partition 0, at time t. -/
def wHeat (t : DWord) (s : State) : State :=
  { s with heat := { s.heat with time := t, running := [⟨0, 5, 1, 0, 1000000, 1, [0], false⟩] } }
/-- A request of crew 0 or of entry 1 of xq of core 0, in flight since time 0. -/
def wReq (origin : Nat) (waiting : Bool) : Req :=
  ⟨9, { wPacket kReadReq 4 [] with src := 0, dst := 2 }, 1, some 0, waiting, false, origin, 0, 6, 1, 3⟩
def wAsked (r : Req) (t : DWord) : State :=
  let s := wHeat t (base (words 8) fun c => { c with reqs := [⟨0, 0, 9, 0, false, none, false⟩] })
  { s with fabric := { s.fabric with reqs := [r] } }
/-- The same with an XPUT entry that waits for the request. -/
def wAskedXq : State :=
  let s := wAsked (wReq 3 false) 100
  (s.issueTo 0 6 32 { s.newEntry 0x38 0 0 with state := .running, pending := [9] }).updCrew fun c => c
theorem witness_AnswerEvents_responses :
    (∀ k ∈ [kReadRsp, kWriteAck, kAtomRsp, kPutAck, kCollAck, kPoisoned],
      let p := wPacket k 6 [1, 2, 3, 4]
      p.dst = (wAskedXq).fabric.peer ∧ (wAskedXq).isParked p.reqid = false) ∧
    State.reset.findReq 9 = none ∧ (wAsked (wReq 0 false) 100).findReq 9 = some (wReq 0 false) ∧
    wAskedXq.findReq 9 = some (wReq 3 false) ∧ (wAskedXq.entry 0 6 1).isSome ∧
    (wAskedXq.heat.running.find? (fun r => r.heatno.setWidth 16 == (5 : BitVec 16))).isSome ∧
    (run (.readResponse (wPacket kReadRsp 4 [1, 2, 3, 4])) (wAsked (wReq 0 false) 100)).fabric.reqs = [] ∧
    (run (.writeAck (wPacket kWriteAck 4 [])) (wAsked (wReq 0 false) 100)).fabric.reqs = [] ∧
    (run (.atomicResponse (wPacket kAtomRsp 4 [])) (wAsked (wReq 0 false) 100)).fabric.reqs = [] ∧
    ((run (.xputAck (wPacket kPutAck 0 [])) wAskedXq).entry 0 6 1).map (fun e => (e.pending, e.resp.length)) = some ([], 1) ∧
    ((run (.collectiveAck (wPacket kCollAck 0 [])) wAskedXq).entry 0 6 1).map (fun e => (e.pending, e.resp.length)) = some ([], 1) ∧
    (run (.poisonedResponse (wPacket kPoisoned 6 [])) wAskedXq).heat.sent.length = 1 := by decide +kernel
theorem witness_AnswerEvents_more :
    (wReq 4 false).origin = 4 ∧ (wAsked (wReq 4 false) 100).findReq 9 = some (wReq 4 false) ∧
    (run (.readResponse (wPacket kReadRsp 4 [1, 2, 3, 4])) (wAsked (wReq 4 false) 100)).fabric.reqs = [] ∧
    (run (.poisonedResponse (wPacket kPoisoned 4 [])) (wAsked (wReq 0 false) 100)).fabric.reqs = [] ∧
    (run (.poisonedResponse (wPacket kPoisoned 4 [])) (wAsked (wReq 0 false) 100)).heat.sent = [] ∧
    (run (.poisonedResponse (wPacket kPoisoned 6 [])) (wAsked (wReq 0 false) 100)).fabric.reqs = [] ∧
    (run (.poisonedResponse (wPacket kPoisoned 5 [])) (wAsked (wReq 0 false) 100)).heat.sent.length = 1 := by decide +kernel
theorem witness_AnswerEvents_timers :
    ((run (.busy (wPacket kBusy 0 [])) (wAsked (wReq 0 false) 100)).fabric.reqs.map Req.busy) = [2] ∧
    ((run (.progressReport { wPacket kReport 0 [] with held := true }) (wAsked (wReq 0 false) 100)).fabric.reqs.map Req.timer) = [none] ∧
    (wReq 0 true).timer = some 0 ∧ (wReq 0 true).waitingRetry ∧
    (0 : Nat) + (1000 * 2 ^ min (wReq 0 true).busy 7 + 64 * ((wAsked (wReq 0 true) 2000).fabric.peer % 16)) ≤ 2000 ∧
    (run (.busyRetry 9) (wAsked (wReq 0 true) 2000)).fabric.egress.length = 1 ∧
    (wReq 0 false).probed = false ∧ (0 : Nat) + 200000 ≤ 200000 ∧
    (run (.requestProbeTimer 9) (wAsked (wReq 0 false) 200000)).fabric.egress.length = 1 ∧
    (wReq 0 false).origin = 0 ∧ (wReq 0 false).packet.reqid = 9 ∧
    (run (.requestTimeout 9) (wAsked (wReq 0 false) 400000)).fabric.reqs = [] := by decide +kernel

/-! ## TargetEvents and TargetChecks -/

/-- Window 1 of WTID 0 on the scratchpad of die 0 from row 1 of partition 0, for heat 5. -/
def wWin : Window := ⟨4096, 0, 0x0F, 5, 0x10, 0⟩
def wServer (w : Window) (cache : List Cached) (held : List Packet) : State :=
  let s := wHeat 100 (base (words 8) id)
  { s with
    fabric := { s.fabric with windows := [(1, w)], cache := cache, held := held }
    mem := s.mem.store .spad 4160 [1, 2, 3, 4, 5, 6, 7, 8] }
def wServing : State := wServer wWin [] []
def wSpot : Spot := .mem .spad 4160
def wRead : Packet := wPacket kReadReq 4 []
def wWrite : Packet := wPacket kWriteReq 4 [9, 9, 9, 9]
def wAtom : Packet := { wPacket kAtomReq 4 [7, 0, 0, 0, 0, 0, 0, 0] with opw := 0x10 }
def wPut : Packet := wPacket kPutReq 4 [9, 9, 9, 9]
/-- XPUT data with a signal of the object 128 bytes into the window. -/
def wSignal : Packet := { wPacket kPutReq 4 ([128, 0, 0, 0, 0, 0, 0, 0] ++ [9, 9, 9, 9]) with opw := 1 }
def wColl : Packet := wPacket kCollReq 4 [9, 9, 9, 9]
def wForward (k : BitVec 8) : Packet := { wPacket kForward 4 [9, 9, 9, 9] with opw := (k.setWidth 32 <<< 18) ||| 0x10 }
/-- A heat 6 that stands on the sheet and has not begun. -/
def wStanding (s : State) : State :=
  { s with
    fabric := { s.fabric with windows := [(1, { wWin with heatf := 6 })] }
    heat := { s.heat with sheet := [⟨⟨5000, 5000, 6, 1, 0, 0, 0, 0, 0, 0, 0, 0, 0, 0, 0⟩, [0], [], false, false, false, false⟩] } }
theorem witness_TargetEvents_served :
    (∀ p ∈ [wRead, wWrite, wPut, wAtom], p.dst = wServing.fabric.peer ∧ wServing.isParked p.reqid = false ∧
      wServing.heat.time.toNat ≤ p.sendt.toNat + 399000 ∧ wServing.cached p.reqid = none) ∧
    ((wServing.served wRead).admission wRead (remoteOffset wRead.addr.toNat) 4 1 false).2 = .spot wSpot ∧
    ((wServing.served wWrite).admission wWrite (remoteOffset wWrite.addr.toNat) 4 2 false).2 = .spot wSpot ∧
    ((wServing.served wAtom).admission wAtom (remoteOffset wAtom.addr.toNat) 4 4 false).2 = .spot wSpot ∧
    (run (.readRequest wRead) wServing).fabric.egress.length = 1 ∧
    (run (.writeRequest wWrite) wServing).mem.nat .spad 4160 4 = 0x09090909 ∧
    (run (.atomicRequest wAtom) wServing).mem.nat .spad 4160 4 = 0x04030208 ∧
    putSignal wPut = false ∧ (run (.xputData wPut) wServing).mem.nat .spad 4160 4 = 0x09090909 ∧
    (run (.forwardedRequest (wForward kReadReq)) wServing).fabric.egress.length = 1 ∧
    (run (.forwardedRequest (wForward kWriteReq)) wServing).mem.nat .spad 4160 4 = 0x09090909 ∧
    (run (.forwardedRequest (wForward kAtomReq)) wServing).mem.nat .spad 4160 4 ≠ 0x04030201 := by decide +kernel
theorem witness_TargetEvents_turnedAway :
    ((wServer { wWin with perm := 0x0C } [] []).admission wRead 64 4 1 false).2 = .refuse 4 ∧
    (run (.readRequest wRead) (wServer { wWin with perm := 0x0C } [] [])).fabric.egress.map Flit.kind = [kPoisoned] ∧
    ((wServer ⟨3 * 2 ^ 40, 0, 0x8F, 5, 0x10, 0⟩ [] []).admission wRead 64 4 1 false).2 = .forward 3 ∧
    (run (.readRequest wRead) (wServer ⟨3 * 2 ^ 40, 0, 0x8F, 5, 0x10, 0⟩ [] [])).fabric.egress.map Flit.kind = [kForward] ∧
    ((wStanding wServing).admission { wRead with heat := 6 } 64 4 1 false).2 = .held ∧
    (run (.readRequest { wRead with heat := 6 }) (wStanding wServing)).fabric.held.length = 1 := by decide +kernel
def wCached : State := wServer wWin [⟨0, 9, { wPacket kAtomRsp 4 [1, 2, 3, 4] with src := 0, dst := 2 }, 0⟩] []
theorem witness_TargetEvents_once :
    (wCached.cached 9).isSome ∧ putSignal wSignal ∧
    (run (.atomicRequest wAtom) wCached).mem.nat .spad 4160 4 = 0x04030201 ∧
    (run (.xputData wSignal) wCached).mem.nat .spad 4160 4 = 0x04030201 ∧
    wServing.cached wSignal.reqid = none ∧ (wServing.cacheRoom (wServing.windowDie wSignal)).2 ∧
    ((wServing.served wSignal).admission wSignal (remoteOffset wSignal.addr.toNat) 4 2 false).2 = .spot wSpot ∧
    ((wServing.cacheRoom 0).1.admission wSignal (leNat (wSignal.data.take 8)) 8 4 false).2 = .spot (.mem .spad 4224) ∧
    wServing.spotsPoisoned (.mem .spad 4224) 8 = false ∧
    (run (.xputData wSignal) wServing).mem.nat .spad 4228 4 = 1 := by decide +kernel
/-- The die has used all its forwarding slots, its cache or the area of held traffic. -/
def wSending : State :=
  let f : Flit := packetFlit { wPacket kForward 4 [1, 2, 3, 4] with dst := 3, src := 0 } 1 0
  let s := wServer ⟨3 * 2 ^ 40, 0, 0x8F, 5, 0x10, 0⟩ [] []
  { s with fabric := { s.fabric with egress := List.replicate 256 f } }
theorem witness_TargetEvents_full :
    256 ≤ wSending.forwardsInUse (wSending.dieTo 3) ∧
    ((run (.readRequest wRead) wSending).fabric.egress.drop 256).map Flit.kind = [kBusy] := by decide +kernel
theorem held_over (n : Nat) : n ≤ (packetPayload { wRead with heat := 6, data := List.replicate n 0 }).length := by
  rw [packetPayload, List.length_append, List.length_replicate]; omega
theorem witness_TargetEvents_heldFull :
    2 ^ 26 < (packetPayload { wRead with heat := 6, data := List.replicate (2 ^ 26 + 1) 0 }).length := held_over (2 ^ 26 + 1)
def wCacheFull (n : Nat) : State := wServer wWin (List.replicate n ⟨0, 7, wPacket kAtomRsp 4 [], 0⟩) []
theorem cache_filled (n : Nat) : let s := wCacheFull n
    ((s.fabric.cache.filter fun c => decide (s.heat.time.toNat < c.time.toNat + 4000000)).filter fun c =>
      c.die == s.windowDie wAtom).length = n := by
  have h (p : Cached → Bool) (hp : p ⟨0, 7, wPacket kAtomRsp 4 [], 0⟩ = true) :
      (List.replicate n ⟨0, 7, wPacket kAtomRsp 4 [], 0⟩).filter p = List.replicate n ⟨0, 7, wPacket kAtomRsp 4 [], 0⟩ :=
    List.filter_eq_self.mpr fun c hc => List.eq_of_mem_replicate hc ▸ hp
  show (((List.replicate n _).filter _).filter _).length = n
  rw [h _ (by show decide ((100 : DWord).toNat < (0 : DWord).toNat + 4000000) = true; decide), h _ (by show ((0 : Nat) == ((mapGet Window.none [(1, wWin)] 1).loc.extractLsb' 6 2).toNat) = true; decide),
    List.length_replicate]
theorem witness_TargetEvents_cacheFull : let s := wCacheFull 4096
    4096 ≤ ((s.fabric.cache.filter fun c => decide (s.heat.time.toNat < c.time.toNat + 4000000)).filter fun c =>
      c.die == s.windowDie wAtom).length := Nat.le_of_eq (cache_filled 4096).symm
/-- Probes of a request that waits in the inbox, that was sent on, and that is unknown. -/
theorem witness_TargetEvents_probes :
    let probe := wPacket kProbe 0 []
    let waiting : State := { wServing with fabric := { wServing.fabric with inbox := [wRead] } }
    let onward : State := run (.readRequest wRead) (wServer ⟨3 * 2 ^ 40, 0, 0x8F, 5, 0x10, 0⟩ [] [])
    waiting.fabric.inbox.any (fun q => q.reqid == probe.reqid && hasHeader q.kind) ∧
    (run (.probe probe) waiting).fabric.egress.map Flit.kind = [kReport] ∧ onward.cached probe.reqid = none ∧
    onward.forwarded.any (fun f => f.aux == probe.reqid) ∧
    (run (.probe probe) onward).fabric.egress.map Flit.kind = [kForward, kReport] ∧ wServing.cached probe.reqid = none ∧
    wServing.forwarded.any (fun f => f.aux == probe.reqid) = false ∧ (run (.probe probe) wServing).fabric.egress = [] := by
  decide +kernel
def wHeldPacket (p : Packet) : State := wServer wWin [] [p]
theorem witness_TargetEvents_held :
    wServing.heatRuns wColl.heat ∧ (run (.collectiveData wColl) wServing).fabric.collective = [wColl] ∧
    wServing.heatRuns 7 = false ∧ wServing.heatStands 7 = false ∧
    (run (.collectiveData { wColl with heat := 7 }) wServing).fabric.egress.map Flit.kind = [kPoisoned] ∧
    (wHeldPacket wRead).fabric.held.any (fun q => q.reqid == (9 : DWord)) ∧
    (run (.probe (wPacket kProbe 0 [])) (wHeldPacket wRead)).fabric.egress.map Flit.kind = [kReport] ∧
    wCached.fabric.held = [] ∧ wCached.fabric.inbox = [] ∧
    (run (.probe (wPacket kProbe 0 [])) wCached).fabric.egress.map Flit.kind = [kAtomRsp] ∧
    (wHeldPacket { wRead with heat := 7 }).fabric.held.find?
      (fun q => (wHeldPacket { wRead with heat := 7 }).heatRuns q.heat || !(wHeldPacket { wRead with heat := 7 }).heatStands q.heat) =
        some { wRead with heat := 7 } ∧
    (run .heldRequestPerform (wHeldPacket { wRead with heat := 7 })).fabric.egress.map Flit.kind = [kPoisoned] ∧
    (run .heldRequestPerform (wHeldPacket wRead)).fabric.egress.map Flit.kind = [kReadRsp] ∧
    (run .heldRequestPerform (wHeldPacket wWrite)).mem.nat .spad 4160 4 = 0x09090909 := by decide +kernel

/-- A window of virtual memory of partition 0. -/
def wMapped (at' : Nat) : State := let s := wServer { wWin with base := at', loc := 0 } [] []; paged s
theorem witness_TargetChecks :
    (wServer { wWin with size := 33 } [] []).admission wRead 64 4 1 false = (wServer { wWin with size := 33 } [] [], .refuse 2) ∧
    (wServing.admission { wRead with heat := 4 } 64 4 1 false).2 = .refuse 5 ∧
    (wStanding wServing).heatRuns 6 = false ∧ ((wStanding wServing).admission { wRead with heat := 6 } 64 4 1 false).2 = .held ∧
    (wServing.admission wRead 4093 4 1 false).2 = .refuse 3 ∧ (wServing.admission wRead 4092 4 1 false).2 = .spot (.mem .spad 8188) ∧
    ((wServer { wWin with base := 2 ^ 26 } [] []).admission wRead 64 4 1 false).2 = .refuse 3 ∧
    ((wServer ⟨3 * 2 ^ 40, 0, 0x8F, 5, 0x10, 0⟩ [] []).admission wRead 64 4 1 true).2 = .refuse 2 ∧
    ((wServer { wWin with loc := 0, perm := 0x0A } [] []).admission wRead 64 4 1 false).2 = .refuse 4 ∧
    ((wMapped 4096).admission wRead 64 4 1 false).2 = .spot (.hbm 0 4160) ∧
    ((wMapped (2 ^ 40)).admission wRead 64 4 1 false).2 = .refuse 9 := by decide +kernel
def wSheetWindow : State :=
  let s := wServing
  { s with fabric := { s.fabric with windows := [(255, ⟨0, 12, 0x0F, 0, 0, 0⟩)] } }
theorem witness_TargetChecks_sheet :
    let p := { wRead with heat := 0, addr := .ofNat 64 (255 * 2 ^ 44 + 64), reqid := 0x4000000 }
    remoteWindow p.addr.toNat = 255 ∧
    (wSheetWindow.admission p (2 ^ 24 - 4) 4 1 false).2 = .spot (.mem .hbm (2 ^ 31 * 384 - 4)) ∧
    (wSheetWindow.admission p (2 ^ 24 - 3) 4 1 false).2 = .refuse 3 := by decide +kernel

/-! ## FabricEntries -/

/-- An XPUT of 16 bytes from scratchpad byte 400H to window 1 of peer 2. -/
def wPutDesc (flags : Byte) (src : Nat) : List Byte :=
  leBytes 4 src ++ leBytes 4 16 ++ [1, flags] ++ List.replicate 6 0 ++ leBytes 8 0 ++ List.replicate 40 0 ++
    leBytes 8 (2 * 2 ^ 52 + 2 ^ 44 + 64)
def wXputAt (flags : Byte) (src : Nat) (at' : Nat) : State :=
  let s := base (words 8) (regs [(1, .ofNat 32 (0x08000000 + at'))])
  let s := { s with
    mem := (s.mem.store .spad at' (wPutDesc flags src)).store .spad 0x400 [1, 2, 3, 4]
    fabric := { s.fabric with rotor := [(9, 3)], peers := [(2, ⟨true, false, 4⟩)] } }
  after (execXput 3 1 s)
def wXput : State := wXputAt 0 0x08000400 0x100
def wXputOn : State := after (execXqEntryStart 0 0 wXput)
def wXputSent : State := after (execXqEntryStart 0 0 wXputOn)
def wXputPois : State := { wXput with mem := wXput.mem.mark .spad 0x100 }
def wXputTail : State := { wXputPois with mem := wXput.mem.mark .spad 0x140 }
def wXe (s : State) : QEntry := ((s.queue 0 6).ents.head?).getD (s.newEntry 0 0 0)
theorem witness_FabricEntries_start :
    (wXput.queue 0 6).ents = [wXe wXput] ∧ (wXe wXput).state = .queued ∧ (wXe wXput).opcode = 0x38 ∧
    wXput.engineRuns 0 ∧ (wXput.queue 0 10).ents = [] ∧ wXput.afterDone 0 (wXe wXput) ∧
    wXput.mem.poisoned .spad 0x100 64 = false ∧ putOk (wXput.mem.bytes .spad 0x100 64) ∧
    (wXput.spadAddr 0 0 0x08000100 64 72).isSome ∧ wXput.mem.poisoned .spad 0x100 72 = false ∧
    (wXput.entryPlace 0 (wXe wXput) 0x08000400 16).isSome ∧
    (wXe wXputOn).state = .running ∧ (wXe wXputOn).buf.length = 16 := by decide +kernel
theorem witness_FabricEntries_badStart :
    wXputPois.mem.poisoned .spad 0x100 64 ∧ (wXe (run (.xqEntryStart 0 0) wXputPois)).cause = 10 ∧
    putOk ((wXputAt 4 0x08000400 0x100).mem.bytes .spad 0x100 64) = false ∧
    (wXe (run (.xqEntryStart 0 0) (wXputAt 4 0x08000400 0x100))).cause = 5 ∧
    ((wXputAt 0 0x08000400 0x7FC0).spadAddr 0 0 0x08007FC0 64 72).isSome = false ∧
    (wXe (run (.xqEntryStart 0 0) (wXputAt 0 0x08000400 0x7FC0))).cause = 3 ∧
    (wXputAt 0 0x0C000000 0x100).entryPlace 0 (wXe (wXputAt 0 0x0C000000 0x100)) 0x0C000000 16 = none ∧
    (wXe (run (.xqEntryStart 0 0) (wXputAt 0 0x0C000000 0x100))).cause = 3 := by decide +kernel
/-- The running entry with answers and failures taken in. -/
def wXputWith (f : QEntry → QEntry) : State := wXputOn.updEntry 0 6 1 f
def wPutAnswer (k : BitVec 8) : Packet := { wPacket k 5 [] with wtid := 0 }
theorem witness_FabricEntries_run :
    (wXe (wXputWith fun e => { e with resp := [wPutAnswer kPoisoned] })).prog2 = 0 ∧
    (wXe (run (.xqEntryStart 0 0) (wXputWith fun e => { e with resp := [wPutAnswer kPoisoned] }))).prog2 = 1 ∧
    (wXe (run (.xqEntryStart 0 0) (wXputWith fun e => { e with resp := [wPutAnswer kPutAck] }))).prog = 1 ∧
    wXputOn.putNext 0 6 (wXe wXputOn) (putRec (wXe wXputOn).recd) = some (0, 0, 2 * 2 ^ 52 + 2 ^ 44 + 64, 0, 16) ∧
    wXputOn.peerTable 0 2 = some 4 ∧ (wXe wXputOn).resp = [] ∧ wXputSent.fabric.reqs.length = 1 ∧
    (wXputWith fun e => { e with prog := 1 }).putNext 0 6 (wXe (wXputWith fun e => { e with prog := 1 }))
      (putRec (wXe wXputOn).recd) = none ∧
    (wXe (run (.xqEntryStart 0 0) (wXputWith fun e => { e with prog := 1 }))).state = .moved ∧
    (wXputWith fun e => { e with prog2 := 1 }).putNext 0 6 (wXe (wXputWith fun e => { e with prog2 := 1 }))
      (putRec (wXe wXputOn).recd) = none ∧
    (wXe (run (.xqEntryStart 0 0) (wXputWith fun e => { e with prog2 := 1 }))).cause = 9 := by decide +kernel
/-- Targets that the requester refuses: an unnamed peer, and an object that is no multiple of 8. -/
theorem witness_FabricEntries_refused :
    let none' : State := { wXputOn with fabric := { wXputOn.fabric with peers := [] } }
    let sig : State := wXputWith fun e => { e with recd := (e.recd.set 9 2).set 16 4 }
    none'.putNext 0 6 (wXe none') (putRec (wXe none').recd) = some (0, 0, 2 * 2 ^ 52 + 2 ^ 44 + 64, 0, 16) ∧
    none'.peerTable 0 (remotePeer (2 * 2 ^ 52 + 2 ^ 44 + 64)) = none ∧ (wXe (run (.xqEntryStart 0 0) none')).rdet = 1 ∧
    (putRec (wXe sig).recd).flags.testBit 1 ∧ (putRec (wXe sig).recd).sig % 8 ≠ 0 ∧
    (sig.putNext 0 6 (wXe sig) (putRec (wXe sig).recd)).isSome ∧ (wXe (run (.xqEntryStart 0 0) sig)).rdet = 8 := by decide +kernel
theorem witness_FabricEntries_end :
    let s := wXputWith fun e => { e with state := .moved }
    let u := wXputWith fun e => { e with state := .faulted, cause := 9 }
    (wXe s).state = .moved ∧ (wXe s).rel = none ∧ ((run (.xqEntryComplete 0 0) s).queue 0 6).seq = 1 ∧
    (wXe u).cause ∈ [1, 2, 9] ∧ (wXe (run (.xqEntryResume 0 0) u)).state = .running ∧ (wXe u).node = none ∧
    (run (.xqEntryRetire 0 0) u).crew.asyncf = 64 := by decide +kernel

/-- An allreduce of two float32 numbers over block 0 alone, as ticket 1. -/
def wCollDesc (kind : Byte) (dst : Nat) : List Byte :=
  [kind, 0, 0, 1, 1, 0, 0, 0] ++ leBytes 4 0 ++ leBytes 4 2 ++ leBytes 8 0x08000400 ++ leBytes 8 dst ++ List.replicate 32 0
def wCollAt (d : List Byte) : State :=
  let cohort : Cohort := ⟨1, 1, 1, 0, true, false, 0, 0, 0, 0, [], 0, 0, 0, [(0, 1)], [], []⟩
  let l (l : Launch) : Launch := { words 8 l with spec := { l.spec with cohorts := [⟨0, [0], 0⟩] }, cohorts := [(0, cohort)] }
  let s := base l id
  let s := { s with mem := (s.mem.store .spad 0x100 d).storeNat .spad 0x400 8 0x400000003F800000 }
  s.issueTo 3 6 32 { s.newEntry 0x39 0 0x08000100 with rows := [1, 0, 0] }
def wCollOn : State := after (execXqEntryStart 0 0 (wCollAt (wCollDesc 0 0x08000500)))
def wCollEntry : QEntry := wXe wCollOn
def wMismatch : State := wCollOn.updEntry 0 6 1 fun e => { e with recd := e.recd.set 0 1 }
theorem witness_FabricEntries_collective :
    wXputOn.engineRuns 0 ∧ (wXe (wCollAt (wCollDesc 7 0x08000500))).opcode = 0x39 ∧
    (wXe (wCollAt (wCollDesc 7 0x08000500))).state = .queued ∧ (wXe (wCollAt (wCollDesc 7 0x08000500))).node = none ∧
    (wCollAt (wCollDesc 7 0x08000500)).mem.poisoned .spad 0x100 64 = false ∧
    collOk (wCollDesc 7 0x08000500) 1 0 (some 0) = false ∧
    (wXe (run (.xqEntryStart 0 0) (wCollAt (wCollDesc 7 0x08000500)))).cause = 5 ∧
    (wXe wCollOn).state = .running ∧ (wXe wCollOn).resp = [] ∧ (wXe wCollOn).pending = [] ∧
    wCollOn.launch.otherPeers 0 0 = [] ∧ wCollOn.launch.ringBlocks 0 = [0] ∧
    (wCollOn.contribution wCollOn.launch 0 0 0).isSome ∧ collAddr 0x08000500 = some ⟨1, 0, 0x500⟩ ∧
    (wCollOn.collWrite 0 6 (wXe wCollOn) ⟨1, 0, 0x500⟩ 0 2
      (((collRec (wXe wCollOn).recd).result 0 [(List.range 8).map fun i => (wCollOn.mem.byte .spad (0x400 + i), false)]).1)).2 = none ∧
    (wXe (run (.xqEntryStart 0 0) wCollOn)).state = .moved ∧
    (run (.xqEntryStart 0 0) wCollOn).mem.nat .spad 0x504 4 = 0x40000000 ∧
    (wXe (run (.xqEntryStart 0 0) wMismatch)).cause = 18 := by decide +kernel
/-- The descriptors of the entry and of its contribution changed, and the block gone without a contribution. -/
def wCollWith (f : List Byte → List Byte) : State :=
  (wCollOn.updEntry 0 6 1 fun e => { e with recd := f e.recd }).updLaunch 1 fun l => { l with
    cohorts := l.cohorts.map fun x => (x.1, { x.2 with contribs := x.2.contribs.map fun c => { c with desc := f c.desc } }) }
def wCollGone : State := wCollOn.updLaunch 1 fun l => { l with cohorts := l.cohorts.map fun x => (x.1, { x.2 with contribs := [], gone := [0] }) }
theorem witness_FabricEntries_collective_ends :
    let s := wCollWith fun d => (d.set 0 1).set 8 1
    let x := collRec (wXe s).recd
    (x.lens 1 (s.launch.position 0 (wXe s).block)).2 = 0 ∧ (s.contribution s.launch 0 0 0).isSome ∧ (collAddr x.dst).isSome ∧
    (wXe (run (.xqEntryStart 0 0) s)).state = .moved ∧ wCollGone.contribution wCollGone.launch 0 0 0 = none ∧
    wCollGone.launch.blockGone 0 0 ∧ (wXe (run (.xqEntryStart 0 0) wCollGone)).cause = 17 := by decide +kernel
theorem witness_FabricEntries_release :
    let s := wXputWith fun e => { e with state := .moved, rel := some (false, 0x80) }
    (wXe s).rel = some (false, 0x80) ∧ (run (.xqEntryComplete 0 0) s).mem.nat .bmem 0x84 4 = 1 := by decide +kernel

end Sys2Proof.Tests
end

