-- ==== Sys2Proof/Tests/WitnessLane.lean ====
section
/-! SUPPORT. Witnesses of the statements about lane instructions: for each instruction a crew with it at the head of its queue
and operands that meet the statement's hypotheses together, where it completes. -/

namespace Sys2Proof.Tests
open Sys2Proof Sys2Proof.Machine
set_option Elab.async false

/-- Lane i with v2 to v4 full: v2 holds 64 + 8 i, v3 holds 1, v4 holds 0x3C00 + i. -/
def laneRegs (i : Nat) : LaneState :=
  {
    regs := [(2, ⟨.ofNat 64 (64 + 8 * i), true, false⟩), (3, ⟨1, true, false⟩), (4, ⟨.ofNat 64 (0x3C00 + i), true, false⟩)]
    queue := [], preds := 2, flags := 0, sigma := 9, count := 0 }

/-- 96 such lanes, of which the lowest four execute, with s1 = 64 and s2 = the scratchpad's byte 0xC000. -/
def laneCrew (c : Crew) : Crew :=
  (regs [(1, 64), (2, 0x0800C000)] { c with lanes := (List.range 96).map laneRegs, spp := 0x7800 }).updSplit 0 fun p => { p with mask := 15 }

/-- Crew 0 with the instruction at the head of its lane queue. -/
def headed (f : Launch → Launch) (g : Crew → Crew) (op : BitVec 8) (l : LaneFields) : State :=
  (base f (g ∘ laneCrew)).updCrew fun c => c.enqueueLane 0 (laneWord op l)

/-- The fields of an instruction: a destination v1 where it has one, and v2 to v4 in the sources that it uses. -/
def fieldsFor (sh : Shape) (fmt : BitVec 5) (md : BitVec 8) (imm : Word) : LaneFields :=
  ⟨if sh.dst = .none then 0xFF else 0x41, if sh.uses.getLsbD 0 then 0x42 else 0x18, if sh.uses.getLsbD 1 then 0x43 else 0x18,
    if sh.uses.getLsbD 2 then 0x44 else 0x18, 0, fmt, 0, 15, 0, md, imm⟩

/-- The hypotheses of a statement about a lane instruction. -/
def meets (sh : Shape) (f : LaneFields) (s : State) (ok : State → Ctx → Bool) : Bool :=
  match s.crew.laneQ.head? with
  | some e =>
    let x := s.laneCtx sh e f
    decide (e.word = laneWord sh.op f) && decide (e.rep = none) && decide (s.crew.lanes.length = 96) &&
      decide (sh.check s.settings.priv s.settings.det e.fmtr f = none) && decide (x.emptyTrap = none) && !x.waits && ok s x
  | none => false

/-- The instruction at the head completes: it leaves the queue and the crew goes on. -/
def finishes (s : State) : Bool :=
  match s.crew.laneQ.head? with
  | some e => match decodeLane e.word with
    | .ok i => let t := run i s
      t.crew.laneQ.isEmpty && t.crew.live && decide (t.crew.trap.cause = 0)
    | .error _ => false
  | none => false

/-- Rows (shape, FMT, MOD, IMM) whose instructions meet the hypotheses and complete. -/
def rowsMeet (f : Launch → Launch) (g : Crew → Crew) (h : State → State) (ok : State → Ctx → Bool)
    (rows : List ((LaneFields → Shape) × BitVec 5 × BitVec 8 × Word)) : Bool :=
  rows.all fun r =>
    let l0 := fieldsFor (r.1 ⟨0, 0, 0, 0, 0, r.2.1, 0, 15, 0, r.2.2.1, r.2.2.2⟩) r.2.1 r.2.2.1 r.2.2.2
    let s := h (headed f g (r.1 l0).op l0)
    meets (r.1 l0) l0 s ok && finishes s

/-- No executing lane has poison in a used source. -/
def cleanly (_ : State) (x : Ctx) : Bool :=
  x.lanes.all fun i => (List.range 3).all fun k => !x.sh.uses.getLsbD k || !x.poison k i

/-- Nothing more is asked. -/
def anyway (_ : State) (_ : Ctx) : Bool := true

/-! ## Integers, moves and repeats -/

theorem witness_LaneIntegers :
    rowsMeet (words 8) id id cleanly [(fun _ => shInt 0x02 3 1, 2, 1, 0), (fun _ => shInt 0x03 3 1, 2, 0, 0),
      (fun _ => shInt 0x04 3 0, 2, 0, 0), (fun _ => shInt 0x05 3 0, 2, 0, 0), (fun _ => shInt 0x06 7 0, 2, 0, 0),
      (fun _ => shInt 0x07 3 0, 2, 0, 0), (fun _ => shInt 0x08 3 0, 2, 0, 0), (fun _ => shInt 0x09 3 0, 2, 0, 0),
      (fun _ => shInt 0x0A 1 0, 2, 0, 0), (fun _ => shInt 0x78 7 0, 2, 0, 0), (fun _ => shInt 0x0B 3 0, 2, 0, 0),
      (fun _ => shInt 0x0C 3 0, 2, 0, 0), (fun _ => shInt 0x0D 3 0, 2, 0, 0),
      (fun _ => { shInt 0x0E 7 0 with imm := some 0xFF }, 2, 0, 0x96)] = true := by decide +kernel
theorem witness_LaneIntegers_bits :
    rowsMeet (words 8) id id cleanly [(fun _ => shInt 0x0F 3 0, 2, 0, 0), (fun _ => shInt 0x10 3 0, 2, 0, 0),
      (fun _ => shInt 0x11 3 0, 2, 0, 0), (fun _ => shInt 0x12 3 0, 2, 0, 0), (fun _ => shInt 0x13 1 0, 2, 0, 0),
      (fun _ => shInt 0x14 1 0, 2, 0, 0), (fun _ => shInt 0x15 3 0, 2, 0, 0), (fun _ => shInt 0x16 7 0, 2, 0, 0),
      (fun f => { shInt 0x17 3 0x7F with bad := if f.md.toNat % 8 ≥ 6 then some (9, f.md.toNat) else none }, 2, 0x0A, 0),
      (fun _ => { shInt 0x79 3 0 with fmts := [0, 1, 4, 5, 6, 7] }, 5, 0, 0), (fun _ => shInt 0x7A 7 0x0F, 2, 15, 0)] = true := by
  decide +kernel

/-- LNOP and a repeat prefix at the head. -/
def lnopWord : BitVec 96 := laneWord 0 ⟨0xFF, 0x18, 0x18, 0x18, 0, 0, 0, 15, 0, 0, 0⟩
def iaddWord : BitVec 96 := laneWord 2 ⟨0x41, 0x42, 0x43, 0x18, 0, 2, 0, 15, 0, 0, 0⟩
def repFields (imm : Word) : LaneFields := ⟨0, 0, 0, 0, 0, 0, 0, 0, 0, 0, imm⟩
def wRep (ws : List (BitVec 96)) : State :=
  (base (fun l => { words 8 l with lane := memPut [] 0 ((lnopWord :: iaddWord :: []).flatMap fun w => leBytes 12 w.toNat) })
    laneCrew).updCrew fun c => ws.foldl (fun c w => c.enqueueLane 0 w) c
theorem witness_LaneNopAndRepeat :
    rowsMeet (words 8) id id anyway [(fun _ => .bare 0x00, 0, 0, 0)] = true ∧
    ((0x303 : Word) &&& 0xFFFFC0C0 = 0) ∧ laneOpcode iaddWord ∉ [0x01#8, 0x76, 0x77, 0x80, 0x81, 0x82, 0x83] ∧
    ((wRep [laneWord 1 (repFields 0x303), iaddWord]).crew.laneQ.map fun e => e.split) = [0, 0] ∧
    isReg (laneFields iaddWord).dst ∧ isReg (laneFields iaddWord).sa ∧
    ((run (.rep (repFields 0x303)) (wRep [laneWord 1 (repFields 0x303), iaddWord])).crew.laneQ.map fun e => e.rep) =
      [some ⟨4, 1, 3, 0⟩] := by decide +kernel
theorem witness_LaneNopAndRepeat_alone :
    let s := wRep [laneWord 1 (repFields 0x303)]
    s.crew.laneQ.map (fun e => (e.split, e.lpc)) = [(0, 0)] ∧ (0 : Nat) + 24 ≤ s.launch.laneLen ∧
    s.launch.laneWordAt (0 + 12) = iaddWord ∧ ((run (.rep (repFields 0x303)) s).crew.split 0).pendingRep = some ⟨4, 1, 3, 0⟩ ∧
    laneOpcode (laneWord 1 (repFields 0)) ∈ [0x01#8, 0x76, 0x77, 0x80, 0x81, 0x82, 0x83] ∧
    (run (.rep (repFields 0x303)) (wRep [laneWord 1 (repFields 0x303), laneWord 1 (repFields 0)])).crew.live = false := by
  decide +kernel

theorem witness_LaneMoves :
    rowsMeet (words 8) id id cleanly [(fun _ => shMove 0x18 1, 0, 0, 0), (fun _ => { shMove 0x19 1 with imm := some 0xFFFFFFFF }, 0, 0, 7),
      (fun _ => { shMove 0x1A 3 with md := 0x0F }, 0, 1, 0), (fun _ => { shMove 0x67 3 with imm := some 0xFFFFFFFF }, 0, 0, 0x80),
      (fun _ => { shMove 0x1F 0 with imm := some 3 }, 0, 0, 3),
      (fun f => { shMove 0x66 (if f.md.getLsbD 0 then 1 else 0) with md := 1 }, 0, 1, 0),
      (fun _ => { shMove 0x1B 3 with md := 3, members := true }, 0, 3, 0),
      (fun f => { shMove 0x1E 0 with md := 0x3F, imm := some 0x3F, bad := voteBad f }, 0, 4, 0x0F),
      (fun f => { Shape.bare 0x65 with
        md := 0x0F, imm := some 0x000FFFFF, bad := if f.md.toNat % 16 = 15 then some (9, f.md.toNat) else none }, 0, 1, 0)] = true := by
  decide +kernel
/-- The lowest executing lane and its count are there. -/
def lowestOk (_ : State) (x : Ctx) : Bool := x.lanes.head? == some 0 && !x.poison 1 0
theorem witness_LaneMoves_exchange :
    rowsMeet (words 8) id id (fun _ x => x.lanes.all fun i => decide ((x.val 0 i).toNat % 64 < 48) && !x.poison 0 i)
      [(shBoth 0x5C 1 0, 2, 0x80, 0)] = true ∧
    rowsMeet (words 8) id id lowestOk [(fun _ => { shMove 0x1C 3 with members := true }, 0, 0, 0),
      (fun _ => { shMove 0x1D 3 with members := true }, 0, 0, 0)] = true ∧
    rowsMeet (words 8) (fun c => c.updSplit 0 fun p => { p with mask := 0 }) id (fun _ x => decide (x.lanes = []))
      [(fun _ => { shMove 0x1C 3 with members := true }, 0, 0, 0), (fun _ => { shMove 0x1D 3 with members := true }, 0, 0, 0)] = true := by
  decide +kernel

/-! ## Floating-point numbers -/

theorem witness_LaneFloats :
    rowsMeet (words 8) id id cleanly [(shRound 0x20 3, 1, 0, 0), (shRound 0x21 3, 1, 0, 0), (shRound 0x22 3, 1, 0, 0),
      (shRound 0x23 7, 1, 0, 0), (shRound 0x7B 7, 1, 0, 0), (shRound 0x2D 3, 1, 0, 0), (shRound 0x2E 1, 1, 0, 0),
      (fun _ => shFloat 0x28 3 0, 1, 0, 0), (fun _ => shFloat 0x29 3 0, 1, 0, 0), (fun _ => shFloat 0x2B 1 0, 1, 0, 0),
      (fun _ => { shFloat 0x2C 1 0 with rnd := some false }, 1, 0, 0), (fun _ => shFloat 0x2F 3 0, 1, 0, 0),
      (fun _ => shFloat 0x3F 3 0, 1, 0, 0), (fun _ => shFloat 0x7D 3 0, 1, 0, 0), (fun _ => shFloat 0x7E 3 0, 1, 0, 0)] = true := by
  decide +kernel
/-- FMTR with element formats of a dot product. -/
def dotFmtr (w : Word) (c : Crew) : Crew := c.updSplit 0 fun p => { p with fmtr := w }
theorem witness_LaneFloats_sums :
    rowsMeet (words 8) id id cleanly [
      (fun f => { shFloat 0x2A 3 0x7F with bad := if f.md.toNat % 8 = 7 then some (9, f.md.toNat) else none }, 1, 0x0A, 0),
      (fun _ => { shFloat 0x7C 7 0 with fmts := [1, 3, 4], rnd := some false }, 3, 0, 0),
      (fun _ => shHalves 0x6C 3, 4, 0, 0), (fun _ => shHalves 0x6D 3, 4, 0, 0), (fun _ => shHalves 0x6E 7, 4, 0, 0),
      (fun _ => { shFloat 0x6F 3 0 with fmts := [3, 4] }, 4, 0, 0)] = true ∧
    rowsMeet (words 8) (dotFmtr 0x463) id (fun _ x => decide (dotTrap 2 x.e.fmtr = none)) [(fun _ => shDot 0x3C, 0, 0, 0)] = true ∧
    rowsMeet (words 8) (dotFmtr 0x463) id (fun _ x => decide (dotTrap 4 x.e.fmtr = none)) [(fun _ => shDot 0x3D, 0, 0, 0)] = true ∧
    rowsMeet (words 8) (dotFmtr 0x4A5) id (fun _ x => decide (dotTrap 8 x.e.fmtr = none)) [(fun _ => shDot 0x3E, 0, 0, 0)] = true := by
  decide +kernel

/-- Lane i with numbers near 1 in v2 and v3, so that every function has a finite value. -/
def nearOne (c : Crew) : Crew :=
  let c := c.updSplit 0 fun p => { p with mask := 1 }; { c with lanes := c.lanes.map fun l => { l with
    regs := [(2, ⟨0x3F800000, true, false⟩), (3, ⟨0x40000000, true, false⟩)] } }
theorem witness_LaneFunctions :
    rowsMeet (words 8) nearOne id anyway [(shFunction 0x24 3, 1, 0, 0), (shFunction 0x25 1, 1, 0, 0), (shFunction 0x26 1, 1, 0, 0),
      (shFunction 0x27 1, 1, 0, 0), (shFunction 0x30 1, 1, 0, 0), (shFunction 0x31 1, 1, 0, 0), (shFunction 0x32 1, 1, 0, 0),
      (shFunction 0x33 1, 1, 0, 0), (shFunction 0x39 3, 1, 0, 0), (shFunction 0x3B 3, 1, 0, 0)] = true := by decide +kernel
theorem witness_LaneFunctions_more :
    rowsMeet (words 8) nearOne id anyway [(shFunction 0x34 1, 3, 0, 0), (shFunction 0x35 1, 3, 0, 0), (shFunction 0x36 1, 3, 0, 0),
      (shFunction 0x37 1, 3, 0, 0), (shFunction 0x38 1, 3, 0, 0),
      (fun f => { shFunction 0x3A (if f.md.getLsbD 0 then 3 else 1) f with md := 1 }, 3, 1, 0)] = true := by decide +kernel

/-! ## Conversions, reductions and scans -/

theorem witness_LaneConversions :
    rowsMeet (words 8) id id cleanly [
      (fun f => { shFloat 0x40 1 0x1F with
        fmts := allFloatCodes, srcFmt := some (0x1F, allFloatCodes), rnd := some (stoOk f.fmt), draws := 1 }, 4, 1, 0),
      (fun f => { shInt 0x41 1 0x1F with
        srcFmt := some (0x1F, allFloatCodes), rnd := some (decide (4 ≤ f.fmt.toNat)), draws := 1 }, 2, 1, 0),
      (fun f => { shFloat 0x42 1 0x07 with fmts := allFloatCodes, rnd := some (stoOk f.fmt), draws := 1 }, 1, 2, 0),
      (fun _ => shInt 0x43 1 0x87, 5, 0x82, 0),
      (fun f => { shFloat 0x48 3 0x1F with
        fmts := allFloatCodes, srcFmt := some (0x1F, floatCodes), rnd := some (stoOk f.fmt), draws := 1 }, 1, 1, 0),
      (fun f => { shFloat 0x44 7 0x87 with
        kind := if f.fmt < 15 then .float else .int, fmts := packCodes, rnd := some true, bad := packBad f
        draws := if f.fmt < 15 then 2 else 0 }, 4, 0, 0),
      (fun f => { shFloat 0x45 1 0x3F with
        kind := if f.fmt < 15 then .float else .int, fmts := unpkCodes
        bad := if unpkCodes.contains f.fmt.toNat && 64 / fmtWidth f.fmt.toNat ≤ f.md.toNat % 64
          then some (9, f.md.toNat) else none }, 4, 1, 0),
      (fun _ => { shFloat 0x49 1 0 with fmts := taperCodes }, .ofNat 5 (taperCodes.headD 0), 0, 0),
      (fun _ => { shFloat 0x4A 1 0 with fmts := taperCodes, rnd := some true, draws := 1 }, .ofNat 5 (taperCodes.headD 0), 0, 0),
      (fun f => { shFloat 0x47 1 0 with
        fmts := blockCodes, rnd := some false, imm := some 0xFFFFFFFF
        bad := if f.fmt ≠ 30 ∧ f.imm ≠ 0 then some (10, f.imm.toNat) else none }, 22, 0, 0),
      (fun f => { shMove 0x4B (if f.md.getLsbD 0 then 1 else 0) with md := 1 }, 0, 1, 0)] = true ∧
    rowsMeet (words 8) id id (fun _ x => decide ((x.e.fmtr.extractLsb' 21 3).toNat < 4)) [
      (fun f => { shFloat 0x46 5 0 with
        fmts := blockCodes, rnd := some true, draws := 1, imm := some 0xFFFFFFFF
        bad := if f.fmt ≠ 30 ∧ f.imm ≠ 0 then some (10, f.imm.toNat) else none }, 22, 0, 0)] = true := by decide +kernel

theorem witness_LaneReductions :
    rowsMeet (words 8) id id (fun _ x => decide (x.sh.kind = .int)) [(shReduce 0x4C, 2, 0x80, 0), (shReduce 0x4D, 2, 0x80, 0),
      (shReduce 0x4E, 2, 0x80, 0), (fun _ => shInt 0x4F 1 0, 2, 0, 0), (fun _ => shInt 0x50 1 0, 2, 0, 0),
      (fun _ => shInt 0x51 1 0, 2, 0, 0), (fun _ => shInt 0x52 1 0, 2, 0, 0),
      (fun f => { shBoth 0x53 1 0 f with imm := some 1 }, 2, 0x80, 1),
      (fun f => { shBoth 0x77 1 7 f with
        rnd := some (f.md.getLsbD 7 || stoOk f.fmt), bad := if f.md.toNat % 4 = 3 then some (9, f.md.toNat) else none }, 2, 0x80, 0)] = true ∧
    rowsMeet (words 8) id id (fun _ x => decide (x.sh.kind = .float)) [(shReduce 0x4C, 1, 0, 0), (shReduce 0x4D, 1, 0, 0),
      (shReduce 0x4E, 1, 0, 0), (fun f => { shBoth 0x53 1 0 f with imm := some 1 }, 1, 0, 1),
      (fun f => { shBoth 0x77 1 7 f with
        rnd := some (f.md.getLsbD 7 || stoOk f.fmt), bad := if f.md.toNat % 4 = 3 then some (9, f.md.toNat) else none }, 1, 0, 0)] = true ∧
    rowsMeet (words 8) id id anyway [(fun f => { shBoth 0x76 1 0 f with
      imm := some 0x7F7F
      bad := if isPow7 (f.imm.toNat % 128) && (f.imm.toNat / 256 % 128 == 0 || isPow7 (f.imm.toNat / 256 % 128))
        then none else some (10, f.imm.toNat) }, 2, 0x80, 1)] = true := by decide +kernel

/-! ## Memory -/

/-- The address of a lane: register or split register, plus the offset. -/
def addressOf (x : Ctx) (i : Nat) : Int :=
  (if x.f.sa = 0x18 then 0 else if isSreg x.f.sa then (x.e.svA.toNat : Int) else (x.val 0 i).toInt) +
    (if x.f.sb = 0x18 then 0 else (x.val 1 i).toInt * 2 ^ (x.f.md.toNat % 4)) + x.f.imm.toInt
/-- Every address that an access reaches exists, the sources are clean, and the crew's window is in order. -/
def reaches (spad : Bool) (ea : Ctx → Nat → Int) (s : State) (x : Ctx) : Bool :=
  let n := (intTy x.f.fmt.toNat).width / 8
  cleanly s x && decide (windowUnique s.crew.window) && decide (64 ∣ s.crew.bmemLo) && x.lanes.length == 4 &&
    x.lanes.all fun i => match s.placeLane spad n n (ea x i) with | .ok _ => true | .error _ => false
/-- Lane i at the scratchpad's byte 0xC000 + 8 i in v2, and no offset. -/
def atSpad (c : Crew) : Crew :=
  { c with lanes := c.lanes.zipIdx.map fun x => { x.1 with
      regs := [(2, ⟨.ofNat 64 (0x0800C000 + 8 * x.2), true, false⟩), (3, ⟨1, true, false⟩), (4, ⟨7, true, false⟩)] } }
/-- A base in s2 in place of SA. -/
def atS2 (op : BitVec 8) (f : LaneFields) (s : State) : State :=
  s.updCrew fun c => ({ c with laneQ := [] }).enqueueLane 0 (laneWord op { f with sa := 0xC2 })
def rowEa (x : Ctx) (i : Nat) : Int := (x.e.svA.toNat : Int) + x.f.imm.toInt + i * ((intTy x.f.fmt.toNat).width / 8)

theorem witness_LaneMemory_block :
    rowsMeet (words 8) id id (reaches false addressOf) [(shIndexed 0x54 3 .long, 3, 3, 16), (shIndexed 0x55 7 .none, 3, 3, 16)] = true ∧
    rowsMeet (words 8) (twoStores ∘ atSpad) id (reaches true addressOf)
      [(shIndexed 0x56 3 .long, 3, 3, 0), (shIndexed 0x57 7 .none, 3, 3, 0), (shIndexed 0x7F 3 .long, 3, 3, 0)] = true ∧
    rowsMeet (words 8) id id (fun s x => decide (s.crew.spillLo + 768 ≤ s.crew.spp) && decide (windowUnique s.crew.window) && x.lanes.length == 4)
      [(fun _ => { Shape.bare 0x5A with uses := 1 }, 0, 0, 0)] = true ∧
    rowsMeet (words 8) (fun c => { c with spp := c.spillHi - 768 }) id (fun s x => decide (s.crew.spp + 768 ≤ s.crew.spillHi) && x.lanes.length == 4)
      [(fun _ => { Shape.bare 0x5B with dst := .long }, 0, 0, 0)] = true := by decide +kernel
theorem witness_LaneMemory_rows :
    let load : LaneFields := ⟨0x41, 0xC2, 0x18, 0x18, 0, 3, 0, 15, 0, 0, 64⟩
    let store : LaneFields := ⟨0xFF, 0xC2, 0x18, 0x44, 0, 3, 0, 15, 0, 0, 64⟩
    let s := headed (words 8) id 0x58 load
    let t := headed (words 8) id 0x59 store
    let row (s : State) (x : Ctx) : Bool := reaches true rowEa s x && decide (∀ i ∈ x.lanes, ∀ j ∈ x.lanes, rowEa x i / 8192 = rowEa x j / 8192)
    meets { shMem 0x58 1 .long with ruleA := .sbase } load s row && finishes s &&
      meets { shMem 0x59 5 .none with ruleA := .sbase } store t row && finishes t = true := by decide +kernel
theorem witness_LaneMemory_addresses :
    let s := base (words 8) id
    isError (s.placeLane true 8 8 64) (3 : Nat) && isError (s.placeLane false 8 8 (2 ^ 32)) 3 && isError (s.placeLane true 8 8 0x0800C004) 1 &&
      isError (s.placeLane false 8 8 60) 0 && isOk (s.placeLane true 8 8 0x0800C008) 0xC008 && isError (s.placeLane false 8 8 (s.crew.bmemLen : Nat)) 0 &&
      isOk (s.placeLane false 8 8 ((s.crew.bmemLen - 8 : Nat) : Int)) (s.crew.bmemLo + s.crew.bmemLen - 8) = true := by decide +kernel

/-- What a statement on lane atomics asks. -/
def atomReady (spad : Bool) (s : State) (x : Ctx) : Bool :=
  let n := if x.sh.kind = .float then fmtWidth x.f.fmt.toNat / 8 else (intTy x.f.fmt.toNat).width / 8
  let ea (i : Nat) : Int := (x.val 0 i).toInt + x.f.imm.toInt
  cleanly s x && decide (windowUnique s.crew.window) && decide (64 ∣ s.crew.bmemLo) && x.lanes.length == 4 && x.lanes.all fun i =>
    match s.placeLane spad n n (ea i) with
    | .ok a => s.replayReady (s.objRecord x.sh.op.toNat (some i) spad a) && !s.mem.poisoned (spOf spad) a n &&
      (windowFind s.crew.window spad (a / 64)).isNone
    | .error _ => false
def shAtf (f : LaneFields) : Shape := { shAtom 0x61 3 3 2 f with
  kind := .float, fmts := [0, 1, 3, 4], rnd := some (stoOk f.fmt), draws := if f.md.toNat % 8 = 0 then 1 else 0 }
theorem witness_LaneAtomics :
    rowsMeet (words 8) id id (atomReady false) [(shAtom 0x5D 3 2 6, 3, 0, 0), (shAtom 0x5E 7 2 0, 3, 0, 0)] = true ∧
    rowsMeet (words 8) atSpad id (atomReady true) [(shAtom 0x5F 3 3 6, 3, 0, 0), (shAtom 0x60 7 3 0, 3, 0, 0), (shAtf, 1, 0, 0)] = true := by
  decide +kernel
theorem witness_LaneAtomics_deterministic :
    rowsMeet det id id (fun s x => atomReady false s x && s.settings.det && !x.c.divided && s.least fun c => c.block == x.c.block)
      [(shAtom 0x5E 7 2 0, 3, 8, 0)] = true ∧
    rowsMeet det id id (fun s x => atomReady false s x && s.settings.det) [(shAtom 0x5D 3 2 6, 3, 0, 0)] = true ∧
    rowsMeet det atSpad id (fun s x => atomReady true s x && s.settings.det) [(shAtom 0x5F 3 3 6, 3, 0, 0), (shAtf, 1, 0, 0)] = true := by
  decide +kernel

/-! ## Flags, privileged instructions and the engines -/

/-- A privileged launch with a handler at byte 16. -/
def privHandled (l : Launch) : Launch := { words 8 l with spec := { l.spec with priv := true, trap := 16 } }
theorem witness_LaneFlagsAndPrivileged :
    rowsMeet (words 8) id id cleanly [(fun _ => { shMove 0x62 0 with idle := true }, 0, 0, 0),
      (fun _ => { Shape.bare 0x63 with imm := some 0x3F, idle := true }, 0, 0, 3),
      (fun _ => { Shape.bare 0x64 with uses := 1, idle := true }, 0, 0, 0), (fun _ => shMove 0x74 3, 0, 0, 0),
      (fun _ => { shInt 0x75 3 0 with fmts := [1, 3, 5, 7] }, 5, 0, 0)] = true ∧
    rowsMeet priv id id anyway [(fun _ => shMove 0x82 0, 0, 0, 0)] = true := by decide +kernel
theorem witness_LaneFlagsAndPrivileged_save :
    let save : LaneFields := ⟨0xFF, 0xC1, 0x18, 0x42, 0, 0, 0, 15, 0, 0, 0⟩
    let restore : LaneFields := ⟨0x41, 0xC1, 0x18, 0x18, 0, 0, 0, 15, 0, 0, 0⟩
    let sh : Shape := { Shape.bare 0x80 with
      uses := 5, imm := some 0xFFFFFFFF, ruleA := .sbase, ruleC := .register, anyState := true }
    let sh2 : Shape := { Shape.bare 0x81 with uses := 1, dst := .reg, imm := some 0xFFFFFFFF, ruleA := .sbase }
    let there (s : State) (x : Ctx) : Bool :=
      isOk (s.placeLane false 800 64 (x.ea false 0)) 64 && decide (windowUnique s.crew.window) && decide (64 ∣ s.crew.bmemLo)
    meets sh save (headed priv id 0x80 save) there && finishes (headed priv id 0x80 save) &&
      meets sh2 restore (headed priv id 0x81 restore) there && finishes (headed priv id 0x81 restore) = true := by decide +kernel
theorem witness_LaneFlagsAndPrivileged_break :
    let f : LaneFields := ⟨0xFF, 0x18, 0x18, 0x18, 0, 0, 0, 15, 0, 0, 0x1234⟩
    let s := headed privHandled id 0x83 f
    s.crew.laneQ.length = 1 ∧ s.crew.trap.handler = false ∧ s.settings.trap ≠ 0 ∧
    ({ Shape.bare 0x83 with imm := some 0xFFFFFFFF } : Shape).check s.settings.priv s.settings.det s.split.fmtr f = none ∧
    (run (.lbrk f) s).crew.trap.cause = 0x01140000 ∧ (run (.lbrk f) s).split.spc = 16 := by decide +kernel

/-- No task holds the tile. -/
def tileFree (s : State) (x : Ctx) : Bool :=
  cleanly s x && decide ((s.core (slotCore s.cur)).pinOwner = some s.crew.part) && !s.tileHeld (slotCore s.cur) (x.f.imm.toNat % 2) &&
    !s.tileHeld (slotCore s.cur) 1
/-- Lane i with i in v2, and 7 in v3. -/
def counting (c : Crew) : Crew :=
  { c with lanes := c.lanes.zipIdx.map fun x => { x.1 with regs := [(2, ⟨.ofNat 64 x.2, true, false⟩), (3, ⟨7, true, false⟩)] } }
def shStatus (op : BitVec 8) (uses : BitVec 3) (d : DstUse) : Shape :=
  { Shape.bare op with uses := uses, dst := d, md := 1, imm := some 1 }
theorem witness_LaneTileAccess :
    rowsMeet (words 8) counting id tileFree [(shTile 0x70 1 .long, 1, 0, 1), (shTile 0x71 3 .none, 0, 0, 0),
      (shTile 0x70 1 .long, 20, 0, 0)] = true ∧
    rowsMeet (words 8) counting id tileFree [(fun _ => shStatus 0x70 0 .long, 0, 1, 1), (fun _ => shStatus 0x71 2 .none, 0, 1, 1)] = true := by
  decide +kernel
theorem witness_LaneTileAccess_scales :
    rowsMeet (words 8) counting id (fun s x => cleanly s x && decide (fifoCount (s.qset s.qk).fifo + 4 ≤ 512) && decide ((s.qset s.qk).fifo = []))
      [(fun f => { Shape.bare 0x72 with
        uses := 1, kind := .float, fmts := blockCodes, md := 3
        bad := if f.md.getLsbD 1 ∧ f.fmt ≠ 30 then some (9, f.md.toNat) else none }, 22, 1, 0)] = true ∧
    rowsMeet (words 8) counting
      (fun s => s.updQset s.qk fun q => { q with fifo := [⟨[⟨22, false, 5⟩], false, none, 0, false⟩] })
      (fun s x => cleanly s x && decide (fifoCount (s.qset s.qk).fifo + 4 ≤ 512) && ((s.qset s.qk).fifo.all fun b => !b.closed && !b.dropped))
      [(fun f => { Shape.bare 0x72 with
        uses := 1, kind := .float, fmts := blockCodes, md := 3
        bad := if f.md.getLsbD 1 ∧ f.fmt ≠ 30 then some (9, f.md.toNat) else none }, 22, 0, 0)] = true ∧
    rowsMeet (words 8) counting id (fun s x => cleanly s x && !s.slotInUse s.qk (x.f.md.toNat % 8))
      [(fun _ => { Shape.bare 0x73 with uses := 1, md := 7, imm := some 127 }, 0, 7, 125)] = true := by decide +kernel

/-- The crew's partition owns the clause array. -/
def arrayOwned (s : State) (x : Ctx) : Bool :=
  cleanly s x && decide ((s.core (slotCore s.cur)).arrayOwner = some s.crew.part) && !s.arrayBusy (slotCore s.cur)
/-- The instruction stays at the head while a step of the array is in progress. -/
def waitsFor (op : BitVec 8) (mk : LaneFields → Instr) (f : LaneFields) : Bool :=
  let s := (headed (words 8) counting op f).updCore 0 fun c => { c with stepping := some ⟨[], false⟩ }
  s.arrayBusy 0 && completes (mk f) s && decide (run (mk f) s = s)
theorem witness_LaneClauseAccess_waits :
    let f := fieldsFor (shMove 0x68 1) 0 0 0
    waitsFor 0x68 .litp f ∧ waitsFor 0x6A .cacl f ∧ waitsFor 0x6B .cawd (fieldsFor { Shape.bare 0x6B with uses := 3 } 0 0 0) := by
  decide +kernel
theorem witness_LaneClauseAccess :
    rowsMeet (words 8) counting id arrayOwned [(fun _ => shMove 0x68 1, 0, 0, 0),
      (fun f => { shMove 0x69 0 with
        imm := some 15, bad := if f.imm.toNat < 16 ∧ 10 ≤ f.imm.toNat then some (10, f.imm.toNat) else none }, 0, 0, 9),
      (fun _ => shMove 0x6A 1, 0, 0, 0), (fun _ => { Shape.bare 0x6B with uses := 3 }, 0, 0, 0)] = true := by decide +kernel

end Sys2Proof.Tests
end

