-- ==== Sys2Proof/Tests/WitnessScalar.lean ====
section
/-! SUPPORT. Witnesses of the statements about scalar words: for each clause with hypotheses a state and operands that meet
them, the word completing, waiting or trapping there as the clause says. -/

namespace Sys2Proof.Tests
open Sys2Proof Sys2Proof.Machine
set_option Elab.async false

/-- The word's next SPC, where the crew stays. -/
def spcAfter (i : Instr) (s : State) : Nat := (run i s).split.spc
/-- The register after the word. -/
def regAfter (i : Instr) (d : RegNo) (s : State) : Word := (run i s).sreg d
/-- CLASS, CODE and DETAIL of the trap that a word takes in a crew without a handler, whose status they become. -/
def statusAfter (i : Instr) (s : State) : Word := ((run i s).crewAt s.cur).status

/-! ## ScalarResults, ControlFlow and Splits -/

theorem witness_ScalarResults :
    (5 : BitVec 3).toNat < 6 ∧ 6 ≤ (6 : BitVec 3).toNat ∧ (0 : Word) = (base (words 8) id).sreg 2 ∧
    (List.range 32).all (fun j => decide (j < 32)) ∧
    regAfter (.cmp 3 1 2 0 0 5) 3 (base (words 8) (regs [(1, 4)])) = 1 ∧
    statusAfter (.cmp 3 1 2 0 0 6) (base (words 8) id) = 0x01010009 := by decide +kernel
theorem witness_ControlFlow :
    let s := base (words 8) (regs [(1, 28), (2, 29)])
    (1 : BitVec 9) ≠ 0 ∧ spcAfter (.nopHint 0 1) s = 4 ∧ s.split.spc = 0 ∧ s.launch.scalarLen = 32 ∧
    spcAfter (.br 7) s = 28 ∧ spcAfter (.brc 0 0 7) s = 4 ∧ spcAfter (.ret 1) s = 28 ∧
    statusAfter (.br 8) s = 0x0101000C ∧ statusAfter (.brc 2 0 8) s = 0x0101000C ∧ statusAfter (.ret 2) s = 0x0101000C ∧
    s.launch.laneLen = 96 ∧ (run (.ljmp 7) s).split.lpc = 84 ∧ statusAfter (.ljmp 8) s = 0x0101000C := by decide +kernel

def wHalf : State := base (words 8) (withPreds fun i => if i < 48 then 2 else 0)
def wFourHalf : State := base (words 8) fun c => four (withPreds (fun i => if i < 48 then 2 else 0) c)
def wDeep : State := wFourHalf.updCrew fun c => { c with stack := List.replicate 32 ⟨0, mid, 0, 0, 0, [], none⟩ }
theorem witness_Splits_divides :
    wHalf.crew.trap.handler = false ∧ wHalf.crew.splitIdle 0 ∧ wHalf.launch.laneLen = 96 ∧ wHalf.split.mask = BitVec.allOnes 96 ∧
    (∀ i < 96, mid.getLsbD i = (wHalf.split.mask.getLsbD i && (wHalf.crew.lane i).pred 1)) ∧
    (∀ i < 96, (~~~mid).getLsbD i = (wHalf.split.mask.getLsbD i && !(wHalf.crew.lane i).pred 1)) ∧
    (wHalf.crew.split 1).live = false ∧ ((run (.bspl 1 0 4) wHalf).crew.split 1).members = mid ∧
    (∀ i < 96, (0 : LaneMask).getLsbD i = (wHalf.split.mask.getLsbD i && (wHalf.crew.lane i).pred 2)) ∧
    spcAfter (.bspl 2 0 4) wHalf = 4 ∧
    (∀ i < 96, (0 : LaneMask).getLsbD i = (wHalf.split.mask.getLsbD i && !(wHalf.crew.lane i).pred 15)) ∧
    spcAfter (.bspl 15 0 4) wHalf = 16 ∧
    (∀ n < 4, (wFourHalf.crew.split n).live) ∧ wFourHalf.crew.stack.length < 32 ∧
    (run (.bspl 1 0 4) wFourHalf).crew.stack.length = 1 ∧ (∀ n < 4, (wDeep.crew.split n).live) ∧ 32 ≤ wDeep.crew.stack.length ∧
    statusAfter (.bspl 1 0 4) wDeep = 0x010E0000 := by decide +kernel
def wPath : StackEntry := ⟨0, mid, 16, 24, 1, [(17, 3)], none⟩
def wPathed : State := base (words 8) fun c => { c with stack := [wPath] }
/-- At the JOIN that the entry of the path records. -/
def wRecorded : StackEntry := { wPath with join := some ⟨0, 0, ~~~mid, ~~~mid, []⟩ }
def wPopping : State := base (words 8) fun c =>
  { c.updSplit 0 fun p => { p with members := mid, mask := mid, onPath := true } with stack := [wRecorded] }
def wMeeting : State := second (base (words 8) (two (fun p => { p with wait := .join }) id))
theorem witness_Splits_joins :
    let s := base (words 8) (two id id)
    let alone := base (words 8) id
    s.curSplit < 4 ∧ s.split.live ∧ s.crew.trap.handler = false ∧ (s.crew.split 1).meets = false ∧
    (run .join s).split.wait = .join ∧
    (∀ j < 4, j ≠ 0 → (alone.crew.split j).live = false) ∧ alone.crew.topOf 0 = none ∧ spcAfter .join alone = 4 ∧
    wPathed.crew.topOf 0 = some wPath ∧ spcAfter .join wPathed = 16 ∧
    (∀ j < 4, j ≠ 0 → (wPopping.crew.split j).live = false) ∧ wPopping.crew.topOf 0 = some wRecorded ∧
    wPopping.split.spc = 0 ∧ wPopping.split.lpc = 0 ∧ spcAfter .join wPopping = 4 ∧ (run .join wPopping).crew.stack = [] ∧
    wMeeting.curSplit = 1 ∧ (wMeeting.crew.split 0).live ∧ (wMeeting.crew.split 0).wait = .join ∧
    (wMeeting.crew.split 0).spc = wMeeting.split.spc ∧ (wMeeting.crew.split 0).lpc = wMeeting.split.lpc ∧
    wMeeting.crew.topOf 0 = none ∧ wMeeting.crew.topOf 1 = none ∧ ((run .join wMeeting).crew.split 1).live = false := by
  decide +kernel
theorem witness_Splits_exits :
    let busy := base (words 8) fun c => { c with laneQ := [queued] }
    let s := base (words 8) (two id id)
    let alone := base (words 8) (regs [(1, 0xFF000007)])
    busy.crew.lanesIdle = false ∧ mapWf Split.free busy.crew.splits ∧ spcAfter (.exit 1) busy = 0 ∧
    mapWf Split.free s.crew.splits ∧ s.crew.lanesIdle ∧ s.crew.topOf 0 = none ∧ (s.crew.split 1).live ∧
    ((run (.exit 1) s).crew.split 0).live = false ∧ mapWf Split.free alone.crew.splits ∧
    (alone.crew.splits.map Prod.fst) = [0] ∧ statusAfter (.exit 1) alone = 7 ∧ (run (.exit 1) alone).crew.live = false := by
  decide +kernel

/-! ## Traps -/

def wHandled : State := base handled fun c => { c with laneQ := [queued], window := [⟨false, 0, 5, 3, false⟩] }
def wHandling (f : TrapState → TrapState) : State := base handled fun c => { handler c with trap := f (handler c).trap }
theorem witness_Traps :
    wHandled.crew.trap.handler = false ∧ wHandled.settings.trap = 16 ∧ (wHandled.raise 1 2 3 4).crew.trap.handler ∧
    (wHandled.raise 1 2 3 4).crew.trap.cause = 0x02010002 ∧
    (base (words 8) id).settings.trap = 0 ∧ ((base (words 8) id).raise 1 2 3 4).crew.status = 0x01010002 ∧
    (wHandling id).crew.trap.handler ∧ ((wHandling id).raise 1 2 3 4).crew.status = 0x02010002 ∧
    (run (.trap 77) wHandled).crew.trap.opnd = 77 ∧ spcAfter (.trap 77) wHandled = 16 := by decide +kernel
theorem witness_SoftwareTraps_returns :
    let busy := (wHandling id).updCrew fun c => { c with laneQ := [queued] }
    statusAfter .eret (base (words 8) id) = 0x01010000 ∧ busy.crew.lanesIdle = false ∧ spcAfter .eret busy = 0 ∧
    (wHandling id).crew.lanesIdle ∧
    ((wHandling id).crew.trap.held.find? fun e => e.owner == 0).map LaneEntry.lpc = some (wHandling id).crew.trap.lpc ∧
    (run .eret (wHandling id)).crew.laneQ = [queued] ∧
    (run .eret (wHandling fun t => { t with held := [{ queued with owner := 1 }, queued] })).crew.laneQ =
      [queued, { queued with owner := 1 }] ∧
    ((queued.lpc + 12 == (wHandling fun t => { t with lpc := 36 }).crew.trap.lpc) : Bool) ∧
    (run .eret (wHandling fun t => { t with lpc := 36 })).crew.laneQ = [] ∧
    (run .eret (wHandling fun t => { t with lpc := 48 })).split.lpc = 48 := by decide +kernel

/-! ## ScalarMemory and ScalarAtomic -/

def wMem (f : Launch → Launch) (g : Crew → Crew) : State :=
  let s := base f fun c => g (regs [(1, 64), (2, 0x08008000), (3, 0x10000000), (4, 0x7F), (5, 0x80000040), (6, 7)] c)
  { s with mem := (s.mem.storeNat .bmem 64 8 0xFEDCBA9876543210).storeNat .spad 0x8000 8 0x0123456789ABCDEF }
def wBlock : ScalarAddr := ⟨false, 64, 64, 0⟩
def wPoisonWord : State := let s := wMem (words 8) id; { s with mem := s.mem.mark .bmem 64 }
theorem witness_ScalarMemory :
    let s := wMem (words 8) id
    s.crew.memoryIdle ∧ s.scalarAddr 0 64 = some wBlock ∧ s.mem.poisoned .bmem 64 4 = false ∧
    regAfter (.sld 7 1 0) 7 s = 0x76543210 ∧ regAfter (.sld 7 5 0) 7 s = 0x3210 ∧
    wPoisonWord.scalarAddr 0 64 = some wBlock ∧ wPoisonWord.mem.poisoned .bmem 64 4 ∧
    statusAfter (.sld 7 1 0) wPoisonWord = 0x01090006 ∧ s.scalarAddr 0 0x10000000 = none ∧
    statusAfter (.sld 7 3 0) s = 0x010A0003 ∧ windowUnique s.crew.window ∧ 64 ∣ s.crew.bmemLo ∧
    ((List.range 4).map fun j => (run (.sst 6 1 0) s).crewByte false (64 + j)) = [7, 0, 0, 0] ∧
    statusAfter (.sst 6 3 0) s = 0x010A0003 := by decide +kernel
theorem witness_ScalarAtomic :
    let s := wMem (words 8) id
    let d := wMem det id
    (4 : BitVec 3).toNat < 5 ∧ (5 : BitVec 3).toNat < 6 ∧ s.scalarAddrN 0 ((64 : Word) ||| (0 : BitVec 3).setWidth 32 <<< 29) 4 = some wBlock ∧
    ((s.sreg 1).toNat < 2 ^ 29) ∧ s.mem.poisoned .bmem 64 4 = false ∧ s.replayReady (s.objRecord 0x1E none false 64) ∧
    s.settings.det = false ∧ regAfter (.satm 7 1 6 0 0 0) 7 s = 0x76543210 ∧
    (run (.satm 7 1 6 0 0 0) s).mem.nat .bmem 64 4 = 0x76543217 ∧
    d.settings.det ∧ (windowFind d.crew.window false 1).isNone ∧ d.replayReady (d.objRecord 0x1E none false 64) ∧
    (run (.satm 7 1 6 0 0 0) d).crew.buffered.length = 1 := by decide +kernel

/-! ## LaneRun, StreamWords and Tickets -/

def wLanes (g : Crew → Crew) : State := base (words 8) fun c => g (regs [(1, 3), (2, 0x10000), (3, 0x00018000), (4, 0x01000000)] c)
theorem witness_LaneRun :
    let s := wLanes id
    let full := wLanes fun c => { c with laneQ := List.replicate 15 queued }
    s.split.lrunLeft = none ∧ (s.sreg 2).toNat + 0 = 65536 ∧ statusAfter (.lrun 2 0) s = 0x0101000C ∧
    s.launch.laneLen = 96 ∧ (run (.lrun 1 5) s).crew.laneQ.length = 8 ∧ statusAfter (.lrun 1 6) s = 0x0101000C ∧
    (run (.lrun 1 0) full).split.lrunLeft = some 2 ∧ (2 : BitVec 2) ≠ 3 ∧ regAfter (.movmRead 7 2) 7 s = 0xFFFFFFFF ∧
    (run (.movmWrite 1 2) s).split.mask.getLsbD 66 = false ∧ s.crew.splitIdle 0 ∧ regAfter (.movmPred 7 15 2) 7 s = 0xFFFFFFFF ∧
    (run (.fmts 7 3) s).split.fmtr = 0x18000 ∧ (s.sreg 4).toNat / 2 ^ 24 ≠ 0 ∧ statusAfter (.fmts 7 4) s = 0x0103000D := by
  decide +kernel
def wRing : State := base (words 8) fun c =>
  { regs [(1, 4), (2, 6)] c with redSeq := 5, redDone := 5, fsum := 0x15, ring := [⟨5, 1, false⟩, ⟨4, 0x123456789ABCDEF0, false⟩] }
def wBusy : State := base (words 8) fun c => { twoStores c with laneQ := [queued] }
theorem witness_StreamWords_ring :
    (8 : RegNo).toNat % 2 = 0 ∧ (wRing.crew.redSeq - 4).toNat < 0x8000 ∧ (wRing.crew.redDone - 4).toNat < 4 ∧
    wRing.crew.ring.find? (fun x => x.seq == 4) = some ⟨4, 0x123456789ABCDEF0, false⟩ ∧ regAfter (.rdrd 8 1) 9 wRing = 0x12345678 ∧
    0x8000 ≤ (wRing.crew.redSeq - 6).toNat ∧ statusAfter (.rdrd 8 2) wRing = 0x01110001 ∧
    wRing.crew.lanesIdle ∧ wRing.crew.fsum &&& 2 = 0 ∧ spcAfter (.fxck 2) wRing = 4 ∧ wRing.crew.fsum &&& 4 ≠ 0 ∧
    statusAfter (.fxck 4) wRing = 0x01120004 ∧ wBusy.crew.lanesIdle = false ∧ spcAfter (.fxck 4) wBusy = 0 := by decide +kernel
def wStores (g : Crew → Crew) : State := base (words 8) fun c => twoStores (g c)
theorem witness_StreamWords_drains :
    let s := wStores id
    windowUnique s.crew.window ∧ s.crew.lanesIdle ∧ (run .xfnc s).crew.window = [] ∧ (3 : BitVec 3).toNat < 4 ∧
    (5 : BitVec 3).toNat < 6 ∧ s.crew.writesOut 0 = false ∧ spcAfter (.fence 5) s = 4 ∧ spcAfter .yield s = 4 ∧
    (wStores fun c => { c with unacked := 1 }).crew.writesOut 0 ∧
    spcAfter (.fence 3) (wStores fun c => { c with unacked := 1 }) = 4 ∧
    spcAfter (.fence 4) (wStores fun c => { c with unacked := 1 }) = 0 ∧
    (run (.fence 4) (wStores fun c => { c with unacked := 1 })).crew.window = [] ∧
    spcAfter .xfnc wBusy = 0 ∧ spcAfter (.fence 3) wBusy = 0 ∧ (2 : RegNo).toNat % 2 = 0 ∧ s.split.wait = .none ∧
    s.spair 2 ≤ s.heat.time ∧ spcAfter (.yieldTime 2) s = 4 ∧ s.crew.jcnt = 0 ∧ s.crew.cancelled = 0 ∧
    s.crew.childClock ≤ s.crew.clock ∧ spcAfter .yieldJn s = 4 ∧
    (wStores fun c => { c with jcnt := 1 }).crew.jcnt ≠ 0 ∧ spcAfter .yieldJn (wStores fun c => { c with jcnt := 1 }) = 0 := by
  decide +kernel
def wDet (g : Crew → Crew) : State := base det fun c => twoStores { g c with buffered := [⟨false, 64, 2, 0, 5, 0, 0, 0, 0⟩] }
theorem witness_StreamWords_flush :
    let s := wStores id
    let d := wDet id
    let v := wDet (two id id)
    s.settings.det = false ∧ spcAfter .fenceFlush s = 4 ∧ windowUnique d.crew.window ∧ d.settings.det ∧
    d.crew.divided = false ∧ d.crew.lanesIdle ∧ d.least d.sameBlock ∧ (run .fenceFlush d).crew.buffered = [] ∧
    v.settings.det ∧ v.crew.divided ∧ statusAfter .fenceFlush v = 0x010D0002 := by decide +kernel
def wQueue (seq : Word) (g : Crew → Crew) : State :=
  let s := base (words 8) fun c => g (regs [(1, 4), (2, 5)] c)
  s.updQueue s.qk 0 fun u => { u with issue := 4, seq := seq, clocks := [(3, 7), (4, 9)] }
theorem witness_Tickets :
    let s := wQueue 4 id
    let w := wQueue 3 id
    let a := wQueue 4 fun c => { c with asyncf := 1 }
    (6 : BitVec 4).toNat < 7 ∧ s.split.wait = .none ∧ windowUnique s.crew.window ∧
    ¬(1 ≤ ((4 : Word) - (s.queue s.qk 0).issue).toNat ∧ ((4 : Word) - (s.queue s.qk 0).issue).toNat < 2 ^ 31) ∧
    s.crew.asyncf.getLsbD 0 = false ∧ ((s.queue s.qk 0).seq - 4).toNat < 2 ^ 31 ∧ (run (.wseq 1 0) s).crew.clock = 10 ∧
    spcAfter (.yieldSeq 1 0) s = 4 ∧ 2 ^ 31 ≤ ((w.queue w.qk 0).seq - 4).toNat ∧ spcAfter (.wseq 1 0) w = 0 ∧
    spcAfter (.yieldSeq 1 0) w = 0 ∧ 1 ≤ ((5 : Word) - (s.queue s.qk 0).issue).toNat ∧ statusAfter (.wseq 2 0) s = 0x010F0000 ∧
    statusAfter (.yieldSeq 2 0) s = 0x010F0000 ∧ a.crew.asyncf.getLsbD 0 ∧ statusAfter (.wseq 1 0) a = 0x01100000 ∧
    ((run (.qfnc 3) s).qset s.qk).fences.length = 1 := by decide +kernel

/-! ## SyncObjects and Barriers -/

def wObj (m : Nat) (xw : Bool) (hold count : Nat) : State :=
  let s := base (words 8) (regs [(1, 64), (2, 5)])
  { s with mem := s.mem.storeNat .bmem 64 8 (objWord m xw hold + count * 2 ^ 32) }
def wSelf : Nat := (wObj 0 false 0 0).selfHold
theorem witness_SyncObjects_acquires :
    let s := wObj 0 false 0 5
    let c := wObj 1 false (wSelf + 1) 5
    let r := wObj 2 false 1 5
    isOk (s.objAddr 64) wBlock ∧ s.crew.relRetired wBlock = false ∧ s.relFaulted wBlock = false ∧ s.crew.lanesIdle ∧
    s.curSplit < 4 ∧ s.split.wait = .none ∧ (s.crews.all fun x => x.2.splits.all fun k => k.2.wait == .none) ∧
    s.replayReady (s.objRecord 0x25 none false 64) ∧ (s.drainBound wBlock).mem.poisoned .bmem 64 8 = false ∧
    objMode ((s.drainBound wBlock).objLow false 64) = 0 ∧ objHold ((s.drainBound wBlock).objLow false 64) = 0 ∧
    objMode ((run (.acqX 1) s).objLow false 64) = 1 ∧ objHold ((run (.acqS 1) s).objLow false 64) = 1 ∧
    isOk (r.objAddr 64) wBlock ∧ objMode ((r.drainBound wBlock).objLow false 64) = 2 ∧
    objXw ((r.drainBound wBlock).objLow false 64) = false ∧ objHold ((run (.acqS 1) r).objLow false 64) = 2 ∧
    isOk (c.objAddr 64) wBlock ∧ objMode ((c.drainBound wBlock).objLow false 64) = 1 ∧
    objHold ((c.drainBound wBlock).objLow false 64) ≠ c.selfHold ∧ objXw ((run (.acqX 1) c).objLow false 64) ∧
    objMode (s.objLow false 64) ≠ 3 ∧ (s.objCount false 64 - 5).toNat < 2 ^ 31 ∧ spcAfter (.acqW 1 2) s = 4 := by decide +kernel
theorem witness_SyncObjects_releases :
    let s := wObj 1 false wSelf 5
    isOk (s.objAddr 64) wBlock ∧ s.settings.det = false ∧ s.crew.lanesIdle ∧ s.mem.poisoned .bmem 64 8 = false ∧
    s.replayReady (s.objRecord 0x26 none false 64) ∧ (windowFind s.crew.window false 1).isNone ∧
    objMode (s.objLow false 64) = 1 ∧ objHold (s.objLow false 64) = s.selfHold ∧ (run (.rel 1) s).objCount false 64 = 6 ∧
    objHold ((wObj 2 false 2 5).objLow false 64) = 2 ∧ objHold ((run (.rel 1) (wObj 2 false 2 5)).objLow false 64) = 1 ∧
    objMode ((run (.rel 1) (wObj 2 false 1 5)).objLow false 64) = 0 ∧
    statusAfter (.rel 1) (wObj 0 false 0 5) = 0x010B0003 ∧ statusAfter (.rel 1) (wObj 1 false (wSelf + 1) 5) = 0x010B0003 ∧
    statusAfter (.rel 1) (wObj 2 false 0 5) = 0x010B0003 := by decide +kernel

def wCohort : Cohort :=
  { total := 3, localCrews := 3, npkg := 1, scope := 2, valid := true, spans := false, depart := 1, plist := 0, gen := 5
    arrive := 0, arrived := [], maxClock := 0, departClock := 0, doneClock := 0, collIssued := [], gone := [], contribs := [] }
def cohorted (h : Cohort) (l : Launch) : Launch :=
  { words 8 l with spec := { l.spec with cohorts := [⟨3, [0], 0⟩] }, cohorts := [(3, h)] }
def wBar (h : Cohort) : State := base (cohorted h) twoStores
def wBarred : State := base (cohorted { wCohort with gen := 6 }) fun c => c.updSplit 0 fun p => { p with bar := some (3, 5), wait := .sync }
theorem witness_Barriers :
    let s := wBar wCohort
    let l := wBar { wCohort with arrive := 1, arrived := [7] }
    s.split.bar = none ∧ (base (words 8) id).cohortOf (base (words 8) id).crew 0 = none ∧
    statusAfter (.bar 0) (base (words 8) id) = 0x010C0000 ∧ s.cohortOf s.crew 0 = some (3, wCohort) ∧
    s.settings.det = false ∧ s.crew.lanesIdle ∧ wCohort.arrived.contains s.crew.uid = false ∧
    s.replayReady (s.logRecord 0x24 none false 3) ∧ spcAfter (.bar 0) s = 0 ∧
    l.cohortOf l.crew 0 = some (3, { wCohort with arrive := 1, arrived := [7] }) ∧ [7].contains l.crew.uid = false ∧
    spcAfter (.bar 0) l = 4 ∧ wBarred.split.bar = some (3, 5) ∧
    mapFind wBarred.launch.cohorts 3 = some { wCohort with gen := 6 } ∧ spcAfter (.bar 0) wBarred = 4 := by decide +kernel

/-! ## CopiesIssued and EnginesIssued -/

/-- Records at scratchpad bytes 100H, 140H and 180H: a tile task, a SPAWN record and a graph header. -/
def wTileBytes : List Byte := [4, 1, 1, 1, 1, 0, 0, 0, 0, 0, 0, 0, 0, 0, 0, 0] ++ List.replicate 16 0 ++ leBytes 4 0x08000200 ++ List.replicate 28 0
def wSpawnBytes : List Byte := List.replicate 40 0 ++ List.replicate 20 0xFF ++ leBytes 4 0
def wHeaderBytes : List Byte := leBytes 4 3 ++ leBytes 12 0 ++ leBytes 8 0x40 ++ List.replicate 24 0 ++ leBytes 8 0 ++ [5, 0, 0, 0] ++ leBytes 4 0
def wRecords (f : Launch → Launch) (g : Crew → Crew) : State :=
  let r := regs [(1, 0x08000100), (2, 0x08000110), (4, 0x200), (6, 64), (7, 0x08000140), (8, 0x08000180), (9, 0x08080000)]
  let s := base f fun c => g (r c)
  { s with mem := ((s.mem.store .spad 0x100 wTileBytes).store .spad 0x140 wSpawnBytes).store .spad 0x180 wHeaderBytes }
def wFull : State := let s := wRecords (words 8) id; s.updQueue 0 0 fun u => { u with issue := 128, ents := List.replicate 128 (s.newEntry 0 0 0) }
/-- The issue count of a queue of the own core after a word. -/
def issueAfter (i : Instr) (q : Nat) (s : State) : Word := ((run i s).queue s.qk q).issue
theorem witness_CopiesIssued :
    let s := wRecords (words 8) id
    let p := wRecords priv id
    (3 : BitVec 4).toNat < 4 ∧ s.waiting s.qk 3 < 128 ∧ (4 : RegNo).toNat % 2 = 0 ∧ (6 : RegNo).toNat % 2 = 0 ∧
    (6 : BitVec 3).toNat < 7 ∧ issueAfter (.cpy 1 4 6 3 6 6) 3 s = 1 ∧ p.settings.priv ∧ issueAfter (.cpy 1 4 6 3 7 7) 3 p = 1 ∧
    (s.spadAddr s.crew.part (slotDie s.cur) (s.sreg 1) 256 256).isSome ∧ issueAfter (.tcpy 3 1 3) 3 s = 1 ∧
    issueAfter (.dcpy 3 1 3) 3 s = 1 ∧ statusAfter (.cpy 1 4 6 4 0 0) s = 0x0101000B ∧ statusAfter (.cpy 1 3 6 0 0 0) s = 0x01010002 ∧
    statusAfter (.cpy 1 4 5 0 0 0) s = 0x01010003 ∧ statusAfter (.cpy 1 4 6 0 7 0) s = 0x01060000 ∧
    s.spadAddr s.crew.part (slotDie s.cur) (s.sreg 2) 256 256 = none ∧ statusAfter (.tcpy 3 2 0) s = 0x010A0003 ∧
    128 ≤ wFull.waiting wFull.qk 0 ∧ spcAfter (.cpy 1 4 6 0 0 0) wFull = 0 := by decide +kernel
theorem witness_EnginesIssued_tile :
    let s := wRecords (words 8) id
    s.crew.splitIdle 0 ∧ s.waiting s.qk 4 < 64 ∧ s.spadAddr s.crew.part (slotDie s.cur) (s.sreg 1) 64 64 = some 0x100 ∧
    s.mem.poisoned .spad 0x100 64 = false ∧
    isOk (s.tileCheck s.crew.part (slotCore s.cur) s.split.fmtr ((List.range 64).map fun j => s.crewByte true (0x100 + j))) wTileBytes ∧
    issueAfter (.ttsk 3 1) 4 s = 1 := by decide +kernel
theorem witness_EnginesIssued_clause :
    let s := wRecords (words 8) id
    let o := s.updCore 0 fun c => { c with arrayOwner := some 5 }
    s.waiting s.qk 5 < 32 ∧ (s.core (slotCore s.cur)).arrayOwner = some s.crew.part ∧ (s.sreg 6).toNat % 64 = 0 ∧
    (s.enginePlace s.crew.part (slotCore s.cur) (some (s.crew.bmemLo, s.crew.bmemLen)) (s.sreg 6).toNat 64).isSome ∧
    s.settings.det = false ∧ issueAfter (.cainf 3 6) 5 s = 1 ∧ issueAfter (.cainfLive 3 6) 5 s = 1 ∧
    issueAfter (.catrn 3 6) 5 s = 1 ∧ (7 : BitVec 3) ≠ 0 ∧ issueAfter (.camovLoad 3 6 7) 5 s = 1 ∧
    issueAfter (.camovStore 3 6 7) 5 s = 1 ∧ (o.core (slotCore o.cur)).arrayOwner ≠ some o.crew.part ∧
    statusAfter (.catrn 3 6) o = 0x01010000 := by decide +kernel
theorem witness_EnginesIssued_remote :
    let s := wRecords (cohorted wCohort) id
    let d := wRecords (fun l => let l := cohorted wCohort l; { l with spec := { l.spec with det := true } }) id
    s.waiting s.qk 6 < 32 ∧ (s.spadAddr s.crew.part (slotDie s.cur) (s.sreg 1) 64 64).isSome ∧ issueAfter (.xput 3 1) 6 s = 1 ∧
    (6 : BitVec 3) ≠ 7 ∧ s.cohortOf s.crew 0 = some (3, wCohort) ∧ s.mayBegin (fun x => (s.launch.slots x.block).contains 3) ∧
    s.replayReady (s.logRecord 0x39 none false 3) ∧ issueAfter (.coll 3 1 0 6) 6 s = 1 ∧ d.settings.det ∧
    d.crew.divided = false ∧ d.mayBegin (fun x => (d.launch.slots x.block).contains 3) ∧ issueAfter (.coll 3 1 0 6) 6 d = 1 := by
  decide +kernel

/-! ## SpawnAndJoin and Graphs -/

theorem witness_SpawnAndJoin :
    let s := wRecords (words 8) id
    let j := wRecords (words 8) fun c => { c with jcnt := 2 }
    s.crew.splitIdle 0 ∧ s.ownRecord (s.sreg 7) = some (0x140, wSpawnBytes) ∧ spawnBad wSpawnBytes = none ∧
    s.mem.poisoned .spad 0x140 64 = false ∧ s.crew.jcnt < 65535 ∧ s.slotRoom s.crew.part 0 1 ∧
    s.bankCount s.crew.part 0 + (s.bankWaiters s.crew.part 0).length < s.bankCap s.crew.part 0 false ∧
    ((run (.spwn 3 7) s).die 0).bank.length = 1 ∧ s.crew.jcnt = 0 ∧
    regAfter (.jnwt 3) 3 (wRecords (words 8) fun c => { c with cancelled := 3 }) = 3 ∧ j.crew.jcnt ≠ 0 ∧
    spcAfter (.jnwt 3) j = 0 ∧ spcAfter .yieldJn s = 4 := by decide +kernel
def wOneNode : Node := { recordNode [] 5 none [] with kind := 1, gsSlot := 9, remaining := 7 }
def wGraphs (g : Nat → Nat) (n : Nat) (f : Launch → Launch) : State :=
  let s := wRecords f (regs [(10, 2), (11, 9), (12, 6)])
  { s with graphs := (List.range n).map fun h => (h, { Graph.free with gstate := g h, nodes := [wOneNode] }) }
theorem witness_Graphs_launches :
    let s := wRecords (words 8) id
    let q := { s with mem := s.mem.mark .spad 0x180 }
    let b := { s with mem := s.mem.store .spad 0x188 [0xFF, 0xFF, 0xFF, 0xFF] }
    let f := wGraphs (fun _ => 2) 64 (words 8)
    s.ownRecord (s.sreg 8) = some (0x180, wHeaderBytes) ∧ q.ownRecord (q.sreg 8) = some (0x180, wHeaderBytes) ∧
    q.mem.poisoned .spad 0x180 64 ∧ regAfter (.glch 3 8) 3 q = 0x80000004 ∧ s.headerOk (wHeaderBytes.set 58 1) = none ∧
    s.mem.poisoned .spad 0x180 64 = false ∧ (s.headerOk wHeaderBytes).isSome ∧
    regAfter (.glch 3 8) 3 { s with mem := s.mem.store .spad 0x180 (wHeaderBytes.set 58 1) } = 0x80000003 ∧
    (∀ h < 64, (f.graph (graphKey f.crew.part h)).gstate ≠ 0) ∧ regAfter (.glch 3 8) 3 f = 0x80000001 ∧
    (s.graph (graphKey 0 0)).gstate = 0 ∧ (∀ x < 4, s.slotRoom 0 x (leAt wHeaderBytes (4 * x) 4)) ∧
    regAfter (.glch 3 8) 3 s = 0 ∧ ((run (.glch 3 8) s).graph 0).gstate = 1 ∧ b.crew.live := by decide +kernel
theorem witness_Graphs_control :
    let s := wGraphs (fun h => h) 7 (words 8)
    let d := wGraphs (fun h => h) 7 det
    (s.sreg 10).toNat < 64 ∧ s.settings.det = false ∧ spcAfter (.gctlStatus 3 10) s = 4 ∧ regAfter (.gctlLeft 3 10) 3 s = 1 ∧
    (s.graph 2).node ((s.sreg 11).toNat % 2 ^ 26) = none ∧ regAfter (.gctlNode 3 10 11) 3 s = 0xFFFFFFFF ∧
    (s.graph 2).node ((s.sreg 0).toNat % 2 ^ 26) = none ∧ (s.graph 2).node wOneNode.id = some wOneNode ∧
    (regAfter (.gctlNode 3 10 13) 3 (s.updCrew (regs [(13, .ofNat 32 wOneNode.id)]))).extractLsb' 18 6 = 7 ∧
    d.settings.det ∧ statusAfter (.gctlStatus 3 10) d = 0x01010009 ∧ (s.graph 6).gstate = 6 ∧
    ((run (.gctlFree 3 12) s).graph 6).gstate = 0 ∧ spcAfter (.gctlWait 3 12) s = 4 ∧ (s.graph 2).gstate = 2 ∧
    spcAfter (.gctlWait 3 10) s = 0 := by decide +kernel

/-! ## RemoteWords, LinkAndHeat -/

def wReply : Packet := ⟨2, 0, 1, 0, 5, 0, 0, 0, 4, 0, [0x81, 0x92, 3, 4], [false, false, false, false], false⟩
/-- Registers 2 and 3 hold an address of window 1 of peer 1, 4 and 5 one that is odd, 6 and 7 one of peer 2. -/
def wRemote (g : Crew → Crew) : State :=
  let s := base (words 8) fun c => g (regs [(2, 64), (3, 0x00101000), (4, 65), (5, 0x00101000), (7, 0x00201000), (8, 1), (9, 2)] c)
  { s with
    fabric := { s.fabric with peers := [(1, ⟨true, false, 3⟩)], rotor := [(3, 2)] }, heat := { s.heat with time := 1000 } }
def wAnswered : State := wRemote fun c => { c with reqs := [⟨0, 0, 5, 0, false, some wReply, false⟩] }
theorem witness_RemoteWords :
    let s := wRemote id
    (2 : RegNo).toNat % 2 = 0 ∧ (2 : BitVec 3).toNat < 5 ∧ s.settings.det = false ∧ s.crewReq = none ∧
    s.peerTable s.crew.part (remotePeer (s.spair 6).toNat) = none ∧ statusAfter (.xmemLd 1 6 2) s = 0x01150001 ∧
    s.peerTable s.crew.part (remotePeer (s.spair 4).toNat) = some 3 ∧ remoteOffset (s.spair 4).toNat % 4 ≠ 0 ∧
    statusAfter (.xmemSt 4 1 0) s = 0x01150008 ∧ s.peerTable s.crew.part (remotePeer (s.spair 2).toNat) = some 3 ∧
    remoteOffset (s.spair 2).toNat % 4 = 0 ∧ s.atomBusy (s.reqid (slotCore s.cur) (s.cur % 24) s.crew.reqCounter) = false ∧
    (run (.xmemLd 1 2 0) s).fabric.reqs.length = 1 ∧ (run (.xatm 1 2 3 4 0 0) s).fabric.reqs.length = 1 ∧
    (wAnswered.crewReq.map fun q => q.response) = some (some wReply) ∧ wReply.kind ≠ kPoisoned ∧
    wReply.pois.contains true = false ∧ wAnswered.replayLog = none ∧ regAfter (.xmemLd 1 2 0) 1 wAnswered = 0x04039281 ∧
    spcAfter (.xmemSt 2 1 0) wAnswered = 4 ∧ regAfter (.xatm 1 2 3 4 1 0) 1 wAnswered = 0xFFFFFF81 := by decide +kernel
def wWaiting : State := wRemote fun c => { c with reqs := [⟨0, 0, 5, 0, false, none, false⟩] }
def wRefused : State := wRemote fun c =>
  { c with reqs := [⟨0, 0, 5, 0, false, some { wReply with kind := kPoisoned, len := 2, data := [], pois := [] }, false⟩] }
theorem witness_RemoteWords_waits :
    (wWaiting.crewReq.map fun q => q.response) = some none ∧ spcAfter (.xmemLd 1 2 0) wWaiting = 0 ∧
    spcAfter (.xmemSt 2 1 0) wWaiting = 0 ∧
    ((wRefused.crewReq.bind fun q => q.response).map fun p => p.kind) = some kPoisoned ∧
    statusAfter (.xmemLd 1 2 0) wRefused = 0x01150002 ∧ statusAfter (.xmemSt 2 1 0) wRefused = 0x01150002 ∧
    statusAfter (.xatm 1 2 3 4 1 0) wRefused = 0x01150002 ∧ regAfter (.xmemLd 10 2 5) 10 wAnswered = 0x04039281 := by
  decide +kernel
theorem witness_LinkAndHeat_link :
    let s := wRemote id
    let l := { s with fabric := { s.fabric with slot := 0 }, heat := { s.heat with time := 0 } }
    s.settings.det = false ∧ s.replayLog = none ∧ (s.sreg 8).toNat < 64 ∧ spcAfter (.lnkStat 1 8) s = 4 ∧
    ((run (.lnkSq 1 8) s).fibreGroup 1).holders = [0] ∧ ((run (.lnkRls 1 8) (run (.lnkSq 1 8) s)).fibreGroup 1).holders = [] ∧
    (10 : RegNo).toNat % 2 = 0 ∧ (s.sreg 8).toNat < 4096 ∧ spcAfter (.lnkSlot 10 8 0) s = 4 ∧ s.split.wait = .none ∧
    s.lightTo 2 0 = none ∧ spcAfter (.lnkWait 10 9 0) s = 4 ∧ (l.lightTo 1 0).isSome ∧
    (l.lightTo 1 0).any (fun w => decide (l.heat.time < w)) ∧ spcAfter (.lnkWait 10 8 0) l = 0 := by decide +kernel
theorem witness_LinkAndHeat_waits :
    let s := wRemote (regs [(11, 4096)])
    let w := wRemote fun c => c.updSplit 0 fun p => { p with wait := .light 7 }
    let u := wRemote fun c => c.updSplit 0 fun p => { p with wait := .light 2000 }
    let d := (base det id).updCrew (regs [(8, 1)])
    64 ≤ (s.sreg 11).toNat ∧ regAfter (.lnkSq 1 11) 1 s = 0xFFFFFFFF ∧ w.split.wait = .light 7 ∧ 7 ≤ w.heat.time ∧
    spcAfter (.lnkWait 10 8 0) w = 4 ∧ regAfter (.lnkWait 10 8 0) 10 w = 7 ∧ u.split.wait = .light 2000 ∧
    u.heat.time < 2000 ∧ completes (.lnkWait 10 8 0) u ∧ run (.lnkWait 10 8 0) u = u ∧ statusAfter (.lnkSlot 11 8 0) s = 0x01010001 ∧
    statusAfter (.lnkWait 11 8 0) s = 0x01010001 ∧ 4096 ≤ (s.sreg 11).toNat ∧ statusAfter (.lnkSlot 10 11 0) s = 0x01010002 ∧
    d.settings.det ∧ statusAfter (.lnkStat 1 8) d = 0x01010009 ∧ statusAfter (.lnkWait 10 8 0) d = 0x01010009 ∧
    regAfter (.lnkSq 1 8) 1 d = 0 ∧ ((run (.lnkSq 1 8) d).fibreGroup 1).holders = [0] ∧
    ((run (.lnkRls 1 8) (run (.lnkSq 1 8) d)).fibreGroup 1).holders = [] := by decide +kernel
def wStep (last : Option Word) (copying : List Copying) : State :=
  let s := (wRemote id).updJob 1 fun j => { j with lastStep := last }
  { s with ckpt := { s.ckpt with copying := copying } }
def wJobCopy : Copying := ⟨1, 0, 1, 0, 0, [], [], []⟩
theorem witness_LinkAndHeat_heat :
    let d := base det id
    let s := wStep (some 1) []
    let c := wStep none [wJobCopy]
    let n := wStep none []
    (5 : BitVec 3).toNat < 6 ∧ spcAfter (.heat 1 5) s = 4 ∧ d.settings.det ∧ statusAfter (.heat 1 0) d = 0x01010009 ∧
    s.split.wait = .none ∧ s.crew.lanesIdle ∧ s.crew.writesOut 0 = false ∧ windowUnique s.crew.window ∧ s.divides = false ∧
    s.settings.det = false ∧ s.jobSpans = false ∧ s.replayLog = none ∧ (s.job 1).gatherDone = [] ∧ (s.job 1).gather = [] ∧
    (s.job s.crew.job).lastStep = some 1 ∧ s.sreg 8 = 1 ∧ regAfter (.heatCkpt 1 8) 1 s = 0x80000001 ∧
    (c.job c.crew.job).lastStep = none ∧ c.ckpt.copying = [wJobCopy] ∧ wJobCopy.job = c.crew.job ∧
    regAfter (.heatCkpt 1 8) 1 c = 0x80000002 ∧ n.ckptEarly 1 = none ∧ n.ownRank = none ∧
    (n.membersOf n.crew.job).map Crew.uid = [n.crew.uid] ∧ ((run (.heatCkpt 1 8) n).job 1).lastStep = some 1 ∧
    regAfter (.heatCkpt 1 8) 1 n = 0 := by decide +kernel
/-- A second crew of the job in slot 1, and arrivals at the gather. -/
def wGather (g : List (Nat × Word)) : State :=
  let s := (wStep none []).updJob 1 fun j => { j with gather := g }
  s.setCrewAt 1 { s.crew with uid := 77 }
theorem witness_LinkAndHeat_gathers :
    let s := wGather [(77, 1)]
    let u := wGather [(77, 2)]
    let w := wGather []
    let d := (wStep none []).updJob 1 fun j => { j with gatherDone := [((wStep none []).crew.uid, 0x80000003, 9)] }
    (s.membersOf s.crew.job).map Crew.uid = [s.crew.uid, 77] ∧ s.crew.uid ≠ 77 ∧ s.sreg 8 = 1 ∧ s.ckptEarly 1 = none ∧
    regAfter (.heatCkpt 1 8) 1 s = 0 ∧ ((run (.heatCkpt 1 8) s).job 1).lastStep = some 1 ∧ u.ckptEarly 1 = none ∧
    regAfter (.heatCkpt 1 8) 1 u = 0x80000003 ∧ ((run (.heatCkpt 1 8) u).job 1).lastStep = none ∧
    ((run (.heatCkpt 1 8) u).job 1).gatherDone.map Prod.fst = [77] ∧ w.ckptEarly 1 = none ∧
    (run (.heatCkpt 1 8) w).split.wait = .sync ∧ ((run (.heatCkpt 1 8) w).job 1).gather = [(w.crew.uid, 1)] ∧
    (d.job 1).gather = [] ∧ ((d.job 1).gatherDone.find? fun x => x.1 == d.crew.uid) = some (d.crew.uid, 0x80000003, 9) ∧
    regAfter (.heatCkpt 1 8) 1 d = 0x80000003 ∧ ((run (.heatCkpt 1 8) d).job 1).gatherDone = [] := by decide +kernel

/-! ## ControlRegisters and CsrCommands -/

def wRegs (f : Launch → Launch) (g : Crew → Crew) : State :=
  base f fun c => g (regs [(1, 12), (2, 24), (3, 0x7008), (4, 0x7009), (5, 11), (6, 139), (7, 8)] c)
theorem witness_ControlRegisters :
    let s := wRegs (words 8) id
    let h := wRegs (words 8) fun c => { c with trap := { c.trap with handler := true } }
    csrKnown 0x0FF = false ∧ statusAfter (.csrRd 1 0x0FF) s = 0x01070000 ∧ (wRegs det id).settings.det ∧
    statusAfter (.csrRd 1 0x033) (wRegs det id) = 0x01070003 ∧ statusAfter (.csrWr 1 2 0x025) s = 0x01070001 ∧
    s.crew.trap.handler = false ∧ statusAfter (.csrWr 1 2 0x012) s = 0x01070001 ∧ s.crew.lanesIdle ∧
    (run (.fsumWrite 9 2) s).crew.fsum = 24 ∧ wBusy.crew.lanesIdle = false ∧ spcAfter (.fsumRead 1) wBusy = 0 ∧
    (s.sreg 2).toNat % 8 = 0 ∧ (run (.sppWrite 9 3) (wRegs (words 8) fun c => { c with spillLo := 0x7000, spillHi := 0x8000 })).crew.spp = 0x7008 ∧
    h.crew.trap.handler ∧ (s.sreg 2).toNat % 12 = 0 ∧ (s.sreg 2).toNat + 12 ≤ h.launch.laneLen ∧
    (run (.trapspcWrite 9 2) h).crew.trap.spc = 24 ∧ (run (.traplpcWrite 9 2) h).crew.trap.lpc = 24 := by decide +kernel
theorem witness_CsrCommands_tail :
    let s := (wRegs (words 8) id).updQueue 0 0 fun u => { u with issue := 10, seq := 10 }
    s.crew.lanesIdle ∧ windowUnique s.crew.window ∧ 1 ≤ (s.sreg 5 - (s.queue s.qk 0).issue).toNat ∧
    (s.sreg 5 - (s.queue s.qk 0).issue).toNat ≤ 128 ∧ (s.sreg 5 - (s.queue s.qk 0).seq).toNat ≤ 128 ∧
    issueAfter (.qtailWrite 0 9 5) 0 s = 11 ∧ 128 < (s.sreg 6 - (s.queue s.qk 0).issue).toNat ∧
    statusAfter (.qtailWrite 0 9 6) s = 0x01070004 := by decide +kernel
def wBind (l : List Binding) : State :=
  base (fun x => { words 8 x with bindings := l }) fun c => twoStores { c with bndObj := 8, bndBase := 64, bndLen := 2 }
def wBinding : Binding := ⟨false, 8, false, 64, 2⟩
theorem witness_CsrCommands_bindings :
    let s := wBind []
    let b := wBind [wBinding]
    let n := s.updCrew fun c => { c with bndBase := 65 }
    (mapFind s.launches s.crew.launch).isSome ∧ s.bindingHere true = some wBinding ∧ s.launch.bindings.length < 256 ∧
    (run (.bndcmdBind 9 0) s).launch.bindings = [wBinding] ∧ (run (.bndcmdBind 9 0) s).crew.window = [] ∧
    b.bindingHere true = some wBinding ∧ (mapFind b.launches b.crew.launch).isSome ∧ wBinding ∈ b.launch.bindings ∧
    ¬(wBinding.regOff + 64 * wBinding.granules ≤ wBinding.regOff) ∧ (run (.bndcmdBind 9 0) b).crew.bndErr ∧
    b.bindingHere false = some wBinding ∧ (run (.bndcmdUnbind 9 0) b).launch.bindings = [] ∧
    (run (.bndcmdUnbind 9 0) (b.updCrew fun c => { c with bndLen := 1 })).launch.bindings = [] ∧
    s.bindingHere false = some wBinding ∧ s.launch.bindings = [] ∧ (run (.bndcmdUnbind 9 0) s).crew.bndErr ∧
    n.bindingHere true = none ∧ (run (.bndcmdBind 9 0) n).crew.bndErr ∧ n.bindingHere false = none ∧
    (run (.bndcmdUnbind 9 0) n).crew.bndErr := by decide +kernel

end Sys2Proof.Tests
end

