-- ==== Sys2Proof/Tests/WitnessSystem.lean ====
section
/-! SUPPORT. Witnesses of the statements about time, heats, switches, sprints, partitions, checkpoints, start and power. -/

namespace Sys2Proof.Tests
open Sys2Proof Sys2Proof.Machine
set_option Elab.async false

/-! ## StarterEvents -/

/-- The time and heat-sheet units changed. -/
def heatWith (f : Heat → Heat) (s : State) : State := { s with heat := f s.heat }
/-- A package at time t whose starter is peer n and whose priority is 5. -/
def wTime (t : DWord) (n : Nat) : State := heatWith (fun h => { h with time := t, starter := n, priority := 5 }) State.reset
def wRun : Running := ⟨0, 5, 1, 0, 1000000, 7, [0], false⟩
/-- An entry of a normal heat 5 of job 1 on partition 0, with its map areas at the start of the map area. -/
def wEntryOf (kind : BitVec 8) (start : DWord) (seq : Word) : HeatEntry :=
  let e : HeatEntry := ⟨start, if kind = 3 then 0 else 5000, 5, 1, kind, 0, 1, 0, 0, if kind = 0 then 100 else 0, 262656, 262144, seq, 0, 0⟩
  { e with crc := crc32c (entryBytes e) }
def wPub (e : HeatEntry) (acks : List Nat) : Published := ⟨e, [0, 2], acks, false, false, []⟩
/-- A message of a type from a peer, received on fibre 3. -/
def wStamped (kind src : Nat) : Stamped :=
  ⟨3, { packetFlit ⟨kReport, 5, src, 0, 9, 0, 0, 0, 4, 0, [], [], false⟩ 1 0 with
    kind := 0x20, payload := .ofNat 1024 (kind * 2 ^ 80) }, 77 * 65536⟩
/-- Package 1 with a message and a best clock. -/
def wHears (x : Stamped) (best : Option (Nat × Nat × DWord)) (off : Option Int) : State :=
  heatWith (fun h => { h with servo := { Servo.reset with best := best, offset := off } })
    { State.reset with fabric := { State.reset.fabric with peer := 1, ptp := [x] } }
/-- The least data set wins, whatever the own one is. -/
theorem best_grandmaster (s : State) (hb : s.heat.servo.best = some (0, 2, 1)) (hp : s.fabric.peer = 1) :
    s.grandmaster = some 2 := by
  have h : 0 < s.ownClock := by unfold State.ownClock; rw [hp]; omega
  unfold State.grandmaster
  rw [hb]
  exact if_pos h
/-- The offset is then what the servo has measured. -/
theorem best_offset (s : State) (hb : s.heat.servo.best = some (0, 2, 1)) (hp : s.fabric.peer = 1) :
    s.offset = s.heat.servo.offset := by
  unfold State.offset
  rw [best_grandmaster s hb hp]
  rfl
/-- Byte 0 of the message names its type. -/
def typeOf (x : Stamped) : Nat := byteAt ((leBytes 128 x.flit.payload.toNat).drop ptpAt) 0 % 16
theorem witness_StarterEvents_message :
    let s (k : Nat) := wHears (wStamped k 2) none none
    (∀ k ∈ [0, 2, 3, 0xA, 0xB], (s k).fabric.ptp.find? (fun x => x.fibre == 3 && x.flit.kind == 0x20) = some (wStamped k 2) ∧
      typeOf (wStamped k 2) = k ∧ (wStamped k 2).flit.src.toNat = 2 ∧ (run (.ptpMessage 3 (wStamped k 2).flit (77 * 65536)) (s k)).fabric.lastStamp = 77) ∧
    (s 0).fabric.ptp.find? (fun x => x.fibre == 4 && x.flit.kind == 0x20) = none ∧ (s 0).grandmaster ≠ some 2 ∧
    (run (.ptpMessage 3 (wStamped 0 2).flit 0) (s 0)).fabric.ptp = (s 0).fabric.ptp ∧
    (s 2).fabric.peer = 1 ∧ (run (.ptpMessage 3 (wStamped 2 2).flit (77 * 65536)) (s 2)).fabric.egress.length = 2 ∧ (s 0xB).heat.servo.best = none ∧
    (run (.ptpMessage 3 (wStamped 0xB 2).flit (77 * 65536)) (s 0xB)).heat.servo.best = some (0, 2, 0) := by decide +kernel
/-- A better clock of another peer stays while its announcements come. -/
theorem witness_StarterEvents_clock :
    let s := wHears (wStamped 0xB 3) (some (0, 2, 1)) none
    let m := (leBytes 128 (wStamped 0xB 3).flit.payload.toNat).drop ptpAt
    (wHears (wStamped 0 2) (some (0, 2, 1)) none).grandmaster = some 2 ∧ s.heat.servo.best = some (0, 2, 1) ∧
    (wStamped 0xB 3).flit.src.toNat ≠ 2 ∧ beAt m 47 16 = 0 ∧ s.passed 1 Config.announceTimeout = false :=
  ⟨best_grandmaster _ rfl rfl, rfl, by decide +kernel, by decide +kernel, decide_eq_false (by
    show ¬(1 + Config.announceTimeout ≤ 0); omega)⟩
theorem witness_StarterEvents_time :
    let alone := wTime 500 1
    let running := heatWith (fun h => { h with running := [wRun], steadyRuns := 15, tsusp := true }) alone
    alone.offset = some 0 ∧ alone.heat.running = [] ∧ (run (.timeServoCorrection 0 40 0) alone).heat.time = 540 ∧
    (run (.timeServoCorrection 0 (-1) 65531) alone).heat.slew = -5 ∧ running.offset = some 0 ∧ running.heat.running = [wRun] ∧
    (run (.timeServoCorrection 0 0 70) running).heat.slew = 70 ∧ (run (.timeServoCorrection 0 0 70) running).heat.time = 500 ∧
    (run (.timeServoCorrection 0 0 70) running).heat.tsusp = false := by decide +kernel
theorem witness_StarterEvents_offset :
    (wHears (wStamped 0 2) (some (0, 2, 1)) none).offset = none ∧
    (wHears (wStamped 0 2) (some (0, 2, 1)) (some (251 * 65536))).offset = some (251 * 65536) ∧
    (wHears (wStamped 0 2) (some (0, 2, 1)) (some (-251 * 65536))).offset = some (-251 * 65536) ∧
    (wHears (wStamped 0 2) (some (0, 2, 1)) (some (-101 * 65536))).offset = some (-101 * 65536) :=
  ⟨best_offset _ rfl rfl, best_offset _ rfl rfl, best_offset _ rfl rfl, best_offset _ rfl rfl⟩
theorem witness_StarterEvents_beats :
    (wTime 100000 0).heat.starter = (wTime 100000 0).fabric.peer ∧ (wTime 100000 0).heat.lastHeartbeat = 0 ∧
    (run .heartbeatSend (wTime 100000 0)).heat.sent.length = 1 ∧ (run .heartbeatSend (wTime 99999 0)).heat.sent = [] ∧
    (wTime 300000 1).heat.starter ≠ (wTime 300000 1).fabric.peer ∧
    (run .heartbeatLoss (wTime 300000 1)).heat.candidate = some (5, 0) ∧
    (run .heartbeatLoss (wTime 299999 1)).heat = (wTime 299999 1).heat ∧
    (run (.heartbeat 2 0 false) (wTime 300000 1)).heat.memberBeats = [(2, 300000)] ∧
    (wTime 300000 1).heat.epoch = 0 ∧ (run (.heartbeat 2 0 true) (wTime 300000 1)).heat.starter = 1 ∧
    (run (.heartbeat 2 9 true) (wTime 300000 1)).heat.starter = 2 ∧
    (run (.heartbeat 2 9 true) (wTime 300000 1)).heat.sent.length = 1 ∧ (wTime 300000 1).fabric.peer = 0 ∧
    (run (.heartbeat 0 9 true) (wTime 300000 1)).heat.starter = 0 := by decide +kernel
/-- A package that stands for peer 2, or for itself, in epoch 3. -/
def wStands (t : DWord) (least : Nat × Nat) : State :=
  heatWith (fun h => { h with epoch := 3, candidacyAt := some 0, candidate := some least }) (wTime t 1)
theorem witness_StarterEvents_election :
    let stood := wStands 25600 (4, 2)
    (run (.candidacy 9 4 2) stood).heat.candidate = some (4, 2) ∧ (run (.candidacy 9 6 2) stood).heat.candidate = some (5, 0) ∧
    (run (.candidacy 2 4 2) stood).heat = stood.heat ∧ (wTime 9 1).heat.candidacyAt = none ∧
    (run (.candidacy 0 4 2) (wTime 9 1)).heat = (wTime 9 1).heat ∧
    (run (.candidacy 3 4 1) stood).heat.candidate = some (4, 1) ∧ (run (.candidacy 3 4 3) stood).heat.candidate = some (4, 2) ∧
    (run (.electionResult 9 4 2) stood).heat.starter = 2 ∧ (run (.electionResult 2 4 2) stood).heat.starter = 1 ∧
    stood.heat.candidacyAt = some 0 ∧ (run .electionTimer stood).heat.starter = 2 ∧
    (run .electionTimer (wStands 25599 (4, 2))).heat.starter = 1 := by decide +kernel
def wPublished (p : Published) : State := heatWith (fun h => { h with published := [p], nextSeq := 9 }) (wTime 50 0)
/-- The entry of a new heat of job 1, and one of heat 6. -/
def wNext (kind : BitVec 8) : HeatEntry := wEntryOf kind 5000000 9
def wAsks (n : Option Word) : State := heatWith (fun h => { h with nextSeq := 9, numbers := [(1, n)] }) (wTime 50 0)
theorem witness_StarterEvents_publish :
    (wAsks none).heat.starter = (wAsks none).fabric.peer ∧ (wNext 0).seq = (wAsks none).heat.nextSeq ∧ (wNext 0).heatno = 5 ∧
    (run (.heatSheetPublish (wNext 2)) (wAsks none)).heat.published.length = 1 ∧
    (run (.heatSheetPublish (wNext 3)) (wAsks (some 5))).heat.numbers = [] ∧
    (run (.heatSheetPublish (wNext 0)) (wAsks (some 5))).heat.published.length = 1 ∧
    (run (.heatSheetPublish (wNext 0)) (wAsks (some 6))).heat.published = [] ∧
    (wAsks none).numberFree 5 ∧ (wAsks none).heat.lastNumber = 0 ∧ seqAtMost 0 5 ∧
    (run (.heatSheetPublish (wNext 1)) (wAsks none)).heat.lastNumber = 5 ∧
    (run (.heatSheetPublish { wNext 1 with heatno := 0x10000 }) (wAsks none)).heat.published = [] ∧
    (run (.heatSheetPublish (wEntryOf 0 5000000 8)) (wAsks none)).heat.published = [] ∧
    (run (.heatSheetPublish (wEntryOf 0 2000049 9)) (wAsks none)).heat.published = [] := by decide +kernel
/-- The sole member is the package itself. -/
def wAlone : State := { wAsks none with mem := State.reset.mem.store .hbm (sheetBase + 262144) [1] }
theorem witness_StarterEvents_maps :
    wAlone.membersAt 262144 = [0] ∧
    ((run (.heatSheetPublish (wNext 0)) wAlone).fabric.reqs.map fun r => (r.origin, r.ticket, r.index, r.packet.data.length)) =
      [(4, 9, 0, 512), (4, 9, 0, 32)] := by decide +kernel
/-- The new starter's own ring holds one entry. -/
def wWinner : State := { wStands 25600 (5, 0) with mem := State.reset.mem.store .hbm (sheetBase + 448) (entryWire (wEntryOf 0 5000000 7)) }
/-- A list of which f keeps one number only. -/
theorem filterMap_one {A : Type} (f : Nat → Option A) (k : Nat) (e : A) (hk : f k = some e) (ho : ∀ i, i ≠ k → f i = none) :
    ∀ n, (List.range n).filterMap f = if k < n then [e] else []
  | 0 => rfl
  | n + 1 => by
    rw [List.range_succ, List.filterMap_append, filterMap_one f k e hk ho n]
    rcases Nat.lt_trichotomy k n with h | h | h
    · have h2 : k < n + 1 := by omega
      have h3 := ho n (by omega)
      simp [h, h2, h3]
    · subst h
      simp [hk]
    · have h2 : ¬k < n + 1 := by omega
      have h3 := ho n (by omega)
      have h4 : ¬k < n := by omega
      simp [h4, h2, h3]
/-- Bytes that all read as zero. -/
theorem bytes_zero (m : Memory) : ∀ a n, (∀ k < n, memGet m (a + k) = 0) → memBytes m a n = List.replicate n 0
  | _, 0, _ => rfl
  | a, n + 1, h => by
    have h1 := bytes_zero m (a + 1) n fun k hk => by
      have h2 := h (k + 1) (by omega)
      rwa [show a + 1 + k = a + (k + 1) by omega]
    have h0 : memGet m a = 0 := h 0 (by omega)
    show memGet m a :: memBytes m (a + 1) n = _
    rw [h1, h0]
    rfl
/-- A place of the ring that nothing has been written to reads as zeros. -/
theorem winner_zeros (i : Nat) (h : i ≠ 7) : wWinner.sheetRead (64 * i) 64 = List.replicate 64 0 := by
  have hb : ∀ k < 64, wWinner.mem.byte .hbm (sheetBase + 64 * i + k) = 0 := by
    intro k hk
    show (State.reset.mem.store .hbm (sheetBase + 448) (entryWire (wEntryOf 0 5000000 7))).byte .hbm _ = 0
    rw [Mem.byte_store_outside]
    · rfl
    · right
      have hl : (entryWire (wEntryOf 0 5000000 7)).length = 64 := by decide +kernel
      omega
  exact bytes_zero _ _ 64 hb
theorem winner_entries : wWinner.ringEntries = [wEntryOf 0 5000000 7] := by
  unfold State.ringEntries
  rw [filterMap_one _ 7 (wEntryOf 0 5000000 7) (by decide +kernel)]
  · exact if_pos (by decide)
  · intro i hi
    rw [winner_zeros i hi]
    have hc : (entryOfBytes (List.replicate 64 0)).crc ≠ crc32c ((List.replicate 64 (0 : Byte)).take 60) := by decide +kernel
    exact if_neg fun h => hc h.1
theorem witness_StarterEvents_winner :
    wWinner.heat.candidacyAt = some 0 ∧ wWinner.heat.candidate = some (5, wWinner.fabric.peer) ∧
    wWinner.ringEntries = [wEntryOf 0 5000000 7] ∧ (0 : DWord).toNat + 25600 ≤ wWinner.heat.time.toNat :=
  ⟨rfl, rfl, winner_entries, by decide +kernel⟩
theorem witness_StarterEvents_answers :
    let e := wEntryOf 0 5000000 7
    let s := wPublished (wPub e [2])
    s.heat.published = [wPub e [2]] ∧ e.deadline = 100 ∧ (0 : Nat) ∈ (wPub e [2]).members ∧
    (run (.ack 0 5 7) s).heat.sent.length = 2 ∧
    ((run (.ack 0 5 7) (wPublished (wPub e []))).heat.published.map Published.acks) = [[0]] ∧
    ((run (.ack 0 5 7) (heatWith (fun h => { h with time := 101 }) s)).heat.published.map Published.barred) = [true] ∧
    ((run (.nak 0 5 7 3) s).heat.published.map Published.barred) = [true] ∧
    ((run (.entryRequest 2 7) s).heat.published.map Published.owed) = [[2]] ∧
    ((run (.entryRequest 2 7) s).fabric.reqs.map Req.index) = [2, 2] ∧ (run (.entryRequest 2 8) s).heat.published = [wPub e [2]] ∧
    s.entryOf 5 = some (e, [0, 2]) ∧ (5 : Word) ∉ s.heat.aborted ∧
    (run (.memberFailureReport 5 2 6) s).heat.published.length = 2 ∧
    (run (.memberFailureReport 5 2 6) (heatWith (fun h => { h with aborted := [5] }) s)).heat.published.length = 1 := by
  decide +kernel
theorem witness_StarterEvents_missed :
    let s := heatWith (fun h => { h with running := [wRun], sheet := [⟨wEntryOf 0 0 7, [0], [0, 2], true, true, false, false⟩] }) (wTime 300000 1)
    s.heat.running = [wRun] ∧ (clockMax wRun.start (mapGet 0 s.heat.memberBeats 2)).toNat + 300000 ≤ 300000 ∧
    (∃ x ∈ s.heat.sheet, x.entry.seq = wRun.seq ∧ x.committed ∧ 2 ∈ x.members) ∧
    (run (.memberHeartbeatMissed 2) s).heat.sent.length = 1 := by decide +kernel

/-! ## SheetEvents -/

/-- Partition 0 and a sprint partition 1 that holds a reserve, on core 0; the maps name peer 0 and its core 0. -/
def wSheet : State :=
  let s := base (words 8) id
  let q := (s.partition 0).quotas
  { heatWith (fun h => { h with time := 50, running := [], sheet := [] }) s with
    parts := mapSet Partition.none s.parts 1 { s.partition 0 with sprint := true, quotas := q }
    mem := (State.reset.mem.store .hbm (sheetBase + 262144) [1]).store .hbm
      (sheetBase + 262656) [1] }
def wSheetEntry (f : HeatEntry → HeatEntry) : HeatEntry :=
  let e := f (wEntryOf 0 5000000 7)
  { e with crc := crc32c (entryBytes e) }
def verdict (e : HeatEntry) (s : State) : List (BitVec 8 × Nat) := (after (execHeatSheetEntry ⟨0, e⟩ s)).heat.sent.map fun m => (m.kind, m.value)
def wNew : HeatEntry := wSheetEntry id
/-- The sheet's package with the entry in its ring. -/
def wWritten : State := { wSheet with mem := wSheet.mem.store .hbm (sheetBase + 448) (entryWire wNew) }
def wTaken : State := heatWith (fun h => { h with sheet := [⟨wEntryOf 0 5000001 6, [0], [0], false, false, false, false⟩] }) wSheet
def wElsewhere : HeatEntry := wSheetEntry fun e => { e with cmap := 263168 }
theorem witness_SheetEvents_form :
    wSheet.membersAt 262144 = [0] ∧ entryForm wNew 1 ∧ entryForm { wNew with crc := 0 } 1 = false ∧
    verdict { wNew with crc := 0 } wSheet = [(0x24, 1)] ∧ verdict (wSheetEntry fun e => { e with start := 1000049 }) wSheet = [(0x24, 2)] ∧
    verdict (wSheetEntry fun e => { e with deadline := 4500001 }) wSheet = [(0x24, 1)] := by decide +kernel
theorem witness_SheetEvents_refused :
    wWritten.coresAt 262656 [0] 0 = [0] ∧ wTaken.sheetFree wNew [0] = false ∧ verdict wNew wTaken = [(0x24, 3)] ∧
    wWritten.partsReady { wNew with parts := 4 } [0] = false ∧
    verdict (wSheetEntry fun e => { e with parts := 4 }) wSheet = [(0x24, 4)] ∧
    ({ wSheet with parts := [(0, wSheet.partition 0)] } : State).reserveReady [0] = false ∧
    verdict wNew { wSheet with parts := [(0, wSheet.partition 0)] } = [(0x24, 5)] ∧
    verdict wNew (heatWith (fun h => { h with tsusp := true }) wSheet) = [(0x24, 6)] ∧
    verdict (wSheetEntry fun e => { e with flags := 1 }) wSheet = [(0x24, 7)] ∧
    wWritten.coresAt 263168 [0] 0 = [] ∧ verdict wElsewhere wSheet = [] := by decide +kernel
def wStood : State := heatWith (fun h => { h with sheet := [⟨wNew, [0], [0], false, false, false, false⟩] }) wSheet
theorem witness_SheetEvents_accepted :
    wSheet.heat.sheet = [] ∧ wWritten.sheetFree wNew [0] ∧ wWritten.partsReady wNew [0] ∧ wWritten.reserveReady [0] ∧
    wSheet.heat.tsusp = false ∧ wNew.flags.getLsbD 0 = false ∧ verdict wNew wSheet = [(0x23, 0)] ∧
    (run (.heatSheetEntry ⟨0, wNew⟩) wSheet).heat.sheet.length = 1 ∧ (∃ x ∈ wStood.heat.sheet, x.entry = wNew) ∧
    (run (.heatSheetEntry ⟨0, wNew⟩) wStood).heat.sheet.length = 1 ∧
    wStood.heat.epoch = 0 ∧ ((run (.commit ⟨0, 0⟩ 5 7) wStood).heat.sheet.map SheetEntry.committed) = [true] ∧
    (run (.commit ⟨0, 1⟩ 5 7) wStood).heat.sheet = wStood.heat.sheet := by decide +kernel
def wStarting (kind : BitVec 8) (committed : Bool) (running : List Running) : State :=
  heatWith (fun h => { h with
    time := 5000000, running := running, sheet := [⟨wEntryOf kind 5000000 7, [0], [0], committed, false, false, false⟩] }) wSheet
theorem witness_SheetEvents_start :
    ((wStarting 0 true []).heat.sheet.find? (fun x => x.entry.seq == 7 && !x.started && x.entry.kind != 3)).isSome ∧
    (wEntryOf 0 5000000 7).start ≤ (wStarting 0 true []).heat.time ∧ partsOf (wEntryOf 0 5000000 7) = [0] ∧
    ((run (.heatStart 7) (wStarting 0 true [])).heat.switches.map fun w => (w.core, w.idle)) = [(0, false)] ∧
    ((run (.heatStart 7) (wStarting 0 false [])).heat.switches.map fun w => (w.core, w.idle)) = [(0, true)] ∧
    ((run (.heatStart 7) (wStarting 0 true [{ wRun with seq := 6 }])).heat.running.map Running.seq) = [7] ∧
    ((run (.heatStart 7) (wStarting 1 false [])).heat.sheet.map SheetEntry.started) = [true] ∧
    ((wStarting 3 false []).heat.sheet.find? (fun x => x.entry.seq == 7 && x.entry.kind == 3 && !x.started)).isSome ∧
    ((wStarting 3 false []).crewAt 0).live ∧ ((wStarting 3 false []).crewAt 0).job = 1 ∧
    ((run (.abort 7) (wStarting 3 false [])).crewAt 0).live = false := by decide +kernel

/-- The entry stands but its START has not come, or one of an earlier START waits. -/
def wEarly (kind : BitVec 8) : State := heatWith (fun h => { h with time := 4999999 }) (wStarting kind true [])
def wSecond : State :=
  heatWith (fun h => { h with sheet := ⟨wEntryOf 0 4000000 6, [0], [0], true, false, false, false⟩ :: h.sheet }) (wStarting 0 true [])
theorem witness_SheetEvents_waits :
    (3 : Nat) ≠ wSheet.heat.starter ∧ (run (.heatSheetEntry ⟨3, wNew⟩) wSheet).heat.sheet = [] ∧
    (run (.commit ⟨3, 0⟩ 5 7) wStood).heat.sheet = wStood.heat.sheet ∧
    (wEarly 0).heat.time < (wEntryOf 0 5000000 7).start ∧ (run (.heatStart 7) (wEarly 0)).heat.switches = [] ∧
    (run (.abort 7) (wEarly 3)).heat.sheet = (wEarly 3).heat.sheet ∧
    (∃ y ∈ wSecond.heat.sheet, y.started = false ∧ y.void = false ∧ y.entry.start < (wEntryOf 0 5000000 7).start) ∧
    (run (.heatStart 7) wSecond).heat.switches = [] := by decide +kernel

/-! ## CatchEvents and SwitchEvents -/

/-- Partition 0, with a quota of one slot and 64 bytes of block memory, switches core 0, its phase as given; job 1 stands
there with crew 0. -/
def wSwitching (w : Switch) (p : Phase) (t : DWord) : State :=
  let s := (wStarting 0 true [{ wRun with seq := 6 }]).updCore 0 fun c => { c with pinOwner := none, arrayOwner := none }
  let s := { s with parts := mapSet Partition.none s.parts 0 { s.partition 0 with quotas := [⟨0, 1, 0, 64, 0, 0⟩] } }
  let s := (s.updJob 1 fun j => { j with present := true, part := 0 }).setPhase 0 p
  let q := (base (words 8) fun c => { c with laneQ := [queued], reqs := [⟨0, 0, 9, 0, false, none, false⟩] }).crews
  heatWith (fun h => { h with time := t, switches := [w] }) { s with crews := q }
def wSwitch (begun idle resume : Bool) : Switch := ⟨0, 0, 7, idle, resume, 0, begun⟩
def wCatching (p : Phase) (t : DWord) : State := wSwitching (wSwitch false false true) p t
theorem witness_CatchEvents :
    let s := wCatching .running 1499
    let late := wCatching .running 1500
    s.switchOf 0 0 = some (wSwitch false false true) ∧ (s.core 0).sprint = none ∧ s.phaseOf 0 = .running ∧
    (wCatching .idle 1500).phaseOf 0 = .idle ∧ slotCore 0 = 0 ∧ (s.crewAt 0).live ∧ (s.crewAt 0).part = 0 ∧
    ((run (.catchCore 0 0) s).crewAt 0).caught ∧ ((run (.deadlineReset 0 0) s).crewAt 0).live ∧
    ((run (.catchCore 0 0) (wCatching .idle 1500)).crewAt 0).caught ∧ (0 : Nat) + 1500 ≤ late.heat.time.toNat ∧
    (run (.catchCore 0 0) late).phaseOf 0 = .running ∧ ((run (.deadlineReset 0 0) late).crewAt 0).status = 0x03010000 := by
  decide +kernel

def wCaught : State := wSwitching (wSwitch true false true) .caught 0
def wCaughtIdle : State := { wCaught with jobs := [] }
/-- Core 1 of the die switches too and has not come as far. -/
def wPair (p : Phase) : State :=
  let s := heatWith (fun h => { h with switches := h.switches ++ [{ wSwitch true false true with core := 1 }] }) wCaught
  s.setPhase (qkey 0 1) p
theorem witness_SwitchEvents_save :
    wCaught.phaseReady 0 0 .caught ∧ wCaught.outgoingAt 0 0 = some 1 ∧
    wCaughtIdle.phaseReady 0 0 .caught ∧ wCaughtIdle.outgoingAt 0 0 = none ∧
    (run (.save 0 0) wCaughtIdle).phaseOf 0 = .saved ∧
    (∀ v ∈ wCaughtIdle.heat.switches, v.part = 0 → v.core ≠ 0 → v.core / 64 = 0 / 64 →
      wCaughtIdle.phaseOf (qkey 0 v.core) ∉ [.running, .idle, .caught]) ∧
    (wPair .caught).phaseReady 0 0 .caught ∧ (wPair .running).phaseReady 0 0 .caught = false ∧
    (∃ v ∈ (wPair .caught).heat.switches, v.part = 0 ∧ v.core = 1 ∧ (wPair .caught).phaseOf (qkey 0 v.core) = .caught) ∧
    (run (.save 0 0) (wPair .running)).phaseOf 0 = .caught := by decide +kernel
def wSavedState : State := wSwitching (wSwitch true false true) .saved 0
def wSavedIdle : State := { wSavedState with jobs := [] }
def wDrained : State := after (execDrainAndTag 0 0 wSavedState)
theorem witness_SwitchEvents_drain :
    wSavedState.switchOf 0 0 = some (wSwitch true false true) ∧ wSavedState.phaseReady 0 0 .saved ∧ wSavedState.fabric.reqs = [] ∧
    wSavedState.outgoingAt 0 0 = some 1 ∧ (wDrained.crewAt 0).live = false ∧ wDrained.heat.saved.length = 1 ∧
    wSavedIdle.outgoingAt 0 0 = none ∧ wSavedIdle.phaseReady 0 0 .saved ∧
    ((run (.drainAndTag 0 0) wSavedIdle).heat.running.map Running.seq) = [7] := by decide +kernel
/-- The request of the crew is in flight at the drain, and its response comes. -/
def wInFlight (t : DWord) : State :=
  let r : Req := ⟨9, ⟨kReadReq, 5, 0, 2, 9, 64, 0, 0, 4, 0, [], [], false⟩, 0, some 0, false, false, 0, 0, 0, 0, 0⟩
  heatWith (fun h => { h with time := t }) { wSavedState with fabric := { wSavedState.fabric with reqs := [r] } }
theorem witness_SwitchEvents_waits :
    (∃ r ∈ (wInFlight 1999).fabric.reqs, (wInFlight 1999).reqOf 0 0 r) ∧ (wInFlight 1999).phaseReady 0 0 .saved ∧
    (run (.drainAndTag 0 0) (wInFlight 1999)).phaseOf 0 = .saved ∧
    (run (.drainAndTag 0 0) (wInFlight 2000)).phaseOf 0 = .drained := by decide +kernel
/-- An idle switch ends the heat; one of two cores, the other not drained yet, leaves the heats as they are. -/
def wIdles : State := { wSwitching (wSwitch true true false) .saved 0 with jobs := [] }
def wOther : State :=
  let s := heatWith (fun h => { h with switches := h.switches ++ [{ wSwitch true false true with core := 1 }] }) wSavedIdle
  s.setPhase (qkey 0 1) .saved
theorem witness_SwitchEvents_enters :
    (∀ v ∈ wIdles.heat.switches, v.part = 0 → v.core ≠ 0 → wIdles.phaseOf (qkey 0 v.core) = .drained) ∧
    wIdles.phaseReady 0 0 .saved ∧ (run (.drainAndTag 0 0) wIdles).heat.running = [] ∧
    wOther.phaseReady 0 0 .saved ∧ wOther.outgoingAt 0 0 = none ∧
    (∃ v ∈ wOther.heat.switches, v.part = 0 ∧ v.core ≠ 0 ∧ wOther.phaseOf (qkey 0 v.core) = .saved) ∧
    ((run (.drainAndTag 0 0) wOther).heat.running.map Running.seq) = [6] := by decide +kernel
def wTagged : State := after (execDrainAndTag 0 0 (wInFlight 2000))
def wLate : Packet := ⟨kReadRsp, 5, 2, 0, 9, 64, 0, 0, 4, 0, [1, 2, 3, 4], [false, false, false, false], false⟩
def wParked : State := { wTagged with fabric := { wTagged.fabric with inbox := [wLate] } }
theorem witness_SwitchEvents_parked :
    wLate.dst = wParked.fabric.peer ∧ wParked.isParked 9 ∧ wLate ∈ wParked.fabric.inbox ∧
    (run (.parkedResponse wLate) wParked).isParked 9 = false := by decide +kernel
/-- The first bytes of the save area name a job; none of its parts is valid. -/
def wEmpty (job : Nat) : State :=
  { heatWith (fun h => { h with saveAt := [(256, 1)] }) wDrained with mem := State.reset.mem.store .hbm (2 ^ 31) (leBytes 4 job) }
def wLost : State := heatWith (fun h => { h with saved := [] }) wDrained
theorem witness_SwitchEvents_restore :
    let mine (s : State) := s.heat.saved.find? fun a => a.job == 1 && a.die == 0 && a.pos == 0
    (wDrained.heat.sheet.find? (fun x => x.entry.seq == 7)).isSome ∧ wDrained.phaseReady 0 0 .drained ∧
    (wSwitch true false true).resume ∧ (wSwitch true false true).idle = false ∧
    (mapFind (wEmpty 1).heat.saveAt 256) = some 1 ∧ (wEmpty 1).phaseReady 0 0 .drained ∧
    (wEmpty 1).switchOf 0 0 = some (wSwitch true false true) ∧ ((mine (wEmpty 1)).map fun a => a.part) = some 0 := by
  decide +kernel
theorem witness_SwitchEvents_header :
    (wEmpty 1).areaNat 0 0 4 = 1 ∧ (wEmpty 2).areaNat 0 0 4 ≠ 1 := by decide +kernel
theorem witness_SwitchEvents_refused :
    (wLost.heat.saved.find? fun a => a.job == 1 && a.die == 0 && a.pos == 0) = none ∧ wLost.phaseReady 0 0 .drained ∧
    wLost.switchOf 0 0 = some (wSwitch true false true) ∧
    (run (.switchRestore 0 0 7) wLost).heat.sent.length = 1 ∧
    ((run (.switchRestore 0 0 7) wLost).heat.switches.map Switch.idle) = [true] := by decide +kernel
def wReturned : State := (wSwitching (wSwitch true false true) .restored 0).setCrewAt 0 { wCaught.crewAt 0 with caught := true }
def wDrainedIdle : State := wSwitching (wSwitch true true false) .drained 0
theorem witness_SwitchEvents_start :
    wReturned.switchOf 0 0 = some (wSwitch true false true) ∧ wReturned.phaseReady 0 0 .restored ∧
    ((run (.switchStart 0 0) wReturned).crewAt 0).caught = false ∧
    wDrainedIdle.switchOf 0 0 = some (wSwitch true true false) ∧ wDrainedIdle.phaseReady 0 0 .drained ∧
    (run (.switchStart 0 0) wDrainedIdle).heat.switches = [] := by decide +kernel
def wFree : State := heatWith (fun h => { h with switches := [] }) { wCaughtIdle with crews := [] }
def wSpec : JobSpec := { Launch.none.spec with job := 3, blocks := 1, crews := 1, scalarBytes := [0, 0, 0, 0], faultQueues := [(4, 64)] }
theorem witness_SwitchEvents_fresh :
    (wFree.partition 0).ready ∧ (wFree.partition 0).sprint = false ∧ wFree.heat.switches = [] ∧ wFree.outgoing 0 = none ∧
    wFree.crews = [] ∧ ((run (.freshStart 0 wSpec []) wFree).job 3).present := by decide +kernel
/-- A switch brings in job 1 fresh. -/
def wBrings : State := wSwitching (wSwitch true false false) .drained 0
theorem witness_SwitchEvents_brings :
    (wBrings.partition 0).ready ∧ wBrings.heat.switches.filter (fun v => v.part == 0) = [wSwitch true false false] ∧
    wBrings.phaseOf 0 = .drained ∧ (∃ x ∈ wBrings.heat.sheet, x.entry.seq = 7 ∧ x.entry.job.toNat = 1) ∧
    (run (.freshStart 0 { wSpec with job := 1 } []) wBrings).phaseOf 0 = .restored := by decide +kernel

/-! ## SprintEvents -/

/-- A grant of core 0 from 5000 to 6000 in the window of entry 7. -/
def wGrantOf (f : Grant → Grant) : Grant := let g := f ⟨5000, 1000, 3, 5, 262720, 0, 7, 0⟩; { g with crc := crc32c (grantBytes g) }
def wWindow : SheetEntry := ⟨wEntryOf 1 4000 7, [0], [0], false, false, false, false⟩
def wGranting : State :=
  heatWith (fun h => { h with sheet := [wWindow] }) { wSheet with mem := wSheet.mem.store .hbm (sheetBase + 262720) [1] }
def wGrantPut (g : Grant) : State := { wGranting with mem := wGranting.mem.store .hbm (sheetBase + 262656) (grantWire g) }
theorem witness_SprintEvents_grant :
    let g := wGrantOf id
    let late := wGrantOf fun g => { g with limit := 4000 }
    let susp := heatWith (fun h => { h with tsusp := true }) wGranting
    wGranting.windowOf g = some wWindow ∧ wGranting.windowOf { g with seq := 8 } = none ∧
    (wGrantPut g).claimed g [0] 0 = [0] ∧ (wGrantPut g).grantReason g wGranting.heat.time = none ∧
    (run (.sprintGrantRecord g) wGranting).heat.grants = [g] ∧ g.crc = crc32c (grantBytes g) ∧ g.res28 = 0 ∧
    wGranting.grantReason late 50 = some 1 ∧ (wGrantPut late).grantReason late wGranting.heat.time = some 1 ∧
    susp.grantReason g 50 = some 6 ∧
    (run (.sprintGrantRecord late) wGranting).heat.sent.length = 1 ∧
    (run (.sprintGrantRecord { g with seq := 8 }) wGranting).heat.sent.length = 1 ∧
    (wGrantPut { g with cmap := 263168 }).claimed { g with cmap := 263168 } [0] 0 = [] ∧
    (run (.sprintGrantRecord { g with cmap := 263168 }) wGranting).heat.grants = [] := by decide +kernel
def wAsking (starter : Nat) : State :=
  heatWith (fun h => { h with published := [⟨wEntryOf 1 50000 7, [0], [], false, false, []⟩], starter := starter }) wSheet
theorem witness_SprintEvents_request :
    let g := wGrantOf fun g => { g with gtime := 55000 }
    (wAsking 0).heat.published.find? (fun p => p.entry.kind == 1 && p.entry.heatno == g.heatno && p.entry.seq == g.seq) =
      some ⟨wEntryOf 1 50000 7, [0], [], false, false, []⟩ ∧
    (wAsking 0).heat.starter = (wAsking 0).fabric.peer ∧ (wAsking 0).heat.time.toNat + 40000 ≤ g.gtime.toNat ∧
    (∀ e ∈ (wAsking 0).heat.published, e.entry.kind = 1) ∧
    (run (.sprintRequest g) (wAsking 0)).heat.granted = [(7, 1)] ∧
    ((run (.sprintRequest g) (wAsking 0)).fabric.reqs.map Req.origin) = [4, 4] ∧
    (run (.sprintRequest g) (wAsking 1)).heat.granted = [] := by decide +kernel
/-- The sprint at a stage of core 0, with the job's crew there, and crew 1 of the sprint partition at the end. -/
def wSprint (stage : Nat) (part : Nat) (limit : DWord) : State :=
  let s := wGranting.updCore 0 fun c => { c with pinOwner := none, arrayOwner := none }
  let s := s.setCrewAt 0 { s.crewAt 0 with part := part }
  heatWith (fun h => { h with sprint := some ⟨wGrantOf id, [0], 0, limit, if stage = 0 then [] else [(0, stage)], [], []⟩ }) s
theorem witness_SprintEvents_phases :
    ((wSprint 0 0 6000).heat.sprint.map fun x => (x.cores.contains 0, x.stage 0)) = some (true, 0) ∧
    (0 : Nat) ∈ (wSprint 0 0 6000).plainParts ∧ ((wSprint 0 0 6000).crewAt 0).live ∧ ((wSprint 0 0 6000).crewAt 0).part = 0 ∧
    ((run (.sprintGrant 0) (wSprint 0 0 6000)).crewAt 0).caught ∧
    ((wSprint 1 0 6000).heat.sprint.map fun x => x.stage 0) = some 1 ∧
    ((run (.accumulatorDrain 0) (wSprint 1 0 6000)).core 0).pinOwner = some 1 ∧
    (wSprint 2 0 6000).sprintPart = some 1 ∧ (wSprint 2 0 6000).fabric.reqs = [] ∧
    (wSprint 2 0 6000).windowOf (wGrantOf id) = some wWindow ∧
    (run (.sprintStart 0) (wSprint 2 0 6000)).heat.running.length = 1 := by decide +kernel
theorem witness_SprintEvents_end :
    let s := wSprint 3 1 0
    let x : Sprint := ⟨wGrantOf id, [0], 0, 0, [(0, 3)], [], []⟩
    let t := { wSprint 3 0 0 with graphs := [] }
    s.heat.sprint = some x ∧ s.sprintPart = some 1 ∧ (0 : DWord) ≤ s.heat.time ∧ (s.crewAt 0).live ∧ (s.crewAt 0).part = 1 ∧
    ((run .sprintLimit s).crewAt 0).status = 0x03020000 ∧ t.sprintDone x 1 ∧ x.stage 0 = 3 ∧
    (run (.sprintEnd 0) t).heat.sprint = none := by decide +kernel

/-- A grant whose G has come, or not, and no sprint. -/
def wDue (t : DWord) : State := heatWith (fun h => { h with time := t, grants := [wGrantOf id] }) wGranting
theorem witness_SprintEvents_opens :
    (wDue 5000).heat.sprint = none ∧ nextGrant (wDue 5000).heat.grants = some (wGrantOf id) ∧
    (wGrantOf id).gtime.toNat ≤ (wDue 5000).heat.time.toNat ∧ (wDue 5000).windowOf (wGrantOf id) = some wWindow ∧
    (wDue 5000).claimed (wGrantOf id) [0] 0 = [0] ∧ ((run (.sprintGrant 0) (wDue 5000)).heat.sprint.map fun y => y.stage 0) = some 1 ∧
    (∀ g ∈ (wDue 4999).heat.grants, (wDue 4999).heat.time.toNat < g.gtime.toNat) ∧
    (run (.sprintGrant 0) (wDue 4999)).heat.sprint = none ∧
    ((run (.sprintGrant 1) (wSprint 0 0 6000)).heat.sprint.map fun y => y.stages) = some [] ∧
    ((run (.sprintGrant 0) (wSprint 2 0 6000)).heat.sprint.map fun y => y.stages) = some [(0, 2)] ∧
    ((run (.accumulatorDrain 0) (wSprint 2 0 6000)).heat.sprint.map fun y => y.stages) = some [(0, 2)] := by decide +kernel
/-- The pinned tiles belong to partition 0, which runs job 1, whose save area is given. -/
def wPins (stage : Nat) : State :=
  let s := (wSprint stage 0 0).updCore 0 fun c => { c with pinOwner := some 0, tile := none }
  let s := s.updJob 1 fun j => { j with present := true, part := 0 }
  heatWith (fun h => { h with
    saveAt := [(256, 1)], sprint := h.sprint.map fun x => { x with pins := [(0, 1)] } }) s
theorem witness_SprintEvents_pins :
    ((wPins 1).core 0).pinOwner = some 0 ∧ ((wPins 1).core 0).tile = none ∧ (wPins 1).outgoingAt 0 0 = some 1 ∧
    ((wPins 1).heat.sprint.map fun x => x.stage 0) = some 1 ∧ ((wPins 3).heat.sprint.map fun x => mapGet 0 x.pins 0) = some 1 ∧
    (0 : Nat) ∈ (wPins 3).plainParts ∧ (wPins 3).findTile 0 = none ∧ (wPins 3).outgoingAt 0 0 = some 1 := by decide +kernel
/-- A request of the caught crew is in flight. -/
def wCrewReq (t : DWord) (stage : Nat) (timer : Option DWord) : State :=
  let r : Req := ⟨9, ⟨kReadReq, 5, 0, 2, 9, 64, 0, 0, 4, 0, [], [], false⟩, 0, timer, false, false, 0, 0, 0, 0, 0⟩
  let s := wSprint stage 0 0
  let s := s.setCrewAt 0 { s.crewAt 0 with caught := true, reqs := [⟨0, 0, 9, 0, false, none, false⟩] }
  heatWith (fun h => { h with time := t, sprint := h.sprint.map fun x => { x with parked := if stage = 3 then [(9, 7)] else [] } })
    { s with fabric := { s.fabric with reqs := [r] }, graphs := [] }
theorem witness_SprintEvents_requests :
    (0 : Nat) ∈ (wCrewReq 0 2 (some 0)).plainParts ∧
    (∀ r ∈ (wCrewReq 0 2 (some 0)).fabric.reqs, (wCrewReq 0 2 (some 0)).reqOf 0 0 r) ∧
    ((run (.sprintStart 0) (wCrewReq 5599 2 (some 0))).heat.sprint.map fun y => y.stage 0) = some 2 ∧
    ((run (.sprintStart 0) (wCrewReq 5600 2 (some 0))).heat.sprint.map fun y => (y.stage 0, y.parked)) = some (3, [(9, 5600)]) ∧
    ((run (.sprintStart 0) (wCrewReq 5600 2 (some 0))).fabric.reqs.map Req.timer) = [none] ∧
    ((run (.sprintEnd 0) (wCrewReq 50 3 none)).fabric.reqs.map Req.timer) = [some 43] ∧
    ((run (.sprintStart 0) (wSprint 1 0 0)).heat.sprint.map fun y => y.stage 0) = some 1 ∧
    ((run .sprintLimit (wSprint 3 1 51)).crewAt 0).live ∧
    ((run (.sprintEnd 0) (wSprint 2 0 0)).heat.sprint.map fun y => y.stage 0) = some 2 := by decide +kernel
/-- The sprint heat runs already; core 1 is claimed too. -/
def wRunsOn : State := heatWith (fun h => { h with running := [{ wRun with part := 1 }] }) (wSprint 2 0 6000)
def wTwoCores : State :=
  heatWith (fun h => { h with sprint := h.sprint.map fun x => { x with cores := [0, 1], stages := [(0, 3), (1, 3)] } })
    { wSprint 3 0 0 with graphs := [] }
theorem witness_SprintEvents_others :
    wRunsOn.sprintPart = some 1 ∧ (∃ r ∈ wRunsOn.heat.running, r.part = 1) ∧
    (run (.sprintStart 0) wRunsOn).heat.running.length = 1 ∧ wTwoCores.sprintPart = some 1 ∧
    (wTwoCores.heat.sprint.map fun x => (wTwoCores.sprintDone x 1, x.stage 0, x.stage 1)) = some (true, 3, 3) ∧
    ((run (.sprintEnd 0) wTwoCores).heat.sprint.map fun y => y.stage 0) = some 4 := by decide +kernel

/-! ## PartitionEvents -/

def wPaged : State := paged ((base (words 8) id).updJob 1 fun j => { j with present := true, part := 0 })
def wQuota : QuotaSpec := ⟨5, 0, 0, 4096, 0, 1⟩
def wMaking : State := { State.reset with boot := { State.reset.boot with stage := 8 }, mem := State.reset.mem.store .bmem (bmemBase 5) [7] }
theorem witness_PartitionEvents :
    ((wPaged.jobs.filter fun j => j.2.present && j.2.part == 0).map Prod.fst) = [1] ∧
    (wPaged.walk 0 (wPaged.job 1).troot 4096).isSome ∧ (run (.translationWalk 0 4096) wPaged).tlb.length = 4 ∧
    (run (.translationInvalidate 0 (some 0) 0 8192) (after (execTranslationWalk 0 4096 wPaged))).tlb = [] ∧
    wMaking.partSound 2 ⟨false, [wQuota], [3]⟩ ∧
    completes (.partitionCreate 2 ⟨false, [wQuota], [3]⟩) wMaking ∧
    wMaking.partSound 16 ⟨false, [wQuota], [3]⟩ = false ∧ (run (.partitionCreate 16 ⟨false, [wQuota], [3]⟩) wMaking).parts = [] ∧
    wPaged.walks = [] ∧ (wPaged.partition 1).ready = false ∧ (run (.partitionTakedown 1) wPaged).parts = wPaged.parts ∧
    wPaged.quota 1 0 = none ∧ ((run (.arrayAssign 0 1) wPaged).core 0).arrayOwner ≠ some 1 ∧
    (run (.translationInvalidate 0 none 0 0) (after (execTranslationWalk 0 4096 wPaged))).tlb = [] ∧
    (wPaged.partition 0).ready ∧ (wPaged.crewAt 0).live ∧ (wPaged.crewAt 0).part = 0 ∧
    ((run (.partitionTakedown 0) wPaged).crewAt 0).status = 0x06000000 ∧
    wPaged.quota 0 0 ≠ none ∧ ((run (.arrayAssign 0 0) wPaged).core 0).arrayOwner = some 0 ∧
    ((run (.arrayAssign 0 16) wPaged).core 0).arrayOwner = none ∧
    ((run (.pinnedTileAssign 0 0) wPaged).core 0).pinOwner = some 0 ∧
    ((run (.pinnedTileAssign 0 16) wPaged).core 0).pinOwner = none := by decide +kernel

/-! ## CheckpointEvents -/

/-- Job 1 of partition 0 is copied, one unit of 64 bytes left at offset 0. -/
def wCopyOf : Copying := ⟨1, 0, 4, 0, 0, [], [(0, 64)], []⟩
def wCkpt (t : DWord) (w : List (Nat × Nat × DWord)) : State :=
  heatWith (fun h => { h with time := t }) { wPaged with ckpt := { Checkpoint.reset with copying := [wCopyOf], waiting := w } }
theorem witness_CheckpointEvents_copy :
    ((wCkpt 5 []).uncopied 0 0) = [(0, 64)] ∧ ((wCkpt 5 []).uncopied 0 4096) = [] ∧ wCopyOf.leaves = [] ∧
    (wCkpt 5 []).ckpt.copying.filter (fun x => x.part == 0) = [wCopyOf] ∧
    ((run (.copyOnWrite 0 0) (wCkpt 5 [])).ckpt.copying.map fun c => c.done.map UnitCopy.off) = [[0]] ∧
    (run (.copyOnWrite 0 4096) (wCkpt 5 [])).ckpt = (wCkpt 5 []).ckpt ∧
    (∀ u ∈ (wCkpt 2000 [(0, 0, 0)]).uncopied 0 0, ∃ w ∈ (wCkpt 2000 [(0, 0, 0)]).ckpt.waiting,
      w.1 = 0 ∧ w.2.1 = u.1 ∧ w.2.2.toNat + 2000 ≤ 2000) ∧
    (run (.copyOnWriteTimeout 0 0) (wCkpt 2000 [(0, 0, 0)])).ckpt.waiting = [] ∧
    (∀ w ∈ (wCkpt 1999 [(0, 0, 0)]).ckpt.waiting, 1999 < w.2.2.toNat + 2000) ∧
    (run (.copyOnWriteTimeout 0 0) (wCkpt 1999 [(0, 0, 0)])).ckpt.waiting = [(0, 0, 0)] := by decide +kernel
theorem witness_CheckpointEvents_end :
    (wCkpt 5 []).copyOf 1 = some wCopyOf ∧ (wCkpt 5 []).ckpt.copying.filter (fun x => x.job == 1) = [wCopyOf] ∧
    (wCkpt 5 []).copyOf 2 = none ∧ (run (.checkpointComplete 2) (wCkpt 5 [])).ckpt.copying = [wCopyOf] ∧
    (run (.checkpointComplete 1) (wCkpt 5 [])).ckpt.shards.length = 1 ∧
    (run (.checkpointTimeout 1) (wCkpt 5 [])).ckpt.copying = [wCopyOf] ∧
    (run (.checkpointTimeout 1) (wCkpt 1000000000 [])).ckpt.copying = [] ∧
    (run (.checkpointComplete 1) (wCkpt 1000000000 [])).ckpt.copying = [wCopyOf] ∧
    (run (.checkpointFail 1 3) (wCkpt 5 [])).ckpt.copying = [] ∧
    (run (.checkpointFail 1 4) (wCkpt 5 [])).ckpt.copying = [wCopyOf] := by decide +kernel
/-- A kept step 4 of job 1 with its mark and one record since. -/
def wShard : Shard := ⟨shardHeader 1 4 0 64 [] 1, 1, 4, 0, 64, [], 0⟩
def wKept (log : List LogRecord) : State :=
  let s := { wPaged with crews := [], jobs := [(1, { wPaged.job 1 with present := false })] }
  { s with ckpt := { Checkpoint.reset with shards := [wShard], log := log } }
def wRecord (die : Nat) (kind : BitVec 8) : LogRecord := ⟨die, 1, 3, 0, 4, 0x3B, kind, 0, 5, 0⟩
def wLogged : State := wKept (((List.range 4).map fun d => wRecord d 4) ++ [wRecord 0 1])
theorem witness_CheckpointEvents_restore :
    (wKept []).soundSteps 1 = [4] ∧ newestStep [(4 : Word)] = some 4 ∧ ((wKept []).kept 1).find? (fun x => x.step == 4) = some wShard ∧
    (wKept []).takesShard 0 wShard ∧ ((run (.restore 1 0 []) (wKept [])).job 1).restored ∧
    (run (.restore 1 0 [(3, [5])]) (wKept [])).ckpt.reports = [(0, [4]), (3, [5])] := by decide +kernel
theorem witness_CheckpointEvents_replay :
    wLogged.sinceMark 1 4 = some [wRecord 0 1] ∧ wLogged.newestShard 1 (fun _ => true) = some wShard ∧ wLogged.takesShard 0 wShard ∧
    (run (.replay 1 0) wLogged).ckpt.replay = some (1, [wRecord 0 1]) ∧
    wLogged.newestShard 1 (wLogged.markedBefore 9) = some wShard ∧ (wLogged.job 1).part = 0 ∧
    (run (.stepBack 1 2 9) wLogged).ckpt.stepBack = some (2, 9) ∧
    (wKept []).newestShard 1 (fun _ => true) = some wShard ∧ (wKept []).sinceMark 1 4 = none ∧
    (run (.replay 1 0) (wKept [])).ckpt.replay = none := by decide +kernel

/-- The step's shard holds a unit of two bytes at offset 64 of a partition of one channel set. -/
def wUnits : Shard := ⟨shardHeader 1 4 0 64 [⟨64, [7, 8], []⟩] 1, 1, 4, 0, 64, [⟨64, [7, 8], []⟩], 0⟩
def wFilled : State := { wKept [] with ckpt := { (wKept []).ckpt with shards := [wUnits] } }
theorem witness_CheckpointEvents_refused :
    (wKept []).takesShard 1 wShard = false ∧ ((run (.restore 1 1 []) (wKept [])).job 1).restored = false ∧
    wLogged.takesShard 1 wShard = false ∧ (run (.replay 1 1) wLogged).ckpt.replay = none ∧
    wLogged.newestShard 2 (fun _ => true) = none ∧ (run (.replay 2 0) wLogged).ckpt.replay = none ∧
    wLogged.newestShard 1 (wLogged.markedBefore 2) = none ∧ (run (.stepBack 1 2 2) wLogged).ckpt.stepBack = none ∧
    (wKept []).newestShard 2 ((wKept []).markedBefore 9) = none := by decide +kernel
theorem witness_CheckpointEvents_bytes :
    wFilled.soundSteps 1 = [4] ∧ (wFilled.kept 1).find? (fun x => x.step == 4) = some wUnits ∧ wFilled.takesShard 0 wUnits ∧ (wFilled.partition 0).channels.Nodup ∧
    wFilled.boot.band ≤ 2 ^ 31 ∧ 64 + 2 ≤ wFilled.capacity 0 ∧ wFilled.ckpt.copying = [] ∧
    (run (.restore 1 0 []) wFilled).mem.byte .hbm (wFilled.hbmKey 0 65) = 8 := by decide +kernel

/-! ## StartEvents and PowerEvents -/

def wBoot (f : Boot → Boot) : State := { State.reset with boot := f State.reset.boot }
theorem witness_StartEvents_sequence :
    let frozen := wBoot fun b => { b with frozen := true, debugFuse := true }
    let last := wBoot fun b => { b with stage := 7, failcnt := 2 }
    frozen.boot.frozen ∧ frozen.boot.debugFuse ∧ (run (.tapRead 29 0) (heatWith (fun h => { h with time := 9 }) frozen)).boot.tap = 9 ∧
    (run (.tapRead 29 0) (wBoot fun b => { b with frozen := true, debugFuse := false, tap := 3 })).boot.tap = 0 ∧
    (run (.coldReset 0) frozen).boot.bootrsn.extractLsb' 0 4 = 5 ∧
    State.reset.boot.stage = 1 ∧ State.reset.boot.minimal = false ∧ State.reset.boot.upTime ≤ 5000000 ∧
    (run .stageComplete State.reset).boot.stage = 2 ∧ last.boot.stage = 7 ∧ (run .stageComplete last).boot.failcnt = 0 ∧
    (run (.stageFailure 9) State.reset).boot.bootrsn.extractLsb' 12 8 = 9 ∧
    (wBoot fun b => { b with stage := 4 }).boot.stage = 4 ∧ (wBoot fun b => { b with stage := 6 }).boot.stage = 6 := by decide +kernel
theorem witness_StartEvents_stops :
    let started := wBoot fun b => { b with stage := 8 }
    let late := wBoot fun b => { b with upTime := 5000001 }
    (run .stageComplete started).boot.stage = 8 ∧ (run (.stageFailure 9) started).boot.stage = 8 ∧
    (run .stageComplete late).boot.stage = 1 ∧ (run (.stageFailure 9) late).boot.bootrsn.extractLsb' 0 4 = 2 ∧
    (wBoot fun b => { b with stage := 6, upTime := 20000000000 }).boot.upTime ≤ 20000 * 1000000 := by decide +kernel
/-- A pending write of a fibre group's WTHR, and of RTHR. -/
def wPending (n reg : Nat) (v : Word) : State := wBoot fun b => { b with blocks := [(n, ⟨16, [], [(reg, v)]⟩)] }
theorem witness_StartEvents_effect :
    ((wPending 1027 0 9).boot.block 1027).pending = [(0, 9)] ∧
    ((run (.expertWriteEffect 1027) (wPending 1027 0 9)).fibreGroup 3).wthr = 9 ∧
    ((run (.expertWriteEffect 1027) (wPending 1027 1 3200)).fibreGroup 3).fhold = 3200 ∧
    ((run (.expertWriteEffect 1027) (wPending 1027 2 4)).fibreGroup 3).fmin = 4 ∧
    (run (.expertWriteEffect 1088) (wPending 1088 0 77)).fabric.rthr = 77 ∧
    ((wPending 1027 0 9).boot.block 3).pending = [] := by decide +kernel
theorem witness_StartEvents_trust :
    (run (.measurementExtend 15 1) State.reset).boot.measure 15 ≠ 0 ∧ (run (.measurementExtend 15 1) State.reset).boot.measure 14 = 0 ∧
    completes (.attestationReport 7) State.reset ∧
    ((run (.basicRegisterWrite 3 0xFFFFFF3F) State.reset).boot.block 3).basic = 0x1F ∧
    ((run (.basicRegisterWrite 3 16) State.reset).boot.block 3).basic.getLsbD 4 ∧
    ((run (.expertRegisterWrite 3 8 77) (after (execBasicRegisterWrite 3 16 State.reset))).boot.block 3).readExpert 3 8 = 77 ∧
    (State.reset.boot.block 3).basic.getLsbD 4 = false := by decide +kernel
def wExport : State := { State.reset with parts := [(2, ⟨true, false, [], [3]⟩)] }
theorem witness_StartEvents_host :
    (wExport.partition 2).ready ∧ (wExport.partition 2).quotas = [] ∧ 4 + [1, 2].length ≤ wExport.capacity 2 ∧
    wExport.ckpt.copying = [] ∧
    (run (.cxlMemAccess 2 false 4 [0, 0]) (after (execCxlMemAccess 2 true 4 [1, 2] wExport))).boot.cxlData = [1, 2] := by
  decide +kernel
theorem witness_PowerEvents_levels :
    (1200 : Nat) ∈ [2000, 1800, 1600, 1400, 1200] ∧ (run (.islandLevelChange 511 1200) State.reset).boot.level 511 = 1200 ∧
    (run (.islandLevelChange 0 1200) (wBoot fun b => { b with raised := [0] })).boot.level 0 = 2000 ∧
    wStood.startComes 0 ∧ (run (.preStartRaise 0) wStood).boot.raised = [0] ∧
    1000 ≤ (wBoot fun b => { b with overload := 1000 }).boot.overload ∧
    (run .powerTrip (wBoot fun b => { b with overload := 1000 })).boot.bootrsn.extractLsb' 0 4 = 4 := by decide +kernel
/-- All islands but core 0's at the lowest level, the energy of the window already above the limit. -/
def wHot : State := wBoot fun b =>
  { b with levels := (List.range 511).map fun i => (i + 1, 1200), samples := 1, energy := 7600001, upTime := 2000 }
/-- Every island at the lowest level. -/
def wCold : State := wBoot fun b => { b with levels := (List.range 512).map fun i => (i, 1200), upTime := 1000 }
theorem witness_PowerEvents_sample :
    1000 * (wHot.boot.samples + 1) ≤ wHot.boot.upTime ∧ wHot.boot.level 0 = 2000 ∧ wHot.boot.raised = [] ∧
    wHot.boot.window = [] ∧ 3800000 * 1 < wHot.boot.energy + wHot.boot.modulePower :=
  ⟨by decide +kernel, by decide +kernel, rfl, rfl, Nat.lt_of_lt_of_le (by decide +kernel) (Nat.le_add_right _ _)⟩
theorem witness_PowerEvents_lowest :
    1000 * (wCold.boot.samples + 1) ≤ wCold.boot.upTime ∧ (∀ i < 512, ¬1200 < wCold.boot.level i) ∧
    ¬1000 * (State.reset.boot.samples + 1) ≤ State.reset.boot.upTime ∧
    (run .powerSample State.reset).boot.samples = 0 ∧ State.reset.boot.overload < 1000 ∧
    (run .powerTrip State.reset).boot.failcnt = State.reset.boot.failcnt ∧
    State.reset.startComes 0 = false ∧ (run (.preStartRaise 0) State.reset).boot.raised = [] ∧
    (run (.islandLevelChange 304 1200) State.reset).boot.level 304 = 2000 := by decide +kernel

end Sys2Proof.Tests
end

section
/-! Every step keeps the canonical form of the memories (O57; log entry 3). The functions of the model are taken in the
order of their files, callees first: a lemma `f_mem` says that `f` leaves the memories as they are, a lemma `f_wf` that
it keeps their canonical form. Most are an unfolding of the function with the lemmas of its callees, named at each
place; where a function runs over lists, the fold's lemma is named too. -/

namespace Sys2Proof.Machine

/-- The memories of the next state, where a result answers one, are in canonical form. -/
def WfResult : Result → Prop
  | .next t => t.mem.wf
  | _ => True

/-- The same for the state that a lane body answers. -/
def WfAct : Act → Prop
  | .ok t => t.mem.wf
  | _ => True

/-- A lane body that keeps the canonical form. -/
def WfBody (b : Body) : Prop := ∀ x s, s.mem.wf → WfAct (b x s)

theorem foldl_mem {α : Type} {f : State → α → State} (hf : ∀ t x, (f t x).mem = t.mem) {l : List α} {s : State} :
    (l.foldl f s).mem = s.mem := by
  induction l generalizing s with
  | nil => rfl
  | cons x l ih => rw [List.foldl_cons, ih, hf]

theorem foldl_wf {α : Type} {f : State → α → State} (hf : ∀ t x, t.mem.wf → (f t x).mem.wf) {l : List α} {s : State}
    (h : s.mem.wf) : (l.foldl f s).mem.wf :=
  foldl_keeps (fun t : State => t.mem.wf) f l s (fun t x _ => hf t x) h

theorem wf_ite {c : Prop} [Decidable c] {a b : State} (ha : a.mem.wf) (hb : b.mem.wf) :
    (if c then a else b).mem.wf := by
  split
  · exact ha
  · exact hb

theorem wfResult_ite {c : Prop} [Decidable c] {a b : Result} (ha : WfResult a) (hb : WfResult b) :
    WfResult (if c then a else b) := by
  split
  · exact ha
  · exact hb

/-! ## The operations that instructions share -/

@[simp] theorem State.doneSync_mem (s : State) (clk : DWord) : (s.doneSync clk).mem = s.mem := rfl

theorem State.drainAt_wf {s : State} (slot : Nat) (h : s.mem.wf) : (s.drainAt slot).mem.wf := State.drainIf_wf _ _ h

theorem State.drainGranule_wf {s : State} (slot : Nat) (spad : Bool) (a : Nat) (h : s.mem.wf) :
    (s.drainGranule slot spad a).mem.wf := State.drainIf_wf _ _ h

@[simp] theorem State.enqueue_mem (s : State) (k q : Nat) (e : QEntry) : (s.enqueue k q e).1.mem = s.mem := rfl

@[simp] theorem State.choose_mem (s : State) : (s.choose).2.mem = s.mem := rfl

@[simp] theorem State.rotate_mem (s : State) : s.rotate.mem = s.mem := by
  unfold State.rotate
  dsimp only
  split <;> simp

@[simp] theorem State.logPut_mem (s : State) (r : LogRecord) : (s.logPut r).mem = s.mem := rfl

@[simp] theorem State.logOp_mem (s : State) (r : LogRecord) : (s.logOp r).mem = s.mem := by
  grind [State.logOp, State.logPut_mem]

@[simp] theorem State.extern_mem (s : State) (opc : Nat) (v : DWord) : (s.extern opc v).2.mem = s.mem := by
  unfold State.extern
  split <;> simp

@[simp] theorem State.nodeLoses_mem (s : State) (c : Crew) (status : Word) : (s.nodeLoses c status).mem = s.mem := rfl

theorem State.illegal_wf {s : State} (field value : Nat) (h : s.mem.wf) : (s.illegal field value).mem.wf :=
  State.raise_wf _ _ _ _ h

@[simp] theorem State.returnFromTrap_mem (s : State) : s.returnFromTrap.mem = s.mem := rfl

/-! ## Translation of addresses (R402 to R407) -/

@[simp] theorem State.fillTlb_mem (s : State) (cache part troot : Nat) (p : Page) :
    (s.fillTlb cache part troot p).mem = s.mem := rfl

@[simp] theorem State.walkEntry_mem (s : State) (die part troot at' : Nat) :
    (s.walkEntry die part troot at').1.mem = s.mem := by
  unfold State.walkEntry
  split <;> rfl

@[simp] theorem State.noteWalk_mem (s : State) (w : WalkEntry) : (s.noteWalk w).mem = s.mem := rfl

@[simp] theorem State.walkIn_mem (s : State) (die part troot va n t : Nat) :
    (s.walkIn die part troot va n t).1.mem = s.mem := by
  induction n generalizing s t with
  | zero => rfl
  | succ n ih => grind [State.walkIn, State.walkEntry_mem, State.noteWalk_mem]

@[simp] theorem State.dieWalk_mem (s : State) (die part troot va : Nat) :
    (s.dieWalk die part troot va).1.mem = s.mem := by
  unfold State.dieWalk
  split <;> simp

@[simp] theorem State.translate_mem (s : State) (cache part troot va : Nat) (r w : Bool) :
    (s.translate cache part troot va r w).1.mem = s.mem := by
  grind [State.translate, State.choose_mem, State.dieWalk_mem, State.fillTlb_mem]

theorem execTranslationWalk_wf {s : State} (part : Nat) (va : DWord) (h : s.mem.wf) :
    WfResult (execTranslationWalk part va s) := by
  refine foldl_wf (fun s troot hs => foldl_wf (fun s d hs => ?_) hs) h
  have hw := State.dieWalk_mem s d part troot va.toNat
  grind [State.fillTlb_mem]

/-! ## Operands, lane bodies and the run of a lane instruction -/

@[simp] theorem State.ensureHead_mem (s : State) (op : BitVec 8) (f : LaneFields) :
    (s.ensureHead op f).mem = s.mem := by
  unfold State.ensureHead
  split <;> rfl

theorem State.laneBody_wf {s : State} {body : Body} (hb : WfBody body) (x : Ctx) (h : s.mem.wf) :
    WfResult (s.laneBody body x) := by
  have hx := hb x (s.updCrew x.takeDraws) h
  unfold State.laneBody
  split
  · exact State.takeTrap_wf _ _ _ h
  · exact h
  · next t ht => exact (ht ▸ hx : WfAct (.ok t))

theorem laneRun_wf {shape : LaneFields → Shape} {body : Body} (hb : WfBody body) {f : LaneFields} {s : State}
    (h : s.mem.wf) : WfResult (laneRun shape body f s) := by
  have he : (s.ensureHead (shape f).op f).mem.wf := State.ensureHead_mem s _ f ▸ h
  unfold laneRun
  dsimp only
  split
  · exact he
  · split
    · exact State.takeTrap_wf _ _ _ he
    · exact he
    · exact State.laneBody_wf hb _ he

theorem Ctx.finish_wf {s : State} (x : Ctx) (g : Nat → LaneRes) (h : s.mem.wf) : WfAct (Ctx.finish x g s) := h

theorem perLane_wf (g : Ctx → Nat → DWord → DWord → DWord → DWord × Flags) : WfBody (perLane g) := fun _ _ hs => hs

theorem plainLane_wf (g : Ctx → Nat → DWord → DWord → DWord → DWord) : WfBody (plainLane g) := perLane_wf _

theorem predLane_wf (n : Nat) (g : Ctx → Nat → DWord → DWord → DWord → DWord × Bool × Flags) :
    WfBody (predLane n g) := by
  intro x s hs
  unfold predLane
  dsimp only
  split
  · trivial
  · exact hs

theorem floatLane_wf (g : FloatFmt → Rnd → Nat → Nat → Nat → Nat × Flags) : WfBody (floatLane g) := perLane_wf _

theorem intLane_wf (g : IntTy → Int → Int → Int → Int) : WfBody (intLane g) := by
  unfold intLane
  exact plainLane_wf _

/-! ## Lane memory instructions -/

theorem loadBody_wf (spad : Bool) (ea : Ctx → Nat → Int) : WfBody (loadBody spad ea) := by
  intro x s hs
  grind [loadBody, WfAct, Ctx.finish, State.updCrew_mem]

theorem State.storeLanes_wf {s : State} (spad : Bool) (n : Nat) (l : List (Nat × DWord)) (h : s.mem.wf) :
    (s.storeLanes spad n l).mem.wf := by
  induction l generalizing s with
  | nil => exact h
  | cons x l ih => exact ih (State.windowStore_wf _ _ _ _ h)

theorem storeBody_wf (spad : Bool) (ea : Ctx → Nat → Int) : WfBody (storeBody spad ea) := by
  intro x s hs
  grind [storeBody, WfAct, State.storeLanes_wf]

theorem rowBody_wf {b : Body} (hb : WfBody b) : WfBody (rowBody b) := by
  intro x s hs
  unfold rowBody
  split
  · trivial
  · split
    · trivial
    · exact hb x s hs

theorem execLdsr_wf {s : State} (f : LaneFields) (h : s.mem.wf) : WfResult (execLdsr f s) := by
  grind [execLdsr, laneRun_wf, loadBody_wf, rowBody_wf, WfResult]

theorem execStsr_wf {s : State} (f : LaneFields) (h : s.mem.wf) : WfResult (execStsr f s) := by
  refine laneRun_wf (fun x t ht => ?_) h
  split
  · trivial
  · exact rowBody_wf (storeBody_wf _ _) x t ht

theorem execLdsb_wf {s : State} (f : LaneFields) (h : s.mem.wf) : WfResult (execLdsb f s) := by
  refine laneRun_wf (fun x t ht => ?_) h
  grind [WfAct, Ctx.finish, State.updCrew_mem]

theorem State.drainFrame_wf {s : State} (spp : Nat) (h : s.mem.wf) : (s.drainFrame spp).mem.wf :=
  State.drainIf_wf _ _ h

theorem Mem.pushSlot_wf {m : Mem} (a : Nat) (v : DWord) (poison : Bool) (h : m.wf) : (m.pushSlot a v poison).wf := by
  grind [Mem.pushSlot, Mem.storeNat_wf]

theorem execPushv_wf {s : State} (f : LaneFields) (h : s.mem.wf) : WfResult (execPushv f s) := by
  refine laneRun_wf (fun x t ht => ?_) h
  split
  · trivial
  · exact foldl_keeps Mem.wf _ _ _ (fun _ _ _ hm => Mem.pushSlot_wf _ _ _ hm) (State.drainFrame_wf _ ht)

theorem execPopv_wf {s : State} (f : LaneFields) (h : s.mem.wf) : WfResult (execPopv f s) := by
  refine laneRun_wf (fun x t ht => ?_) h
  grind [State.updCrew_mem, State.drainFrame_wf, WfAct, Ctx.finish]

theorem State.atomLane_wf {s : State} (o : AtomOp) (h : s.mem.wf) : (s.atomLane o).1.mem.wf := by
  grind [State.atomLane, Mem.storeNat_wf, State.drainGranule_wf]

theorem State.bufferLane_wf {s : State} (o : AtomOp) (h : s.mem.wf) : (s.bufferLane o).1.mem.wf := by
  grind [State.bufferLane, State.updCrew_mem, State.drainGranule_wf]

theorem State.atomLanes_wf {s : State} (opc : Nat) (det : Bool) (l : List AtomOp) (h : s.mem.wf) :
    (s.atomLanes opc det l).1.mem.wf := by
  induction l generalizing s with
  | nil => exact h
  | cons o l ih =>
    unfold State.atomLanes
    refine ih ?_
    split
    · exact State.bufferLane_wf _ (State.logOp_mem s _ ▸ h)
    · exact State.atomLane_wf _ (State.logOp_mem s _ ▸ h)

theorem atomBody_wf (spad cas : Bool) : WfBody (atomBody spad cas) := by
  intro x s hs
  grind [atomBody, WfAct, Ctx.finish, State.updCrew_mem, State.atomLanes_wf]

theorem State.storeRun_wf {s : State} (a n : Nat) (bs : List Byte) (h : s.mem.wf) : (s.storeRun a n bs).mem.wf := by
  induction n generalizing s a bs with
  | zero => exact h
  | succ n ih =>
    unfold State.storeRun
    split
    · exact h
    · exact ih _ _ (State.windowStore_wf _ _ _ _ h)

theorem execLsav_wf {s : State} (f : LaneFields) (h : s.mem.wf) : WfResult (execLsav f s) := by
  refine laneRun_wf (fun x t ht => ?_) h
  grind [State.storeRun_wf, WfAct, Ctx.finish, State.updCrew_mem]

theorem execLrst_wf {s : State} (f : LaneFields) (h : s.mem.wf) : WfResult (execLrst f s) := by
  refine laneRun_wf (fun x t ht => ?_) h
  grind [State.updCrew_mem, WfAct, Ctx.finish]

/-! ## Lane moves and permutations -/

theorem execSelLane_wf {s : State} (f : LaneFields) (h : s.mem.wf) : WfResult (execSelLane f s) := by
  refine laneRun_wf (fun x t ht => ?_) h
  grind [WfAct, Ctx.finish, State.updCrew_mem]

theorem execLdc_wf {s : State} (f : LaneFields) (h : s.mem.wf) : WfResult (execLdc f s) := by
  refine laneRun_wf (fun x t ht => ?_) h
  grind [WfAct, Ctx.finish, State.updCrew_mem]

theorem execPmov_wf {s : State} (f : LaneFields) (h : s.mem.wf) : WfResult (execPmov f s) := by
  refine laneRun_wf (fun x t ht => ?_) h
  grind [State.updCrew_mem, WfAct, Ctx.finish]

theorem execShfl_wf {s : State} (f : LaneFields) (h : s.mem.wf) : WfResult (execShfl f s) := by
  refine laneRun_wf (fun x t ht => ?_) h
  grind [WfAct, Ctx.finish, State.updCrew_mem]

theorem fromLowest_wf (g : Nat → Nat → Int) : WfBody (fromLowest g) := by
  intro x s hs
  unfold fromLowest
  split
  · exact hs
  · split
    · trivial
    · exact hs

theorem execVote_wf {s : State} (f : LaneFields) (h : s.mem.wf) : WfResult (execVote f s) := by
  refine laneRun_wf (fun x t ht => ?_) h
  grind [State.updCrew_mem, WfAct, Ctx.finish]

theorem execPlop_wf {s : State} (f : LaneFields) (h : s.mem.wf) : WfResult (execPlop f s) := by
  refine laneRun_wf (fun x t ht => ?_) h
  grind [State.updCrew_mem, WfAct, Ctx.finish]

/-! ## Scalar memory instructions and tables -/

theorem State.rangeRaise_wf {s : State} (a : Word) (h : s.mem.wf) : (s.rangeRaise a).mem.wf :=
  State.raise_wf _ _ _ _ h

theorem State.poisonRaise_wf {s : State} (addr : Word) (h : s.mem.wf) : (s.poisonRaise addr).mem.wf :=
  State.raise_wf _ _ _ _ h

theorem execSld_wf {s : State} (d a : RegNo) (i : BitVec 16) (h : s.mem.wf) : WfResult (execSld d a i s) := by
  grind [execSld, State.stay_mem, State.write_mem, State.rangeRaise_wf, State.poisonRaise_wf, WfResult]

theorem execSst_wf {s : State} (d a : RegNo) (i : BitVec 16) (h : s.mem.wf) : WfResult (execSst d a i s) := by
  grind [execSst, State.done_mem, State.stay_mem, State.rangeRaise_wf, State.windowStore_wf, WfResult]

theorem execSatm_wf {s : State} (d a b : RegNo) (sc w o : BitVec 3) (h : s.mem.wf) :
    WfResult (execSatm d a b sc w o s) := by
  unfold execSatm
  extract_lets fn det cas c ea n
  clear_value fn det cas c ea n
  repeat' apply wfResult_ite
  · exact State.illegal_wf _ _ h
  · exact State.illegal_wf _ _ h
  · exact State.raise_wf _ _ _ _ h
  · exact h
  · exact h
  · split
    · exact State.raise_wf _ _ _ _ h
    · next p _ =>
      extract_lets record ready s1 s2 op r
      have h1 : s1.mem.wf := wf_ite (State.drainIf_wf _ _ h) h
      have h2 : s2.mem.wf := State.logOp_mem s1 record ▸ h1
      have hr : r.1.mem.wf := by
        simp only [r]
        split
        · exact State.bufferLane_wf _ h2
        · exact State.atomLane_wf _ h2
      repeat' apply wfResult_ite
      · exact h1
      · exact State.poisonRaise_wf _ h1
      · exact hr

@[simp] theorem State.lrunOn_mem (s : State) (n : Nat) : (s.lrunOn n).mem = s.mem := by
  unfold State.lrunOn
  dsimp only
  split <;> simp

theorem execLrun_wf {s : State} (a : RegNo) (n : BitVec 16) (h : s.mem.wf) : WfResult (execLrun a n s) := by
  grind [execLrun, State.illegal_wf, State.lrunOn_mem, WfResult]

theorem execLjmp_wf {s : State} (o : BitVec 26) (h : s.mem.wf) : WfResult (execLjmp o s) := by
  grind [execLjmp, State.done_mem, State.illegal_wf, State.updSplit_mem, WfResult]

theorem execMovmRead_wf {s : State} (d : RegNo) (b : BitVec 2) (h : s.mem.wf) : WfResult (execMovmRead d b s) := by
  grind [execMovmRead, State.illegal_wf, State.write_mem, WfResult]

theorem execMovmWrite_wf {s : State} (a : RegNo) (b : BitVec 2) (h : s.mem.wf) : WfResult (execMovmWrite a b s) := by
  grind [execMovmWrite, State.done_mem, State.illegal_wf, State.updSplit_mem, WfResult]

theorem execMovmPred_wf {s : State} (d : RegNo) (n : BitVec 4) (b : BitVec 2) (h : s.mem.wf) :
    WfResult (execMovmPred d n b s) := by
  grind [execMovmPred, State.illegal_wf, State.stay_mem, State.write_mem, WfResult]

theorem execFmts_wf {s : State} (d a : RegNo) (h : s.mem.wf) : WfResult (execFmts d a s) := by
  grind [execFmts, State.raise_wf, State.updSplit_mem, State.write_mem, WfResult]

theorem execRdrd_wf {s : State} (d a : RegNo) (h : s.mem.wf) : WfResult (execRdrd d a s) := by
  grind [execRdrd, State.done_mem, State.raise_wf, State.illegal_wf, State.stay_mem, State.poisonRaise_wf,
    State.setSpair_mem, WfResult]

theorem execFxck_wf {s : State} (m : BitVec 6) (h : s.mem.wf) : WfResult (execFxck m s) := by
  grind [execFxck, State.done_mem, State.raise_wf, State.stay_mem, WfResult]

/-! ## Barriers, synchronisation objects and fences -/

theorem State.divergent_wf {s : State} (h : s.mem.wf) : s.divergent.mem.wf := State.raise_wf _ _ _ _ h

@[simp] theorem State.begins_mem (s : State) (p : Crew → Bool) (spans : Bool) : (s.begins p spans).2.mem = s.mem := by
  unfold State.begins
  split <;> rfl

@[simp] theorem State.syncWait_mem (s : State) (w : Wait) : (s.syncWait w).mem = s.mem := rfl

@[simp] theorem State.arriveBar_mem (s : State) (i : Nat) : (s.arriveBar i).mem = s.mem := by
  grind [State.arriveBar, State.updLaunch_mem, State.updSplit_mem, State.logOp_mem]

theorem State.passBar_wf {s : State} (i : Nat) (g : Word) (h : s.mem.wf) : (s.passBar i g).mem.wf := by
  grind [State.passBar, State.barrierCheck_wf, State.updSplit_mem, State.doneSync_mem, State.syncWait_mem]

theorem execBar_wf {s : State} (n : BitVec 2) (h : s.mem.wf) : WfResult (execBar n s) := by
  grind [execBar, State.raise_wf, State.stay_mem, State.drain_wf, State.syncWait_mem, State.passBar_wf,
    State.divergent_wf, State.begins_mem, State.arriveBar_mem, WfResult]

theorem State.drainBound_wf {s : State} (p : ScalarAddr) (h : s.mem.wf) : (s.drainBound p).mem.wf :=
  State.drainIf_wf _ _ h

theorem State.take_wf {s : State} (excl : Bool) (a : Word) (p : ScalarAddr) (h : s.mem.wf) :
    (s.take excl a p).mem.wf := by
  unfold State.take
  extract_lets s1 w mode wait det record ready s2 s3 s4 s5
  have h1 : s1.mem.wf := wf_ite h (State.drainBound_wf _ h)
  have h2 : s2.mem.wf := State.logOp_mem s1 record ▸ h1
  have h4 : s4.mem.wf := State.setXw_wf _ _ _ (State.setObjLow_wf _ _ _ h2)
  have h5 : s5.mem.wf := State.setObjLow_wf _ _ _ h2
  clear_value s1 s2 s3 s4 s5 w mode wait det record ready
  grind [State.poisonRaise_wf, State.raise_wf, State.doneSync_mem, State.setXw_wf, State.syncWait_mem]

theorem State.acquire_wf {s : State} (excl : Bool) (a : RegNo) (h : s.mem.wf) : (s.acquire excl a).mem.wf := by
  grind [State.acquire, State.takeTrap_wf, State.stay_mem, State.divergent_wf, State.take_wf]

theorem execAcqW_wf {s : State} (a b : RegNo) (h : s.mem.wf) : WfResult (execAcqW a b s) := by
  grind [execAcqW, State.takeTrap_wf, State.raise_wf, State.stay_mem, State.doneSync_mem, State.poisonRaise_wf,
    State.logOp_mem, State.syncWait_mem, State.divergent_wf, WfResult]

@[simp] theorem State.freed_mem (s : State) (p : ScalarAddr) (clk : DWord) : (s.freed p clk).mem = s.mem := rfl

theorem execRel_wf {s : State} (a : RegNo) (h : s.mem.wf) : WfResult (execRel a s) := by
  grind [execRel, State.done_mem, State.release_wf, State.takeTrap_wf, State.raise_wf, State.stay_mem,
    State.poisonRaise_wf, State.logOp_mem, State.divergent_wf, State.drainBound_wf, State.setObjLow_wf,
    State.freed_mem, WfResult]

theorem execFence_wf {s : State} (sc : BitVec 3) (h : s.mem.wf) : WfResult (execFence sc s) := by
  grind [execFence, State.done_mem, State.illegal_wf, State.stay_mem, State.drain_wf, WfResult]

theorem execFenceFlush_wf {s : State} (h : s.mem.wf) : WfResult (execFenceFlush s) := by
  grind [execFenceFlush, State.done_mem, State.flushAt_wf, State.stay_mem, State.drain_wf, State.logOp_mem,
    State.divergent_wf, WfResult]

theorem execQfnc_wf {s : State} (m : BitVec 7) (h : s.mem.wf) : WfResult (execQfnc m s) := by
  grind [execQfnc, State.done_mem, State.updQset_mem, WfResult]

theorem execXfnc_wf {s : State} (h : s.mem.wf) : WfResult (execXfnc s) := by
  grind [execXfnc, State.done_mem, State.stay_mem, State.drain_wf, WfResult]

theorem State.waitSeq_wf {s : State} (drain : Bool) (a : RegNo) (q : BitVec 4) (h : s.mem.wf) :
    (s.waitSeq drain a q).mem.wf := by
  grind [State.waitSeq, State.raise_wf, State.illegal_wf, State.stay_mem, State.drain_wf, State.doneSync_mem]

theorem execYield_wf {s : State} (h : s.mem.wf) : WfResult (execYield s) := by
  grind [execYield, State.done_mem, State.rotate_mem, State.drain_wf, WfResult]

theorem State.waitJoin_wf {s : State} {k : State → State} (hk : ∀ t, t.mem.wf → (k t).mem.wf) (h : s.mem.wf) :
    (s.waitJoin k).mem.wf := by
  unfold State.waitJoin
  dsimp only
  split
  · exact hk _ h
  · exact h

theorem execYieldJn_wf {s : State} (h : s.mem.wf) : WfResult (execYieldJn s) := by
  refine State.waitJoin_wf (k := id) (fun _ ht => ht) ?_
  split
  · exact h
  · exact State.drain_wf h

theorem execYieldTime_wf {s : State} (a : RegNo) (h : s.mem.wf) : WfResult (execYieldTime a s) := by
  grind [execYieldTime, State.done_mem, State.illegal_wf, State.stay_mem, State.drain_wf, WfResult]

/-! ## Requests between packages (R345 to R362) -/

@[simp] theorem State.sequence_mem (s : State) (dst vc : Nat) (fs : List Flit) : (s.sequence dst vc fs).mem = s.mem :=
  rfl

@[simp] theorem State.send_mem (s : State) (p : Packet) : (s.send p).mem = s.mem := by
  unfold State.send
  dsimp only
  split <;> simp

@[simp] theorem State.sendTim_mem (s : State) (dst : Nat) (kind : BitVec 8) (body : List Byte) :
    (s.sendTim dst kind body).mem = s.mem := by
  unfold State.sendTim
  split <;> rfl

@[simp] theorem State.tell_mem (s : State) (kind : BitVec 8) (heat seq : Word) (value toward : Nat) :
    (s.tell kind heat seq value toward).mem = s.mem :=
  foldl_mem (fun t d => State.sendTim_mem t d kind _)

@[simp] theorem State.answer_mem (s : State) (p : Packet) (kind : BitVec 8) (len : Nat) (data : List (Byte × Bool)) :
    (s.answer p kind len data).mem = s.mem := by simp [State.answer]

@[simp] theorem State.nextReq_mem (s : State) : (s.nextReq).2.mem = s.mem := rfl

@[simp] theorem State.request_mem (s : State) (r : Req) : (s.request r).mem = s.mem := by simp [State.request]

@[simp] theorem State.updReq_mem (s : State) (id : DWord) (f : Req → Req) : (s.updReq id f).mem = s.mem := rfl

@[simp] theorem State.deliver_mem (s : State) (p : Packet) : (s.deliver p).mem = s.mem := by
  grind [State.deliver, State.updEntry_mem]

@[simp] theorem State.served_mem (s : State) (p : Packet) : (s.served p).mem = s.mem := rfl

@[simp] theorem State.reportDetail_mem (s : State) (heat : BitVec 16) (peer detail : Nat) :
    (s.reportDetail heat peer detail).mem = s.mem := by
  grind [State.reportDetail, State.tell_mem]

theorem execReadResponse_wf {s : State} (p : Packet) (h : s.mem.wf) : WfResult (execReadResponse p s) := by
  grind [execReadResponse, State.deliver_mem, State.served_mem, WfResult]

theorem execWriteAck_wf {s : State} (p : Packet) (h : s.mem.wf) : WfResult (execWriteAck p s) := by
  grind [execWriteAck, State.deliver_mem, State.served_mem, WfResult]

theorem execAtomicResponse_wf {s : State} (p : Packet) (h : s.mem.wf) : WfResult (execAtomicResponse p s) := by
  grind [execAtomicResponse, State.deliver_mem, State.served_mem, WfResult]

theorem execXputAck_wf {s : State} (p : Packet) (h : s.mem.wf) : WfResult (execXputAck p s) := by
  grind [execXputAck, State.deliver_mem, State.served_mem, WfResult]

theorem execCollectiveAck_wf {s : State} (p : Packet) (h : s.mem.wf) : WfResult (execCollectiveAck p s) := by
  grind [execCollectiveAck, State.deliver_mem, State.served_mem, WfResult]

theorem execPoisonedResponse_wf {s : State} (p : Packet) (h : s.mem.wf) : WfResult (execPoisonedResponse p s) := by
  grind [execPoisonedResponse, State.deliver_mem, State.served_mem, State.reportDetail_mem, WfResult]

theorem execBusy_wf {s : State} (p : Packet) (h : s.mem.wf) : WfResult (execBusy p s) := by
  grind [execBusy, State.served_mem, State.updReq_mem, WfResult]

theorem execBusyRetry_wf {s : State} (reqid : DWord) (h : s.mem.wf) : WfResult (execBusyRetry reqid s) := by
  grind [execBusyRetry, State.request_mem, WfResult]

theorem execProgressReport_wf {s : State} (p : Packet) (h : s.mem.wf) : WfResult (execProgressReport p s) := by
  grind [execProgressReport, State.served_mem, State.updReq_mem, WfResult]

theorem execRequestProbeTimer_wf {s : State} (reqid : DWord) (h : s.mem.wf) :
    WfResult (execRequestProbeTimer reqid s) := by
  grind [execRequestProbeTimer, State.send_mem, State.updReq_mem, WfResult]

theorem execRequestTimeout_wf {s : State} (reqid : DWord) (h : s.mem.wf) : WfResult (execRequestTimeout reqid s) := by
  grind [execRequestTimeout, State.deliver_mem, State.reportDetail_mem, WfResult]

theorem State.windowSpot_wf {s : State} (w : Window) (off n : Nat) (need : BitVec 3) (h : s.mem.wf) :
    (s.windowSpot w off n need).1.mem.wf := by
  grind [State.windowSpot, State.post_wf, State.translate_mem]

theorem State.admission_wf {s : State} (p : Packet) (off n : Nat) (need : BitVec 3) (again : Bool) (h : s.mem.wf) :
    (s.admission p off n need again).1.mem.wf := by
  grind [State.admission, State.windowSpot_wf]

@[simp] theorem State.forward_mem (s : State) (p : Packet) (peer : Nat) : (s.forward p peer).mem = s.mem := by
  unfold State.forward
  split <;> simp

@[simp] theorem State.hold_mem (s : State) (p : Packet) : (s.hold p).mem = s.mem := by
  unfold State.hold
  dsimp only
  split <;> simp

@[simp] theorem State.refuse_mem (s : State) (p : Packet) (detail : Nat) :
    (s.refuse p detail).mem = s.mem := by simp [State.refuse]

theorem State.admitted_wf {s : State} (p : Packet) {a : State × Admit} {k : State → Spot → State}
    (hk : ∀ t x, t.mem.wf → (k t x).mem.wf) (ha : a.1.mem.wf) (h : s.mem.wf) : (s.admitted p a k).mem.wf := by
  grind [State.admitted, State.hold_mem, State.forward_mem, State.refuse_mem]

theorem State.serveRead_wf {s : State} (p : Packet) (again : Bool) (h : s.mem.wf) : (s.serveRead p again).mem.wf :=
  State.admitted_wf p (fun _ _ ht => by simpa using ht) (State.admission_wf _ _ _ _ _ h) h

theorem State.serveWrite_wf {s : State} (p : Packet) (again : Bool) (h : s.mem.wf) : (s.serveWrite p again).mem.wf :=
  State.admitted_wf p (fun _ _ ht => by simpa using State.spotWrite_wf _ _ ht) (State.admission_wf _ _ _ _ _ h) h

@[simp] theorem State.cacheRoom_mem (s : State) (die : Nat) : (s.cacheRoom die).1.mem = s.mem := rfl

@[simp] theorem State.cacheAnswer_mem (s : State) (die : Nat) (p : Packet) :
    (s.cacheAnswer die p).mem = s.mem := by simp [State.cacheAnswer]

@[simp] theorem State.atomLog_mem (s : State) (p : Packet) (die part : Nat) : (s.atomLog p die part).mem = s.mem := by
  unfold State.atomLog
  dsimp only
  split <;> simp

theorem State.serveAtomic_wf {s : State} (p : Packet) (again : Bool) (h : s.mem.wf) :
    (s.serveAtomic p again).mem.wf := by
  unfold State.serveAtomic
  split
  · simpa using h
  · refine State.admitted_wf p (fun t x ht => ?_) (State.admission_wf _ _ _ _ _ h) h
    grind [State.cacheRoom_mem, State.answer_mem, State.cacheAnswer_mem, State.atomLog_mem,
      State.spotPut_wf]

@[simp] theorem State.noteArrival_mem (s : State) (p : Packet) : (s.noteArrival p).mem = s.mem := by
  unfold State.noteArrival
  split <;> rfl

theorem State.servePut_wf {s : State} (p : Packet) (again : Bool) (h : s.mem.wf) : (s.servePut p again).mem.wf := by
  unfold State.servePut
  dsimp only
  split
  · simpa using h
  · refine State.admitted_wf p (fun t x ht => ?_) (State.admission_wf _ _ _ _ _ h) h
    have hr : (t.cacheRoom (t.windowDie p)).1.mem.wf := by simpa using ht
    split
    · simpa using State.spotWrite_wf _ _ ht
    · split
      · simpa using ht
      · refine State.admitted_wf p (fun u obj hu => ?_) (State.admission_wf _ _ _ _ _ hr) hr
        split
        · simpa using hu
        · simpa using State.spotRelease_wf _ _ (State.spotWrite_wf _ _ hu)

@[simp] theorem State.serveCollective_mem (s : State) (p : Packet) : (s.serveCollective p).mem = s.mem := by
  unfold State.serveCollective
  split <;> simp

theorem State.serve_wf {s : State} (p : Packet) (kind : BitVec 8) (again : Bool) (h : s.mem.wf) :
    (s.serve p kind again).mem.wf := by
  grind [State.serve, State.serveRead_wf, State.serveWrite_wf, State.serveAtomic_wf, State.servePut_wf]

theorem State.begin_wf {s : State} (p : Packet) (kind : BitVec 8) {k : State → State}
    (hk : ∀ t, t.mem.wf → (k t).mem.wf) (h : s.mem.wf) : (s.begin p kind k).mem.wf := by
  grind [State.begin, State.served_mem]

theorem execReadRequest_wf {s : State} (p : Packet) (h : s.mem.wf) : WfResult (execReadRequest p s) :=
  State.begin_wf p _ (fun _ ht => State.serveRead_wf p false ht) h

theorem execWriteRequest_wf {s : State} (p : Packet) (h : s.mem.wf) : WfResult (execWriteRequest p s) :=
  State.begin_wf p _ (fun _ ht => State.serveWrite_wf p false ht) h

theorem execAtomicRequest_wf {s : State} (p : Packet) (h : s.mem.wf) : WfResult (execAtomicRequest p s) :=
  State.begin_wf p _ (fun _ ht => State.serveAtomic_wf p false ht) h

theorem execXputData_wf {s : State} (p : Packet) (h : s.mem.wf) : WfResult (execXputData p s) :=
  State.begin_wf p _ (fun _ ht => State.servePut_wf p false ht) h

theorem execCollectiveData_wf {s : State} (p : Packet) (h : s.mem.wf) : WfResult (execCollectiveData p s) := by
  refine State.begin_wf p _ (fun t ht => ?_) h
  grind [State.serveCollective_mem, State.hold_mem, State.refuse_mem]

theorem execForwardedRequest_wf {s : State} (p : Packet) (h : s.mem.wf) : WfResult (execForwardedRequest p s) :=
  State.begin_wf p _ (fun _ ht => State.serve_wf _ _ _ ht) h

theorem execProbe_wf {s : State} (p : Packet) (h : s.mem.wf) : WfResult (execProbe p s) := by
  grind [execProbe, State.send_mem, State.served_mem, State.answer_mem, WfResult]

theorem execHeldRequestPerform_wf {s : State} (h : s.mem.wf) : WfResult (execHeldRequestPerform s) := by
  grind [execHeldRequestPerform, State.refuse_mem, State.serveCollective_mem, State.serve_wf, WfResult]

@[simp] theorem State.dropReq_mem (s : State) : s.dropReq.mem = s.mem := rfl

theorem State.remoteTrap_wf {s : State} (detail : Nat) (a : DWord) (h : s.mem.wf) : (s.remoteTrap detail a).mem.wf :=
  State.takeTrap_wf _ _ _ h

@[simp] theorem State.crewSend_mem (s : State) (p : Packet) (first : DWord) :
    (s.crewSend p first).mem = s.mem := by simp [State.crewSend]

theorem State.xmem_wf {s : State} (kind : BitVec 8) (a : DWord) (fn n : Nat) (data : List Byte)
    {k : State → Packet → State} (hk : ∀ t p, t.mem.wf → (k t p).mem.wf) (h : s.mem.wf) :
    (s.xmem kind a fn n data k).mem.wf := by
  grind [State.xmem, State.stay_mem, State.dropReq_mem, State.remoteTrap_wf, State.nextReq_mem, State.crewSend_mem]

theorem execXmemLd_wf {s : State} (d a : RegNo) (w : BitVec 3) (h : s.mem.wf) : WfResult (execXmemLd d a w s) := by
  unfold execXmemLd
  dsimp only
  split
  · exact State.illegal_wf _ _ h
  · split
    · exact State.illegal_wf _ _ h
    · split
      · exact State.illegal_wf _ _ h
      · refine State.xmem_wf _ _ _ _ _ (fun t p ht => ?_) h
        grind [State.poisonRaise_wf, State.extern_mem, State.done_mem, State.setSpair_mem, State.write_mem]

theorem execXmemSt_wf {s : State} (a b : RegNo) (w : BitVec 3) (h : s.mem.wf) : WfResult (execXmemSt a b w s) := by
  unfold execXmemSt
  dsimp only
  split
  · exact State.illegal_wf _ _ h
  · split
    · exact State.illegal_wf _ _ h
    · split
      · exact State.illegal_wf _ _ h
      · exact State.xmem_wf _ _ _ _ _ (fun _ _ ht => ht) h

theorem execXatm_wf {s : State} (d a b : RegNo) (sc w o : BitVec 3) (h : s.mem.wf) :
    WfResult (execXatm d a b sc w o s) := by
  unfold execXatm
  extract_lets fn addr n id data issue s1 s2
  have h2 : s2.mem.wf := by simpa only [s2, s1, State.updCrew_mem, State.dropReq_mem] using h
  have hi (first : DWord) : (issue first).mem.wf := by
    simp only [issue]
    grind [State.remoteTrap_wf, State.stay_mem, State.crewSend_mem]
  clear_value s2 issue fn addr n id data
  repeat' apply wfResult_ite
  · exact State.illegal_wf _ _ h
  · exact State.illegal_wf _ _ h
  · exact State.illegal_wf _ _ h
  · split
    · exact hi _
    · split
      · repeat' apply wfResult_ite
        · exact h
        · exact State.remoteTrap_wf _ _ h
        · exact hi _
      · apply wfResult_ite
        · exact State.remoteTrap_wf _ _ (wf_ite h h)
        · exact wfResult_ite (State.poisonRaise_wf _ h2) (by simpa only [WfResult, State.write_mem, State.extern_mem] using h2)

/-! ## Queues and the issue of their entries -/

@[simp] theorem State.setPhase_mem (s : State) (k : Nat) (p : Phase) : (s.setPhase k p).mem = s.mem := rfl

theorem State.entryRecord_wf {s : State} (k q : Nat) (e : QEntry) (kind addr prog : Nat) (h : s.mem.wf) :
    (s.entryRecord k q e kind addr prog).mem.wf := State.post_wf _ _ _ h

@[simp] theorem State.nodeFaulted_mem (s : State) (k : Nat) (e : QEntry) : (s.nodeFaulted k e).mem = s.mem := by
  unfold State.nodeFaulted
  split <;> rfl

theorem State.faultEntry_wf {s : State} (k q : Nat) (e : QEntry) (kind cause addr prog rdet : Nat) (h : s.mem.wf) :
    (s.faultEntry k q e kind cause addr prog rdet).mem.wf := by
  grind [State.faultEntry, State.nodeFaulted_mem, State.entryRecord_wf, State.updEntry_mem]

theorem State.entryRelease_wf {s : State} (e : QEntry) (h : s.mem.wf) : (s.entryRelease e).mem.wf := by
  grind [State.entryRelease, State.release_wf]

@[simp] theorem State.settleEntry_mem (s : State) (k q : Nat) (t : Word) : (s.settleEntry k q t).mem = s.mem := rfl

@[simp] theorem State.asyncFault_mem (s : State) (q : Nat) (e : QEntry) : (s.asyncFault q e).mem = s.mem := by
  unfold State.asyncFault
  dsimp only
  split <;> simp

theorem State.retireEntry_wf {s : State} (k q : Nat) (e : QEntry) (kind addr prog : Nat) (h : s.mem.wf) :
    (s.retireEntry k q e kind addr prog).mem.wf := by
  grind [State.retireEntry, State.entryRecord_wf, State.settleEntry_mem, State.asyncFault_mem]

@[simp] theorem State.issueTo_mem (s : State) (d : RegNo) (q cap : Nat) (e : QEntry) :
    (s.issueTo d q cap e).mem = s.mem := by
  unfold State.issueTo
  split <;> rfl

theorem State.engineRequest_mem {s t : State} {k q : Nat} {e : QEntry} {index : Nat} {kind : BitVec 8}
    {a opw len : Nat} {data : List (Byte × Bool)} (ht : s.engineRequest k q e index kind a opw len data = some t) :
    t.mem = s.mem := by
  grind [State.engineRequest, State.request_mem, State.updEntry_mem, State.nextReq_mem]

/-! ## The copy engine (R217 to R233) -/

@[simp] theorem Scan.readCell_mem (x : Scan) (core base off : Nat) : (x.readCell core base off).1.s.mem = x.s.mem :=
  rfl

@[simp] theorem Scan.virtual_mem (x : Scan) (k troot a : Nat) (w : Bool) :
    (x.virtual k troot a w).1.s.mem = x.s.mem := by
  grind [Scan.virtual, State.translate_mem]

@[simp] theorem Scan.place_mem (x : Scan) (k : Nat) (e : QEntry) (a : CopyAddr) (d : Int) (w : Bool) :
    (x.place k e a d w).1.s.mem = x.s.mem := by
  grind [Scan.place, Scan.virtual_mem]

@[simp] theorem Scan.read_mem (x : Scan) (k : Nat) (e : QEntry) (a : CopyAddr) (d : Int) :
    (x.read k e a d).1.s.mem = x.s.mem := by
  grind [Scan.read, Scan.place_mem, Scan.readCell_mem]

@[simp] theorem Scan.reads_mem (x : Scan) (k : Nat) (e : QEntry) (a : CopyAddr) (d : Int) (n : Nat) :
    (x.reads k e a d n).1.s.mem = x.s.mem := by
  induction n generalizing x d with
  | zero => rfl
  | succ n ih => grind [Scan.reads, Scan.read_mem]

@[simp] theorem Scan.dest_mem (x : Scan) (k : Nat) (e : QEntry) (a : CopyAddr) (d : Int) :
    (x.dest k e a d).1.s.mem = x.s.mem := by
  grind [Scan.dest, State.choose_mem, Scan.place_mem]

@[simp] theorem Scan.dests_mem (x : Scan) (k : Nat) (e : QEntry) (a : CopyAddr) (d : Int) (n : Nat) :
    (x.dests k e a d n).1.s.mem = x.s.mem := by
  induction n generalizing x d with
  | zero => rfl
  | succ n ih => grind [Scan.dests, Scan.dest_mem]

@[simp] theorem Scan.symbol_mem (x : Scan) (k : Nat) (e : QEntry) (j : CopyJob) (a : CopyAddr)
    (codes : List (Nat × Nat × Nat)) (n pos c l : Nat) : (x.symbol k e j a codes n pos c l).1.s.mem = x.s.mem := by
  induction n generalizing x pos c l with
  | zero => rfl
  | succ n ih => grind [Scan.symbol, Scan.read_mem]

@[simp] theorem Scan.unit_mem (x : Scan) (key : Nat) (e : QEntry) (j : CopyJob) (i pos : Nat) :
    (x.unit key e j i pos).1.s.mem = x.s.mem := by
  grind [Scan.unit, Scan.symbol_mem, Scan.reads_mem, Scan.dests_mem]

theorem State.writeStat_wf {s : State} (k q : Nat) (e : QEntry) (code : Nat) (h : s.mem.wf) :
    (s.writeStat k q e code).mem.wf := Mem.storeNat_wf _ _ _ _ (Mem.storeNat_wf _ _ _ _ h)

theorem State.copyFault_wf {s : State} (k q : Nat) (e : QEntry) (cause a rdet : Nat) (h : s.mem.wf) :
    (s.copyFault k q e cause a rdet).mem.wf := State.faultEntry_wf _ _ _ _ _ _ _ _ (State.writeStat_wf _ _ _ _ h)

theorem State.putSpot_wf {s : State} (k q : Nat) (e : QEntry) (x : Spot) (bs : List (Byte × Bool)) (h : s.mem.wf) :
    (s.putSpot k q e x bs).mem.wf := by
  grind [State.putSpot, Mem.setPoison_wf, State.updEntry_mem, State.spotWrite_wf]

theorem State.putRun_wf {s : State} (k q : Nat) (e : QEntry) (whole : Bool) (p : Dest) (r : Nat × List (Byte × Bool))
    (h : s.mem.wf) : (s.putRun k q e whole p r).mem.wf := by
  cases p <;> grind [State.putRun, State.putSpot_wf, State.updCore_mem, State.engineRequest_mem, State.copyFault_wf]

theorem State.putGroup_wf {s : State} (k q : Nat) (e : QEntry) (whole : Bool) (bs : List (Dest × Byte × Bool))
    (h : s.mem.wf) : (s.putGroup k q e whole bs).mem.wf :=
  foldl_wf (fun _ _ hs => foldl_wf (fun _ _ ht => State.putRun_wf _ _ _ _ _ _ ht) hs) h

theorem State.issueCopy_wf {s : State} (d : RegNo) (q opc spaces a b len opcode fn : Nat) (h : s.mem.wf) :
    (s.issueCopy d q opc spaces a b len opcode fn).mem.wf := by
  grind [State.issueCopy, Mem.store_wf, State.enqueue_mem, State.stay_mem, State.write_mem]

theorem execCpy_wf {s : State} (d a b : RegNo) (q : BitVec 4) (e s' : BitVec 3) (h : s.mem.wf) :
    WfResult (execCpy d a b q e s' s) := by
  grind [execCpy, State.raise_wf, State.illegal_wf, State.issueCopy_wf, WfResult]

theorem State.issueDesc_wf {s : State} (d a : RegNo) (q : BitVec 4) (opc opcode : Nat) (h : s.mem.wf) :
    (s.issueDesc d a q opc opcode).mem.wf := by
  grind [State.issueDesc, State.raise_wf, State.illegal_wf, State.issueCopy_wf]

theorem State.copyBegin_wf {s : State} (k q : Nat) (e : QEntry) (h : s.mem.wf) : (s.copyBegin k q e).mem.wf := by
  grind [State.copyBegin, State.updEntry_mem, State.faultEntry_wf, State.writeStat_wf]

theorem State.copyFetch_wf {s : State} (k q : Nat) (e : QEntry) (j : CopyJob) (a : Nat) (h : s.mem.wf) :
    (s.copyFetch k q e j a).mem.wf := by
  unfold State.copyFetch
  dsimp only
  split
  · next t ht => exact State.engineRequest_mem ht ▸ h
  · exact State.copyFault_wf _ _ _ _ _ _ h

theorem Scan.gather_mem (key : Nat) (e : QEntry) (j : CopyJob) (n : Nat) (x : Scan) (i pos : Nat) (us : List Unit') :
    (Scan.gather key e j n x i pos us).scan.s.mem = x.s.mem := by
  induction n generalizing x i pos us with
  | zero => rfl
  | succ n ih => grind [Scan.gather, Scan.unit_mem]

theorem State.copyMove_wf {s : State} (k q : Nat) (e : QEntry) (h : s.mem.wf) : (s.copyMove k q e).mem.wf := by
  unfold State.copyMove
  extract_lets j g e1 s1 e2 bs s2 s3
  have h1 : s1.mem.wf := by simpa [s1, g, Scan.gather_mem] using h
  refine wf_ite h ?_
  split
  · exact State.copyFault_wf _ _ _ _ _ _ h1
  · exact h1
  · exact State.copyFetch_wf _ _ _ _ _ h1
  · exact wf_ite (State.putGroup_wf _ _ _ _ _ h1) (State.writeStat_wf _ _ _ _ (State.putGroup_wf _ _ _ _ _ h1))

theorem State.copyRun_wf {s : State} (k q : Nat) (e : QEntry) (h : s.mem.wf) : (s.copyRun k q e).mem.wf := by
  grind [State.copyRun, State.updEntry_mem, State.writeStat_wf, State.copyFault_wf, State.copyMove_wf]

theorem execCopyEntryStart_wf {s : State} (part core q : Nat) (h : s.mem.wf) :
    WfResult (execCopyEntryStart part core q s) := by
  grind [execCopyEntryStart, State.copyBegin_wf, State.copyRun_wf, WfResult]

theorem execCopyEntryComplete_wf {s : State} (part core q : Nat) (h : s.mem.wf) :
    WfResult (execCopyEntryComplete part core q s) := by
  grind [execCopyEntryComplete, State.writeStat_wf, State.settleEntry_mem, State.entryRelease_wf, WfResult]

theorem execCopyEntryResume_wf {s : State} (part core q : Nat) (h : s.mem.wf) :
    WfResult (execCopyEntryResume part core q s) := by
  grind [execCopyEntryResume, State.updEntry_mem, State.writeStat_wf, WfResult]

theorem execCopyEntryRetire_wf {s : State} (part core q : Nat) (h : s.mem.wf) :
    WfResult (execCopyEntryRetire part core q s) := by
  grind [execCopyEntryRetire, State.writeStat_wf, State.retireEntry_wf, WfResult]

theorem State.clauseWrite_wf {s : State} (core : Nat) (g : ClauseGranule) (h : s.mem.wf) :
    (s.clauseWrite core g).mem.wf := by
  have hm := foldl_keeps Mem.wf (fun (m : Mem) (b : Nat × (Byte × Bool)) =>
    m.store .cells (cellBase core + g.addr + b.1) [b.2.1]) g.bytes s.mem (fun _ _ _ hm => Mem.store_wf _ _ _ hm) h
  grind [State.clauseWrite, State.updEntry_mem, Mem.mark_wf, Mem.setPoison_wf]

@[simp] theorem State.pickGranule_mem (s : State) (l : List ClauseGranule) : (s.pickGranule l).2.mem = s.mem := by
  fun_induction State.pickGranule s l with
  | case1 => rfl
  | case2 => rfl
  | case3 => rfl
  | case4 s g rest _ c _ ih => exact ih

theorem State.granuleNext_wf {s : State} (core : Nat) (h : s.mem.wf) : (s.granuleNext core).mem.wf := by
  grind [State.granuleNext, State.updCore_mem, State.pickGranule_mem, State.clauseWrite_wf]

theorem execClauseGranuleAccess_wf {s : State} (core : Nat) (h : s.mem.wf) :
    WfResult (execClauseGranuleAccess core s) := by
  grind [execClauseGranuleAccess, State.granuleNext_wf, WfResult]

/-! ## Areas of the control memory -/

@[simp] theorem State.giveArea_mem (s : State) (key : Nat) : (s.giveArea key).2.mem = s.mem := by
  unfold State.giveArea
  split <;> rfl

theorem State.areaPut_wf {s : State} (die r n : Nat) (bs : List (Byte × Bool)) (h : s.mem.wf) :
    (s.areaPut die r n bs).mem.wf := by
  induction n generalizing s r bs with
  | zero => exact h
  | succ n ih =>
    unfold State.areaPut
    split
    · exact h
    · exact ih _ _ (State.spotWrite_wf _ _ h)

theorem State.areaWrite_wf {s : State} (die r : Nat) (bs : List (Byte × Bool)) (h : s.mem.wf) :
    (s.areaWrite die r bs).mem.wf := State.areaPut_wf _ _ _ _ h

theorem State.putFaulted_wf {s : State} (part : Nat) (e : QEntry) (status : Word) (h : s.mem.wf) :
    (s.putFaulted part e status).mem.wf := by
  grind [State.putFaulted, State.giveArea_mem, State.areaWrite_wf]

/-! ## Lane conversions -/

theorem execQnt_wf {s : State} (f : LaneFields) (h : s.mem.wf) : WfResult (execQnt f s) := by
  refine laneRun_wf (fun x t ht => ?_) h
  grind [WfAct, Ctx.finish, State.updCrew_mem]

theorem execLrnd_wf {s : State} (f : LaneFields) (h : s.mem.wf) : WfResult (execLrnd f s) := by
  refine laneRun_wf (fun x t ht => ?_) h
  grind [State.updCrew_mem, WfAct, Ctx.finish]

/-! ## The matrix tiles: tasks and their steps -/

theorem execTtsk_wf {s : State} (d a : RegNo) (h : s.mem.wf) : WfResult (execTtsk d a s) := by
  grind [execTtsk, State.takeTrap_wf, State.raise_wf, State.stay_mem, State.poisonRaise_wf, State.issueTo_mem,
    WfResult]

theorem State.tileFault_wf {s : State} (k q : Nat) (e : QEntry) (cause addr rdet : Nat) (h : s.mem.wf) :
    (s.tileFault k q e cause addr rdet).mem.wf := by
  grind [State.tileFault, State.faultEntry_wf, State.updCore_mem, State.putFaulted_wf]

@[simp] theorem State.setTileStatus_mem (s : State) (core : Nat) (t : TileRec) (v : Word) :
    (s.setTileStatus core t v).mem = s.mem := rfl

theorem State.tilePrepare_wf {s : State} (core : Nat) (t : TileRec) (h : s.mem.wf) : (s.tilePrepare core t).mem.wf := by
  have hz (base n : Nat) (p : List (Nat × Bool)) :
      ({ s.mem with acc := memZero s.mem.acc base n, accPoison := p } : Mem).wf := by
    obtain ⟨hb, hs, ha, hc, hh⟩ := h
    exact ⟨hb, hs, memZero_wf _ _ _ ha, hc, hh⟩
  unfold State.tilePrepare
  dsimp only
  split
  · exact h
  · split
    · exact hz _ _ _
    · refine foldl_wf (fun u r hu => foldl_wf (fun v j hv => ?_) hu) (hz _ _ _)
      split
      · exact Mem.mark_wf _ _ (Mem.storeNat_wf _ _ _ _ hv)
      · exact Mem.storeNat_wf _ _ _ _ hv

theorem State.tileStart_wf {s : State} (k q : Nat) (e : QEntry) (engine : Nat) (h : s.mem.wf) :
    (s.tileStart k q e engine).mem.wf := by
  grind [State.tileStart, State.updEntry_mem, State.updCore_mem, State.tileFault_wf, State.tilePrepare_wf]

theorem execMtsTaskStart_wf {s : State} (part core q : Nat) (h : s.mem.wf) :
    WfResult (execMtsTaskStart part core q s) := by
  grind [execMtsTaskStart, State.tileStart_wf, State.updDie_mem, WfResult]

/-! ## The matrix tiles: start, step, completion and retirement (R248 to R264) -/

@[simp] theorem State.updFifo_mem (s : State) (k : Nat) (f : List ScaleBatch → List ScaleBatch) :
    (s.updFifo k f).mem = s.mem := rfl

theorem State.tileDesync_wf {s : State} (k q : Nat) (e : QEntry) (h : s.mem.wf) : (s.tileDesync k q e).mem.wf :=
  State.tileFault_wf _ _ _ _ _ _ h

@[simp] theorem State.stepScales_mem (s : State) (k q : Nat) (e : QEntry) (t : TileRec) (p : Nat) :
    (s.stepScales k q e t p).1.mem = s.mem := by
  grind [State.stepScales, State.updFifo_mem]

@[simp] theorem Scan.segments_mem (x : Scan) (k : Nat) (e : QEntry) (a : CopyAddr) (n : Nat) (l : List Nat) :
    (x.segments k e a n l).1.s.mem = x.s.mem := by
  induction l generalizing x with
  | nil => rfl
  | cons d l ih => grind [Scan.segments, Scan.reads_mem]

theorem State.stepElem_wf {s : State} (core : Nat) (t : TileRec) (r c : Nat) (a b : Operand) (h : s.mem.wf) :
    (s.stepElem core t r c a b).mem.wf := by
  grind [State.stepElem, Mem.storeNat_wf, Mem.mark_wf, State.setTileStatus_mem]

theorem State.stepTile_wf {s : State} (e : QEntry) (t : TileRec) (p : Nat) (sa sb : List (List (Byte × Bool)))
    (sc : List ScaleIn) (h : s.mem.wf) : (s.stepTile e t p sa sb sc).mem.wf :=
  foldl_wf (fun _ _ hs => foldl_wf (fun _ _ ht => State.stepElem_wf _ _ _ _ _ _ ht) hs) h

theorem State.stepDone_wf {s : State} (k q : Nat) (e : QEntry) (t : TileRec) (ring : Ring) (p : Nat) (mismatch : Bool)
    (h : s.mem.wf) : (s.stepDone k q e t ring p mismatch).mem.wf := by
  grind [State.stepDone, State.updEntry_mem, State.release_wf, State.tileFault_wf, State.setTileStatus_mem,
    State.updFifo_mem]

theorem State.tileFetch_wf {s : State} (k q : Nat) (e : QEntry) (a n : Nat) (h : s.mem.wf) :
    (s.tileFetch k q e a n).mem.wf := by
  unfold State.tileFetch
  split
  · next t ht => exact State.engineRequest_mem ht ▸ h
  · exact State.tileFault_wf _ _ _ _ _ _ h

theorem State.tileHalt_wf {s : State} (k q : Nat) (e : QEntry) (n : Nat) (x : Halt) (h : s.mem.wf) :
    (s.tileHalt k q e n x).mem.wf := by
  cases x with
  | fault c a d => exact State.tileFault_wf _ _ _ _ _ _ h
  | wait => exact h
  | fetch a => exact State.tileFetch_wf _ _ _ _ _ h

theorem State.tileStep_wf {s : State} (k q : Nat) (e : QEntry) (mismatch : Bool) (h : s.mem.wf) :
    (s.tileStep k q e mismatch).mem.wf := by
  unfold State.tileStep
  extract_lets t p ring sc s1 e1 rows a b ra rb
  have h1 : s1.mem.wf := State.stepScales_mem s k q e t p ▸ h
  have ha : ra.1.s.mem.wf := by simpa only [ra, Scan.segments_mem] using h1
  have hb : rb.1.s.mem.wf := by simpa only [rb, Scan.segments_mem] using ha
  clear_value ra rb
  refine wf_ite h ?_
  split
  · exact h1
  · exact State.tileDesync_wf _ _ _ h1
  · split
    · exact State.tileHalt_wf _ _ _ _ _ ha
    · split
      · exact State.tileHalt_wf _ _ _ _ _ hb
      · exact State.stepDone_wf _ _ _ _ _ _ _ (State.stepTile_wf _ _ _ _ _ _ hb)

theorem execTileKStep_wf {s : State} (core : Nat) (mismatch : Bool) (h : s.mem.wf) :
    WfResult (execTileKStep core mismatch s) := by
  grind [execTileKStep, State.tileFault_wf, State.tileStep_wf, WfResult]

theorem State.drainRow_wf {s : State} (core : Nat) (t : TileRec) (r : Nat) (h : s.mem.wf) :
    (s.drainRow core t r).mem.wf := by
  grind [State.drainRow, State.spotWrite_wf, State.setTileStatus_mem]

theorem State.completionWord_wf {s : State} (core : Nat) (e : QEntry) (status : Word) (h : s.mem.wf) :
    (s.completionWord core e status).mem.wf := Mem.storeNat_wf _ _ _ _ h

theorem execTileTaskComplete_wf {s : State} (core : Nat) (h : s.mem.wf) : WfResult (execTileTaskComplete core s) := by
  have hd (t : TileRec) : ((List.range t.m).foldl (fun s r => s.drainRow core t r) s).mem.wf :=
    foldl_wf (fun _ _ hs => State.drainRow_wf _ _ _ hs) h
  grind [execTileTaskComplete, WfResult, State.tileDesync_wf, State.completionWord_wf, State.updFifo_mem,
    State.entryRelease_wf, State.updCore_mem, State.settleEntry_mem]

theorem execTileTaskResume_wf {s : State} (part core q : Nat) (ticket : Word) (h : s.mem.wf) :
    WfResult (execTileTaskResume part core q ticket s) := by
  grind [execTileTaskResume, State.updEntry_mem, State.spotWrite_wf, State.updCore_mem, WfResult]

theorem execTileTaskRetire_wf {s : State} (part core q : Nat) (ticket : Word) (h : s.mem.wf) :
    WfResult (execTileTaskRetire part core q ticket s) := by
  grind [execTileTaskRetire, State.updCore_mem, State.updFifo_mem, State.completionWord_wf, State.retireEntry_wf,
    WfResult]

theorem tileBody_wf {b : Body} (hb : WfBody b) : WfBody (tileBody b) := by
  intro x s hs
  unfold tileBody
  dsimp only
  split
  · trivial
  · exact hb x s hs

theorem execLda_wf {s : State} (f : LaneFields) (h : s.mem.wf) : WfResult (execLda f s) := by
  refine laneRun_wf (tileBody_wf fun x t ht => ?_) h
  grind [WfAct, Ctx.finish, State.updCrew_mem]

theorem execLdaStatus_wf {s : State} (f : LaneFields) (h : s.mem.wf) : WfResult (execLdaStatus f s) := by
  refine laneRun_wf (tileBody_wf fun x t ht => ?_) h
  grind [WfAct, Ctx.finish, State.updCrew_mem]

theorem State.staLanes_wf {s : State} (w : Nat) (l : List (Nat × DWord)) (h : s.mem.wf) : (s.staLanes w l).mem.wf :=
  foldl_wf (fun _ _ hs => Mem.storeNat_wf _ _ _ _ hs) h

theorem execSta_wf {s : State} (f : LaneFields) (h : s.mem.wf) : WfResult (execSta f s) := by
  refine laneRun_wf (tileBody_wf fun x t ht => ?_) h
  grind [State.staLanes_wf, WfAct, Ctx.finish, State.updCrew_mem]

theorem execStaStatus_wf {s : State} (f : LaneFields) (h : s.mem.wf) : WfResult (execStaStatus f s) := by
  refine laneRun_wf (tileBody_wf fun x t ht => ?_) h
  grind [State.updCore_mem, WfAct, Ctx.finish, State.updCrew_mem]

theorem State.pushCheck_wf {s : State} (core : Nat) (h : s.mem.wf) : (s.pushCheck core).mem.wf := by
  grind [State.pushCheck, State.tileDesync_wf]

theorem execSclw_wf {s : State} (f : LaneFields) (h : s.mem.wf) : WfResult (execSclw f s) := by
  refine laneRun_wf (fun x t ht => ?_) h
  grind [State.updFifo_mem, State.pushCheck_wf, WfAct, Ctx.finish, State.updCrew_mem]

theorem execIdxw_wf {s : State} (f : LaneFields) (h : s.mem.wf) : WfResult (execIdxw f s) := by
  refine laneRun_wf (fun x t ht => ?_) h
  grind [State.updQset_mem, WfAct, Ctx.finish, State.updCrew_mem]

/-! ## Scalar control flow -/

theorem State.withTarget_wf {s : State} (t : Word) {k : State} (hk : k.mem.wf) (h : s.mem.wf) :
    WfResult (s.withTarget t k) := by
  grind [State.withTarget, WfResult, State.illegal_wf]

theorem execBrc_wf {s : State} (c p : BitVec 4) (o : BitVec 18) (h : s.mem.wf) : WfResult (execBrc c p o s) := by
  grind [execBrc, State.jump_mem, State.done_mem, State.illegal_wf, State.withTarget_wf, WfResult]

theorem execBspl_wf {s : State} (c a : BitVec 4) (o : BitVec 18) (h : s.mem.wf) : WfResult (execBspl c a o s) := by
  grind [execBspl, State.setCrew_mem, State.raise_wf, State.illegal_wf, State.withTarget_wf, State.stay_mem, WfResult]

theorem execJoin_wf {s : State} (h : s.mem.wf) : WfResult (execJoin s) := by
  grind [execJoin, State.setCrew_mem, State.illegal_wf, State.stay_mem, State.rotate_mem, WfResult]

theorem State.exitSplit_wf {s : State} (v : Word) (h : s.mem.wf) : (s.exitSplit v).mem.wf := by
  grind [State.exitSplit, State.setCrew_mem, State.endCrew_wf, State.rotate_mem]

theorem execExit_wf {s : State} (a : RegNo) (h : s.mem.wf) : WfResult (execExit a s) := by
  grind [execExit, State.flushAt_wf, State.stay_mem, State.drain_wf, State.exitSplit_wf, WfResult]

theorem execEret_wf {s : State} (h : s.mem.wf) : WfResult (execEret s) := by
  grind [execEret, State.illegal_wf, State.stay_mem, State.returnFromTrap_mem, WfResult]

/-! ## Control registers (R216) -/

theorem State.csrTrap_wf {s : State} (detail n : Nat) (h : s.mem.wf) : (s.csrTrap detail n).mem.wf :=
  State.raise_wf _ _ _ _ h

@[simp] theorem State.csrRead_mem (s : State) (n : Nat) : (s.csrRead n).2.mem = s.mem := by
  grind [State.csrRead, State.updCrew_mem, State.extern_mem]

theorem State.csrReadTo_wf {s : State} (d : RegNo) (n : Nat) (h : s.mem.wf) : (s.csrReadTo d n).mem.wf := by
  grind [State.csrReadTo, State.write_mem, State.csrTrap_wf, State.csrRead_mem]

theorem execFsumRead_wf {s : State} (d : RegNo) (h : s.mem.wf) : WfResult (execFsumRead d s) := by
  grind [execFsumRead, State.stay_mem, State.csrReadTo_wf, WfResult]

theorem execCsrRd_wf {s : State} (d : RegNo) (n : BitVec 12) (h : s.mem.wf) : WfResult (execCsrRd d n s) := by
  grind [execCsrRd, State.stay_mem, State.csrReadTo_wf, WfResult]

theorem State.csrWriteTo_wf {s : State} (d : RegNo) (n : Nat) (ok : Bool) (put : Crew → Crew) (h : s.mem.wf) :
    (s.csrWriteTo d n ok put).mem.wf := by
  grind [State.csrWriteTo, State.updCrew_mem, State.write_mem, State.csrTrap_wf]

theorem execFsumWrite_wf {s : State} (d a : RegNo) (h : s.mem.wf) : WfResult (execFsumWrite d a s) := by
  grind [execFsumWrite, State.stay_mem, State.csrWriteTo_wf, WfResult]

theorem execSppWrite_wf {s : State} (d a : RegNo) (h : s.mem.wf) : WfResult (execSppWrite d a s) :=
  State.csrWriteTo_wf _ _ _ _ h

theorem execAsyncfWrite_wf {s : State} (d a : RegNo) (h : s.mem.wf) : WfResult (execAsyncfWrite d a s) := h

theorem execTrapspcWrite_wf {s : State} (d a : RegNo) (h : s.mem.wf) : WfResult (execTrapspcWrite d a s) :=
  State.csrWriteTo_wf _ _ _ _ h

theorem execTraplpcWrite_wf {s : State} (d a : RegNo) (h : s.mem.wf) : WfResult (execTraplpcWrite d a s) :=
  State.csrWriteTo_wf _ _ _ _ h

@[simp] theorem State.issueChain_mem (s : State) (q n : Nat) : (s.issueChain q n).mem = s.mem := by
  induction n generalizing s with
  | zero => rfl
  | succ n ih => exact (ih _).trans (State.enqueue_mem _ _ _ _)

theorem execQtailWrite_wf {s : State} (n : BitVec 2) (d a : RegNo) (h : s.mem.wf) :
    WfResult (execQtailWrite n d a s) := by
  grind [execQtailWrite, State.stay_mem, State.drain_wf, State.write_mem, State.csrTrap_wf, State.issueChain_mem,
    WfResult]

theorem State.bindWrite_wf {s : State} (d : RegNo) (cmd : Nat) (h : s.mem.wf) : (s.bindWrite d cmd).mem.wf := by
  grind [State.bindWrite, State.updCrew_mem, State.updLaunch_mem, State.drain_wf, State.write_mem]

theorem execCsrWr_wf {s : State} (d a : RegNo) (n : BitVec 12) (h : s.mem.wf) : WfResult (execCsrWr d a n s) := by
  grind [execCsrWr, State.csrWriteTo_wf, execFsumWrite_wf, execSppWrite_wf, execAsyncfWrite_wf, execTrapspcWrite_wf,
    execTraplpcWrite_wf, execQtailWrite_wf, State.bindWrite_wf, WfResult]

/-! ## Fibre links, flits and relays -/

@[simp] theorem State.updLink_mem (s : State) (key : Nat) (f : Link → Link) : (s.updLink key f).mem = s.mem := rfl

@[simp] theorem State.updFibreGroup_mem (s : State) (g : Nat) (f : Group → Group) : (s.updFibreGroup g f).mem = s.mem :=
  rfl

@[simp] theorem State.keepWide_mem (s : State) (g : Nat) : (s.keepWide g).mem = s.mem := by
  unfold State.keepWide
  split <;> rfl

@[simp] theorem State.noteIdle_mem (s before : State) : (s.noteIdle before).mem = s.mem :=
  foldl_mem (fun t g => by split <;> simp)

theorem execSquareStart_wf {s : State} (group : Nat) (h : s.mem.wf) : WfResult (execSquareStart group s) := by
  grind [execSquareStart, State.choose_mem, State.updFibreGroup_mem, WfResult]

theorem execWidthHandshake_wf {s : State} (group : Nat) (h : s.mem.wf) : WfResult (execWidthHandshake group s) := by
  grind [execWidthHandshake, State.updFibreGroup_mem, WfResult]

@[simp] theorem State.dropHandshake_mem (s : State) (g : Nat) : (s.dropHandshake g).mem = s.mem := by
  unfold State.dropHandshake
  dsimp only
  split <;> simp

theorem execSquareComplete_wf {s : State} (group : Nat) (h : s.mem.wf) : WfResult (execSquareComplete group s) := by
  grind [execSquareComplete, State.updFibreGroup_mem, State.dropHandshake_mem, WfResult]

theorem execFeatherStart_wf {s : State} (group : Nat) (h : s.mem.wf) : WfResult (execFeatherStart group s) := by
  grind [execFeatherStart, State.updFibreGroup_mem, WfResult]

theorem execFeatherPark_wf {s : State} (group : Nat) (h : s.mem.wf) : WfResult (execFeatherPark group s) := by
  grind [execFeatherPark, State.updFibreGroup_mem, State.dropHandshake_mem, WfResult]

@[simp] theorem State.forget_mem (s : State) (fs : List Flit) : (s.forget fs).mem = s.mem := by
  unfold State.forget
  split <;> simp

@[simp] theorem State.noteReady_mem (s : State) (key : Nat) : (s.noteReady key).mem = s.mem := by
  unfold State.noteReady
  split <;> rfl

@[simp] theorem State.takeAck_mem (s : State) (key : Nat) (ack : Word) (credit : Bool) :
    (s.takeAck key ack credit).mem = s.mem := by
  unfold State.takeAck
  dsimp only
  split <;> simp

theorem execRotorSlotStart_wf {s : State} (h : s.mem.wf) : WfResult (execRotorSlotStart s) := by
  grind [execRotorSlotStart, State.updFabric_mem, WfResult]

theorem execLightStart_wf {s : State} (h : s.mem.wf) : WfResult (execLightStart s) := by
  unfold execLightStart
  split
  · exact foldl_wf (fun _ _ ht => by exact ht) h
  · exact h

theorem execLinkControl_wf {s : State} (fibre width : Nat) (space : List Nat) (ack : Word) (h : s.mem.wf) :
    WfResult (execLinkControl fibre width space ack s) := by
  grind [execLinkControl, State.updLink_mem, State.noteReady_mem, State.forget_mem, State.takeAck_mem, WfResult]

theorem execSetupEnd_wf {s : State} (fibre : Nat) (h : s.mem.wf) : WfResult (execSetupEnd fibre s) := by
  grind [execSetupEnd, State.updLink_mem, State.noteReady_mem, WfResult]

@[simp] theorem State.queueFlit_mem (s : State) (key : Nat) (x : Flit) :
    (s.queueFlit key x).mem = s.mem := by simp [State.queueFlit]

@[simp] theorem State.routeFlit_mem (s : State) (x : Flit) : (s.routeFlit x).mem = s.mem := by
  grind [State.routeFlit, State.updFabric_mem, State.queueFlit_mem]

theorem execFlitEgress_wf {s : State} (h : s.mem.wf) : WfResult (execFlitEgress s) := by
  grind [execFlitEgress, State.updFabric_mem, State.routeFlit_mem, WfResult]

@[simp] theorem State.acceptFlit_mem (s : State) (fibre : Nat) (x : Flit) : (s.acceptFlit fibre x).mem = s.mem := by
  grind [State.acceptFlit, State.updFabric_mem]

@[simp] theorem State.moveOn_mem (s : State) (fibre : Nat) : (s.moveOn fibre).mem = s.mem :=
  foldl_mem (fun t x => by split <;> [skip; split] <;> simp)

theorem execFlitReceive_wf {s : State} (fibre : Nat) (x : Flit) (h : s.mem.wf) :
    WfResult (execFlitReceive fibre x s) := by
  grind [execFlitReceive, State.choose_mem, State.updFabric_mem, State.updLink_mem, State.noteReady_mem,
    State.moveOn_mem, State.takeAck_mem, WfResult]

theorem execLightEnd_wf {s : State} (h : s.mem.wf) : WfResult (execLightEnd s) := by
  unfold execLightEnd
  split
  · refine foldl_wf (fun t g ht => by simpa using ht) ?_
    rw [State.noteIdle_mem]
    refine foldl_wf (fun t g ht => by exact ht) (foldl_wf (fun t f ht => by simpa using ht) h)
  · exact h

@[simp] theorem State.noteAsked_mem (s : State) (fibre : Nat) (x : Flit) : (s.noteAsked fibre x).mem = s.mem := by
  unfold State.noteAsked
  split <;> rfl

@[simp] theorem State.sendFlit_mem (s : State) (key : Nat) (x : Flit) : (s.sendFlit key x).mem = s.mem := by
  unfold State.sendFlit
  split <;> simp

theorem execFlitSend_wf {s : State} (fibre : Nat) (h : s.mem.wf) : WfResult (execFlitSend fibre s) := by
  grind [execFlitSend, State.sendFlit_mem, WfResult]

theorem execVcStarvation_wf {s : State} (fibre vc : Nat) (h : s.mem.wf) : WfResult (execVcStarvation fibre vc s) := by
  grind [execVcStarvation, State.updLink_mem, WfResult]

theorem execIdleLinkControl_wf {s : State} (fibre : Nat) (h : s.mem.wf) : WfResult (execIdleLinkControl fibre s) := by
  grind [execIdleLinkControl, State.updLink_mem, WfResult]

@[simp] theorem State.lnkWrite_mem (s : State) (d : RegNo) (v : Word) :
    (s.lnkWrite d v).mem = s.mem := by simp [State.lnkWrite]

theorem execLnkStat_wf {s : State} (d a : RegNo) (h : s.mem.wf) : WfResult (execLnkStat d a s) := by
  grind [execLnkStat, State.illegal_wf, State.lnkWrite_mem, WfResult]

@[simp] theorem State.hold1_mem (s : State) (g : Nat) (on : Bool) : (s.hold1 g on).mem = s.mem := by
  unfold State.hold1
  dsimp only
  split <;> simp

@[simp] theorem State.lnkHold_mem (s : State) (d a : RegNo) (on : Bool) : (s.lnkHold d a on).mem = s.mem := by
  unfold State.lnkHold
  dsimp only
  split <;> simp

theorem execLnkSq_wf {s : State} (d a : RegNo) (h : s.mem.wf) : WfResult (execLnkSq d a s) := by
  grind [execLnkSq, State.lnkHold_mem, WfResult]

theorem execLnkRls_wf {s : State} (d a : RegNo) (h : s.mem.wf) : WfResult (execLnkRls d a s) := by
  grind [execLnkRls, State.lnkHold_mem, WfResult]

@[simp] theorem State.lnkTime_mem (s : State) (d : RegNo) (t : DWord) :
    (s.lnkTime d t).mem = s.mem := by simp [State.lnkTime]

theorem State.lnkSlot_wf {s : State} (d a b : RegNo) (fn : Nat) {k : State → Option DWord → State}
    (hk : ∀ t o, t.mem.wf → (k t o).mem.wf) (h : s.mem.wf) : (s.lnkSlot d a b fn k).mem.wf := by
  grind [State.lnkSlot, State.illegal_wf]

theorem execLnkSlot_wf {s : State} (d a b : RegNo) (h : s.mem.wf) : WfResult (execLnkSlot d a b s) :=
  State.lnkSlot_wf d a b 3 (fun _ _ ht => by simpa using ht) h

theorem execLnkWait_wf {s : State} (d a b : RegNo) (h : s.mem.wf) : WfResult (execLnkWait d a b s) := by
  refine State.lnkSlot_wf d a b 4 (fun t o ht => ?_) h
  grind [State.lnkTime_mem, State.stay_mem]

/-! ## Score sheet, heats and elections -/

@[simp] theorem State.updServo_mem (s : State) (f : Servo → Servo) : (s.updServo f).mem = s.mem := rfl

@[simp] theorem State.sendPtp_mem (s : State) (peer type seq t : Nat) :
    (s.sendPtp peer type seq t).mem = s.mem := by simp [State.sendPtp]

@[simp] theorem State.takePtp_mem (s : State) (x : Stamped) : (s.takePtp x).mem = s.mem := by
  grind [State.takePtp, State.updServo_mem, State.sendPtp_mem]

theorem execPtpMessage_wf {s : State} (fibre : Nat) (x : Flit) (stamp : Nat) (h : s.mem.wf) :
    WfResult (execPtpMessage fibre x stamp s) := by
  grind [execPtpMessage, State.updFabric_mem, State.takePtp_mem, WfResult]

theorem execTimeServoCorrection_wf {s : State} (offset step : Int) (fraction : BitVec 16) (h : s.mem.wf) :
    WfResult (execTimeServoCorrection offset step fraction s) := by
  unfold execTimeServoCorrection
  split
  · exact h
  · exact foldl_wf (fun _ _ ht => by simpa using ht) h

@[simp] theorem State.giveAreas_mem (s : State) (e : HeatEntry) (cores : List Nat) :
    (s.giveAreas e cores).mem = s.mem := by
  unfold State.giveAreas
  dsimp only
  split
  · exact foldl_mem (fun _ _ => State.giveArea_mem _ _)
  · rfl

@[simp] theorem State.entryArrives_mem (s : State) (e : HeatEntry) (time : DWord) :
    (s.entryArrives e time).mem = s.mem := by
  grind [State.entryArrives, State.updHeat_mem, State.tell_mem, State.giveAreas_mem]

theorem execHeatSheetEntry_wf {s : State} (e : SentEntry) (h : s.mem.wf) : WfResult (execHeatSheetEntry e s) := by
  grind [execHeatSheetEntry, Mem.store_wf, State.entryArrives_mem, WfResult]

@[simp] theorem State.putSheet_mem (s : State) (seq : Word) (m n off : Nat) (bs : List Byte) :
    (s.putSheet seq m n off bs).mem = s.mem := by
  induction n generalizing s off bs with
  | zero => rfl
  | succ n ih =>
    unfold State.putSheet
    split
    · rfl
    · exact (ih _ _ _).trans (by simp)

@[simp] theorem State.putRunSheet_mem (s : State) (seq : Word) (m off : Nat) (bs : List Byte) :
    (s.putRunSheet seq m off bs).mem = s.mem := by simp [State.putRunSheet]

@[simp] theorem State.publish_mem (s : State) (e : HeatEntry) (members : List Nat) :
    (s.publish e members).mem = s.mem :=
  foldl_mem (fun _ _ => by simp)

@[simp] theorem State.sendEntry_mem (s : State) : s.sendEntry.mem = s.mem := by
  unfold State.sendEntry
  dsimp only
  split <;> simp

@[simp] theorem State.noteNumber_mem (s : State) (e : HeatEntry) : (s.noteNumber e).mem = s.mem := rfl

theorem execHeatSheetPublish_wf {s : State} (e : HeatEntry) (h : s.mem.wf) : WfResult (execHeatSheetPublish e s) := by
  grind [execHeatSheetPublish, State.publish_mem, State.noteNumber_mem, WfResult]

@[simp] theorem State.updPublished_mem (s : State) (heat seq : Word) (f : Published → Published) :
    (s.updPublished heat seq f).mem = s.mem := rfl

theorem execAck_wf {s : State} (peer : Nat) (heat seq : Word) (h : s.mem.wf) : WfResult (execAck peer heat seq s) := by
  unfold execAck
  split
  · exact h
  · dsimp only
    split
    · exact h
    · split
      · exact (congrArg Mem.wf (State.updPublished_mem s _ _ _)).mpr h
      · have hp (f : Published → Published) : (s.updPublished heat seq f).mem.wf := State.updPublished_mem s heat seq f ▸ h
        exact wf_ite (foldl_wf (fun _ _ ht => by simpa using ht) (hp _)) (hp _)

theorem execNak_wf {s : State} (peer : Nat) (heat seq : Word) (reason : Nat) (h : s.mem.wf) :
    WfResult (execNak peer heat seq reason s) := by
  grind [execNak, State.updPublished_mem, WfResult]

theorem execCommit_wf {s : State} (sender : Sender) (heat seq : Word) (h : s.mem.wf) :
    WfResult (execCommit sender heat seq s) := by
  grind [execCommit, State.updHeat_mem, WfResult]

theorem execHeartbeatSend_wf {s : State} (h : s.mem.wf) : WfResult (execHeartbeatSend s) := by
  grind [execHeartbeatSend, State.updHeat_mem, State.tell_mem, WfResult]

theorem execHeartbeat_wf {s : State} (peer : Nat) (epoch : DWord) (fromStarter : Bool) (h : s.mem.wf) :
    WfResult (execHeartbeat peer epoch fromStarter s) := by
  grind [execHeartbeat, State.updHeat_mem, State.tell_mem, WfResult]

@[simp] theorem State.stand_mem (s : State) (epoch : DWord) (heard : Option (Nat × Nat)) :
    (s.stand epoch heard).mem = s.mem := by
  unfold State.stand
  split <;> simp

theorem execHeartbeatLoss_wf {s : State} (h : s.mem.wf) : WfResult (execHeartbeatLoss s) := by
  grind [execHeartbeatLoss, State.stand_mem, WfResult]

theorem execCandidacy_wf {s : State} (epoch : DWord) (priority peer : Nat) (h : s.mem.wf) :
    WfResult (execCandidacy epoch priority peer s) := by
  grind [execCandidacy, State.updHeat_mem, State.stand_mem, WfResult]

@[simp] theorem State.rebuild_mem (s : State) : s.rebuild.mem = s.mem := by
  grind [State.rebuild, State.updHeat_mem]

theorem execElectionTimer_wf {s : State} (h : s.mem.wf) : WfResult (execElectionTimer s) := by
  grind [execElectionTimer, State.updHeat_mem, State.tell_mem, State.rebuild_mem, WfResult]

theorem execElectionResult_wf {s : State} (epoch : DWord) (priority peer : Nat) (h : s.mem.wf) :
    WfResult (execElectionResult epoch priority peer s) := by
  grind [execElectionResult, State.updHeat_mem, WfResult]

theorem execEntryRequest_wf {s : State} (peer : Nat) (seq : Word) (h : s.mem.wf) :
    WfResult (execEntryRequest peer seq s) := by
  unfold execEntryRequest
  dsimp only [WfResult]
  split
  · exact foldl_wf (fun _ _ ht => by simpa using ht) h
  · exact h

theorem execMemberFailureReport_wf {s : State} (heat : Word) (failed detail : Nat) (h : s.mem.wf) :
    WfResult (execMemberFailureReport heat failed detail s) := by
  grind [execMemberFailureReport, State.updHeat_mem, State.publish_mem, State.noteNumber_mem, WfResult]

theorem execMemberHeartbeatMissed_wf {s : State} (peer : Nat) (h : s.mem.wf) :
    WfResult (execMemberHeartbeatMissed peer s) := by
  grind [execMemberHeartbeatMissed, State.updHeat_mem, State.tell_mem, WfResult]

@[simp] theorem State.expire_mem (s : State) : s.expire.mem = s.mem := rfl

@[simp] theorem State.startEntry_mem (s : State) (seq : Word) (idle : Bool) : (s.startEntry seq idle).mem = s.mem :=
  rfl

theorem execHeatStart_wf {s : State} (seq : Word) (h : s.mem.wf) : WfResult (execHeatStart seq s) := by
  unfold execHeatStart
  split
  · exact h
  · split
    · exact h
    · dsimp only
      split
      · simpa [WfResult] using h
      · exact foldl_wf (fun t p ht => by exact wf_ite ht ht) (by simpa using h)

theorem execHeat_wf {s : State} (d : RegNo) (sel : BitVec 3) (h : s.mem.wf) : WfResult (execHeat d sel s) := by
  grind [execHeat, State.illegal_wf, State.write_mem, State.extern_mem, WfResult]

/-! ## The clause array (R274 to R293) -/

theorem State.arrayFault_wf {s : State} (k q : Nat) (e : QEntry) (cause : Nat) (h : s.mem.wf) :
    (s.arrayFault k q e cause).mem.wf := State.faultEntry_wf _ _ _ _ _ _ _ _ h

theorem State.arrayBegin_wf {s : State} (k q : Nat) (e : QEntry) (h : s.mem.wf) : (s.arrayBegin k q e).mem.wf := by
  grind [State.arrayBegin, State.updEntry_mem, State.arrayFault_wf]

theorem execClauseEntryStart_wf {s : State} (core : Nat) (h : s.mem.wf) : WfResult (execClauseEntryStart core s) := by
  grind [execClauseEntryStart, State.arrayBegin_wf, WfResult]

theorem State.writeCells_wf {s : State} (core : Nat) (l : List (Nat × Nat × Nat)) (h : s.mem.wf) :
    (s.writeCells core l).mem.wf := by
  obtain ⟨hb, hs, ha, hc, hh⟩ := h
  exact ⟨hb, hs, ha, foldl_keeps Memory.wf _ l _ (fun m x _ hm => memSet_wf m _ _ hm) hc, hh⟩

theorem State.completeStep_wf {s : State} (core k q : Nat) (e : QEntry) (st : Stepping) (h : s.mem.wf) :
    (s.completeStep core k q e st).mem.wf := by
  grind [State.completeStep, State.updEntry_mem, State.updCore_mem, State.arrayFault_wf, State.writeCells_wf]

theorem State.trainStep_wf {s : State} (core : Nat) (h : s.mem.wf) : (s.trainStep core).mem.wf := by
  grind [State.trainStep, State.arrayFault_wf, State.completeStep_wf]

theorem execTrainingStep_wf {s : State} (core : Nat) (h : s.mem.wf) : WfResult (execTrainingStep core s) :=
  State.trainStep_wf _ h

theorem State.endStep_wf {s : State} (core : Nat) (h : s.mem.wf) : (s.endStep core).mem.wf := by
  grind [State.endStep, State.trainStep_wf]

@[simp] theorem State.meetStep_mem (s : State) (core n : Nat) : (s.meetStep core n).mem = s.mem := by
  unfold State.meetStep
  split <;> rfl

theorem State.inferSample_wf {s : State} (k q : Nat) (e : QEntry) (cell : Nat → Nat → Nat) (h : s.mem.wf) :
    (s.inferSample k q e cell).mem.wf := by
  grind [State.inferSample, State.updEntry_mem, State.spotWrite_wf, State.arrayFault_wf]

theorem execInferenceSample_wf {s : State} (core n : Nat) (h : s.mem.wf) : WfResult (execInferenceSample core n s) := by
  grind [execInferenceSample, State.meetStep_mem, State.inferSample_wf, WfResult]

theorem State.loadHead_mem {s t : State} {core : Nat} {p : Spot} {parts : BitVec 7}
    (ht : s.loadHead core p parts = .ok t) : t.mem = s.mem := by
  grind [State.loadHead, State.updCore_mem]

theorem State.loadCells_wf {s : State} (core : Nat) (p : Spot) (o n : Nat) (h : s.mem.wf) :
    (s.loadCells core p o n).1.mem.wf := by
  grind [State.loadCells, Mem.setPoison_wf, Mem.store_wf, Mem.mark_wf]

theorem State.storeGranule_wf {s : State} (core : Nat) (p : Spot) (o : Nat) (h : s.mem.wf) :
    (s.storeGranule core p o).mem.wf := State.spotWrite_wf _ _ h

theorem State.camovNext_wf {s : State} (core k q : Nat) (e : QEntry) (p : Spot) (h : s.mem.wf) :
    (s.camovNext core k q e p).mem.wf := by
  grind [State.camovNext, State.updEntry_mem, State.storeGranule_wf, State.loadHead_mem, State.arrayFault_wf,
    State.loadCells_wf]

theorem execCamovOperation_wf {s : State} (core : Nat) (h : s.mem.wf) : WfResult (execCamovOperation core s) := by
  grind [execCamovOperation, State.arrayFault_wf, State.camovNext_wf, WfResult]

theorem execClauseEntryComplete_wf {s : State} (core : Nat) (h : s.mem.wf) :
    WfResult (execClauseEntryComplete core s) := by
  grind [execClauseEntryComplete, State.settleEntry_mem, State.entryRelease_wf, WfResult]

theorem execClauseEntryRetire_wf {s : State} (core : Nat) (h : s.mem.wf) : WfResult (execClauseEntryRetire core s) := by
  grind [execClauseEntryRetire, State.retireEntry_wf, WfResult]

theorem execCellSoftError_wf {s : State} (core word : Nat) (correctable : Bool) (left : DWord) (h : s.mem.wf) :
    WfResult (execCellSoftError core word correctable left s) := by
  have hp (m : Mem) (hm : m.wf) (a v : Nat) : ({ m with cells := memPutNat m.cells a 8 v } : Mem).wf := by
    obtain ⟨hb, hs, ha, hc, hh⟩ := hm
    exact ⟨hb, hs, ha, memPutNat_wf _ _ _ _ hc, hh⟩
  unfold execCellSoftError
  dsimp only [WfResult]
  split
  · exact h
  · split
    · exact h
    · refine Mem.mark_wf _ _ (hp _ ?_ _ _)
      grind [State.choose_mem, State.updCore_mem]

theorem State.issueArray_wf {s : State} (d a : RegNo) (opcode fn : Nat) (illegal : Bool) (h : s.mem.wf) :
    (s.issueArray d a opcode fn illegal).mem.wf := by
  grind [State.issueArray, State.raise_wf, State.illegal_wf, State.stay_mem, State.issueTo_mem]

theorem clauseBody_wf {b : Body} (hb : WfBody b) : WfBody (clauseBody b) := by
  intro x s hs
  unfold clauseBody
  split
  · trivial
  · exact hb x s hs

theorem execLitp_wf {s : State} (f : LaneFields) (h : s.mem.wf) : WfResult (execLitp f s) := by
  refine laneRun_wf (clauseBody_wf fun x t ht => ?_) h
  grind [WfAct, Ctx.finish, State.updCrew_mem]

theorem execCavr_wf {s : State} (f : LaneFields) (h : s.mem.wf) : WfResult (execCavr f s) := by
  refine laneRun_wf (clauseBody_wf fun x t ht => ?_) h
  grind [WfAct, Ctx.finish, State.updCrew_mem]

theorem execCacl_wf {s : State} (f : LaneFields) (h : s.mem.wf) : WfResult (execCacl f s) := by
  refine laneRun_wf (clauseBody_wf fun x t ht => ?_) h
  grind [WfAct, Ctx.finish, State.updCrew_mem]

theorem execCawd_wf {s : State} (f : LaneFields) (h : s.mem.wf) : WfResult (execCawd f s) := by
  refine laneRun_wf (clauseBody_wf fun x t ht => ?_) h
  split
  · trivial
  · exact foldl_wf (fun _ _ hu => Mem.storeNat_wf _ _ _ _ hu) ht

/-! ## The remote queue (R358 to R362) -/

theorem State.xqFault_wf {s : State} (k q : Nat) (e : QEntry) (cause a rdet : Nat) (h : s.mem.wf) :
    (s.xqFault k q e cause a rdet).mem.wf := State.faultEntry_wf _ _ _ _ _ _ _ _ h

@[simp] theorem State.putAcked_mem (s : State) (e : QEntry) : (s.putAcked e).mem = s.mem := by
  unfold State.putAcked
  dsimp only
  split <;> simp

theorem State.xputRun_wf {s : State} (k q : Nat) (e : QEntry) (h : s.mem.wf) : (s.xputRun k q e).mem.wf := by
  grind [State.xputRun, State.updEntry_mem, State.engineRequest_mem, State.xqFault_wf, State.putAcked_mem]

theorem execXput_wf {s : State} (d a : RegNo) (h : s.mem.wf) : WfResult (execXput d a s) := by
  grind [execXput, State.updCrew_mem, State.raise_wf, State.stay_mem, State.issueTo_mem, WfResult]

@[simp] theorem State.contribute_mem (s : State) (launch coh : Nat) (c : Contribution) :
    (s.contribute launch coh c).mem = s.mem := by
  grind [State.contribute, State.updLaunch_mem]

theorem State.collBegin_wf {s : State} (k q : Nat) (e : QEntry) (h : s.mem.wf) : (s.collBegin k q e).mem.wf := by
  unfold State.collBegin
  extract_lets base d x part core fail rel inRows
  split
  extract_lets l P p n
  have hf (c a : Nat) : (fail c a).mem.wf := State.xqFault_wf _ _ _ _ _ _ h
  clear_value fail
  refine wf_ite (hf _ _) (wf_ite (hf _ _) (wf_ite (hf _ _) ?_))
  split
  · next sa da _ _ =>
    refine wf_ite (hf _ _) (wf_ite (hf _ _) ?_)
    extract_lets r
    have hr : r.1.s.mem.wf := by simpa only [r, Scan.reads_mem] using h
    clear_value r
    split
    · exact State.xqFault_wf _ _ _ _ _ _ hr
    · exact hr
    · rw [State.updEntry_mem, State.contribute_mem]
      exact hr
  · exact hf _ _

@[simp] theorem State.farGone_mem (s : State) (launch coh b : Nat) : (s.farGone launch coh b).mem = s.mem := by
  grind [State.farGone, State.updLaunch_mem]

theorem State.collWrite_wf {s : State} (k q : Nat) (e : QEntry) (a : CopyAddr) (d n : Nat) (bs : List (Byte × Bool))
    (h : s.mem.wf) : (s.collWrite k q e a d n bs).1.mem.wf := by
  induction n generalizing s d bs with
  | zero => exact h
  | succ n ih => grind [State.collWrite, Scan.dests_mem, State.putGroup_wf]

@[simp] theorem State.collTaken_mem (s : State) (e : QEntry) : (s.collTaken e).mem = s.mem := by
  grind [State.collTaken, State.updLaunch_mem]

theorem State.collFinish_wf {s : State} (k q : Nat) (e : QEntry) (h : s.mem.wf) : (s.collFinish k q e).mem.wf := by
  grind [State.collFinish, Mem.storeNat_wf, State.updEntry_mem, State.xqFault_wf, State.collWrite_wf,
    State.collTaken_mem]

theorem State.collRun_wf {s : State} (k q : Nat) (e : QEntry) (h : s.mem.wf) : (s.collRun k q e).mem.wf := by
  grind [State.collRun, State.updEntry_mem, State.engineRequest_mem, State.xqFault_wf, State.collFinish_wf]

@[simp] theorem State.nextGeneration_mem (s : State) (launch coh b : Nat) :
    (s.nextGeneration launch coh b).2.mem = s.mem := by
  grind [State.nextGeneration, State.updLaunch_mem]

theorem execColl_wf {s : State} (d a : RegNo) (n : BitVec 2) (kind : BitVec 3) (h : s.mem.wf) :
    WfResult (execColl d a n kind s) := by
  grind [execColl, State.nextGeneration_mem, State.raise_wf, State.illegal_wf, State.stay_mem, State.logOp_mem,
    State.divergent_wf, State.begins_mem, State.issueTo_mem, WfResult]

theorem State.xqStep_wf {s : State} (k q : Nat) (t : Word) (h : s.mem.wf) : (s.xqStep k q t).mem.wf := by
  grind [State.xqStep, State.updEntry_mem, State.xqFault_wf, State.collBegin_wf, State.collRun_wf, State.xputRun_wf]

theorem execXqEntryStart_wf {s : State} (part core : Nat) (h : s.mem.wf) : WfResult (execXqEntryStart part core s) := by
  unfold execXqEntryStart
  exact foldl_wf (fun t q ht => wf_ite (foldl_wf (fun _ _ hu => State.xqStep_wf _ _ _ hu) ht) ht) h

theorem execXqEntryComplete_wf {s : State} (part core : Nat) (h : s.mem.wf) :
    WfResult (execXqEntryComplete part core s) := by
  refine foldl_wf (fun t q ht => ?_) h
  grind [State.entryRelease_wf, State.settleEntry_mem]

theorem execXqEntryResume_wf {s : State} (part core : Nat) (h : s.mem.wf) :
    WfResult (execXqEntryResume part core s) := by
  grind [execXqEntryResume, State.updEntry_mem, WfResult]

theorem execXqEntryRetire_wf {s : State} (part core : Nat) (h : s.mem.wf) :
    WfResult (execXqEntryRetire part core s) := by
  grind [execXqEntryRetire, State.collTaken_mem, State.putAcked_mem, State.retireEntry_wf, WfResult]

/-! ## Graphs, banks and cones (R295 to R323) -/

theorem State.graphPost_wf {s : State} (key kind node cause ticket addr prog : Nat) (h : s.mem.wf) :
    (s.graphPost key kind node cause ticket addr prog).mem.wf := State.post_wf _ _ _ h

@[simp] theorem State.makeReady_mem (s : State) (key id : Nat) : (s.makeReady key id).mem = s.mem := rfl

@[simp] theorem State.dropTasks_mem (s : State) (key id : Nat) : (s.dropTasks key id).mem = s.mem := rfl

@[simp] theorem State.childLeft_mem (s : State) (key id : Nat) (cancelled : Bool) :
    (s.childLeft key id cancelled).mem = s.mem := by
  grind [State.childLeft, State.setCrewAt_mem, State.updGraph_mem, State.updNode_mem]

theorem State.retireNode_wf {s : State} (key : Nat) (n : Node) (h : s.mem.wf) : (s.retireNode key n).mem.wf := by
  unfold State.retireNode
  extract_lets s1
  have h1 : s1.mem.wf := by
    simp only [s1]
    split
    · exact State.endStep_wf _ h
    · exact h
  clear_value s1
  split
  · exact h1
  · extract_lets s2 s3 s4 f s5 s6
    have h2 : s2.mem.wf := wf_ite (State.writeStat_wf _ _ _ _ h1) h1
    have h3 : s3.mem.wf := wf_ite h2 h2
    have h4 : s4.mem.wf := wf_ite (State.completionWord_wf _ _ _ h3) h3
    have h6 : s6.mem.wf := wf_ite (State.collTaken_mem s5 _ ▸ h4) h4
    exact State.retireEntry_wf _ _ _ _ _ _ h6

theorem State.openCone_wf {s : State} (key id cause ticket : Nat) (h : s.mem.wf) :
    (s.openCone key id cause ticket).mem.wf := by
  grind [State.openCone, State.updGraph_mem, State.updNode_mem, State.graphPost_wf, State.retireNode_wf,
    State.dropTasks_mem]

@[simp] theorem State.cancelNode_mem (s : State) (key id : Nat) : (s.cancelNode key id).mem = s.mem := by
  unfold State.cancelNode
  split <;> simp

@[simp] theorem State.settleNodes_mem (s : State) (key n : Nat) : (s.settleNodes key n).mem = s.mem := by
  induction n generalizing s with
  | zero => rfl
  | succ n ih => grind [State.settleNodes, State.cancelNode_mem]

@[simp] theorem State.freeHeads_mem (s : State) (key : Nat) : (s.freeHeads key).mem = s.mem :=
  foldl_mem (fun _ _ => State.makeReady_mem _ _ _)

@[simp] theorem State.coneTick_mem (s : State) (key : Nat) : (s.coneTick key).mem = s.mem := by simp [State.coneTick]

theorem execNodeFault_wf {s : State} (part handle node : Nat) (cause : BitVec 8) (ticket : Word) (h : s.mem.wf) :
    WfResult (execNodeFault part handle node cause ticket s) := by
  grind [execNodeFault, State.updNode_mem, State.coneTick_mem, State.graphPost_wf, State.retireNode_wf,
    State.openCone_wf, WfResult]

theorem State.visit_wf {s : State} (key head : Nat) (x : Nat × Nat) (h : s.mem.wf) : (s.visit key head x).mem.wf := by
  grind [State.visit, State.updGraph_mem, State.updNode_mem, State.cancelNode_mem, State.retireNode_wf,
    State.dropTasks_mem]

theorem execConeVisit_wf {s : State} (part handle head : Nat) (h : s.mem.wf) :
    WfResult (execConeVisit part handle head s) := by
  grind [execConeVisit, State.updGraph_mem, State.coneTick_mem, State.visit_wf, WfResult]

theorem execCrewStop_wf {s : State} (slot head : Nat) (h : s.mem.wf) : WfResult (execCrewStop slot head s) := by
  grind [execCrewStop, State.coneTick_mem, State.endCrew_wf, WfResult]

@[simp] theorem State.rearm_mem (s : State) (key : Nat) (m : Node) : (s.rearm key m).mem = s.mem := by
  unfold State.rearm
  dsimp only
  split <;> simp

theorem State.retryCone_wf {s : State} (key : Nat) (c : Cone) (x : Node) (h : s.mem.wf) :
    (s.retryCone key c x).mem.wf := by
  refine State.graphPost_wf _ _ _ _ _ _ _ (foldl_wf (fun t y ht => ?_) h)
  split
  · simpa using ht
  · exact ht

@[simp] theorem State.abandonCone_mem (s : State) (key : Nat) (c : Cone) (x : Node) :
    (s.abandonCone key c x).mem = s.mem := by
  have hf : (c.held.foldl (fun s x => match (s.graph key).member x with
      | some n => if n.state = .retryWait then s.cancelNode key x.1 else s
      | none => s) (s.updGraph key fun g =>
        { g with cones := g.cones.map fun x => if x = c then { x with resolved := some false } else x })).mem = s.mem :=
    foldl_mem (fun t y => by split <;> [split; skip] <;> simp)
  unfold State.abandonCone
  dsimp only
  split
  · rw [State.childLeft_mem]; exact hf
  · exact hf

theorem execConeResolve_wf {s : State} (part handle : Nat) (h : s.mem.wf) :
    WfResult (execConeResolve part handle s) := by
  grind [execConeResolve, State.updGraph_mem, State.coneTick_mem, State.retryCone_wf, State.abandonCone_mem, WfResult]

theorem execHeadRelease_wf {s : State} (part handle node : Nat) (h : s.mem.wf) :
    WfResult (execHeadRelease part handle node s) := by
  grind [execHeadRelease, State.updGraph_mem, State.freeHeads_mem, WfResult]

@[simp] theorem State.applyToken_mem (s : State) (t : Token) : (s.applyToken t).mem = s.mem := by
  grind [State.applyToken, State.updGraph_mem, State.updNode_mem, State.makeReady_mem]

theorem execToken_wf {s : State} (die : Nat) (h : s.mem.wf) : WfResult (execToken die s) := by
  grind [execToken, State.updDie_mem, State.applyToken_mem, WfResult]

theorem State.linkRelease_wf {s : State} (n : Node) (h : s.mem.wf) : (s.linkRelease n).mem.wf := by
  grind [State.linkRelease, State.release_wf]

theorem execNodeDone_wf {s : State} (part handle node : Nat) (h : s.mem.wf) :
    WfResult (execNodeDone part handle node s) := by
  unfold execNodeDone
  dsimp only [WfResult]
  split
  · exact h
  · next n _ =>
    split
    · exact h
    · have hl : ((s.linkRelease n).updNode (graphKey part handle) node fun n => { n with state := .done }).mem.wf := by
        simpa using State.linkRelease_wf n h
      split
      · rw [State.coneTick_mem, State.childLeft_mem]
        exact foldl_wf (fun _ _ ht => by exact ht) hl
      · exact foldl_wf (fun _ _ ht => by exact ht) hl

/-! ## Task units and the placement of blocks -/

@[simp] theorem State.gsRead_mem (s : State) (part troot die va : Nat) :
    (s.gsRead part troot die va).1.mem = s.mem := by
  grind [State.gsRead, State.translate_mem]

@[simp] theorem State.gsOverflow_mem (s : State) (part troot die base va n idx : Nat) (seen : List Nat) :
    (s.gsOverflow part troot die base va n idx seen).1.mem = s.mem := by
  induction n generalizing s idx seen with
  | zero => rfl
  | succ n ih => grind [State.gsOverflow, State.gsRead_mem]

@[simp] theorem State.gsNode_mem (s : State) (key troot die i : Nat) : (s.gsNode key troot die i).1.mem = s.mem := by
  grind [State.gsNode, State.gsRead_mem, State.gsOverflow_mem]

@[simp] theorem State.gsNodes_mem (s : State) (key troot : Nat) (l : List (Nat × Nat)) :
    (s.gsNodes key troot l).1.mem = s.mem := by
  induction l generalizing s with
  | nil => rfl
  | cons x l ih => grind [State.gsNodes, State.gsNode_mem]

theorem State.doneRelease_wf {s : State} (key : Nat) (h : s.mem.wf) : (s.doneRelease key).mem.wf := by
  grind [State.doneRelease, State.release_wf]

theorem State.writeBack_wf {s : State} (key : Nat) (n : Node) (h : s.mem.wf) : (s.writeBack key n).mem.wf := by
  grind [State.writeBack, State.translate_mem, State.spotPut_wf, State.graphPost_wf]

theorem State.endGraph_wf {s : State} (key : Nat) (nodes : List Node) (h : s.mem.wf) : (s.endGraph key nodes).mem.wf :=
  State.doneRelease_wf _ (foldl_wf (fun _ _ ht => State.writeBack_wf _ _ ht) h)

@[simp] theorem State.nameNodes_mem (s : State) (l : List Node) : (s.nameNodes l).2.mem = s.mem := rfl

theorem execGraphLoadComplete_wf {s : State} (part handle : Nat) (h : s.mem.wf) :
    WfResult (execGraphLoadComplete part handle s) := by
  unfold execGraphLoadComplete
  extract_lets key g all r s1 l bad held x s2
  have h1 : s1.mem.wf := State.gsNodes_mem s key _ all ▸ h
  have h2 : s2.mem.wf := State.nameNodes_mem s1 (giveSlots held l) ▸ h1
  clear_value bad s2
  refine wf_ite h ?_
  split
  · exact State.endGraph_wf _ _ (State.graphPost_wf _ _ _ _ _ _ _ h1)
  · exact foldl_wf (fun _ _ ht => by simpa using ht) h2

@[simp] theorem State.launchCheck_mem (s : State) (key : Nat) (n : Node) : (s.launchCheck key n).1.mem = s.mem := by
  grind [State.launchCheck, State.translate_mem]

theorem execNodeEnterBank_wf {s : State} (part handle node : Nat) (h : s.mem.wf) :
    WfResult (execNodeEnterBank part handle node s) := by
  unfold execNodeEnterBank
  dsimp only [WfResult]
  split
  · exact h
  · next n _ =>
    have hr : (s.launchCheck (graphKey part handle) n).1.mem.wf := State.launchCheck_mem s _ n ▸ h
    refine wf_ite h ?_
    split
    · exact State.openCone_wf _ _ _ _ (State.graphPost_wf _ _ _ _ _ _ _ hr)
    · exact wf_ite hr hr

theorem execPrefetchFill_wf {s : State} (core : Nat) (h : s.mem.wf) : WfResult (execPrefetchFill core s) := by
  grind [execPrefetchFill, State.updCore_mem, State.updDie_mem, WfResult]

theorem execTquAging_wf {s : State} (die part index : Nat) (h : s.mem.wf) :
    WfResult (execTquAging die part index s) := by
  grind [execTquAging, State.updDie_mem, WfResult]

theorem State.startBlock_wf {s : State} (core : Nat) (t : Task) (n : Node) (x : Needs) (slots : List Nat) (bmemLo : Nat)
    (h : s.mem.wf) : (s.startBlock core t n x slots bmemLo).mem.wf := by
  refine foldl_wf (fun _ _ hu => by exact hu) ?_
  split
  · exact h
  · exact Mem.store_wf _ _ _ h

theorem execBlockPlacement_wf {s : State} (core : Nat) (h : s.mem.wf) : WfResult (execBlockPlacement core s) := by
  grind [execBlockPlacement, State.updCore_mem, State.startBlock_wf, WfResult]

@[simp] theorem State.launchGraph_mem (s : State) (part job launch : Nat) :
    (s.launchGraph part job launch).mem = s.mem := by
  grind [State.launchGraph, State.makeReady_mem, State.nameNodes_mem, State.updJob_mem]

theorem execEngineNodeIssue_wf {s : State} (part handle node : Nat) (h : s.mem.wf) :
    WfResult (execEngineNodeIssue part handle node s) := by
  grind [execEngineNodeIssue, State.updNode_mem, State.spotWrite_wf, State.coneTick_mem, State.graphPost_wf,
    State.openCone_wf, State.nextGeneration_mem, State.enqueue_mem, WfResult]

theorem execGraphEnd_wf {s : State} (part handle : Nat) (h : s.mem.wf) : WfResult (execGraphEnd part handle s) := by
  unfold execGraphEnd
  exact wf_ite h (State.endGraph_wf _ _ (foldl_wf (fun _ _ ht => State.graphPost_wf _ _ _ _ _ _ _ ht) h))

@[simp] theorem State.spawn_mem (s : State) (d : RegNo) (r : List Byte) : (s.spawn d r).mem = s.mem := by
  grind [State.spawn, State.updCrew_mem, State.updGraph_mem, State.updNode_mem, State.updDie_mem, State.makeReady_mem,
    State.write_mem]

theorem execSpwn_wf {s : State} (d a : RegNo) (h : s.mem.wf) : WfResult (execSpwn d a s) := by
  grind [execSpwn, State.raise_wf, State.illegal_wf, State.stay_mem, State.poisonRaise_wf, State.spawn_mem, WfResult]

theorem execJnwt_wf {s : State} (d : RegNo) (h : s.mem.wf) : WfResult (execJnwt d s) :=
  State.waitJoin_wf (fun _ ht => ht) h

@[simp] theorem State.glch_mem (s : State) (p : Nat) (r : List Byte) : (s.glch p r).2.mem = s.mem := by
  grind [State.glch]

theorem execGlch_wf {s : State} (d a : RegNo) (h : s.mem.wf) : WfResult (execGlch d a s) := by
  grind [execGlch, State.raise_wf, State.stay_mem, State.write_mem, State.glch_mem, WfResult]

theorem State.gctl_wf {s : State} (a : RegNo) (op : Nat) {k : Graph → Nat → State} (hk : ∀ g i, (k g i).mem.wf)
    (h : s.mem.wf) : (s.gctl a op k).mem.wf := by
  grind [State.gctl, State.illegal_wf]

theorem execGctlStatus_wf {s : State} (d a : RegNo) (h : s.mem.wf) : WfResult (execGctlStatus d a s) :=
  State.gctl_wf a 0 (fun _ _ => h) h

theorem execGctlLeft_wf {s : State} (d a : RegNo) (h : s.mem.wf) : WfResult (execGctlLeft d a s) :=
  State.gctl_wf a 1 (fun _ _ => h) h

theorem execGctlNode_wf {s : State} (d a b : RegNo) (h : s.mem.wf) : WfResult (execGctlNode d a b s) :=
  State.gctl_wf a 2 (fun _ _ => by split <;> exact h) h

theorem execGctlFree_wf {s : State} (d a : RegNo) (h : s.mem.wf) : WfResult (execGctlFree d a s) :=
  State.gctl_wf a 3 (fun g _ => by dsimp only; split <;> exact h) h

theorem execGctlWait_wf {s : State} (d a : RegNo) (h : s.mem.wf) : WfResult (execGctlWait d a s) :=
  State.gctl_wf a 4 (fun _ _ => by split <;> exact h) h

/-! ## The save area of a switch -/

theorem SaveJob.put_wf {s : State} (x : SaveJob) (o : Nat) (bs : List Byte) (h : s.mem.wf) :
    (SaveJob.put x o bs s).mem.wf := State.areaWrite_wf _ _ _ h

theorem State.putPair_wf {s : State} (x : SaveJob) (pair : Nat) (h : s.mem.wf) : (s.putPair x pair).mem.wf := by
  grind [State.putPair, State.areaWrite_wf]

theorem State.getPair_wf {s : State} (x : SaveJob) (pair : Nat) (h : s.mem.wf) : (s.getPair x pair).mem.wf := by
  grind [State.getPair, State.spotWrite_wf, State.updCore_mem]

theorem State.setValid_wf {s : State} (x : SaveJob) (v : Nat) (h : s.mem.wf) : (s.setValid x v).mem.wf :=
  State.areaWrite_wf _ _ _ h

theorem State.putQueues_wf {s : State} (x : SaveJob) (h : s.mem.wf) : (s.putQueues x).mem.wf :=
  SaveJob.put_wf _ _ _ (SaveJob.put_wf _ _ _ (SaveJob.put_wf _ _ _ h))

theorem State.putGraph_wf {s : State} (x : SaveJob) (h : s.mem.wf) : (s.putGraph x).mem.wf := by
  grind [State.putGraph, SaveJob.put_wf]

theorem State.putParked_wf {s : State} (x : SaveJob) (l : List (Packet × DWord)) (h : s.mem.wf) :
    (s.putParked x l).mem.wf := SaveJob.put_wf _ _ _ (SaveJob.put_wf _ _ _ h)

theorem State.putResponse_wf {s : State} (die base : Nat) (p : Packet) (h : s.mem.wf) :
    (s.putResponse die base p).mem.wf := by
  grind [State.putResponse, State.areaWrite_wf]

/-- The canonical form of a state's memories under a name of its own: in a long chain of saves the states are compared,
and their memories are never unfolded. -/
def State.Canonical (s : State) : Prop := s.mem.wf

section
variable {s : State} (h : s.Canonical)
include h

theorem State.Canonical.ite {t : State} {c : Prop} [Decidable c] (ht : t.Canonical) : (if c then t else s).Canonical :=
  wf_ite ht h
theorem State.Canonical.areaWrite (die r : Nat) (bs : List (Byte × Bool)) : (s.areaWrite die r bs).Canonical :=
  State.areaWrite_wf die r bs h
theorem State.Canonical.put (x : SaveJob) (o : Nat) (bs : List Byte) :
    (x.put o bs s).Canonical := SaveJob.put_wf x o bs h
theorem State.Canonical.putPair (x : SaveJob) (pair : Nat) : (s.putPair x pair).Canonical := State.putPair_wf x pair h
theorem State.Canonical.putQueues (x : SaveJob) : (s.putQueues x).Canonical := State.putQueues_wf x h
theorem State.Canonical.putGraph (x : SaveJob) : (s.putGraph x).Canonical := State.putGraph_wf x h
theorem State.Canonical.putParked (x : SaveJob) (l : List (Packet × DWord)) : (s.putParked x l).Canonical :=
  State.putParked_wf x l h

end

theorem State.saveCore_wf {s : State} (x : SaveJob) (h : s.mem.wf) : (s.saveCore x).mem.wf := by
  have h : s.Canonical := h
  suffices (s.saveCore x).Canonical from this
  unfold State.saveCore
  extract_lets bySprint slots live crews s1 q s2 rows s3 s4 s5 s6 set s7 s8 s9 s10 c sa s11 s12 s13 valid
  have h1 : s1.Canonical := foldl_keeps State.Canonical _ _ _ (fun t y _ ht => ht.ite (ht.put ..)) h
  have h3 : s3.Canonical := (h1.areaWrite ..).areaWrite ..
  have h4 : s4.Canonical := (h3.put ..).ite h3
  have h5 : s5.Canonical := h4.ite (h4.putPair ..)
  have h6 : s6.Canonical := h5.ite (h5.putPair ..)
  have h7 : s7.Canonical := by
    refine h6.ite ?_
    split
    · exact h6.put ..
    · exact h6
  have h10 : s10.Canonical := ((h7.put ..).put ..).put ..
  have ha : sa.Canonical := h10.put ..
  have h11 : s11.Canonical := h10.ite (ha.put ..)
  have h13 : s13.Canonical := ((h11.putQueues x).putGraph x).putParked ..
  exact h13.put ..

theorem State.loadCore_wf {s : State} (x : SaveJob) (h : s.mem.wf) : (s.loadCore x).mem.wf := by
  grind [State.loadCore, Mem.store_wf, State.spotWrite_wf, State.updCore_mem, State.getPair_wf]

/-! ## The switch: catch, save, restore and start (R377 to R400) -/

theorem State.catchCrew_wf {s : State} (slot : Nat) (h : s.mem.wf) : (s.catchCrew slot).mem.wf := by
  grind [State.catchCrew, State.setCrewAt_mem, State.abandonAll_wf, State.drainAt_wf]

@[simp] theorem State.applyTokens_mem (s : State) (part : Nat) : (s.applyTokens part).mem = s.mem := by
  unfold State.applyTokens
  exact foldl_mem (fun t d => (foldl_mem State.applyToken_mem).trans (State.updDie_mem _ _ _))

@[simp] theorem State.returnTasks_mem (s : State) (part core : Nat) : (s.returnTasks part core).mem = s.mem :=
  foldl_mem (fun _ _ => State.updDie_mem _ _ _)

theorem State.settleGranules_wf {s : State} (k core n : Nat) (h : s.mem.wf) : (s.settleGranules k core n).mem.wf := by
  induction n generalizing s with
  | zero => exact h
  | succ n ih =>
    have hp := State.pickGranule_mem s ((s.granuleOffers core).filter fun g => g.key == k)
    grind [State.settleGranules, State.clauseWrite_wf, State.updCore_mem]

theorem State.settleArray_wf {s : State} (part core : Nat) (h : s.mem.wf) : (s.settleArray part core).mem.wf := by
  grind [State.settleArray, State.endStep_wf, State.settleGranules_wf]

theorem State.stopTile_wf {s : State} (core : Nat) (h : s.mem.wf) : (s.stopTile core).mem.wf := by
  grind [State.stopTile, State.choose_mem, State.tileFault_wf, State.setTileStatus_mem]

@[simp] theorem State.dropHolds_mem (s : State) (part : Nat) : (s.dropHolds part).mem = s.mem := rfl

theorem State.resetCrews_wf {s : State} (part core : Nat) (code : BitVec 8) (h : s.mem.wf) :
    (s.resetCrews part core code).mem.wf :=
  foldl_wf (fun t x ht => by exact State.endCrew_wf _ _ _ (show (t.setCrewAt _ _).mem.wf from ht)) h

@[simp] theorem State.clearGraphs_mem (s : State) (part : Nat) : (s.clearGraphs part).mem = s.mem := rfl

@[simp] theorem State.clearDies_mem (s : State) (part : Nat) : (s.clearDies part).mem = s.mem := rfl

@[simp] theorem State.saveJob_mem (s : State) (part core job : Nat) : (s.saveJob part core job).2.mem = s.mem := by
  unfold State.saveJob
  split <;> simp

theorem State.reloadPairs_wf {s : State} (part core : Nat) (pair0 pair1 : Bool) (h : s.mem.wf) :
    (s.reloadPairs part core pair0 pair1).mem.wf := by
  grind [State.reloadPairs, State.saveJob_mem, State.getPair_wf, State.setValid_wf]

theorem State.leaveSprint_wf {s : State} (x : Sprint) (core : Nat) (back : List Nat) (h : s.mem.wf) :
    (s.leaveSprint x core back).mem.wf :=
  foldl_wf (fun _ _ ht => by exact ht) (foldl_wf (fun _ _ ht => by exact State.reloadPairs_wf _ _ _ _ ht) (Mem.zero_wf _ _ _ h))

theorem State.cutSprint_wf {s : State} (core part : Nat) (h : s.mem.wf) : (s.cutSprint core part).mem.wf := by
  grind [State.cutSprint, State.updHeat_mem, State.resetCrews_wf, State.leaveSprint_wf, State.clearDies_mem,
    State.clearGraphs_mem]

@[simp] theorem State.updSwitch_mem (s : State) (part core : Nat) (f : Switch → Switch) :
    (s.updSwitch part core f).mem = s.mem := rfl

theorem State.catchPart_wf {s : State} (part core : Nat) (h : s.mem.wf) : (s.catchPart part core).mem.wf := by
  unfold State.catchPart
  extract_lets s1 s2 s3 s4 s5 s6 s7
  have h1 : s1.mem.wf := State.cutSprint_wf _ _ h
  have h2 : s2.mem.wf := foldl_wf (fun _ _ ht => State.catchCrew_wf _ ht) h1
  have h3 : s3.mem.wf := by simp only [s3, State.dropHolds_mem]; exact h2
  have h4 : s4.mem.wf := by simp only [s4, State.applyTokens_mem]; exact h3
  have h5 : s5.mem.wf := by simp only [s5, State.returnTasks_mem]; exact h4
  clear_value s5
  have h6 : s6.mem.wf := wf_ite (State.stopTile_wf _ h5) h5
  have h7 : s7.mem.wf := State.settleArray_wf _ _ h6
  clear_value s7
  simp only [State.updSwitch_mem, State.setPhase_mem]
  exact h7

theorem execCatchCore_wf {s : State} (core part : Nat) (h : s.mem.wf) : WfResult (execCatchCore core part s) := by
  grind [execCatchCore, State.catchPart_wf, WfResult]

theorem execDeadlineReset_wf {s : State} (core part : Nat) (h : s.mem.wf) :
    WfResult (execDeadlineReset core part s) := by
  grind [execDeadlineReset, State.resetCrews_wf, State.catchPart_wf, WfResult]

@[simp] theorem State.stopHeat_mem (s : State) (part die : Nat) : (s.stopHeat part die).mem = s.mem := by
  unfold State.stopHeat
  dsimp only
  split <;> simp

theorem execSave_wf {s : State} (core part : Nat) (h : s.mem.wf) : WfResult (execSave core part s) := by
  grind [execSave, State.setPhase_mem, State.saveJob_mem, State.updSwitch_mem, State.saveCore_wf, State.stopHeat_mem,
    WfResult]

theorem State.takeAway_wf {s : State} (part core job : Nat) (cores : List Nat) (h : s.mem.wf) :
    (s.takeAway part core job cores).mem.wf :=
  foldl_wf (fun _ _ ht => by exact ht) (foldl_wf (fun _ _ ht => by exact ht) (foldl_wf (fun _ _ ht => by exact ht) (State.putParked_wf _ _ h)))

@[simp] theorem State.heatEnters_mem (s : State) (part : Nat) (w : Switch) : (s.heatEnters part w).mem = s.mem := by
  grind [State.heatEnters, State.updHeat_mem]

theorem execDrainAndTag_wf {s : State} (core part : Nat) (h : s.mem.wf) : WfResult (execDrainAndTag core part s) := by
  grind [execDrainAndTag, State.setPhase_mem, State.updSwitch_mem, State.takeAway_wf, State.heatEnters_mem, WfResult]

theorem execParkedResponse_wf {s : State} (p : Packet) (h : s.mem.wf) : WfResult (execParkedResponse p s) := by
  grind [execParkedResponse, State.updHeat_mem, State.putResponse_wf, State.tell_mem, State.deliver_mem,
    State.served_mem, WfResult]

theorem State.putBack_wf {s : State} (a : SavedArea) (core base : Nat) (m : CoreMove) (h : s.mem.wf) :
    (s.putBack a core base m).mem.wf := by
  unfold State.putBack
  extract_lets k y x v used slots s1 s2 set s3 s4 s5 s6 s7 s8 s9
  have h1 : s1.mem.wf := State.loadCore_wf _ h
  clear_value s1
  have h2 : s2.mem.wf := by
    refine wf_ite (foldl_wf (fun t y ht => ?_) h1) h1
    split
    · exact wf_ite ht ht
    · exact ht
  have h3 : s3.mem.wf := wf_ite h2 h2
  clear_value s3
  have h4 : s4.mem.wf := foldl_wf (fun _ _ ht => by exact ht) h3
  have h5 : s5.mem.wf := foldl_wf (fun _ _ ht => by exact ht) h4
  have h6 : s6.mem.wf := wf_ite h5 h3
  have h8 : s8.mem.wf := wf_ite h6 h6
  exact State.setValid_wf _ _ h8

@[simp] theorem State.placeHolds_mem (s : State) (job part : Nat) : (s.placeHolds job part).mem = s.mem :=
  foldl_mem (fun _ _ => by simp)

@[simp] theorem State.refuseJob_mem (s : State) (core part : Nat) (seq heat : Word) :
    (s.refuseJob core part seq heat).mem = s.mem := by simp [State.refuseJob]

theorem execSwitchRestore_wf {s : State} (core part : Nat) (seq : Word) (h : s.mem.wf) :
    WfResult (execSwitchRestore core part seq s) := by
  grind [execSwitchRestore, State.setPhase_mem, State.updJob_mem, State.putBack_wf, State.placeHolds_mem,
    State.refuseJob_mem, WfResult]

theorem State.putVirtual_wf {s t : State} {part troot va n : Nat} {bs : List Byte} (h : s.mem.wf)
    (ht : s.putVirtual part troot va n bs = some t) : t.mem.wf := by
  induction n generalizing s va bs with
  | zero => grind [State.putVirtual]
  | succ n ih => grind [State.putVirtual, State.spotWrite_wf]

theorem State.putData_wf {s t : State} {part troot : Nat} {j : JobSpec} (h : s.mem.wf)
    (ht : s.putData part troot j = some t) : t.mem.wf := by
  refine foldl_keeps (fun o : Option State => ∀ t, o = some t → t.mem.wf) _ _ _ (fun o x _ ho u hu => ?_)
    (fun u hu => Option.some.inj hu ▸ h) t ht
  obtain ⟨v, hv, hu⟩ := Option.bind_eq_some_iff.1 hu
  exact State.putVirtual_wf (ho v hv) hu

theorem State.loadLaunch_wf {s : State} (part : Nat) (cores : List Nat) (id : Nat) (j : JobSpec) (h : s.mem.wf) :
    (s.loadLaunch part cores id j).1.mem.wf := by
  unfold State.loadLaunch
  dsimp only
  split
  · exact h
  · split
    · split
      · exact h
      · next t ht =>
        refine foldl_wf (fun u d hu => wf_ite hu (Mem.store_wf _ _ _ hu)) ?_
        have h2 := State.putData_wf h ht
        exact foldl_wf (fun u c hu => by exact wf_ite (Mem.store_wf _ _ _ hu) hu) h2
    · exact h

theorem State.zeroPins_wf {s : State} (core : Nat) (h : s.mem.wf) : (s.zeroPins core).mem.wf := Mem.zero_wf _ _ _ h

theorem State.zeroArray_wf {s : State} (core : Nat) (h : s.mem.wf) : (s.zeroArray core).mem.wf := Mem.zero_wf _ _ _ h

theorem State.zeroPart_wf {s : State} (part core : Nat) (h : s.mem.wf) : (s.zeroPart part core).mem.wf := by
  grind [State.zeroPart, State.updQset_mem, State.updCore_mem, Mem.zero_wf, State.zeroArray_wf, State.zeroPins_wf]

theorem State.freshJob_wf {s : State} (part : Nat) (cores : List Nat) (j : JobSpec) (more : List JobSpec) (h :
    s.mem.wf) :
    (s.freshJob part cores j more).mem.wf := by
  unfold State.freshJob
  extract_lets s1 s2 s3 s4 old back heat job0 job s5 id r s6
  have h1 : s1.mem.wf := foldl_wf (fun _ _ ht => State.zeroPart_wf _ _ ht) h
  have h2 : s2.mem.wf := by simpa [s2] using h1
  have hr : r.1.mem.wf := State.loadLaunch_wf _ _ _ _ (show s5.mem.wf from h2)
  have h6 : s6.mem.wf := foldl_wf (fun _ _ ht => State.loadLaunch_wf _ _ _ _ ht) hr
  exact wf_ite (State.launchGraph_mem s6 _ _ _ ▸ h6) h6

theorem execFreshStart_wf {s : State} (part : Nat) (j : JobSpec) (more : List JobSpec) (h : s.mem.wf) :
    WfResult (execFreshStart part j more s) := by
  unfold execFreshStart
  dsimp only [WfResult]
  split
  · exact h
  · split
    · split
      · exact State.freshJob_wf _ _ _ _ (foldl_wf (fun _ _ ht => by exact ht) h)
      · exact h
    · split
      · exact foldl_wf (fun _ _ ht => by exact ht) (State.freshJob_wf _ _ _ _ h)
      · exact h

@[simp] theorem State.lowerAgain_mem (s : State) (core : Nat) : (s.lowerAgain core).mem = s.mem := rfl

theorem execSwitchStart_wf {s : State} (core part : Nat) (h : s.mem.wf) : WfResult (execSwitchStart core part s) := by
  unfold execSwitchStart
  dsimp only [WfResult]
  split
  · exact h
  · split
    · simpa using h
    · split
      · simp only [State.updHeat_mem, State.lowerAgain_mem, State.setPhase_mem]
        exact foldl_wf (fun _ _ ht => by exact ht) h
      · exact h

theorem State.discardJob_wf {s : State} (job : Nat) (heat status : Word) (h : s.mem.wf) :
    (s.discardJob job heat status).mem.wf := by
  unfold State.discardJob
  extract_lets s1 part gone f s2 s3 s4
  have h1 : s1.mem.wf := foldl_wf (fun _ _ ht => State.endCrew_wf _ _ _ ht) h
  have h4 : s4.mem.wf := by
    refine foldl_wf (fun t a ht => ?_) (show s3.mem.wf from h1)
    split
    · exact State.areaWrite_wf _ _ _ ht
    · exact ht
  exact State.dropHolds_mem s4 part ▸ h4

theorem execAbort_wf {s : State} (seq : Word) (h : s.mem.wf) : WfResult (execAbort seq s) := by
  grind [execAbort, State.updHeat_mem, State.startEntry_mem, State.discardJob_wf, WfResult]

/-! ## Partitions -/

theorem State.zeroBands_wf {s : State} (sets : List Nat) (h : s.mem.wf) : (s.zeroBands sets).mem.wf :=
  foldl_keeps Mem.wf _ _ _ (fun _ _ _ hm => Mem.zero_wf _ _ _ hm) h

@[simp] theorem State.zeroBanks_mem (s : State) (q : QuotaSpec) : (s.zeroBanks q).mem = s.mem := rfl

theorem execPartitionCreate_wf {s : State} (part : Nat) (q : PartSpec) (h : s.mem.wf) :
    WfResult (execPartitionCreate part q s) := by
  unfold execPartitionCreate
  extract_lets sets s1 s2 s3 fails
  have h2 : s2.mem.wf := foldl_wf (fun _ _ ht => by simpa using ht) (State.zeroBands_wf _ h)
  have h3 : s3.mem.wf := foldl_wf (fun _ _ ht => State.zeroPart_wf _ _ ht) h2
  have hf : fails.2.mem.wf := h3
  exact wf_ite (wf_ite hf hf) h

@[simp] theorem State.retireQueues_mem (s : State) (part : Nat) : (s.retireQueues part).mem = s.mem := rfl

theorem execPartitionTakedown_wf {s : State} (part : Nat) (h : s.mem.wf) : WfResult (execPartitionTakedown part s) := by
  unfold execPartitionTakedown
  dsimp only [WfResult]
  split
  · simp only [State.updHeat_mem, State.dropHolds_mem, State.clearGraphs_mem, State.retireQueues_mem]
    exact foldl_wf (fun _ _ ht => State.endCrew_wf _ _ _ ht) h
  · exact h

theorem execArrayAssign_wf {s : State} (core part : Nat) (h : s.mem.wf) : WfResult (execArrayAssign core part s) := by
  grind [execArrayAssign, State.updCore_mem, State.zeroArray_wf, WfResult]

theorem execPinnedTileAssign_wf {s : State} (core part : Nat) (h : s.mem.wf) :
    WfResult (execPinnedTileAssign core part s) := by
  grind [execPinnedTileAssign, State.updCore_mem, State.zeroPins_wf, WfResult]

/-! ## Checkpoints and replay -/

@[simp] theorem State.jobBegins_mem (s : State) : (s.jobBegins).2.mem = s.mem := by
  unfold State.jobBegins
  split <;> rfl

@[simp] theorem State.logMark_mem (s : State) (job : Nat) (step : Word) (clock : DWord) :
    (s.logMark job step clock).mem = s.mem := by
  unfold State.logMark
  extract_lets replayed
  clear_value replayed
  split
  · apply foldl_mem
    intro t d
    rw [State.logPut_mem]
  · rfl

@[simp] theorem State.freeOlder_mem (s : State) (job : Nat) : (s.freeOlder job).mem = s.mem := rfl

theorem State.beginCopy_wf {s : State} (job : Nat) (step : Word) (h : s.mem.wf) : (s.beginCopy job step).mem.wf := by
  unfold State.beginCopy
  dsimp only
  exact foldl_wf (fun _ _ ht => State.putCk_wf _ _ _ ht) (State.freeOlder_mem s job ▸ h)

theorem State.markStep_wf {s : State} (step : Word) (clock : DWord) (h : s.mem.wf) :
    (s.markStep step clock).mem.wf := by
  grind [State.markStep, State.updJob_mem, State.logMark_mem, State.beginCopy_wf]

theorem State.settleGather_wf {s : State} (h : s.mem.wf) : s.settleGather.mem.wf := by
  grind [State.settleGather, State.choose_mem, State.updJob_mem, State.markStep_wf]

@[simp] theorem State.endCkpt_mem (s : State) (d : RegNo) (v : Word) (clock : DWord) :
    (s.endCkpt d v clock).mem = s.mem := by simp [State.endCkpt]

theorem State.passGather_wf {s : State} (d : RegNo) (h : s.mem.wf) : (s.passGather d).mem.wf := by
  grind [State.passGather, State.updJob_mem, State.syncWait_mem, State.settleGather_wf, State.endCkpt_mem]

theorem execHeatCkpt_wf {s : State} (d a : RegNo) (h : s.mem.wf) : WfResult (execHeatCkpt d a s) := by
  grind [execHeatCkpt, State.updJob_mem, State.stay_mem, State.drain_wf, State.syncWait_mem, State.divergent_wf,
    State.endCkpt_mem, State.passGather_wf, State.jobBegins_mem, WfResult]

theorem execCopyOnWrite_wf {s : State} (part unit : Nat) (h : s.mem.wf) : WfResult (execCopyOnWrite part unit s) :=
  State.beforeWrite_wf _ _ h

theorem execCopyOnWriteTimeout_wf {s : State} (part unit : Nat) (h : s.mem.wf) :
    WfResult (execCopyOnWriteTimeout part unit s) :=
  foldl_wf (fun _ u ht => State.copyUnit_wf part u ht) h

theorem State.endCopy_wf {s : State} (c : Copying) (kind cause : Nat) (h : s.mem.wf) :
    (s.endCopy c kind cause).mem.wf :=
  State.post_wf _ _ _ (foldl_wf (fun _ _ ht => State.putCk_wf _ _ _ ht) h)

theorem execCheckpointComplete_wf {s : State} (job : Nat) (h : s.mem.wf) : WfResult (execCheckpointComplete job s) := by
  have hf (p : Nat) (l : List (Nat × Nat)) : (l.foldl (State.copyUnit p) s).mem.wf :=
    foldl_wf (fun _ u ht => State.copyUnit_wf p u ht) h
  unfold execCheckpointComplete
  dsimp only [WfResult]
  split
  · exact h
  · refine wf_ite h ?_
    split
    · exact hf _ _
    · exact State.endCopy_wf _ _ _ (hf _ _)

theorem execCheckpointFail_wf {s : State} (job cause : Nat) (h : s.mem.wf) :
    WfResult (execCheckpointFail job cause s) := by
  grind [execCheckpointFail, State.endCopy_wf, WfResult]

theorem execCheckpointTimeout_wf {s : State} (job : Nat) (h : s.mem.wf) : WfResult (execCheckpointTimeout job s) := by
  unfold execCheckpointTimeout
  dsimp only [WfResult]
  split
  · exact wf_ite (State.endCopy_wf _ _ _ h) h
  · exact h

theorem State.putUnit_wf {s : State} (part : Nat) (u : UnitCopy) (h : s.mem.wf) : (s.putUnit part u).mem.wf :=
  State.spotRun_wf _ _ _ h

theorem State.putShard_wf {s : State} (part : Nat) (x : Shard) (h : s.mem.wf) : (s.putShard part x).mem.wf :=
  foldl_wf (fun _ u ht => State.putUnit_wf part u ht) h

theorem execRestore_wf {s : State} (job part : Nat) (held : List (Nat × List Word)) (h : s.mem.wf) :
    WfResult (execRestore job part held s) := by
  grind [execRestore, State.putShard_wf, WfResult]

theorem State.beginReplay_wf {s : State} (part : Nat) (x : Shard) (target : Option (Nat × DWord)) (h : s.mem.wf) :
    (s.beginReplay part x target).mem.wf := by
  grind [State.beginReplay, State.putShard_wf]

theorem execReplay_wf {s : State} (job part : Nat) (h : s.mem.wf) : WfResult (execReplay job part s) := by
  grind [execReplay, State.beginReplay_wf, WfResult]

theorem execStepBack_wf {s : State} (job slot : Nat) (clock : DWord) (h : s.mem.wf) :
    WfResult (execStepBack job slot clock s) := by
  grind [execStepBack, State.beginReplay_wf, WfResult]

theorem State.catchJob_wf {s : State} (job : Nat) (h : s.mem.wf) : (s.catchJob job).mem.wf := by
  unfold State.catchJob
  refine foldl_wf (fun t c ht => ?_) h
  rw [State.setPhase_mem]
  exact State.catchCrew_wf _ ht

theorem State.endStepBack_wf {s : State} (h : s.mem.wf) : s.endStepBack.mem.wf := by
  grind [State.endStepBack, State.catchJob_wf]

/-! ## Sprints -/

@[simp] theorem State.grantArrives_mem (s : State) (g : Grant) (time : DWord) :
    (s.grantArrives g time).mem = s.mem := by
  grind [State.grantArrives, State.updHeat_mem, State.tell_mem]

theorem execSprintGrantRecord_wf {s : State} (g : Grant) (h : s.mem.wf) : WfResult (execSprintGrantRecord g s) := by
  grind [execSprintGrantRecord, Mem.store_wf, State.grantArrives_mem, WfResult]

@[simp] theorem State.takeArrival_mem (s : State) : s.takeArrival.mem = s.mem := by
  grind [State.takeArrival, State.updHeat_mem, State.entryArrives_mem, State.grantArrives_mem]

theorem execSprintRequest_wf {s : State} (g : Grant) (h : s.mem.wf) : WfResult (execSprintRequest g s) := by
  unfold execSprintRequest
  split
  · exact h
  · dsimp only [WfResult]
    split
    · exact foldl_wf (fun _ _ ht => by simpa using ht) h
    · exact h

@[simp] theorem State.updSprint_mem (s : State) (f : Sprint → Sprint) : (s.updSprint f).mem = s.mem := rfl

@[simp] theorem State.setStage_mem (s : State) (core n : Nat) : (s.setStage core n).mem = s.mem := rfl

@[simp] theorem State.openSprint_mem (s : State) : s.openSprint.mem = s.mem := by
  grind [State.openSprint, State.updHeat_mem]

theorem State.catchForSprint_wf {s : State} (core part : Nat) (h : s.mem.wf) : (s.catchForSprint core part).mem.wf := by
  unfold State.catchForSprint
  exact State.settleArray_wf _ _ (foldl_wf (fun _ _ ht => State.catchCrew_wf _ ht) (State.returnTasks_mem s part core ▸ h))

theorem execSprintGrant_wf {s : State} (core : Nat) (h : s.mem.wf) : WfResult (execSprintGrant core s) := by
  have ho : s.openSprint.mem.wf := State.openSprint_mem s ▸ h
  unfold execSprintGrant
  dsimp only [WfResult]
  split
  · exact ho
  · refine wf_ite ?_ ho
    rw [State.setStage_mem, State.updSprint_mem, State.updCore_mem]
    exact State.stopTile_wf _ (foldl_wf (fun _ _ ht => State.catchForSprint_wf _ _ ht) ho)

theorem State.drainPair_wf {s : State} (part core pair : Nat) (h : s.mem.wf) : (s.drainPair part core pair).mem.wf := by
  grind [State.drainPair, State.areaWrite_wf, State.saveJob_mem, State.setValid_wf, State.putPair_wf]

theorem execAccumulatorDrain_wf {s : State} (core : Nat) (h : s.mem.wf) : WfResult (execAccumulatorDrain core s) := by
  unfold execAccumulatorDrain
  dsimp only [WfResult]
  split
  · exact h
  · split
    · rw [State.setStage_mem]
      refine Mem.zero_wf _ _ _ ?_
      grind [State.drainPair_wf]
    · exact h

theorem State.parkRecords_wf {s : State} (core : Nat) (l : List (Req × DWord)) (h : s.mem.wf) :
    (s.parkRecords core l).mem.wf := by
  refine foldl_wf (fun t p ht => ?_) h
  split
  · exact State.putParked_wf _ _ (by simpa using ht)
  · exact ht

theorem State.tagCore_wf {s : State} (core : Nat) (h : s.mem.wf) : (s.tagCore core).mem.wf :=
  State.parkRecords_wf _ _ h

@[simp] theorem State.sprintLaunch_mem (s : State) (part job : Nat) (cores : List Nat) :
    (s.sprintLaunch part job cores).mem = s.mem := by
  have hf : (cores.foldl (fun s c => s.updQset (qkey part c) fun _ => QSet.empty) ((s.clearGraphs part).clearDies part)).mem
      = s.mem := (foldl_mem fun _ _ => State.updQset_mem _ _ _).trans (by simp)
  unfold State.sprintLaunch
  dsimp only
  split
  · rw [State.launchGraph_mem]; exact hf
  · exact hf

theorem execSprintStart_wf {s : State} (core : Nat) (h : s.mem.wf) : WfResult (execSprintStart core s) := by
  grind [execSprintStart, State.updHeat_mem, State.updJob_mem, State.lowerAgain_mem, State.setStage_mem,
    State.tagCore_wf, State.sprintLaunch_mem, WfResult]

theorem execSprintLimit_wf {s : State} (h : s.mem.wf) : WfResult (execSprintLimit s) := by
  unfold execSprintLimit
  dsimp only [WfResult]
  split
  · split
    · exact foldl_wf (fun _ _ ht => State.resetCrews_wf _ _ _ ht) h
    · exact h
  · exact h

theorem execSprintEnd_wf {s : State} (core : Nat) (h : s.mem.wf) : WfResult (execSprintEnd core s) := by
  grind [execSprintEnd, State.updHeat_mem, State.leaveSprint_wf, State.clearDies_mem, State.clearGraphs_mem,
    State.setStage_mem, WfResult]

/-! ## Reset, boot and firmware -/

@[simp] theorem State.updBoot_mem (s : State) (f : Boot → Boot) : (s.updBoot f).mem = s.mem := rfl

theorem State.restart_wf (s : State) (cause stage code : Nat) :
    (s.restart cause stage code).mem.wf := State.reset_mem_wf

@[simp] theorem State.mapBanks_mem (s : State) : s.mapBanks.mem = s.mem := by
  unfold State.mapBanks
  dsimp only
  rw [State.updBoot_mem]
  exact foldl_mem fun _ _ => State.updCore_mem _ _ _

@[simp] theorem State.loadDomain_mem (s : State) : s.loadDomain.mem = s.mem := rfl

@[simp] theorem State.measureStage_mem (s : State) : s.measureStage.mem = s.mem := by
  unfold State.measureStage
  split <;> rfl

@[simp] theorem State.stageWork_mem (s : State) : s.stageWork.mem = s.mem := by
  unfold State.stageWork
  dsimp only
  split <;> simp

theorem execStageComplete_wf {s : State} (h : s.mem.wf) : WfResult (execStageComplete s) := by
  grind [execStageComplete, State.updBoot_mem, State.stageWork_mem, WfResult]

theorem execStageFailure_wf {s : State} (code : BitVec 8) (h : s.mem.wf) : WfResult (execStageFailure code s) := by
  unfold execStageFailure
  exact wf_ite (State.restart_wf _ _ _ _) h

theorem execMeasurementExtend_wf {s : State} (index : Nat) (digest : BitVec 256) (h : s.mem.wf) :
    WfResult (execMeasurementExtend index digest s) := by
  grind [execMeasurementExtend, State.updBoot_mem, WfResult]

@[simp] theorem State.updBlock_mem (s : State) (n : Nat) (f : ControlBlock → ControlBlock) :
    (s.updBlock n f).mem = s.mem := rfl

@[simp] theorem State.setParam_mem (s : State) (block reg v : Nat) : (s.setParam block reg v).mem = s.mem := by
  grind [State.setParam, State.updFabric_mem, State.updFibreGroup_mem]

theorem execBasicRegisterWrite_wf {s : State} (block : Nat) (value : Word) (h : s.mem.wf) :
    WfResult (execBasicRegisterWrite block value s) :=
  foldl_wf (fun _ _ ht => by simpa using ht) (by simpa using h)

theorem execExpertWriteEffect_wf {s : State} (block : Nat) (h : s.mem.wf) :
    WfResult (execExpertWriteEffect block s) := by
  unfold execExpertWriteEffect
  dsimp only [WfResult]
  rw [State.updBlock_mem]
  exact foldl_wf (fun _ _ ht => by simpa using ht) h

@[simp] theorem State.setLevel_mem (s : State) (island level : Nat) : (s.setLevel island level).mem = s.mem := by
  unfold State.setLevel
  split <;> rfl

theorem execIslandLevelChange_wf {s : State} (island level : Nat) (h : s.mem.wf) :
    WfResult (execIslandLevelChange island level s) := by
  grind [execIslandLevelChange, State.setLevel_mem, WfResult]

theorem execPreStartRaise_wf {s : State} (core : Nat) (h : s.mem.wf) : WfResult (execPreStartRaise core s) := by
  unfold execPreStartRaise
  dsimp only [WfResult]
  split
  · rw [State.updBoot_mem]
    exact foldl_wf (fun _ _ ht => by simpa using ht) h
  · exact h

theorem execPowerSample_wf {s : State} (h : s.mem.wf) : WfResult (execPowerSample s) := by
  unfold execPowerSample
  extract_lets b p gone energy t
  refine wfResult_ite h (wf_ite ?_ h)
  split
  · rw [State.setLevel_mem]; exact h
  · exact h

theorem execPowerTrip_wf {s : State} (h : s.mem.wf) : WfResult (execPowerTrip s) := by
  grind [execPowerTrip, State.restart_wf, WfResult]

theorem execCxlMemAccess_wf {s : State} (part : Nat) (write : Bool) (offset : Nat) (data : List Byte) (h : s.mem.wf) :
    WfResult (execCxlMemAccess part write offset data s) := by
  grind [execCxlMemAccess, State.spotRun_wf, State.updBoot_mem, WfResult]

theorem execTapRead_wf {s : State} (target address : Nat) (h : s.mem.wf) : WfResult (execTapRead target address s) := by
  grind [execTapRead, WfResult]

/-! ## The ends of crews and lane work -/

theorem execLongLatencyArrival_wf {s : State} (slot lane : Nat) (h : s.mem.wf) :
    WfResult (execLongLatencyArrival slot lane s) := by
  grind [execLongLatencyArrival, State.setCrewAt_mem, WfResult]

theorem execLaneTrap_wf {s : State} (t : TrapInfo) (h : s.mem.wf) : WfResult (execLaneTrap t s) := by
  grind [execLaneTrap, State.takeTrap_wf, WfResult]

theorem execScalarTrap_wf {s : State} (t : TrapInfo) (h : s.mem.wf) : WfResult (execScalarTrap t s) := by
  grind [execScalarTrap, State.takeTrap_wf, WfResult]

theorem execCrewTermination_wf {s : State} (status : Word) (h : s.mem.wf) :
    WfResult (execCrewTermination status s) := by
  grind [execCrewTermination, State.endCrew_wf, WfResult]

theorem execRegisterEccError_wf {s : State} (slot row lane : Nat) (h : s.mem.wf) :
    WfResult (execRegisterEccError slot row lane s) := by
  grind [execRegisterEccError, State.setCrewAt_mem, WfResult]

theorem execMemoryEccError_wf {s : State} (spad : Bool) (granule : Nat) (h : s.mem.wf) :
    WfResult (execMemoryEccError spad granule s) := by
  grind [execMemoryEccError, Mem.mark_wf, WfResult]

@[simp] theorem State.atSplit_mem (s : State) (slot k : Nat) (f : State → State) :
    (s.atSplit slot k f).mem = (f { s with cur := slot, curSplit := k }).mem := rfl

theorem execTimeWake_wf {s : State} (slot split : Nat) (h : s.mem.wf) : WfResult (execTimeWake slot split s) := by
  unfold execTimeWake
  dsimp only
  split
  · dsimp only [WfResult]
    split <;> exact h
  · exact h

/-! ## Lane floating point -/

theorem execFatan_wf {s : State} (f : LaneFields) (h : s.mem.wf) : WfResult (execFatan f s) := by
  unfold execFatan
  exact laneRun_wf (fun x t ht => floatLane_wf _ x t ht) h

theorem dotBody_wf (n : Nat) : WfBody (dotBody n) := by
  intro x s hs
  unfold dotBody
  split
  · trivial
  · exact hs

theorem halvesLane_wf (g : FloatFmt → Nat → Rnd → Nat → Nat → Nat → Nat × Flags) : WfBody (halvesLane g) := perLane_wf _

/-! ## Lane integers -/

theorem execLnop_wf {s : State} (f : LaneFields) (h : s.mem.wf) : WfResult (execLnop f s) := by
  refine laneRun_wf (fun x t ht => ?_) h
  grind [WfAct, Ctx.finish, State.updCrew_mem]

theorem execRep_wf {s : State} (f : LaneFields) (h : s.mem.wf) : WfResult (execRep f s) := by
  grind [execRep, State.updCrew_mem, State.takeTrap_wf, State.ensureHead_mem, WfResult]

theorem satLane_wf (g : Int → Int → Int) : WfBody (satLane g) := perLane_wf _

theorem bitsLane_wf (g : Nat → Nat → Nat → Nat → Nat) : WfBody (bitsLane g) := by
  unfold bitsLane
  exact plainLane_wf _

/-! ## Lane reductions -/

theorem Ctx.reduced_wf (x : Ctx) (v : DWord) (flags : Flags) (draws : Nat) {s : State} (h : s.mem.wf) :
    WfAct (x.reduced v flags draws s) := h

theorem intReduce_wf (g : IntTy → Int → Int → Int) (identity : IntTy → Int) : WfBody (intReduce g identity) :=
  fun _ _ hs => hs

theorem floatReduce_wf (g : FloatFmt → Rnd → Nat → Nat → Nat × Flags) (identity : FloatFmt → Nat) (rounds : Bool) :
    WfBody (floatReduce g identity rounds) := fun _ _ hs => hs

theorem bothReduce_wf {int float : Body} (hi : WfBody int) (hf : WfBody float) : WfBody (bothReduce int float) := by
  intro x s hs
  unfold bothReduce
  split
  · exact hi x s hs
  · exact hf x s hs

theorem bitReduce_wf (g : Nat → Nat → Nat) (identity : Int) : WfBody (bitReduce g identity) := intReduce_wf _ _

theorem execRcnt_wf {s : State} (f : LaneFields) (h : s.mem.wf) : WfResult (execRcnt f s) := by
  refine laneRun_wf (fun x t ht => ?_) h
  grind [Ctx.reduced_wf, WfAct, Ctx.finish, State.updCrew_mem]

theorem execRarg_wf {s : State} (f : LaneFields) (h : s.mem.wf) : WfResult (execRarg f s) := by
  refine laneRun_wf (fun x t ht => ?_) h
  grind [Ctx.reduced_wf, WfAct, Ctx.finish, State.updCrew_mem]

theorem execScan_wf {s : State} (f : LaneFields) (h : s.mem.wf) : WfResult (execScan f s) := by
  refine laneRun_wf (fun x t ht => ?_) h
  grind [State.updCrew_mem, WfAct, Ctx.finish]

theorem execCmpx_wf {s : State} (f : LaneFields) (h : s.mem.wf) : WfResult (execCmpx f s) := by
  refine laneRun_wf (fun x t ht => ?_) h
  grind [WfAct, Ctx.finish, State.updCrew_mem]

theorem execFlcl_wf {s : State} (f : LaneFields) (h : s.mem.wf) : WfResult (execFlcl f s) := by
  refine laneRun_wf (fun x t ht => ?_) h
  grind [State.updCrew_mem, WfAct, Ctx.finish]

theorem execFlst_wf {s : State} (f : LaneFields) (h : s.mem.wf) : WfResult (execFlst f s) := by
  refine laneRun_wf (fun x t ht => ?_) h
  grind [State.updCrew_mem, WfAct, Ctx.finish]

theorem execPois_wf {s : State} (f : LaneFields) (h : s.mem.wf) : WfResult (execPois f s) := by
  refine laneRun_wf (fun x t ht => ?_) h
  grind [WfAct, Ctx.finish, State.updCrew_mem]

theorem execLbrk_wf {s : State} (f : LaneFields) (h : s.mem.wf) : WfResult (execLbrk f s) := by
  grind [execLbrk, State.takeTrap_wf, State.ensureHead_mem, WfResult]

/-! ## Scalar arithmetic -/

theorem State.alu_wf {s : State} (d a b : RegNo) (f : Word → Word → Word) (h : s.mem.wf) : WfResult (s.alu d a b f) :=
  h

theorem execCmp_wf {s : State} (d a b : RegNo) (n : BitVec 3) (u : BitVec 1) (c : BitVec 3) (h : s.mem.wf) :
    WfResult (execCmp d a b n u c s) := by
  grind [execCmp, State.updCrew_mem, State.illegal_wf, State.write_mem, WfResult]

theorem State.shiftReg_wf {s : State} (d a b : RegNo) (f : Word → Nat → Word) (h : s.mem.wf) :
    WfResult (s.shiftReg d a b f) := h

theorem State.shiftImm_wf {s : State} (d a : RegNo) (n : BitVec 5) (f : Word → Nat → Word) (h : s.mem.wf) :
    WfResult (s.shiftImm d a n f) := h

/-! ## Accesses of the host -/

theorem State.hostPut_wf {s : State} (spad : Bool) (n a : Nat) (bs : List Byte) (h : s.mem.wf) :
    (s.hostPut spad n a bs).mem.wf := by
  induction n generalizing s a bs with
  | zero => exact h
  | succ n ih =>
    unfold State.hostPut
    split
    · exact h
    · exact ih _ _ (State.spotWrite_wf _ _ h)

@[simp] theorem State.hostSees_mem (s : State) (bs : List Byte) : (s.hostSees bs).mem = s.mem := rfl

@[simp] theorem State.sendAnnounce_mem (s : State) (peer : Nat) :
    (s.sendAnnounce peer).mem = s.mem := by simp [State.sendAnnounce]

theorem State.hostAccess_wf {s : State} (a : HostAccess) (h : s.mem.wf) : (s.hostAccess a).mem.wf := by
  cases a <;> grind [State.hostAccess, State.hostPut_wf, State.hostSees_mem, State.updFabric_mem, State.sendPtp_mem,
    State.sendAnnounce_mem, State.tell_mem, State.farGone_mem]

/-! ## The tick, and every instruction and event -/

theorem always_wf {f : State → State} (hf : ∀ t, (f t).mem = t.mem) {s : State} (h : s.mem.wf) :
    WfResult (always f s) :=
  (congrArg Mem.wf (hf s)).mpr h

theorem State.tick_wf {s : State} (h : s.mem.wf) : s.tick.mem.wf := by
  grind [State.tick, State.endStepBack_wf]

theorem exec_wf (i : Instr) {s : State} (h : s.mem.wf) : WfResult (exec i s) := by
  cases i with
  | nop => exact h
  | nopHint => exact h
  | br => exact show WfResult (execBr _ s) from State.withTarget_wf _ h h
  | brc => exact execBrc_wf _ _ _ h
  | bspl => exact execBspl_wf _ _ _ h
  | join => exact execJoin_wf h
  | call => exact show WfResult (execCall _ s) from State.withTarget_wf _ h h
  | ret => exact show WfResult (execRet _ s) from State.withTarget_wf _ h h
  | yield => exact execYield_wf h
  | yieldSeq => exact show WfResult (execYieldSeq _ _ s) from State.waitSeq_wf _ _ _ h
  | yieldJn => exact execYieldJn_wf h
  | yieldTime => exact execYieldTime_wf _ h
  | exit => exact execExit_wf _ h
  | trap => exact show WfResult (execTrap _ s) from State.takeTrap_wf _ _ _ h
  | eret => exact execEret_wf h
  | add => exact h
  | sub => exact h
  | mul => exact h
  | mulh => exact h
  | div => exact h
  | andS => exact h
  | orS => exact h
  | xorS => exact h
  | shl => exact h
  | shlImm => exact h
  | shr => exact h
  | shrImm => exact h
  | sra => exact h
  | sraImm => exact h
  | rol => exact h
  | rolImm => exact h
  | ror => exact h
  | rorImm => exact h
  | cmp => exact execCmp_wf _ _ _ _ _ _ h
  | sel => exact h
  | addi => exact h
  | li => exact h
  | lui => exact h
  | bfx => exact h
  | bfi => exact h
  | clz => exact h
  | popc => exact h
  | brev => exact h
  | fxck => exact execFxck_wf _ h
  | sld => exact execSld_wf _ _ _ h
  | sst => exact execSst_wf _ _ _ h
  | satm => exact execSatm_wf _ _ _ _ _ _ h
  | lrun => exact execLrun_wf _ _ h
  | ljmp => exact execLjmp_wf _ h
  | movmRead => exact execMovmRead_wf _ _ h
  | movmWrite => exact execMovmWrite_wf _ _ h
  | movmPred => exact execMovmPred_wf _ _ _ h
  | fmts => exact execFmts_wf _ _ h
  | fmtsRead => exact h
  | rdrd => exact execRdrd_wf _ _ h
  | bar => exact execBar_wf _ h
  | acqX => exact show WfResult (execAcqX _ s) from State.acquire_wf _ _ h
  | acqS => exact show WfResult (execAcqS _ s) from State.acquire_wf _ _ h
  | acqW => exact execAcqW_wf _ _ h
  | rel => exact execRel_wf _ h
  | fence => exact execFence_wf _ h
  | fenceFlush => exact execFenceFlush_wf h
  | qfnc => exact execQfnc_wf _ h
  | xfnc => exact execXfnc_wf h
  | wseq => exact show WfResult (execWseq _ _ s) from State.waitSeq_wf _ _ _ h
  | cpy => exact execCpy_wf _ _ _ _ _ _ h
  | tcpy => exact show WfResult (execTcpy _ _ _ s) from State.issueDesc_wf _ _ _ _ _ h
  | dcpy => exact show WfResult (execDcpy _ _ _ s) from State.issueDesc_wf _ _ _ _ _ h
  | ttsk => exact execTtsk_wf _ _ h
  | cainf => exact show WfResult (execCainf _ _ s) from State.issueArray_wf _ _ _ _ _ h
  | cainfLive => exact show WfResult (execCainfLive _ _ s) from State.issueArray_wf _ _ _ _ _ h
  | catrn => exact show WfResult (execCatrn _ _ s) from State.issueArray_wf _ _ _ _ _ h
  | camovLoad => exact show WfResult (execCamovLoad _ _ _ s) from State.issueArray_wf _ _ _ _ _ h
  | camovStore => exact show WfResult (execCamovStore _ _ _ s) from State.issueArray_wf _ _ _ _ _ h
  | glch => exact execGlch_wf _ _ h
  | spwn => exact execSpwn_wf _ _ h
  | jnwt => exact execJnwt_wf _ h
  | gctlStatus => exact execGctlStatus_wf _ _ h
  | gctlLeft => exact execGctlLeft_wf _ _ h
  | gctlNode => exact execGctlNode_wf _ _ _ h
  | gctlFree => exact execGctlFree_wf _ _ h
  | gctlWait => exact execGctlWait_wf _ _ h
  | xmemLd => exact execXmemLd_wf _ _ _ h
  | xmemSt => exact execXmemSt_wf _ _ _ h
  | xatm => exact execXatm_wf _ _ _ _ _ _ h
  | xput => exact execXput_wf _ _ h
  | coll => exact execColl_wf _ _ _ _ h
  | lnkStat => exact execLnkStat_wf _ _ h
  | lnkSq => exact execLnkSq_wf _ _ h
  | lnkRls => exact execLnkRls_wf _ _ h
  | lnkSlot => exact execLnkSlot_wf _ _ _ h
  | lnkWait => exact execLnkWait_wf _ _ _ h
  | heat => exact execHeat_wf _ _ h
  | heatCkpt => exact execHeatCkpt_wf _ _ h
  | csrRd => exact execCsrRd_wf _ _ h
  | csrWr => exact execCsrWr_wf _ _ _ h
  | fsumRead => exact execFsumRead_wf _ h
  | fsumWrite => exact execFsumWrite_wf _ _ h
  | sppWrite => exact execSppWrite_wf _ _ h
  | asyncfWrite => exact execAsyncfWrite_wf _ _ h
  | trapspcWrite => exact execTrapspcWrite_wf _ _ h
  | traplpcWrite => exact execTraplpcWrite_wf _ _ h
  | qtailWrite => exact execQtailWrite_wf _ _ _ h
  | bndcmdBind d a => exact show WfResult (execBndcmdBind d a s) from State.bindWrite_wf _ _ h
  | bndcmdUnbind d a => exact show WfResult (execBndcmdUnbind d a s) from State.bindWrite_wf _ _ h
  | lnop => exact execLnop_wf _ h
  | rep => exact execRep_wf _ h
  | iadd => exact show WfResult (execIadd _ s) from laneRun_wf (satLane_wf _) h
  | isub => exact show WfResult (execIsub _ s) from laneRun_wf (satLane_wf _) h
  | imul => exact show WfResult (execImul _ s) from laneRun_wf (intLane_wf _) h
  | imulh => exact show WfResult (execImulh _ s) from laneRun_wf (intLane_wf _) h
  | imad => exact show WfResult (execImad _ s) from laneRun_wf (intLane_wf _) h
  | idiv => exact show WfResult (execIdiv _ s) from laneRun_wf (intLane_wf _) h
  | imin => exact show WfResult (execImin _ s) from laneRun_wf (intLane_wf _) h
  | imax => exact show WfResult (execImax _ s) from laneRun_wf (intLane_wf _) h
  | iabs => exact show WfResult (execIabs _ s) from laneRun_wf (intLane_wf _) h
  | andLane => exact show WfResult (execAndLane _ s) from laneRun_wf (bitsLane_wf _) h
  | orLane => exact show WfResult (execOrLane _ s) from laneRun_wf (bitsLane_wf _) h
  | xorLane => exact show WfResult (execXorLane _ s) from laneRun_wf (bitsLane_wf _) h
  | lop3 => exact show WfResult (execLop3 _ s) from laneRun_wf (plainLane_wf _) h
  | shlLane => exact show WfResult (execShlLane _ s) from laneRun_wf (bitsLane_wf _) h
  | shrLane => exact show WfResult (execShrLane _ s) from laneRun_wf (bitsLane_wf _) h
  | sraLane => exact show WfResult (execSraLane _ s) from laneRun_wf (bitsLane_wf _) h
  | rot => exact show WfResult (execRot _ s) from laneRun_wf (bitsLane_wf _) h
  | popcLane => exact show WfResult (execPopcLane _ s) from laneRun_wf (bitsLane_wf _) h
  | clzLane => exact show WfResult (execClzLane _ s) from laneRun_wf (bitsLane_wf _) h
  | bfxLane => exact show WfResult (execBfxLane _ s) from laneRun_wf (plainLane_wf _) h
  | bfiLane => exact show WfResult (execBfiLane _ s) from laneRun_wf (plainLane_wf _) h
  | icmp => exact show WfResult (execIcmp _ s) from laneRun_wf (predLane_wf _ _) h
  | isad => exact show WfResult (execIsad _ s) from laneRun_wf (intLane_wf _) h
  | mulw => exact show WfResult (execMulw _ s) from laneRun_wf (plainLane_wf _) h
  | addc => exact show WfResult (execAddc _ s) from laneRun_wf (predLane_wf _ _) h
  | mov => exact show WfResult (execMov _ s) from laneRun_wf (plainLane_wf _) h
  | movi => exact show WfResult (execMovi _ s) from laneRun_wf (plainLane_wf _) h
  | selLane => exact execSelLane_wf _ h
  | lspc => exact show WfResult (execLspc _ s) from laneRun_wf (plainLane_wf _) h
  | ldc => exact execLdc_wf _ h
  | pmov => exact execPmov_wf _ h
  | prmt => exact show WfResult (execPrmt _ s) from laneRun_wf (plainLane_wf _) h
  | shfl => exact execShfl_wf _ h
  | bcst => exact show WfResult (execBcst _ s) from laneRun_wf (fromLowest_wf _) h
  | lrot => exact show WfResult (execLrot _ s) from laneRun_wf (fromLowest_wf _) h
  | vote => exact execVote_wf _ h
  | plop => exact execPlop_wf _ h
  | fadd => exact show WfResult (execFadd _ s) from laneRun_wf (floatLane_wf _) h
  | fsub => exact show WfResult (execFsub _ s) from laneRun_wf (floatLane_wf _) h
  | fmul => exact show WfResult (execFmul _ s) from laneRun_wf (floatLane_wf _) h
  | ffma => exact show WfResult (execFfma _ s) from laneRun_wf (floatLane_wf _) h
  | fmin => exact show WfResult (execFmin _ s) from laneRun_wf (floatLane_wf _) h
  | fmax => exact show WfResult (execFmax _ s) from laneRun_wf (floatLane_wf _) h
  | fcmp => exact show WfResult (execFcmp _ s) from laneRun_wf (predLane_wf _ _) h
  | fcls => exact show WfResult (execFcls _ s) from laneRun_wf (floatLane_wf _) h
  | frnd => exact show WfResult (execFrnd _ s) from laneRun_wf (floatLane_wf _) h
  | fscl => exact show WfResult (execFscl _ s) from laneRun_wf (floatLane_wf _) h
  | fgex => exact show WfResult (execFgex _ s) from laneRun_wf (floatLane_wf _) h
  | frem => exact show WfResult (execFrem _ s) from laneRun_wf (floatLane_wf _) h
  | fnxt => exact show WfResult (execFnxt _ s) from laneRun_wf (floatLane_wf _) h
  | fadd3 => exact show WfResult (execFadd3 _ s) from laneRun_wf (floatLane_wf _) h
  | fspl => exact show WfResult (execFspl _ s) from laneRun_wf (floatLane_wf _) h
  | fcps => exact show WfResult (execFcps _ s) from laneRun_wf (floatLane_wf _) h
  | fdiv => exact show WfResult (execFdiv _ s) from laneRun_wf (floatLane_wf _) h
  | fsqrt => exact show WfResult (execFsqrt _ s) from laneRun_wf (floatLane_wf _) h
  | frsq => exact show WfResult (execFrsq _ s) from laneRun_wf (floatLane_wf _) h
  | frcp => exact show WfResult (execFrcp _ s) from laneRun_wf (floatLane_wf _) h
  | fexp => exact show WfResult (execFexp _ s) from laneRun_wf (floatLane_wf _) h
  | fexp2 => exact show WfResult (execFexp2 _ s) from laneRun_wf (floatLane_wf _) h
  | flog => exact show WfResult (execFlog _ s) from laneRun_wf (floatLane_wf _) h
  | flog2 => exact show WfResult (execFlog2 _ s) from laneRun_wf (floatLane_wf _) h
  | fsin => exact show WfResult (execFsin _ s) from laneRun_wf (floatLane_wf _) h
  | fcos => exact show WfResult (execFcos _ s) from laneRun_wf (floatLane_wf _) h
  | ftanh => exact show WfResult (execFtanh _ s) from laneRun_wf (floatLane_wf _) h
  | fsigm => exact show WfResult (execFsigm _ s) from laneRun_wf (floatLane_wf _) h
  | ferf => exact show WfResult (execFerf _ s) from laneRun_wf (floatLane_wf _) h
  | fpow => exact show WfResult (execFpow _ s) from laneRun_wf (floatLane_wf _) h
  | fatan => exact execFatan_wf _ h
  | fhyp => exact show WfResult (execFhyp _ s) from laneRun_wf (floatLane_wf _) h
  | dot2 => exact show WfResult (execDot2 _ s) from laneRun_wf (dotBody_wf _) h
  | dot4 => exact show WfResult (execDot4 _ s) from laneRun_wf (dotBody_wf _) h
  | dot8 => exact show WfResult (execDot8 _ s) from laneRun_wf (dotBody_wf _) h
  | fdot2 => exact show WfResult (execFdot2 _ s) from laneRun_wf (perLane_wf _) h
  | hadd2 => exact show WfResult (execHadd2 _ s) from laneRun_wf (halvesLane_wf _) h
  | hmul2 => exact show WfResult (execHmul2 _ s) from laneRun_wf (halvesLane_wf _) h
  | hfma2 => exact show WfResult (execHfma2 _ s) from laneRun_wf (halvesLane_wf _) h
  | hmnx2 => exact show WfResult (execHmnx2 _ s) from laneRun_wf (halvesLane_wf _) h
  | cvtf => exact show WfResult (execCvtf _ s) from laneRun_wf (perLane_wf _) h
  | cvfi => exact show WfResult (execCvfi _ s) from laneRun_wf (perLane_wf _) h
  | cvif => exact show WfResult (execCvif _ s) from laneRun_wf (perLane_wf _) h
  | cvii => exact show WfResult (execCvii _ s) from laneRun_wf (perLane_wf _) h
  | cvts => exact show WfResult (execCvts _ s) from laneRun_wf (perLane_wf _) h
  | pack => exact show WfResult (execPack _ s) from laneRun_wf (perLane_wf _) h
  | unpk => exact show WfResult (execUnpk _ s) from laneRun_wf (plainLane_wf _) h
  | tdec => exact show WfResult (execTdec _ s) from laneRun_wf (plainLane_wf _) h
  | tenc => exact show WfResult (execTenc _ s) from laneRun_wf (perLane_wf _) h
  | qnt => exact execQnt_wf _ h
  | dqnt => exact show WfResult (execDqnt _ s) from laneRun_wf (perLane_wf _) h
  | lrnd => exact execLrnd_wf _ h
  | radd => exact show WfResult (execRadd _ s) from
      laneRun_wf (bothReduce_wf (intReduce_wf _ _) (floatReduce_wf _ _ _)) h
  | rmin => exact show WfResult (execRmin _ s) from
      laneRun_wf (bothReduce_wf (intReduce_wf _ _) (floatReduce_wf _ _ _)) h
  | rmax => exact show WfResult (execRmax _ s) from
      laneRun_wf (bothReduce_wf (intReduce_wf _ _) (floatReduce_wf _ _ _)) h
  | rand => exact show WfResult (execRand _ s) from laneRun_wf (bitReduce_wf _ _) h
  | rior => exact show WfResult (execRior _ s) from laneRun_wf (bitReduce_wf _ _) h
  | rxor => exact show WfResult (execRxor _ s) from laneRun_wf (bitReduce_wf _ _) h
  | rcnt => exact execRcnt_wf _ h
  | rarg => exact execRarg_wf _ h
  | scan => exact execScan_wf _ h
  | cmpx => exact execCmpx_wf _ h
  | ldb => exact show WfResult (execLdb _ s) from laneRun_wf (loadBody_wf _ _) h
  | stb => exact show WfResult (execStb _ s) from laneRun_wf (storeBody_wf _ _) h
  | lds => exact show WfResult (execLds _ s) from laneRun_wf (loadBody_wf _ _) h
  | sts => exact show WfResult (execSts _ s) from laneRun_wf (storeBody_wf _ _) h
  | ldsr => exact execLdsr_wf _ h
  | stsr => exact execStsr_wf _ h
  | ldsb => exact execLdsb_wf _ h
  | pushv => exact execPushv_wf _ h
  | popv => exact execPopv_wf _ h
  | atb => exact show WfResult (execAtb _ s) from laneRun_wf (atomBody_wf _ _) h
  | casb => exact show WfResult (execCasb _ s) from laneRun_wf (atomBody_wf _ _) h
  | ats => exact show WfResult (execAts _ s) from laneRun_wf (atomBody_wf _ _) h
  | cass => exact show WfResult (execCass _ s) from laneRun_wf (atomBody_wf _ _) h
  | atf => exact show WfResult (execAtf _ s) from laneRun_wf (atomBody_wf _ _) h
  | flrd => exact show WfResult (execFlrd _ s) from laneRun_wf (plainLane_wf _) h
  | flcl => exact execFlcl_wf _ h
  | flst => exact execFlst_wf _ h
  | hash => exact show WfResult (execHash _ s) from laneRun_wf (plainLane_wf _) h
  | crc => exact show WfResult (execCrc _ s) from laneRun_wf (plainLane_wf _) h
  | lsav => exact execLsav_wf _ h
  | lrst => exact execLrst_wf _ h
  | pois => exact execPois_wf _ h
  | lbrk => exact execLbrk_wf _ h
  | lda => exact execLda_wf _ h
  | ldaStatus => exact execLdaStatus_wf _ h
  | sta => exact execSta_wf _ h
  | staStatus => exact execStaStatus_wf _ h
  | sclw => exact execSclw_wf _ h
  | idxw => exact execIdxw_wf _ h
  | litp => exact execLitp_wf _ h
  | cavr => exact execCavr_wf _ h
  | cacl => exact execCacl_wf _ h
  | cawd => exact execCawd_wf _ h
  | longLatencyArrival => exact execLongLatencyArrival_wf _ _ h
  | laneTrap => exact execLaneTrap_wf _ h
  | scalarTrap => exact execScalarTrap_wf _ h
  | crewTermination => exact execCrewTermination_wf _ h
  | registerEccError => exact execRegisterEccError_wf _ _ _ h
  | memoryEccError => exact execMemoryEccError_wf _ _ h
  | blockPlacement => exact execBlockPlacement_wf _ h
  | copyEntryStart => exact execCopyEntryStart_wf _ _ _ h
  | copyEntryComplete => exact execCopyEntryComplete_wf _ _ _ h
  | copyEntryResume => exact execCopyEntryResume_wf _ _ _ h
  | copyEntryRetire => exact execCopyEntryRetire_wf _ _ _ h
  | mtsTaskStart => exact execMtsTaskStart_wf _ _ _ h
  | tileKStep => exact execTileKStep_wf _ _ h
  | tileTaskComplete => exact execTileTaskComplete_wf _ h
  | tileTaskResume => exact execTileTaskResume_wf _ _ _ _ h
  | tileTaskRetire => exact execTileTaskRetire_wf _ _ _ _ h
  | clauseEntryStart => exact execClauseEntryStart_wf _ h
  | trainingStep => exact execTrainingStep_wf _ h
  | inferenceSample => exact execInferenceSample_wf _ _ h
  | camovOperation => exact execCamovOperation_wf _ h
  | clauseEntryComplete => exact execClauseEntryComplete_wf _ h
  | clauseEntryRetire => exact execClauseEntryRetire_wf _ h
  | clauseGranuleAccess => exact execClauseGranuleAccess_wf _ h
  | cellSoftError => exact execCellSoftError_wf _ _ _ _ h
  | graphLoadComplete => exact execGraphLoadComplete_wf _ _ h
  | token => exact execToken_wf _ h
  | nodeDone => exact execNodeDone_wf _ _ _ h
  | nodeEnterBank => exact execNodeEnterBank_wf _ _ _ h
  | prefetchFill => exact execPrefetchFill_wf _ h
  | tquAging => exact execTquAging_wf _ _ _ h
  | engineNodeIssue => exact execEngineNodeIssue_wf _ _ _ h
  | graphEnd => exact execGraphEnd_wf _ _ h
  | nodeFault => exact execNodeFault_wf _ _ _ _ _ h
  | coneVisit => exact execConeVisit_wf _ _ _ h
  | crewStop => exact execCrewStop_wf _ _ h
  | coneResolve part handle => exact show WfResult (execConeResolve part handle s) from execConeResolve_wf _ _ h
  | headRelease => exact execHeadRelease_wf _ _ _ h
  | rotorSlotStart => exact execRotorSlotStart_wf h
  | linkControl => exact execLinkControl_wf _ _ _ _ h
  | idleLinkControl => exact execIdleLinkControl_wf _ h
  | flitEgress => exact execFlitEgress_wf h
  | flitSend => exact execFlitSend_wf _ h
  | vcStarvation => exact execVcStarvation_wf _ _ h
  | flitReceive => exact execFlitReceive_wf _ _ h
  | lightEnd => exact execLightEnd_wf h
  | squareStart => exact execSquareStart_wf _ h
  | widthHandshake => exact execWidthHandshake_wf _ h
  | squareComplete => exact execSquareComplete_wf _ h
  | featherStart => exact execFeatherStart_wf _ h
  | featherPark => exact execFeatherPark_wf _ h
  | readRequest => exact execReadRequest_wf _ h
  | writeRequest => exact execWriteRequest_wf _ h
  | atomicRequest => exact execAtomicRequest_wf _ h
  | xputData => exact execXputData_wf _ h
  | collectiveData => exact execCollectiveData_wf _ h
  | forwardedRequest => exact execForwardedRequest_wf _ h
  | probe => exact execProbe_wf _ h
  | readResponse => exact execReadResponse_wf _ h
  | writeAck => exact execWriteAck_wf _ h
  | atomicResponse => exact execAtomicResponse_wf _ h
  | xputAck => exact execXputAck_wf _ h
  | collectiveAck => exact execCollectiveAck_wf _ h
  | busy => exact execBusy_wf _ h
  | busyRetry => exact execBusyRetry_wf _ h
  | progressReport => exact execProgressReport_wf _ h
  | poisonedResponse => exact execPoisonedResponse_wf _ h
  | requestProbeTimer => exact execRequestProbeTimer_wf _ h
  | requestTimeout => exact execRequestTimeout_wf _ h
  | heldRequestPerform => exact execHeldRequestPerform_wf h
  | xqEntryStart => exact execXqEntryStart_wf _ _ h
  | xqEntryComplete => exact execXqEntryComplete_wf _ _ h
  | xqEntryResume => exact execXqEntryResume_wf _ _ h
  | xqEntryRetire => exact execXqEntryRetire_wf _ _ h
  | ptpMessage => exact execPtpMessage_wf _ _ _ h
  | timeServoCorrection => exact execTimeServoCorrection_wf _ _ _ h
  | heatSheetPublish => exact execHeatSheetPublish_wf _ h
  | heatSheetEntry => exact execHeatSheetEntry_wf _ h
  | ack => exact execAck_wf _ _ _ h
  | nak => exact execNak_wf _ _ _ _ h
  | commit => exact execCommit_wf _ _ _ h
  | heatStart => exact execHeatStart_wf _ h
  | heartbeatSend => exact execHeartbeatSend_wf h
  | heartbeat => exact execHeartbeat_wf _ _ _ h
  | heartbeatLoss => exact execHeartbeatLoss_wf h
  | candidacy => exact execCandidacy_wf _ _ _ h
  | electionTimer => exact execElectionTimer_wf h
  | electionResult => exact execElectionResult_wf _ _ _ h
  | memberFailureReport => exact execMemberFailureReport_wf _ _ _ h
  | entryRequest => exact execEntryRequest_wf _ _ h
  | abort => exact execAbort_wf _ h
  | catchCore => exact execCatchCore_wf _ _ h
  | deadlineReset => exact execDeadlineReset_wf _ _ h
  | save => exact execSave_wf _ _ h
  | drainAndTag => exact execDrainAndTag_wf _ _ h
  | parkedResponse => exact execParkedResponse_wf _ h
  | switchRestore => exact execSwitchRestore_wf _ _ _ h
  | freshStart => exact execFreshStart_wf _ _ _ h
  | switchStart => exact execSwitchStart_wf _ _ h
  | sprintGrantRecord => exact execSprintGrantRecord_wf _ h
  | sprintGrant => exact execSprintGrant_wf _ h
  | accumulatorDrain => exact execAccumulatorDrain_wf _ h
  | sprintStart => exact execSprintStart_wf _ h
  | sprintLimit => exact execSprintLimit_wf h
  | sprintEnd => exact execSprintEnd_wf _ h
  | sprintRequest => exact execSprintRequest_wf _ h
  | translationWalk => exact execTranslationWalk_wf _ _ h
  | translationInvalidate => exact h
  | partitionCreate => exact execPartitionCreate_wf _ _ h
  | partitionTakedown => exact execPartitionTakedown_wf _ h
  | arrayAssign => exact execArrayAssign_wf _ _ h
  | pinnedTileAssign => exact execPinnedTileAssign_wf _ _ h
  | copyOnWrite => exact execCopyOnWrite_wf _ _ h
  | copyOnWriteTimeout => exact execCopyOnWriteTimeout_wf _ _ h
  | checkpointComplete => exact execCheckpointComplete_wf _ h
  | checkpointFail => exact execCheckpointFail_wf _ _ h
  | checkpointTimeout => exact execCheckpointTimeout_wf _ h
  | restore => exact execRestore_wf _ _ _ h
  | replay => exact execReplay_wf _ _ h
  | stepBack => exact execStepBack_wf _ _ _ h
  | freezeN => exact h
  | tapRead => exact execTapRead_wf _ _ h
  | coldReset => exact show WfResult (execColdReset _ s) from State.restart_wf _ _ _ _
  | stageComplete => exact execStageComplete_wf h
  | stageFailure => exact execStageFailure_wf _ h
  | measurementExtend => exact execMeasurementExtend_wf _ _ h
  | attestationReport => exact h
  | clearAndRestart => exact show WfResult (execClearAndRestart s) from State.restart_wf _ _ _ _
  | basicRegisterWrite => exact execBasicRegisterWrite_wf _ _ h
  | expertRegisterWrite => exact h
  | expertWriteEffect => exact execExpertWriteEffect_wf _ h
  | islandLevelChange => exact execIslandLevelChange_wf _ _ h
  | preStartRaise => exact execPreStartRaise_wf _ h
  | powerSample => exact execPowerSample_wf h
  | powerTrip => exact execPowerTrip_wf h
  | timeWake => exact execTimeWake_wf _ _ h
  | lightStart => exact execLightStart_wf h
  | setupEnd => exact execSetupEnd_wf _ h
  | memberHeartbeatMissed => exact execMemberHeartbeatMissed_wf _ h
  | cxlMemAccess => exact execCxlMemAccess_wf _ _ _ _ h

/-! ## The events that the package brings about itself -/

/-- An event that keeps the canonical form. -/
def WfEvent (e : Event) : Prop := ∀ s : State, s.mem.wf → WfResult (e s)

/-- A list of such events. -/
def WfEvents (l : List Event) : Prop := ∀ e ∈ l, WfEvent e

theorem WfEvents.nil : WfEvents [] := fun _ he => absurd he List.not_mem_nil

theorem WfEvents.cons {e : Event} {l : List Event} (he : WfEvent e) (hl : WfEvents l) : WfEvents (e :: l) :=
  List.forall_mem_cons.mpr ⟨he, hl⟩

theorem WfEvents.single {e : Event} (he : WfEvent e) : WfEvents [e] := .cons he .nil

theorem WfEvents.append {l m : List Event} (hl : WfEvents l) (hm : WfEvents m) : WfEvents (l ++ m) :=
  List.forall_mem_append.mpr ⟨hl, hm⟩

theorem WfEvents.map {α : Type} {l : List α} {f : α → Event} (hf : ∀ x, WfEvent (f x)) : WfEvents (l.map f) :=
  List.forall_mem_map.mpr fun x _ => hf x

theorem WfEvents.flatMap {α : Type} {l : List α} {f : α → List Event} (hf : ∀ x, WfEvents (f x)) :
    WfEvents (l.flatMap f) := fun _ he =>
  let ⟨x, _, hx⟩ := List.mem_flatMap.mp he
  hf x _ hx

theorem WfEvents.turned {l : List Event} (n : Nat) (hl : WfEvents l) : WfEvents (turned n l) :=
  .append (fun e he => hl e (List.mem_of_mem_drop he)) (fun e he => hl e (List.mem_of_mem_take he))

theorem WfEvents.ite {c : Prop} [Decidable c] {l m : List Event} (hl : WfEvents l) (hm : WfEvents m) :
    WfEvents (if c then l else m) := by
  split
  · exact hl
  · exact hm

theorem crewEvents_wf (x : Nat × Crew) : WfEvents (crewEvents x) :=
  .append (.flatMap fun _ => .map fun _ _ => execLongLatencyArrival_wf _ _) (.map fun _ _ => execTimeWake_wf _ _)

theorem queueEvents_wf (x : Nat × QSet) : WfEvents (queueEvents x) :=
  .flatMap fun _ => .ite
    (.cons (fun _ => execCopyEntryStart_wf _ _ _) <| .single fun _ => execCopyEntryComplete_wf _ _ _) <| .ite
    (.cons (fun _ => execMtsTaskStart_wf _ _ _) <| .flatMap fun _ =>
      .cons (fun _ => execTileKStep_wf _ _) <| .single fun _ => execTileTaskComplete_wf _) <| .ite
    (.cons (fun _ => execClauseEntryStart_wf _) <| .cons (fun _ => execTrainingStep_wf _) <|
      .cons (fun _ => execInferenceSample_wf _ _) <| .cons (fun _ => execInferenceSample_wf _ _) <|
      .cons (fun _ => execCamovOperation_wf _) <| .single fun _ => execClauseEntryComplete_wf _)
    (.cons (fun _ => execXqEntryStart_wf _ _) <| .single fun _ => execXqEntryComplete_wf _ _)

theorem graphEvents_wf (s : State) (x : Nat × Graph) : WfEvents (graphEvents s x) :=
  .append
    (.append
      (.cons (fun _ => execGraphLoadComplete_wf _ _) <| .flatMap fun _ =>
        .append (.map fun _ _ => execNodeFault_wf _ _ _ _ _) <|
        .cons (fun _ => execNodeDone_wf _ _ _) <| .cons (fun _ => execNodeEnterBank_wf _ _ _) <|
        .single fun _ => execEngineNodeIssue_wf _ _ _) <|
      .flatMap fun _ => .cons (fun _ => execConeVisit_wf _ _ _) <| .map fun _ _ => execCrewStop_wf _ _) <|
    .cons (fun _ => execConeResolve_wf _ _) <| .single fun _ => execGraphEnd_wf _ _

theorem coreEvents_wf (s : State) : WfEvents (coreEvents s) :=
  .append
    (.flatMap fun _ => .cons (fun _ => execBlockPlacement_wf _) <| .cons (fun _ => execPrefetchFill_wf _) <|
      .single fun _ => execClauseGranuleAccess_wf _) <|
    .flatMap fun _ => .cons (fun _ => execToken_wf _) <| .map fun _ _ => execTquAging_wf _ _ _

theorem packetEvent_wf (s : State) (p : Packet) : WfEvents (packetEvent s p) := by
  unfold packetEvent
  split
  · exact .single fun _ => execParkedResponse_wf p
  · split
    · exact .single fun _ => execReadRequest_wf p
    · exact .single fun _ => execReadResponse_wf p
    · exact .single fun _ => execWriteRequest_wf p
    · exact .single fun _ => execWriteAck_wf p
    · exact .single fun _ => execAtomicRequest_wf p
    · exact .single fun _ => execAtomicResponse_wf p
    · exact .single fun _ => execXputData_wf p
    · exact .single fun _ => execXputAck_wf p
    · exact .single fun _ => execBusy_wf p
    · exact .single fun _ => execProbe_wf p
    · exact .single fun _ => execProgressReport_wf p
    · exact .single fun _ => execCollectiveData_wf p
    · exact .single fun _ => execCollectiveAck_wf p
    · exact .single fun _ => execPoisonedResponse_wf p
    · exact .single fun _ => execForwardedRequest_wf p
    · exact .nil

/-- A message is taken out of the list of those that have come before its event: that does not touch the memories. -/
theorem WfEvent.afterFabric {e : Event} (f : Fabric → Fabric) (he : WfEvent e) : WfEvent fun s => e (s.updFabric f) :=
  fun s h => he (s.updFabric f) h

theorem messageEvent_wf (s : State) (x : Stamped) : WfEvents (messageEvent s x) := by
  unfold messageEvent
  extract_lets m take
  split
  · exact .single fun _ => execPtpMessage_wf _ _ _
  · exact .single <| .afterFabric _ fun _ => execHeartbeat_wf _ _ _
  · exact .single <| .afterFabric _ fun _ => execCandidacy_wf _ _ _
  · exact .single <| .afterFabric _ fun _ => execAck_wf _ _ _
  · exact .single <| .afterFabric _ fun _ => execNak_wf _ _ _ _
  · exact .single <| .afterFabric _ fun _ => execCommit_wf _ _ _
  · exact .single <| .afterFabric _ fun _ => execMemberFailureReport_wf _ _ _
  · exact .single <| .afterFabric _ fun _ => execElectionResult_wf _ _ _
  · exact .single <| .afterFabric _ fun _ => execEntryRequest_wf _ _
  · exact .nil

theorem fabricEvents_wf (s : State) : WfEvents (fabricEvents s) := by
  have hreqs : WfEvents (s.fabric.reqs.flatMap fun r =>
      [execBusyRetry r.reqid, execRequestProbeTimer r.reqid, execRequestTimeout r.reqid]) :=
    .flatMap fun _ => .cons (fun _ => execBusyRetry_wf _) <| .cons (fun _ => execRequestProbeTimer_wf _) <|
      .single fun _ => execRequestTimeout_wf _
  have hlinks : WfEvents (s.litLinks.flatMap fun k =>
      [execSetupEnd (k / 8), execIdleLinkControl (k / 8), execFlitSend (k / 8)] ++
        (s.link k).readyAt.map fun v => execVcStarvation (k / 8) v.1) :=
    .flatMap fun _ => .append
      (.cons (fun _ => execSetupEnd_wf _) <| .cons (fun _ => execIdleLinkControl_wf _) <|
        .single fun _ => execFlitSend_wf _)
      (.map fun _ _ => execVcStarvation_wf _ _)
  have hgroups : WfEvents (s.fabric.groups.flatMap fun g =>
      [execSquareStart g.1, execWidthHandshake g.1, execSquareComplete g.1, execFeatherStart g.1, execFeatherPark g.1]) :=
    .flatMap fun _ => .cons (fun _ => execSquareStart_wf _) <| .cons (fun _ => execWidthHandshake_wf _) <|
      .cons (fun _ => execSquareComplete_wf _) <| .cons (fun _ => execFeatherStart_wf _) <|
      .single fun _ => execFeatherPark_wf _
  have hserve : WfEvents [execHeldRequestPerform, execFlitEgress] :=
    .cons (fun _ => execHeldRequestPerform_wf) <| .single fun _ => execFlitEgress_wf
  have hlight : WfEvents [execRotorSlotStart, execLightStart, execLightEnd] :=
    .cons (fun _ => execRotorSlotStart_wf) <| .cons (fun _ => execLightStart_wf) <| .single fun _ => execLightEnd_wf
  exact .append (.append (.append (.append (.append (.append (.flatMap (packetEvent_wf s)) hserve) hreqs) hlight) hlinks)
    (.flatMap (messageEvent_wf s))) hgroups

theorem heatEvents_wf (s : State) : WfEvents (heatEvents s) := by
  have hsheet : WfEvents (s.heat.sheet.flatMap fun x => [execHeatStart x.entry.seq, execAbort x.entry.seq]) :=
    .flatMap fun _ => .cons (fun _ => execHeatStart_wf _) <| .single fun _ => execAbort_wf _
  have hswitches : WfEvents (s.heat.switches.flatMap fun w =>
      [execCatchCore w.core w.part, execDeadlineReset w.core w.part, execSave w.core w.part, execDrainAndTag w.core w.part,
       execSwitchRestore w.core w.part w.seq, execSwitchStart w.core w.part]) :=
    .flatMap fun _ => .cons (fun _ => execCatchCore_wf _ _) <| .cons (fun _ => execDeadlineReset_wf _ _) <|
      .cons (fun _ => execSave_wf _ _) <| .cons (fun _ => execDrainAndTag_wf _ _) <|
      .cons (fun _ => execSwitchRestore_wf _ _ _) <| .single fun _ => execSwitchStart_wf _ _
  have hsprint : WfEvents (match s.heat.sprint with
      | some x => execSprintLimit :: x.cores.flatMap fun c =>
          [execSprintGrant c, execAccumulatorDrain c, execSprintStart c, execSprintEnd c]
      | none => if s.heat.grants.isEmpty then [] else [execSprintGrant 0]) := by
    split
    · exact .cons (fun _ => execSprintLimit_wf) <| .flatMap fun _ => .cons (fun _ => execSprintGrant_wf _) <|
        .cons (fun _ => execAccumulatorDrain_wf _) <| .cons (fun _ => execSprintStart_wf _) <|
        .single fun _ => execSprintEnd_wf _
    · exact .ite .nil (.single fun _ => execSprintGrant_wf _)
  have htimers : WfEvents [execHeartbeatSend, execHeartbeatLoss, execElectionTimer, always State.takeArrival,
      always State.sendEntry] :=
    .cons (fun _ => execHeartbeatSend_wf) <| .cons (fun _ => execHeartbeatLoss_wf) <|
      .cons (fun _ => execElectionTimer_wf) <| .cons (fun _ => always_wf State.takeArrival_mem) <|
      .single fun _ => always_wf State.sendEntry_mem
  exact .append (.append (.append (.append hsheet hswitches) hsprint) htimers)
    (.map fun _ _ => execMemberHeartbeatMissed_wf _)

theorem firmwareEvents_wf (s : State) : WfEvents (firmwareEvents s) := by
  have hcopying (c : Copying) : WfEvents [execCheckpointTimeout c.job,
      match c.left with | u :: _ => execCopyOnWrite c.part u.1 | [] => execCheckpointComplete c.job] := by
    refine .cons (fun _ => execCheckpointTimeout_wf _) (.single ?_)
    split
    · exact fun _ => execCopyOnWrite_wf _ _
    · exact fun _ => execCheckpointComplete_wf _
  exact .append (.append (.append (.append
      (.ite (.single fun _ => execStageFailure_wf _) .nil)
      (.cons (fun _ => execPowerSample_wf) <| .single fun _ => execPowerTrip_wf))
      (.map fun _ _ => execPreStartRaise_wf _))
      (.map fun _ _ => execCopyOnWriteTimeout_wf _ _))
      (.flatMap hcopying)

theorem State.ownEvents_wf (s : State) : WfEvents s.ownEvents :=
  .append (.append (.append (.append (.append (.append (.flatMap crewEvents_wf) (.flatMap queueEvents_wf))
    (.flatMap (graphEvents_wf s))) (coreEvents_wf s)) (fabricEvents_wf s)) (heatEvents_wf s)) (firmwareEvents_wf s)

theorem State.firstDue_wf {s t : State} {l : List Event} (hl : WfEvents l) (h : s.mem.wf) (ht : s.firstDue l = some t) :
    t.mem.wf := by
  induction l with
  | nil => cases ht
  | cons e l ih =>
    obtain ⟨he, hl⟩ := List.forall_mem_cons.mp hl
    have hes := he s h
    unfold State.firstDue at ht
    split at ht
    · next u hu =>
      rw [hu] at hes
      split at ht
      · exact ih hl ht
      · cases ht
        exact hes
    · exact ih hl ht

/-! ## A turn and a step -/

theorem State.runHead_wf {s : State} (e : LaneEntry) (h : s.mem.wf) : WfResult (s.runHead e) := by
  unfold State.runHead
  split
  · exact exec_wf _ h
  · exact State.takeTrap_wf _ _ _ h

theorem refocus_wf {r : Result} (slot split : Nat) (h : WfResult r) : WfResult (refocus slot split r) := by
  cases r <;> exact h

theorem State.laneTurn_wf {s : State} (slot : Nat) (h : s.mem.wf) : WfResult (s.laneTurn slot) := by
  unfold State.laneTurn
  dsimp only
  split
  · exact h
  · exact wfResult_ite (refocus_wf _ _ (State.runHead_wf _ h)) h

theorem State.runWord_wf {s : State} (h : s.mem.wf) : WfResult s.runWord := by
  unfold State.runWord
  refine wfResult_ite (State.illegal_wf _ _ h) (wfResult_ite (State.raise_wf _ _ _ _ h) ?_)
  split
  · exact exec_wf _ h
  · exact State.illegal_wf _ _ h

theorem State.scalarTurn_wf {s : State} (slot split : Nat) (h : s.mem.wf) : WfResult (s.scalarTurn slot split) := by
  unfold State.scalarTurn
  refine wfResult_ite h ?_
  dsimp only
  split
  · trivial
  · exact State.runWord_wf h

theorem State.defaultTurn_wf {s : State} (h : s.mem.wf) : WfResult s.defaultTurn := by
  unfold State.defaultTurn
  dsimp only
  split
  · next t ht =>
    split at ht
    · exact State.firstDue_wf (.turned _ s.ownEvents_wf) h ht
    · cases ht
  · refine wfResult_ite (State.laneTurn_wf _ h) ?_
    have hs := State.scalarTurn_wf s.cur s.curSplit h
    split
    · next t ht =>
      rw [ht] at hs
      exact (congrArg Mem.wf t.rotate_mem).mpr hs
    · exact hs

theorem State.turn_wf {s : State} (x : Turn) (h : s.mem.wf) : WfResult (s.turn x) := by
  cases x with
  | event i => exact exec_wf i h
  | scalar slot split => exact State.scalarTurn_wf slot split h
  | lane slot => exact State.laneTurn_wf slot h
  | host a => exact State.hostAccess_wf a h

theorem State.nextTurn_wf {s : State} (h : s.mem.wf) : WfResult s.nextTurn := by
  unfold State.nextTurn
  split
  · exact wfResult_ite h (State.defaultTurn_wf h)
  · exact wfResult_ite h (State.turn_wf _ h)

theorem ticked_wf {r : Result} (h : WfResult r) : WfResult (ticked r) := by
  cases r with
  | next t => exact State.tick_wf h
  | fault f => trivial
  | refused r => trivial

/-- Settles O57: `exec_wf` says it of every instruction and event, and a step is one turn of those, then the tick. -/
theorem memoriesStayCanonical : Obligations.MemoriesStayCanonical := by
  intro s t h hst
  have hstep : WfResult (step s) := ticked_wf (State.nextTurn_wf h)
  rw [hst] at hstep
  exact hstep

end Sys2Proof.Machine
end

section
/-! The waits for a ticket and the fence of a queue (O10). A drain of a store window is stated byte by byte: the array then
holds what the crew read before. -/

namespace Sys2Proof.Machine

/-! ## Draining a store window (R23, R24) -/

theorem spOf_inj {x y : Bool} : spOf x = spOf y ↔ x = y := by cases x <;> cases y <;> decide

/-- A byte of a memory after a store of the bytes that a function gives. -/
theorem Mem.byte_store_range (m : Mem) (sp tp : Sp) (a n c : Nat) (g : Nat → Byte) :
    (m.store sp a ((List.range n).map g)).byte tp c = if tp = sp ∧ a ≤ c ∧ c < a + n then g (c - a) else m.byte tp c := by
  split
  · next h =>
    obtain ⟨rfl, hlo, hhi⟩ := h
    have hi : c - a < ((List.range n).map g).length := by simp; omega
    have hb := Mem.byte_store_inside m tp a (c - a) ((List.range n).map g) hi
    rw [show a + (c - a) = c by omega] at hb
    simpa using hb
  · next h =>
    refine Mem.byte_store_outside m sp tp a c _ ?_
    simp only [List.length_map, List.length_range]
    by_cases ht : tp = sp
    · simp only [ht, true_and] at h
      exact .inr (by omega)
    · exact .inl ht

/-- A byte of a memory after writes of which each that reaches the byte writes the same value there. -/
theorem Mem.byte_foldl {α : Type} {f : Mem → α → Mem} {sp : Sp} {a : Nat} {v : Byte} (p : α → Bool) (l : List α)
    (hf : ∀ x ∈ l, ∀ m, (f m x).byte sp a = if p x then v else m.byte sp a) (m : Mem) :
    (l.foldl f m).byte sp a = if l.any p then v else m.byte sp a := by
  induction l generalizing m with
  | nil => rfl
  | cons x l ih =>
    rw [List.foldl_cons, ih fun y hy => hf y (List.mem_cons_of_mem x hy), hf x List.mem_cons_self, List.any_cons]
    cases p x <;> simp

/-- The entry holds the byte at an address: it is of its granule, and under its mask. -/
def WinEntry.holds (e : WinEntry) (spad : Bool) (a : Nat) : Bool :=
  e.spad == spad && e.granule == a / 64 && e.mask.getLsbD (a % 64)

/-- A store of n bytes of an entry, from its byte o on, reaches those of the entry's bytes that are in that range. -/
theorem WinEntry.byte_store (e : WinEntry) (m : Mem) (o n : Nat) (spad : Bool) (a : Nat) (hn : o + n ≤ 64) :
    (m.store (spOf e.spad) (64 * e.granule + o)
        ((List.range n).map fun i => e.data.extractLsb' (8 * (o + i)) 8)).byte (spOf spad) a =
      if e.spad = spad ∧ e.granule = a / 64 ∧ o ≤ a % 64 ∧ a % 64 < o + n then e.data.extractLsb' (8 * (a % 64)) 8
      else m.byte (spOf spad) a := by
  rw [Mem.byte_store_range]
  by_cases h : e.spad = spad ∧ e.granule = a / 64 ∧ o ≤ a % 64 ∧ a % 64 < o + n
  · obtain ⟨hs, hg, hlo, hhi⟩ := h
    rw [if_pos ⟨by rw [hs], by omega, by omega⟩, if_pos ⟨hs, hg, hlo, hhi⟩,
      show o + (a - (64 * e.granule + o)) = a % 64 by omega]
  · rw [if_neg h, if_neg]
    rintro ⟨hs, hlo, hhi⟩
    exact h ⟨(spOf_inj.mp hs).symm, by omega, by omega, by omega⟩

/-- A part of a mask that is full holds each of its bits. -/
theorem getLsbD_of_extract_full {x : BitVec 64} {j k : Nat} (h : x.extractLsb' (8 * j) 8 = 0xFF#8) (hk : k / 8 = j) :
    x.getLsbD k = true := by
  have hb := congrArg (fun y : BitVec 8 => y.getLsbD (k % 8)) h
  have hm : k % 8 < 8 := Nat.mod_lt _ (by decide)
  have hone : (0xFF#8).getLsbD (k % 8) = true := by
    rw [show (0xFF#8) = BitVec.allOnes 8 from rfl, BitVec.getLsbD_allOnes]
    exact decide_eq_true hm
  rw [BitVec.getLsbD_extractLsb', hone, show 8 * j + k % 8 = k by omega] at hb
  simpa [hm] using hb

/-- What the drain does with eight bytes of an entry: as one write when all are under the mask, else byte by byte (R24). -/
theorem WinEntry.byte_drainPart (e : WinEntry) (m : Mem) {j : Nat} (hj : j < 8) (spad : Bool) (a : Nat) :
    Mem.byte
      (if e.mask.extractLsb' (8 * j) 8 = 0xFF#8 then
        m.store (spOf e.spad) (64 * e.granule + 8 * j)
          ((List.range 8).map fun i => e.data.extractLsb' (8 * (8 * j + i)) 8)
      else (List.range 8).foldl (fun m i =>
        if e.mask.getLsbD (8 * j + i) then
          m.store (spOf e.spad) (64 * e.granule + 8 * j + i) [e.data.extractLsb' (8 * (8 * j + i)) 8]
        else m) m) (spOf spad) a =
      if e.holds spad a && a % 64 / 8 == j then e.data.extractLsb' (8 * (a % 64)) 8 else m.byte (spOf spad) a := by
  split
  · next hfull =>
    rw [e.byte_store m (8 * j) 8 spad a (by omega)]
    refine if_congr ?_ rfl rfl
    have hbit := getLsbD_of_extract_full (k := a % 64) hfull
    simp only [WinEntry.holds, Bool.and_eq_true, beq_iff_eq]
    constructor
    · rintro ⟨hs, hg, hlo, hhi⟩
      exact ⟨⟨⟨hs, hg⟩, hbit (by omega)⟩, by omega⟩
    · rintro ⟨⟨⟨hs, hg⟩, -⟩, hj⟩
      exact ⟨hs, hg, by omega, by omega⟩
  · rw [Mem.byte_foldl (fun i => e.holds spad a && a % 64 == 8 * j + i) _ (v := e.data.extractLsb' (8 * (a % 64)) 8)]
    · refine if_congr ?_ rfl rfl
      simp only [List.any_eq_true, List.mem_range, Bool.and_eq_true, beq_iff_eq]
      constructor
      · rintro ⟨i, hi, hh, hk⟩
        exact ⟨hh, by omega⟩
      · rintro ⟨hh, hk⟩
        exact ⟨a % 64 - 8 * j, by omega, hh, by omega⟩
    · intro i hi m
      have hi : i < 8 := List.mem_range.mp hi
      have hb := e.byte_store m (8 * j + i) 1 spad a (by omega)
      simp only [List.range_one, List.map_cons, List.map_nil, Nat.add_zero, ← Nat.add_assoc] at hb
      split
      · next hbit =>
        rw [hb]
        refine if_congr ?_ rfl rfl
        simp only [WinEntry.holds, Bool.and_eq_true, beq_iff_eq]
        constructor
        · rintro ⟨hs, hg, hlo, hhi⟩
          have hk : a % 64 = 8 * j + i := by omega
          exact ⟨⟨⟨hs, hg⟩, hk ▸ hbit⟩, hk⟩
        · rintro ⟨⟨⟨hs, hg⟩, -⟩, hk⟩
          exact ⟨hs, hg, by omega, by omega⟩
      · next hbit =>
        rw [if_neg]
        simp only [WinEntry.holds, Bool.and_eq_true, beq_iff_eq]
        rintro ⟨⟨-, hm⟩, hk⟩
        exact hbit (hk ▸ hm)

theorem WinEntry.byte_drain (e : WinEntry) (m : Mem) (spad : Bool) (a : Nat) :
    (e.drain m).byte (spOf spad) a =
      if e.holds spad a then e.data.extractLsb' (8 * (a % 64)) 8 else m.byte (spOf spad) a := by
  have hlt : a % 64 < 64 := Nat.mod_lt _ (by decide)
  unfold WinEntry.drain
  dsimp only
  split
  · next hmask =>
    have hb := e.byte_store m 0 64 spad a (by decide)
    simp only [Nat.add_zero, Nat.zero_add] at hb
    rw [hb]
    have hbit : e.mask.getLsbD (a % 64) = true := by
      rw [hmask, BitVec.getLsbD_allOnes]
      exact decide_eq_true hlt
    refine if_congr ?_ rfl rfl
    simp [WinEntry.holds, hbit, hlt]
  · rw [Mem.byte_foldl (fun j => e.holds spad a && a % 64 / 8 == j) _ (v := e.data.extractLsb' (8 * (a % 64)) 8)]
    · refine if_congr ?_ rfl rfl
      have hj : a % 64 / 8 < 8 := by omega
      simp [List.any_eq_true, hj]
    · intro j hj m
      exact e.byte_drainPart m (List.mem_range.mp hj) spad a

/-- A byte of memory after a window has drained: what the crew whose window it is read there (R23, R24). -/
theorem Mem.byte_foldl_drain {w : List WinEntry} (hw : windowUnique w) (m : Mem) (spad : Bool) (a : Nat) :
    (w.foldl (fun m e => e.drain m) m).byte (spOf spad) a =
      match windowFind w spad (a / 64) with
      | some e => if e.mask.getLsbD (a % 64) then e.data.extractLsb' (8 * (a % 64)) 8 else m.byte (spOf spad) a
      | none => m.byte (spOf spad) a := by
  induction w generalizing m with
  | nil => rfl
  | cons e w ih =>
    obtain ⟨he, hw⟩ := List.pairwise_cons.mp hw
    rw [List.foldl_cons, ih hw, WinEntry.byte_drain]
    unfold windowFind
    by_cases hhit : e.spad = spad ∧ e.granule = a / 64
    · have hrest : w.find? (fun f => f.spad == spad && f.granule == a / 64) = none := by
        refine List.find?_eq_none.mpr fun f hf hfs => ?_
        simp only [Bool.and_eq_true, beq_iff_eq] at hfs
        exact he f hf ⟨hhit.1.trans hfs.1.symm, hhit.2.trans hfs.2.symm⟩
      simp [hrest, hhit, WinEntry.holds]
    · have hkeep : e.holds spad a = false := by
        simp only [WinEntry.holds, Bool.and_eq_false_iff, beq_eq_false_iff_ne, ne_eq]
        tauto
      have hfind : (e.spad == spad && e.granule == a / 64) = false := by
        simpa using hhit
      simp [hkeep, hfind]

theorem Mem.coreKept_refl (m : Mem) : m.coreKept m := ⟨rfl, rfl, rfl, rfl, rfl, rfl⟩

theorem Mem.coreKept_trans {m n p : Mem} (h : m.coreKept n) (h' : n.coreKept p) : m.coreKept p := by
  unfold Mem.coreKept at *
  grind

theorem Mem.coreKept_store (m : Mem) (spad : Bool) (a : Nat) (bs : List Byte) :
    m.coreKept (m.store (spOf spad) a bs) := by
  cases spad <;> exact ⟨rfl, rfl, rfl, rfl, rfl, rfl⟩

theorem WinEntry.coreKept_drain (e : WinEntry) (m : Mem) : m.coreKept (e.drain m) := by
  unfold WinEntry.drain
  dsimp only
  split
  · exact Mem.coreKept_store _ _ _ _
  · refine foldl_keeps m.coreKept _ _ m (fun n j _ hn => ?_) m.coreKept_refl
    split
    · exact Mem.coreKept_trans hn (Mem.coreKept_store _ _ _ _)
    · refine foldl_keeps m.coreKept _ _ n (fun n i _ hn => ?_) hn
      split
      · exact Mem.coreKept_trans hn (Mem.coreKept_store _ _ _ _)
      · exact hn

theorem State.mem_drain (s : State) : s.drain.mem = s.crew.window.foldl (fun m e => e.drain m) s.mem := by
  unfold State.drain State.drainAt State.drainIf State.crew
  dsimp only
  split
  · next h => rw [List.isEmpty_iff.mp h]; rfl
  · rw [List.filter_true]

theorem State.drain_frame (s : State) : s.drain = { s with crews := s.drain.crews, mem := s.drain.mem } :=
  s.drainIf_frame s.cur _

theorem State.crewAt_drain (s : State) (n : Nat) :
    s.drain.crewAt n = if n = s.cur then { s.crew with window := [] } else s.crewAt n := by
  simpa [State.drain, State.drainAt] using s.crewAt_drainIf s.cur n fun _ => true

@[simp] theorem State.crew_drain (s : State) : s.drain.crew = { s.crew with window := [] } := by
  have hcur : s.drain.cur = s.cur := by rw [s.drain_frame]
  show s.drain.crewAt s.drain.cur = _
  rw [hcur, s.crewAt_drain, if_pos rfl]

@[simp] theorem State.split_drain (s : State) : s.drain.split = s.split := by
  have hcur : s.drain.curSplit = s.curSplit := by rw [s.drain_frame]
  unfold State.split
  rw [s.crew_drain, hcur]
  rfl

/-- A drained state's memories and window are those of any state that differs from it in splits and clocks alone. -/
theorem State.emptied_of_drain {s t : State} (hw : windowUnique s.crew.window) (hwin : t.crew.window = [])
    (hmem : t.mem = s.drain.mem) : s.emptied t := by
  refine ⟨hwin, fun spad a => ?_, ?_⟩
  · rw [hmem, s.mem_drain, Mem.byte_foldl_drain hw]
    rfl
  · rw [hmem, s.mem_drain]
    exact foldl_keeps s.mem.coreKept _ _ _ (fun n e _ hn => Mem.coreKept_trans hn (e.coreKept_drain n)) s.mem.coreKept_refl

/-- A word that went on after a drain of the window (R24, R132). -/
theorem State.drainedTo_of_wentAt {s t : State} {clock : DWord} (hw : windowUnique s.crew.window)
    (h : s.drain.wentAt t (s.split.spc + 4) clock) : s.drainedTo t clock := by
  obtain ⟨⟨hframe, hothers⟩, hcrew, hsplits, hsplit⟩ := h
  have hd := s.drain_frame
  have hcur : s.drain.cur = s.cur := by rw [hd]
  have hcurSplit : s.drain.curSplit = s.curSplit := by rw [hd]
  have hmem : t.mem = s.drain.mem := by rw [hframe]
  have hcr : t.crew = { s.crew with window := [], splits := t.crew.splits, clock := clock, inSync := t.crew.inSync } := by
    rw [hcrew, s.crew_drain]
  refine ⟨?_, fun n hn => ?_, hcr, fun k hk => ?_, ?_, State.emptied_of_drain hw (by rw [hcr]) hmem⟩
  · rw [hmem]
    conv_lhs => rw [hframe, hd]
  · rw [hothers n (by rwa [hcur]), s.crewAt_drain, if_neg hn]
  · rw [hsplits k (by rwa [hcurSplit]), s.crew_drain]
    rfl
  · rw [hsplit, s.split_drain]

/-! ## Waiting for a ticket (R139, R140) -/

/-- What a word that ends a synchronisation does: it goes on, with the clock of what it waited for where that is later. -/
theorem State.doneSync_wentAt (s : State) (clk : DWord) :
    s.wentAt (s.doneSync clk) (s.split.spc + 4) ((if s.crew.clock < clk then clk else s.crew.clock) + 1) := by
  let u := s.updCrew fun c => { c with clock := if c.clock < clk then clk else c.clock, inSync := false }
  have hu : u.crew = { s.crew with clock := if s.crew.clock < clk then clk else s.crew.clock, inSync := false } :=
    s.crew_updCrew _
  obtain ⟨⟨honly, hcrew, hsplits, hsplit⟩, -⟩ := u.jump_wentTo (u.split.spc + 4)
  have hsp : u.split = s.split := by
    unfold State.split
    rw [hu]
    rfl
  have hdone : s.doneSync clk = u.jump (u.split.spc + 4) := rfl
  rw [hdone]
  refine ⟨State.onlyCrew_trans (s.onlyCrew_updCrew _) honly, ?_, fun k hk => ?_, ?_⟩
  · rw [hcrew, hu]
  · rw [hsplits k hk, hu]
    rfl
  · rw [hsplit, hsp]

/-- The ticket in register a has been issued into queue q of the crew's core (R139). -/
def State.ticketIssued (s : State) (a : RegNo) (q : Nat) : Prop :=
  ¬(1 ≤ (s.sreg a - (s.queue s.qk q).issue).toNat ∧ (s.sreg a - (s.queue s.qk q).issue).toNat < 2 ^ 31)

theorem State.ticketIssued_iff (s : State) (a : RegNo) (q : Nat) :
    s.ticketIssued a q ↔
      (s.sreg a != (s.queue s.qk q).issue && decide ((s.sreg a - (s.queue s.qk q).issue).toNat < 2 ^ 31)) = false := by
  have hone : 1 ≤ (s.sreg a - (s.queue s.qk q).issue).toNat ↔ s.sreg a ≠ (s.queue s.qk q).issue := by
    bv_omega
  unfold State.ticketIssued
  rw [hone]
  simp

section
variable {s : State} {a : RegNo} {q : BitVec 4} (hq : q.toNat < 7) (hwait : s.split.wait = .none) (drain : Bool)
include hq hwait

/-- The wait at its first issue, for a queue that there is (R139, R140). -/
theorem State.waitSeq_first :
    s.waitSeq drain a q =
      let v := s.sreg a
      let u := s.queue s.qk q.toNat
      if v != u.issue && (v - u.issue).toNat < 2 ^ 31 then s.raise 0x0F q.toNat v 0
      else if s.crew.asyncf.getLsbD q.toNat then s.raise 0x10 q.toNat v 0
      else
        let s := if drain then s.drain else s
        if seqCovers u.seq v then s.doneSync (u.clockOf v) else s.stay .sync := by
  have hq' : ¬(7 : BitVec 4) ≤ q := by
    rw [BitVec.le_def]
    exact Nat.not_le.mpr hq
  unfold State.waitSeq
  dsimp only
  rw [if_neg hq', hwait]
  simp

theorem State.waitSeq_unissued (h : ¬s.ticketIssued a q.toNat) :
    s.waitSeq drain a q = s.raise 0x0F q.toNat (s.sreg a) 0 := by
  rw [State.ticketIssued_iff, Bool.not_eq_false] at h
  simp only [State.waitSeq_first hq hwait, h, if_true]

theorem State.waitSeq_asyncFault (h : s.ticketIssued a q.toNat) (hf : s.crew.asyncf.getLsbD q.toNat = true) :
    s.waitSeq drain a q = s.raise 0x10 q.toNat (s.sreg a) 0 := by
  rw [State.ticketIssued_iff] at h
  simp only [State.waitSeq_first hq hwait, h, hf, if_true, Bool.false_eq_true, if_false]

theorem State.waitSeq_clean (h : s.ticketIssued a q.toNat) (hf : s.crew.asyncf.getLsbD q.toNat = false) :
    s.waitSeq drain a q =
      let u := if drain then s.drain else s
      if seqCovers (s.queue s.qk q.toNat).seq (s.sreg a) then u.doneSync ((s.queue s.qk q.toNat).clockOf (s.sreg a))
      else u.stay .sync := by
  rw [State.ticketIssued_iff] at h
  simp only [State.waitSeq_first hq hwait, h, hf, Bool.false_eq_true, if_false]

end

theorem ticketWaits : Claim.TicketWaits := by
  intro s a q hq hwait hw
  refine ⟨fun hi hf hcover => ?_, fun hi hf hcover => ?_, fun hi => ?_, fun hi hf => ?_⟩
  · have hc : seqCovers (s.queue s.qk q.toNat).seq (s.sreg a) = true := decide_eq_true hcover
    refine ⟨⟨_, rfl, ?_⟩, ⟨_, rfl, ?_⟩⟩
    · rw [State.waitSeq_clean hq hwait _ hi hf]
      simp only [hc, if_true, Bool.false_eq_true, if_false]
      exact s.doneSync_wentAt _
    · rw [State.waitSeq_clean hq hwait _ hi hf]
      simp only [hc, if_true]
      have hd := s.drain.doneSync_wentAt ((s.queue s.qk q.toNat).clockOf (s.sreg a))
      refine State.drainedTo_of_wentAt hw ?_
      rwa [s.split_drain, s.crew_drain] at hd
  · have hc : seqCovers (s.queue s.qk q.toNat).seq (s.sreg a) = false := decide_eq_false (by omega)
    refine ⟨⟨_, rfl, ?_⟩, ⟨_, rfl, ?_⟩⟩
    · rw [State.waitSeq_clean hq hwait _ hi hf]
      simp only [hc, Bool.false_eq_true, if_false]
      exact s.stay_stayed _
    · rw [State.waitSeq_clean hq hwait _ hi hf]
      simp only [hc, if_true, Bool.false_eq_true, if_false]
      obtain ⟨-, hcrew, -, hsplit⟩ := s.drain.stay_stayed .sync
      refine ⟨State.emptied_of_drain hw (by rw [hcrew, s.crew_drain]) rfl, ?_⟩
      rw [hsplit, s.split_drain]
  · have h1 (drain : Bool) := State.waitSeq_unissued hq hwait drain hi
    exact ⟨congrArg _ (h1 false), congrArg _ (h1 true)⟩
  · have h1 (drain : Bool) := State.waitSeq_asyncFault hq hwait drain hi ((Bool.not_eq_false _).mp hf)
    exact ⟨congrArg _ (h1 false), congrArg _ (h1 true)⟩

/-! ## The fence of the queues (R31) -/

/-- The queues of a core after a fence of those that a mask names: what a later entry of one of them waits for. -/
def QSet.fenced (m : BitVec 7) (x : QSet) : QSet :=
  { x with fences := x.fences ++ [(m, ((List.range 7).filter fun q => m.getLsbD q).map fun q => (q, (x.queue q).issue))] }

theorem execQfnc_of_ne {m : BitVec 7} (hm : m ≠ 0) (s : State) :
    execQfnc m s = .next (s.updQset s.qk (QSet.fenced m)).done := if_neg hm

theorem queueFence : Claim.QueueFence := by
  intro s m
  have hdone (u : State) (hcrew : u.crew = s.crew) (hcurSplit : u.curSplit = s.curSplit) :
      u.done.crew.clock = s.crew.clock + 1 ∧ u.done.split = { s.split with spc := s.split.spc + 4, wait := .none } := by
    have hsplit : u.split = s.split := by
      unfold State.split
      rw [hcrew, hcurSplit]
    obtain ⟨⟨-, hc, -, hsp⟩, -⟩ := u.jump_wentTo (u.split.spc + 4)
    exact ⟨by rw [State.done, hc, hcrew], by rw [State.done, hsp, hsplit]⟩
  by_cases hm : m = 0
  · obtain ⟨hclock, hsplit⟩ := hdone s rfl rfl
    refine ⟨s.done, if_pos hm, hclock, hsplit, rfl, fun _ => rfl, ?_⟩
    rw [if_pos hm, List.append_nil]
    rfl
  · have hqset : (s.updQset s.qk (QSet.fenced m)).done.qset s.qk = (s.qset s.qk).fenced m := s.qset_updQset_same _ _
    obtain ⟨hclock, hsplit⟩ := hdone (s.updQset s.qk (QSet.fenced m)) rfl rfl
    refine ⟨_, execQfnc_of_ne hm s, hclock, hsplit, rfl, fun q =>
      (congrArg (QSet.queue · q) hqset).trans rfl, ?_⟩
    rw [hqset, if_neg hm]
    rfl

/-- Settles O10: the four ends of a wait at its first issue, and what a fence keeps. -/
theorem tickets : Obligations.Tickets := ⟨ticketWaits, queueFence⟩

end Sys2Proof.Machine
end

section
/-! The entries of the copy queues (O35): a lemma for each stage of the head of a queue, over what a change of an entry does
to its queue and what a write of PROG and STAT does to its chain slot. -/

namespace Sys2Proof.Machine

/-! ## An entry of a queue changed -/

theorem State.queue_updEntry (s : State) (k q : Nat) (t : Word) (f : QEntry → QEntry) :
    (s.updEntry k q t f).queue k q =
      { s.queue k q with ents := (s.queue k q).ents.map fun e => if e.ticket = t then f e else e } :=
  s.queue_updQueue_same k q _

/-- The entry with a ticket after a change of it that keeps the ticket. -/
theorem State.entry_updEntry {s : State} {k q : Nat} {e : QEntry} (he : s.entry k q e.ticket = some e)
    {f : QEntry → QEntry} (hf : ∀ x : QEntry, x.ticket = e.ticket → (f x).ticket = e.ticket) :
    (s.updEntry k q e.ticket f).entry k q e.ticket = some (f e) := by
  have hkeep : ((fun x : QEntry => x.ticket == e.ticket) ∘ fun x => if x.ticket = e.ticket then f x else x) =
      fun x => x.ticket == e.ticket := by
    funext x
    by_cases hx : x.ticket = e.ticket
    · simp [hx, hf x hx]
    · simp [hx]
  have hfind : (s.queue k q).ents.find? (fun x => x.ticket == e.ticket) = some e := he
  show ((s.updEntry k q e.ticket f).queue k q).ents.find? _ = _
  rw [State.queue_updEntry, List.find?_map, hkeep, hfind]
  simp

/-- A queue whose only complete entry is the first: S becomes its ticket, and the rest stay (R12). -/
theorem Queue.settle_cons {u : Queue} {e : QEntry} {rest : List QEntry} (hents : u.ents = e :: rest)
    (he : e.state = .complete) (hrest : ∀ r ∈ rest, r.state ≠ .complete) :
    u.settle = { u with seq := e.ticket, ents := rest } := by
  have hnone : rest.takeWhile (fun x => decide (x.state = .complete)) = [] := by
    cases rest with
    | nil => rfl
    | cons r rest => exact List.takeWhile_cons_of_neg (by simpa using hrest r List.mem_cons_self)
  simp [Queue.settle, hents, he, hnone]

/-- A queue after its first entry is done with, where no other has its ticket and none is complete. -/
theorem State.queue_settleEntry {s : State} {k q : Nat} {e : QEntry} {rest : List QEntry}
    (hents : (s.queue k q).ents = e :: rest) (hrest : ∀ r ∈ rest, r.ticket ≠ e.ticket ∧ r.state ≠ .complete) :
    (s.settleEntry k q e.ticket).queue k q = { s.queue k q with seq := e.ticket, ents := rest } := by
  have hmap : rest.map (fun x => if x.ticket = e.ticket then { x with state := .complete } else x) = rest :=
    (List.map_congr_left fun r hr => if_neg (hrest r hr).1).trans rest.map_id
  unfold State.settleEntry
  rw [State.queue_updQueue_same, State.queue_updEntry,
    Queue.settle_cons (e := { e with state := .complete }) (rest := rest) _ rfl fun r hr => (hrest r hr).2]
  simp only [hents, List.map_cons, hmap, if_true]

/-! ## PROG and STAT of a chain slot (R216, R217) -/

/-- PROG and STAT of an entry stand in its slot, and scratchpad and block memory are otherwise as they were. -/
def StatIn (s t : State) (slot : Nat) (x : QEntry) (code : Nat) : Prop :=
  t.mem.nat .spad (slot + 40) 8 = x.progWord % 2 ^ 64 ∧
    t.mem.nat .spad (slot + 56) 4 = code + 16 * (x.cause % 256) + 4096 * x.flags.toNat ∧ t.mem.bmem = s.mem.bmem ∧
    ∀ a, a < slot + 40 ∨ slot + 48 ≤ a ∧ a < slot + 56 ∨ slot + 60 ≤ a → t.mem.byte .spad a = s.mem.byte .spad a

theorem chainStat_lt {code cause : Nat} {flags : Flags} (h : code < 16) : chainStat code cause flags < 256 ^ 4 := by
  have hf : flags.toNat < 64 := flags.isLt
  have hc : cause % 256 < 256 := Nat.mod_lt _ (by decide)
  unfold chainStat
  omega

theorem State.writeStat_statIn (s : State) (k q : Nat) (e : QEntry) {code : Nat} (hcode : code < 16) :
    StatIn s (s.writeStat k q e code) (s.chainSlot k q e.ticket) e code := by
  have hmem : (s.writeStat k q e code).mem = (s.mem.storeNat .spad (s.chainSlot k q e.ticket + 40) 8 e.progWord).storeNat
      .spad (s.chainSlot k q e.ticket + 56) 4 (chainStat code e.cause e.flags) := rfl
  have hout (m : Mem) (a n v b : Nat) (h : b < a ∨ a + n ≤ b) : (m.storeNat .spad a n v).byte .spad b = m.byte .spad b :=
    Mem.byte_store_outside _ _ _ _ _ _ (.inr (by rwa [leBytes_length]))
  refine ⟨?_, ?_, rfl, fun a ha => ?_⟩
  · rw [hmem, Mem.nat_storeNat_outside _ _ _ _ _ _ _ _ (.inr (.inl (by omega))), Mem.nat_storeNat]
    simp only [Nat.reducePow]
  · rw [hmem, Mem.nat_storeNat, Nat.mod_eq_of_lt (chainStat_lt hcode)]
    rfl
  · rw [hmem, hout _ _ _ _ _ (by omega), hout _ _ _ _ _ (by omega)]

theorem State.nat_writeStat_outside (s : State) (k q : Nat) (e : QEntry) (code : Nat) {sp : Sp} {c n : Nat}
    (h : sp ≠ .spad ∨ c + n ≤ s.chainSlot k q e.ticket + 40 ∨ s.chainSlot k q e.ticket + 60 ≤ c) :
    (s.writeStat k q e code).mem.nat sp c n = s.mem.nat sp c n := by
  show Mem.nat (Mem.storeNat _ _ _ _ _) _ _ _ = _
  rw [Mem.nat_storeNat_outside _ _ _ _ _ _ _ _ (h.imp_right fun h => h.imp (by omega) (by omega)),
    Mem.nat_storeNat_outside _ _ _ _ _ _ _ _ (h.imp_right fun h => h.imp (by omega) (by omega))]

/-- The slot reads so in every state of the same scratchpad and block memory. -/
theorem StatIn.congr {s t u : State} {slot code : Nat} {x : QEntry} (h : StatIn s t slot x code)
    (hspad : u.mem.spad = t.mem.spad) (hbmem : u.mem.bmem = t.mem.bmem) : StatIn s u slot x code := by
  obtain ⟨hprog, hstat, hb, hbytes⟩ := h
  have hnat (a n : Nat) : u.mem.nat .spad a n = t.mem.nat .spad a n := congrArg (memNat · a n) hspad
  have hbyte (a : Nat) : u.mem.byte .spad a = t.mem.byte .spad a := congrArg (memGet · a) hspad
  exact ⟨(hnat _ _).trans hprog, (hnat _ _).trans hstat, hbmem.trans hb, fun a ha => (hbyte a).trans (hbytes a ha)⟩

/-! ## The head of a copy queue -/

theorem copyQueue_iff (q : Nat) : copyQueue q = true ↔ q < 4 ∨ q = 7 := by simp [copyQueue]

theorem ok_of_ite_error {ε α : Type} {c : Prop} [Decidable c] {x : ε} {y : Except ε α} {a : α}
    (h : (if c then .error x else y) = .ok a) : y = .ok a := by
  split at h
  · cases h
  · exact h

/-- The checks of a start keep all of an entry but what they read of its chain entry and descriptor (R219). -/
theorem State.copyChecks_ticket {s : State} {k q : Nat} {e x : QEntry} (h : s.copyChecks k q e = .ok x) :
    x.ticket = e.ticket := by
  unfold State.copyChecks at h
  extract_lets slot here c opc e₁ opens at h
  have hopens {y : QEntry} (hy : opens y = .ok x) : x.ticket = y.ticket := by
    have hy : Except.ok y = Except.ok x := ok_of_ite_error (ok_of_ite_error hy)
    cases hy
    rfl
  have h := ok_of_ite_error (ok_of_ite_error h)
  split at h
  · exact (hopens h).trans rfl
  · split at h
    · cases h
    · have h := ok_of_ite_error (ok_of_ite_error h)
      split at h
      · cases h
      · exact (hopens (ok_of_ite_error h)).trans rfl

theorem State.copyBegin_of_ok {s : State} {k q : Nat} {e x : QEntry} (hx : s.copyChecks k q e = .ok x) :
    s.copyBegin k q e =
      (s.writeStat k q { x with state := .running } 1).updEntry k q e.ticket fun _ => { x with state := .running } := by
  unfold State.copyBegin
  rw [hx, ← State.copyChecks_ticket hx]

theorem State.copyBegin_of_error {s : State} {k q c a : Nat} {e : QEntry} (hx : s.copyChecks k q e = .error (c, a)) :
    ∃ x : QEntry, x.ticket = e.ticket ∧ s.copyBegin k q e = (s.writeStat k q x 3).faultEntry k q x 0x01 c a 0 0 := by
  refine ⟨{ e with
    cause := c, fq := BitVec.ofNat 8 (byteAt (s.mem.bytes .spad (s.chainSlot k q e.ticket) 64) 3) }, rfl, ?_⟩
  unfold State.copyBegin
  rw [hx]

/-! ## What a fault record and a retirement leave alone (R233, R234) -/

/-- A fault record goes to HBM alone (R234). -/
theorem State.space_post (s : State) (job launch : Nat) (r : Record) {sp : Sp} (h : sp ≠ .hbm) :
    (s.post job launch r).mem.space sp = s.mem.space sp := by
  unfold State.post
  split
  · rfl
  · next q _ =>
    dsimp only
    generalize (if s.mem.nat Sp.hbm (q + 8) 4 = 0 then 0 else
      (s.mem.nat Sp.hbm q 4 + 1) % s.mem.nat Sp.hbm (q + 8) 4 : Nat) = next
    split
    · exact (Mem.space_store _ _ _ _ _).trans (if_neg h)
    · exact (Mem.space_store _ _ _ _ _).trans ((if_neg h).trans ((Mem.space_store _ _ _ _ _).trans (if_neg h)))

theorem State.qsets_entryRecord (s : State) (k q : Nat) (e : QEntry) (kind addr prog : Nat) :
    (s.entryRecord k q e kind addr prog).qsets = s.qsets := by
  unfold State.entryRecord
  rw [State.post_frame]

theorem State.crews_entryRecord (s : State) (k q : Nat) (e : QEntry) (kind addr prog : Nat) :
    (s.entryRecord k q e kind addr prog).crews = s.crews := by
  unfold State.entryRecord
  rw [State.post_frame]

theorem State.qsets_nodeFaulted (s : State) (k : Nat) (e : QEntry) : (s.nodeFaulted k e).qsets = s.qsets := by
  unfold State.nodeFaulted
  split
  · rfl
  · exact State.updNode_qsets _ _ _ _

theorem State.asyncFault_frame (s : State) (q : Nat) (e : QEntry) :
    s.asyncFault q e = { s with crews := (s.asyncFault q e).crews } := by
  unfold State.asyncFault
  dsimp only
  split <;> rfl

/-- A queue reads alike in states of the same queues. -/
theorem State.queue_congr {s t : State} (h : t.qsets = s.qsets) (k q : Nat) : t.queue k q = s.queue k q :=
  congrArg (fun l => (mapGet QSet.empty l k).queue q) h

theorem State.entry_congr {s t : State} (h : t.qsets = s.qsets) (k q : Nat) (w : Word) :
    t.entry k q w = s.entry k q w :=
  congrArg (fun u : Queue => u.ents.find? fun e : QEntry => e.ticket == w) (State.queue_congr h k q)

@[simp] theorem State.writeStat_qsets (s : State) (k q : Nat) (e : QEntry) (code : Nat) :
    (s.writeStat k q e code).qsets = s.qsets := rfl

/-- An entry after it has stopped faulted: S stays (R14). -/
theorem State.faultEntry_spec {s : State} {k q : Nat} {e x : QEntry} (hentry : s.entry k q e.ticket = some e)
    (hx : x.ticket = e.ticket) (kind cause addr prog rdet : Nat) :
    ((s.faultEntry k q x kind cause addr prog rdet).queue k q).seq = (s.queue k q).seq ∧
      ∃ y, (s.faultEntry k q x kind cause addr prog rdet).entry k q e.ticket = some y ∧ y.state = .faulted ∧
        y.cause = cause ∧ y.faultAddr = .ofNat 64 addr := by
  let y : QEntry := { x with
    state := .faulted, cause := cause, faultAddr := BitVec.ofNat 64 addr, rdet := rdet, pending := [], resp := [], again := [] }
  have hqueue : (s.faultEntry k q x kind cause addr prog rdet).queue k q =
      (s.updEntry k q e.ticket fun _ => y).queue k q := by
    rw [← hx]
    exact State.queue_congr ((State.qsets_nodeFaulted _ _ _).trans (State.qsets_entryRecord _ _ _ _ _ _ _)) k q
  refine ⟨?_, y, ?_, rfl, rfl, rfl⟩
  · rw [hqueue, State.queue_updEntry]
  · unfold State.entry
    rw [hqueue]
    exact State.entry_updEntry hentry fun _ _ => hx

theorem State.qsets_entryRelease (s : State) (e : QEntry) : (s.entryRelease e).qsets = s.qsets := by
  unfold State.entryRelease
  split <;> rfl

theorem State.entryRelease_of_none (s : State) {e : QEntry} (h : e.rel = none) : s.entryRelease e = s := by
  unfold State.entryRelease
  rw [h]

/-- A release adds one to the count of its object (R28). -/
theorem State.nat_release (s : State) (sp : Bool) (a : Nat) (clk : DWord) :
    (s.release sp a clk).mem.nat (spOf sp) (a + 4) 4 = (s.mem.nat (spOf sp) (a + 4) 4 + 1) % 2 ^ 32 := by
  show Mem.nat (Mem.storeNat _ _ _ _ _) _ _ _ = _
  rw [Mem.nat_storeNat]
  unfold State.objCount
  simp only [BitVec.toNat_add, BitVec.toNat_ofNat, Nat.reducePow, show (1 : Word).toNat = 1 from rfl]
  omega

theorem State.entryRelease_of_some (s : State) {e : QEntry} {sp : Bool} {a : Nat} (h : e.rel = some (sp, a)) :
    s.entryRelease e = s.release sp a e.clock := by
  unfold State.entryRelease
  rw [h]

theorem State.qsets_retireEntry (s : State) (k q : Nat) (e : QEntry) (kind addr prog : Nat) :
    (s.retireEntry k q e kind addr prog).qsets = (s.settleEntry k q e.ticket).qsets :=
  (congrArg State.qsets (State.asyncFault_frame _ _ _)).trans (State.qsets_entryRecord _ _ _ _ _ _ _)

theorem State.space_retireEntry (s : State) (k q : Nat) (e : QEntry) (kind addr prog : Nat) {sp : Sp} (h :
    sp ≠ .hbm) :
    (s.retireEntry k q e kind addr prog).mem.space sp = s.mem.space sp :=
  (congrArg (fun t : State => t.mem.space sp) (State.asyncFault_frame _ _ _)).trans (State.space_post _ _ _ _ h)

/-- The bit of the queue in the issuer's ASYNCF, where the issuer still lives; else no crew changes (R233). -/
theorem State.crews_asyncFault (s : State) (q : Nat) {e : QEntry} (hnode : e.node = none) :
    let c := s.crewAt e.slot
    (c.live → c.uid = e.uid → ((s.asyncFault q e).crewAt e.slot).asyncf = c.asyncf ||| (1#7 <<< q)) ∧
      (c.live = false ∨ c.uid ≠ e.uid → (s.asyncFault q e).crews = s.crews) := by
  intro c
  have hn : e.node.isNone = true := by rw [hnode]; rfl
  refine ⟨fun hlive huid => ?_, fun hgone => ?_⟩
  · have hc : (e.node.isNone && (s.crewAt e.slot).live && (s.crewAt e.slot).uid == e.uid) = true := by
      simp only [Bool.and_eq_true, beq_iff_eq]
      exact ⟨⟨hn, hlive⟩, huid⟩
    simp only [State.asyncFault, hc, if_true, State.crewAt_setCrewAt_same]
    rfl
  · have hc : ¬(e.node.isNone && (s.crewAt e.slot).live && (s.crewAt e.slot).uid == e.uid) = true := by
      simp only [Bool.and_eq_true, beq_iff_eq]
      rintro ⟨⟨-, hlive⟩, huid⟩
      exact hgone.elim (fun h => Bool.false_ne_true (h.symm.trans hlive)) fun h => h huid
    unfold State.asyncFault
    dsimp only
    rw [if_neg hc]

/-! ## The operations of a copy queue (R215, R219, R233) -/

section
variable {s : State} {part core q : Nat} {e : QEntry} (hq : q < 4 ∨ q = 7)
  (hhead : s.headEntry (qkey part core) q = some e)
include hq hhead

theorem execCopyEntryStart_queued (hruns : s.engineRuns (qkey part core)) (hstate : e.state = .queued)
    (hafter : s.afterDone (qkey part core) e) :
    exec (.copyEntryStart part core q) s = .next (s.copyBegin (qkey part core) q e) := by
  have hcq := (copyQueue_iff q).mpr hq
  show execCopyEntryStart part core q s = _
  simp only [execCopyEntryStart, hhead, hcq, hruns, hstate, hafter, Bool.not_true, Bool.or_self, Bool.false_eq_true,
    if_false, if_true]

theorem execCopyEntryStart_running (hruns : s.engineRuns (qkey part core)) (hstate : e.state = .running) :
    exec (.copyEntryStart part core q) s = .next (s.copyRun (qkey part core) q e) := by
  have hcq := (copyQueue_iff q).mpr hq
  show execCopyEntryStart part core q s = _
  simp only [execCopyEntryStart, hhead, hcq, hruns, hstate, Bool.not_true, Bool.or_self, Bool.false_eq_true, if_false]

theorem execCopyEntryComplete_head (hruns : s.engineRuns (qkey part core)) (hstate : e.state = .moved)
    (hdone : ∀ g ∈ (s.core core).granules, ¬(g.key = qkey part core ∧ g.q = q ∧ g.ticket = e.ticket)) :
    exec (.copyEntryComplete part core q) s =
      .next (((s.entryRelease e).writeStat (qkey part core) q e 2).settleEntry (qkey part core) q e.ticket) := by
  have hcq := (copyQueue_iff q).mpr hq
  have hall : (s.core core).granules.all
      (fun g => !(g.key == qkey part core && g.q == q && g.ticket == e.ticket)) = true := by
    refine List.all_eq_true.mpr fun g hg => ?_
    have hg := hdone g hg
    simp only [Bool.not_eq_true', Bool.and_eq_false_iff, beq_eq_false_iff_ne]
    tauto
  show execCopyEntryComplete part core q s = _
  simp only [execCopyEntryComplete, hhead, hcq, hruns, hstate, hall, Bool.not_true, Bool.or_self, Bool.false_eq_true,
    if_false, and_self, if_true]

theorem execCopyEntryResume_head (hstate : e.state = .faulted) (hcause : e.cause ∈ [1, 2, 9]) :
    let x := { e with state := .running, cause := 0, faultAddr := 0, rdet := 0 }
    exec (.copyEntryResume part core q) s =
      .next ((s.updEntry (qkey part core) q e.ticket fun _ => x).writeStat (qkey part core) q x 1) := by
  have hcq := (copyQueue_iff q).mpr hq
  have hc : [1, 2, 9].contains e.cause = true := List.contains_iff_mem.mpr hcause
  show execCopyEntryResume part core q s = _
  simp only [execCopyEntryResume, hhead, hcq, hstate, hc, and_self, if_true]

theorem execCopyEntryRetire_head (hstate : e.state = .faulted) (hnode : e.node = none) :
    exec (.copyEntryRetire part core q) s =
      .next ((s.writeStat (qkey part core) q e 4).retireEntry (qkey part core) q e 0x02 e.faultAddr.toNat e.progWord) := by
  have hcq := (copyQueue_iff q).mpr hq
  have hn : e.node.isNone = true := by rw [hnode]; rfl
  show execCopyEntryRetire part core q s = _
  simp only [execCopyEntryRetire, hhead, hcq, hstate, hn, and_self, if_true]

variable (hentry : s.entry (qkey part core) q e.ticket = some e)
include hentry

theorem copyEntryStart_of_ok (hruns : s.engineRuns (qkey part core)) (hstate : e.state = .queued)
    (hafter : s.afterDone (qkey part core) e) {x : QEntry} (hx : s.copyChecks (qkey part core) q e = .ok x) :
    Completes (.copyEntryStart part core q) s fun t =>
      t.entry (qkey part core) q e.ticket = some { x with state := .running } ∧
        StatIn s t (s.chainSlot (qkey part core) q e.ticket) x 1 ∧ t = { s with qsets := t.qsets, mem := t.mem } := by
  have ht := State.copyChecks_ticket hx
  have hu : (s.writeStat (qkey part core) q { x with state := .running } 1).entry (qkey part core) q e.ticket = some e :=
    (State.entry_congr (s.writeStat_qsets _ _ _ _) _ _ _).trans hentry
  refine ⟨(s.writeStat (qkey part core) q { x with state := .running } 1).updEntry (qkey part core) q e.ticket
    fun _ => { x with state := .running }, ?_, State.entry_updEntry hu fun _ _ => ht, ?_, rfl⟩
  · rw [execCopyEntryStart_queued hq hhead hruns hstate hafter, State.copyBegin_of_ok hx]
  · rw [← ht]
    exact s.writeStat_statIn (qkey part core) q { x with state := .running } (by decide)

theorem copyEntryStart_of_error (hruns : s.engineRuns (qkey part core)) (hstate : e.state = .queued)
    (hafter : s.afterDone (qkey part core) e) {c a : Nat} (hx : s.copyChecks (qkey part core) q e = .error (c, a)) :
    Completes (.copyEntryStart part core q) s fun t =>
      (t.queue (qkey part core) q).seq = (s.queue (qkey part core) q).seq ∧
        ∃ x, t.entry (qkey part core) q e.ticket = some x ∧ x.state = .faulted ∧ x.cause = c ∧
          x.faultAddr = .ofNat 64 a := by
  obtain ⟨x, ht, hbegin⟩ := State.copyBegin_of_error hx
  refine ⟨(s.writeStat (qkey part core) q x 3).faultEntry (qkey part core) q x 0x01 c a 0 0, ?_, ?_⟩
  · rw [execCopyEntryStart_queued hq hhead hruns hstate hafter, hbegin]
  · have hu : (s.writeStat (qkey part core) q x 3).entry (qkey part core) q e.ticket = some e :=
      (State.entry_congr (s.writeStat_qsets _ _ _ _) _ _ _).trans hentry
    have hspec := State.faultEntry_spec (x := x) hu ht 0x01 c a 0 0
    rwa [State.queue_congr (s.writeStat_qsets _ _ _ _)] at hspec

theorem copyEntryStart_of_end (hruns : s.engineRuns (qkey part core)) (hstate : e.state = .running)
    (hresp : e.resp = []) (hpending : e.pending = []) (hend : e.job'.units ≤ e.prog) :
    Completes (.copyEntryStart part core q) s fun t =>
      t.entry (qkey part core) q e.ticket = some { e with state := .moved } ∧ t = { s with qsets := t.qsets } := by
  refine ⟨s.updEntry (qkey part core) q e.ticket fun x => { x with state := .moved }, ?_,
    State.entry_updEntry hentry fun _ h => h, rfl⟩
  rw [execCopyEntryStart_running hq hhead hruns hstate]
  simp [State.copyRun, State.copyMove, hresp, hpending, hend]

theorem copyEntryResume_of_faulted (hstate : e.state = .faulted) (hcause : e.cause ∈ [1, 2, 9]) :
    let x := { e with state := .running, cause := 0, faultAddr := 0, rdet := 0 }
    Completes (.copyEntryResume part core q) s fun t =>
      t.entry (qkey part core) q e.ticket = some x ∧
        (t.queue (qkey part core) q).seq = (s.queue (qkey part core) q).seq ∧
        StatIn s t (s.chainSlot (qkey part core) q e.ticket) x 1 ∧ t = { s with qsets := t.qsets, mem := t.mem } := by
  intro x
  let u := s.updEntry (qkey part core) q e.ticket fun _ => x
  refine ⟨u.writeStat (qkey part core) q x 1, execCopyEntryResume_head hq hhead hstate hcause,
    State.entry_updEntry hentry fun _ _ => rfl, ?_, ?_, rfl⟩
  · rw [State.queue_congr (u.writeStat_qsets _ _ _ _), s.queue_updEntry]
  · exact u.writeStat_statIn (qkey part core) q x (by decide)

omit hentry
variable {rest : List QEntry} (hents : (s.queue (qkey part core) q).ents = e :: rest)
  (hrest : ∀ r ∈ rest, r.ticket ≠ e.ticket ∧ r.state ≠ .complete)
include hents hrest

theorem copyEntryComplete_of_moved (hruns : s.engineRuns (qkey part core)) (hstate : e.state = .moved)
    (hdone : ∀ g ∈ (s.core core).granules, ¬(g.key = qkey part core ∧ g.q = q ∧ g.ticket = e.ticket)) :
    let slot := s.chainSlot (qkey part core) q e.ticket
    Completes (.copyEntryComplete part core q) s fun t =>
      t.queue (qkey part core) q = { s.queue (qkey part core) q with seq := e.ticket, ents := rest } ∧
        (e.rel = none → StatIn s t slot e 2) ∧
        ∀ sp a, e.rel = some (sp, a) → (sp = false ∨ a + 8 ≤ slot ∨ slot + 64 ≤ a) →
          t.mem.nat (spOf sp) (a + 4) 4 = (s.mem.nat (spOf sp) (a + 4) 4 + 1) % 2 ^ 32 := by
  intro slot
  let u := (s.entryRelease e).writeStat (qkey part core) q e 2
  have hu : u.queue (qkey part core) q = s.queue (qkey part core) q :=
    State.queue_congr (s.qsets_entryRelease e) _ _
  refine ⟨u.settleEntry (qkey part core) q e.ticket, execCopyEntryComplete_head hq hhead hruns hstate hdone, ?_,
    fun hrel => ?_, fun sp a hrel hfar => ?_⟩
  · rw [State.queue_settleEntry (hu ▸ hents) hrest, hu]
  · have hstat := s.writeStat_statIn (qkey part core) q e (code := 2) (by decide)
    have hmem : u.mem = (s.writeStat (qkey part core) q e 2).mem :=
      congrArg (fun v => (State.writeStat v (qkey part core) q e 2).mem) (s.entryRelease_of_none hrel)
    exact hstat.congr (congrArg Mem.spad hmem) (congrArg Mem.bmem hmem)
  · have hslot : (s.release sp a e.clock).chainSlot (qkey part core) q e.ticket = slot := rfl
    have hmem : u.mem = ((s.release sp a e.clock).writeStat (qkey part core) q e 2).mem :=
      congrArg (fun v => (State.writeStat v (qkey part core) q e 2).mem) (s.entryRelease_of_some hrel)
    have hspace : spOf sp ≠ .spad ∨ a + 4 + 4 ≤ slot + 40 ∨ slot + 60 ≤ a + 4 := by
      rcases hfar with rfl | h | h
      · exact .inl (by decide)
      · exact .inr (.inl (by omega))
      · exact .inr (.inr (by omega))
    show u.mem.nat (spOf sp) (a + 4) 4 = _
    rw [hmem, State.nat_writeStat_outside _ _ _ _ _ (hslot ▸ hspace), s.nat_release]

theorem copyEntryRetire_of_faulted (hstate : e.state = .faulted) (hnode : e.node = none) :
    let c := s.crewAt e.slot
    Completes (.copyEntryRetire part core q) s fun t =>
      t.queue (qkey part core) q = { s.queue (qkey part core) q with seq := e.ticket, ents := rest } ∧
        StatIn s t (s.chainSlot (qkey part core) q e.ticket) e 4 ∧
        (c.live → c.uid = e.uid → (t.crewAt e.slot).asyncf = c.asyncf ||| (1#7 <<< q)) ∧
        (c.live = false ∨ c.uid ≠ e.uid → t.crews = s.crews) := by
  intro c
  let u := s.writeStat (qkey part core) q e 4
  let v := (u.settleEntry (qkey part core) q e.ticket).entryRecord (qkey part core) q e 0x02 e.faultAddr.toNat e.progWord
  have hu : u.queue (qkey part core) q = s.queue (qkey part core) q := State.queue_congr (s.writeStat_qsets _ _ _ _) _ _
  have hv : v.crews = s.crews := State.crews_entryRecord _ _ _ _ _ _ _
  have hvc : v.crewAt e.slot = c := congrArg (mapGet Crew.empty · e.slot) hv
  refine ⟨u.retireEntry (qkey part core) q e 0x02 e.faultAddr.toNat e.progWord,
    execCopyEntryRetire_head hq hhead hstate hnode, ?_, ?_, ?_⟩
  · rw [State.queue_congr (State.qsets_retireEntry _ _ _ _ _ _ _), State.queue_settleEntry (hu ▸ hents) hrest, hu]
  · have hstat := s.writeStat_statIn (qkey part core) q e (code := 4) (by decide)
    exact hstat.congr (State.space_retireEntry u _ _ _ _ _ _ (sp := .spad) (by decide))
      (State.space_retireEntry u _ _ _ _ _ _ (sp := .bmem) (by decide))
  · have hcrews := v.crews_asyncFault q hnode
    rwa [hvc, hv] at hcrews

end

/-- Settles O35: the head of a copy queue at each of its stages, by the lemma for that stage. -/
theorem copyEntries : Obligations.CopyEntries := by
  intro s part core q e k hq hhead hentry slot stat alone passed
  refine ⟨fun hruns hstate hafter => ⟨fun x hx => ?_, fun c a hx => ?_⟩, fun hruns hstate hresp hpending hend => ?_,
    fun hruns hstate hdone rest hrest => ?_, fun hstate hcause => ?_, fun hstate hnode rest hrest => ?_⟩
  · exact copyEntryStart_of_ok hq hhead hentry hruns hstate hafter hx
  · exact copyEntryStart_of_error hq hhead hentry hruns hstate hafter hx
  · exact copyEntryStart_of_end hq hhead hentry hruns hstate hresp hpending hend
  · obtain ⟨t, ht, hqueue, hstat⟩ := copyEntryComplete_of_moved hq hhead hrest.1 hrest.2 hruns hstate hdone
    exact ⟨t, ht, ⟨congrArg Queue.ents hqueue, congrArg Queue.seq hqueue, (congrArg Queue.issue hqueue).trans rfl⟩, hstat⟩
  · exact copyEntryResume_of_faulted hq hhead hentry hstate hcause
  · obtain ⟨t, ht, hqueue, hstat, hcrews⟩ := copyEntryRetire_of_faulted hq hhead hrest.1 hrest.2 hstate hnode
    exact ⟨t, ht, ⟨congrArg Queue.ents hqueue, congrArg Queue.seq hqueue, (congrArg Queue.issue hqueue).trans rfl⟩, hstat, hcrews⟩

end Sys2Proof.Machine
end

section
/-! The catch of a partition's part of a core (O48). What the engines' part of it leaves alone is said of crews and board
together; what the end of a crew does to others is one relation on crews. -/

namespace Sys2Proof.Machine

/-! ## What the engines' part of a catch leaves alone -/

/-- The dies, the fabric, and of each core its prefetched tasks and its sprint. -/
abbrev Board := List (Nat × Die) × Fabric × (Nat → List Task × Option Word)

/-- What the catch is about beside the crews. -/
def State.board (s : State) : Board :=
  (s.dies, s.fabric, fun c => ((s.core c).prefetch, (s.core c).sprint))

/-- The crews and the board: what memory, queue, graph and save-area operations leave alone. -/
def State.crewBoard (s : State) : List (Nat × Crew) × Board :=
  (s.crews, s.board)

theorem State.crews_of_crewBoard {s t : State} (h : t.crewBoard = s.crewBoard) :
    t.crews = s.crews := congrArg Prod.fst h

theorem State.board_of_crewBoard {s t : State} (h : t.crewBoard = s.crewBoard) :
    t.board = s.board := congrArg Prod.snd h

section
variable {s t : State} (h : t.board = s.board)
include h

/-- States of the same board have the same dies, fibre groups and prefetched tasks, and the same cores in a sprint. -/
theorem State.die_congr (d : Nat) : t.die d = s.die d :=
  congrArg (fun b : Board => mapGet Die.empty b.1 d) h

theorem State.fibreGroup_of_board (g : Nat) : t.fibreGroup g = s.fibreGroup g :=
  congrArg (fun b : Board => mapGet Group.reset b.2.1.groups g) h

theorem State.prefetch_of_board (c : Nat) : (t.core c).prefetch = (s.core c).prefetch :=
  congrArg (fun b : Board => (b.2.2 c).1) h

theorem State.sprint_of_board (c : Nat) : (t.core c).sprint = (s.core c).sprint :=
  congrArg (fun b : Board => (b.2.2 c).2) h

end

theorem foldl_crewBoard {α : Type} {f : State → α → State} (hf : ∀ t x, (f t x).crewBoard = t.crewBoard) (l :
    List α) (s : State) :
    (l.foldl f s).crewBoard = s.crewBoard :=
  foldl_keeps (fun t => t.crewBoard = s.crewBoard) f l s (fun t x _ h => (hf t x).trans h) rfl

theorem foldl_board {α : Type} {f : State → α → State} (hf : ∀ t x, (f t x).board = t.board) (l : List α) (s :
    State) :
    (l.foldl f s).board = s.board :=
  foldl_keeps (fun t => t.board = s.board) f l s (fun t x _ h => (hf t x).trans h) rfl

theorem State.board_updCore (s : State) (n : Nat) {f : Core → Core}
    (hf : ∀ c, (f c).prefetch = c.prefetch ∧ (f c).sprint = c.sprint) : (s.updCore n f).board = s.board := by
  have hcore (c : Nat) : (((s.updCore n f).core c).prefetch, ((s.updCore n f).core c).sprint) =
      ((s.core c).prefetch, (s.core c).sprint) := by
    by_cases hc : c = n
    · subst hc
      rw [State.core_updCore_same, (hf _).1, (hf _).2]
    · rw [State.core_updCore_ne s f hc]
  exact congrArg (fun g => (s.dies, s.fabric, g)) (funext hcore)

theorem State.crewBoard_updCore (s : State) (n : Nat) {f : Core → Core}
    (hf : ∀ c, (f c).prefetch = c.prefetch ∧ (f c).sprint = c.sprint) : (s.updCore n f).crewBoard = s.crewBoard :=
  congrArg (Prod.mk s.crews) (s.board_updCore n hf)

theorem State.crewBoard_post (s : State) (job launch : Nat) (r : Record) :
    (s.post job launch r).crewBoard = s.crewBoard := by
  rw [s.post_frame]
  rfl

theorem State.crewBoard_putCk (s : State) (part at' : Nat) (b : Bool) :
    (s.putCk part at' b).crewBoard = s.crewBoard := rfl

theorem State.crewBoard_copyUnit (part : Nat) (s : State) (u : Nat × Nat) :
    (s.copyUnit part u).crewBoard = s.crewBoard := by
  unfold State.copyUnit
  split
  · rfl
  · exact foldl_crewBoard (fun t _ => t.crewBoard_putCk _ _ _) _ s

theorem State.crewBoard_beforeWrite (s : State) (part off : Nat) : (s.beforeWrite part off).crewBoard = s.crewBoard :=
  foldl_crewBoard (fun t u => t.crewBoard_copyUnit part u) _ s

theorem State.crewBoard_spotPut (s : State) (x : Spot) (bs : List Byte) :
    (s.spotPut x bs).crewBoard = s.crewBoard := by
  cases x with
  | mem sp a => rfl
  | hbm p o => exact s.crewBoard_beforeWrite p o

theorem State.crewBoard_spotRun (s : State) (x : Spot) (n : Nat) (bs : List (Byte × Bool)) :
    (s.spotRun x n bs).crewBoard = s.crewBoard := by
  induction n generalizing s x bs with
  | zero => rfl
  | succ n ih =>
    unfold State.spotRun
    split
    · rfl
    · dsimp only
      rw [ih]
      split
      · exact s.crewBoard_spotPut x _
      · exact s.crewBoard_spotPut x _

theorem State.crewBoard_areaPut (s : State) (die r n : Nat) (bs : List (Byte × Bool)) :
    (s.areaPut die r n bs).crewBoard = s.crewBoard := by
  induction n generalizing s r bs with
  | zero => rfl
  | succ n ih =>
    unfold State.areaPut
    split
    · rfl
    · exact (ih _ _ _).trans (s.crewBoard_spotRun _ _ _)

theorem State.crewBoard_giveArea (s : State) (key : Nat) : (s.giveArea key).2.crewBoard = s.crewBoard := by
  unfold State.giveArea
  split <;> rfl

theorem State.crewBoard_putFaulted (s : State) (part : Nat) (e : QEntry) (status : Word) :
    (s.putFaulted part e status).crewBoard = s.crewBoard :=
  (State.crewBoard_areaPut _ _ _ _ _).trans ((State.crewBoard_areaPut _ _ _ _ _).trans (s.crewBoard_giveArea _))

theorem State.crewBoard_nodeFaulted (s : State) (k : Nat) (e : QEntry) :
    (s.nodeFaulted k e).crewBoard = s.crewBoard := by
  unfold State.nodeFaulted
  split <;> rfl

theorem State.crewBoard_faultEntry (s : State) (k q : Nat) (e : QEntry) (kind cause addr prog rdet : Nat) :
    (s.faultEntry k q e kind cause addr prog rdet).crewBoard = s.crewBoard :=
  (State.crewBoard_nodeFaulted _ _ _).trans (State.crewBoard_post _ _ _ _)

theorem State.crewBoard_tileFault (s : State) (k q : Nat) (e : QEntry) (cause addr rdet : Nat) :
    (s.tileFault k q e cause addr rdet).crewBoard = s.crewBoard := by
  refine (State.crewBoard_faultEntry _ _ _ _ _ _ _ _ _).trans ?_
  split
  · rfl
  · rw [State.crewBoard_updCore, s.crewBoard_putFaulted]
    exact fun _ => ⟨rfl, rfl⟩

theorem State.crewBoard_stopTile (s : State) (core : Nat) : (s.stopTile core).crewBoard = s.crewBoard := by
  unfold State.stopTile
  split
  · rfl
  · dsimp only
    split
    · split
      · refine (State.crewBoard_tileFault _ _ _ _ _ _ _).trans ?_
        exact s.choose.2.crewBoard_updCore _ fun _ => ⟨rfl, rfl⟩
      · rfl
    · rfl

theorem State.crewBoard_completeStep (s : State) (core k q : Nat) (e : QEntry) (st : Stepping) :
    (s.completeStep core k q e st).crewBoard = s.crewBoard := by
  have hcells : ((s.writeCells core st.cells).updCore core fun c =>
      { c with stepCount := c.stepCount + 1, stepping := none }).crewBoard = s.crewBoard :=
    State.crewBoard_updCore _ _ fun _ => ⟨rfl, rfl⟩
  unfold State.completeStep
  dsimp only
  split
  · exact (State.crewBoard_faultEntry _ _ _ _ _ _ _ _ _).trans hcells
  · exact hcells

theorem State.crewBoard_trainStep (s : State) (core : Nat) : (s.trainStep core).crewBoard = s.crewBoard := by
  unfold State.trainStep
  split
  · rfl
  · split
    · rfl
    · split
      · exact s.crewBoard_completeStep _ _ _ _ _
      · split
        · exact s.crewBoard_faultEntry _ _ _ _ _ _ _ _
        · rfl

theorem State.crewBoard_clauseWrite (s : State) (core : Nat) (g : ClauseGranule) :
    (s.clauseWrite core g).crewBoard = s.crewBoard := by
  unfold State.clauseWrite
  dsimp only
  split
  · rfl
  · split
    · rfl
    · split <;> rfl

theorem State.crewBoard_pickGranule (s : State) (l : List ClauseGranule) :
    (s.pickGranule l).2.crewBoard = s.crewBoard := by
  induction l generalizing s with
  | nil => rfl
  | cons g l ih =>
    cases l with
    | nil => rfl
    | cons g' l =>
      unfold State.pickGranule
      dsimp only
      split
      · rfl
      · exact ih _

theorem State.crewBoard_settleGranules (s : State) (k core n : Nat) :
    (s.settleGranules k core n).crewBoard = s.crewBoard := by
  induction n generalizing s with
  | zero => rfl
  | succ n ih =>
    have hpick := s.crewBoard_pickGranule ((s.granuleOffers core).filter fun g => g.key == k)
    unfold State.settleGranules
    split
    · next t ht => rwa [ht] at hpick
    · next g t ht =>
      rw [ht] at hpick
      rw [ih, State.crewBoard_clauseWrite, State.crewBoard_updCore]
      · exact hpick
      · exact fun _ => ⟨rfl, rfl⟩

theorem State.crewBoard_settleArray (s : State) (part core : Nat) :
    (s.settleArray part core).crewBoard = s.crewBoard := by
  refine (State.crewBoard_settleGranules _ _ _ _).trans ?_
  split
  · unfold State.endStep
    split
    · exact s.crewBoard_trainStep core
    · rfl
  · rfl

/-! ## A crew caught (R377) -/

theorem State.board_abandon (s : State) (slot k : Nat) : (s.abandon slot k).board = s.board := by
  rw [s.abandon_frame]
  rfl

theorem State.board_abandonAll (s : State) (slot : Nat) : (s.abandonAll slot).board = s.board :=
  foldl_board (f := fun (t : State) (p : Nat × Split) => t.abandon slot p.1) (fun t p => t.board_abandon slot p.1) _ s

theorem State.board_drainIf (s : State) (slot : Nat) (p : WinEntry → Bool) : (s.drainIf slot p).board = s.board := by
  rw [s.drainIf_frame]
  rfl

theorem State.board_catchCrew (s : State) (slot : Nat) : (s.catchCrew slot).board = s.board :=
  (State.board_drainIf _ _ _).trans (s.board_abandonAll slot)

/-- The crew that a catch leaves: it stands at its words with its queue, registers and requests (R377). -/
def Crew.Stands (c d : Crew) : Prop :=
  d.live = c.live ∧ d.status = c.status ∧ d.laneQ = c.laneQ ∧ d.shared = c.shared ∧ d.reqs = c.reqs ∧
    ∀ j, (d.split j).spc = (c.split j).spc

theorem Crew.Stands.refl (c : Crew) : c.Stands c := ⟨rfl, rfl, rfl, rfl, rfl, fun _ => rfl⟩

theorem Crew.Stands.trans {c d e : Crew} (h : c.Stands d) (h' : d.Stands e) : c.Stands e := by
  obtain ⟨hlive, hstatus, hlane, hshared, hreqs, hspc⟩ := h
  obtain ⟨hlive', hstatus', hlane', hshared', hreqs', hspc'⟩ := h'
  exact ⟨hlive'.trans hlive, hstatus'.trans hstatus, hlane'.trans hlane, hshared'.trans hshared, hreqs'.trans hreqs,
    fun j => (hspc' j).trans (hspc j)⟩

theorem State.crewAt_setXw (s : State) (spad : Bool) (a : Nat) (v : Bool) (n : Nat) :
    (s.setXw spad a v).crewAt n = s.crewAt n := by
  rw [s.setXw_frame]
  rfl

theorem State.crewAt_setCrewAt (s : State) (slot n : Nat) (c : Crew) :
    (s.setCrewAt slot c).crewAt n = if n = slot then c else s.crewAt n := mapGet_mapSet Crew.empty s.crews slot n c

theorem State.crewAt_abandon (s : State) (slot k n : Nat) :
    (s.abandon slot k).crewAt n =
      if n = slot then (s.crewAt slot).updSplit k fun p => { p with wait := .none } else s.crewAt n := by
  rw [← s.crewAt_setCrewAt slot n]
  unfold State.abandon
  dsimp only
  split
  · exact State.crewAt_setXw _ _ _ _ _
  · rfl

theorem State.stands_abandon (s : State) (slot k n : Nat) : (s.crewAt n).Stands ((s.abandon slot k).crewAt n) := by
  rw [s.crewAt_abandon]
  split
  · next hn =>
    subst hn
    refine ⟨rfl, rfl, rfl, rfl, rfl, fun j => ?_⟩
    by_cases hj : j = k
    · subst hj
      rw [Crew.split_updSplit_same]
    · rw [Crew.split_updSplit_ne _ _ hj]
  · exact .refl _

theorem State.stands_abandonAll (s : State) (slot n : Nat) : (s.crewAt n).Stands ((s.abandonAll slot).crewAt n) := by
  have hfold : (s.crewAt n).Stands (((s.crewAt slot).splits.foldl (fun t p => t.abandon slot p.1) s).crewAt n) :=
    foldl_keeps (fun t : State => (s.crewAt n).Stands (t.crewAt n)) _ _ s
      (fun t p _ h => h.trans (t.stands_abandon slot p.1 n)) (.refl _)
  unfold State.abandonAll
  dsimp only
  rw [State.crewAt_setCrewAt]
  split
  · next hn => exact hn ▸ hfold
  · exact hfold

theorem State.crewAt_abandonAll_ne (s : State) {slot n : Nat} (h : n ≠ slot) :
    (s.abandonAll slot).crewAt n = s.crewAt n := by
  have hfold : ((s.crewAt slot).splits.foldl (fun t p => t.abandon slot p.1) s).crewAt n = s.crewAt n :=
    foldl_keeps (fun t : State => t.crewAt n = s.crewAt n) _ _ s
      (fun t p _ ht => by rw [t.crewAt_abandon, if_neg h, ht]) rfl
  unfold State.abandonAll
  dsimp only
  rw [State.crewAt_setCrewAt, if_neg h, hfold]

theorem Crew.arriveAll_eq (c : Crew) :
    c.arriveAll = { c with
      lanes := c.arriveAll.lanes, fsum := c.arriveAll.fsum, inflight := [], clock := c.arriveAll.clock } := by
  have hfold : ∃ l f, (c.inflight.foldl (fun c x => x.arrivals.foldl (fun c a => c.arrive x.reg a) c) c) =
      { c with lanes := l, fsum := f } := by
    refine foldl_keeps (fun d : Crew => ∃ l f, d = { c with lanes := l, fsum := f }) _ _ c (fun d x _ hd => ?_) ⟨_, _, rfl⟩
    refine foldl_keeps (fun d : Crew => ∃ l f, d = { c with lanes := l, fsum := f }) _ _ d (fun d a _ hd => ?_) hd
    obtain ⟨l, f, rfl⟩ := hd
    exact ⟨_, _, rfl⟩
  obtain ⟨l, f, hlf⟩ := hfold
  unfold Crew.arriveAll
  rw [hlf]

/-- A caught crew, with nothing in flight and its window empty. -/
def Crew.AtRest (c : Crew) : Prop := c.caught = true ∧ c.inflight = [] ∧ c.window = []

theorem State.crewAt_catchCrew (s : State) (slot n : Nat) :
    (s.catchCrew slot).crewAt n =
      if n = slot then { ((s.abandonAll slot).crewAt slot).arriveAll with window := [], caught := true }
      else s.crewAt n := by
  have hdrain (t : State) (m : Nat) :
      (t.drainAt slot).crewAt m = if m = slot then { t.crewAt slot with window := [] } else t.crewAt m := by
    simpa [State.drainAt] using t.crewAt_drainIf slot m fun _ => true
  unfold State.catchCrew
  dsimp only
  rw [State.crewAt_setCrewAt]
  split
  · rw [hdrain, if_pos rfl, State.crewAt_setCrewAt, if_pos rfl]
  · next hn => rw [hdrain, if_neg hn, State.crewAt_setCrewAt, if_neg hn, s.crewAt_abandonAll_ne hn]

theorem State.stands_catchCrew (s : State) (slot n : Nat) : (s.crewAt n).Stands ((s.catchCrew slot).crewAt n) := by
  rw [s.crewAt_catchCrew]
  split
  · next hn =>
    subst hn
    refine (s.stands_abandonAll n n).trans ?_
    rw [Crew.arriveAll_eq]
    exact .refl _
  · exact .refl _

theorem State.atRest_catchCrew (s : State) (slot : Nat) : ((s.catchCrew slot).crewAt slot).AtRest := by
  rw [s.crewAt_catchCrew, if_pos rfl, Crew.arriveAll_eq]
  exact ⟨rfl, rfl, rfl⟩

theorem State.atRest_catchCrew_of (s : State) (slot : Nat) {n : Nat} (h : (s.crewAt n).AtRest) :
    ((s.catchCrew slot).crewAt n).AtRest := by
  by_cases hn : n = slot
  · subst hn
    exact s.atRest_catchCrew n
  · rwa [s.crewAt_catchCrew, if_neg hn]

/-- The crews of a list caught. -/
def State.catchCrews (s : State) (l : List (Nat × Crew)) : State := l.foldl (fun s x => s.catchCrew x.1) s

theorem State.board_catchCrews (s : State) (l : List (Nat × Crew)) : (s.catchCrews l).board = s.board :=
  foldl_board (f := fun (t : State) (x : Nat × Crew) => t.catchCrew x.1) (fun t x => t.board_catchCrew x.1) l s

theorem State.stands_catchCrews (s : State) (l : List (Nat × Crew)) (n : Nat) :
    (s.crewAt n).Stands ((s.catchCrews l).crewAt n) :=
  foldl_keeps (fun t : State => (s.crewAt n).Stands (t.crewAt n)) _ l s
    (fun t x _ h => h.trans (t.stands_catchCrew x.1 n)) (.refl _)

theorem State.atRest_catchCrews_of {s : State} (l : List (Nat × Crew)) {n : Nat} (h : (s.crewAt n).AtRest) :
    ((s.catchCrews l).crewAt n).AtRest :=
  foldl_keeps (fun t : State => (t.crewAt n).AtRest) _ l s (fun t x _ ht => t.atRest_catchCrew_of x.1 ht) h

theorem State.atRest_catchCrews {s : State} {l : List (Nat × Crew)} {n : Nat} (h : n ∈ l.map Prod.fst) :
    ((s.catchCrews l).crewAt n).AtRest := by
  induction l generalizing s with
  | nil => cases h
  | cons x l ih =>
    rcases List.mem_cons.mp h with rfl | h
    · exact State.atRest_catchCrews_of l (s.atRest_catchCrew x.1)
    · exact ih h

theorem State.crewAt_catchCrews_of_notMem {s : State} {l : List (Nat × Crew)} {n : Nat} (h : n ∉ l.map Prod.fst) :
    (s.catchCrews l).crewAt n = s.crewAt n := by
  refine foldl_keeps (fun t : State => t.crewAt n = s.crewAt n) _ l s (fun t x hx ht => ?_) rfl
  have hn : n ≠ x.1 := fun hn => h (hn ▸ List.mem_map_of_mem hx)
  rw [t.crewAt_catchCrew, if_neg hn, ht]

/-! ## The end of a crew (R204, R380) -/

theorem State.board_flushAt (s : State) (slot : Nat) : (s.flushAt slot).board = s.board := by
  rw [s.flushAt_frame]
  rfl

theorem State.board_updLaunch (s : State) (id : Nat) (f : Launch → Launch) : (s.updLaunch id f).board = s.board := by
  unfold State.updLaunch
  split <;> rfl

theorem State.crewAt_updLaunch (s : State) (id : Nat) (f : Launch → Launch) (n : Nat) :
    (s.updLaunch id f).crewAt n = s.crewAt n := by
  unfold State.updLaunch
  split <;> rfl

/-- What the operations buffered for a crew do to it when they are performed: nothing where there are none (R36). -/
def Crew.Flushed (c d : Crew) : Prop :=
  d = c ∨ ¬(c.buffered = [] ∧ c.firstReads = []) ∧
    ∃ lanes fsum, d = { c with lanes := lanes, fsum := fsum, buffered := [], firstReads := [] }

theorem Crew.Flushed.trans {c d e : Crew} (h : c.Flushed d) (h' : d.Flushed e) : c.Flushed e := by
  rcases h with rfl | ⟨hne, l, f, rfl⟩
  · exact h'
  · rcases h' with rfl | ⟨hne', -⟩
    · exact .inr ⟨hne, l, f, rfl⟩
    · exact absurd ⟨rfl, rfl⟩ hne'

theorem Crew.Flushed.eq_of_empty {c d : Crew} (h : c.Flushed d) (hb : c.buffered = []) (hr : c.firstReads = []) :
    d = c :=
  h.resolve_right fun h' => h'.1 ⟨hb, hr⟩

/-- One buffered operation performed: what it does to memory, and the flags that its lane and crew receive (R36). -/
def flushStep (x : Mem × Crew) (b : Buffered) : Mem × Crew :=
  ((b.apply x.1).1, { x.2 with
    lanes := listModify (fun l => { l with flags := l.flags ||| (b.apply x.1).2 }) x.2.lanes b.lane
    fsum := x.2.fsum ||| (b.apply x.1).2 })

theorem State.flushAt_eq (s : State) (slot : Nat) :
    s.flushAt slot =
      if (s.crewAt slot).buffered.isEmpty && (s.crewAt slot).firstReads.isEmpty then s
      else
        let x := (s.crewAt slot).updates.foldl flushStep (s.mem, s.crewAt slot)
        { s.setCrewAt slot { x.2 with buffered := [], firstReads := [] } with mem := x.1 } := rfl

theorem crew_foldl_flushStep (l : List Buffered) (x : Mem × Crew) :
    ∃ lanes fsum, (l.foldl flushStep x).2 = { x.2 with lanes := lanes, fsum := fsum } := by
  refine foldl_keeps (fun y : Mem × Crew => ∃ lanes fsum, y.2 = { x.2 with lanes := lanes, fsum := fsum }) _ l x
    (fun y b _ hy => ?_) ⟨_, _, rfl⟩
  obtain ⟨lanes, fsum, hy⟩ := hy
  exact ⟨_, _, by rw [flushStep, hy]⟩

theorem State.flushed_flushAt (s : State) (slot n : Nat) : (s.crewAt n).Flushed ((s.flushAt slot).crewAt n) := by
  rw [s.flushAt_eq]
  split
  · exact .inl rfl
  · next hne =>
    by_cases hn : n = slot
    · subst hn
      obtain ⟨lanes, fsum, hf⟩ := crew_foldl_flushStep (s.crewAt n).updates (s.mem, s.crewAt n)
      refine .inr ⟨by simpa using hne, lanes, fsum, (State.crewAt_setCrewAt_same _ _ _).trans ?_⟩
      rw [hf]
    · exact .inl (State.crewAt_setCrewAt_ne _ _ hn)

/-- Of the crews and the board nothing differs but that buffered operations of crews have been performed. -/
def State.Flushed (s t : State) : Prop := t.board = s.board ∧ ∀ n, (s.crewAt n).Flushed (t.crewAt n)

theorem State.Flushed.refl (s : State) : s.Flushed s := ⟨rfl, fun _ => .inl rfl⟩

theorem State.Flushed.trans {s t u : State} (h : s.Flushed t) (h' : t.Flushed u) : s.Flushed u :=
  ⟨h'.1.trans h.1, fun n => (h.2 n).trans (h'.2 n)⟩

theorem State.flushed_flushArrived (s : State) (launch : Nat) (uids : List Nat) :
    s.Flushed (s.flushArrived launch uids) :=
  foldl_keeps s.Flushed _ _ s (fun t x _ h => h.trans ⟨t.board_flushAt x.1, t.flushed_flushAt x.1⟩) (.refl s)

theorem State.flushed_updLaunch (s : State) (id : Nat) (f : Launch → Launch) : s.Flushed (s.updLaunch id f) :=
  ⟨s.board_updLaunch id f, fun n => .inl (s.crewAt_updLaunch id f n)⟩

theorem State.flushed_barrierCheck (s : State) (launch i : Nat) : s.Flushed (s.barrierCheck launch i) := by
  unfold State.barrierCheck
  split
  · exact .refl s
  · split
    · exact .refl s
    · next c _ =>
      have hchoose : s.Flushed (if c.spans then s.choose else (false, s)).2 := by
        split
        · exact ⟨rfl, fun _ => .inl rfl⟩
        · exact .refl s
      generalize (if c.spans then s.choose else (false, s)) = x at hchoose
      dsimp only
      split
      · exact hchoose.trans ((x.2.flushed_flushArrived _ _).trans (State.flushed_updLaunch _ _ _))
      · exact hchoose

theorem State.flushed_depart (s : State) (c : Crew) : s.Flushed (s.depart c) :=
  foldl_keeps s.Flushed _ _ s
    (fun t _ _ h => h.trans ((t.flushed_updLaunch _ _).trans (State.flushed_barrierCheck _ _ _))) (.refl s)

/-- A crew that has ended with a status (R204, R211). -/
def Crew.Ended (status : Word) (c : Crew) : Prop := c.live = false ∧ c.status = status

theorem Crew.Flushed.ended {c d : Crew} {status : Word} (h : c.Flushed d) (hc : c.Ended status) : d.Ended status := by
  rcases h with rfl | ⟨-, l, f, rfl⟩
  · exact hc
  · exact hc

theorem Crew.Stands.ended {c d : Crew} {status : Word} (h : c.Stands d) (hc : c.Ended status) : d.Ended status := by
  obtain ⟨hlive, hstatus, -⟩ := h
  exact ⟨hlive.trans hc.1, hstatus.trans hc.2⟩

/-- The end of a crew: it has ended with the status, other crews may have their buffered operations performed, and the board
stays. -/
theorem State.endCrew_spec (s : State) (slot : Nat) (status : Word) (post : Bool) :
    (s.endCrew slot status post).board = s.board ∧ ((s.endCrew slot status post).crewAt slot).Ended status ∧
      ∀ n, n ≠ slot → (s.crewAt n).Flushed ((s.endCrew slot status post).crewAt n) := by
  unfold State.endCrew
  extract_lets s1 q s2 s3 s4 c tr s5 r s6
  have h3 : s3.board = s.board := (State.board_drainIf _ _ _).trans (s.board_abandonAll slot)
  have hc3 (n : Nat) (hn : n ≠ slot) : s3.crewAt n = s.crewAt n := by
    show (s2.drainIf slot _).crewAt n = _
    rw [State.crewAt_drainIf, if_neg hn, State.crewAt_setCrewAt, if_neg hn, s.crewAt_abandonAll_ne hn]
  clear_value s3
  have h4 : s3.Flushed s4 := by
    simp only [s4]
    split
    · exact ⟨s3.board_flushAt slot, s3.flushed_flushAt slot⟩
    · exact .refl s3
  clear_value s4
  have h5 : s5.crewAt slot = { c with
      live := false, caught := false, status := status, reqs := [], trap := { tr with held := [], handler := false } } :=
    State.crewAt_setCrewAt_same _ _ _
  have hc5 (n : Nat) (hn : n ≠ slot) : s5.crewAt n = s4.crewAt n := State.crewAt_setCrewAt_ne _ _ hn
  have hb5 : s5.board = s4.board := rfl
  clear_value s5
  have h6 : s6.crewBoard = s5.crewBoard := by
    simp only [s6]
    split
    · exact s5.crewBoard_post _ _ _
    · rfl
  have hc6 (n : Nat) : s6.crewAt n = s5.crewAt n := congrArg (mapGet Crew.empty · n) (State.crews_of_crewBoard h6)
  have hb6 := State.board_of_crewBoard h6
  clear_value s6
  obtain ⟨hb7, hc7⟩ := s6.flushed_depart c
  refine ⟨?_, ?_, fun n hn => ?_⟩
  · exact hb7.trans (hb6.trans (hb5.trans (h4.1.trans h3)))
  · refine (hc7 slot).ended ?_
    rw [hc6, h5]
    exact ⟨rfl, rfl⟩
  · have hflush := (h4.2 n).trans (hc5 n hn ▸ hc6 n ▸ hc7 n)
    rwa [hc3 n hn] at hflush

theorem mem_of_mapGet_ne {α : Type} {d : α} {l : List (Nat × α)} {k : Nat} (h : mapGet d l k ≠ d) :
    (k, mapGet d l k) ∈ l := by
  induction l with
  | nil => exact absurd rfl h
  | cons x l ih =>
    unfold mapGet at h ⊢
    split
    · next hk => exact hk ▸ List.mem_cons_self
    · next hk =>
      rw [if_neg hk] at h
      exact List.mem_cons_of_mem _ (ih h)

/-- A crew ended by a reset: its lane work is dropped first (R380). -/
def State.resetCrew (s : State) (slot : Nat) (status : Word) : State :=
  (s.setCrewAt slot { s.crewAt slot with laneQ := [], inflight := [] }).endCrew slot status true

theorem State.resetCrew_spec (s : State) (slot : Nat) (status : Word) :
    (s.resetCrew slot status).board = s.board ∧ ((s.resetCrew slot status).crewAt slot).Ended status ∧
      ∀ n, n ≠ slot → (s.crewAt n).Flushed ((s.resetCrew slot status).crewAt n) := by
  obtain ⟨hboard, hended, hothers⟩ :=
    (s.setCrewAt slot { s.crewAt slot with laneQ := [], inflight := [] }).endCrew_spec slot status true
  refine ⟨hboard, hended, fun n hn => ?_⟩
  have hn' := hothers n hn
  rwa [State.crewAt_setCrewAt, if_neg hn] at hn'

theorem State.ended_resetCrew_of {s : State} (slot : Nat) {n : Nat} {status : Word} (h : (s.crewAt n).Ended status) :
    ((s.resetCrew slot status).crewAt n).Ended status := by
  obtain ⟨-, hended, hothers⟩ := s.resetCrew_spec slot status
  by_cases hn : n = slot
  · subst hn
    exact hended
  · exact (hothers n hn).ended h

/-- The crews of a list ended with one status. -/
def State.resetCrewsOf (s : State) (status : Word) (l : List (Nat × Crew)) : State :=
  l.foldl (fun s x => s.resetCrew x.1 status) s

theorem State.resetCrewsOf_cons (s : State) (status : Word) (x : Nat × Crew) (l : List (Nat × Crew)) :
    s.resetCrewsOf status (x :: l) = (s.resetCrew x.1 status).resetCrewsOf status l := by
  simp only [State.resetCrewsOf, List.foldl_cons]

theorem State.board_resetCrewsOf (s : State) (status : Word) (l : List (Nat × Crew)) :
    (s.resetCrewsOf status l).board = s.board :=
  foldl_board (f := fun (t : State) (x : Nat × Crew) => t.resetCrew x.1 status) (fun t x => (t.resetCrew_spec x.1 _).1) l s

theorem State.ended_resetCrewsOf_of {s : State} {status : Word} (l : List (Nat × Crew)) {n : Nat}
    (h : (s.crewAt n).Ended status) : ((s.resetCrewsOf status l).crewAt n).Ended status :=
  foldl_keeps (fun t : State => (t.crewAt n).Ended status) _ l s (fun _ x _ ht => State.ended_resetCrew_of x.1 ht) h

theorem State.ended_resetCrewsOf {s : State} (status : Word) {l : List (Nat × Crew)} {n : Nat} (h :
    n ∈ l.map Prod.fst) :
    ((s.resetCrewsOf status l).crewAt n).Ended status := by
  induction l generalizing s with
  | nil => cases h
  | cons x l ih =>
    rw [State.resetCrewsOf_cons]
    rcases List.mem_cons.mp h with rfl | h
    · exact State.ended_resetCrewsOf_of l (s.resetCrew_spec x.1 status).2.1
    · exact ih h

theorem State.flushed_resetCrewsOf_of_notMem {s : State} (status : Word) {l : List (Nat × Crew)} {n : Nat}
    (h : n ∉ l.map Prod.fst) : (s.crewAt n).Flushed ((s.resetCrewsOf status l).crewAt n) := by
  refine foldl_keeps (fun t : State => (s.crewAt n).Flushed (t.crewAt n)) _ l s (fun t x hx ht => ?_) (.inl rfl)
  have hn : n ≠ x.1 := fun hn => h (hn ▸ List.mem_map_of_mem hx)
  obtain ⟨-, -, hothers⟩ := t.resetCrew_spec x.1 status
  exact ht.trans (hothers n hn)

theorem State.resetCrews_eq (s : State) (part core : Nat) (code : BitVec 8) :
    s.resetCrews part core code = s.resetCrewsOf (resetStatus code core) (s.crewsOn part core) := rfl

section
variable {s : State} {part core : Nat}

/-- The crews that live on a core for a partition are among those that a catch or reset goes over. -/
theorem State.mem_crewsOn {n : Nat} (hcore : slotCore n = core) (hlive : (s.crewAt n).live = true)
    (hpart : (s.crewAt n).part = part) : n ∈ (s.crewsOn part core).map Prod.fst := by
  have hne : s.crewAt n ≠ Crew.empty := fun he => by
    rw [he] at hlive
    cases hlive
  refine List.mem_map.mpr ⟨(n, s.crewAt n), List.mem_filter.mpr ⟨mem_of_mapGet_ne hne, ?_⟩, rfl⟩
  simp [hcore, hlive, hpart]

theorem State.slotCore_of_mem_crewsOn {n : Nat} (h : n ∈ (s.crewsOn part core).map Prod.fst) : slotCore n = core := by
  obtain ⟨x, hx, rfl⟩ := List.mem_map.mp h
  have hx := List.of_mem_filter hx
  simp only [Bool.and_eq_true, beq_iff_eq] at hx
  exact hx.2

end

/-! ## Tokens, holds and prefetched tasks (R16, R313, R344) -/

theorem State.crewBoard_applyToken (s : State) (t : Token) : (s.applyToken t).crewBoard = s.crewBoard := by
  unfold State.applyToken State.makeReady
  dsimp only
  split
  · rfl
  · split
    · rfl
    · split
      · split <;> rfl
      · rfl

/-- The tokens of a partition on a die applied, and gone from it. -/
def State.applyDieTokens (s : State) (part d : Nat) : State :=
  ((s.die d).tokens.filter fun t => t.part == part).foldl State.applyToken
    (s.updDie d fun x => { x with tokens := x.tokens.filter fun t => t.part != part })

theorem State.crewBoard_applyDieTokens (s : State) (part d : Nat) :
    (s.applyDieTokens part d).crewBoard =
      (s.updDie d fun x => { x with tokens := x.tokens.filter fun t => t.part != part }).crewBoard :=
  foldl_crewBoard (fun t x => t.crewBoard_applyToken x) _ _

theorem State.die_applyDieTokens (s : State) (part d c : Nat) :
    (s.applyDieTokens part d).die c =
      if c = d then { s.die d with tokens := (s.die d).tokens.filter fun t => t.part != part } else s.die c := by
  rw [State.die_congr (State.board_of_crewBoard (s.crewBoard_applyDieTokens part d))]
  split
  · next hc =>
    subst hc
    exact s.die_updDie_same _ _
  · next hc => exact s.die_updDie_ne _ hc

theorem State.applyTokens_eq (s : State) (part : Nat) :
    s.applyTokens part = (List.range 4).foldl (fun s d => s.applyDieTokens part d) s := rfl

/-- Applying tokens leaves all but graphs and the dies' tokens as they were. -/
theorem State.applyTokens_frame (s : State) (part : Nat) :
    (s.applyTokens part).crews = s.crews ∧ (s.applyTokens part).fabric = s.fabric ∧
      (∀ c, ((s.applyTokens part).core c).prefetch = (s.core c).prefetch) ∧
      ∀ d, ((s.applyTokens part).die d).bank = (s.die d).bank := by
  rw [State.applyTokens_eq]
  refine foldl_keeps (fun t : State => t.crews = s.crews ∧ t.fabric = s.fabric ∧
    (∀ c, (t.core c).prefetch = (s.core c).prefetch) ∧ ∀ d, (t.die d).bank = (s.die d).bank) _ _ s
    (fun t d _ ht => ?_) ⟨rfl, rfl, fun _ => rfl, fun _ => rfl⟩
  obtain ⟨hcrews, hfabric, hprefetch, hbank⟩ := ht
  have hkept := t.crewBoard_applyDieTokens part d
  refine ⟨(State.crews_of_crewBoard hkept).trans hcrews, ?_, fun c => ?_, fun c => ?_⟩
  · exact (congrArg (fun b => b.2.2.1) hkept).trans hfabric
  · exact (congrArg (fun b => (b.2.2.2 c).1) hkept).trans (hprefetch c)
  · rw [t.die_applyDieTokens]
    split
    · next hc => exact hc ▸ hbank d
    · exact hbank c

theorem State.tokens_applyTokens (s : State) (part : Nat) {d : Nat} (hd : d < 4) :
    ∀ x ∈ ((s.applyTokens part).die d).tokens, x.part ≠ part := by
  have hgone (t : State) (c : Nat) (h : c = d ∨ ∀ x ∈ (t.die d).tokens, x.part ≠ part) :
      ∀ x ∈ ((t.applyDieTokens part c).die d).tokens, x.part ≠ part := by
    rw [t.die_applyDieTokens]
    split
    · exact fun x hx => by simpa using (List.mem_filter.mp hx).2
    · next hc => exact h.resolve_left fun h => hc h.symm
  have hfold (l : List Nat) (t : State) (h : d ∈ l ∨ ∀ x ∈ (t.die d).tokens, x.part ≠ part) :
      ∀ x ∈ ((l.foldl (fun s c => s.applyDieTokens part c) t).die d).tokens, x.part ≠ part := by
    induction l generalizing t with
    | nil => exact h.resolve_left List.not_mem_nil
    | cons c l ih =>
      rw [List.foldl_cons]
      refine ih _ (or_iff_not_imp_left.mpr fun hl => hgone t c ?_)
      exact h.imp_left fun h => ((List.mem_cons.mp h).resolve_right hl).symm
  rw [State.applyTokens_eq]
  exact hfold _ s (.inl (List.mem_range.mpr hd))

/-- A partition's holds on fibre groups have ended (R344). -/
theorem State.holders_dropHolds (s : State) (part g : Nat) : part ∉ ((s.dropHolds part).fibreGroup g).holders := by
  show part ∉ (mapGet Group.reset (s.fabric.groups.map fun g =>
    (g.1, { g.2 with holders := g.2.holders.filter (· != part) })) g).holders
  induction s.fabric.groups with
  | nil => exact List.not_mem_nil
  | cons x l ih =>
    rw [List.map_cons]
    unfold mapGet
    split
    · exact fun h => by simpa using (List.mem_filter.mp h).2
    · exact ih

/-- A task of a partition given back to the head of its bank, as an entry of its own (R16). -/
def State.returnTask (s : State) (t : Task) : State :=
  s.updDie (idDie t.node) fun d => { d with bank := { t with one := true } :: d.bank }

theorem State.returnTasks_eq (s : State) (part core : Nat) :
    s.returnTasks part core = (((s.core core).prefetch.filter fun t => t.part == part).reverse.foldl State.returnTask
      (s.updCore core fun c => { c with prefetch := c.prefetch.filter fun t => t.part != part })) := rfl

theorem State.die_returnTask (s : State) (t : Task) (d : Nat) :
    (s.returnTask t).die d =
      if idDie t.node = d then { s.die d with bank := { t with one := true } :: (s.die d).bank } else s.die d := by
  split
  · next hd =>
    subst hd
    exact s.die_updDie_same _ _
  · next hd => exact s.die_updDie_ne _ (Ne.symm hd)

theorem State.die_foldr_returnTask (s : State) (l : List Task) (d : Nat) :
    (l.foldr (fun t s => s.returnTask t) s).die d =
      { s.die d with
        bank := (l.filter fun t => idDie t.node == d).map (fun t => { t with one := true }) ++ (s.die d).bank } := by
  induction l with
  | nil => rfl
  | cons t l ih =>
    rw [List.foldr_cons, State.die_returnTask, ih]
    by_cases hd : idDie t.node = d
    · simp [hd]
    · simp [hd]

theorem State.die_returnTasks (s : State) (part core d : Nat) :
    (s.returnTasks part core).die d =
      { s.die d with
        bank := (((s.core core).prefetch.filter fun t => t.part == part && idDie t.node == d).map fun t =>
          { t with one := true }) ++ (s.die d).bank } := by
  rw [State.returnTasks_eq, List.foldl_reverse, State.die_foldr_returnTask, List.filter_filter]
  simp only [Bool.and_comm (idDie _ == d)]
  rfl

theorem State.returnTasks_frame (s : State) (part core : Nat) :
    (s.returnTasks part core).crews = s.crews ∧ (s.returnTasks part core).fabric = s.fabric ∧
      ∀ b ∈ ((s.returnTasks part core).core core).prefetch, b.part ≠ part := by
  rw [State.returnTasks_eq]
  refine foldl_keeps (fun t : State => t.crews = s.crews ∧ t.fabric = s.fabric ∧
    ∀ b ∈ (t.core core).prefetch, b.part ≠ part) _ _ _ (fun t _ _ ht => ht) ⟨rfl, rfl, fun b hb => ?_⟩
  rw [State.core_updCore_same] at hb
  simpa using (List.mem_filter.mp hb).2

/-! ## The catch of a partition's part of a core -/

theorem State.cutSprint_of_none {s : State} {core : Nat} (h : (s.core core).sprint = none) (part : Nat) :
    s.cutSprint core part = s := by
  have hn : (s.core core).sprint.isNone = true := by rw [h]; rfl
  unfold State.cutSprint
  split
  · rw [if_pos hn]
  · rfl

/-- The catch before its tile task stops and its clause array comes to a boundary. -/
def State.catchTasks (s : State) (part core : Nat) : State :=
  (((s.catchCrews (s.crewsOn part core)).dropHolds part).applyTokens part).returnTasks part core

/-- The catch but for its last step, the phase (R288 to R291). -/
def State.catchEngines (s : State) (part core : Nat) : State :=
  (if s.runsTile part core then s.stopTile core else s).settleArray part core

theorem State.crewBoard_catchEngines (s : State) (part core : Nat) :
    (s.catchEngines part core).crewBoard = s.crewBoard := by
  refine (State.crewBoard_settleArray _ _ _).trans ?_
  split
  · exact s.crewBoard_stopTile core
  · rfl

/-- The phase of a switch after its catch. -/
def State.markCaught (s : State) (part core : Nat) : State :=
  (s.setPhase (qkey part core) .caught).updSwitch part core fun w => { w with begun := true, since := s.heat.time }

theorem State.crewBoard_markCaught (s : State) (part core : Nat) :
    (s.markCaught part core).crewBoard = s.crewBoard := rfl

theorem State.phaseOf_markCaught (s : State) (part core : Nat) :
    (s.markCaught part core).phaseOf (qkey part core) = .caught :=
  mapGet_mapSet_same Phase.running s.phases (qkey part core) .caught

theorem State.catchPart_eq {s : State} {core : Nat} (h : (s.core core).sprint = none) (part : Nat) :
    s.catchPart part core = ((s.catchTasks part core).catchEngines part core).markCaught part core := by
  unfold State.catchPart
  rw [State.cutSprint_of_none h]
  unfold State.catchTasks State.catchCrews State.catchEngines State.markCaught
  with_reducible rfl

theorem State.crewBoard_catchPart {s : State} {core : Nat} (h : (s.core core).sprint = none) (part : Nat) :
    (s.catchPart part core).crewBoard = (s.catchTasks part core).crewBoard := by
  rw [State.catchPart_eq h, State.crewBoard_markCaught, State.crewBoard_catchEngines]

theorem State.phaseOf_catchPart {s : State} {core : Nat} (h : (s.core core).sprint = none) (part : Nat) :
    (s.catchPart part core).phaseOf (qkey part core) = .caught := by
  rw [State.catchPart_eq h, State.phaseOf_markCaught]

/-- What the catch makes of crews and board before its engines (R16, R313, R344, R377). -/
theorem State.catchTasks_spec (s : State) (part core : Nat) :
    (s.catchTasks part core).crews = (s.catchCrews (s.crewsOn part core)).crews ∧
      (∀ b ∈ ((s.catchTasks part core).core core).prefetch, b.part ≠ part) ∧
      (∀ g, part ∉ ((s.catchTasks part core).fibreGroup g).holders) ∧
      (∀ d < 4, ∀ x ∈ ((s.catchTasks part core).die d).tokens, x.part ≠ part) ∧
      ∀ d, ((s.catchTasks part core).die d).bank =
        (((s.core core).prefetch.filter fun b => b.part == part && idDie b.node == d).map fun b =>
          { b with one := true }) ++ (s.die d).bank := by
  have hboard := s.board_catchCrews (s.crewsOn part core)
  unfold State.catchTasks
  generalize s.catchCrews (s.crewsOn part core) = u at hboard
  have hholds := u.holders_dropHolds part
  have hdrop : (u.dropHolds part).crews = u.crews ∧ (∀ d, (u.dropHolds part).die d = u.die d) ∧
      (u.dropHolds part).core core = u.core core := ⟨rfl, fun _ => rfl, rfl⟩
  generalize u.dropHolds part = v at hholds hdrop
  obtain ⟨hcrews, hfabric, hprefetch, hbank⟩ := v.applyTokens_frame part
  have htokens {d : Nat} (hd : d < 4) := v.tokens_applyTokens part hd
  generalize v.applyTokens part = w at hcrews hfabric hprefetch hbank htokens
  obtain ⟨hcrews', hfabric', hprefetch'⟩ := w.returnTasks_frame part core
  obtain ⟨hdcrews, hddie, hdcore⟩ := hdrop
  refine ⟨hcrews'.trans (hcrews.trans hdcrews), hprefetch', fun g => ?_, fun d hd => ?_, fun d => ?_⟩
  · unfold State.fibreGroup
    rw [hfabric', hfabric]
    exact hholds g
  · rw [State.die_returnTasks]
    exact htokens hd
  · rw [State.die_returnTasks, hprefetch, hbank, hdcore, hddie, State.prefetch_of_board hboard, State.die_congr hboard]

/-- What the catch of a partition's part of a core makes of crews and board. -/
theorem State.catchPart_spec {s : State} {core : Nat} (h : (s.core core).sprint = none) (part : Nat) :
    (s.catchPart part core).crews = (s.catchCrews (s.crewsOn part core)).crews ∧
      (∀ b ∈ ((s.catchPart part core).core core).prefetch, b.part ≠ part) ∧
      (∀ g, part ∉ ((s.catchPart part core).fibreGroup g).holders) ∧
      (∀ d < 4, ∀ x ∈ ((s.catchPart part core).die d).tokens, x.part ≠ part) ∧
      ∀ d, ((s.catchPart part core).die d).bank =
        (((s.core core).prefetch.filter fun b => b.part == part && idDie b.node == d).map fun b =>
          { b with one := true }) ++ (s.die d).bank := by
  have hkept := State.crewBoard_catchPart h part
  have hboard := State.board_of_crewBoard hkept
  obtain ⟨hcrews, hprefetch, hholds, htokens, hbank⟩ := s.catchTasks_spec part core
  refine ⟨(State.crews_of_crewBoard hkept).trans hcrews, ?_, fun g => ?_, fun d hd => ?_, fun d => ?_⟩
  · rwa [State.prefetch_of_board hboard]
  · rw [State.fibreGroup_of_board hboard]
    exact hholds g
  · rw [State.die_congr hboard]
    exact htokens d hd
  · rw [State.die_congr hboard, hbank]

theorem State.crewAt_congr {s t : State} (h : t.crews = s.crews) (n : Nat) : t.crewAt n = s.crewAt n :=
  congrArg (mapGet Crew.empty · n) h

/-- A catch of a partition's part of a core has come about: phase, prefetch buffer, holds, tokens and banks are as R16, R313,
R344 and R377 say, and crews of other cores are as they were. -/
def CatchDone (s t : State) (core part : Nat) : Prop :=
  t.phaseOf (qkey part core) = .caught ∧ (∀ b ∈ (t.core core).prefetch, b.part ≠ part) ∧
    (∀ g, part ∉ (t.fibreGroup g).holders) ∧ (∀ d < 4, ∀ x ∈ (t.die d).tokens, x.part ≠ part) ∧
    (∀ d < 4, (t.die d).bank = (((s.core core).prefetch.filter fun b => b.part == part && idDie b.node == d).map fun b =>
      { b with one := true }) ++ (s.die d).bank) ∧
    ∀ n, slotCore n ≠ core → (s.crewAt n).buffered = [] → (s.crewAt n).firstReads = [] → t.crewAt n = s.crewAt n

/-- The catch in a state that differs from s in the crews of the core, and in what R36 lets the end of a crew do to others. -/
theorem catchDone_catchPart {s u : State} {core part : Nat} (hsprint : (s.core core).sprint = none)
    (hboard : u.board = s.board)
    (hothers : ∀ n, slotCore n ≠ core → (s.crewAt n).buffered = [] → (s.crewAt n).firstReads = [] →
      u.crewAt n = s.crewAt n) : CatchDone s (u.catchPart part core) core part := by
  have hu : (u.core core).sprint = none := (State.sprint_of_board hboard core).trans hsprint
  obtain ⟨hcrews, hprefetch, hholds, htokens, hbank⟩ := State.catchPart_spec hu part
  refine ⟨State.phaseOf_catchPart hu part, hprefetch, hholds, htokens, fun d _ => ?_, fun n hn hb hr => ?_⟩
  · rw [hbank, State.prefetch_of_board hboard, State.die_congr hboard]
  · rw [State.crewAt_congr hcrews, State.crewAt_catchCrews_of_notMem fun h => hn (State.slotCore_of_mem_crewsOn h)]
    exact hothers n hn hb hr

/-! ## The events of a catch (R377, R380) -/

section
variable {s : State} {core part : Nat} {w : Switch} (hw : s.switchOf part core = some w)
include hw

theorem execCatchCore_eq : exec (.catchCore core part) s =
    .next (if !w.begun && (s.phaseOf (qkey part core) == .idle ||
      (s.phaseOf (qkey part core) == .running && !s.passed w.since 1500)) then s.catchPart part core else s) := by
  show execCatchCore core part s = _
  simp only [execCatchCore, hw]

theorem execDeadlineReset_eq : exec (.deadlineReset core part) s =
    .next (if !w.begun && s.phaseOf (qkey part core) == .running && s.passed w.since 1500 then
      (s.resetCrews part core 0x01).catchPart part core else s) := by
  show execDeadlineReset core part s = _
  simp only [execDeadlineReset, hw]

end

theorem resetStatus_eq (code : BitVec 8) (core : Nat) :
    resetStatus code core = 0x03#8 ++ code ++ BitVec.ofNat 16 core := by
  unfold resetStatus
  rw [Nat.mod_add_div]

/-- Settles O48: the catch itself, and the reset of the crews before a catch that is late. -/
theorem catchEvents : Obligations.CatchEvents := by
  intro s core part w k hw hcore hsprint mine caught late
  have hlate : s.passed w.since 1500 = true ↔ late := decide_eq_true_iff
  have hearly : s.passed w.since 1500 = false ↔ ¬late := by rw [← hlate, Bool.not_eq_true]
  refine ⟨fun hbegun hphase => ?_, fun hstay => ?_, fun hbegun hphase hl => ?_, fun hl => ?_⟩
  · have hexec : exec (.catchCore core part) s = .next (s.catchPart part core) := by
      rw [execCatchCore_eq hw, if_pos]
      rcases hphase with ⟨hrunning, hl⟩ | hidle
      · simp [hbegun, show s.phaseOf (qkey part core) = .running from hrunning, hearly.mpr hl]
      · simp [hbegun, show s.phaseOf (qkey part core) = .idle from hidle]
    have hcrews := (State.catchPart_spec hsprint part).1
    refine ⟨_, hexec, catchDone_catchPart hsprint rfl fun _ _ _ _ => rfl, fun n hn => ?_⟩
    obtain ⟨hslot, hlive, hpart⟩ := hn
    rw [State.crewAt_congr hcrews]
    obtain ⟨hl, -, hlane, hshared, hreqs, hspc⟩ := s.stands_catchCrews (s.crewsOn part core) n
    obtain ⟨hcaught, hinflight, hwindow⟩ := State.atRest_catchCrews (State.mem_crewsOn hslot hlive hpart)
    exact ⟨hcaught, hl.trans hlive, hinflight, hwindow, hlane, hshared, hreqs, hspc⟩
  · refine ⟨s, ?_, rfl⟩
    rw [execCatchCore_eq hw, if_neg]
    rcases hstay with hbegun | ⟨hrunning, hl⟩
    · simp [hbegun]
    · simp [show s.phaseOf (qkey part core) = .running from hrunning, hlate.mpr hl]
  · have hexec : exec (.deadlineReset core part) s = .next ((s.resetCrews part core 0x01).catchPart part core) := by
      rw [execDeadlineReset_eq hw, if_pos]
      simp [hbegun, show s.phaseOf (qkey part core) = .running from hphase, hlate.mpr hl]
    have hboard : (s.resetCrews part core 0x01).board = s.board := s.board_resetCrewsOf _ _
    have hothers (n : Nat) (hn : slotCore n ≠ core) :
        (s.crewAt n).Flushed ((s.resetCrews part core 0x01).crewAt n) :=
      State.flushed_resetCrewsOf_of_notMem _ fun h => hn (State.slotCore_of_mem_crewsOn h)
    have hcrews := (State.catchPart_spec ((State.sprint_of_board hboard core).trans hsprint) part).1
    refine ⟨_, hexec, catchDone_catchPart hsprint hboard fun n hn => (hothers n hn).eq_of_empty, fun n hn => ?_⟩
    obtain ⟨hslot, hlive, hpart⟩ := hn
    have hended : ((s.resetCrews part core 0x01).crewAt n).Ended (resetStatus 0x01 core) :=
      State.ended_resetCrewsOf _ (State.mem_crewsOn hslot hlive hpart)
    rw [State.crewAt_congr hcrews, ← resetStatus_eq]
    exact (State.stands_catchCrews _ _ n).ended hended
  · refine ⟨s, ?_, rfl⟩
    rw [execDeadlineReset_eq hw, if_neg]
    simp [hearly.mpr hl]

end Sys2Proof.Machine
end

section
/-! The memory of a crew through its store window (R22 to R24): what a drain, a store and a write at the array change, byte by
byte, said with State.reads. -/

namespace Sys2Proof.Machine

/-! ## Bytes of numbers -/

theorem testBit_leNat (bs : List Byte) (q : Nat) {j : Nat} (hj : j < 8) :
    (leNat bs).testBit (8 * q + j) = (bs.getD q 0).getLsbD j := by
  induction bs generalizing q with
  | nil => simp [leNat]
  | cons b rest ih =>
    have hb : b.toNat < 2 ^ 8 := b.isLt
    rw [leNat, Nat.add_comm, show 256 * leNat rest = 2 ^ 8 * leNat rest from rfl, Nat.testBit_two_pow_mul_add _ hb]
    cases q with
    | zero => simp [hj, BitVec.getLsbD]
    | succ q =>
      rw [if_neg (by omega), show 8 * (q + 1) + j - 8 = 8 * q + j by omega, ih]
      simp

theorem getD_leBytes (n v j : Nat) (hj : j < n) : (leBytes n v).getD j 0 = BitVec.ofNat 8 (v / 2 ^ (8 * j)) := by
  induction n generalizing v j with
  | zero => omega
  | succ n ih =>
    cases j with
    | zero => simp [leBytes]
    | succ j =>
      rw [leBytes, List.getD_cons_succ, ih _ _ (by omega), Nat.div_div_eq_div_mul,
        show 8 * (j + 1) = 8 + 8 * j by omega, pow_add, show 256 = 2 ^ 8 from rfl]

/-- Byte j of a number that a register holds. -/
theorem ofNat_div_eq_extract {w : Nat} (v : BitVec w) (j : Nat) :
    BitVec.ofNat 8 (v.toNat / 2 ^ (8 * j)) = v.extractLsb' (8 * j) 8 := by
  simp [BitVec.extractLsb', Nat.shiftRight_eq_div_pow]

/-! ## Entries of a window -/

theorem windowUnique.filter {w : List WinEntry} (hw : windowUnique w) (p : WinEntry → Bool) : windowUnique (w.filter p) :=
  List.Pairwise.filter p hw

theorem windowFind_cons (e : WinEntry) (w : List WinEntry) (spad : Bool) (g : Nat) :
    windowFind (e :: w) spad g = if e.spad = spad ∧ e.granule = g then some e else windowFind w spad g := by
  unfold windowFind
  by_cases h : e.spad = spad ∧ e.granule = g
  · simp [h]
  · have hb : (e.spad == spad && e.granule == g) = false := by simpa using h
    simp [hb, h]

theorem windowFind_eq_none {w : List WinEntry} {spad : Bool} {g : Nat} :
    windowFind w spad g = none ↔ ∀ e ∈ w, ¬(e.spad = spad ∧ e.granule = g) := by
  simp [windowFind]

theorem windowFind_append (w v : List WinEntry) (spad : Bool) (g : Nat) :
    windowFind (w ++ v) spad g = (windowFind w spad g).or (windowFind v spad g) := List.find?_append

/-- The entries of a window that pass a test: that of a granule is the window's own, if it is among them. -/
theorem windowFind_filter {w : List WinEntry} (hw : windowUnique w) (p : WinEntry → Bool) (spad : Bool) (g : Nat) :
    windowFind (w.filter p) spad g = (windowFind w spad g).filter p := by
  induction w with
  | nil => rfl
  | cons e w ih =>
    obtain ⟨he, hw⟩ := List.pairwise_cons.mp hw
    have ih := ih hw
    rw [windowFind_cons]
    by_cases hit : e.spad = spad ∧ e.granule = g
    · have hrest : windowFind w spad g = none :=
        windowFind_eq_none.mpr fun f hf h => he f hf ⟨hit.1.trans h.1.symm, hit.2.trans h.2.symm⟩
      by_cases hp : p e = true
      · rw [List.filter_cons_of_pos hp, windowFind_cons, if_pos hit, if_pos hit, Option.filter_some, if_pos hp]
      · rw [List.filter_cons_of_neg hp, ih, hrest, if_pos hit, Option.filter_some, if_neg hp]
        rfl
    · rw [if_neg hit, ← ih]
      by_cases hp : p e = true
      · rw [List.filter_cons_of_pos hp, windowFind_cons, if_neg hit]
      · rw [List.filter_cons_of_neg hp]

/-- Bytes merged into an entry come under its mask. -/
theorem WinEntry.mask_merge (e : WinEntry) {i : Nat} {bs : List Byte} {k : Nat} (hk : k < 64) :
    (e.merge i bs).mask.getLsbD k = (e.mask.getLsbD k || (decide (i ≤ k) && decide (k < i + bs.length))) := by
  unfold WinEntry.merge
  simp only [BitVec.getLsbD_or, BitVec.getLsbD_shiftLeft, BitVec.getLsbD_ofNat, Nat.testBit_two_pow_sub_one, hk, decide_true,
    Bool.true_and]
  by_cases h : i ≤ k
  · simp [h, show ¬k < i by omega, show k - i < 64 by omega, show k - i < bs.length ↔ k < i + bs.length by omega]
  · simp [h, show k < i by omega]

/-- Bytes merged into an entry replace its bytes there, and its other bytes stay. -/
theorem WinEntry.data_merge (e : WinEntry) {i : Nat} {bs : List Byte} {k : Nat} (hk : k < 64) :
    (e.merge i bs).data.extractLsb' (8 * k) 8 =
      if i ≤ k ∧ k < i + bs.length then bs.getD (k - i) 0 else e.data.extractLsb' (8 * k) 8 := by
  refine BitVec.eq_of_getLsbD_eq fun j hj => ?_
  have hn : 8 * k + j < 512 := by omega
  unfold WinEntry.merge
  simp only [BitVec.getLsbD_extractLsb', hj, decide_true, Bool.true_and, BitVec.getLsbD_or, BitVec.getLsbD_and,
    BitVec.getLsbD_not, BitVec.getLsbD_shiftLeft, BitVec.getLsbD_ofNat, Nat.testBit_two_pow_sub_one, hn]
  by_cases hlo : i ≤ k
  · rw [show 8 * k + j - 8 * i = 8 * (k - i) + j by omega, testBit_leNat bs (k - i) hj]
    by_cases hhi : k < i + bs.length
    · simp [hlo, hhi, show ¬8 * k + j < 8 * i by omega, show 8 * (k - i) + j < 512 by omega,
        show 8 * (k - i) + j < 8 * bs.length by omega]
    · have hout : bs.getD (k - i) 0 = 0 := List.getD_eq_default _ _ (by omega)
      rw [hout]
      simp [hlo, hhi, hj, show ¬8 * k + j < 8 * i by omega, show ¬8 * (k - i) + j < 8 * bs.length by omega]
  · simp [hlo, hj, show 8 * k + j < 8 * i by omega]

/-- Byte k of a granule as its window entry, if there is one, gives it over what the array holds. -/
def winByte (e : Option WinEntry) (k : Nat) (old : Byte) : Byte :=
  match e with
  | some e => if e.mask.getLsbD k then e.data.extractLsb' (8 * k) 8 else old
  | none => old

@[simp] theorem winByte_none (k : Nat) (old : Byte) : winByte none k old = old := rfl

@[simp] theorem winByte_winByte (e : Option WinEntry) (k : Nat) (old : Byte) : winByte e k (winByte e k old) = winByte e k old := by
  cases e with
  | none => rfl
  | some e => by_cases h : e.mask.getLsbD k = true <;> simp [winByte, h]

/-- An entry with bytes merged in gives these bytes, and elsewhere what it gave before (R23). -/
theorem winByte_merge (e : WinEntry) {i : Nat} {bs : List Byte} {k : Nat} (hk : k < 64) (old : Byte) :
    winByte (some (e.merge i bs)) k old =
      if i ≤ k ∧ k < i + bs.length then bs.getD (k - i) 0 else winByte (some e) k old := by
  show (if (e.merge i bs).mask.getLsbD k then (e.merge i bs).data.extractLsb' (8 * k) 8 else old) = _
  rw [e.mask_merge hk, e.data_merge hk]
  by_cases h : i ≤ k ∧ k < i + bs.length
  · simp [h]
  · have hout : (decide (i ≤ k) && decide (k < i + bs.length)) = false := by simpa using h
    rw [hout, Bool.or_false, if_neg h, if_neg h]
    rfl

/-! ## What a crew reads -/

theorem State.crewByte_eq (s : State) (spad : Bool) (k : Nat) :
    s.crewByte spad k = winByte (windowFind s.crew.window spad (k / 64)) (k % 64) (s.mem.byte (spOf spad) k) := rfl

theorem State.crewByte_of_find_none {s : State} {spad : Bool} {k : Nat} (h : windowFind s.crew.window spad (k / 64) = none) :
    s.crewByte spad k = s.mem.byte (spOf spad) k := by
  rw [s.crewByte_eq, h, winByte_none]

/-- States with one window and one memory read alike. -/
theorem State.crewByte_congr {s t : State} (hw : t.crew.window = s.crew.window) (hm : t.mem = s.mem) (spad : Bool) (k : Nat) :
    t.crewByte spad k = s.crewByte spad k := by
  rw [t.crewByte_eq, s.crewByte_eq, hw, hm]

theorem Crew.load_eq (c : Crew) (m : Mem) (spad : Bool) (a n : Nat) :
    c.load m spad a n = (List.range n).map fun j => c.byte m spad (a + j) := by
  induction n generalizing a with
  | zero => rfl
  | succ n ih =>
    rw [Crew.load, ih, List.range_succ_eq_map, List.map_cons, List.map_map]
    refine congrArg₂ _ rfl (List.map_congr_left fun j _ => ?_)
    show c.byte m spad (a + 1 + j) = c.byte m spad (a + (j + 1))
    rw [Nat.add_right_comm, Nat.add_assoc]

theorem Mem.nat_eq (m : Mem) (sp : Sp) (a n : Nat) : m.nat sp a n = leNat ((List.range n).map fun j => m.byte sp (a + j)) := by
  unfold Mem.nat memNat
  refine congrArg leNat (List.ext_getElem (by simp [memBytes_length]) fun j h1 h2 => ?_)
  rw [memBytes_getElem]
  simp [Mem.byte]

theorem State.reads_refl (s : State) : s.reads s s.crew.spp s.crewByte :=
  ⟨rfl, fun _ _ => rfl, rfl, fun _ _ => rfl, s.mem.coreKept_refl⟩

theorem State.reads_trans {s t u : State} {spp spp' : Nat} {r r' : Bool → Nat → Byte} (h : s.reads t spp r)
    (h' : t.reads u spp' r') : s.reads u spp' r' := by
  obtain ⟨hf, ho, hc, -, hk⟩ := h
  obtain ⟨hf', ho', hc', hr', hk'⟩ := h'
  have hcur : t.cur = s.cur := by rw [hf]
  refine ⟨?_, fun n hn => ?_, ?_, hr', Mem.coreKept_trans hk hk'⟩
  · rw [hf']
    conv_lhs => rw [hf]
  · rw [ho' n (by rwa [hcur]), ho n hn]
  · rw [hc', hc]

/-- A further change that leaves SPP. -/
theorem State.reads_then {s t u : State} {spp : Nat} {r r' : Bool → Nat → Byte} (h : s.reads t spp r)
    (h' : t.reads u t.crew.spp r') : s.reads u spp r' := by
  have hspp : t.crew.spp = spp := by rw [h.2.2.1]
  exact State.reads_trans h (hspp ▸ h')

theorem State.reads_congr {s u : State} {spp : Nat} {r r' : Bool → Nat → Byte} (h : s.reads u spp r)
    (hr : ∀ sp k, r sp k = r' sp k) : s.reads u spp r' := by
  obtain ⟨hf, ho, hc, hb, hk⟩ := h
  exact ⟨hf, ho, hc, fun sp k => (hb sp k).trans (hr sp k), hk⟩

/-! ## Entries drained (R24) -/

section
variable {s : State} (hw : windowUnique s.crew.window) (p : WinEntry → Bool)

theorem State.mem_drainIf (s : State) (p : WinEntry → Bool) :
    (s.drainIf s.cur p).mem = (s.crew.window.filter p).foldl (fun m e => e.drain m) s.mem := by
  unfold State.drainIf State.crew
  dsimp only
  split
  · next h => rw [List.isEmpty_iff.mp h]; rfl
  · rfl

@[simp] theorem State.cur_drainIf (s : State) (slot : Nat) (p : WinEntry → Bool) : (s.drainIf slot p).cur = s.cur := by
  rw [s.drainIf_frame]

@[simp] theorem State.crew_drainIf (s : State) (p : WinEntry → Bool) :
    (s.drainIf s.cur p).crew = { s.crew with window := s.crew.window.filter fun e => !p e } := by
  show (s.drainIf s.cur p).crewAt (s.drainIf s.cur p).cur = _
  rw [s.cur_drainIf, s.crewAt_drainIf, if_pos rfl]
  rfl

include hw

theorem State.unique_drainIf : windowUnique (s.drainIf s.cur p).crew.window := by
  rw [s.crew_drainIf]
  exact hw.filter _

/-- A byte of the array after some entries have drained: what the crew reads there, if its entry is one of them. -/
theorem State.byte_drainIf (spad : Bool) (k : Nat) :
    (s.drainIf s.cur p).mem.byte (spOf spad) k =
      if ((windowFind s.crew.window spad (k / 64)).filter p).isSome then s.crewByte spad k else s.mem.byte (spOf spad) k := by
  have hb : _ = winByte _ (k % 64) (s.mem.byte (spOf spad) k) := Mem.byte_foldl_drain (hw.filter p) s.mem spad k
  rw [s.mem_drainIf, hb, windowFind_filter hw p, s.crewByte_eq]
  cases windowFind s.crew.window spad (k / 64) with
  | none => rfl
  | some e => by_cases hp : p e = true <;> simp [Option.filter_some, hp]

/-- A drain leaves every byte as the crew reads it (R24). -/
theorem State.crewByte_drainIf (spad : Bool) (k : Nat) : (s.drainIf s.cur p).crewByte spad k = s.crewByte spad k := by
  rw [State.crewByte_eq, State.byte_drainIf hw, s.crew_drainIf, windowFind_filter hw, s.crewByte_eq]
  cases windowFind s.crew.window spad (k / 64) with
  | none => rfl
  | some e => by_cases hp : p e = true <;> simp [Option.filter_some, hp]

theorem State.reads_drainIf : s.reads (s.drainIf s.cur p) s.crew.spp s.crewByte := by
  refine ⟨?_, fun n hn => ?_, ?_, State.crewByte_drainIf hw p, ?_⟩
  · conv_lhs => rw [s.drainIf_frame]
    rw [s.drainIf_frame]
  · rw [s.crewAt_drainIf, if_neg hn]
  · rw [s.crew_drainIf]
  · rw [s.mem_drainIf]
    exact foldl_keeps s.mem.coreKept _ _ _ (fun n e _ hn => Mem.coreKept_trans hn (e.coreKept_drain n)) s.mem.coreKept_refl

/-- After its entry has drained, a granule has none, and the array holds what the crew reads (R23). -/
theorem State.windowFind_drainGranule (spad : Bool) (a : Nat) :
    windowFind (s.drainGranule s.cur spad a).crew.window spad (a / 64) = none := by
  unfold State.drainGranule
  rw [s.crew_drainIf]
  dsimp only
  rw [windowFind_filter hw, Option.filter_eq_none_iff]
  intro e he
  have := List.find?_some he
  simpa using this

end

/-! ## Stores (R22, R23) -/

/-- The crew with another window. -/
def Crew.withWindow (c : Crew) (w : List WinEntry) : Crew := { c with window := w }

@[simp] theorem Crew.window_withWindow (c : Crew) (w : List WinEntry) : (c.withWindow w).window = w := rfl

/-- Bytes merged into the entry of a granule. -/
def mergeAt (spad : Bool) (a : Nat) (bs : List Byte) (e : WinEntry) : WinEntry :=
  if e.spad = spad ∧ e.granule = a / 64 then e.merge (a % 64) bs else e

@[simp] theorem spad_mergeAt (spad : Bool) (a : Nat) (bs : List Byte) (e : WinEntry) : (mergeAt spad a bs e).spad = e.spad := by
  unfold mergeAt
  split <;> rfl

@[simp] theorem granule_mergeAt (spad : Bool) (a : Nat) (bs : List Byte) (e : WinEntry) :
    (mergeAt spad a bs e).granule = e.granule := by
  unfold mergeAt
  split <;> rfl

theorem windowUnique.mergeAt {w : List WinEntry} (hw : windowUnique w) (spad : Bool) (a : Nat) (bs : List Byte) :
    windowUnique (w.map (mergeAt spad a bs)) := by
  rw [windowUnique, List.pairwise_map]
  simp only [spad_mergeAt, granule_mergeAt]
  exact hw

theorem windowFind_mergeAt (w : List WinEntry) (spad : Bool) (a : Nat) (bs : List Byte) (sp : Bool) (g : Nat) :
    windowFind (w.map (mergeAt spad a bs)) sp g = (windowFind w sp g).map (mergeAt spad a bs) := by
  unfold windowFind
  rw [List.find?_map]
  exact congrArg _ (congrArg (List.find? · w) (funext fun e => by simp))

section
variable {spad : Bool} {a : Nat} {bs : List Byte} (hfit : a % 64 + bs.length ≤ 64)
include hfit

/-- Bytes merged at an address in the entry of its granule (R23). -/
theorem winByte_mergeAt {w : List WinEntry} (hf : (windowFind w spad (a / 64)).isSome) (sp : Bool) (k : Nat) (old : Byte) :
    winByte (windowFind (w.map (mergeAt spad a bs)) sp (k / 64)) (k % 64) old =
      if sp = spad ∧ a ≤ k ∧ k < a + bs.length then bs.getD (k - a) 0
      else winByte (windowFind w sp (k / 64)) (k % 64) old := by
  rw [windowFind_mergeAt]
  by_cases hg : sp = spad ∧ k / 64 = a / 64
  · obtain ⟨rfl, hg⟩ := hg
    obtain ⟨e, he⟩ := Option.isSome_iff_exists.mp hf
    have hhit : e.spad = sp ∧ e.granule = a / 64 := by simpa using List.find?_some he
    have hsub : k % 64 - a % 64 = k - a := by omega
    rw [hg, he, Option.map_some, mergeAt, if_pos hhit, winByte_merge _ (Nat.mod_lt _ (by decide)), hsub]
    exact if_congr ⟨fun h => ⟨rfl, by omega, by omega⟩, fun h => by omega⟩ rfl rfl
  · rw [if_neg fun h => hg ⟨h.1, by omega⟩]
    cases hk : windowFind w sp (k / 64) with
    | none => rfl
    | some e =>
      have hhit : e.spad = sp ∧ e.granule = k / 64 := by simpa using List.find?_some hk
      rw [Option.map_some, mergeAt, if_neg fun h => hg ⟨hhit.1.symm.trans h.1, hhit.2.symm.trans h.2⟩]

/-- A new entry with the bytes at an address whose granule had none (R23). -/
theorem winByte_append {w : List WinEntry} (hf : windowFind w spad (a / 64) = none) (b sp : Bool) (k : Nat) (old : Byte) :
    winByte (windowFind (w ++ [(⟨spad, a / 64, 0, 0, b⟩ : WinEntry).merge (a % 64) bs]) sp (k / 64)) (k % 64) old =
      if sp = spad ∧ a ≤ k ∧ k < a + bs.length then bs.getD (k - a) 0
      else winByte (windowFind w sp (k / 64)) (k % 64) old := by
  rw [windowFind_append, windowFind_cons]
  by_cases hg : sp = spad ∧ k / 64 = a / 64
  · obtain ⟨rfl, hg⟩ := hg
    have hsub : k % 64 - a % 64 = k - a := by omega
    rw [hg, hf, Option.none_or, if_pos ⟨rfl, rfl⟩, winByte_merge _ (Nat.mod_lt _ (by decide)), hsub]
    refine if_congr ⟨fun h => ⟨rfl, by omega, by omega⟩, fun h => by omega⟩ rfl ?_
    simp [winByte]
  · have hmiss : ¬(((⟨spad, a / 64, 0, 0, b⟩ : WinEntry).merge (a % 64) bs).spad = sp ∧
        ((⟨spad, a / 64, 0, 0, b⟩ : WinEntry).merge (a % 64) bs).granule = k / 64) := fun h => hg ⟨h.1.symm, h.2.symm⟩
    have hout : ¬(sp = spad ∧ a ≤ k ∧ k < a + bs.length) := fun h => hg ⟨h.1, by omega⟩
    rw [if_neg hmiss, if_neg hout, show windowFind [] sp (k / 64) = none from rfl, Option.or_none]

end

/-- What a crew reads with another window. -/
theorem State.reads_setWindow {s : State} {w : List WinEntry} {r : Bool → Nat → Byte}
    (h : ∀ sp k, winByte (windowFind w sp (k / 64)) (k % 64) (s.mem.byte (spOf sp) k) = r sp k) :
    s.reads (s.setCrew (s.crew.withWindow w)) s.crew.spp r := by
  refine ⟨rfl, fun n hn => State.crewAt_setCrew_ne _ _ hn, ?_, fun sp k => ?_, s.mem.coreKept_refl⟩
  · rw [State.crew_setCrew]
    rfl
  · rw [State.crewByte_eq, State.crew_setCrew]
    exact h sp k

/-- What a store into the window does where its granule has an entry. -/
theorem State.windowStore_of_some {s : State} {spad : Bool} {a : Nat} (bs : List Byte)
    (hf : (windowFind s.crew.window spad (a / 64)).isSome) :
    s.windowStore s.cur spad a bs = s.setCrew (s.crew.withWindow (s.crew.window.map (mergeAt spad a bs))) := by
  obtain ⟨e, he⟩ := Option.isSome_iff_exists.mp hf
  unfold State.windowStore
  dsimp only
  rw [s.crewAt_cur, he]
  rfl

/-- The byte of the array is as it was, or the crew read it there. -/
def State.spills (s t : State) : Prop :=
  ∀ sp k, t.mem.byte (spOf sp) k = s.mem.byte (spOf sp) k ∨ t.mem.byte (spOf sp) k = s.crewByte sp k

section
variable {s : State} (hw : windowUnique s.crew.window) {spad : Bool} {a : Nat} (bs : List Byte)
include hw

theorem State.spills_drainIf (p : WinEntry → Bool) : s.spills (s.drainIf s.cur p) := fun sp k => by
  rw [State.byte_drainIf hw]
  split
  exacts [.inr rfl, .inl rfl]

/-- What a store does where its granule has no entry: a full window first loses its oldest entry, which drains. -/
theorem State.windowStore_of_none (hf : windowFind s.crew.window spad (a / 64) = none) :
    ∃ u, (u = s ∨ ∃ p, u = s.drainIf s.cur p) ∧ s.windowStore s.cur spad a bs = u.setCrew (u.crew.withWindow
      (u.crew.window ++ [(⟨spad, a / 64, 0, 0, u.bound s.cur spad (a / 64)⟩ : WinEntry).merge (a % 64) bs])) := by
  unfold State.windowStore
  dsimp only
  rw [s.crewAt_cur, hf]
  by_cases hfull : 32 ≤ s.crew.window.length
  · cases hwin : s.crew.window with
    | nil => simp [hwin] at hfull
    | cons e rest =>
      have hpair : windowUnique (e :: rest) := hwin ▸ hw
      have hne : ∀ f ∈ rest, f ≠ e := fun f hf hfe =>
        (List.pairwise_cons.mp hpair).1 f hf ⟨by rw [hfe], by rw [hfe]⟩
      have hdrop : { s.setCrewAt s.cur { s.crew with window := rest } with mem := e.drain s.mem } =
          s.drainIf s.cur fun f => f == e := by
        have h1 : rest.filter (fun f => f == e) = [] := List.filter_eq_nil_iff.mpr fun f hf => by simpa using hne f hf
        have h2 : rest.filter (fun f => !(f == e)) = rest := List.filter_eq_self.mpr fun f hf => by simpa using hne f hf
        unfold State.drainIf
        simp only [s.crewAt_cur, hwin, List.filter_cons, h1, h2]
        simp
      rw [hwin] at hfull
      simp only [hfull, if_true, hdrop]
      refine ⟨s.drainIf s.cur fun f => f == e, .inr ⟨_, rfl⟩, ?_⟩
      unfold State.setCrew State.crew
      rw [s.cur_drainIf]
      rfl
  · exact ⟨s, .inl rfl, by simp only [hfull, if_false]; rfl⟩

/-- A store into one granule keeps one entry for each, and the crew then reads its bytes (R23). -/
theorem State.windowStore_reads (hfit : a % 64 + bs.length ≤ 64) :
    windowUnique (s.windowStore s.cur spad a bs).crew.window ∧ s.spills (s.windowStore s.cur spad a bs) ∧
      s.reads (s.windowStore s.cur spad a bs) s.crew.spp fun sp k =>
        if sp = spad ∧ a ≤ k ∧ k < a + bs.length then bs.getD (k - a) 0 else s.crewByte sp k := by
  cases hf : windowFind s.crew.window spad (a / 64) with
  | some e =>
    have hf : (windowFind s.crew.window spad (a / 64)).isSome := by rw [hf]; rfl
    rw [State.windowStore_of_some bs hf]
    refine ⟨?_, fun _ _ => .inl rfl, State.reads_setWindow fun sp k => winByte_mergeAt hfit hf sp k _⟩
    rw [State.crew_setCrew]
    exact hw.mergeAt spad a bs
  | none =>
    obtain ⟨u, hu, hstore⟩ := State.windowStore_of_none hw bs hf
    obtain ⟨hreads, hspills, huniq, hnone⟩ : s.reads u s.crew.spp s.crewByte ∧ s.spills u ∧ windowUnique u.crew.window ∧
        windowFind u.crew.window spad (a / 64) = none := by
      rcases hu with rfl | ⟨p, rfl⟩
      · exact ⟨u.reads_refl, fun _ _ => .inl rfl, hw, hf⟩
      · refine ⟨State.reads_drainIf hw p, State.spills_drainIf hw p, State.unique_drainIf hw p, ?_⟩
        rw [s.crew_drainIf]
        exact (windowFind_filter hw _ spad _).trans (by rw [hf]; rfl)
    have ⟨_, _, _, hbyte, _⟩ := hreads
    rw [hstore]
    refine ⟨?_, hspills, State.reads_then hreads (State.reads_setWindow fun sp k =>
      (winByte_append hfit hnone _ sp k _).trans (if_congr Iff.rfl rfl (hbyte sp k)))⟩
    rw [State.crew_setCrew]
    refine List.pairwise_append.mpr ⟨huniq, List.pairwise_singleton _ _, fun e he f hfm => ?_⟩
    rw [List.mem_singleton.mp hfm]
    exact windowFind_eq_none.mp hnone e he

end

/-- A write at the array of bytes of one granule for which the crew's window has no entry (R35). -/
theorem State.reads_store {s : State} {spad : Bool} {a : Nat} (bs : List Byte) (hfit : a % 64 + bs.length ≤ 64)
    (hnone : windowFind s.crew.window spad (a / 64) = none) :
    s.reads { s with mem := s.mem.store (spOf spad) a bs } s.crew.spp fun sp k =>
      if sp = spad ∧ a ≤ k ∧ k < a + bs.length then bs.getD (k - a) 0 else s.crewByte sp k := by
  refine ⟨rfl, fun _ _ => rfl, rfl, fun sp k => ?_, Mem.coreKept_store _ _ _ _⟩
  rw [State.crewByte_eq]
  show winByte (windowFind s.crew.window sp (k / 64)) (k % 64) ((s.mem.store (spOf spad) a bs).byte (spOf sp) k) = _
  dsimp only
  split
  · next h =>
    obtain ⟨rfl, hlo, hhi⟩ := h
    have hb := Mem.byte_store_inside s.mem (spOf sp) a (k - a) bs (by omega)
    rw [show a + (k - a) = k by omega] at hb
    rw [show k / 64 = a / 64 by omega, hnone, winByte_none, hb, List.getD_eq_getElem]
  · next h =>
    rw [Mem.byte_store_outside, s.crewByte_eq]
    by_cases hs : sp = spad
    · exact .inr (by by_contra hc; exact h ⟨hs, by omega, by omega⟩)
    · exact .inl fun hc => hs (spOf_inj.mp hc)

theorem State.reads_logOp (s : State) (r : LogRecord) : s.reads (s.logOp r) s.crew.spp s.crewByte := by
  rw [s.logOp_frame r]
  exact ⟨rfl, fun _ _ => rfl, rfl, fun _ _ => rfl, s.mem.coreKept_refl⟩

/-! ## Accesses lie in one granule -/

/-- An aligned access of one, two, four or eight bytes lies in one granule, since allocations begin at one (R55, R190). -/
theorem State.place_fits {s : State} {slot : Nat} {spad : Bool} {off n a : Nat} (hlo : 64 ∣ (s.crewAt slot).bmemLo)
    (hn : n ∈ [1, 2, 4, 8]) (hoff : off % n = 0) (h : s.place slot spad off n = some a) : a % 64 + n ≤ 64 := by
  have ha : a % 64 = off % 64 := by
    unfold State.place at h
    dsimp only at h
    split at h
    · rw [Option.ite_none_right_eq_some] at h
      have := Option.some.inj h.2
      unfold spadBase at this
      omega
    · rw [Option.ite_none_right_eq_some] at h
      have := Option.some.inj h.2
      unfold bmemBase at this
      omega
  simp only [List.mem_cons, List.not_mem_nil, or_false] at hn
  rcases hn with rfl | rfl | rfl | rfl <;> omega

end Sys2Proof.Machine
end

section
/-! Scalar loads, stores and their addresses (O6), and the scalar atomic (O7). -/

namespace Sys2Proof.Machine

/-! ## Completion of a word that went through the window -/

/-- A word that went on at the next one wrote no register. -/
theorem State.wrote_of_wentTo {s t : State} (h : s.wentTo t (s.split.spc + 4)) : s.wrote t 0 0 := by
  obtain ⟨⟨honly, hcrew, hsplits, hsplit⟩, hin⟩ := h
  refine ⟨honly, ?_, hsplits, ?_, fun r => ?_⟩
  · rw [hcrew, hin]
  · rw [hsplit]
  · rw [if_neg fun h => h.2 h.1]
    have hcs : t.curSplit = s.curSplit := by rw [honly.1]
    have hsp : t.crew.split s.curSplit = { s.split with spc := s.split.spc + 4, wait := .none } := hcs ▸ hsplit
    unfold State.sreg Crew.sreg
    rw [hcs, hsp, hcrew]
    rfl

/-- A word that wrote a register after a change of memory through the crew's window (R146, R147). -/
theorem State.stored_of_wrote {s u t : State} {spad : Bool} {a : Nat} {bs : List Byte} {d : RegNo} {v : Word}
    (hu : s.reads u s.crew.spp fun sp k =>
      if sp = spad ∧ a ≤ k ∧ k < a + bs.length then bs.getD (k - a) 0 else s.crewByte sp k)
    (hmem : ∀ sp k, ¬(sp = spad ∧ a ≤ k ∧ k < a + bs.length) →
      u.mem.byte (spOf sp) k = s.mem.byte (spOf sp) k ∨ u.mem.byte (spOf sp) k = s.crewByte sp k)
    (h : u.wrote t d v) : s.stored t spad a bs d v := by
  obtain ⟨hframe, hothers, hcrew, hbyte, hkept⟩ := hu
  obtain ⟨⟨honly, honlyOthers⟩, htcrew, hsplits, hsplit, hreg⟩ := h
  have hcur : u.cur = s.cur := by rw [hframe]
  have hcs : u.curSplit = s.curSplit := by rw [hframe]
  have hm : t.mem = u.mem := by rw [honly]
  have hspl : u.split = s.split := by
    unfold State.split
    rw [hcrew, hcs]
    rfl
  have hread (sp : Bool) (k : Nat) : t.crewByte sp k = u.crewByte sp k :=
    State.crewByte_congr (by rw [htcrew]) hm sp k
  refine ⟨?_, fun n hn => ?_, ?_, fun k hk => ?_, ?_, fun r => ?_, fun sp k hin => ?_, fun sp k hout => ⟨?_, ?_⟩, ?_⟩
  · rw [honly, hframe]
  · rw [honlyOthers n (by rwa [hcur]), hothers n hn]
  · rw [htcrew, hcrew]
  · rw [hsplits k (by rwa [hcs]), hcrew]
    rfl
  · rw [hsplit, hspl]
  · rw [hreg r]
    unfold State.sreg
    rw [hcrew, hcs]
    rfl
  · rw [hread, hbyte]
    exact if_pos hin
  · rw [hread, hbyte]
    exact if_neg hout
  · rw [hm]
    exact hmem sp k hout
  · rw [hm]
    exact hkept

/-! ## SLD and SST (R131, R133, R146) -/

theorem ea_eq (x : Word) (i : BitVec 16) : x + i.signExtend 32 = .ofInt 32 (x.toInt + i.toInt) := by
  rw [BitVec.ofInt_add, BitVec.ofInt_toInt]
  rfl

theorem widExtend_eq (wid v : Nat) : widExtend wid v =
    if wid = 1 then .ofInt 32 (BitVec.ofNat 8 v).toInt
    else if wid = 3 then .ofInt 32 (BitVec.ofNat 16 v).toInt else .ofNat 32 v := by
  unfold widExtend
  split
  · rfl
  · rfl
  · next h1 h3 => rw [if_neg h1, if_neg h3]

section
variable {s : State} {d a : RegNo} {i : BitVec 16} (hidle : s.crew.memoryIdle)
include hidle

theorem execSld_idle : exec (.sld d a i) s =
    match s.scalarAddr s.cur (.ofInt 32 ((s.sreg a).toInt + i.toInt)) with
    | none => .next (s.rangeRaise (.ofInt 32 ((s.sreg a).toInt + i.toInt)))
    | some p =>
      if s.mem.poisoned (spOf p.spad) p.addr (widBytes p.wid) then
        .next (s.poisonRaise (.ofInt 32 ((s.sreg a).toInt + i.toInt)))
      else .next (s.write d (widExtend p.wid (leNat (s.crew.load s.mem p.spad p.addr (widBytes p.wid))))) := by
  show execSld d a i s = _
  unfold execSld
  rw [hidle, ← ea_eq]
  rfl

theorem execSst_idle : exec (.sst d a i) s =
    match s.scalarAddr s.cur (.ofInt 32 ((s.sreg a).toInt + i.toInt)) with
    | none => .next (s.rangeRaise (.ofInt 32 ((s.sreg a).toInt + i.toInt)))
    | some p => .next (s.windowStore s.cur p.spad p.addr (leBytes (widBytes p.wid) (s.sreg d).toNat)).done := by
  show execSst d a i s = _
  unfold execSst
  rw [hidle, ← ea_eq]
  rfl

end

theorem scalarLoad : Claim.ScalarLoad := by
  intro s d a i hidle ea
  simp only [Completes, execSld_idle hidle]
  refine ⟨fun p hp => ⟨fun hclean => ?_, fun hpois => ?_⟩, fun hnone => ?_⟩
  · have hw := s.write_wrote d (widExtend p.wid (leNat (s.crew.load s.mem p.spad p.addr (widBytes p.wid))))
    rw [widExtend_eq, Crew.load_eq] at hw
    refine ⟨_, ?_, hw⟩
    simp only [ea] at hp
    simp only [hp, hclean, widExtend_eq, Crew.load_eq]
    rfl
  · simp only [ea] at hp
    simp only [hp, hpois, if_true]
    rfl
  · simp only [ea] at hnone
    simp only [hnone]
    rfl

/-! ## What a scalar address is (R133) -/

theorem widBytes_eq (n : Nat) : widBytes n = if n = 0 then 4 else if n = 1 ∨ n = 2 then 1 else 2 := by
  unfold widBytes
  split <;> simp_all

theorem widBytes_mem (n : Nat) : widBytes n ∈ [1, 2, 4, 8] := by
  rw [widBytes_eq]
  split
  · decide
  · split <;> decide

/-- The fields of a scalar address as numbers. -/
theorem scalarFields (a : Word) : (a.extractLsb' 29 3).toNat = a.toNat / 2 ^ 29 ∧
    (a.extractLsb' 27 2).toNat = a.toNat / 2 ^ 27 % 4 ∧ (a.extractLsb' 0 27).toNat = a.toNat % 2 ^ 27 := by
  have hlt : a.toNat < 2 ^ 32 := a.isLt
  simp only [BitVec.extractLsb'_toNat, Nat.shiftRight_eq_div_pow, Nat.pow_zero, Nat.div_one, and_true]
  omega

/-- Where n bytes at an offset lie (R55, R126). -/
theorem State.place_eq (s : State) (slot : Nat) (spad : Bool) (off n : Nat) : s.place slot spad off n =
    if spad then
      if (s.partition (s.crewAt slot).part).rowsOpen (slotDie slot) off n then some (2 ^ 26 * slotDie slot + off) else none
    else if off + n ≤ (s.crewAt slot).bmemLen then some (2 ^ 18 * slotCore slot + (s.crewAt slot).bmemLo + off)
    else none := rfl

theorem scalarAddresses : Claim.ScalarAddresses := by
  intro s slot a wid sp off c n
  obtain ⟨hwid, hsp, hoff⟩ := scalarFields a
  have hn : widBytes wid = n := widBytes_eq wid
  unfold State.scalarAddr State.scalarAddrN
  simp only [hwid, hsp, hoff]
  show (if wid ≥ 5 || sp ≥ 2 || off % widBytes wid != 0 then none
    else (s.place slot (sp == 1) off (widBytes wid)).map fun k => (⟨sp == 1, k, off, wid⟩ : ScalarAddr)) = _
  rw [hn]
  by_cases hbad : 5 ≤ wid ∨ 2 ≤ sp ∨ off % n ≠ 0
  · rw [if_pos hbad, if_pos]
    simpa [or_assoc] using hbad
  · rw [if_neg hbad, if_neg]
    · have hsp01 : sp = 0 ∨ sp = 1 := by omega
      rcases hsp01 with h | h
      · simp only [h, State.place_eq, if_true, show ((0 : Nat) == 1) = false from rfl, Bool.false_eq_true, if_false]
        split <;> rfl
      · simp only [h, State.place_eq, beq_self_eq_true, if_true, Nat.one_ne_zero, if_false]
        split <;> rfl
    · simpa [or_assoc] using hbad

/-- A scalar address that is accepted is placed, at an offset that is a multiple of its width. -/
theorem State.place_of_scalarAddrN {s : State} {slot n : Nat} {a : Word} {p : ScalarAddr}
    (h : s.scalarAddrN slot a n = some p) :
    s.place slot p.spad p.off n = some p.addr ∧ p.off % widBytes p.wid = 0 ∧ p.wid = a.toNat / 2 ^ 29 := by
  unfold State.scalarAddrN at h
  simp only [(scalarFields a).1] at h
  split at h
  · cases h
  · next hok =>
    obtain ⟨k, hk, rfl⟩ := Option.map_eq_some_iff.mp h
    refine ⟨hk, ?_, rfl⟩
    simp only [Bool.or_eq_true, not_or, bne_iff_ne, ne_eq, not_not] at hok
    exact hok.2

theorem scalarStore : Claim.ScalarStore := by
  intro s d a i hidle hw hlo ea
  simp only [Completes, execSst_idle hidle]
  refine ⟨fun p hp => ?_, fun hnone => ?_⟩
  · have hlen : (leBytes (widBytes p.wid) (s.sreg d).toNat).length = widBytes p.wid := leBytes_length _ _
    have ⟨hplace, hoff, hwid⟩ := State.place_of_scalarAddrN hp
    rw [show (ea.extractLsb' 29 3).toNat = p.wid by rw [(scalarFields ea).1, hwid]] at hplace
    obtain ⟨-, hspills, hreads⟩ := State.windowStore_reads (spad := p.spad) hw (leBytes (widBytes p.wid) (s.sreg d).toNat)
      (by rw [hlen]; exact State.place_fits hlo (widBytes_mem _) hoff hplace)
    refine ⟨_, ?_, State.stored_of_wrote hreads (fun sp k _ => hspills sp k)
      (State.wrote_of_wentTo (State.jump_wentTo _ _))⟩
    simp only [ea] at hp
    simp only [hp]
    rfl
  · simp only [ea] at hnone
    simp only [hnone]
    rfl

/-- Settles O6. -/
theorem scalarMemory : Obligations.ScalarMemory := ⟨scalarLoad, scalarStore, scalarAddresses⟩

end Sys2Proof.Machine
end

section
/-! One lane of an atomic at the array or buffered (R36, R195), and the scalar atomic (O7). -/

namespace Sys2Proof.Machine

/-! ## Integers of a type -/

theorem intOf_mod (t : IntTy) (v : Nat) : intOf t (v % 2 ^ t.width) = intOf t v := by
  unfold intOf
  simp only [Nat.mod_mod]

/-- An integer of a type has the bits that it was read from. -/
theorem intOf_emod (t : IntTy) (v : Nat) : (intOf t v % 2 ^ t.width).toNat = v % 2 ^ t.width := by
  unfold intOf
  dsimp only
  have h : ((v % 2 ^ t.width : Nat) : Int) % 2 ^ t.width = ((v % 2 ^ t.width : Nat) : Int) :=
    Int.emod_eq_of_lt (by omega) (by exact_mod_cast Nat.mod_lt v (by positivity))
  split
  · rw [Int.sub_emod_right, h, Int.toNat_natCast]
  · rw [h, Int.toNat_natCast]

theorem intBits_intOf (t : IntTy) (v : Nat) : intBits t (intOf t v) = BitVec.ofInt 64 (intOf t v) := by
  unfold intBits
  rw [intOf_emod, intOf_mod]

theorem setWidth_ofInt (z : Int) : (BitVec.ofInt 64 z).setWidth 32 = BitVec.ofInt 32 z := by
  apply BitVec.eq_of_toNat_eq
  simp only [BitVec.toNat_setWidth, BitVec.toNat_ofInt]
  omega

/-! ## One lane of an atomic (R35, R36, R195) -/

section
variable {s : State} {spad : Bool} {a : Nat} (hnone : windowFind s.crew.window spad (a / 64) = none)
include hnone

/-- The drain of a granule without an entry changes no memory. -/
theorem State.mem_drainGranule_of_none : (s.drainGranule s.cur spad a).mem = s.mem := by
  have hnil : (s.crew.window.filter fun e => e.spad == spad && e.granule == a / 64) = [] :=
    List.filter_eq_nil_iff.mpr fun e he => by simpa using windowFind_eq_none.mp hnone e he
  unfold State.drainGranule
  rw [s.mem_drainIf, hnil]
  rfl

theorem State.crew_drainGranule_of_none : (s.drainGranule s.cur spad a).crew = s.crew := by
  have hall : (s.crew.window.filter fun e => !(e.spad == spad && e.granule == a / 64)) = s.crew.window :=
    List.filter_eq_self.mpr fun e he => by
      have hmiss := windowFind_eq_none.mp hnone e he
      simp only [Bool.not_eq_true', Bool.and_eq_false_iff, beq_eq_false_iff_ne]
      tauto
  unfold State.drainGranule
  rw [s.crew_drainIf, hall]

end

/-- What atomic o leaves of the bytes that a crew reads, if it acts. -/
def AtomOp.on (o : AtomOp) (read : Bool → Nat → Byte) (sp : Bool) (k : Nat) : Byte :=
  if sp = o.spad ∧ o.addr ≤ k ∧ k < o.addr + o.bytes then
    .ofNat 8 ((o.apply (leNat ((List.range o.bytes).map fun j => read o.spad (o.addr + j)))).1 / 2 ^ (8 * (k - o.addr)))
  else read sp k

/-- The value that atomic o finds. -/
def AtomOp.old (o : AtomOp) (read : Bool → Nat → Byte) : Nat :=
  leNat ((List.range o.bytes).map fun j => read o.spad (o.addr + j))

section
variable {s : State} (hw : windowUnique s.crew.window) {o : AtomOp}
include hw

theorem State.atomLane_unique : windowUnique (s.atomLane o).1.crew.window := by
  have hu := State.unique_drainIf hw fun e => e.spad == o.spad && e.granule == o.addr / 64
  unfold State.atomLane
  dsimp only
  split
  · exact hu
  · exact hu

/-- A lane whose location is poisoned leaves every byte (R195). -/
theorem State.atomLane_poisoned (h : (s.drainGranule s.cur o.spad o.addr).mem.poisoned (spOf o.spad) o.addr o.bytes = true) :
    (s.atomLane o).2 = ⟨0, true, 0⟩ ∧ (s.atomLane o).1.mem = (s.drainGranule s.cur o.spad o.addr).mem ∧
      s.reads (s.atomLane o).1 s.crew.spp s.crewByte := by
  unfold State.atomLane
  simp only [h, if_true]
  exact ⟨trivial, trivial, State.reads_drainIf hw _⟩

/-- A lane acts on the bytes that the crew reads at its location (R195). -/
theorem State.atomLane_acts (hfit : o.addr % 64 + o.bytes ≤ 64)
    (h : (s.drainGranule s.cur o.spad o.addr).mem.poisoned (spOf o.spad) o.addr o.bytes = false) :
    (s.atomLane o).2 = ⟨o.value (o.old s.crewByte), false, (o.apply (o.old s.crewByte)).2⟩ ∧
      (s.atomLane o).1.mem = (s.drainGranule s.cur o.spad o.addr).mem.storeNat (spOf o.spad) o.addr o.bytes
        (o.apply (o.old s.crewByte)).1 ∧
      s.reads (s.atomLane o).1 s.crew.spp (o.on s.crewByte) := by
  have hd := State.reads_drainIf hw fun e => e.spad == o.spad && e.granule == o.addr / 64
  have hnone : windowFind (s.drainGranule s.cur o.spad o.addr).crew.window o.spad (o.addr / 64) = none :=
    State.windowFind_drainGranule hw _ _
  have hbyte (j : Nat) (hj : j < o.bytes) :
      (s.drainGranule s.cur o.spad o.addr).mem.byte (spOf o.spad) (o.addr + j) = s.crewByte o.spad (o.addr + j) := by
    rw [← hd.2.2.2.1, ← State.crewByte_of_find_none (by rwa [show (o.addr + j) / 64 = o.addr / 64 by omega])]
    rfl
  have hold : (s.drainGranule s.cur o.spad o.addr).mem.nat (spOf o.spad) o.addr o.bytes = o.old s.crewByte := by
    rw [Mem.nat_eq]
    exact congrArg leNat (List.map_congr_left fun j hj => hbyte j (List.mem_range.mp hj))
  have hstore := State.reads_store (s := s.drainGranule s.cur o.spad o.addr) (spad := o.spad) (a := o.addr)
    (leBytes o.bytes (o.apply (o.old s.crewByte)).1) (by rwa [leBytes_length]) hnone
  unfold State.atomLane
  simp only [h, hold, Bool.false_eq_true, if_false]
  refine ⟨trivial, trivial, State.reads_congr (State.reads_then hd hstore) fun sp k => ?_⟩
  rw [leBytes_length]
  refine ite_congr rfl (fun hin => ?_) fun _ => hd.2.2.2.1 sp k
  rw [getD_leBytes _ _ _ (by omega)]
  rfl

end

theorem Crew.keepRead_eq (c : Crew) (m : Mem) (spad : Bool) (a n : Nat) :
    c.keepRead m spad a n = { c with firstReads := (c.keepRead m spad a n).firstReads } := by
  unfold Crew.keepRead
  split <;> rfl

/-- The update that a buffered lane keeps (R36). -/
def AtomOp.update (o : AtomOp) : Buffered :=
  ⟨o.spad, o.addr, o.ty, BitVec.ofNat 3 o.op, o.b, o.mode, BitVec.ofNat 16 o.rnd.draw, o.fmtr, o.lane⟩

/-- A buffered lane on a location that is not poisoned and of which the window holds nothing: the crew keeps its first read
and the update, and memory stays (R36). -/
theorem State.bufferLane_keeps {s : State} {o : AtomOp} (hnone : windowFind s.crew.window o.spad (o.addr / 64) = none)
    (h : s.mem.poisoned (spOf o.spad) o.addr o.bytes = false) :
    (s.bufferLane o).2 = ⟨o.value (s.crew.firstRead s.mem o.spad o.addr o.bytes), false, 0⟩ ∧
      s.onlyCrew (s.bufferLane o).1 ∧
      (s.bufferLane o).1.crew = { s.crew with
        firstReads := (s.crew.keepRead s.mem o.spad o.addr o.bytes).firstReads
        buffered := s.crew.buffered ++ [o.update] } := by
  have hmem := State.mem_drainGranule_of_none hnone
  have hcrew := State.crew_drainGranule_of_none hnone
  have hdrain : s.onlyCrew (s.drainGranule s.cur o.spad o.addr) := by
    refine ⟨?_, fun n hn => (s.crewAt_drainIf s.cur n _).trans (if_neg hn)⟩
    conv_lhs => rw [State.drainGranule, s.drainIf_frame]
    rw [← State.drainGranule, hmem]
  unfold State.bufferLane
  simp only [hmem, h, hcrew, Bool.false_eq_true, if_false]
  refine ⟨trivial, State.onlyCrew_trans hdrain (State.onlyCrew_updCrew _ _), ?_⟩
  rw [State.crew_updCrew, hcrew, Crew.keepRead_eq]
  rfl

theorem State.sreg_reads {s u : State} {spp : Nat} {read : Bool → Nat → Byte} (h : s.reads u spp read) (r : RegNo) :
    u.sreg r = s.sreg r := by
  obtain ⟨hframe, -, hcrew, -⟩ := h
  unfold State.sreg
  rw [hcrew, show u.curSplit = s.curSplit by rw [hframe]]
  rfl

/-! ## SATM (R36, R147) -/

/-- What SATM does at its address: operation o of width w with sB, and sD as what cas compares. -/
def State.satmOp (s : State) (d b : RegNo) (w o : BitVec 3) (p : ScalarAddr) : AtomOp :=
  { spad := p.spad, addr := p.addr, ty := widType w.toNat, op := o.toNat, lane := 0
    b := if o == 7 then (s.sreg d).setWidth 64 else (s.sreg b).setWidth 64
    swap := if o == 7 then some ((s.sreg b).setWidth 64) else none
    rnd := .rne, mode := 0, fmtr := 0 }

theorem widType_lt (n : Nat) : widType n < 16 := by
  unfold widType
  split <;> decide

theorem width_widType {n : Nat} (h : n < 5) : (intTy (widType n)).width = 8 * widBytes n := by
  obtain rfl | rfl | rfl | rfl | rfl : n = 0 ∨ n = 1 ∨ n = 2 ∨ n = 3 ∨ n = 4 := by omega
  all_goals rfl

theorem signed_widType {w : BitVec 3} (hw : w.toNat < 5) :
    (intTy (widType w.toNat)).signed = decide (w = 0 ∨ w = 1 ∨ w = 3) := by
  revert hw
  revert w
  decide

/-- The value of an access as an integer: signed for I32, I8 and I16 (R133, R147). -/
theorem intOf_widType {w : BitVec 3} (hw : w.toNat < 5) {v : Nat} (hv : v < 2 ^ (8 * widBytes w.toNat)) :
    intOf (intTy (widType w.toNat)) v =
      if w = 0 ∨ w = 1 ∨ w = 3 then
        (if 2 * v < 2 ^ (8 * widBytes w.toNat) then (v : Int) else (v : Int) - 2 ^ (8 * widBytes w.toNat))
      else (v : Int) := by
  have hhalf : 2 ^ (8 * widBytes w.toNat) = 2 * 2 ^ (8 * widBytes w.toNat - 1) := by
    rw [← pow_succ', Nat.sub_add_cancel]
    have := widBytes_mem w.toNat
    simp only [List.mem_cons, List.not_mem_nil, or_false] at this
    omega
  unfold intOf
  rw [width_widType hw, signed_widType hw, Nat.mod_eq_of_lt hv]
  by_cases hs : w = 0 ∨ w = 1 ∨ w = 3
  · rw [if_pos hs, decide_eq_true hs]
    by_cases hlt : 2 * v < 2 ^ (8 * widBytes w.toNat)
    · simp [hlt, show ¬2 ^ (8 * widBytes w.toNat - 1) ≤ v by omega]
    · simp [hlt, show 2 ^ (8 * widBytes w.toNat - 1) ≤ v by omega]
  · rw [if_neg hs, decide_eq_false hs]
    simp

section
variable {s : State} {d a b : RegNo} {sc w o : BitVec 3} {p : ScalarAddr}

theorem State.bytes_satmOp (hw : w.toNat < 5) : (s.satmOp d b w o p).bytes = widBytes w.toNat := by
  show (if widType w.toNat < 16 then _ else _) = _
  rw [if_pos (widType_lt _)]
  show (intTy (widType w.toNat)).width / 8 = _
  rw [width_widType hw]
  omega

/-- The old value in sD (R147). -/
theorem State.value_satmOp (old : Nat) :
    ((s.satmOp d b w o p).value old).setWidth 32 = .ofInt 32 (intOf (intTy (widType w.toNat)) old) := by
  show (if widType w.toNat < 16 then _ else _ : DWord).setWidth 32 = _
  rw [if_pos (widType_lt _)]
  show (intBits (intTy (widType w.toNat)) (intOf (intTy (widType w.toNat)) old)).setWidth 32 = _
  rw [intBits_intOf, setWidth_ofInt]

theorem State.apply_satmOp (ho : o ≠ 7) (old : Nat) :
    ((s.satmOp d b w o p).apply old).1 = atomicInt (intTy (widType w.toNat)) o.toNat old (s.sreg b).toNat := by
  have hlt : (s.sreg b).toNat < 2 ^ 64 := lt_trans (s.sreg b).isLt (by decide)
  have hb : (s.satmOp d b w o p).b.toNat = (s.sreg b).toNat := by
    simp only [State.satmOp, beq_iff_eq, ho, if_false, BitVec.toNat_setWidth]
    exact Nat.mod_eq_of_lt hlt
  have hswap : (s.satmOp d b w o p).swap = none := if_neg (by rwa [beq_iff_eq])
  unfold AtomOp.apply
  rw [hswap, hb]
  show (if widType w.toNat < 16 then _ else _ : Nat × Flags).1 = _
  rw [if_pos (widType_lt _)]
  rfl

theorem State.apply_satmOp_cas (hw : w.toNat < 5) (old : Nat) :
    ((s.satmOp d b w 7 p).apply old).1 =
      if old = (s.sreg d).toNat % 2 ^ (8 * widBytes w.toNat) then (s.sreg b).toNat % 2 ^ (8 * widBytes w.toNat) else old := by
  have hlt (r : RegNo) : (s.sreg r).toNat < 2 ^ 64 := lt_trans (s.sreg r).isLt (by decide)
  unfold AtomOp.apply
  rw [State.bytes_satmOp hw]
  simp only [State.satmOp, beq_self_eq_true, if_true, BitVec.toNat_setWidth, Nat.mod_eq_of_lt (hlt _)]

section
variable (hw : w.toNat < 5) (hsc : sc.toNat < 6) (hidle : s.crew.memoryIdle) (hu : windowUnique s.crew.window)
  (hea : (s.sreg a).toNat < 2 ^ 29)
  (hp : s.scalarAddrN s.cur (s.sreg a ||| w.setWidth 32 <<< 29) (widBytes w.toNat) = some p)
  (hclean : (s.drainGranule s.cur p.spad p.addr).mem.poisoned (spOf p.spad) p.addr (widBytes w.toNat) = false)
  (hready : s.replayReady (s.objRecord 0x1E none p.spad p.addr)) (ho : s.settings.det → o ≠ 7)
include hw hsc hidle hu hea hp hclean hready ho

/-- SATM whose checks pass, on memory words done, at the array or buffered (R147). -/
theorem execSatm_acts : exec (.satm d a b sc w o) s = .next (
    let u := (s.drainGranule s.cur p.spad p.addr).logOp (s.objRecord 0x1E none p.spad p.addr)
    let r := if s.settings.det then u.bufferLane (s.satmOp d b w o p) else u.atomLane (s.satmOp d b w o p)
    r.1.write d (r.2.val.setWidth 32)) := by
  have hfield : (s.sreg a).extractLsb' 29 3 = 0 := by
    apply BitVec.eq_of_toNat_eq
    rw [(scalarFields _).1]
    exact Nat.div_eq_of_lt hea
  have hcodes : ¬(5 ≤ w ∨ 6 ≤ sc) := by
    rw [BitVec.le_def, BitVec.le_def]
    exact not_or.mpr ⟨Nat.not_le.mpr hw, Nat.not_le.mpr hsc⟩
  have hdet : (s.settings.det && o == 7) = false := by
    cases hd : s.settings.det with
    | false => rfl
    | true => simpa using ho hd
  show execSatm d a b sc w o s = _
  unfold execSatm
  simp only [hcodes, hdet, hidle, hfield, hp, hready, hclean, if_true, if_false, Bool.false_and, Bool.false_eq_true,
    Bool.not_true]
  have hsreg (r : RegNo) := State.sreg_reads (State.reads_then
    (State.reads_drainIf hu fun e => e.spad == p.spad && e.granule == p.addr / 64)
    (State.reads_logOp _ (s.objRecord 0x1E none p.spad p.addr))) r
  have hbuf : (s.settings.det && !o == 7) = s.settings.det := by
    cases hd : s.settings.det with
    | false => rfl
    | true => simpa using ho hd
  rw [State.satmOp, ← hsreg d, ← hsreg b, hbuf]
  rfl

end

end

/-- The integer of a value of width w: signed for I32, I8 and I16 (R147). -/
def widInt (w : BitVec 3) (v : Nat) : Int :=
  if w = 0 ∨ w = 1 ∨ w = 3 then
    (if 2 * v < 2 ^ (8 * widBytes w.toNat) then (v : Int) else (v : Int) - 2 ^ (8 * widBytes w.toNat))
  else v

/-- The new value of SATM's operation o of width w on an old one (R147): y from sB, cas comparing with x from sD. -/
def satmNew (w : BitVec 3) (o x y old : Nat) : Nat :=
  match o with
  | 0 => (old + y) % 2 ^ (8 * widBytes w.toNat)
  | 1 => if widInt w old ≤ widInt w y then old else y
  | 2 => if widInt w old ≤ widInt w y then y else old
  | 3 => old &&& y
  | 4 => old ||| y
  | 5 => old ^^^ y
  | 6 => y
  | _ => if old = x then y else old

theorem atomicInt_widType {w : BitVec 3} (hw : w.toNat < 5) {o : Nat} (ho : o < 7) {old : Nat}
    (hold : old < 2 ^ (8 * widBytes w.toNat)) (x b : Nat) :
    atomicInt (intTy (widType w.toNat)) o old b = satmNew w o x (b % 2 ^ (8 * widBytes w.toNat)) old := by
  have hy : b % 2 ^ (8 * widBytes w.toNat) < 2 ^ (8 * widBytes w.toNat) := Nat.mod_lt _ (by positivity)
  unfold atomicInt
  simp only [width_widType hw, Nat.mod_eq_of_lt hold, intOf_widType hw hold, intOf_widType hw hy]
  obtain rfl | rfl | rfl | rfl | rfl | rfl | rfl : o = 0 ∨ o = 1 ∨ o = 2 ∨ o = 3 ∨ o = 4 ∨ o = 5 ∨ o = 6 := by omega
  all_goals rfl

theorem State.apply_satmOp_eq {s : State} {d b : RegNo} {w o : BitVec 3} {p : ScalarAddr} (hw : w.toNat < 5) {old : Nat}
    (hold : old < 2 ^ (8 * widBytes w.toNat)) :
    ((s.satmOp d b w o p).apply old).1 = satmNew w o.toNat ((s.sreg d).toNat % 2 ^ (8 * widBytes w.toNat))
      ((s.sreg b).toNat % 2 ^ (8 * widBytes w.toNat)) old := by
  by_cases ho : o = 7
  · subst ho
    exact State.apply_satmOp_cas hw old
  · rw [State.apply_satmOp ho]
    have ho7 : o.toNat ≠ 7 := fun h => ho (BitVec.eq_of_toNat_eq h)
    exact atomicInt_widType hw (by have := o.isLt; omega) hold _ _

theorem leNat_lt (bs : List Byte) : leNat bs < 2 ^ (8 * bs.length) := by
  induction bs with
  | nil => decide
  | cons b rest ih =>
    have hb := b.isLt
    rw [List.length_cons, Nat.mul_succ, pow_add]
    simp only [leNat]
    omega

theorem leNat_bytes_lt (read : Nat → Byte) (n : Nat) : leNat ((List.range n).map read) < 2 ^ (8 * n) := by
  have h := leNat_lt ((List.range n).map read)
  rwa [List.length_map, List.length_range] at h

/-- The state that SATM acts in: the granule drained, the record in the ordering log. -/
theorem State.reads_drainGranule_logOp {s : State} (hw : windowUnique s.crew.window) (spad : Bool) (a : Nat)
    (record : LogRecord) :
    let u := (s.drainGranule s.cur spad a).logOp record
    s.reads u s.crew.spp s.crewByte ∧ windowUnique u.crew.window ∧ windowFind u.crew.window spad (a / 64) = none ∧
      s.spills u ∧ u.mem = (s.drainGranule s.cur spad a).mem := by
  intro u
  have hdrain := State.reads_drainIf hw fun e => e.spad == spad && e.granule == a / 64
  have hkept : u.crew = (s.drainGranule s.cur spad a).crew ∧ u.mem = (s.drainGranule s.cur spad a).mem := by
    rw [show u = _ from State.logOp_frame _ record]
    exact ⟨rfl, rfl⟩
  have hspills : s.spills (s.drainGranule s.cur spad a) := State.spills_drainIf hw _
  refine ⟨State.reads_congr (State.reads_then hdrain (State.reads_logOp _ record)) hdrain.2.2.2.1, ?_, ?_, ?_, hkept.2⟩
  · rw [hkept.1]
    exact State.unique_drainIf hw _
  · rw [hkept.1]
    exact State.windowFind_drainGranule hw _ _
  · unfold State.spills
    rwa [hkept.2]

section
variable {s u : State} {d a b : RegNo} {sc w o : BitVec 3} {p : ScalarAddr} (hw : w.toNat < 5)
  (hreads : s.reads u s.crew.spp s.crewByte) (hu : windowUnique u.crew.window)
  (hnone : windowFind u.crew.window p.spad (p.addr / 64) = none)
  (hclean : u.mem.poisoned (spOf p.spad) p.addr (widBytes w.toNat) = false)
include hw hreads hu hnone hclean

/-- SATM at the array stores what its operation gives and returns the old value (R147). -/
theorem State.stored_atomLane (hspills : s.spills u) (hfit : p.addr % 64 + widBytes w.toNat ≤ 64) :
    let r := u.atomLane (s.satmOp d b w o p)
    let old := leNat ((List.range (widBytes w.toNat)).map fun j => s.crewByte p.spad (p.addr + j))
    s.stored (r.1.write d (r.2.val.setWidth 32)) p.spad p.addr (leBytes (widBytes w.toNat) (satmNew w o.toNat
      ((s.sreg d).toNat % 2 ^ (8 * widBytes w.toNat)) ((s.sreg b).toNat % 2 ^ (8 * widBytes w.toNat)) old)) d
      (.ofInt 32 (widInt w old)) := by
  intro r old
  have hread (sp : Bool) (k : Nat) : u.crewByte sp k = s.crewByte sp k := hreads.2.2.2.1 sp k
  have hbytes : (s.satmOp d b w o p).bytes = widBytes w.toNat := State.bytes_satmOp hw
  have hlt : old < 2 ^ (8 * widBytes w.toNat) := leNat_bytes_lt _ _
  have hold : (s.satmOp d b w o p).old u.crewByte = old := by
    unfold AtomOp.old
    rw [hbytes]
    exact congrArg leNat (List.map_congr_left fun j _ => hread _ _)
  have hdrained := State.mem_drainGranule_of_none hnone
  obtain ⟨hval, hstore, hact⟩ := State.atomLane_acts hu (o := s.satmOp d b w o p) (by rwa [hbytes]) (by
    show (u.drainGranule u.cur p.spad p.addr).mem.poisoned (spOf p.spad) p.addr (s.satmOp d b w o p).bytes = false
    rw [hdrained, hbytes, hclean])
  have hres : r.2.val.setWidth 32 = .ofInt 32 (widInt w old) := by
    rw [show r.2.val = _ from congrArg LaneRes.val hval, hold, State.value_satmOp, intOf_widType hw hlt]
    rfl
  have hnew := State.apply_satmOp_eq (s := s) (d := d) (b := b) (o := o) (p := p) hw hlt
  rw [hold, hnew] at hstore
  rw [hres]
  refine State.stored_of_wrote (State.reads_congr (State.reads_then hreads hact) fun sp k => ?_) (fun sp k hout => ?_)
    (r.1.write_wrote d _)
  · unfold AtomOp.on
    rw [leBytes_length, hbytes, hread]
    refine ite_congr rfl (fun hin => ?_) fun _ => rfl
    have hk : k - p.addr < widBytes w.toNat := by omega
    rw [getD_leBytes _ _ _ hk, ← hnew, ← hold, ← hbytes]
    rfl
  · have hsame : r.1.mem.byte (spOf sp) k = u.mem.byte (spOf sp) k := by
      rw [show r.1.mem = _ from hstore]
      refine (Mem.byte_store_outside _ _ _ _ _ _ ?_).trans (congrArg (fun m : Mem => m.byte (spOf sp) k) hdrained)
      rw [leBytes_length] at hout ⊢
      rw [hbytes]
      by_cases hs : sp = p.spad
      · exact .inr (not_and_or.mp (fun h => hout ⟨hs, h⟩) |>.imp Nat.lt_of_not_le Nat.le_of_not_lt)
      · exact .inl fun hc => hs (spOf_inj.mp hc)
    rw [hsame]
    exact hspills sp k

omit hu in
/-- SATM of a deterministic launch buffers its update and returns the first read (R36, R147). -/
theorem State.buffered_bufferLane :
    let r := u.bufferLane (s.satmOp d b w o p)
    let t := r.1.write d (r.2.val.setWidth 32)
    t.mem = u.mem ∧ t.sreg d = (if d = 0 then 0 else
      .ofInt 32 (intOf (intTy (widType w.toNat)) (u.crew.firstRead u.mem p.spad p.addr (widBytes w.toNat)))) ∧
      t.split.spc = s.split.spc + 4 ∧ t.crew.buffered = u.crew.buffered ++ [(s.satmOp d b w o p).update] := by
  intro r t
  have hbytes : (s.satmOp d b w o p).bytes = widBytes w.toNat := State.bytes_satmOp hw
  obtain ⟨hval, ⟨honly, -⟩, hcrew⟩ := State.bufferLane_keeps (o := s.satmOp d b w o p) hnone (by rwa [hbytes])
  obtain ⟨⟨hwonly, -⟩, hwcrew, -, hwsplit, hwreg⟩ := r.1.write_wrote d (r.2.val.setWidth 32)
  obtain ⟨hframe, -, hucrew, -⟩ := hreads
  refine ⟨?_, ?_, ?_, ?_⟩
  · rw [show t.mem = r.1.mem by rw [show t = _ from hwonly], show r.1 = _ from honly]
  · rw [show t.sreg d = _ from hwreg d, show r.2.val = _ from congrArg LaneRes.val hval, State.value_satmOp, hbytes]
    by_cases hd : d = 0
    · subst hd
      rw [if_neg fun h => h.2 rfl, if_pos rfl]
      rfl
    · rw [if_pos ⟨rfl, hd⟩, if_neg hd]
      rfl
  · rw [show t.split = _ from hwsplit]
    unfold State.split
    rw [show r.1.crew = _ from hcrew, show r.1.curSplit = s.curSplit by rw [show r.1 = _ from honly, hframe], hucrew]
    rfl
  · rw [show t.crew = _ from hwcrew]
    exact congrArg Crew.buffered hcrew

end

/-- The width that SATM puts into its address (R147). -/
theorem widField_or {ea : Word} {w : BitVec 3} (hea : ea.toNat < 2 ^ 29) :
    (ea ||| w.setWidth 32 <<< 29).toNat / 2 ^ 29 = w.toNat := by
  have hw := w.isLt
  have hshift : (w.setWidth 32 <<< 29).toNat = w.toNat * 2 ^ 29 := by
    rw [BitVec.toNat_shiftLeft, Nat.shiftLeft_eq, BitVec.toNat_setWidth]
    omega
  rw [BitVec.toNat_or, ← Nat.shiftRight_eq_div_pow, Nat.shiftRight_or_distrib, hshift, Nat.shiftRight_eq_div_pow,
    Nat.shiftRight_eq_div_pow, Nat.div_eq_of_lt hea, Nat.zero_or, Nat.mul_div_cancel _ (by decide)]

/-- Settles O7. -/
theorem scalarAtomic : Obligations.ScalarAtomic := by
  intro s d a b sc w o p ea n y old int new hw hsc hidle hu hlo hea hp hclean hready
  obtain ⟨hreads, hu', hnone, hspills, hmem⟩ :=
    State.reads_drainGranule_logOp hu p.spad p.addr (s.objRecord 0x1E none p.spad p.addr)
  rw [← hmem] at hclean
  refine ⟨fun hdet => ?_, fun hdet ho hwin => ?_⟩
  · refine ⟨_, execSatm_acts hw hsc hidle hu hea hp (by rwa [← hmem]) hready (fun h => by simp [hdet] at h), ?_⟩
    have ⟨hplace, hoff, hwid⟩ := State.place_of_scalarAddrN hp
    have hfit := State.place_fits hlo (widBytes_mem _) (by rwa [hwid, widField_or hea] at hoff) hplace
    simp only [hdet, Bool.false_eq_true, if_false]
    exact State.stored_atomLane (o := o) (d := d) (b := b) hw hreads hu' hnone hclean hspills hfit
  · refine ⟨_, execSatm_acts hw hsc hidle hu hea hp (by rwa [← hmem]) hready (fun _ => ho), ?_⟩
    simp only [hdet, if_true]
    obtain ⟨htmem, htreg, htsplit, htbuf⟩ := State.buffered_bufferLane (o := o) (d := d) (b := b) hw hreads hnone hclean
    have hsame : ((s.drainGranule s.cur p.spad p.addr).logOp (s.objRecord 0x1E none p.spad p.addr)).mem = s.mem :=
      hmem.trans (State.mem_drainGranule_of_none (Option.isNone_iff_eq_none.mp hwin))
    refine ⟨htmem.trans hsame, htreg.trans ?_, htsplit, (s.satmOp d b w o p).update, htbuf.trans ?_, rfl, rfl, ?_, ?_⟩
    · rw [hsame, hreads.2.2.1, ← intOf_mod, width_widType hw, intOf_widType hw (Nat.mod_lt _ (by positivity))]
      rfl
    · rw [hreads.2.2.1]
    · exact BitVec.eq_of_toNat_eq (by simp [AtomOp.update, State.satmOp])
    · have hb : (s.satmOp d b w o p).b = (s.sreg b).setWidth 64 := if_neg (by simpa using ho)
      show (s.satmOp d b w o p).b.toNat = _
      rw [hb, BitVec.toNat_setWidth]
      exact Nat.mod_eq_of_lt (lt_trans (s.sreg b).isLt (by decide))

end Sys2Proof.Machine
end

section
/-! RDRD, FXCK, the words that drain the store window, and FENCE.FLUSH (O9). -/

namespace Sys2Proof.Machine

/-! ## RDRD and FXCK (R152, R153) -/

theorem pairOk_of_even {d : RegNo} (h : d.toNat % 2 = 0) : pairOk d = true := by
  unfold pairOk
  rw [BitVec.getLsbD, Nat.testBit_zero, h]
  rfl

/-- What a completed word that writes a pair does (R94, R132). -/
theorem State.setSpair_wrotePair (s : State) {d : RegNo} (hd : d.toNat % 2 = 0) (v : DWord) :
    s.wrotePair (s.setSpair d v).done d v := by
  have hd1 : d + 1 ≠ 0 := fun h => by
    have := congrArg BitVec.toNat h
    rw [BitVec.toNat_add] at this
    change (d.toNat + 1) % 32 = 0 at this
    omega
  obtain ⟨honly, hcrew, hsplits, hsplit, hreg⟩ :=
    (s.setSreg d (v.extractLsb' 0 32)).write_wrote (d + 1) (v.extractLsb' 32 32)
  refine ⟨State.onlyCrew_trans (State.onlyCrew_updCrew s _) honly, ?_, fun k hk => ?_, ?_, fun r => ?_⟩
  · refine hcrew.trans ?_
    rw [State.crew_setSreg, Crew.setSreg_eq]
    rfl
  · refine (hsplits k hk).trans ?_
    rw [State.crew_setSreg]
    exact Crew.setSreg_split_ne _ _ _ hk
  · refine hsplit.trans ?_
    unfold State.split
    rw [State.crew_setSreg, State.setSreg_curSplit, Crew.setSreg_split]
    rfl
  · refine (hreg r).trans ?_
    unfold State.sreg
    rw [State.crew_setSreg, State.setSreg_curSplit, Crew.sreg_setSreg]
    by_cases hr : r = d + 1
    · rw [if_pos ⟨hr, hr ▸ hd1⟩, if_pos hr]
    · rw [if_neg fun h => hr h.1, if_neg hr]

theorem reductionsAndFlags : Claim.ReductionsAndFlags := by
  intro s d a m e t0
  have ht : t0 = (s.sreg a).setWidth 16 := BitVec.ofNat_toNat ..
  refine ⟨fun hd hissued hidle hdone hring hclean => ⟨_, ?_, s.setSpair_wrotePair hd e.val⟩, fun hd hissued => ?_,
    fun hidle hzero => ⟨_, ?_, State.jump_wentTo s _⟩, fun hidle hhit => ?_, fun hbusy => ⟨_, ?_, s.stay_stayed .lanes⟩⟩
  · have hnot : ¬(0x8000 ≤ s.crew.redSeq - t0) := by
      rw [BitVec.le_def]
      exact Nat.not_le.mpr hissued
    have hold : ¬(0x8000 ≤ s.crew.redDone - t0) := by
      rw [BitVec.le_def]
      exact Nat.not_le.mpr (lt_trans hdone (by decide))
    have hkept : ¬(4 ≤ s.crew.redDone - t0) := by
      rw [BitVec.le_def]
      exact Nat.not_le.mpr hdone
    show execRdrd d a s = _
    unfold execRdrd
    simp only [← ht, pairOk_of_even hd, hnot, hold, hkept, hidle, hring, hclean, Bool.not_true, Bool.false_eq_true,
      if_false, or_self]
  · have hlost : 0x8000 ≤ s.crew.redSeq - t0 := by
      rw [BitVec.le_def]
      exact hissued
    show execRdrd d a s = _
    unfold execRdrd
    simp only [← ht, pairOk_of_even hd, hlost, Bool.not_true, Bool.false_eq_true, if_false, if_true]
    rw [BitVec.ofNat_toNat]
  · show execFxck m s = _
    unfold execFxck
    simp only [hidle, hzero, Bool.not_true, Bool.false_eq_true, if_false, ne_eq, not_true_eq_false]
    rfl
  · show execFxck m s = _
    unfold execFxck
    simp only [hidle, hhit, Bool.not_true, Bool.false_eq_true, if_false, ne_eq, not_false_eq_true, if_true]
    rw [BitVec.ofNat_toNat]
  · show execFxck m s = _
    unfold execFxck
    simp only [hbusy, Bool.not_false, if_true]

/-! ## Words that drain the window (R24, R29, R33, R139) -/

section
variable {s : State} (hw : windowUnique s.crew.window)
include hw

/-- A word that drains the window and goes on. -/
theorem State.drain_done_drainedTo : s.drainedTo s.drain.done (s.crew.clock + 1) := by
  have hj := (s.drain.jump_wentTo (s.drain.split.spc + 4)).1
  rw [s.split_drain, show s.drain.crew.clock = s.crew.clock by rw [s.crew_drain]] at hj
  unfold State.done
  rw [s.split_drain]
  exact State.drainedTo_of_wentAt hw hj

/-- A word that drains the window and waits. -/
theorem State.drain_stay_emptied (w : Wait) : s.emptied (s.drain.stay w) ∧ (s.drain.stay w).split.spc = s.split.spc := by
  obtain ⟨⟨honly, -⟩, hcrew, -, hsplit⟩ := s.drain.stay_stayed w
  refine ⟨State.emptied_of_drain hw ?_ (by rw [honly]), ?_⟩
  · rw [hcrew, s.crew_drain]
  · rw [hsplit, s.split_drain]

end

theorem execFence_begun {s : State} {sc : BitVec 3} (hsc : sc.toNat < 6) (hidle : s.crew.lanesIdle) :
    exec (.fence sc) s =
      if 4 ≤ sc.toNat ∧ s.crew.writesOut s.curSplit then .next (s.drain.stay .sync) else .next s.drain.done := by
  have hcode : ¬(6 ≤ sc) := by
    rw [BitVec.le_def]
    exact Nat.not_le.mpr hsc
  have hcur : s.drain.curSplit = s.curSplit := by rw [s.drain_frame]
  have hout : s.drain.crew.writesOut s.drain.curSplit = s.crew.writesOut s.curSplit := by
    rw [s.crew_drain, hcur]
    rfl
  show execFence sc s = _
  unfold execFence
  simp only [hcode, hidle, Bool.not_true, Bool.false_eq_true, if_false, and_false, hout, BitVec.le_def]
  rfl

theorem execFence_busy {s : State} {sc : BitVec 3} (hsc : sc.toNat < 6) (hbusy : s.crew.lanesIdle = false)
    (hwait : s.split.wait ≠ .sync) : exec (.fence sc) s = .next (s.stay .lanes) := by
  have hcode : ¬(6 ≤ sc) := by
    rw [BitVec.le_def]
    exact Nat.not_le.mpr hsc
  show execFence sc s = _
  unfold execFence
  simp only [hcode, hbusy, hwait, Bool.not_false, if_false, ne_eq, not_false_eq_true, and_self, if_true]

theorem execYieldJn_done {s : State} (hwait : s.split.wait = .none) (hjn : s.crew.jcnt = 0) :
    exec .yieldJn s =
      .next ((s.drain.updCrew fun c => { c with cancelled := 0 }).doneSync s.drain.crew.childClock) := by
  show execYieldJn s = _
  unfold execYieldJn State.waitJoin
  simp only [hwait, reduceCtorEq, if_false, s.crew_drain, hjn, if_true, id]

/-- A split of a state with the same crew in focus. -/
theorem State.split_of_crew {s t : State} (hc : t.crew = s.crew) (hk : t.curSplit = s.curSplit) : t.split = s.split := by
  unfold State.split
  rw [hc, hk]

/-- An update that leaves the crew in focus as it is does not matter to the end of a synchronisation after it. -/
theorem State.doneSync_updCrew_wentAt {s : State} {f : Crew → Crew} (hf : f s.crew = s.crew) (clk : DWord) :
    s.wentAt ((s.updCrew f).doneSync clk) (s.split.spc + 4) ((if s.crew.clock < clk then clk else s.crew.clock) + 1) := by
  have hc : (s.updCrew f).crew = s.crew := (s.crew_updCrew f).trans hf
  obtain ⟨honly, hcrew, hsplits, hsplit⟩ := (s.updCrew f).doneSync_wentAt clk
  rw [hc] at hcrew hsplits
  rw [State.split_of_crew hc rfl] at hsplit
  exact ⟨State.onlyCrew_trans (s.onlyCrew_updCrew f) honly, hcrew, hsplits, hsplit⟩

theorem drainingWords : Claim.DrainingWords := by
  intro s sc a hw next
  have hgone : s.drainedTo s.drain.done next := State.drain_done_drainedTo hw
  have hheld := State.drain_stay_emptied hw .sync
  refine ⟨fun hidle => ⟨_, ?_, hgone⟩, fun hidle hsc hinside => ⟨_, ?_, hgone⟩, fun hidle hsc hpkg hout => ⟨_, ?_, hheld⟩,
    fun hbusy => ⟨⟨_, ?_, s.stay_stayed .lanes⟩, fun hsc hwait => ⟨_, execFence_busy hsc hbusy hwait, s.stay_stayed .lanes⟩⟩,
    ⟨_, hgone, rfl⟩, fun hev hwait hpast => ⟨_, ?_, hgone⟩, fun hwait hjn hcan hclk => ⟨_, execYieldJn_done hwait hjn, ?_⟩,
    fun hwait hjn => ⟨_, ?_, hheld⟩⟩
  · show execXfnc s = _
    unfold execXfnc
    simp only [hidle, Bool.not_true, Bool.false_eq_true, if_false]
  · rw [execFence_begun hsc hidle, if_neg]
    rintro ⟨hpkg, hout⟩
    exact hinside.elim (fun h => by omega) fun h => by simp [h] at hout
  · rw [execFence_begun hsc hidle, if_pos ⟨hpkg, hout⟩]
  · show execXfnc s = _
    unfold execXfnc
    simp only [hbusy, Bool.not_false, if_true]
  · have hheat : s.drain.heat = s.heat := by rw [s.drain_frame]
    show execYieldTime a s = _
    unfold execYieldTime
    simp only [pairOk_of_even hev, hwait, reduceCtorEq, hheat, hpast, Bool.not_true, Bool.false_eq_true, if_false, if_true]
  · have hfix : ({ s.drain.crew with cancelled := 0 } : Crew) = s.drain.crew := by
      rw [s.crew_drain, ← hcan]
    have hgo := State.doneSync_updCrew_wentAt (f := fun c => { c with cancelled := 0 }) hfix s.drain.crew.childClock
    have hclock : s.drain.crew.clock = s.crew.clock ∧ s.drain.crew.childClock = s.crew.childClock := by
      rw [s.crew_drain]
      exact ⟨rfl, rfl⟩
    rw [s.split_drain, hclock.1, hclock.2, if_neg (BitVec.not_lt.mpr hclk)] at hgo
    rw [hclock.2]
    exact State.drainedTo_of_wentAt hw hgo
  · show execYieldJn s = _
    unfold execYieldJn State.waitJoin
    simp only [hwait, reduceCtorEq, if_false, s.crew_drain, hjn]

/-! ## FENCE.flush (R36, R66, R154) -/

theorem mem_foldl_flushStep (l : List Buffered) (x : Mem × Crew) :
    (l.foldl flushStep x).1 = l.foldl (fun m b => (b.apply m).1) x.1 := by
  induction l generalizing x with
  | nil => rfl
  | cons b l ih => exact ih _

theorem State.curSplit_flushAt (s : State) (slot : Nat) : (s.flushAt slot).curSplit = s.curSplit := by
  rw [State.flushAt_eq]
  split <;> rfl

/-- What the flush point of the crew in focus does (R36). -/
theorem State.flushAt_cur (s : State) :
    (s.flushAt s.cur).mem = s.crew.updates.foldl (fun m b => (b.apply m).1) s.mem ∧
      ∃ lanes fsum, (s.flushAt s.cur).crew = { s.crew with lanes := lanes, fsum := fsum, buffered := [], firstReads := [] } := by
  rw [State.flushAt_eq]
  split
  · next h =>
    rw [Bool.and_eq_true, List.isEmpty_iff, List.isEmpty_iff] at h
    obtain ⟨hbuf, hfirst⟩ : s.crew.buffered = [] ∧ s.crew.firstReads = [] := h
    have hnone : s.crew.updates = [] := by
      unfold Crew.updates
      simp [hbuf]
    refine ⟨by rw [hnone]; rfl, s.crew.lanes, s.crew.fsum, ?_⟩
    rw [← hbuf, ← hfirst]
  · obtain ⟨lanes, fsum, hcrew⟩ := crew_foldl_flushStep s.crew.updates (s.mem, s.crew)
    refine ⟨mem_foldl_flushStep _ _, lanes, fsum, ?_⟩
    refine (State.crewAt_setCrewAt_same _ _ _).trans ?_
    rw [s.crewAt_cur, hcrew]

@[simp] theorem State.settings_drain (s : State) : s.drain.settings = s.settings := by
  have hl : s.drain.launches = s.launches := by rw [s.drain_frame]
  unfold State.settings State.settingsOf
  rw [hl, s.crew_drain]

/-- An entry of the ordering log leaves the crew in focus, its settings and memory. -/
theorem State.kept_logOp (s : State) (r : LogRecord) : (s.logOp r).crew = s.crew ∧ (s.logOp r).mem = s.mem ∧
    (s.logOp r).split = s.split ∧ (s.logOp r).settings = s.settings := by
  rw [s.logOp_frame r]
  exact ⟨rfl, rfl, rfl, rfl⟩

/-- Where FENCE.flush may begin (R65, R154). -/
theorem execFenceFlush_begun {s : State} (hwhole : s.divides = false) (hidle : s.crew.lanesIdle)
    (hbegin : s.mayBegin s.sameBlock) :
    let u := s.drain.logOp (s.logRecord 0x27 none false 0)
    exec .fenceFlush s = .next (if s.settings.det then u.flushAt u.cur else u).done := by
  intro u
  show execFenceFlush s = _
  unfold execFenceFlush
  simp only [hwhole, hidle, hbegin, Bool.not_true, Bool.false_eq_true, if_false]
  rw [(s.drain.kept_logOp _).2.2.2, State.settings_drain]

theorem fenceFlush : Claim.FenceFlush := by
  intro s hw
  refine ⟨fun hdet hidle => ⟨_, execFenceFlush_begun ?_ hidle ?_, ?_⟩, fun hdet hwhole hidle hleast =>
    ⟨_, execFenceFlush_begun ?_ hidle ?_, ?_⟩, fun hdet hdiv => ?_⟩
  · unfold State.divides
    rw [hdet, Bool.false_and]
  · unfold State.mayBegin
    rw [hdet, Bool.not_false, Bool.true_or]
  · rw [if_neg (by rw [hdet]; exact Bool.false_ne_true)]
    generalize s.logRecord 0x27 none false 0 = r
    obtain ⟨hcrew, hmem, hsplit, -⟩ := s.drain.kept_logOp r
    obtain ⟨⟨⟨honly, -⟩, htcrew, -, htsplit⟩, -⟩ := (s.drain.logOp r).jump_wentTo ((s.drain.logOp r).split.spc + 4)
    have hwin : ((s.drain.logOp r).done).crew.window = [] := by
      refine (congrArg Crew.window htcrew).trans ?_
      rw [hcrew, s.crew_drain]
    obtain ⟨-, hbyte, -⟩ := State.emptied_of_drain hw hwin ((congrArg State.mem honly).trans hmem)
    refine ⟨hwin, hbyte, (congrArg Split.spc htsplit).trans ?_, (congrArg Crew.clock htcrew).trans ?_⟩
    · rw [hsplit, s.split_drain]
    · rw [hcrew, s.crew_drain]
  · unfold State.divides
    rw [hwhole, Bool.and_false]
  · unfold State.mayBegin
    rw [hleast, Bool.or_true]
  · rw [if_pos hdet]
    generalize s.logRecord 0x27 none false 0 = r
    obtain ⟨hcrew, hmem, hsplit, -⟩ := s.drain.kept_logOp r
    generalize s.drain.logOp r = u at hcrew hmem hsplit ⊢
    obtain ⟨hfmem, lanes, fsum, hfcrew⟩ := u.flushAt_cur
    have hkeep : (u.flushAt u.cur).split = s.split := by
      rw [← s.split_drain, ← hsplit]
      unfold State.split
      rw [u.curSplit_flushAt, hfcrew]
      rfl
    obtain ⟨⟨⟨honly, -⟩, htcrew, -, htsplit⟩, -⟩ := (u.flushAt u.cur).jump_wentTo ((u.flushAt u.cur).split.spc + 4)
    rw [hfcrew, hcrew, s.crew_drain] at htcrew
    refine ⟨congrArg Crew.window htcrew, congrArg Crew.buffered htcrew, congrArg Crew.firstReads htcrew,
      (congrArg Split.spc htsplit).trans ?_, (congrArg State.mem honly).trans ?_⟩
    · rw [hkeep]
    · rw [hfmem, hmem, hcrew, s.crew_drain]
      rfl
  · have hdivides : s.divides = true := by
      unfold State.divides
      rw [hdet, hdiv, Bool.and_self]
    show execFenceFlush s = _
    unfold execFenceFlush
    rw [hdivides]
    rfl

/-- Settles O9. -/
theorem streamWords : Obligations.StreamWords := ⟨reductionsAndFlags, drainingWords, fenceFlush⟩

end Sys2Proof.Machine
end

section
/-! The cohorts of a launch, the completion of a barrier, and BAR (O12). -/

namespace Sys2Proof.Machine

/-! ## Launches and cohorts (R60, R61) -/

/-- A value that a map holds in place of its default is listed. -/
theorem mapFind_of_mapGet_ne {α : Type} {d : α} {m : List (Nat × α)} {k : Nat} (h : mapGet d m k ≠ d) :
    mapFind m k = some (mapGet d m k) := by
  induction m with
  | nil => exact absurd rfl h
  | cons x m ih =>
    unfold mapGet at h
    unfold mapFind mapGet
    split
    · rfl
    · next hk =>
      rw [if_neg hk] at h
      exact ih h

/-- A cohort of the launch of the crew in focus. -/
def State.cohort (s : State) (i : Nat) : Option Cohort := mapFind s.launch.cohorts i

/-- The launch of the crew in focus is listed if it has a cohort. -/
theorem State.listed_of_cohort {s : State} {i : Nat} {h : Cohort} (hc : s.cohort i = some h) :
    mapFind s.launches s.crew.launch = some s.launch := by
  refine mapFind_of_mapGet_ne fun hnone => ?_
  have hl : s.launch = Launch.none := hnone
  rw [State.cohort, hl] at hc
  cases hc

theorem State.launch_eq {s t : State} (hl : t.launches = s.launches) (hc : t.crew.launch = s.crew.launch) :
    t.launch = s.launch := by
  unfold State.launch State.launchOf
  rw [hl, hc]

theorem State.updLaunch_of_listed {s : State} {id : Nat} {l : Launch} (h : mapFind s.launches id = some l)
    (f : Launch → Launch) : s.updLaunch id f = { s with launches := mapSet Launch.none s.launches id (f l) } := by
  unfold State.updLaunch
  rw [h]

/-- A change of the launch of the crew in focus. -/
theorem State.launch_updLaunch {s : State} (h : mapFind s.launches s.crew.launch = some s.launch) (f : Launch → Launch) :
    (s.updLaunch s.crew.launch f).launch = f s.launch := by
  rw [State.updLaunch_of_listed h]
  exact mapGet_mapSet_same ..

theorem mapFind_updCohort {l : Launch} {i : Nat} {h : Cohort} (hc : mapFind l.cohorts i = some h) (f : Cohort → Cohort) :
    mapFind (l.updCohort i f).cohorts i = some (f h) := by
  obtain ⟨cs, hcs⟩ : ∃ cs, l.cohorts = cs := ⟨_, rfl⟩
  unfold Launch.updCohort
  dsimp only
  rw [hcs] at hc ⊢
  clear hcs
  induction cs with
  | nil => cases hc
  | cons x cs ih =>
    obtain ⟨j, g⟩ := x
    unfold mapFind at hc
    rw [List.map_cons]
    unfold mapFind
    by_cases hj : j = i
    · rw [if_pos hj] at hc
      simp only [hj, if_true, Option.some.inj hc]
    · rw [if_neg hj] at hc
      simp only [hj, if_false]
      exact ih hc

/-- A change of a cohort of the launch of the crew in focus. -/
theorem State.cohort_updCohort {s : State} {i : Nat} {h : Cohort} (hc : s.cohort i = some h) (f : Cohort → Cohort) :
    (s.updLaunch s.crew.launch fun l => l.updCohort i f).cohort i = some (f h) := by
  unfold State.cohort
  rw [State.launch_updLaunch (State.listed_of_cohort hc)]
  exact mapFind_updCohort hc f

/-! ## The split in focus changed -/

theorem State.crew_updSplit (s : State) (f : Split → Split) : (s.updSplit f).crew = s.crew.updSplit s.curSplit f :=
  State.crew_updCrew _ _

theorem State.split_updSplit (s : State) (f : Split → Split) : (s.updSplit f).split = f s.split := by
  show (s.updSplit f).crew.split s.curSplit = _
  rw [s.crew_updSplit]
  exact Crew.split_updSplit_same ..

theorem State.split_updCrew_of_splits (s : State) {f : Crew → Crew} (hf : (f s.crew).splits = s.crew.splits) :
    (s.updCrew f).split = s.split := by
  show (s.updCrew f).crew.split s.curSplit = _
  rw [s.crew_updCrew]
  unfold State.split Crew.split
  rw [hf]

/-- The split in focus waits in a synchronisation that it has begun. -/
theorem State.syncWait_focus (s : State) (w : Wait) : s.onlyCrew (s.syncWait w) ∧
    (s.syncWait w).split = { s.split with wait := w } ∧ (s.syncWait w).crew.window = s.crew.window ∧
    (s.syncWait w).crew.launch = s.crew.launch := by
  obtain ⟨honly, hcrew, -, -⟩ := (s.updCrew fun c => { c with inSync := true }).stay_stayed w
  have hc : (s.syncWait w).crew = _ := hcrew
  rw [s.crew_updCrew] at hc
  refine ⟨State.onlyCrew_trans (s.onlyCrew_updCrew _) honly, ?_, (congrArg Crew.window hc).trans rfl,
    (congrArg Crew.launch hc).trans rfl⟩
  refine (State.split_updSplit _ _).trans ?_
  rw [s.split_updCrew_of_splits rfl]

theorem State.focus_updLaunch (s : State) (id : Nat) (f : Launch → Launch) :
    (s.updLaunch id f).crew = s.crew ∧ (s.updLaunch id f).split = s.split := by
  unfold State.updLaunch
  split <;> exact ⟨rfl, rfl⟩

theorem State.cohort_updSplit (s : State) (f : Split → Split) (i : Nat) : (s.updSplit f).cohort i = s.cohort i := by
  unfold State.cohort
  rw [State.launch_eq (s := s) (t := s.updSplit f) rfl ((congrArg Crew.launch (s.crew_updSplit f)).trans rfl)]

/-! ## Completion of a barrier (R61) -/

theorem State.flushArrived_frame (s : State) (launch : Nat) (uids : List Nat) :
    s.flushArrived launch uids =
      { s with crews := (s.flushArrived launch uids).crews, mem := (s.flushArrived launch uids).mem } :=
  foldl_keeps (fun t : State => t = { s with crews := t.crews, mem := t.mem }) _ _ _
    (fun t x _ ht => by
      rw [t.flushAt_frame x.1]
      generalize (t.flushAt x.1).crews = crews, (t.flushAt x.1).mem = mem
      rw [ht]) rfl

/-- The crew in focus where buffered operations of crews have been performed: its launch, window and splits are as they
were. -/
theorem State.Flushed.focus {s t : State} (h : s.Flushed t) (hcur : t.cur = s.cur) :
    t.crew.launch = s.crew.launch ∧ t.crew.window = s.crew.window ∧ t.crew.splits = s.crew.splits ∧
      t.crew.clock = s.crew.clock := by
  have hc : s.crew.Flushed t.crew := by
    have hn := h.2 t.cur
    rw [hcur] at hn
    unfold State.crew
    rwa [hcur]
  rcases hc with heq | ⟨-, l, f, heq⟩
  · rw [heq]
    exact ⟨rfl, rfl, rfl, rfl⟩
  · rw [heq]
    exact ⟨rfl, rfl, rfl, rfl⟩

/-- What the check of a barrier leaves of a cohort of this package. -/
def Cohort.checked (h : Cohort) : Cohort := if h.valid && h.arrive ≠ 0 && h.complete false then h.advance 0 else h

theorem Cohort.checked_of_complete (h : Cohort) (hvalid : h.valid = true) (harrive : h.arrive ≠ 0)
    (hall : h.total ≤ h.arrive + h.depart) : h.checked = h.advance 0 := by
  unfold Cohort.checked Cohort.complete
  simp [hvalid, harrive, hall]

theorem Cohort.checked_of_not_complete (h : Cohort) (hspans : h.spans = false) (hfew : h.arrive + h.depart < h.total) :
    h.checked = h := by
  unfold Cohort.checked Cohort.complete
  simp [hspans, hfew]

section
variable {s : State} {i : Nat} {h : Cohort} (hc : s.cohort i = some h) (hspans : h.spans = false)
include hc hspans

/-- The check of a barrier of this package. -/
theorem State.barrierCheck_local : s.barrierCheck s.crew.launch i =
    if h.valid && h.arrive ≠ 0 && h.complete false then
      (s.flushArrived s.crew.launch h.arrived).updLaunch s.crew.launch fun l => l.updCohort i fun h => h.advance 0
    else s := by
  have hfind : mapFind s.launch.cohorts i = some h := hc
  unfold State.barrierCheck
  simp only [State.listed_of_cohort hc, hfind, hspans, Bool.false_eq_true, if_false]

theorem State.cohort_barrierCheck : (s.barrierCheck s.crew.launch i).cohort i = some h.checked := by
  rw [State.barrierCheck_local hc hspans]
  unfold Cohort.checked
  split
  · have hframe := s.flushArrived_frame s.crew.launch h.arrived
    have hlaunch := ((s.flushed_flushArrived s.crew.launch h.arrived).focus (by rw [hframe])).1
    have hkept : (s.flushArrived s.crew.launch h.arrived).cohort i = some h := by
      unfold State.cohort
      rwa [State.launch_eq (by rw [hframe]) hlaunch]
    generalize s.flushArrived s.crew.launch h.arrived = u at hlaunch hkept ⊢
    rw [← hlaunch]
    exact State.cohort_updCohort hkept _
  · exact hc

theorem State.frame_barrierCheck : (s.barrierCheck s.crew.launch i).cur = s.cur ∧
    (s.barrierCheck s.crew.launch i).curSplit = s.curSplit := by
  rw [State.barrierCheck_local hc hspans]
  split
  · have hlisted : mapFind (s.flushArrived s.crew.launch h.arrived).launches s.crew.launch = some s.launch := by
      rw [s.flushArrived_frame]
      exact State.listed_of_cohort hc
    rw [State.updLaunch_of_listed hlisted, s.flushArrived_frame]
    exact ⟨rfl, rfl⟩
  · exact ⟨rfl, rfl⟩

/-- The split and the window in focus after the check of a barrier. -/
theorem State.focus_barrierCheck : (s.barrierCheck s.crew.launch i).split = s.split ∧
    (s.barrierCheck s.crew.launch i).crew.window = s.crew.window ∧
    (s.barrierCheck s.crew.launch i).crew.launch = s.crew.launch := by
  obtain ⟨hcur, hk⟩ := State.frame_barrierCheck hc hspans
  obtain ⟨hlaunch, hwin, hsplits, -⟩ := (s.flushed_barrierCheck s.crew.launch i).focus hcur
  refine ⟨?_, hwin, hlaunch⟩
  unfold State.split Crew.split
  rw [hk, hsplits]

/-- A crew whose generation has passed goes on (R61). -/
theorem State.passBar_on {g : Word} (hgen : h.checked.gen ≠ g) :
    (s.passBar i g).split.spc = s.split.spc + 4 ∧ (s.passBar i g).split.bar = none ∧ (s.passBar i g).split.wait = .none ∧
      (s.passBar i g).crew.window = s.crew.window ∧ (s.passBar i g).cohort i = some h.checked := by
  obtain ⟨hsplit, hwin, -⟩ := State.focus_barrierCheck hc hspans
  have hcohort := State.cohort_barrierCheck hc hspans
  have hfind : mapFind (s.barrierCheck s.crew.launch i).launch.cohorts i = some h.checked := hcohort
  unfold State.passBar
  simp only [hfind, hgen, if_false]
  generalize s.barrierCheck s.crew.launch i = u at hsplit hwin hcohort
  obtain ⟨⟨honly, -⟩, hcrew, -, htsplit⟩ :=
    (u.updSplit fun p => { p with bar := none }).doneSync_wentAt h.checked.doneClock
  rw [State.split_updSplit, hsplit] at htsplit
  rw [State.crew_updSplit] at hcrew
  refine ⟨congrArg Split.spc htsplit, congrArg Split.bar htsplit, congrArg Split.wait htsplit,
    (congrArg Crew.window hcrew).trans hwin, ?_⟩
  unfold State.cohort at hcohort ⊢
  rwa [State.launch_eq (s := u) ((congrArg State.launches honly).trans rfl) ((congrArg Crew.launch hcrew).trans rfl)]

/-- A crew whose generation has not passed waits (R61). -/
theorem State.passBar_waits {g : Word} (hgen : h.checked.gen = g) :
    (s.passBar i g).split.spc = s.split.spc ∧ (s.passBar i g).split.bar = s.split.bar ∧
      (s.passBar i g).split.wait = .sync ∧ (s.passBar i g).crew.window = s.crew.window ∧
      (s.passBar i g).cohort i = some h.checked := by
  obtain ⟨hsplit, hwin, -⟩ := State.focus_barrierCheck hc hspans
  have hcohort := State.cohort_barrierCheck hc hspans
  have hfind : mapFind (s.barrierCheck s.crew.launch i).launch.cohorts i = some h.checked := hcohort
  unfold State.passBar
  simp only [hfind, hgen, if_true]
  generalize s.barrierCheck s.crew.launch i = u at hsplit hwin hcohort
  obtain ⟨⟨honly, -⟩, htsplit, htwin, htlaunch⟩ := u.syncWait_focus .sync
  rw [hsplit] at htsplit
  refine ⟨(congrArg Split.spc htsplit).trans rfl, (congrArg Split.bar htsplit).trans rfl, congrArg Split.wait htsplit,
    htwin.trans hwin, ?_⟩
  unfold State.cohort at hcohort ⊢
  rwa [State.launch_eq (s := u) ((congrArg State.launches honly).trans rfl) htlaunch]

end

/-! ## BAR (R30, R61) -/

/-- The cohort with one more arrival (R61, R65). -/
def Cohort.arrival (h : Cohort) (c : Crew) : Cohort :=
  { h with arrive := h.arrive + 1, arrived := c.uid :: h.arrived, maxClock := clockMax h.maxClock c.clock }

/-- The first arrival of a crew at a barrier. -/
theorem State.arriveBar_spec {s : State} {i : Nat} {h : Cohort} (hc : s.cohort i = some h)
    (hnew : h.arrived.contains s.crew.uid = false) :
    (s.arriveBar i).cohort i = some (h.arrival s.crew) ∧ (s.arriveBar i).split = { s.split with bar := some (i, h.gen) } ∧
      (s.arriveBar i).crew.window = s.crew.window := by
  obtain ⟨hcrew, -, hsplit, -⟩ := s.kept_logOp (s.logRecord 0x24 none false (BitVec.ofNat 64 i))
  have hcohort : (s.logOp (s.logRecord 0x24 none false (BitVec.ofNat 64 i))).cohort i = some h := by
    unfold State.cohort at hc ⊢
    rwa [State.launch_eq (s := s) (by rw [State.logOp_frame]) (by rw [hcrew])]
  have hfind : mapFind (s.logOp (s.logRecord 0x24 none false (BitVec.ofNat 64 i))).launch.cohorts i = some h := hcohort
  unfold State.arriveBar
  simp only [hfind]
  generalize s.logOp (s.logRecord 0x24 none false (BitVec.ofNat 64 i)) = u at hcrew hsplit hcohort
  rw [← hcrew] at hnew
  have hup := State.cohort_updCohort hcohort fun h =>
    if h.arrived.contains u.crew.uid then h
    else { h with arrive := h.arrive + 1, arrived := u.crew.uid :: h.arrived, maxClock := clockMax h.maxClock u.crew.clock }
  rw [hnew, if_neg Bool.false_ne_true] at hup
  obtain ⟨hvcrew, hvsplit⟩ := u.focus_updLaunch u.crew.launch fun l => l.updCohort i fun h =>
    if h.arrived.contains u.crew.uid then h
    else { h with arrive := h.arrive + 1, arrived := u.crew.uid :: h.arrived, maxClock := clockMax h.maxClock u.crew.clock }
  generalize (u.updLaunch u.crew.launch _) = v at hup hvcrew hvsplit ⊢
  refine ⟨?_, ?_, ?_⟩
  · rw [State.cohort_updSplit, hup, hcrew]
    rfl
  · rw [State.split_updSplit, hvsplit, hsplit]
  · refine (congrArg Crew.window (State.crew_updSplit _ _)).trans ?_
    exact (congrArg Crew.window hvcrew).trans (congrArg Crew.window hcrew)

theorem State.replayReady_drain (s : State) (r : LogRecord) : s.drain.replayReady r = s.replayReady r := by
  unfold State.replayReady State.replayLog
  rw [show s.drain.ckpt = s.ckpt by rw [s.drain_frame], show s.drain.crew.job = s.crew.job by rw [s.crew_drain]]

theorem State.logRecord_drain (s : State) (opc : Nat) (lane : Option Nat) (ext : Bool) (v : DWord) :
    s.drain.logRecord opc lane ext v = s.logRecord opc lane ext v := by
  have hcur : s.drain.cur = s.cur := by rw [s.drain_frame]
  have hinfo : s.drain.crewInfo s.drain.cur = s.crewInfo s.cur := by
    unfold State.crewInfo
    rw [hcur, s.crewAt_drain, if_pos rfl]
    rfl
  unfold State.logRecord State.job
  rw [hinfo, hcur, s.crew_drain, show s.drain.jobs = s.jobs by rw [s.drain_frame]]

/-- BAR outside a deterministic launch by a crew whose lane work and remote writes are done. -/
theorem execBar_arrives {s : State} {n : BitVec 2} {i : Nat} {h : Cohort} (hbar : s.split.bar = none)
    (hslot : s.cohortOf s.crew n.toNat = some (i, h)) (hdet : s.settings.det = false) (hidle : s.crew.lanesIdle)
    (hacked : h.scope < 4 ∨ s.crew.writesOut s.curSplit = false)
    (hready : s.replayReady (s.logRecord 0x24 none false (.ofNat 64 i))) :
    exec (.bar n) s = .next ((s.drain.arriveBar i).passBar i h.gen) := by
  have hdivides : s.divides = false := by
    unfold State.divides
    rw [hdet, Bool.false_and]
  have hmay (p : Crew → Bool) : s.mayBegin p = true := by
    unfold State.mayBegin
    rw [hdet, Bool.not_false, Bool.true_or]
  have hout : ¬(4 ≤ h.scope ∧ s.drain.crew.writesOut s.drain.curSplit = true) := by
    rintro ⟨hfar, hw⟩
    rw [s.crew_drain, show s.drain.curSplit = s.curSplit by rw [s.drain_frame]] at hw
    rcases hacked with hnear | hacked
    · rw [BitVec.le_def] at hfar
      exact absurd hnear (Nat.not_lt.mpr hfar)
    · exact absurd (hacked.symm.trans hw) Bool.false_ne_true
  have hrecord : s.drain.replayReady (s.drain.logRecord 0x24 none false (.ofNat 64 i)) = true := by
    rw [s.replayReady_drain, s.logRecord_drain, hready]
  have hbegins (p : Crew → Bool) :
      (if s.split.wait = .sync then (true, s) else s.begins p h.spans) = (true, s) := by
    unfold State.begins
    simp only [hdet, hmay, Bool.false_and, Bool.false_eq_true, if_false, ite_self]
  show execBar n s = _
  unfold execBar
  simp only [hbar, hslot, hdivides, hidle, hbegins, hout, hrecord, Bool.not_true, Bool.false_eq_true, and_false, if_false]

theorem cohort_of_slot {s : State} {n i : Nat} {h : Cohort} (hslot : s.cohortOf s.crew n = some (i, h)) :
    s.cohort i = some h ∧ h.valid = true := by
  unfold State.cohortOf at hslot
  split at hslot
  · cases hslot
  · split at hslot
    · next g hg =>
      rw [Option.ite_none_right_eq_some, Option.some.injEq, Prod.mk.injEq] at hslot
      obtain ⟨hvalid, rfl, rfl⟩ := hslot
      exact ⟨hg, hvalid⟩
    · cases hslot

/-- Settles O12. -/
theorem barriers : Obligations.Barriers := by
  intro s n i h cohort
  refine ⟨fun hbar hslot => ?_, fun hbar hslot hspans hdet hidle hacked hnew hready => ?_, fun g hbar hc hspans hgen => ?_⟩
  · show execBar n s = _
    unfold execBar
    simp only [hbar, hslot]
    rw [BitVec.ofNat_toNat]
  · have hex := execBar_arrives hbar hslot hdet hidle hacked hready
    obtain ⟨hc, hvalid⟩ := cohort_of_slot hslot
    have hdrained : s.drain.cohort i = some h := by
      unfold State.cohort at hc ⊢
      rwa [State.launch_eq (s := s) (by rw [s.drain_frame]) (by rw [s.crew_drain])]
    obtain ⟨harr, hsplit, hwin⟩ := State.arriveBar_spec hdrained (by rwa [s.crew_drain])
    rw [s.split_drain] at hsplit
    rw [s.crew_drain] at hwin
    refine ⟨fun hall => ⟨_, hex, ?_⟩, fun hfew => ⟨_, hex, ?_⟩⟩
    · have hchecked := (h.arrival s.drain.crew).checked_of_complete hvalid (by simp [Cohort.arrival]) hall
      obtain ⟨hspc, hb, -, hw, hco⟩ := State.passBar_on (g := h.gen) harr hspans (by
        rw [hchecked]
        show h.gen + 1 ≠ h.gen
        bv_omega)
      rw [hsplit] at hspc
      rw [hchecked] at hco
      exact ⟨hspc, hb, hw.trans hwin, _, hco, rfl, rfl, rfl⟩
    · have hchecked := (h.arrival s.drain.crew).checked_of_not_complete hspans hfew
      obtain ⟨hspc, hb, hwait, hw, hco⟩ := State.passBar_waits (g := h.gen) harr hspans (by rw [hchecked]; rfl)
      rw [hsplit] at hspc hb
      rw [hchecked] at hco
      exact ⟨hspc, hb, hwait, hw.trans hwin, _, hco, rfl, rfl⟩
  · have hpassed : h.checked.gen ≠ g := by
      unfold Cohort.checked
      split
      · show h.gen + 1 ≠ g
        rw [hgen]
        bv_omega
      · rw [hgen]
        bv_omega
    obtain ⟨hspc, hb, hwait, -⟩ := State.passBar_on (i := i) hc hspans hpassed
    refine ⟨_, ?_, hspc, hb, hwait⟩
    show execBar n s = _
    unfold execBar
    rw [hbar]

end Sys2Proof.Machine
end

section
/-! Writes of the copy queue tails and of the binding registers (O20). -/

namespace Sys2Proof.Machine

/-! ## The chain tail (R220) -/

/-- Entries issued from the chain: their number, and nothing but the queue sets changed. -/
theorem State.issueChain_spec (q n : Nat) (s : State) :
    s.issueChain q n = { s with qsets := (s.issueChain q n).qsets } ∧
      ((s.issueChain q n).queue s.qk q).issue = (s.queue s.qk q).issue + .ofNat 32 n ∧
      ((s.issueChain q n).queue s.qk q).ents.length = (s.queue s.qk q).ents.length + n := by
  induction n generalizing s with
  | zero => exact ⟨rfl, (BitVec.add_zero _).symm, rfl⟩
  | succ n ih =>
    obtain ⟨-, hissue, -, hents, -⟩ := s.enqueue_spec s.qk q (s.newEntry 0 0 0)
    obtain ⟨hframe, hi, hl⟩ := ih (s.enqueue s.qk q (s.newEntry 0 0 0)).1
    have hqk : (s.enqueue s.qk q (s.newEntry 0 0 0)).1.qk = s.qk := rfl
    rw [hqk] at hi hl
    refine ⟨hframe, ?_, ?_⟩
    · refine hi.trans ?_
      rw [hissue, BitVec.add_assoc, BitVec.add_comm 1, BitVec.ofNat_add]
      rfl
    · refine hl.trans ?_
      rw [hents, List.length_append, List.length_singleton, Nat.add_assoc, Nat.add_comm 1]

theorem chainTail : Claim.ChainTail := by
  intro s n d a hidle hw u k ok
  refine ⟨fun hok => ⟨(s.drain.issueChain n.toNat k).write d u.issue, ?_, ?_⟩, fun hbad => ?_⟩
  · show execQtailWrite n d a s = _
    unfold execQtailWrite
    rw [hidle]
    exact if_pos hok
  · have hqk : s.drain.qk = s.qk := by
      unfold State.qk
      rw [s.crew_drain, show s.drain.cur = s.cur by rw [s.drain_frame]]
    have hqueue : s.drain.queue s.qk n.toNat = u := by
      unfold State.queue State.qset
      rw [show s.drain.qsets = s.qsets by rw [s.drain_frame]]
      rfl
    obtain ⟨hframe, hissue, hlen⟩ := State.issueChain_spec n.toNat k s.drain
    rw [hqk, hqueue] at hissue hlen
    generalize s.drain.issueChain n.toNat k = v at hframe hissue hlen
    obtain ⟨⟨honly, -⟩, hcrew, -, hsplit, hreg⟩ := v.write_wrote d u.issue
    have hvcrew : v.crew = { s.crew with window := [] } := by
      rw [hframe]
      exact s.crew_drain
    have hvsplit : v.split = s.split := by
      rw [hframe]
      exact s.split_drain
    have htq : (v.write d u.issue).queue s.qk n.toNat = v.queue s.qk n.toNat := by rw [honly]; rfl
    refine ⟨?_, ?_, ?_, ?_, State.emptied_of_drain hw ?_ ?_⟩
    · rw [htq, hissue, BitVec.ofNat_toNat, BitVec.setWidth_eq]
      bv_omega
    · rw [htq, hlen]
    · rw [hreg d]
      by_cases hd : d = 0
      · subst hd
        rw [if_neg fun h => h.2 rfl, if_pos rfl]
        rfl
      · rw [if_pos ⟨rfl, hd⟩, if_neg hd]
    · rw [hsplit, hvsplit]
    · rw [hcrew, hvcrew]
    · rw [honly, hframe]
  · show execQtailWrite n d a s = _
    unfold execQtailWrite
    rw [hidle]
    exact if_neg hbad

/-! ## Bindings (R27, R156) -/

theorem State.place_drain (s : State) (slot : Nat) (spad : Bool) (off n : Nat) :
    s.drain.place slot spad off n = s.place slot spad off n := by
  obtain ⟨hpart, hlo, hlen⟩ : (s.drain.crewAt slot).part = (s.crewAt slot).part ∧
      (s.drain.crewAt slot).bmemLo = (s.crewAt slot).bmemLo ∧ (s.drain.crewAt slot).bmemLen = (s.crewAt slot).bmemLen := by
    rw [s.crewAt_drain]
    split
    · next h =>
      rw [h]
      exact ⟨rfl, rfl, rfl⟩
    · exact ⟨rfl, rfl, rfl⟩
  unfold State.place State.partition spadBase bmemBase
  dsimp only
  rw [hpart, hlo, hlen, show s.drain.parts = s.parts by rw [s.drain_frame]]

theorem State.bindingHere_drain (s : State) (bind : Bool) : s.drain.bindingHere bind = s.bindingHere bind := by
  unfold State.bindingHere State.scalarAddr State.scalarAddrN
  simp only [State.place_drain, s.crew_drain, show s.drain.cur = s.cur by rw [s.drain_frame]]

/-- The binding table that a command leaves, if it is accepted (R156). -/
def State.bindResult (s : State) (cmd : Nat) : Option (List Binding) := (s.bindingHere (cmd = 1)).bind (s.launch.command cmd)

theorem mapGet_of_mapFind {α : Type} {d : α} {m : List (Nat × α)} {k : Nat} {v : α} (h : mapFind m k = some v) :
    mapGet d m k = v := by
  induction m with
  | nil => cases h
  | cons x m ih =>
    unfold mapFind at h
    unfold mapGet
    split
    · next hk => exact Option.some.inj ((if_pos hk).symm.trans h)
    · next hk => exact ih ((if_neg hk).symm.trans h)

section
variable {s : State} (hlisted : (mapFind s.launches s.crew.launch).isSome)
include hlisted

theorem State.mapFind_launch : mapFind s.launches s.crew.launch = some s.launch := by
  obtain ⟨l, hl⟩ := Option.isSome_iff_exists.mp hlisted
  rw [hl]
  exact congrArg some (mapGet_of_mapFind hl).symm

omit hlisted in
theorem State.launch_updCrew (s : State) {f : Crew → Crew} (hf : (f s.crew).launch = s.crew.launch) :
    (s.updCrew f).launch = s.launch :=
  State.launch_eq (t := s.updCrew f) rfl ((congrArg Crew.launch (s.crew_updCrew f)).trans hf)

omit hlisted in
/-- What a completed word that writes a register leaves (R132). -/
theorem State.write_leaves (s : State) (d : RegNo) (v : Word) : (s.write d v).launch = s.launch ∧
    (s.write d v).crew.bndErr = s.crew.bndErr ∧ (s.write d v).crew.window = s.crew.window ∧
    (s.write d v).split.spc = s.split.spc + 4 ∧ (s.write d v).sreg d = if d = 0 then 0 else v := by
  obtain ⟨⟨honly, -⟩, hcrew, -, hsplit, hreg⟩ := s.write_wrote d v
  refine ⟨State.launch_eq ?_ ?_, ?_, ?_, ?_, ?_⟩
  · rw [honly]
  · rw [hcrew]
  · rw [hcrew]
  · rw [hcrew]
  · rw [hsplit]
  · rw [hreg d]
    by_cases hd : d = 0
    · subst hd
      rw [if_neg fun h => h.2 rfl, if_pos rfl]
      rfl
    · rw [if_pos ⟨rfl, hd⟩, if_neg hd]

/-- What a write of BNDCMD does: the table as the command leaves it, or the error bit (R156). -/
theorem State.bindWrite_spec (d : RegNo) (cmd : Nat) :
    (s.bindWrite d cmd).launch.bindings = (s.bindResult cmd).getD s.launch.bindings ∧
      (s.bindWrite d cmd).crew.bndErr = (s.bindResult cmd).isNone ∧ (s.bindWrite d cmd).crew.window = [] ∧
      (s.bindWrite d cmd).split.spc = s.split.spc + 4 ∧
      (s.bindWrite d cmd).sreg d = if d = 0 then 0 else if s.crew.bndErr then 0x80000000 else 0 := by
  have hlaunches : s.drain.launches = s.launches := by rw [s.drain_frame]
  have hlaunch : s.drain.launch = s.launch := State.launch_eq hlaunches (by rw [s.crew_drain])
  have hafter : s.bindWrite d cmd = match s.bindResult cmd with
      | some t => ((s.drain.updLaunch s.drain.crew.launch fun l => { l with bindings := t }).updCrew
          fun c => { c with bndErr := false }).write d (s.csr 0x053)
      | none => (s.drain.updCrew fun c => { c with bndErr := true }).write d (s.csr 0x053) := by
    unfold State.bindWrite State.bindResult
    dsimp only
    rw [s.bindingHere_drain, hlaunch]
    cases s.bindingHere (cmd = 1) <;> rfl
  have hold : s.csr 0x053 = if s.crew.bndErr then 0x80000000 else 0 := rfl
  rw [hafter, hold]
  cases s.bindResult cmd with
  | none =>
    obtain ⟨hl, herr, hwin, hspc, hreg⟩ := (s.drain.updCrew fun c => { c with bndErr := true }).write_leaves d
      (if s.crew.bndErr then 0x80000000 else 0)
    rw [s.drain.split_updCrew_of_splits rfl, s.split_drain] at hspc
    rw [s.drain.crew_updCrew] at herr hwin
    rw [s.drain.launch_updCrew rfl, hlaunch] at hl
    exact ⟨congrArg Launch.bindings hl, herr, hwin.trans (by rw [s.crew_drain]), hspc, hreg⟩
  | some t =>
    dsimp only
    obtain ⟨hl, herr, hwin, hspc, hreg⟩ := ((s.drain.updLaunch s.drain.crew.launch fun l => { l with bindings := t }).updCrew
      fun c => { c with bndErr := false }).write_leaves d (if s.crew.bndErr then 0x80000000 else 0)
    have hfind : mapFind s.drain.launches s.drain.crew.launch = some s.drain.launch := by
      rw [hlaunches, hlaunch, show s.drain.crew.launch = s.crew.launch by rw [s.crew_drain]]
      exact State.mapFind_launch hlisted
    obtain ⟨hcrew, hsplit⟩ := s.drain.focus_updLaunch s.drain.crew.launch fun l => { l with bindings := t }
    have hup := State.launch_updLaunch hfind fun l => { l with bindings := t }
    generalize (s.drain.updLaunch s.drain.crew.launch _) = u at hl herr hwin hspc hreg hcrew hsplit hup ⊢
    rw [u.split_updCrew_of_splits rfl, hsplit, s.split_drain] at hspc
    rw [u.crew_updCrew] at herr hwin
    rw [u.launch_updCrew rfl, hup] at hl
    exact ⟨congrArg Launch.bindings hl, herr, hwin.trans (by rw [hcrew, s.crew_drain]), hspc, hreg⟩

end

theorem Binding.overlaps_eq_true (a b : Binding) : a.overlaps b = true ↔
    ¬(b.regSpad = a.regSpad → b.regOff + 64 * b.granules ≤ a.regOff ∨ a.regOff + 64 * a.granules ≤ b.regOff) := by
  unfold Binding.overlaps
  rw [Bool.and_eq_true, Bool.and_eq_true, decide_eq_true_iff, decide_eq_true_iff, beq_iff_eq, Classical.not_imp, not_or,
    not_le, not_le, and_assoc, eq_comm]

/-- A request to bind (R156) is accepted where the table has a free entry and no entry overlaps the region. -/
def Launch.bindFree (l : Launch) (b : Binding) : Prop := l.bindings.length < 256 ∧ ∀ x ∈ l.bindings,
  x.regSpad = b.regSpad → x.regOff + 64 * x.granules ≤ b.regOff ∨ b.regOff + 64 * b.granules ≤ x.regOff

theorem Launch.not_bindFree (l : Launch) (b : Binding) :
    ¬l.bindFree b ↔ 256 ≤ l.bindings.length ∨ l.bindings.any b.overlaps := by
  unfold Launch.bindFree
  rw [not_and_or, not_lt, List.any_eq_true]
  simp only [Binding.overlaps_eq_true, not_forall, exists_prop]

theorem Launch.command_of_bindFree {l : Launch} {b : Binding} (h : l.bindFree b) :
    l.command 1 b = some (l.bindings ++ [b]) := by
  unfold Launch.command
  rw [if_pos rfl, if_neg fun hn => (l.not_bindFree b).mpr hn h]

theorem Launch.command_of_not_bindFree {l : Launch} {b : Binding} (h : ¬l.bindFree b) : l.command 1 b = Option.none := by
  unfold Launch.command
  rw [if_pos rfl, if_pos ((l.not_bindFree b).mp h)]

theorem bindingWrites : Claim.BindingWrites := by
  intro s d a hlisted l does
  have hdoes (cmd : Nat) := State.bindWrite_spec hlisted d cmd
  have hbind (table : Option (List Binding)) (h : s.bindResult 1 = table) :
      does (.bndcmdBind d a) (table.getD l) table.isNone := ⟨_, rfl, h ▸ hdoes 1⟩
  have hunbind (table : Option (List Binding)) (h : s.bindResult 2 = table) :
      does (.bndcmdUnbind d a) (table.getD l) table.isNone := ⟨_, rfl, h ▸ hdoes 2⟩
  refine ⟨fun b hb => ?_, fun hnone => hbind none ?_, fun b hb => ?_, fun hnone => hunbind none ?_⟩
  · have hresult : s.bindResult 1 = s.launch.command 1 b := by
      unfold State.bindResult
      rw [show decide (1 = 1) = true from rfl, hb]
      rfl
    exact ⟨fun h => hbind (some _) (hresult.trans (Launch.command_of_bindFree h)),
      fun h => hbind none (hresult.trans (Launch.command_of_not_bindFree h))⟩
  · unfold State.bindResult
    rw [show decide (1 = 1) = true from rfl, hnone]
    rfl
  · have hresult : s.bindResult 2 = s.launch.command 2 b := by
      unfold State.bindResult
      rw [show decide (2 = 1) = false from rfl, hb]
      rfl
    intro same
    have hsame : same = b.names := funext fun x => by
      unfold Binding.names
      rw [BEq.comm (a := b.objSpad), BEq.comm (a := b.objOff), BEq.comm (a := b.regSpad), BEq.comm (a := b.regOff)]
    refine ⟨fun h => hunbind (some _) ?_, fun h => hunbind none ?_⟩
    · rw [hsame] at h ⊢
      exact hresult.trans (if_pos h)
    · rw [hsame] at h
      exact hresult.trans (if_neg (Bool.eq_false_iff.mp h))
  · unfold State.bindResult
    rw [show decide (2 = 1) = false from rfl, hnone]
    rfl

/-- Settles O20. -/
theorem csrCommands : Obligations.CsrCommands := ⟨chainTail, bindingWrites⟩

end Sys2Proof.Machine
end

section
/-! What the lane memory instructions share: the state that their bodies find, their checks, and long-latency results after
a change of memory (R107, R190, R191). -/

namespace Sys2Proof.Machine

/-! ## The checks of a memory instruction (R160, R190) -/

theorem Ctx.poisonTrap_of_clean {x : Ctx} {lanes : List Nat} {uses : List (Nat × Nat)}
    (h : ∀ i ∈ lanes, ∀ u ∈ uses, x.sh.uses.getLsbD u.1 → x.poison u.1 i = false) (addr : Nat → Nat) :
    x.poisonTrap lanes addr uses = none := by
  refine List.findSome?_eq_none_iff.mpr fun u hu => Option.map_eq_none_iff.mpr (List.find?_eq_none.mpr fun i hi hbad => ?_)
  rw [Bool.and_eq_true] at hbad
  exact absurd hbad.2 (by rw [h i hi u hu hbad.1]; exact Bool.false_ne_true)

theorem State.rangeTrap_of_placed {s : State} {spad : Bool} {n al : Nat} {lanes : List Nat} {ea : Nat → Int}
    (h : ∀ i ∈ lanes, ∃ a, s.placeLane spad n al (ea i) = .ok a) : s.rangeTrap spad n al lanes ea = none := by
  refine List.findSome?_eq_none_iff.mpr fun i hi => ?_
  obtain ⟨a, ha⟩ := h i hi
  rw [ha]

/-- The address of a lane that R190 accepts. -/
theorem State.placeLane_eq (s : State) (spad : Bool) (m al : Nat) (ea : Int) : s.placeLane spad m al ea =
    let off := (ea % 2 ^ 27).toNat
    if ea < 0 ∨ 2 ^ 32 ≤ ea ∨ ea / 2 ^ 27 ≠ (if spad then 1 else 0) then .error 3
    else if off % al ≠ 0 then .error (if spad then 1 else 0)
    else if spad then
      (if (s.partition s.crew.part).rowsOpen (slotDie s.cur) off m then .ok (2 ^ 26 * slotDie s.cur + off) else .error 1)
    else if off + m ≤ s.crew.bmemLen then .ok (2 ^ 18 * slotCore s.cur + s.crew.bmemLo + off) else .error 0 := by
  unfold State.placeLane
  dsimp only
  rw [State.place_eq, s.crewAt_cur]
  cases spad with
  | true =>
    refine ite_congr rfl (fun _ => rfl) fun _ => ite_congr rfl (fun _ => rfl) fun _ => ?_
    simp only [if_true]
    split <;> simp_all
  | false =>
    refine ite_congr rfl (fun _ => rfl) fun _ => ite_congr rfl (fun _ => rfl) fun _ => ?_
    simp only [Bool.false_eq_true, if_false]
    split <;> simp_all

/-- An accepted access of an integer or floating type lies in one granule. -/
theorem State.placeLane_fits {s : State} {spad : Bool} {n : Nat} {ea : Int} {a : Nat} (hlo : 64 ∣ s.crew.bmemLo)
    (hn : n ∈ [1, 2, 4, 8]) (h : s.placeLane spad n n ea = .ok a) : a % 64 + n ≤ 64 := by
  unfold State.placeLane at h
  dsimp only at h
  split at h
  · cases h
  · split at h
    · cases h
    · next hal =>
      split at h
      · next p hp =>
        cases h
        exact State.place_fits hlo hn (not_not.mp hal) hp
      · cases h

theorem Ctx.bytes_mem (x : Ctx) : x.bytes ∈ [1, 2, 4, 8] := by
  unfold Ctx.bytes intTy
  split <;> decide

/-! ## The state that a body finds: draws taken (R104) -/

section
variable {s : State} {x : Ctx}

theorem State.crew_takeDraws (s : State) (x : Ctx) :
    (s.updCrew x.takeDraws).crew = { s.crew with lanes := (x.takeDraws s.crew).lanes } := by
  rw [s.crew_updCrew]
  exact x.takeDraws_eq s.crew

theorem State.placeLane_takeDraws (s : State) (x : Ctx) (spad : Bool) (m al : Nat) (ea : Int) :
    (s.updCrew x.takeDraws).placeLane spad m al ea = s.placeLane spad m al ea := by
  rw [State.placeLane_eq, State.placeLane_eq, s.crew_takeDraws]
  rfl

theorem State.crewByte_takeDraws (s : State) (x : Ctx) (spad : Bool) (k : Nat) :
    (s.updCrew x.takeDraws).crewByte spad k = s.crewByte spad k :=
  State.crewByte_congr (s := s) (t := s.updCrew x.takeDraws) (by rw [s.crew_takeDraws x]) rfl spad k

/-- A lane instruction at the head whose body has its effects. -/
theorem exec_of_body {mk : LaneFields → Instr} {shape : State → LaneFields → Shape} {body : Body} {f : LaneFields}
    {e : LaneEntry} {op : BitVec 8} {v : State} (hrun : exec (mk f) s = laneRun (shape s) body f s)
    (hh : s.laneHead op f e) (hok : s.laneOk (shape s f) f e)
    (hb : body (s.laneCtx (shape s f) e f) (s.updCrew (s.laneCtx (shape s f) e f).takeDraws) = .ok v) :
    exec (mk f) s = .next (v.updCrew fun c => c.retire ((shape s f).dst = .long)) := by
  rw [hrun, laneRun_body hh hok]
  unfold State.laneBody
  rw [hb]
  rfl

/-! ## Long-latency results (R107, R158) -/

/-- Results that settle alike in the executing lanes. -/
theorem Ctx.later_congr {g g' : Nat → LaneRes} (h : ∀ i ∈ x.lanes, (g i).settle = (g' i).settle) (c : Crew) :
    x.later g c = x.later g' c := by
  unfold Ctx.later
  dsimp only
  rw [List.map_congr_left fun i hi => by rw [h i hi]]

/-- What a long-latency instruction leaves of the crew (R107). -/
theorem Ctx.later_eq (x : Ctx) (g : Nat → LaneRes) (c : Crew) : x.later g c =
    { c with
      lanes := if x.lanes.isEmpty then c.lanes else (x.mapExec (fun _ l => l.setEmpty (regIndex x.f.dst)) c).lanes
      inflight := c.inflight ++ (if x.lanes.isEmpty then [] else [⟨regIndex x.f.dst, x.e.owner, x.lanes.map fun i =>
        ⟨i, (g i).settle.val, (g i).settle.poison, (g i).settle.flags⟩⟩])
      clock := if x.lanes.isEmpty then c.clock + 1 else c.clock } := by
  unfold Ctx.later
  dsimp only
  split
  · rw [List.append_nil]
  · rfl

/-- A long-latency instruction under way, after the effects of its body: u is the state with these effects, before the draws
of its sources. -/
theorem Ctx.underWay_later {u v : State} {g : Nat → LaneRes} {e : LaneEntry} (honly : u.onlyCrew v)
    (hcrew : v.crew = x.takeDraws u.crew) (hq : u.crew.laneQ.head? = some e) (hrep : e.rep = none)
    (hlen : u.crew.lanes.length = 96) :
    x.underWay g u ((v.updCrew (x.later g)).updCrew fun c => c.retire true) := by
  have htd : (x.takeDraws u.crew).lanes.length = 96 := by rw [x.length_takeDraws, hlen]
  have hc : ((v.updCrew (x.later g)).updCrew fun c => c.retire true).crew =
      (x.later g (x.takeDraws u.crew)).retire true := by
    rw [State.crew_updCrew, State.crew_updCrew, hcrew]
  have hlane (i : Nat) (hi : i < 96) : ((x.later g (x.takeDraws u.crew)).retire true).lane i =
      if x.exec.getLsbD i then ((x.takeDraws u.crew).lane i).setEmpty (regIndex x.f.dst)
      else (x.takeDraws u.crew).lane i := by
    rw [x.later_eq]
    unfold Crew.retire Crew.lane
    dsimp only
    split
    · next hn => rw [Ctx.exec_of_nil hn hi]; rfl
    · exact Crew.lane_mapExec x _ _ (by rwa [htd])
  refine ⟨State.onlyCrew_trans honly (State.onlyCrew_trans (State.onlyCrew_updCrew _ _) (State.onlyCrew_updCrew _ _)), ?_,
    ?_, ?_, ?_, fun i hi => ?_⟩
  · rw [hc, x.later_eq, x.takeDraws_eq u.crew]
    unfold Crew.retire
    dsimp only
    rw [retireHead_none hq hrep]
  · rw [hc, x.later_eq]
    unfold Crew.retire
    dsimp only
    split
    · exact htd
    · rw [x.length_mapExec, htd]
  · rw [hc, x.later_eq, x.takeDraws_eq u.crew]
    rfl
  · rw [hc, x.later_eq, x.takeDraws_eq u.crew]
    rfl
  · rw [hc, hlane i hi, x.lane_takeDraws u.crew (by rwa [hlen])]
    by_cases he : x.exec.getLsbD i
    · simp only [he, if_true, true_and]
      exact ⟨fun n => LaneState.reg_setEmpty _ _ n, rfl, rfl, rfl, rfl, rfl⟩
    · simp only [he, Bool.false_eq_true, if_false, false_and]
      exact ⟨fun _ => trivial, trivial, trivial, trivial, trivial, trivial⟩

end

end Sys2Proof.Machine
end

section
/-! Lane loads and stores, the row and broadcast forms and the spill stack (O28). -/

namespace Sys2Proof.Machine

/-! ## Lane loads (R190, R191, R193) -/

theorem Ctx.ea_indexed (x : Ctx) (i : Nat) : x.ea true i = x.base i +
    (if x.f.sb = 0x18 then 0 else (x.val 1 i).toInt * 2 ^ (x.f.md.toNat % 4)) + x.f.imm.toInt := by
  unfold Ctx.ea
  simp only [Bool.true_and, bne_iff_ne, ne_eq, ite_not]

theorem Ctx.rowEa_eq (x : Ctx) (i : Nat) : x.rowEa i = x.base i + x.f.imm.toInt + i * x.bytes := by
  unfold Ctx.rowEa Ctx.ea
  simp

/-- What a lane load gives (R191, R194). -/
theorem State.loadLane_takeDraws (s : State) (x : Ctx) (t : IntTy) (spad : Bool) (a : Nat) :
    (s.updCrew x.takeDraws).loadLane t spad a =
      ⟨intBits t (leNat ((List.range (t.width / 8)).map fun j => s.crewByte spad (a + j))),
        s.mem.poisoned (spOf spad) a (t.width / 8), 0⟩ := by
  unfold State.loadLane
  dsimp only
  rw [Crew.load_eq]
  have hread : (List.range (t.width / 8)).map (fun j => (s.updCrew x.takeDraws).crewByte spad (a + j)) =
      (List.range (t.width / 8)).map fun j => s.crewByte spad (a + j) :=
    List.map_congr_left fun j _ => s.crewByte_takeDraws x spad (a + j)
  rw [← hread]
  rfl

/-- A result that the body of a long-latency instruction sends in the state that it finds. -/
theorem State.underWay_takeDraws {s : State} {x : Ctx} {g : Nat → LaneRes} {op : BitVec 8} {f : LaneFields}
    {e : LaneEntry} (hh : s.laneHead op f e) :
    x.underWay g s (((s.updCrew x.takeDraws).updCrew (x.later g)).updCrew fun c => c.retire true) := by
  obtain ⟨hq, -, hrep, hlen⟩ := hh
  exact Ctx.underWay_later (s.onlyCrew_updCrew _) (s.crew_updCrew _) hq hrep hlen

/-- The body of a load whose sources are clean and whose addresses are accepted. -/
theorem loadBody_ok {s : State} {x : Ctx} {spad : Bool} {ea : Ctx → Nat → Int} (hlong : x.sh.dst = .long)
    (hclean : ∀ i ∈ x.lanes, ∀ k ∈ [0, 1], x.sh.uses.getLsbD k → x.poison k i = false)
    (hreach : ∀ i ∈ x.lanes, ∃ a, s.placeLane spad x.bytes x.bytes (ea x i) = .ok a) :
    loadBody spad ea x (s.updCrew x.takeDraws) = .ok ((s.updCrew x.takeDraws).updCrew (x.later fun i =>
      ⟨intBits (intTy x.f.fmt.toNat) (leNat ((List.range x.bytes).map fun j =>
          s.crewByte spad (s.placed spad x.bytes x.bytes (ea x i) + j))),
        s.mem.poisoned (spOf spad) (s.placed spad x.bytes x.bytes (ea x i)) x.bytes, 0⟩)) := by
  have hpoison := Ctx.poisonTrap_of_clean (uses := [(0, 0), (1, 0)]) (fun i hi u hu => hclean i hi u.1 (by
    simp only [List.mem_cons, List.not_mem_nil, or_false] at hu
    rcases hu with rfl | rfl
    · decide
    · decide)) fun i => eaBits (ea x i)
  have hrange : (s.updCrew x.takeDraws).rangeTrap spad x.bytes x.bytes x.lanes (ea x) = none :=
    State.rangeTrap_of_placed fun i hi => by
      obtain ⟨a, ha⟩ := hreach i hi
      exact ⟨a, (s.placeLane_takeDraws x ..).trans ha⟩
  unfold loadBody
  simp only [hpoison, hrange, finish_long hlong, State.loadLane_takeDraws, State.placed, State.placeLane_takeDraws]
  rfl

theorem sendsIf_load {mk : LaneFields → Instr} {shape : LaneFields → Shape} {spad : Bool} {ea : Ctx → Nat → Int}
    (hrun : ∀ f s, exec (mk f) s = laneRun shape (loadBody spad ea) f s) (hlong : ∀ f, (shape f).dst = .long) :
    SendsIf mk (fun _ => shape)
      (fun s x => x.clean [0, 1] ∧ ∀ i ∈ x.lanes, ∃ a, s.placeLane spad x.bytes x.bytes (ea x i) = .ok a)
      fun s x i => ⟨intBits (intTy x.f.fmt.toNat) (leNat ((List.range x.bytes).map fun j =>
          s.crewByte spad (s.placed spad x.bytes x.bytes (ea x i) + j))),
        s.mem.poisoned (spOf spad) (s.placed spad x.bytes x.bytes (ea x i)) x.bytes, 0⟩ := by
  refine ⟨stops_of_run hrun, fun s f e hh hok ⟨hclean, hreach⟩ => ⟨_, exec_of_body (shape := fun _ => shape) (hrun f s) hh hok
    (loadBody_ok (hlong f) hclean hreach), ?_⟩⟩
  rw [hlong f]
  exact State.underWay_takeDraws hh

/-! ## Lane stores (R192) -/

theorem State.ckpt_storeLanes (s : State) (spad : Bool) (n : Nat) (l : List (Nat × DWord)) :
    (s.storeLanes spad n l).ckpt = s.ckpt := by
  induction l generalizing s with
  | nil => rfl
  | cons p l ih =>
    refine (ih _).trans ?_
    rw [s.windowStore_frame]

/-- The byte that the last of some stores of n bytes put at a place. -/
def lastStored (spad : Bool) (n : Nat) (l : List (Nat × DWord)) (sp : Bool) (k : Nat) : Option Byte :=
  (l.reverse.find? fun p => sp == spad && decide (p.1 ≤ k) && decide (k < p.1 + n)).map fun p =>
    p.2.extractLsb' (8 * (k - p.1)) 8

theorem lastStored_cons (spad : Bool) (n : Nat) (p : Nat × DWord) (l : List (Nat × DWord)) (sp : Bool) (k : Nat)
    (z : Byte) : (lastStored spad n (p :: l) sp k).getD z = (lastStored spad n l sp k).getD
      (if sp = spad ∧ p.1 ≤ k ∧ k < p.1 + n then p.2.extractLsb' (8 * (k - p.1)) 8 else z) := by
  unfold lastStored
  rw [List.reverse_cons, List.find?_append]
  cases l.reverse.find? fun p => sp == spad && decide (p.1 ≤ k) && decide (k < p.1 + n) with
  | some q => rfl
  | none =>
    by_cases h : sp = spad ∧ p.1 ≤ k ∧ k < p.1 + n
    · simp [h]
    · have hp : (sp == spad && decide (p.1 ≤ k) && decide (k < p.1 + n)) = false := by
        rw [← Bool.not_eq_true, Bool.and_eq_true, Bool.and_eq_true, beq_iff_eq, decide_eq_true_iff, decide_eq_true_iff]
        exact fun hc => h ⟨hc.1.1, hc.1.2, hc.2⟩
      rw [if_neg h, List.find?_singleton, hp]
      rfl

/-- Stores in their order: the crew reads the bytes of the last that reaches a place (R192). -/
theorem State.storeLanes_reads {spad : Bool} {n : Nat} (l : List (Nat × DWord)) (s : State)
    (hw : windowUnique s.crew.window) (hfit : ∀ p ∈ l, p.1 % 64 + n ≤ 64) :
    s.reads (s.storeLanes spad n l) s.crew.spp fun sp k => (lastStored spad n l sp k).getD (s.crewByte sp k) := by
  induction l generalizing s with
  | nil => exact s.reads_refl
  | cons p l ih =>
    obtain ⟨huniq, -, hreads⟩ := State.windowStore_reads (spad := spad) (a := p.1) hw (leBytes n p.2.toNat) (by
      rw [leBytes_length]
      exact hfit p (List.mem_cons_self ..))
    refine State.reads_congr (State.reads_then hreads (ih _ huniq fun q hq => hfit q (List.mem_cons_of_mem _ hq)))
      fun sp k => ?_
    rw [lastStored_cons, hreads.2.2.2.1, leBytes_length]
    refine congrArg _ (ite_congr rfl (fun hin => ?_) fun _ => rfl)
    rw [getD_leBytes _ _ _ (by omega), ofNat_div_eq_extract]

/-- A completed instruction that changed memory through the window, from what its body did in the state that it found. -/
theorem State.lanesStored_of_reads {s v : State} {x : Ctx} {spp : Nat} {read : Bool → Nat → Byte}
    {new : Bool → Nat → Option Byte} {op : BitVec 8} {f : LaneFields} {e : LaneEntry} (hh : s.laneHead op f e)
    (hreads : (s.updCrew x.takeDraws).reads v spp read) (hckpt : v.ckpt = s.ckpt)
    (hnew : ∀ sp k, read sp k = (new sp k).getD (s.crewByte sp k)) :
    s.lanesStored (v.updCrew fun c => c.retire false) spp new := by
  obtain ⟨hq, -, hrep, hlen⟩ := hh
  obtain ⟨hframe, hothers, hcrew, hbyte, hkept⟩ := hreads
  have hcur : v.cur = s.cur := by rw [hframe]; rfl
  have hc : (v.updCrew fun c => c.retire false).crew = v.crew.retire false := v.crew_updCrew _
  rw [s.crew_takeDraws] at hcrew
  refine ⟨?_, fun n hn => ?_, ?_, fun i hi => ?_, fun sp k => ?_, hkept⟩
  · have hv : v = { s with crews := v.crews, mem := v.mem } := hframe.trans (by rw [hckpt]; rfl)
    show { v with crews := (v.updCrew fun c => c.retire false).crews } =
      { s with crews := (v.updCrew fun c => c.retire false).crews, mem := v.mem }
    generalize (v.updCrew fun c => c.retire false).crews = crews
    conv_lhs => rw [hv]
  · refine (State.crewAt_updCrew_ne v _ (by rwa [hcur])).trans ((hothers n hn).trans ?_)
    exact State.crewAt_updCrew_ne s _ hn
  · rw [hc, hcrew]
    unfold Crew.retire
    dsimp only
    rw [retireHead_none hq hrep]
    rfl
  · rw [hc, hcrew]
    have hl := x.lane_takeDraws s.crew (show i < s.crew.lanes.length by rwa [hlen])
    show (x.takeDraws s.crew).lane i = { s.crew.lane i with count := ((x.takeDraws s.crew).lane i).count }
    rw [hl]
  · refine (State.crewByte_congr (s := v) (t := v.updCrew fun c => c.retire false) ?_ rfl sp k).trans
      ((hbyte sp k).trans (hnew sp k))
    rw [hc]
    rfl

/-- The bytes that the executing lanes of a store put into memory, lane i at place a i. -/
theorem lastStored_lanes (x : Ctx) (spad : Bool) (n : Nat) (a : Nat → Nat) (sp : Bool) (k : Nat) :
    lastStored spad n (x.lanes.map fun i => (a i, x.val 2 i)) sp k =
      (x.lanes.reverse.find? fun i => sp == spad && decide (a i ≤ k) && decide (k < a i + n)).map fun i =>
        (x.val 2 i).extractLsb' (8 * (k - a i)) 8 := by
  unfold lastStored
  rw [← List.map_reverse, List.find?_map, Option.map_map]
  rfl

/-- The body of a store whose sources are clean and whose addresses are accepted. -/
theorem storeBody_ok {s : State} {x : Ctx} {spad : Bool} {ea : Ctx → Nat → Int}
    (hclean : ∀ i ∈ x.lanes, ∀ k ∈ [0, 1, 2], x.sh.uses.getLsbD k → x.poison k i = false)
    (hreach : ∀ i ∈ x.lanes, ∃ a, s.placeLane spad x.bytes x.bytes (ea x i) = .ok a) :
    storeBody spad ea x (s.updCrew x.takeDraws) = .ok ((s.updCrew x.takeDraws).storeLanes spad x.bytes
      (x.lanes.map fun i => (s.placed spad x.bytes x.bytes (ea x i), x.val 2 i))) := by
  have hpoison := Ctx.poisonTrap_of_clean (uses := [(0, 0), (1, 0), (2, 1)]) (fun i hi u hu => hclean i hi u.1 (by
    simp only [List.mem_cons, List.not_mem_nil, or_false] at hu
    rcases hu with rfl | rfl | rfl <;> decide)) fun i => eaBits (ea x i)
  have hrange : (s.updCrew x.takeDraws).rangeTrap spad x.bytes x.bytes x.lanes (ea x) = none :=
    State.rangeTrap_of_placed fun i hi => by
      obtain ⟨a, ha⟩ := hreach i hi
      exact ⟨a, (s.placeLane_takeDraws x ..).trans ha⟩
  unfold storeBody
  simp only [hpoison, hrange, State.placed, State.placeLane_takeDraws]

/-- What a store leaves (R192). -/
theorem State.lanesStored_storeLanes {s : State} {x : Ctx} {spad : Bool} {ea : Ctx → Nat → Int} {op : BitVec 8}
    {f : LaneFields} {e : LaneEntry} (hh : s.laneHead op f e) (hw : windowUnique s.crew.window) (hlo : 64 ∣ s.crew.bmemLo)
    (hreach : ∀ i ∈ x.lanes, ∃ a, s.placeLane spad x.bytes x.bytes (ea x i) = .ok a) :
    s.lanesStored (((s.updCrew x.takeDraws).storeLanes spad x.bytes
        (x.lanes.map fun i => (s.placed spad x.bytes x.bytes (ea x i), x.val 2 i))).updCrew fun c => c.retire false)
      s.crew.spp fun sp k => (x.lanes.reverse.find? fun i =>
        sp == spad && decide (s.placed spad x.bytes x.bytes (ea x i) ≤ k) &&
          decide (k < s.placed spad x.bytes x.bytes (ea x i) + x.bytes)).map fun i =>
            (x.val 2 i).extractLsb' (8 * (k - s.placed spad x.bytes x.bytes (ea x i))) 8 := by
  have hcrew := s.crew_takeDraws x
  have hreads := State.storeLanes_reads (spad := spad) (n := x.bytes)
    (x.lanes.map fun i => (s.placed spad x.bytes x.bytes (ea x i), x.val 2 i)) (s.updCrew x.takeDraws) (by rwa [hcrew])
    fun p hp => ?_
  · rw [show (s.updCrew x.takeDraws).crew.spp = s.crew.spp by rw [hcrew]] at hreads
    refine State.lanesStored_of_reads hh hreads (State.ckpt_storeLanes ..) fun sp k => ?_
    rw [lastStored_lanes, s.crewByte_takeDraws]
  · obtain ⟨i, hi, rfl⟩ := List.mem_map.mp hp
    obtain ⟨a, ha⟩ := hreach i hi
    unfold State.placed
    rw [ha]
    exact State.placeLane_fits hlo x.bytes_mem ha

theorem retires_store {mk : LaneFields → Instr} {shape : LaneFields → Shape} {spad : Bool} {ea : Ctx → Nat → Int}
    (hrun : ∀ f s, exec (mk f) s = laneRun shape (storeBody spad ea) f s) (hnone : ∀ f, (shape f).dst = .none) :
    Retires mk (fun _ => shape)
      (fun s x => x.clean [0, 1, 2] ∧ (∀ i ∈ x.lanes, ∃ a, s.placeLane spad x.bytes x.bytes (ea x i) = .ok a) ∧
        windowUnique s.crew.window ∧ 64 ∣ s.crew.bmemLo)
      fun x s t => s.lanesStored t s.crew.spp fun sp k => (x.lanes.reverse.find? fun i =>
        sp == spad && decide (s.placed spad x.bytes x.bytes (ea x i) ≤ k) &&
          decide (k < s.placed spad x.bytes x.bytes (ea x i) + x.bytes)).map fun i =>
            (x.val 2 i).extractLsb' (8 * (k - s.placed spad x.bytes x.bytes (ea x i))) 8 := by
  refine ⟨stops_of_run hrun, fun s f e hh hok ⟨hclean, hreach, hw, hlo⟩ => ⟨_,
    exec_of_body (shape := fun _ => shape) (hrun f s) hh hok (storeBody_ok hclean hreach), ?_⟩⟩
  rw [hnone f]
  exact State.lanesStored_storeLanes hh hw hlo hreach

/-! ## The row forms (R193) -/

theorem firstTrap_eq_none {l : List (Bool × TrapInfo)} : firstTrap l = none ↔ ∀ p ∈ l, p.1 = false := by
  induction l with
  | nil => simp [firstTrap]
  | cons p l ih =>
    obtain ⟨b, t⟩ := p
    cases b with
    | true => simp [firstTrap]
    | false => simpa [firstTrap] using ih

/-- An operand check that holds of an accepted encoding: a source obeys its rule. -/
theorem Shape.rule_of_check {sh : Shape} {priv det : Bool} {fmtr : Word} {f : LaneFields}
    (h : sh.check priv det fmtr f = none) {k : Nat} (hk : k < 3) (hon : sh.uses.getLsbD k = true) :
    (sh.rule k).ok (srcCode f k) = true := by
  have hmem := firstTrap_eq_none.mp h (sh.uses.getLsbD k && ((srcCode f k == 0x1D && sh.imm.isSome) ||
    (srcCode f k == 0x1E && det) || (sh.kind = .float && isIdentity (srcCode f k)) ||
    (sh.kind ≠ .float && isLateConst (srcCode f k)) || !(sh.rule k).ok (srcCode f k)),
    laneInfo 0x02 (2 + k) (srcCode f k).toNat) (List.mem_cons_of_mem _ (List.mem_append_left _ (List.mem_append_right _ (by
      unfold Shape.operands
      refine List.mem_append_right _ (List.mem_flatMap.mpr ⟨k, List.mem_range.mpr hk, ?_⟩)
      exact List.mem_cons_of_mem _ (List.mem_cons_of_mem _ (List.mem_singleton.mpr rfl))))))
  simp only [hon, Bool.true_and, Bool.or_eq_false_iff, Bool.not_eq_false'] at hmem
  exact hmem.2

/-- A base that is an s register or nothing holds no poison (R190). -/
theorem isLaneValue_of_sbase {c : BitVec 8} (h : SrcRule.sbase.ok c = true) : isLaneValue c = false := by
  revert h
  revert c
  decide

/-- A row form whose addresses are accepted and lie in one row. -/
theorem rowBody_ok {s : State} {x : Ctx} (body : Body)
    (hreach : ∀ i ∈ x.lanes, ∃ a, s.placeLane true x.bytes x.bytes (x.rowEa i) = .ok a)
    (hrow : ∀ i ∈ x.lanes, ∀ j ∈ x.lanes, x.rowEa i / 8192 = x.rowEa j / 8192) :
    rowBody body x (s.updCrew x.takeDraws) = body x (s.updCrew x.takeDraws) := by
  have hrange : (s.updCrew x.takeDraws).rangeTrap true x.bytes x.bytes x.lanes x.rowEa = none :=
    State.rangeTrap_of_placed fun i hi => by
      obtain ⟨a, ha⟩ := hreach i hi
      exact ⟨a, (s.placeLane_takeDraws x ..).trans ha⟩
  have htrap : x.rowTrap = none := by
    unfold Ctx.rowTrap
    split
    · rfl
    · next low rest hl =>
      refine Option.map_eq_none_iff.mpr (List.find?_eq_none.mpr fun i hi hbad => ?_)
      rw [bne_iff_ne] at hbad
      exact hbad (hrow i hi low (by rw [hl]; exact List.mem_cons_self ..))
  unfold rowBody
  rw [hrange, htrap]

/-- The base of a row form is not poisoned. -/
theorem State.poison_of_sbase {s : State} {sh : Shape} {f : LaneFields} {e : LaneEntry} (hok : s.laneOk sh f e)
    (hrule : sh.ruleA = .sbase) (hon : sh.uses.getLsbD 0 = true) (i : Nat) : (s.laneCtx sh e f).poison 0 i = false := by
  have hc := Shape.rule_of_check hok.1 (k := 0) (by decide) hon
  rw [show sh.rule 0 = .sbase from hrule] at hc
  unfold Ctx.poison
  rw [show srcCode (s.laneCtx sh e f).f 0 = srcCode f 0 from rfl, isLaneValue_of_sbase hc, Bool.false_and]

theorem sendsIf_ldsr : SendsIf .ldsr (fun _ _ => { shMem 0x58 1 .long with ruleA := .sbase })
    (fun s x => (∀ i ∈ x.lanes, ∃ a, s.placeLane true x.bytes x.bytes (x.rowEa i) = .ok a) ∧
      ∀ i ∈ x.lanes, ∀ j ∈ x.lanes, x.rowEa i / 8192 = x.rowEa j / 8192)
    fun s x i => ⟨intBits (intTy x.f.fmt.toNat) (leNat ((List.range x.bytes).map fun j =>
        s.crewByte true (s.placed true x.bytes x.bytes (x.rowEa i) + j))),
      s.mem.poisoned (spOf true) (s.placed true x.bytes x.bytes (x.rowEa i)) x.bytes, 0⟩ := by
  refine ⟨stops_of_run fun _ _ => rfl, fun s f e hh hok ⟨hreach, hrow⟩ => ⟨_, exec_of_body (mk := .ldsr)
    (shape := fun _ _ => { shMem 0x58 1 .long with ruleA := .sbase }) rfl hh hok
    ((rowBody_ok _ hreach hrow).trans (loadBody_ok rfl (fun i _ k hk hon => ?_) hreach)), State.underWay_takeDraws hh⟩⟩
  simp only [List.mem_cons, List.not_mem_nil, or_false] at hk
  rcases hk with rfl | rfl
  · exact State.poison_of_sbase hok rfl (show (1 : BitVec 3).getLsbD 0 = true by decide) i
  · exact absurd hon (show ¬(1 : BitVec 3).getLsbD 1 = true by decide)

theorem retires_stsr : Retires .stsr (fun _ _ => { shMem 0x59 5 .none with ruleA := .sbase })
    (fun s x => x.clean [2] ∧ (∀ i ∈ x.lanes, ∃ a, s.placeLane true x.bytes x.bytes (x.rowEa i) = .ok a) ∧
      (∀ i ∈ x.lanes, ∀ j ∈ x.lanes, x.rowEa i / 8192 = x.rowEa j / 8192) ∧
      windowUnique s.crew.window ∧ 64 ∣ s.crew.bmemLo)
    fun x s t => s.lanesStored t s.crew.spp fun sp k => (x.lanes.reverse.find? fun i =>
      sp == true && decide (s.placed true x.bytes x.bytes (x.rowEa i) ≤ k) &&
        decide (k < s.placed true x.bytes x.bytes (x.rowEa i) + x.bytes)).map fun i =>
          (x.val 2 i).extractLsb' (8 * (k - s.placed true x.bytes x.bytes (x.rowEa i))) 8 := by
  refine ⟨stops_of_run fun _ _ => rfl, fun s f e hh hok ⟨hclean, hreach, hrow, hw, hlo⟩ => ⟨_, exec_of_body (mk := .stsr)
    (shape := fun _ _ => { shMem 0x59 5 .none with ruleA := .sbase }) rfl hh hok ?_,
    State.lanesStored_storeLanes (ea := Ctx.rowEa) hh hw hlo hreach⟩⟩
  have hpoison := Ctx.poisonTrap_of_clean (x := s.laneCtx { shMem 0x59 5 .none with ruleA := .sbase } e f)
    (uses := [(2, 1)]) (fun i hi u hu => hclean i hi u.1 (by
      rw [List.mem_singleton.mp hu]
      decide)) fun i => eaBits ((s.laneCtx { shMem 0x59 5 .none with ruleA := .sbase } e f).rowEa i)
  dsimp only
  rw [hpoison]
  refine (rowBody_ok _ hreach hrow).trans (storeBody_ok (fun i hi k hk hon => ?_) hreach)
  simp only [List.mem_cons, List.not_mem_nil, or_false] at hk
  rcases hk with rfl | rfl | rfl
  · exact State.poison_of_sbase hok rfl (show (5 : BitVec 3).getLsbD 0 = true by decide) i
  · exact absurd hon (show ¬(5 : BitVec 3).getLsbD 1 = true by decide)
  · exact hclean i hi 2 (List.mem_singleton.mpr rfl) hon

theorem sendsIf_ldsb : SendsIf .ldsb (fun _ => shIndexed 0x7F 3 .long)
    (fun s x => (∀ i ∈ x.lanes.take 1, ∀ k < 2, x.poison k i = false) ∧
      ∀ i ∈ x.lanes.take 1, ∃ a, s.placeLane true x.bytes x.bytes (x.ea true i) = .ok a)
    fun s x _ => ⟨intBits (intTy x.f.fmt.toNat) (leNat ((List.range x.bytes).map fun j =>
        s.crewByte true (s.placed true x.bytes x.bytes (x.ea true (x.lanes.headD 0)) + j))),
      s.mem.poisoned (spOf true) (s.placed true x.bytes x.bytes (x.ea true (x.lanes.headD 0))) x.bytes, 0⟩ := by
  refine ⟨stops_of_run fun _ _ => rfl, fun s f e hh hok ⟨hclean, hreach⟩ => ⟨_, exec_of_body (mk := .ldsb)
    (shape := fun _ => shIndexed 0x7F 3 .long) rfl hh hok ?_, State.underWay_takeDraws hh⟩⟩
  generalize hx : s.laneCtx (shIndexed 0x7F 3 .long f) e f = x at hclean hreach ⊢
  have hlong : x.sh.dst = .long := by
    rw [← hx]
    rfl
  dsimp only
  cases hl : x.lanes with
  | nil =>
    refine (finish_long hlong _ _).trans (congrArg (fun g => Act.ok ((s.updCrew x.takeDraws).updCrew g)) ?_)
    exact funext fun c => Ctx.later_congr (fun i hi => by rw [hl] at hi; cases hi) c
  | cons low rest =>
    rw [hl] at hclean hreach
    have hlow : low ∈ (low :: rest).take 1 := List.mem_cons_self ..
    have hpoison := Ctx.poisonTrap_of_clean (x := x) (lanes := [low]) (uses := [(0, 0), (1, 0)]) (fun i hi u hu _ => by
      rw [List.mem_singleton.mp hi]
      refine hclean low hlow u.1 ?_
      simp only [List.mem_cons, List.not_mem_nil, or_false] at hu
      rcases hu with rfl | rfl
      · exact Nat.zero_lt_two
      · exact Nat.one_lt_two) fun i => eaBits (x.ea true i)
    have hrange : (s.updCrew x.takeDraws).rangeTrap true x.bytes x.bytes [low] (x.ea true) = none :=
      State.rangeTrap_of_placed fun i hi => by
        rw [List.mem_singleton.mp hi]
        obtain ⟨a, ha⟩ := hreach low hlow
        exact ⟨a, (s.placeLane_takeDraws x ..).trans ha⟩
    dsimp only
    rw [hpoison, hrange]
    refine (finish_long hlong _ _).trans ?_
    simp only [State.loadLane_takeDraws, State.placed, State.placeLane_takeDraws, List.headD_cons]
    rfl

end Sys2Proof.Machine
end

section
/-! The spill stack, PUSHV and POPV (R194), and the lane accesses to memory as a whole (O28). -/

namespace Sys2Proof.Machine

/-! ## Slots written in the array (R194) -/

theorem Mem.byte_storeNat (m : Mem) (spad : Bool) (a n v : Nat) (sp : Bool) (k : Nat) :
    (m.storeNat (spOf spad) a n v).byte (spOf sp) k =
      if sp = spad ∧ a ≤ k ∧ k < a + n then .ofNat 8 (v / 2 ^ (8 * (k - a))) else m.byte (spOf sp) k := by
  have hlen : (leBytes n v).length = n := leBytes_length n v
  unfold Mem.storeNat
  split
  · next h =>
    obtain ⟨rfl, hlo, hhi⟩ := h
    have hb := Mem.byte_store_inside m (spOf sp) a (k - a) (leBytes n v) (by omega)
    rw [show a + (k - a) = k by omega] at hb
    rw [hb, ← getD_leBytes n v (k - a) (by omega), List.getD_eq_getElem _ _ (by omega)]
  · next h =>
    rw [Mem.byte_store_outside]
    rw [hlen]
    by_cases hs : sp = spad
    · exact .inr (by by_contra hc; exact h ⟨hs, by omega, by omega⟩)
    · exact .inl fun hc => hs (spOf_inj.mp hc)

theorem Mem.byte_pushSlot (m : Mem) (a : Nat) (v : DWord) (p sp : Bool) (k : Nat) :
    (m.pushSlot a v p).byte (spOf sp) k =
      if sp = false ∧ a ≤ k ∧ k < a + 8 then v.extractLsb' (8 * (k - a)) 8 else m.byte (spOf sp) k := by
  rw [← ofNat_div_eq_extract, ← Mem.byte_storeNat]
  unfold Mem.pushSlot Mem.byte
  dsimp only
  split
  · exact congrArg (memGet · k) (Mem.space_tags ..)
  · rfl

/-- The slots of a frame written one after another: slots of different lanes do not overlap. -/
theorem Mem.byte_pushSlots (b : Nat) (v : Nat → DWord) (p : Nat → Bool) (l : List Nat) (m : Mem) (sp : Bool) (k : Nat) :
    (l.foldl (fun m i => m.pushSlot (b + 8 * i) (v i) (p i)) m).byte (spOf sp) k =
      ((l.find? fun i => !sp && decide (b + 8 * i ≤ k) && decide (k < b + 8 * i + 8)).map fun i =>
        (v i).extractLsb' (8 * (k - (b + 8 * i))) 8).getD (m.byte (spOf sp) k) := by
  induction l generalizing m with
  | nil => rfl
  | cons i l ih =>
    rw [List.foldl_cons, ih, Mem.byte_pushSlot, List.find?_cons]
    by_cases h : sp = false ∧ b + 8 * i ≤ k ∧ k < b + 8 * i + 8
    · have hi : (!sp && decide (b + 8 * i ≤ k) && decide (k < b + 8 * i + 8)) = true := by simp [h]
      rw [hi, if_pos h]
      dsimp only
      cases hf : l.find? fun i => !sp && decide (b + 8 * i ≤ k) && decide (k < b + 8 * i + 8) with
      | none => rfl
      | some j =>
        have hj := List.find?_some hf
        simp only [Bool.and_eq_true, decide_eq_true_iff] at hj
        obtain rfl : j = i := by omega
        rfl
    · have hi : (!sp && decide (b + 8 * i ≤ k) && decide (k < b + 8 * i + 8)) = false := by
        rw [← Bool.not_eq_true, Bool.and_eq_true, Bool.and_eq_true, Bool.not_eq_true', decide_eq_true_iff,
          decide_eq_true_iff]
        exact fun hc => h ⟨hc.1.1, hc.1.2, hc.2⟩
      rw [hi, if_neg h]

theorem mem_mapErase {α : Type} {m : List (Nat × α)} {k j : Nat} {v : α} (h : (j, v) ∈ m) (hjk : j ≠ k) :
    (j, v) ∈ mapErase m k := by
  induction m with
  | nil => cases h
  | cons x m ih =>
    obtain ⟨i, w⟩ := x
    unfold mapErase
    rcases List.mem_cons.mp h with h | h
    · rw [Prod.mk.injEq] at h
      rw [if_neg (h.1 ▸ hjk), h.1, h.2]
      exact List.mem_cons_self ..
    · split
      · exact ih h
      · exact List.mem_cons_of_mem _ (ih h)

theorem mem_mapInsert {α : Type} {m : List (Nat × α)} {k : Nat} {v : α} {x : Nat × α} :
    x ∈ mapInsert m k v ↔ x = (k, v) ∨ x ∈ m := by
  induction m with
  | nil => simp [mapInsert]
  | cons y m ih =>
    unfold mapInsert
    split
    · exact List.mem_cons
    · rw [List.mem_cons, ih, List.mem_cons]
      tauto

/-- A tag set stays where another is set. -/
theorem mem_mapSet_true {m : List (Nat × Bool)} {k j : Nat} : (j, true) ∈ m ∨ j = k → (j, true) ∈ mapSet false m k true := by
  intro h
  unfold mapSet
  rw [if_neg (by decide), mem_mapInsert]
  by_cases hjk : j = k
  · exact .inl (by rw [hjk])
  · exact .inr (mem_mapErase (h.resolve_right hjk) hjk)

/-- A slot written to block memory clears the tag of no other slot's word. -/
theorem Mem.tags_storeNat {m : Mem} {b i j v : Nat} (hij : i ≠ j) (h : ((b + 8 * i) / 8, true) ∈ m.tags) :
    ((b + 8 * i) / 8, true) ∈ (m.storeNat .bmem (b + 8 * j) 8 v).tags := by
  unfold Mem.storeNat Mem.store
  simp only [if_true, leBytes_length, reduceCtorEq, if_false]
  refine List.mem_filter.mpr ⟨h, ?_⟩
  rw [Bool.or_eq_true, decide_eq_true_iff, decide_eq_true_iff]
  omega

theorem Mem.poisoned_of_tag {m : Mem} {a : Nat} (h : (a / 8, true) ∈ m.tags) : m.poisoned .bmem a 8 = true := by
  have hany : m.tags.any (fun x => x.2 && a / 8 ≤ x.1 && x.1 ≤ (a + 8 - 1) / 8) = true := by
    refine List.any_eq_true.mpr ⟨_, h, ?_⟩
    rw [Bool.and_eq_true, Bool.and_eq_true, decide_eq_true_iff, decide_eq_true_iff]
    exact ⟨⟨rfl, le_refl _⟩, Nat.div_le_div_right (by omega)⟩
  unfold Mem.poisoned
  dsimp only
  rw [hany]
  simp

theorem Mem.tags_pushSlot {m : Mem} {b i j : Nat} {v : DWord} {p : Bool}
    (h : (i = j ∧ p = true) ∨ (i ≠ j ∧ ((b + 8 * i) / 8, true) ∈ m.tags)) :
    ((b + 8 * i) / 8, true) ∈ (m.pushSlot (b + 8 * j) v p).tags := by
  unfold Mem.pushSlot
  dsimp only
  rcases h with ⟨rfl, rfl⟩ | ⟨hij, h⟩
  · exact mem_mapSet_true (.inr rfl)
  · have hkept := Mem.tags_storeNat (v := v.toNat) hij h
    split
    · exact mem_mapSet_true (.inl hkept)
    · exact hkept

/-- The tags of the poisoned slots of a frame (R194). -/
theorem Mem.tags_pushSlots (b : Nat) (v : Nat → DWord) (p : Nat → Bool) (l : List Nat) (m : Mem) (i : Nat)
    (h : (i ∈ l ∧ p i = true) ∨ (i ∉ l ∧ ((b + 8 * i) / 8, true) ∈ m.tags)) :
    ((b + 8 * i) / 8, true) ∈ (l.foldl (fun m i => m.pushSlot (b + 8 * i) (v i) (p i)) m).tags := by
  induction l generalizing m with
  | nil =>
    rcases h with h | h
    · cases h.1
    · exact h.2
  | cons j l ih =>
    rw [List.foldl_cons]
    refine ih _ ?_
    by_cases hil : i ∈ l
    · exact .inl ⟨hil, h.elim And.right fun h => absurd (List.mem_cons_of_mem _ hil) h.1⟩
    · refine .inr ⟨hil, Mem.tags_pushSlot ?_⟩
      rcases h with ⟨hmem, hp⟩ | ⟨hnot, htag⟩
      · obtain rfl := (List.mem_cons.mp hmem).resolve_right hil
        exact .inl ⟨rfl, hp⟩
      · exact .inr ⟨fun hij => hnot (hij ▸ List.mem_cons_self ..), htag⟩

theorem Mem.coreKept_pushSlot (m : Mem) (a : Nat) (v : DWord) (p : Bool) : m.coreKept (m.pushSlot a v p) := by
  have hstore := Mem.coreKept_store m false a (leBytes 8 v.toNat)
  unfold Mem.pushSlot
  dsimp only
  split
  · exact hstore
  · exact hstore

/-! ## A frame of the spill stack (R194) -/

section
variable {s : State} (hw : windowUnique s.crew.window) (spp : Nat)

theorem State.slotAddr_drainFrame (s : State) (spp q i : Nat) : (s.drainFrame q).slotAddr spp i = s.slotAddr spp i := by
  unfold State.slotAddr State.drainFrame
  rw [s.cur_drainIf, s.crew_drainIf]

theorem State.slotAddr_eq (s : State) (spp i : Nat) : s.slotAddr spp i = s.slotAddr spp 0 + 8 * i := by
  unfold State.slotAddr
  omega

/-- The granules of a frame have no entry after they have drained. -/
theorem State.windowFind_drainFrame {k : Nat} (hlo : s.slotAddr spp 0 ≤ k) (hhi : k < s.slotAddr spp 0 + 768) :
    windowFind (s.drainFrame spp).crew.window false (k / 64) = none := by
  unfold State.drainFrame
  rw [s.crew_drainIf]
  refine windowFind_eq_none.mpr fun e he heq => ?_
  have hout := (List.mem_filter.mp he).2
  rw [heq.1, heq.2] at hout
  simp only [Bool.not_false, Bool.true_and, Bool.not_eq_true', Bool.and_eq_false_iff, decide_eq_false_iff_not] at hout
  omega

/-- A write to the array that a crew's window does not cover, with SPP at a value. -/
theorem State.reads_array {m : Mem} {read : Bool → Nat → Byte} (hcore : s.mem.coreKept m)
    (h : ∀ sp k, winByte (windowFind s.crew.window sp (k / 64)) (k % 64) (m.byte (spOf sp) k) = read sp k) :
    s.reads ({ s with mem := m }.updCrew fun c => { c with spp := spp }) spp read := by
  have hcrew : ({ s with mem := m }.updCrew fun c => { c with spp := spp }).crew = { s.crew with spp := spp } :=
    State.crew_updCrew { s with mem := m } _
  refine ⟨rfl, fun n hn => State.crewAt_updCrew_ne { s with mem := m } _ hn, ?_, fun sp k => ?_, hcore⟩
  · rw [hcrew]
  · rw [State.crewByte_eq, hcrew]
    exact h sp k

/-- Memory after the slots of some lanes have been written, v and p the value and the poison of each. -/
def State.frameMem (s : State) (spp : Nat) (v : Nat → DWord) (p : Nat → Bool) (l : List Nat) : Mem :=
  l.foldl (fun m i => m.pushSlot (s.slotAddr spp 0 + 8 * i) (v i) (p i)) (s.drainFrame spp).mem

include hw

/-- What PUSHV does in the state that it finds. -/
theorem State.reads_pushSlots (q : Nat) (v : Nat → DWord) (p : Nat → Bool) (l : List Nat) (hl : ∀ i ∈ l, i < 96) :
    s.reads ({ s.drainFrame spp with mem := s.frameMem spp v p l }.updCrew fun c => { c with spp := q }) q fun sp k =>
      ((l.find? fun i => !sp && decide (s.slotAddr spp 0 + 8 * i ≤ k) && decide (k < s.slotAddr spp 0 + 8 * i + 8)).map
        fun i => (v i).extractLsb' (8 * (k - (s.slotAddr spp 0 + 8 * i))) 8).getD (s.crewByte sp k) := by
  have hdrain : s.reads (s.drainFrame spp) s.crew.spp s.crewByte := State.reads_drainIf hw _
  have hcore := foldl_keeps (s.drainFrame spp).mem.coreKept
    (fun m i => m.pushSlot (s.slotAddr spp 0 + 8 * i) (v i) (p i)) l (s.drainFrame spp).mem
    (fun n i _ hn => Mem.coreKept_trans hn (n.coreKept_pushSlot _ _ _)) (Mem.coreKept_refl _)
  refine State.reads_trans hdrain (State.reads_array q hcore fun sp k => ?_)
  rw [State.frameMem, Mem.byte_pushSlots, ← hdrain.2.2.2.1 sp k, State.crewByte_eq]
  cases hf : l.find? fun i => !sp && decide (s.slotAddr spp 0 + 8 * i ≤ k) &&
      decide (k < s.slotAddr spp 0 + 8 * i + 8) with
  | none => rfl
  | some i =>
    have hi := List.find?_some hf
    have hlt := hl i (List.mem_of_find?_eq_some hf)
    simp only [Bool.and_eq_true, decide_eq_true_iff, Bool.not_eq_true'] at hi
    obtain ⟨⟨rfl, hlo⟩, hhi⟩ := hi
    rw [State.windowFind_drainFrame (s := s) spp (by omega) (by omega), winByte_none]
    rfl

end

theorem Ctx.lt_of_mem_lanes {x : Ctx} {i : Nat} (h : i ∈ x.lanes) : i < 96 :=
  List.mem_range.mp (List.mem_filter.mp h).1

theorem State.slotAddr_takeDraws (s : State) (x : Ctx) (spp i : Nat) :
    (s.updCrew x.takeDraws).slotAddr spp i = s.slotAddr spp i := by
  unfold State.slotAddr
  rw [s.crew_takeDraws x]
  rfl

/-- The state that the body of PUSHV leaves. -/
def Ctx.pushedFrame (x : Ctx) (s : State) : State :=
  { s.drainFrame (x.c.spp - 768) with mem := s.frameMem (x.c.spp - 768) (x.val 0) (x.poison 0) x.lanes }.updCrew
    fun c => { c with spp := x.c.spp - 768 }

theorem execPushv_ok {s : State} {f : LaneFields} {e : LaneEntry} (hh : s.laneHead 0x5A f e)
    (hok : s.laneOk { Shape.bare 0x5A with uses := 1 } f e) (hroom : s.crew.spillLo + 768 ≤ s.crew.spp) :
    let x := s.laneCtx { Shape.bare 0x5A with uses := 1 } e f
    exec (.pushv f) s = .next ((x.pushedFrame (s.updCrew x.takeDraws)).updCrew fun c => c.retire false) := by
  intro x
  refine exec_of_body (mk := .pushv) (shape := fun _ _ => { Shape.bare 0x5A with uses := 1 }) rfl hh hok ?_
  have hspp : ¬(x.c.spp < x.c.spillLo + 768) := Nat.not_lt.mpr hroom
  refine (if_neg hspp).trans ?_
  have hslot (i : Nat) : ((s.updCrew x.takeDraws).drainFrame (x.c.spp - 768)).slotAddr (x.c.spp - 768) i =
      (s.updCrew x.takeDraws).slotAddr (x.c.spp - 768) 0 + 8 * i :=
    (State.slotAddr_drainFrame ..).trans (State.slotAddr_eq ..)
  unfold Ctx.pushedFrame State.frameMem
  simp only [← hslot]
  rfl

theorem retires_pushv : Retires .pushv (fun _ _ => { Shape.bare 0x5A with uses := 1 })
    (fun s _ => s.crew.spillLo + 768 ≤ s.crew.spp ∧ windowUnique s.crew.window ∧ 64 ∣ s.crew.bmemLo)
    fun x s t =>
      (s.lanesStored t (s.crew.spp - 768) fun sp k =>
        (x.lanes.find? fun i => !sp && decide (s.slotAddr (s.crew.spp - 768) i ≤ k) &&
          decide (k < s.slotAddr (s.crew.spp - 768) i + 8)).map fun i =>
            (x.val 0 i).extractLsb' (8 * (k - s.slotAddr (s.crew.spp - 768) i)) 8) ∧
      ∀ i ∈ x.lanes, x.poison 0 i → t.mem.poisoned .bmem (s.slotAddr (s.crew.spp - 768) i) 8 := by
  refine ⟨stops_of_run fun _ _ => rfl, fun s f e hh hok ⟨hroom, hw, _⟩ => ⟨_, execPushv_ok hh hok hroom, ?_, ?_⟩⟩
  · generalize hx : s.laneCtx { Shape.bare 0x5A with uses := 1 } e f = x
    have hspp : x.c.spp = s.crew.spp := by rw [← hx]; rfl
    have hreads := State.reads_pushSlots (s := s.updCrew x.takeDraws) (by rwa [s.crew_takeDraws x]) (s.crew.spp - 768)
      (s.crew.spp - 768) (x.val 0) (x.poison 0) x.lanes fun i => Ctx.lt_of_mem_lanes
    unfold Ctx.pushedFrame
    rw [hspp]
    refine State.lanesStored_of_reads hh hreads ?_ fun sp k => ?_
    · show ((s.updCrew x.takeDraws).drainFrame (s.crew.spp - 768)).ckpt = s.ckpt
      unfold State.drainFrame
      rw [State.drainIf_frame]
      rfl
    · simp only [State.slotAddr_takeDraws, State.crewByte_takeDraws, ← State.slotAddr_eq]
  · intro i hi hp
    rw [State.slotAddr_eq, ← s.slotAddr_takeDraws (s.laneCtx { Shape.bare 0x5A with uses := 1 } e f)]
    exact Mem.poisoned_of_tag (Mem.tags_pushSlots _ _ _ _ _ i (.inl ⟨hi, hp⟩))

/-! ## POPV (R194) -/

/-- The state with the crew's lanes as they were before the draws. -/
def State.relane (v s : State) : State := v.updCrew fun c => { c with lanes := s.crew.lanes }

/-- A long-latency result after effects of the body: the state with these effects and the lanes before the draws is what it
is sent from. -/
theorem State.underWay_relane {s v : State} {x : Ctx} {g : Nat → LaneRes} {op : BitVec 8} {f : LaneFields} {e : LaneEntry}
    (hh : s.laneHead op f e) (hlanes : v.crew.lanes = (x.takeDraws s.crew).lanes) (hq : v.crew.laneQ = s.crew.laneQ) :
    x.underWay g (v.relane s) ((v.updCrew (x.later g)).updCrew fun c => c.retire true) := by
  obtain ⟨hhead, -, hrep, hlen⟩ := hh
  have hc : (v.relane s).crew = { v.crew with lanes := s.crew.lanes } := v.crew_updCrew _
  have hdraws : (x.takeDraws (v.relane s).crew).lanes = (x.takeDraws s.crew).lanes := by
    rw [hc]
    unfold Ctx.takeDraws
    split <;> rfl
  refine Ctx.underWay_later ⟨rfl, fun n hn => (State.crewAt_updCrew_ne v _ hn).symm⟩ ?_ ?_ hrep ?_
  · rw [x.takeDraws_eq, hdraws, hc, ← hlanes]
  · rw [hc, ← hhead, ← hq]
  · rw [hc, hlen]

/-- What the crew reads in the state with the lanes before the draws. -/
theorem State.reads_relane {s v : State} {x : Ctx} {spp : Nat} {read : Bool → Nat → Byte}
    (h : (s.updCrew x.takeDraws).reads v spp read) : s.reads (v.relane s) spp read := by
  obtain ⟨hframe, hothers, hcrew, hbyte, hkept⟩ := h
  have hc : (v.relane s).crew = { v.crew with lanes := s.crew.lanes } := v.crew_updCrew _
  have hcur : v.cur = s.cur := by
    rw [hframe]
    rfl
  rw [s.crew_takeDraws x] at hcrew
  refine ⟨?_, fun n hn => ?_, ?_, fun sp k => ?_, hkept⟩
  · show { v with crews := (v.relane s).crews } =
      { s with crews := (v.relane s).crews, mem := v.mem, ckpt := v.ckpt }
    generalize (v.relane s).crews = crews
    conv_lhs => rw [hframe]
    rfl
  · refine (State.crewAt_updCrew_ne v _ (by rwa [hcur])).trans ((hothers n hn).trans ?_)
    exact State.crewAt_updCrew_ne s _ hn
  · rw [hc, hcrew]
  · refine (State.crewByte_congr (s := v) (t := v.relane s) ?_ rfl sp k).trans (hbyte sp k)
    rw [hc]

/-- The state that the body of POPV finds its results in. -/
def Ctx.poppedFrame (x : Ctx) (s : State) : State :=
  (s.drainFrame x.c.spp).updCrew fun c => { c with spp := x.c.spp + 768 }

theorem Mem.nat_eq_crewByte {s : State} {a n : Nat}
    (h : ∀ j < n, windowFind s.crew.window false ((a + j) / 64) = none) :
    s.mem.nat .bmem a n = leNat ((List.range n).map fun j => s.crewByte false (a + j)) := by
  rw [Mem.nat_eq]
  refine congrArg leNat (List.map_congr_left fun j hj => ?_)
  exact (State.crewByte_of_find_none (h j (List.mem_range.mp hj))).symm

/-- What the frame that POPV reads holds for a lane. -/
def State.popped (s : State) (spp i : Nat) : LaneRes :=
  ⟨.ofNat 64 (s.mem.nat .bmem (s.slotAddr spp i) 8), s.mem.poisoned .bmem (s.slotAddr spp i) 8, 0⟩

theorem execPopv_ok {s : State} {f : LaneFields} {e : LaneEntry} (hh : s.laneHead 0x5B f e)
    (hok : s.laneOk { Shape.bare 0x5B with dst := .long } f e) (hroom : s.crew.spp + 768 ≤ s.crew.spillHi) :
    let x := s.laneCtx { Shape.bare 0x5B with dst := .long } e f
    let v := x.poppedFrame (s.updCrew x.takeDraws)
    exec (.popv f) s = .next ((v.updCrew (x.later (v.popped x.c.spp))).updCrew fun c => c.retire true) := by
  intro x v
  refine exec_of_body (mk := .popv) (shape := fun _ _ => { Shape.bare 0x5B with dst := .long }) rfl hh hok ?_
  have hspp : ¬(x.c.spillHi < x.c.spp + 768) := Nat.not_lt.mpr hroom
  exact (if_neg hspp).trans (finish_long rfl _ _)

section
variable {s : State} {x : Ctx} (hw : windowUnique s.crew.window) (hspp : x.c.spp = s.crew.spp)
include hw hspp

theorem Ctx.reads_poppedFrame : s.reads (x.poppedFrame s) (s.crew.spp + 768) s.crewByte := by
  have hdrain : s.reads (s.drainFrame s.crew.spp) s.crew.spp s.crewByte := State.reads_drainIf hw _
  unfold Ctx.poppedFrame
  rw [hspp]
  exact State.reads_trans hdrain (State.reads_array _ (Mem.coreKept_refl _) hdrain.2.2.2.1)

theorem Ctx.popped_poppedFrame {i : Nat} (hi : i < 96) : (x.poppedFrame s).popped s.crew.spp i =
    ⟨.ofNat 64 (leNat ((List.range 8).map fun j => s.crewByte false (s.slotAddr s.crew.spp i + j))),
      (x.poppedFrame s).mem.poisoned .bmem (s.slotAddr s.crew.spp i) 8, 0⟩ := by
  have hcrew : (x.poppedFrame s).crew = { (s.drainFrame x.c.spp).crew with spp := x.c.spp + 768 } :=
    State.crew_updCrew _ _
  have hslot : (x.poppedFrame s).slotAddr s.crew.spp i = s.slotAddr s.crew.spp i := by
    rw [← State.slotAddr_drainFrame s s.crew.spp x.c.spp]
    unfold State.slotAddr
    rw [hcrew]
    rfl
  have hnone (j : Nat) (hj : j < 8) :
      windowFind (x.poppedFrame s).crew.window false ((s.slotAddr s.crew.spp i + j) / 64) = none := by
    rw [hcrew, hspp, State.slotAddr_eq]
    exact State.windowFind_drainFrame (s := s) s.crew.spp (by omega) (by omega)
  unfold State.popped
  rw [hslot, Mem.nat_eq_crewByte hnone]
  simp only [(Ctx.reads_poppedFrame hw hspp).2.2.2.1]

end

theorem retires_popv : Retires .popv (fun _ _ => { Shape.bare 0x5B with dst := .long })
    (fun s _ => s.crew.spp + 768 ≤ s.crew.spillHi ∧ windowUnique s.crew.window ∧ 64 ∣ s.crew.bmemLo)
    fun x s t => ∃ u, s.reads u (s.crew.spp + 768) s.crewByte ∧
      x.underWay (fun i =>
        ⟨.ofNat 64 (leNat ((List.range 8).map fun j => s.crewByte false (s.slotAddr s.crew.spp i + j))),
          u.mem.poisoned .bmem (s.slotAddr s.crew.spp i) 8, 0⟩) u t := by
  refine ⟨stops_of_run fun _ _ => rfl, fun s f e hh hok ⟨hroom, hw, _⟩ => ⟨_, execPopv_ok hh hok hroom, ?_⟩⟩
  generalize hx : s.laneCtx { Shape.bare 0x5B with dst := .long } e f = x
  have htaken : (s.updCrew x.takeDraws).crew = { s.crew with lanes := (x.takeDraws s.crew).lanes } := s.crew_takeDraws x
  have hspp : x.c.spp = (s.updCrew x.takeDraws).crew.spp := by
    rw [htaken, ← hx]
    rfl
  have hkept : (s.updCrew x.takeDraws).crew.spp = s.crew.spp := by rw [htaken]
  have hw' : windowUnique (s.updCrew x.takeDraws).crew.window := by rwa [htaken]
  have hreads := Ctx.reads_poppedFrame hw' hspp
  have hpopped (i : Nat) (hi : i ∈ x.lanes) := Ctx.popped_poppedFrame hw' hspp (Ctx.lt_of_mem_lanes hi)
  rw [hspp]
  generalize x.poppedFrame (s.updCrew x.takeDraws) = v at hreads hpopped ⊢
  have hvcrew := hreads.2.2.1
  rw [htaken] at hvcrew
  refine ⟨v.relane s, ?_, ?_⟩
  · refine State.reads_congr (State.reads_relane (hkept ▸ hreads)) fun sp k => s.crewByte_takeDraws x sp k
  · rw [funext fun c => Ctx.later_congr (fun i hi => congrArg LaneRes.settle (hpopped i hi)) c]
    simp only [State.crewByte_takeDraws, State.slotAddr_takeDraws, hkept]
    refine State.underWay_relane hh ?_ ?_
    · rw [hvcrew]
    · rw [hvcrew]

/-! ## The lane accesses together (O28) -/

/-- Settles O28. -/
theorem laneMemory : Obligations.LaneMemory := by
  unfold Obligations.LaneMemory
  intro base index n ea rowEa spot reach orderly loaded stores oneRow
  have hea : (fun x i => x.ea true i) = ea := funext fun x => funext fun i => x.ea_indexed i
  have hrow : Ctx.rowEa = rowEa := funext fun x => funext fun i => x.rowEa_eq i
  refine ⟨fun s spad m al ea => s.placeLane_eq spad m al ea, fun p hp => ?_, fun p hp => ?_, ?_, ?_, ?_, ?_, ?_⟩
  · simp only [List.mem_cons, List.not_mem_nil, or_false] at hp
    rcases hp with rfl | rfl
    · exact sendsIf_load (mk := .ldb) (fun f s => by rw [← hea]; rfl) fun _ => rfl
    · exact sendsIf_load (mk := .lds) (fun f s => by rw [← hea]; rfl) fun _ => rfl
  · simp only [List.mem_cons, List.not_mem_nil, or_false] at hp
    rcases hp with rfl | rfl
    · exact retires_store (mk := .stb) (fun f s => by rw [← hea]; rfl) fun _ => rfl
    · exact retires_store (mk := .sts) (fun f s => by rw [← hea]; rfl) fun _ => rfl
  · have h := sendsIf_ldsr
    rw [hrow] at h
    exact h
  · have h := retires_stsr
    rw [hrow] at h
    exact h
  · have h := sendsIf_ldsb
    simp only [Ctx.ea_indexed] at h
    exact h
  · exact retires_pushv
  · exact retires_popv

end Sys2Proof.Machine
end

section
/-! What poison a store and a drain leave (R194, R195, R214), for the atomics of O29. -/

namespace Sys2Proof.Machine

/-! ## Poison after a store -/

theorem Mem.poison_store (m : Mem) (spad : Bool) (a : Nat) (bs : List Byte) (sp : Bool) :
    (m.store (spOf spad) a bs).poison (spOf sp) =
      if sp = spad then flagsClear (m.poison (spOf sp)) ((a + 63) / 64) ((a + bs.length) / 64 - (a + 63) / 64)
      else m.poison (spOf sp) := by
  cases spad <;> cases sp <;> rfl

theorem Mem.tags_store (m : Mem) (spad : Bool) (a : Nat) (bs : List Byte) :
    (m.store (spOf spad) a bs).tags =
      if spad then m.tags else flagsClear m.tags ((a + 7) / 8) ((a + bs.length) / 8 - (a + 7) / 8) := by
  cases spad <;> rfl

/-- The marks of a list that are set and whose keys lie in a range. -/
def marked (m : List (Nat × Bool)) (lo hi : Nat) : Prop := ∃ k, (k, true) ∈ m ∧ lo ≤ k ∧ k ≤ hi

theorem any_marked (m : List (Nat × Bool)) (lo hi : Nat) :
    (m.any fun x => x.2 && lo ≤ x.1 && x.1 ≤ hi) = true ↔ marked m lo hi := by
  rw [List.any_eq_true]
  constructor
  · rintro ⟨⟨k, b⟩, hk, hx⟩
    simp only [Bool.and_eq_true, decide_eq_true_iff] at hx
    obtain ⟨⟨rfl, hlo⟩, hhi⟩ := hx
    exact ⟨k, hk, hlo, hhi⟩
  · rintro ⟨k, hk, hlo, hhi⟩
    exact ⟨(k, true), hk, by simp [hlo, hhi]⟩

/-- A location of the two spaces is poisoned where a mark of its granules is set or, in block memory, a tag of its words. -/
theorem Mem.poisoned_iff (m : Mem) (sp : Bool) (b n : Nat) : m.poisoned (spOf sp) b n = true ↔
    n ≠ 0 ∧ (marked (m.poison (spOf sp)) (b / 64) ((b + n - 1) / 64) ∨
      (sp = false ∧ marked m.tags (b / 8) ((b + n - 1) / 8))) := by
  have hunit : poisonUnit (spOf sp) = 64 := by cases sp <;> rfl
  have hsp : (spOf sp == .bmem) = !sp := by cases sp <;> rfl
  unfold Mem.poisoned
  dsimp only
  rw [hunit, hsp, Bool.and_eq_true, Bool.or_eq_true, Bool.and_eq_true, any_marked, any_marked, bne_iff_ne,
    Bool.not_eq_true']

theorem marked_flagsClear {m : List (Nat × Bool)} {a n lo hi : Nat} : marked (flagsClear m a n) lo hi ↔
    ∃ k, (k, true) ∈ m ∧ lo ≤ k ∧ k ≤ hi ∧ (k < a ∨ a + n ≤ k) := by
  unfold marked flagsClear
  refine exists_congr fun k => ?_
  rw [List.mem_filter, Bool.or_eq_true, decide_eq_true_iff, decide_eq_true_iff]
  tauto

theorem marked_of_flagsClear {m : List (Nat × Bool)} {a n lo hi : Nat} (h : marked (flagsClear m a n) lo hi) :
    marked m lo hi := by
  obtain ⟨k, hk, hlo, hhi, -⟩ := marked_flagsClear.mp h
  exact ⟨k, hk, hlo, hhi⟩

/-- A store poisons nothing. -/
theorem Mem.poisoned_of_store {m : Mem} {spad : Bool} {a : Nat} {bs : List Byte} {sp : Bool} {b n : Nat}
    (h : (m.store (spOf spad) a bs).poisoned (spOf sp) b n = true) : m.poisoned (spOf sp) b n = true := by
  rw [Mem.poisoned_iff, Mem.poison_store, Mem.tags_store] at h
  obtain ⟨hn, h⟩ := h
  refine (m.poisoned_iff sp b n).mpr ⟨hn, h.imp (fun h => ?_) fun h => ⟨h.1, ?_⟩⟩
  · split at h
    · exact marked_of_flagsClear h
    · exact h
  · have htag := h.2
    split at htag
    · exact htag
    · exact marked_of_flagsClear htag

/-- Poison that no cleared mark carries stays: clear says what marks of granules and words a store may clear. -/
theorem Mem.poisoned_store_of {m : Mem} {spad : Bool} {a : Nat} {bs : List Byte} {sp : Bool} {b n : Nat}
    (hgran : sp = spad → ∀ k, (k, true) ∈ m.poison (spOf sp) → b / 64 ≤ k → k ≤ (b + n - 1) / 64 →
      k < (a + 63) / 64 ∨ (a + bs.length) / 64 ≤ k)
    (hword : sp = false → spad = false → ∀ k, (k, true) ∈ m.tags → b / 8 ≤ k → k ≤ (b + n - 1) / 8 →
      k < (a + 7) / 8 ∨ (a + bs.length) / 8 ≤ k)
    (h : m.poisoned (spOf sp) b n = true) : (m.store (spOf spad) a bs).poisoned (spOf sp) b n = true := by
  obtain ⟨hn, h⟩ := (m.poisoned_iff sp b n).mp h
  rw [Mem.poisoned_iff, Mem.poison_store, Mem.tags_store]
  refine ⟨hn, h.imp (fun h => ?_) fun h => ⟨h.1, ?_⟩⟩
  · split
    · next hs =>
      obtain ⟨k, hk, hlo, hhi⟩ := h
      have hkept := hgran hs k hk hlo hhi
      exact marked_flagsClear.mpr ⟨k, hk, hlo, hhi, by omega⟩
    · exact h
  · split
    · exact h.2
    · next hs =>
      obtain ⟨hsp, k, hk, hlo, hhi⟩ := h
      have hkept := hword hsp (Bool.not_eq_true _ |>.mp hs) k hk hlo hhi
      exact marked_flagsClear.mpr ⟨k, hk, hlo, hhi, by omega⟩

/-- A store to a location that is not poisoned leaves the poison of every location. -/
theorem Mem.poisoned_store_clean {m : Mem} {spad : Bool} {a : Nat} {bs : List Byte}
    (hclean : m.poisoned (spOf spad) a bs.length = false) (sp : Bool) (b n : Nat) :
    (m.store (spOf spad) a bs).poisoned (spOf sp) b n = m.poisoned (spOf sp) b n := by
  refine Bool.eq_iff_iff.mpr ⟨Mem.poisoned_of_store, Mem.poisoned_store_of (fun hs k hk _ _ => ?_) fun _ hs k hk _ _ => ?_⟩
  · by_contra hin
    refine Bool.eq_false_iff.mp hclean ((m.poisoned_iff spad a bs.length).mpr ⟨by omega, .inl ⟨k, hs ▸ hk, ?_, ?_⟩⟩)
    · omega
    · omega
  · by_contra hin
    refine Bool.eq_false_iff.mp hclean ((m.poisoned_iff spad a bs.length).mpr ⟨by omega, .inr ⟨hs, k, hk, ?_, ?_⟩⟩)
    · omega
    · omega

/-- A store leaves the poison of a location in another granule. -/
theorem Mem.poisoned_store_apart {m : Mem} {spad : Bool} {g a : Nat} {bs : List Byte} (hlo : 64 * g ≤ a)
    (hhi : a + bs.length ≤ 64 * g + 64) {sp : Bool} {b n : Nat} (hapart : ¬(sp = spad ∧ b / 64 = g))
    (hfit : b % 64 + n ≤ 64) :
    (m.store (spOf spad) a bs).poisoned (spOf sp) b n = m.poisoned (spOf sp) b n := by
  refine Bool.eq_iff_iff.mpr ⟨Mem.poisoned_of_store, Mem.poisoned_store_of (fun hs k _ hlo hhi => ?_)
    fun hs hs' k _ hlo hhi => ?_⟩
  · have : b / 64 ≠ g := fun h => hapart ⟨hs, h⟩
    omega
  · have : b / 64 ≠ g := fun h => hapart ⟨hs.trans hs'.symm, h⟩
    omega

/-! ## Poison after a drain (R24) -/

/-- The poison that a memory leaves of another: it adds none, and none goes outside a granule. -/
def Mem.poisonKept (m n : Mem) (spad : Bool) (g : Nat) : Prop :=
  ∀ sp b k, b % 64 + k ≤ 64 → (n.poisoned (spOf sp) b k = true → m.poisoned (spOf sp) b k = true) ∧
    (¬(sp = spad ∧ b / 64 = g) → n.poisoned (spOf sp) b k = m.poisoned (spOf sp) b k)

theorem Mem.poisonKept_refl (m : Mem) (spad : Bool) (g : Nat) : m.poisonKept m spad g :=
  fun _ _ _ _ => ⟨id, fun _ => rfl⟩

theorem Mem.poisonKept_store {m n : Mem} {spad : Bool} {g a : Nat} {bs : List Byte} (h : m.poisonKept n spad g)
    (hlo : 64 * g ≤ a) (hhi : a + bs.length ≤ 64 * g + 64) : m.poisonKept (n.store (spOf spad) a bs) spad g :=
  fun sp b k hfit => ⟨fun hp => (h sp b k hfit).1 (Mem.poisoned_of_store hp), fun hapart =>
    (Mem.poisoned_store_apart hlo hhi hapart hfit).trans ((h sp b k hfit).2 hapart)⟩

theorem WinEntry.poisonKept_drain (e : WinEntry) {m n : Mem} (h : m.poisonKept n e.spad e.granule) :
    m.poisonKept (e.drain n) e.spad e.granule := by
  unfold WinEntry.drain
  dsimp only
  split
  · exact Mem.poisonKept_store h (le_refl _) (by simp)
  · refine foldl_keeps (m.poisonKept · e.spad e.granule) _ _ n (fun n j hj hn => ?_) h
    have hj := List.mem_range.mp hj
    split
    · exact Mem.poisonKept_store hn (by omega) (by simp; omega)
    · refine foldl_keeps (m.poisonKept · e.spad e.granule) _ _ n (fun n i hi hn => ?_) hn
      have hi := List.mem_range.mp hi
      split
      · exact Mem.poisonKept_store hn (by omega) (by simp; omega)
      · exact hn

theorem State.poisonKept_drainGranule (s : State) (spad : Bool) (a : Nat) :
    s.mem.poisonKept (s.drainGranule s.cur spad a).mem spad (a / 64) := by
  unfold State.drainGranule
  rw [s.mem_drainIf]
  refine foldl_keeps (s.mem.poisonKept · spad (a / 64)) _ _ _ (fun n e he hn => ?_) (s.mem.poisonKept_refl spad (a / 64))
  have hp := (List.mem_filter.mp he).2
  rw [Bool.and_eq_true, beq_iff_eq, beq_iff_eq] at hp
  obtain ⟨rfl, hg⟩ := hp
  rw [← hg] at hn ⊢
  exact e.poisonKept_drain hn

/-- A drain leaves the poison of a location whose granule has no entry where it is poisoned. -/
theorem State.poisoned_drainGranule {s : State} {spad : Bool} {a : Nat} {sp : Bool} {b n : Nat} (hfit : b % 64 + n ≤ 64)
    (h : s.mem.poisoned (spOf sp) b n = true → windowFind s.crew.window sp (b / 64) = none) :
    (s.drainGranule s.cur spad a).mem.poisoned (spOf sp) b n = s.mem.poisoned (spOf sp) b n := by
  obtain ⟨hmono, hapart⟩ := s.poisonKept_drainGranule spad a sp b n hfit
  by_cases hsame : sp = spad ∧ b / 64 = a / 64
  · cases hp : s.mem.poisoned (spOf sp) b n with
    | false => exact Bool.eq_false_iff.mpr fun hd => Bool.eq_false_iff.mp hp (hmono hd)
    | true =>
      rw [State.mem_drainGranule_of_none (s := s) (spad := spad) (a := a) (by rw [← hsame.1, ← hsame.2]; exact h hp), hp]
  · exact hapart hsame

end Sys2Proof.Machine
end

section
/-! Lane atomics at the array and buffered (O29). -/

namespace Sys2Proof.Machine

/-! ## The lanes of an atomic in their order (R195) -/

theorem State.crew_atomLane (s : State) (o : AtomOp) :
    (s.atomLane o).1.crew = (s.drainGranule s.cur o.spad o.addr).crew := by
  unfold State.atomLane
  dsimp only
  split <;> rfl

/-- What a lane of an atomic receives: a poisoned location gives a poisoned zero (R195). -/
def AtomOp.result (o : AtomOp) (taint : AtomOp → Bool) (old : Nat) : LaneRes :=
  ⟨o.value old, taint o, (o.apply old).2⟩

/-- The operation does not cross a granule, taint says whether its location is poisoned, and a poisoned location has no entry
in its granule. -/
def AtomOp.fine (o : AtomOp) (s : State) (taint : AtomOp → Bool) : Prop :=
  o.addr % 64 + o.bytes ≤ 64 ∧ s.mem.poisoned (spOf o.spad) o.addr o.bytes = taint o ∧
    (taint o = true → windowFind s.crew.window o.spad (o.addr / 64) = none)

/-- What atomic o leaves of the bytes that a crew reads: nothing where its location is poisoned. -/
def AtomOp.reads (o : AtomOp) (taint : AtomOp → Bool) (read : Bool → Nat → Byte) : Bool → Nat → Byte :=
  if taint o then read else o.on read

section
variable {s : State} (hw : windowUnique s.crew.window) {taint : AtomOp → Bool} {o : AtomOp} (hfine : o.fine s taint)
include hw hfine

/-- One lane of an atomic at the array: what it receives and what the crew then reads. -/
theorem State.atomLane_reads : (s.atomLane o).2.settle = (o.result taint (o.old s.crewByte)).settle ∧
    s.reads (s.atomLane o).1 s.crew.spp (o.reads taint s.crewByte) := by
  obtain ⟨hfit, htaint, hnone⟩ := hfine
  have hdrained := State.poisoned_drainGranule (spad := o.spad) (a := o.addr) hfit fun h => hnone (htaint ▸ h)
  rw [htaint] at hdrained
  unfold AtomOp.reads
  cases ht : taint o with
  | true =>
    obtain ⟨hres, -, hreads⟩ := State.atomLane_poisoned hw (hdrained.trans ht)
    refine ⟨?_, hreads⟩
    rw [hres]
    unfold AtomOp.result
    rw [ht]
    rfl
  | false =>
    obtain ⟨hres, -, hreads⟩ := State.atomLane_acts hw hfit (hdrained.trans ht)
    refine ⟨?_, hreads⟩
    rw [hres]
    unfold AtomOp.result
    rw [ht]

/-- One lane of an atomic leaves the other lanes' locations as they were: poisoned or not, and without entries. -/
theorem State.fine_atomLane {p : AtomOp} (hp : p.fine s taint) : p.fine (s.atomLane o).1 taint := by
  obtain ⟨hfit, htaint, hnone⟩ := hfine
  obtain ⟨hpfit, hptaint, hpnone⟩ := hp
  have hdrained := State.poisoned_drainGranule (spad := o.spad) (a := o.addr) hfit fun h => hnone (htaint ▸ h)
  have hpdrained := State.poisoned_drainGranule (spad := o.spad) (a := o.addr) hpfit fun h => hpnone (hptaint ▸ h)
  rw [htaint] at hdrained
  rw [hptaint] at hpdrained
  refine ⟨hpfit, ?_, fun ht => ?_⟩
  · rw [← hpdrained]
    cases ht : taint o with
    | true =>
      rw [(State.atomLane_poisoned hw (hdrained.trans ht)).2.1]
    | false =>
      rw [(State.atomLane_acts hw hfit (hdrained.trans ht)).2.1]
      exact Mem.poisoned_store_clean (by rw [leBytes_length]; exact hdrained.trans ht) _ _ _
  · rw [s.crew_atomLane]
    unfold State.drainGranule
    rw [s.crew_drainIf]
    exact (windowFind_filter hw _ _ _).trans (by rw [hpnone ht]; rfl)

end

theorem AtomOp.fine_logOp {o : AtomOp} {s : State} {taint : AtomOp → Bool} (h : o.fine s taint) (r : LogRecord) :
    o.fine (s.logOp r) taint := by
  obtain ⟨hcrew, hmem, -⟩ := s.kept_logOp r
  unfold AtomOp.fine
  rwa [hcrew, hmem]

/-- The first operation of a list acts, then the rest do. -/
theorem atomsOn_cons (taint : AtomOp → Bool) (read : Bool → Nat → Byte) (o : AtomOp) (rest : List AtomOp) :
    atomsOn taint read (o :: rest) =
      ((atomsOn taint (o.reads taint read) rest).1, (o.lane, o.old read) :: (atomsOn taint (o.reads taint read) rest).2) := by
  have hread : (fun (sp : Bool) (k : Nat) => if !taint o ∧ sp = o.spad ∧ o.addr ≤ k ∧ k < o.addr + o.bytes then
      BitVec.ofNat 8 ((o.apply (o.old read)).1 / 2 ^ (8 * (k - o.addr))) else read sp k) = o.reads taint read := by
    funext sp k
    unfold AtomOp.reads
    cases taint o with
    | true => simp
    | false =>
      unfold AtomOp.on
      simp only [Bool.not_false, true_and, Bool.false_eq_true, if_false]
      rfl
  rw [← hread]
  rfl

section
variable (f : Nat → AtomOp) (hlane : ∀ i, (f i).lane = i) (opc : Nat)
include hlane

/-- The lanes of an atomic at the array, in their order (R195). -/
theorem State.atomLanes_reads {taint : AtomOp → Bool} (lanes : List Nat) (s : State) (hw : windowUnique s.crew.window)
    (hfine : ∀ i ∈ lanes, (f i).fine s taint) :
    s.reads (s.atomLanes opc false (lanes.map f)).1 s.crew.spp (atomsOn taint s.crewByte (lanes.map f)).1 ∧
      ∀ i ∈ lanes, (mapGet ⟨0, false, 0⟩ (s.atomLanes opc false (lanes.map f)).2 i).settle =
        ((f i).result taint (mapGet 0 (atomsOn taint s.crewByte (lanes.map f)).2 i)).settle := by
  induction lanes generalizing s with
  | nil => exact ⟨s.reads_refl, fun i hi => by cases hi⟩
  | cons i lanes ih =>
    have hlog := s.reads_logOp (s.objRecord opc (some (f i).lane) (f i).spad (f i).addr)
    have hfine' (j : Nat) (hj : j ∈ i :: lanes) :=
      AtomOp.fine_logOp (hfine j hj) (s.objRecord opc (some (f i).lane) (f i).spad (f i).addr)
    have hw' : windowUnique (s.logOp (s.objRecord opc (some (f i).lane) (f i).spad (f i).addr)).crew.window := by
      rwa [(s.kept_logOp _).1]
    have hread : (s.logOp (s.objRecord opc (some (f i).lane) (f i).spad (f i).addr)).crewByte = s.crewByte :=
      funext fun sp => funext fun k => hlog.2.2.2.1 sp k
    have hstep : s.atomLanes opc false ((i :: lanes).map f) =
        (let r := (s.logOp (s.objRecord opc (some (f i).lane) (f i).spad (f i).addr)).atomLane (f i)
         let t := r.1.atomLanes opc false (lanes.map f)
         (t.1, ((f i).lane, r.2) :: t.2)) := rfl
    rw [hstep, List.map_cons, atomsOn_cons]
    generalize s.logOp (s.objRecord opc (some (f i).lane) (f i).spad (f i).addr) = u at hlog hfine' hw' hread ⊢
    obtain ⟨hres, hreads⟩ := State.atomLane_reads hw' (hfine' i (List.mem_cons_self ..))
    obtain ⟨htreads, htres⟩ := ih (u.atomLane (f i)).1 (State.atomLane_unique hw') fun j hj =>
      State.fine_atomLane hw' (hfine' i (List.mem_cons_self ..)) (hfine' j (List.mem_cons_of_mem _ hj))
    have hact : (u.atomLane (f i)).1.crewByte = (f i).reads taint s.crewByte := by
      rw [← hread]
      exact funext fun sp => funext fun k => hreads.2.2.2.1 sp k
    rw [hact] at htreads htres
    rw [hread] at hres
    refine ⟨State.reads_then (State.reads_then hlog hreads) htreads, fun j hj => ?_⟩
    unfold mapGet
    rw [hlane i]
    split
    · next hij =>
      subst hij
      exact hres
    · next hij => exact htres j ((List.mem_cons.mp hj).resolve_left fun h => hij h.symm)

end

/-! ## The lanes of a buffered atomic (R36) -/

theorem Mem.nat_lt (m : Mem) (sp : Sp) (a n : Nat) : m.nat sp a n < 2 ^ (8 * n) := by
  rw [Mem.nat_eq]
  exact leNat_bytes_lt _ n

/-- A first read that is kept changes no first read: it is what the next one would find. -/
theorem Crew.firstRead_keepRead (c : Crew) (m : Mem) {spad : Bool} {a n : Nat} (hn : n ≤ 8) (sp : Bool) (b k : Nat) :
    (c.keepRead m spad a n).firstRead m sp b k = c.firstRead m sp b k := by
  unfold Crew.keepRead
  split
  · rfl
  · unfold Crew.firstRead
    dsimp only
    rw [List.find?_append]
    cases c.firstReads.find? fun r => r.spad == sp && r.addr == b && r.bytes == k with
    | some r => rfl
    | none =>
      rw [List.find?_singleton]
      by_cases hsame : (spad == sp && a == b && n == k) = true
      · simp only [hsame, if_true]
        simp only [Bool.and_eq_true, beq_iff_eq] at hsame
        obtain ⟨⟨rfl, rfl⟩, rfl⟩ := hsame
        exact Nat.mod_eq_of_lt (lt_of_lt_of_le (m.nat_lt _ a n) (Nat.pow_le_pow_right (by decide) (by omega)))
      · simp only [hsame, Bool.false_eq_true, if_false]
        rfl

/-- What buffered operations leave: the crew keeps its first reads and the updates, and every first read is as it was. -/
def State.buffers (s t : State) (ops : List AtomOp) : Prop :=
  t = { s with crews := t.crews, ckpt := t.ckpt } ∧ (∀ n, n ≠ s.cur → t.crewAt n = s.crewAt n) ∧
    t.crew = { s.crew with firstReads := t.crew.firstReads, buffered := s.crew.buffered ++ ops.map AtomOp.update } ∧
    ∀ sp b k, t.crew.firstRead t.mem sp b k = s.crew.firstRead s.mem sp b k

theorem State.buffers_trans {s t u : State} {ops ops' : List AtomOp} (h : s.buffers t ops) (h' : t.buffers u ops') :
    s.buffers u (ops ++ ops') := by
  obtain ⟨hframe, hothers, hcrew, hread⟩ := h
  obtain ⟨hframe', hothers', hcrew', hread'⟩ := h'
  have hcur : t.cur = s.cur := by rw [hframe]
  refine ⟨?_, fun n hn => (hothers' n (by rwa [hcur])).trans (hothers n hn), ?_, fun sp b k =>
    (hread' sp b k).trans (hread sp b k)⟩
  · rw [hframe']
    generalize u.crews = crews, u.ckpt = ckpt
    rw [hframe]
  · rw [hcrew', hcrew, List.map_append, List.append_assoc]

theorem State.buffers_refl (s : State) : s.buffers s [] := by
  refine ⟨rfl, fun _ _ => rfl, ?_, fun _ _ _ => rfl⟩
  rw [List.map_nil, List.append_nil]

theorem State.buffers_logOp (s : State) (r : LogRecord) : s.buffers (s.logOp r) [] := by
  rw [s.logOp_frame r]
  refine ⟨rfl, fun _ _ => rfl, ?_, fun _ _ _ => rfl⟩
  rw [List.map_nil, List.append_nil]
  rfl

/-- The location of an operation is not poisoned and its granule has no entry. -/
def AtomOp.bufferable (o : AtomOp) (s : State) : Prop :=
  o.bytes ≤ 8 ∧ windowFind s.crew.window o.spad (o.addr / 64) = none ∧
    s.mem.poisoned (spOf o.spad) o.addr o.bytes = false

theorem AtomOp.bufferable_of_buffers {o : AtomOp} {s t : State} {ops : List AtomOp} (h : o.bufferable s)
    (hb : s.buffers t ops) : o.bufferable t := by
  obtain ⟨hframe, -, hcrew, -⟩ := hb
  unfold AtomOp.bufferable
  rw [hcrew, hframe]
  exact h

theorem State.buffers_bufferLane {s : State} {o : AtomOp} (h : o.bufferable s) :
    (s.bufferLane o).2 = ⟨o.value (s.crew.firstRead s.mem o.spad o.addr o.bytes), false, 0⟩ ∧
      s.buffers (s.bufferLane o).1 [o] := by
  obtain ⟨hn, hnone, hclean⟩ := h
  obtain ⟨hres, ⟨honly, hothers⟩, hcrew⟩ := State.bufferLane_keeps hnone hclean
  refine ⟨hres, ?_, hothers, ?_, fun sp b k => ?_⟩
  · conv_lhs => rw [honly]
    rw [show (s.bufferLane o).1.ckpt = s.ckpt by rw [honly]]
  · rw [hcrew]
    rfl
  · rw [show (s.bufferLane o).1.mem = s.mem by rw [honly], ← s.crew.firstRead_keepRead s.mem hn, hcrew]
    rfl

section
variable (f : Nat → AtomOp) (hlane : ∀ i, (f i).lane = i) (opc : Nat)
include hlane

/-- The lanes of a buffered atomic, in their order (R36). -/
theorem State.atomLanes_buffers (lanes : List Nat) (s : State) (hfine : ∀ i ∈ lanes, (f i).bufferable s) :
    s.buffers (s.atomLanes opc true (lanes.map f)).1 (lanes.map f) ∧
      ∀ i ∈ lanes, mapGet ⟨0, false, 0⟩ (s.atomLanes opc true (lanes.map f)).2 i =
        ⟨(f i).value (s.crew.firstRead s.mem (f i).spad (f i).addr (f i).bytes), false, 0⟩ := by
  induction lanes generalizing s with
  | nil => exact ⟨s.buffers_refl, fun i hi => by cases hi⟩
  | cons i lanes ih =>
    have hlog := s.buffers_logOp (s.objRecord opc (some (f i).lane) (f i).spad (f i).addr)
    have hstep : s.atomLanes opc true ((i :: lanes).map f) =
        (let r := (s.logOp (s.objRecord opc (some (f i).lane) (f i).spad (f i).addr)).bufferLane (f i)
         let t := r.1.atomLanes opc true (lanes.map f)
         (t.1, ((f i).lane, r.2) :: t.2)) := rfl
    rw [hstep]
    generalize s.logOp (s.objRecord opc (some (f i).lane) (f i).spad (f i).addr) = u at hlog ⊢
    obtain ⟨hres, hbuf⟩ := State.buffers_bufferLane (AtomOp.bufferable_of_buffers (hfine i (List.mem_cons_self ..)) hlog)
    have hboth := State.buffers_trans hlog hbuf
    obtain ⟨hrest, htres⟩ := ih (u.bufferLane (f i)).1 fun j hj =>
      AtomOp.bufferable_of_buffers (hfine j (List.mem_cons_of_mem _ hj)) hboth
    refine ⟨State.buffers_trans hboth hrest, fun j hj => ?_⟩
    unfold mapGet
    rw [hlane i]
    split
    · next hij =>
      subst hij
      rw [hres, hlog.2.2.2]
    · next hij =>
      rw [htres j ((List.mem_cons.mp hj).resolve_left fun h => hij h.symm), hboth.2.2.2]

end

/-! ## The body of an atomic (R36, R195, R196) -/

/-- The bytes of an atomic. -/
def Ctx.atomBytes (x : Ctx) : Nat := if x.sh.kind = .float then fmtWidth x.f.fmt.toNat / 8 else x.bytes

/-- The operation of a lane of an atomic at an address. -/
def State.atomOp (s : State) (x : Ctx) (spad cas : Bool) (ea : Nat → Int) (i : Nat) : AtomOp :=
  { spad := spad, addr := s.placed spad x.atomBytes x.atomBytes (ea i)
    ty := if x.sh.kind = .float then 16 + x.f.fmt.toNat else x.f.fmt.toNat
    op := x.f.md.toNat % 8, lane := i, b := x.val 1 i, swap := if cas then some (x.val 2 i) else none
    rnd := x.rounding i 0, mode := x.mode, fmtr := x.e.fmtr }

/-- The operations of the executing lanes of an atomic, performed or buffered in their order. -/
def Ctx.atomRun (x : Ctx) (s : State) (spad cas buffer : Bool) : State × List (Nat × LaneRes) :=
  s.atomLanes x.sh.op.toNat buffer (x.lanes.map fun i => s.atomOp x spad cas (x.ea false) i)

theorem State.atomOp_takeDraws (s : State) (x y : Ctx) (spad cas : Bool) (ea : Nat → Int) (i : Nat) :
    (s.updCrew y.takeDraws).atomOp x spad cas ea i = s.atomOp x spad cas ea i := by
  unfold State.atomOp State.placed
  rw [s.placeLane_takeDraws y]

theorem State.replayReady_takeDraws (s : State) (x : Ctx) (opc : Nat) (lane : Option Nat) (spad : Bool) (a : Nat) :
    (s.updCrew x.takeDraws).replayReady ((s.updCrew x.takeDraws).objRecord opc lane spad a) =
      s.replayReady (s.objRecord opc lane spad a) := by
  have hc := s.crew_takeDraws x
  have hat : (s.updCrew x.takeDraws).crewAt (s.updCrew x.takeDraws).cur = (s.updCrew x.takeDraws).crew := rfl
  unfold State.replayReady State.replayLog State.objRecord State.objValue State.logRecord State.crewInfo State.job
  rw [hat, hc]
  rfl

theorem mem_of_mem_mapErase {α : Type} {m : List (Nat × α)} {k : Nat} {x : Nat × α} (h : x ∈ mapErase m k) : x ∈ m := by
  induction m with
  | nil => exact h
  | cons y m ih =>
    unfold mapErase at h
    split at h
    · exact List.mem_cons_of_mem _ (ih h)
    · exact (List.mem_cons.mp h).elim (fun h => h ▸ List.mem_cons_self ..) fun h => List.mem_cons_of_mem _ (ih h)

theorem mem_of_mem_mapSet {α : Type} [DecidableEq α] {d : α} {m : List (Nat × α)} {k : Nat} {v : α} {x : Nat × α}
    (h : x ∈ mapSet d m k v) : x = (k, v) ∨ x ∈ m := by
  unfold mapSet at h
  split at h
  · exact .inr (mem_of_mem_mapErase h)
  · exact (mem_mapInsert.mp h).imp_right mem_of_mem_mapErase

/-- A crew that is least stays so when it takes draws. -/
theorem State.least_takeDraws {s : State} (x : Ctx) {p : Crew → Bool} (h : s.least p = true) :
    (s.updCrew x.takeDraws).least p = true := by
  have hc := s.crew_takeDraws x
  unfold State.least at h ⊢
  dsimp only at h ⊢
  rw [List.all_eq_true] at h ⊢
  rw [hc]
  intro y hy
  rcases List.mem_append.mp hy with hy | hy
  · obtain ⟨z, hz, rfl⟩ := List.mem_map.mp hy
    rcases mem_of_mem_mapSet hz with rfl | hz
    · rw [x.takeDraws_eq s.crew]
      simp
    · exact h z.2 (List.mem_append_left _ (List.mem_map_of_mem hz))
  · exact h y (List.mem_append_right _ hy)

/-- What an atomic's addresses, sources and record must be for it to act (R36, R160, R190). -/
structure Ctx.atomReady (x : Ctx) (s : State) (spad cas : Bool) (ea : Nat → Int) : Prop where
  addresses : x.ea false = ea
  clean : x.clean [0, 1, 2]
  placed : ∀ i ∈ x.lanes, ∃ a, s.placeLane spad x.atomBytes x.atomBytes (ea i) = .ok a
  logged : ∀ i ∈ x.lanes, s.replayReady (s.objRecord x.sh.op.toNat (some i) spad (s.atomOp x spad cas ea i).addr) = true
  alone : s.settings.det = true → cas = true →
    x.f.md.toNat / 8 % 8 = 1 ∧ x.c.divided = false ∧ s.least (fun c => c.block == x.c.block) = true

theorem atomBody_ok {s : State} {x : Ctx} {spad cas : Bool} {ea : Nat → Int} (hlong : x.sh.dst = .long)
    (h : x.atomReady s spad cas ea) :
    let r := (s.updCrew x.takeDraws).atomLanes x.sh.op.toNat (s.settings.det && !cas) (x.lanes.map (s.atomOp x spad cas ea))
    atomBody spad cas x (s.updCrew x.takeDraws) = .ok (r.1.updCrew (x.later (mapGet ⟨0, false, 0⟩ r.2))) := by
  intro r
  have hdet : (s.updCrew x.takeDraws).settings = s.settings := by
    unfold State.settings
    rw [s.crew_takeDraws x]
    rfl
  have hcas : (if s.settings.det && cas then casTrap x else none) = none := by
    split
    · next hboth =>
      rw [Bool.and_eq_true] at hboth
      obtain ⟨hscope, hwhole, -⟩ := h.alone hboth.1 hboth.2
      unfold casTrap
      rw [if_neg (not_not.mpr hscope), hwhole]
      rfl
    · rfl
  have hleast : (s.settings.det && cas && !(s.updCrew x.takeDraws).least fun c => c.block == x.c.block) = false := by
    cases hboth : s.settings.det && cas with
    | false => rfl
    | true =>
      rw [Bool.and_eq_true] at hboth
      rw [State.least_takeDraws x (h.alone hboth.1 hboth.2).2.2]
      rfl
  have hpoison := Ctx.poisonTrap_of_clean (uses := [(0, 0), (1, 2), (2, 2)]) (fun i hi u hu => h.clean i hi u.1 (by
    simp only [List.mem_cons, List.not_mem_nil, or_false] at hu
    rcases hu with rfl | rfl | rfl <;> decide)) fun i => eaBits (x.ea false i)
  have hrange : (s.updCrew x.takeDraws).rangeTrap spad x.atomBytes x.atomBytes x.lanes (x.ea false) = none :=
    State.rangeTrap_of_placed fun i hi => by
      obtain ⟨a, ha⟩ := h.placed i hi
      exact ⟨a, (s.placeLane_takeDraws x ..).trans (h.addresses ▸ ha)⟩
  have hops : (x.lanes.map fun i => (s.updCrew x.takeDraws).atomOp x spad cas (x.ea false) i) =
      x.lanes.map (s.atomOp x spad cas ea) :=
    List.map_congr_left fun i _ => (s.atomOp_takeDraws x x spad cas _ i).trans (by rw [h.addresses])
  have hready : (x.lanes.map (s.atomOp x spad cas ea)).all (fun o => (s.updCrew x.takeDraws).replayReady
      ((s.updCrew x.takeDraws).objRecord x.sh.op.toNat (some o.lane) o.spad o.addr)) = true := by
    rw [List.all_map]
    refine List.all_eq_true.mpr fun i hi => ?_
    exact (s.replayReady_takeDraws x ..).trans (h.logged i hi)
  unfold Ctx.atomBytes at hrange
  unfold atomBody
  simp only [hdet, hcas, hleast, hpoison, hrange, finish_long hlong, Bool.false_eq_true, if_false]
  change (if (!(x.lanes.map fun i => (s.updCrew x.takeDraws).atomOp x spad cas (x.ea false) i).all fun o =>
    (s.updCrew x.takeDraws).replayReady _) = true then Act.wait else Act.ok
      ((x.atomRun (s.updCrew x.takeDraws) spad cas (s.settings.det && !cas)).1.updCrew (x.later (mapGet ⟨0, false, 0⟩
        (x.atomRun (s.updCrew x.takeDraws) spad cas (s.settings.det && !cas)).2)))) = _
  unfold Ctx.atomRun
  rw [hops, hready]
  rfl

/-- The format of an atomic: an integer type, or a floating format of whole bytes (R195, R196). -/
def Ctx.atomFormat (x : Ctx) : Prop :=
  (x.sh.kind ≠ .float ∧ x.f.fmt.toNat < 8) ∨ (x.sh.kind = .float ∧ x.f.fmt.toNat ∈ [0, 1, 3, 4])

theorem State.bytes_atomOp {s : State} {x : Ctx} (h : x.atomFormat) (spad cas : Bool) (ea : Nat → Int) (i : Nat) :
    (s.atomOp x spad cas ea i).bytes = x.atomBytes := by
  unfold AtomOp.bytes State.atomOp Ctx.atomBytes
  dsimp only
  rcases h with ⟨hk, hf⟩ | ⟨hk, -⟩
  · rw [if_neg hk, if_neg hk, if_pos (by omega)]
    rfl
  · rw [if_pos hk, if_pos hk, if_neg (by omega), Nat.add_sub_cancel_left]

theorem Ctx.atomBytes_mem {x : Ctx} (h : x.atomFormat) : x.atomBytes ∈ [1, 2, 4, 8] := by
  unfold Ctx.atomBytes
  rcases h with ⟨hk, -⟩ | ⟨hk, hf⟩
  · rw [if_neg hk]
    exact x.bytes_mem
  · rw [if_pos hk]
    simp only [List.mem_cons, List.not_mem_nil, or_false] at hf
    rcases hf with hf | hf | hf | hf <;> rw [hf] <;> decide

theorem Shape.fmt_of_check {sh : Shape} {priv det : Bool} {fmtr : Word} {f : LaneFields}
    (h : sh.check priv det fmtr f = none) : sh.fmts.contains f.fmt.toNat = true := by
  have hmem := firstTrap_eq_none.mp h (!sh.fmts.contains f.fmt.toNat, laneInfo 0x03 6 f.fmt.toNat)
    (List.mem_cons_of_mem _ (List.mem_append_right _ (List.mem_cons_self ..)))
  simpa using hmem

/-- What buffered operations leave, in the state with the lanes before the draws. -/
theorem State.buffers_relane {s v : State} {x : Ctx} {ops : List AtomOp} (h : (s.updCrew x.takeDraws).buffers v ops) :
    let u := v.relane s
    u = { s with crews := u.crews, ckpt := u.ckpt } ∧ (∀ m, m ≠ s.cur → u.crewAt m = s.crewAt m) ∧
      u.crew = { s.crew with
        firstReads := u.crew.firstReads, buffered := s.crew.buffered ++ ops.map AtomOp.update } := by
  intro u
  obtain ⟨hframe, hothers, hcrew, -⟩ := h
  have hc : u.crew = { v.crew with lanes := s.crew.lanes } := v.crew_updCrew _
  have hcur : v.cur = s.cur := by
    rw [hframe]
    rfl
  rw [s.crew_takeDraws x] at hcrew
  refine ⟨?_, fun n hn => ?_, ?_⟩
  · show { v with crews := u.crews } = { s with crews := u.crews, ckpt := v.ckpt }
    generalize u.crews = crews
    conv_lhs => rw [hframe]
    rfl
  · refine (State.crewAt_updCrew_ne v _ (by rwa [hcur])).trans ((hothers n hn).trans ?_)
    exact State.crewAt_updCrew_ne s _ hn
  · rw [hc, hcrew]

section
variable {s : State} {x : Ctx} {spad cas : Bool} {ea : Nat → Int} {op : BitVec 8} {f : LaneFields} {e : LaneEntry}
  (hh : s.laneHead op f e) (hform : x.atomFormat) (hready : x.atomReady s spad cas ea) (hlo : 64 ∣ s.crew.bmemLo)
include hh hform hready hlo

omit hh in
theorem State.fits_atomOp {i : Nat} (hi : i ∈ x.lanes) :
    (s.atomOp x spad cas ea i).addr % 64 + (s.atomOp x spad cas ea i).bytes ≤ 64 := by
  obtain ⟨a, ha⟩ := hready.placed i hi
  have haddr : (s.atomOp x spad cas ea i).addr = a := by
    unfold State.atomOp State.placed
    rw [ha]
  rw [State.bytes_atomOp hform, haddr]
  exact State.placeLane_fits hlo (Ctx.atomBytes_mem hform) ha

/-- The results of an atomic that acts at the array (R195). -/
theorem State.underWay_atoms (hw : windowUnique s.crew.window)
    (hnone : ∀ i ∈ x.lanes, s.mem.poisoned (spOf spad) (s.atomOp x spad cas ea i).addr x.atomBytes = true →
      windowFind s.crew.window spad ((s.atomOp x spad cas ea i).addr / 64) = none) :
    let taint (o : AtomOp) : Bool := s.mem.poisoned (spOf o.spad) o.addr o.bytes
    let q := atomsOn taint s.crewByte (x.lanes.map (s.atomOp x spad cas ea))
    let r := (s.updCrew x.takeDraws).atomLanes x.sh.op.toNat false (x.lanes.map (s.atomOp x spad cas ea))
    ∃ u, s.reads u s.crew.spp q.1 ∧
      x.underWay (fun i => (s.atomOp x spad cas ea i).result taint (mapGet 0 q.2 i)) u
        ((r.1.updCrew (x.later (mapGet ⟨0, false, 0⟩ r.2))).updCrew fun c => c.retire true) := by
  intro taint q r
  have htaken := s.crew_takeDraws x
  have hread : (s.updCrew x.takeDraws).crewByte = s.crewByte :=
    funext fun sp => funext fun k => s.crewByte_takeDraws x sp k
  obtain ⟨hreads, hres⟩ := State.atomLanes_reads (s.atomOp x spad cas ea) (fun _ => rfl) x.sh.op.toNat (taint := taint)
    x.lanes (s.updCrew x.takeDraws) (by rwa [htaken]) fun i hi => by
      refine ⟨State.fits_atomOp hform hready hlo hi, rfl, fun ht => ?_⟩
      rw [htaken]
      refine hnone i hi ?_
      rw [← State.bytes_atomOp hform spad cas ea i]
      exact ht
  rw [hread, show (s.updCrew x.takeDraws).crew.spp = s.crew.spp by rw [htaken]] at hreads
  rw [hread] at hres
  have ⟨_, _, hvcrew, _⟩ := hreads
  rw [htaken] at hvcrew
  refine ⟨r.1.relane s, State.reads_relane hreads, ?_⟩
  rw [funext fun c => Ctx.later_congr (fun i hi => hres i hi) c]
  refine State.underWay_relane hh ?_ ?_
  · exact (congrArg Crew.lanes hvcrew).trans rfl
  · exact (congrArg Crew.laneQ hvcrew).trans rfl

omit hready hlo in
/-- The results of an atomic that is buffered (R36). -/
theorem State.underWay_buffered (hnone : ∀ i ∈ x.lanes,
      s.mem.poisoned (spOf spad) (s.atomOp x spad cas ea i).addr x.atomBytes = false ∧
      windowFind s.crew.window spad ((s.atomOp x spad cas ea i).addr / 64) = none) :
    let r := (s.updCrew x.takeDraws).atomLanes x.sh.op.toNat true (x.lanes.map (s.atomOp x spad cas ea))
    ∃ u, u = { s with crews := u.crews, ckpt := u.ckpt } ∧ (∀ m, m ≠ s.cur → u.crewAt m = s.crewAt m) ∧
      u.crew = { s.crew with
        firstReads := u.crew.firstReads
        buffered := s.crew.buffered ++ (x.lanes.map (s.atomOp x spad cas ea)).map AtomOp.update } ∧
      x.underWay (fun i => ⟨(s.atomOp x spad cas ea i).value (s.crew.firstRead s.mem spad (s.atomOp x spad cas ea i).addr
          (s.atomOp x spad cas ea i).bytes), false, 0⟩) u
        ((r.1.updCrew (x.later (mapGet ⟨0, false, 0⟩ r.2))).updCrew fun c => c.retire true) := by
  intro r
  have htaken := s.crew_takeDraws x
  obtain ⟨hbuf, hres⟩ := State.atomLanes_buffers (s.atomOp x spad cas ea) (fun _ => rfl)
    x.sh.op.toNat x.lanes (s.updCrew x.takeDraws) fun i hi => by
      obtain ⟨hclean, hwin⟩ := hnone i hi
      unfold AtomOp.bufferable
      rw [State.bytes_atomOp hform, htaken]
      refine ⟨?_, hwin, hclean⟩
      have hmem := Ctx.atomBytes_mem hform
      simp only [List.mem_cons, List.not_mem_nil, or_false] at hmem
      omega
  obtain ⟨hframe, hothers, hcrew⟩ := State.buffers_relane hbuf
  have ⟨_, _, hvcrew, _⟩ := hbuf
  rw [htaken] at hres hvcrew
  refine ⟨r.1.relane s, hframe, hothers, hcrew, ?_⟩
  rw [funext fun c => Ctx.later_congr (fun i hi => congrArg LaneRes.settle (hres i hi)) c]
  refine State.underWay_relane hh ?_ ?_
  · exact (congrArg Crew.lanes hvcrew).trans rfl
  · exact (congrArg Crew.laneQ hvcrew).trans rfl

end

/-! ## The atomics as instructions (O29) -/

/-- The shape of an atomic: a long-latency result and the formats of R195 and R196. -/
def Shape.atomic (sh : Shape) : Prop :=
  sh.dst = .long ∧ ((sh.kind ≠ .float ∧ sh.fmts = intCodes) ∨ (sh.kind = .float ∧ sh.fmts = [0, 1, 3, 4]))

theorem Shape.atomic_atom (op : BitVec 8) (uses : BitVec 3) (scope lastOp : Nat) (f : LaneFields) :
    (shAtom op uses scope lastOp f).atomic := ⟨rfl, .inl ⟨nofun, rfl⟩⟩

theorem Shape.atomFormat_of_check {sh : Shape} {priv det : Bool} {x : Ctx} (hsh : sh.atomic)
    (h : sh.check priv det x.e.fmtr x.f = none) (hx : x.sh = sh) : x.atomFormat := by
  have hfmt := Shape.fmt_of_check h
  rw [List.contains_iff_mem] at hfmt
  unfold Ctx.atomFormat
  rw [hx]
  refine hsh.2.imp (fun ⟨hk, hf⟩ => ⟨hk, ?_⟩) fun ⟨hk, hf⟩ => ⟨hk, hf ▸ hfmt⟩
  rw [hf] at hfmt
  exact List.mem_range.mp hfmt

/-- What an atomic finds in every lane: its address is accepted, its record is not a gap of the log, and a poisoned location
has no entry. -/
def Ctx.atomLanesReady (x : Ctx) (s : State) (spad cas : Bool) (ea : Nat → Int) : Prop :=
  x.clean [0, 1, 2] ∧ windowUnique s.crew.window ∧ 64 ∣ s.crew.bmemLo ∧ ∀ i ∈ x.lanes,
    (∃ a, s.placeLane spad x.atomBytes x.atomBytes (ea i) = .ok a) ∧
    s.replayReady (s.objRecord x.sh.op.toNat (some i) spad (s.atomOp x spad cas ea i).addr) = true ∧
    (s.mem.poisoned (spOf spad) (s.atomOp x spad cas ea i).addr x.atomBytes = true →
      windowFind s.crew.window spad ((s.atomOp x spad cas ea i).addr / 64) = none)

section
variable {mk : LaneFields → Instr} {shape : LaneFields → Shape} {spad cas : Bool} {ea : Ctx → Nat → Int}
  (hrun : ∀ f s, exec (mk f) s = laneRun shape (atomBody spad cas) f s) (hshape : ∀ f, (shape f).atomic)
  (hea : ∀ x, x.ea false = ea x)
include hrun hshape hea

/-- An atomic that acts at the array (R195). -/
theorem retires_atomActs : Retires mk (fun _ => shape)
    (fun s x => x.atomLanesReady s spad cas (ea x) ∧ (s.settings.det = true → cas = true ∧ x.f.md.toNat / 8 % 8 = 1 ∧
      x.c.divided = false ∧ s.least (fun c => c.block == x.c.block) = true))
    fun x s t =>
      let taint (o : AtomOp) : Bool := s.mem.poisoned (spOf o.spad) o.addr o.bytes
      let q := atomsOn taint s.crewByte (x.lanes.map (s.atomOp x spad cas (ea x)))
      ∃ u, s.reads u s.crew.spp q.1 ∧
        x.underWay (fun i => (s.atomOp x spad cas (ea x) i).result taint (mapGet 0 q.2 i)) u t := by
  refine ⟨stops_of_run hrun, fun s f e hh hok ⟨⟨hclean, hw, hlo, hlanes⟩, hdet⟩ => ?_⟩
  have hready : (s.laneCtx (shape f) e f).atomReady s spad cas (ea (s.laneCtx (shape f) e f)) :=
    ⟨hea _, hclean, fun i hi => (hlanes i hi).1, fun i hi => (hlanes i hi).2.1, fun hd _ => (hdet hd).2⟩
  have hform : (s.laneCtx (shape f) e f).atomFormat := Shape.atomFormat_of_check (hshape f) hok.1 rfl
  have hbuffer : (s.settings.det && !cas) = false := by
    cases hd : s.settings.det with
    | false => rfl
    | true => rw [(hdet hd).1]; rfl
  have hbody := atomBody_ok (hshape f).1 hready
  rw [hbuffer] at hbody
  refine ⟨_, exec_of_body (shape := fun _ => shape) (hrun f s) hh hok hbody, ?_⟩
  rw [(hshape f).1]
  exact State.underWay_atoms hh hform hready hlo hw fun i hi => (hlanes i hi).2.2

end

section
variable {mk : LaneFields → Instr} {shape : LaneFields → Shape} {spad : Bool} {ea : Ctx → Nat → Int}
  (hrun : ∀ f s, exec (mk f) s = laneRun shape (atomBody spad false) f s) (hshape : ∀ f, (shape f).atomic)
  (hea : ∀ x, x.ea false = ea x)
include hrun hshape hea

/-- An atomic of a deterministic launch, which is buffered (R36). -/
theorem retires_atomBuffers : Retires mk (fun _ => shape)
    (fun s x => x.atomLanesReady s spad false (ea x) ∧ s.settings.det = true ∧ ∀ i ∈ x.lanes,
      s.mem.poisoned (spOf spad) (s.atomOp x spad false (ea x) i).addr (s.atomOp x spad false (ea x) i).bytes = false ∧
      windowFind s.crew.window spad ((s.atomOp x spad false (ea x) i).addr / 64) = none)
    fun x s t => ∃ u, u = { s with crews := u.crews, ckpt := u.ckpt } ∧ (∀ m, m ≠ s.cur → u.crewAt m = s.crewAt m) ∧
      u.crew = { s.crew with
        firstReads := u.crew.firstReads
        buffered := s.crew.buffered ++ (x.lanes.map (s.atomOp x spad false (ea x))).map AtomOp.update } ∧
      x.underWay (fun i => ⟨(s.atomOp x spad false (ea x) i).value (s.crew.firstRead s.mem spad
        (s.atomOp x spad false (ea x) i).addr (s.atomOp x spad false (ea x) i).bytes), false, 0⟩) u t := by
  refine ⟨stops_of_run hrun, fun s f e hh hok ⟨⟨hclean, _, _, hlanes⟩, hdet, hnone⟩ => ?_⟩
  have hready : (s.laneCtx (shape f) e f).atomReady s spad false (ea (s.laneCtx (shape f) e f)) :=
    ⟨hea _, hclean, fun i hi => (hlanes i hi).1, fun i hi => (hlanes i hi).2.1, fun _ h => by cases h⟩
  have hform : (s.laneCtx (shape f) e f).atomFormat := Shape.atomFormat_of_check (hshape f) hok.1 rfl
  have hbody := atomBody_ok (hshape f).1 hready
  rw [hdet] at hbody
  refine ⟨_, exec_of_body (shape := fun _ => shape) (hrun f s) hh hok hbody, ?_⟩
  rw [(hshape f).1]
  refine State.underWay_buffered hh hform fun i hi => ?_
  rw [← State.bytes_atomOp (s := s) hform spad false (ea (s.laneCtx (shape f) e f)) i]
  exact hnone i hi

end

theorem Ctx.ea_plain (x : Ctx) : x.ea false = fun i => x.base i + x.f.imm.toInt := by
  funext i
  unfold Ctx.ea
  simp

/-- Settles O29. -/
theorem laneAtomics : Obligations.LaneAtomics := by
  unfold Obligations.LaneAtomics
  intro bytes ea spot atom ready taint acts buffers atf
  have hea (x : Ctx) : x.ea false = ea x := x.ea_plain
  have hfloat (f : LaneFields) : (atf f).atomic := ⟨rfl, .inr ⟨rfl, rfl⟩⟩
  have hacts {mk : LaneFields → Instr} {shape : LaneFields → Shape} {spad cas : Bool}
      (hrun : ∀ f s, exec (mk f) s = laneRun shape (atomBody spad cas) f s) (hshape : ∀ f, (shape f).atomic) :
      acts mk shape spad cas := retires_atomActs hrun hshape hea
  have hbuffers {mk : LaneFields → Instr} {shape : LaneFields → Shape} {spad : Bool}
      (hrun : ∀ f s, exec (mk f) s = laneRun shape (atomBody spad false) f s) (hshape : ∀ f, (shape f).atomic) :
      buffers mk shape spad := retires_atomBuffers hrun hshape hea
  refine ⟨⟨?_, ?_, ?_, ?_, ?_⟩, ?_, ?_, ?_⟩
  · exact hacts (fun _ _ => rfl) (Shape.atomic_atom _ _ _ _)
  · exact hacts (fun _ _ => rfl) (Shape.atomic_atom _ _ _ _)
  · exact hacts (fun _ _ => rfl) (Shape.atomic_atom _ _ _ _)
  · exact hacts (fun _ _ => rfl) (Shape.atomic_atom _ _ _ _)
  · exact hacts (fun _ _ => rfl) hfloat
  · exact hbuffers (fun _ _ => rfl) (Shape.atomic_atom _ _ _ _)
  · exact hbuffers (fun _ _ => rfl) (Shape.atomic_atom _ _ _ _)
  · exact hbuffers (fun _ _ => rfl) hfloat

end Sys2Proof.Machine
end

section
/-! Branches, the call and return, and the jump of the lane stream (O2). -/

namespace Sys2Proof.Machine

/-! ## Targets (R95) -/

theorem Launch.scalarTarget_iff (l : Launch) (t : Nat) :
    l.scalarTarget t = true ↔ t % 4 = 0 ∧ t + 4 ≤ l.scalarLen := by simp [Launch.scalarTarget]

/-- A word whose target lies in .scalar goes on as it says. -/
theorem State.withTarget_inside {s : State} {t : Word} (h : t.toNat % 4 = 0 ∧ t.toNat + 4 ≤ s.launch.scalarLen) (k : State) :
    s.withTarget t k = .next k := by
  unfold State.withTarget
  rw [if_pos ((s.launch.scalarTarget_iff _).mpr h)]

/-- A target outside .scalar is field 12 of the illegal-instruction trap. -/
theorem State.withTarget_outside {s : State} {t : Word} (h : ¬(t.toNat % 4 = 0 ∧ t.toNat + 4 ≤ s.launch.scalarLen))
    (k : State) : s.withTarget t k = .next (s.raise 0x01 12 0 t) := by
  unfold State.withTarget State.illegal
  rw [if_neg fun hin => h ((s.launch.scalarTarget_iff _).mp hin), BitVec.ofNat_toNat, BitVec.setWidth_eq]

/-! ## Words that change the split in focus or its registers, and complete -/

/-- A word that changes the crew in focus and goes on at the next (R132). -/
theorem State.updCrew_done (s : State) (f : Crew → Crew) : let t := (s.updCrew f).done
    let c := f s.crew
    s.onlyCrew t ∧ t.crew = { c with splits := t.crew.splits, clock := c.clock + 1 } ∧
      (∀ k, k ≠ s.curSplit → t.crew.split k = c.split k) ∧
      t.split = { c.split s.curSplit with spc := (c.split s.curSplit).spc + 4, wait := .none } := by
  obtain ⟨⟨honly, hcrew, hsplits, hsplit⟩, hsync⟩ := (s.updCrew f).jump_wentTo ((s.updCrew f).split.spc + 4)
  have hown : (s.updCrew f).split = (f s.crew).split s.curSplit := congrArg (·.split s.curSplit) (s.crew_updCrew f)
  refine ⟨State.onlyCrew_trans (s.onlyCrew_updCrew f) honly, hcrew.trans ?_, fun k hk => (hsplits k hk).trans ?_,
    hsplit.trans ?_⟩
  · rw [hsync, s.crew_updCrew]
    rfl
  · rw [s.crew_updCrew]
  · rw [hown]

/-- A word that changes the crew in focus and waits (R132). -/
theorem State.updCrew_stay (s : State) (f : Crew → Crew) (w : Wait) : let t := (s.updCrew f).stay w
    let c := f s.crew
    s.onlyCrew t ∧ t.crew = { c with splits := t.crew.splits } ∧
      (∀ k, k ≠ s.curSplit → t.crew.split k = c.split k) ∧ t.split = { c.split s.curSplit with wait := w } := by
  obtain ⟨honly, hcrew, hsplits, -⟩ := (s.updCrew f).stay_stayed w
  refine ⟨State.onlyCrew_trans (s.onlyCrew_updCrew f) honly, hcrew.trans ?_, fun k hk => (hsplits k hk).trans ?_,
    (State.split_updSplit _ _).trans ?_⟩
  · rw [s.crew_updCrew]
  · rw [s.crew_updCrew]
  · unfold State.split
    rw [s.crew_updCrew, State.updCrew_curSplit]

/-- A word that changes the split in focus and goes on at the next (R132). -/
theorem State.updSplit_done (s : State) (f : Split → Split) : let t := (s.updSplit f).done
    s.onlyCrew t ∧ t.crew = { s.crew with splits := t.crew.splits, clock := s.crew.clock + 1 } ∧
      (∀ k, k ≠ s.curSplit → t.crew.split k = s.crew.split k) ∧
      t.split = { f s.split with spc := (f s.split).spc + 4, wait := .none } := by
  obtain ⟨honly, hcrew, hsplits, hsplit⟩ := s.updCrew_done fun c => c.updSplit s.curSplit f
  refine ⟨honly, hcrew, fun k hk => (hsplits k hk).trans (Crew.split_updSplit_ne _ _ hk), hsplit.trans ?_⟩
  rw [Crew.split_updSplit_same]
  rfl

/-- CALL links in the banked s31 and goes on at its target (R134). -/
theorem State.setLink_jump (s : State) (v : Word) (spc : Nat) : let t := (s.setSreg 31 v).jump spc
    s.onlyCrew t ∧ t.crew = { s.crew with splits := t.crew.splits, clock := s.crew.clock + 1 } ∧
      (∀ k, k ≠ s.curSplit → t.crew.split k = s.crew.split k) ∧
      t.split = { s.split with spc := spc, wait := .none, banked := t.split.banked } ∧
      ∀ r, t.sreg r = if r = 31 then v else s.sreg r := by
  have hset : (s.setSreg 31 v).crew =
      s.crew.updSplit s.curSplit fun p => { p with banked := mapSet 0 p.banked 31 v } := s.crew_setSreg 31 v
  have hown : (s.setSreg 31 v).split = { s.split with banked := mapSet 0 s.split.banked 31 v } := by
    unfold State.split
    rw [hset]
    exact Crew.split_updSplit_same ..
  obtain ⟨⟨honly, hcrew, hsplits, hsplit⟩, hsync⟩ := (s.setSreg 31 v).jump_wentTo spc
  refine ⟨State.onlyCrew_trans (s.onlyCrew_updCrew _) honly, ?_, fun k hk => ?_, ?_, fun r => ?_⟩
  · rw [hcrew, hsync, hset]
    rfl
  · rw [hsplits k hk, hset]
    exact Crew.split_updSplit_ne _ _ hk
  · rw [hsplit, hown]
  · have hread : ((s.setSreg 31 v).jump spc).sreg r = (s.setSreg 31 v).sreg r := by
      have hfocus : ((s.setSreg 31 v).jump spc).crew.split (s.setSreg 31 v).curSplit = _ := hsplit
      unfold State.sreg Crew.sreg
      rw [State.jump_curSplit, hfocus, hcrew]
      rfl
    rw [hread]
    unfold State.sreg
    rw [s.crew_setSreg, State.setSreg_curSplit, Crew.sreg_setSreg]
    by_cases hr : r = 31
    · rw [if_pos ⟨hr, hr ▸ by decide⟩, if_pos hr]
    · rw [if_neg fun h => hr h.1, if_neg hr]

/-! ## The words (R134, R135, R149) -/

theorem noOperations : Claim.NoOperations := fun s _ _ =>
  ⟨⟨_, rfl, s.jump_wentTo _⟩, ⟨_, rfl, s.jump_wentTo _⟩⟩

/-- BRC with codes that R96 allows. -/
theorem execBrc_coded {c p : BitVec 4} (hc : c.toNat ≤ 2) (hp : p.toNat < 8) (hall : c = 2 → p = 0) (o : BitVec 18)
    (s : State) : exec (.brc c p o) s = s.withTarget (s.targetOf o.toInt)
      (if c == 2 || (s.crew.sp.getLsbD p.toNat != (c == 1)) then s.jump (s.targetOf o.toInt).toNat else s.done) := by
  have hcond : ¬2 < c := by
    rw [BitVec.lt_def]
    exact Nat.not_lt.mpr hc
  have hpred : ¬(8 ≤ p ∨ c = 2 ∧ p ≠ 0) := by
    rw [BitVec.le_def]
    rintro (hbig | ⟨htwo, hne⟩)
    · exact absurd hbig (Nat.not_le.mpr hp)
    · exact hne (hall htwo)
  show execBrc c p o s = _
  unfold execBrc
  rw [if_neg hcond, if_neg hpred]

theorem branches : Claim.Branches := by
  intro s o p a n far near inside sp no traps
  have hno : no.toNat = n.toNat := BitVec.toNat_setWidth_of_le (by decide)
  have hp : no.toNat < 8 := hno ▸ n.isLt
  have hon : exec (.brc 0 no p) s = s.withTarget near (if sp then s.jump near.toNat else s.done) := by
    rw [execBrc_coded (by decide) hp (fun h => absurd h (by decide)), hno]
    show s.withTarget near (if (sp != false) then _ else _) = _
    rw [Bool.bne_false]
    rfl
  have hoff : exec (.brc 1 no p) s = s.withTarget near (if sp then s.done else s.jump near.toNat) := by
    rw [execBrc_coded (by decide) hp (fun h => absurd h (by decide)), hno]
    show s.withTarget near (if (sp != true) then _ else _) = _
    cases sp <;> rfl
  have hall : exec (.brc 2 0 p) s = s.withTarget near (s.jump near.toNat) :=
    execBrc_coded (by decide) (by decide) (fun _ => rfl) p s
  have hgone {b : Bool} {x y : Nat} : s.wentTo (if b then s.jump x else s.jump y) (if b then x else y) := by
    cases b <;> exact s.jump_wentTo _
  exact ⟨fun h => ⟨⟨_, State.withTarget_inside h _, s.jump_wentTo _⟩,
      ⟨_, State.withTarget_inside h _, s.setLink_jump _ _⟩⟩,
    fun h => ⟨⟨_, hon.trans (State.withTarget_inside h _), hgone⟩, ⟨_, hoff.trans (State.withTarget_inside h _), hgone⟩,
      ⟨_, hall.trans (State.withTarget_inside h _), s.jump_wentTo _⟩⟩,
    fun h => ⟨_, State.withTarget_inside h _, s.jump_wentTo _⟩,
    fun h => ⟨State.withTarget_outside h _, State.withTarget_outside h _⟩,
    fun h => ⟨hon.trans (State.withTarget_outside h _), hoff.trans (State.withTarget_outside h _),
      hall.trans (State.withTarget_outside h _)⟩,
    fun h => State.withTarget_outside h _⟩

theorem laneJump : Claim.LaneJump := by
  intro s o
  have hrun : exec (.ljmp o) s = if s.launch.laneLen < 12 * (o.toNat + 1) then .next (s.illegal 12 o.toNat)
      else .next (s.updSplit fun p => { p with lpc := 12 * o.toNat }).done := rfl
  exact ⟨fun hin => ⟨_, hrun.trans (if_neg (by omega)), s.updSplit_done _⟩, fun hout => hrun.trans (if_pos (by omega))⟩

/-- Settles O2. -/
theorem controlFlow : Obligations.ControlFlow := ⟨noOperations, branches, laneJump⟩

end Sys2Proof.Machine
end

section
/-! LRUN, MOVM and FMTS (O8). -/

namespace Sys2Proof.Machine

/-! ## LRUN (R43, R148) -/

/-- The value that an entry takes of a source code: the scalar register that it names (R43). -/
def Crew.laneValue (c : Crew) (k : Nat) (x : BitVec 8) : Word :=
  if isSreg x then c.sreg k (.ofNat 5 (x.toNat - 0xC0)) else 0

/-- The j-th of the entries that an LRUN of split k of a crew enqueues (R43, R44). -/
def Crew.enqueuedAs (c : Crew) (l : Launch) (k j : Nat) (e : LaneEntry) : Prop :=
  e.word = l.laneWordAt ((c.split k).lpc + 12 * j) ∧ e.lpc = (c.split k).lpc + 12 * j ∧ e.mask = (c.split k).mask ∧
    e.fmtr = (c.split k).fmtr ∧ e.split = k ∧ e.owner = k ∧ e.svA = c.laneValue k (laneFields e.word).sa ∧
    e.svB = c.laneValue k (laneFields e.word).sb ∧ e.svC = c.laneValue k (laneFields e.word).sc

/-- A crew d that split k of crew c has made by enqueueing m lane instructions. -/
def Crew.ran (c : Crew) (l : Launch) (k m : Nat) (d : Crew) : Prop :=
  ∃ es : List LaneEntry, d = { c with laneQ := c.laneQ ++ es, redSeq := d.redSeq, splits := d.splits } ∧
    es.length = m ∧ (∀ j, j ≠ k → d.split j = c.split j) ∧
    d.split k = { c.split k with lpc := (c.split k).lpc + 12 * m, pendingRep := (d.split k).pendingRep } ∧
    ∀ j e, es[j]? = some e → c.enqueuedAs l k j e

theorem Crew.ran_zero (c : Crew) (l : Launch) (k : Nat) : c.ran l k 0 c :=
  ⟨[], by rw [List.append_nil], rfl, fun _ _ => rfl, rfl, fun _ _ h => by cases h⟩

/-- Registers of a crew whose splits and shared registers are the same but for what is not read. -/
theorem Crew.sreg_congr {c d : Crew} {k : Nat} (hs : d.shared = c.shared) (hb : (d.split k).banked = (c.split k).banked)
    (r : RegNo) : d.sreg k r = c.sreg k r := by
  unfold Crew.sreg
  rw [hs, hb]

/-- The crew with the lane instruction at the LPC of split k enqueued (R43, R44). -/
theorem Crew.ran_enqueueLane (c : Crew) (l : Launch) (k : Nat) :
    c.ran l k 1 (c.enqueueLane k (l.laneWordAt (c.split k).lpc)) := by
  have hother (j : Nat) (hj : j ≠ k) : (c.enqueueLane k (l.laneWordAt (c.split k).lpc)).split j = c.split j :=
    Crew.split_updSplit_ne c (fun p => { p with lpc := p.lpc + 12, pendingRep := none }) hj
  have hown : (c.enqueueLane k (l.laneWordAt (c.split k).lpc)).split k =
      { c.split k with lpc := (c.split k).lpc + 12, pendingRep := none } :=
    Crew.split_updSplit_same c k fun p => { p with lpc := p.lpc + 12, pendingRep := none }
  refine ⟨_, rfl, List.length_singleton, hother, ?_, fun j e he => ?_⟩
  · rw [hown]
  · rw [List.getElem?_singleton] at he
    split at he
    · next hj =>
      unfold Crew.enqueuedAs
      rw [hj, ← Option.some.inj he, Nat.mul_zero, Nat.add_zero]
      exact ⟨rfl, rfl, rfl, rfl, rfl, rfl, rfl, rfl, rfl⟩
    · cases he

/-- Enqueueing that goes on: the entries of both parts, in order. -/
theorem Crew.ran_trans {c d e : Crew} {l : Launch} {k m n : Nat} (h : c.ran l k m d) (h' : d.ran l k n e) :
    c.ran l k (m + n) e := by
  obtain ⟨es, hd, hlen, hothers, hsplit, hes⟩ := h
  obtain ⟨es', he, hlen', hothers', hsplit', hes'⟩ := h'
  have hreg (r : RegNo) : d.sreg k r = c.sreg k r := Crew.sreg_congr (by rw [hd]) (by rw [hsplit]) r
  refine ⟨es ++ es', ?_, by rw [List.length_append, hlen, hlen'], fun j hj => (hothers' j hj).trans (hothers j hj), ?_,
    fun j x hx => ?_⟩
  · rw [he, hd, List.append_assoc]
  · rw [hsplit', hsplit, Nat.mul_add, Nat.add_assoc]
  · rcases Nat.lt_or_ge j m with hj | hj
    · exact hes j x (by rwa [List.getElem?_append_left (hlen ▸ hj)] at hx)
    · rw [List.getElem?_append_right (hlen ▸ hj), hlen] at hx
      have hlpc : (d.split k).lpc + 12 * (j - m) = (c.split k).lpc + 12 * j := by
        rw [hsplit]
        show (c.split k).lpc + 12 * m + 12 * (j - m) = _
        omega
      have hkept : (d.split k).mask = (c.split k).mask ∧ (d.split k).fmtr = (c.split k).fmtr := by
        rw [hsplit]
        exact ⟨rfl, rfl⟩
      have hval : d.laneValue k = c.laneValue k := by
        funext x
        unfold Crew.laneValue
        rw [hreg]
      have hq := hes' (j - m) x hx
      unfold Crew.enqueuedAs at hq
      rwa [hlpc, hkept.1, hkept.2, hval] at hq

/-- What an enqueueing does: as many as there is room for, and the rest is left over (R43). -/
theorem Crew.enqueueRun_spec (l : Launch) (k n : Nat) (c : Crew) :
    c.ran l k (min n (16 - c.laneQ.length)) (Crew.enqueueRun l k n c).1 ∧
      (Crew.enqueueRun l k n c).2 = n - (16 - c.laneQ.length) := by
  induction n generalizing c with
  | zero => exact ⟨(Nat.zero_min _).symm ▸ c.ran_zero l k, (Nat.zero_sub _).symm⟩
  | succ n ih =>
    unfold Crew.enqueueRun
    split
    · next hfull =>
      rw [Nat.sub_eq_zero_of_le hfull, Nat.min_zero]
      exact ⟨c.ran_zero l k, rfl⟩
    · next hroom =>
      obtain ⟨hran, hleft⟩ := ih (c.enqueueLane k (l.laneWordAt (c.split k).lpc))
      have hlen : (c.enqueueLane k (l.laneWordAt (c.split k).lpc)).laneQ.length = c.laneQ.length + 1 :=
        List.length_append
      rw [hlen] at hran hleft
      refine ⟨?_, hleft.trans (by omega)⟩
      rw [show min (n + 1) (16 - c.laneQ.length) = 1 + min n (16 - (c.laneQ.length + 1)) by omega]
      exact Crew.ran_trans (c.ran_enqueueLane l k) hran

/-- What LRUN does with n instructions still to be enqueued: it goes on at the next word when all of them have found room,
else it waits at its own with the rest (R43). -/
theorem State.lrunOn_ran (s : State) (n : Nat) : let t := s.lrunOn n
    let room := 16 - s.crew.laneQ.length
    ∃ d, s.crew.ran s.launch s.curSplit (min n room) d ∧ s.onlyCrew t ∧
      t.crew = { d with splits := t.crew.splits, clock := if n ≤ room then s.crew.clock + 1 else s.crew.clock } ∧
      (∀ k, k ≠ s.curSplit → t.crew.split k = d.split k) ∧
      t.split = { d.split s.curSplit with
        spc := if n ≤ room then (d.split s.curSplit).spc + 4 else (d.split s.curSplit).spc
        lrunLeft := if n ≤ room then none else some (n - room), wait := if n ≤ room then .none else .room } := by
  obtain ⟨hran, hleft⟩ := Crew.enqueueRun_spec s.launch s.curSplit n s.crew
  have hclock : (Crew.enqueueRun s.launch s.curSplit n s.crew).1.clock = s.crew.clock := by
    obtain ⟨es, hd, -⟩ := hran
    rw [hd]
  unfold State.lrunOn
  extract_lets r u t room
  have hu : u = s.updCrew fun _ => r.1.updSplit s.curSplit fun p =>
    { p with lrunLeft := if r.2 = 0 then none else some r.2 } := rfl
  by_cases hn : n ≤ room
  · have hnone : r.2 = 0 := hleft.trans (Nat.sub_eq_zero_of_le hn)
    have ht : t = u.done := if_pos hnone
    have hdone := s.updCrew_done fun _ => r.1.updSplit s.curSplit fun p => { p with lrunLeft := none }
    rw [hnone, if_pos rfl] at hu
    simp only [if_pos hn]
    rw [ht, hu]
    obtain ⟨honly, hcrew, hsplits, hsplit⟩ := hdone
    refine ⟨r.1, hran, honly, hcrew.trans ?_, fun k hk => (hsplits k hk).trans (Crew.split_updSplit_ne _ _ hk), hsplit.trans ?_⟩
    · rw [← hclock]
      rfl
    · rw [Crew.split_updSplit_same]
  · have hleft' : r.2 = n - room := hleft
    have hsome : r.2 ≠ 0 := by omega
    have ht : t = u.stay .room := if_neg hsome
    obtain ⟨honly, hcrew, hsplits, hsplit⟩ :=
      s.updCrew_stay (fun _ => r.1.updSplit s.curSplit fun p => { p with lrunLeft := some (n - room) }) .room
    rw [if_neg hsome, hleft'] at hu
    simp only [if_neg hn]
    rw [ht, hu]
    refine ⟨r.1, hran, honly, hcrew.trans ?_, fun k hk => (hsplits k hk).trans (Crew.split_updSplit_ne _ _ hk), hsplit.trans ?_⟩
    · rw [← hclock]
      rfl
    · rw [Crew.split_updSplit_same]

theorem laneRunEnqueues : Claim.LaneRunEnqueues := by
  intro s a i p n bad left room
  refine ⟨fun hnone hbad => ?_, fun hruns => ?_⟩
  · show execLrun a i s = _
    unfold execLrun
    rw [hnone]
    exact if_pos hbad
  · have hrun : exec (.lrun a i) s = .next (s.lrunOn left) := by
      show execLrun a i s = _
      unfold execLrun
      cases hleft : s.split.lrunLeft with
      | some k => simp only [left, p, hleft]
      | none =>
        have hgood : ¬bad := hruns.resolve_left (by simp [p, hleft])
        simp only [left, p, hleft]
        exact if_neg hgood
    obtain ⟨d, ⟨es, hd, hlen, hothers, hown, hes⟩, honly, hcrew, hsplits, hsplit⟩ := s.lrunOn_ran left
    rw [hown] at hsplit
    refine ⟨_, hrun, es, honly, by rw [hcrew, hd], hlen, fun k hk => (hsplits k hk).trans (hothers k hk), ?_⟩
    rw [hsplit]
    refine ⟨rfl, ?_, rfl, rfl, rfl, rfl, fun j e he => ?_⟩
    · by_cases hfits : left ≤ room
      · rw [if_pos hfits, if_pos hfits, if_pos hfits, if_pos hfits]
        exact ⟨rfl, rfl, rfl⟩
      · rw [if_neg hfits, if_neg hfits, if_neg hfits, if_neg hfits]
        exact ⟨rfl, rfl, rfl⟩
    · obtain ⟨hword, hlpc, hmask, hfmtr, hnamed, howner, ha, hb, hc⟩ := hes j e he
      rw [hword] at ha hb hc
      exact ⟨hword, hlpc, hmask, hfmtr, hnamed, howner, ha, hb, hc⟩

/-! ## MOVM (R53, R150) -/

theorem getLsbD_laneMask (p : Nat → Bool) {j : Nat} (hj : j < 96) : (laneMask p).getLsbD j = p j := by
  have hfold (l : List Nat) (m : LaneMask) (hl : ∀ i ∈ l, i < 96) :
      (l.foldl (fun m i => if p i then m ||| (1#96 <<< i) else m) m).getLsbD j =
        (m.getLsbD j || (decide (j ∈ l) && p j)) := by
    induction l generalizing m with
    | nil => simp
    | cons i l ih =>
      rw [List.foldl_cons, ih _ fun x hx => hl x (List.mem_cons_of_mem _ hx)]
      have hi := hl i List.mem_cons_self
      by_cases hji : j = i
      · subst hji
        cases hp : p j <;> simp [hj]
      · have hbit : (1#96 <<< i).getLsbD j = false := by
          rw [BitVec.getLsbD_shiftLeft, BitVec.getLsbD_one]
          rcases Nat.lt_or_ge j i with h | h
          · simp [h]
          · simp [show j - i ≠ 0 by omega]
        cases hp : p i <;> simp [hji, hbit]
  unfold laneMask
  rw [hfold _ _ fun i hi => List.mem_range.mp hi]
  simp [hj]

theorem getLsbD_setBeat (m : LaneMask) (b : Nat) (w : Word) {i : Nat} (hi : i < 96) :
    (setBeat m b w).getLsbD i = if i / 32 = b then w.getLsbD (i % 32) else m.getLsbD i := by
  have hones (j : Nat) : (0xFFFFFFFF : LaneMask).getLsbD j = decide (j < 32) := by
    rw [show (0xFFFFFFFF : LaneMask) = (BitVec.allOnes 32).setWidth 96 by decide, BitVec.getLsbD_setWidth,
      BitVec.getLsbD_allOnes, ← Bool.decide_and]
    exact decide_eq_decide.mpr ⟨And.right, fun h => ⟨by omega, h⟩⟩
  unfold setBeat
  rw [BitVec.getLsbD_or, BitVec.getLsbD_and, BitVec.getLsbD_not, BitVec.getLsbD_shiftLeft, BitVec.getLsbD_shiftLeft,
    BitVec.getLsbD_setWidth, hones]
  by_cases hbeat : i / 32 = b
  · have hin : ¬i < 32 * b ∧ i - 32 * b = i % 32 ∧ i % 32 < 32 ∧ i % 32 < 96 := by omega
    simp [hbeat, hin, hi]
  · have hout : i < 32 * b ∨ ¬i - 32 * b < 32 := by omega
    have hzero (h : ¬i - 32 * b < 32) : w.getLsbD (i - 32 * b) = false := BitVec.getLsbD_of_ge w _ (by omega)
    rcases hout with hlow | hhigh
    · simp [hbeat, hlow, hi]
    · simp [hbeat, hhigh, hzero hhigh, hi]

theorem maskMoves : Claim.MaskMoves := by
  intro s d a b n hb
  have hbeat : b.toNat < 3 := by
    have := b.isLt
    have : b.toNat ≠ 3 := fun h => hb (BitVec.eq_of_toNat_eq h)
    omega
  refine ⟨⟨beatWord s.split.mask b.toNat, ⟨_, if_neg hb, s.write_wrote d _⟩, fun j hj => ?_⟩,
    ⟨_, if_neg hb, ?_⟩, fun hidle => ?_⟩
  · simp [beatWord, hj]
  · obtain ⟨honly, hcrew, hsplits, hsplit⟩ :=
      s.updSplit_done fun p => { p with mask := setBeat p.mask b.toNat (s.sreg a) &&& p.members }
    refine ⟨honly, hcrew, hsplits, ?_, fun i hi => ?_⟩
    · rw [hsplit]
    · rw [hsplit]
      show (setBeat s.split.mask b.toNat (s.sreg a) &&& s.split.members).getLsbD i = _
      rw [BitVec.getLsbD_and, getLsbD_setBeat _ _ _ hi, Bool.and_comm]
  · refine ⟨beatWord (laneMask fun i => s.split.mask.getLsbD i && (s.crew.lane i).pred n.toNat) b.toNat,
      ⟨_, ?_, s.write_wrote d _⟩, fun j hj => ?_⟩
    · show execMovmPred d n b s = _
      unfold execMovmPred
      rw [if_neg hb, hidle]
      rfl
    · unfold beatWord
      rw [BitVec.getLsbD_extractLsb', getLsbD_laneMask _ (by omega)]
      simp [hj]

/-! ## FMTS (R82, R88, R151) -/

theorem fmtrOk_iff (v : Word) :
    fmtrOk v = true ↔ v.toNat / 2 ^ 24 = 0 ∧ v.toNat / 2 ^ 15 % 8 < 6 ∧ v.toNat / 2 ^ 21 % 8 < 4 := by
  unfold fmtrOk
  rw [Bool.and_eq_true, Bool.and_eq_true, beq_iff_eq, decide_eq_true_iff, decide_eq_true_iff, ← BitVec.toNat_inj,
    BitVec.lt_def, BitVec.lt_def, BitVec.extractLsb'_toNat, BitVec.extractLsb'_toNat, BitVec.extractLsb'_toNat,
    Nat.shiftRight_eq_div_pow, Nat.shiftRight_eq_div_pow, Nat.shiftRight_eq_div_pow, and_assoc]
  have hv := v.isLt
  have hhigh : v.toNat / 2 ^ 24 % 2 ^ 8 = v.toNat / 2 ^ 24 := by omega
  rw [hhigh]
  rfl

theorem formatMoves : Claim.FormatMoves := by
  intro s d a v ok
  have hrun : exec (.fmts d a) s = if !fmtrOk v then .next (s.raise 0x03 13 0 v)
      else .next ((s.updSplit fun p => { p with fmtr := v }).write d s.split.fmtr) := rfl
  refine ⟨fun hok => ⟨_, hrun.trans (if_neg ?_), State.write_wrote _ d _⟩, fun hbad => hrun.trans (if_pos ?_),
    ⟨_, rfl, s.write_wrote d _⟩⟩
  · rw [(fmtrOk_iff v).mpr hok]
    exact Bool.false_ne_true
  · rw [Bool.not_eq_true', Bool.eq_false_iff]
    exact fun h => hbad ((fmtrOk_iff v).mp h)

/-- Settles O8. -/
theorem laneRunWords : Obligations.LaneRun := ⟨laneRunEnqueues, maskMoves, formatMoves⟩

end Sys2Proof.Machine
end

section
/-! BSPL, JOIN and EXIT (O3). -/

namespace Sys2Proof.Machine

/-! ## BSPL (R48, R49, R136) -/

theorem Crew.getLsbD_predMask (c : Crew) (n : BitVec 4) (m : LaneMask) {i : Nat} (hi : i < 96) :
    (c.predMask n m).getLsbD i = (m.getLsbD i && (c.lane i).pred n.toNat) := by
  have hmask : c.predMask n m = laneMask fun i => m.getLsbD i && (n == 15 || (c.lane i).preds.getLsbD n.toNat) := rfl
  have htrue : (n == 15) = (n.toNat == 15) := by
    rw [Bool.eq_iff_iff, beq_iff_eq, beq_iff_eq]
    exact BitVec.toNat_inj.symm
  rw [hmask, getLsbD_laneMask _ hi, htrue]
  rfl

/-- The lowest free split number. -/
theorem Crew.freeSplit_eq_some {c : Crew} {n : Nat} (hn : n < 4) (hfree : (c.split n).live = false)
    (hlow : ∀ m < n, (c.split m).live = true) : c.freeSplit = some n := by
  unfold Crew.freeSplit
  rw [List.find?_range_eq_some]
  exact ⟨by rw [hfree]; rfl, List.mem_range.mpr hn, fun m hm => by simp [hlow m hm]⟩

theorem Crew.freeSplit_eq_none {c : Crew} (h : ∀ n < 4, (c.split n).live = true) : c.freeSplit = none := by
  unfold Crew.freeSplit
  rw [List.find?_range_eq_none]
  exact fun n hn => by simp [h n hn]

/-- The crew that a BSPL leaves, its word complete. -/
def State.bsplDone (s : State) (c : Crew) : State :=
  s.setCrew { c.updSplit s.curSplit fun p => { p with wait := .none } with clock := c.clock + 1 }

theorem State.bsplDone_spec (s : State) (c : Crew) : let t := s.bsplDone c
    s.onlyCrew t ∧ t.crew = { c with splits := t.crew.splits, clock := c.clock + 1 } ∧
      (∀ j, j ≠ s.curSplit → t.crew.split j = c.split j) ∧ t.split = { c.split s.curSplit with wait := .none } := by
  have hcrew : (s.bsplDone c).crew = _ := s.crew_setCrew _
  refine ⟨s.onlyCrew_updCrew fun _ => _, ?_, fun j hj => ?_, ?_⟩
  · rw [hcrew]
    rfl
  · rw [hcrew]
    exact Crew.split_updSplit_ne c (fun p => { p with wait := .none }) hj
  · show (s.bsplDone c).crew.split s.curSplit = _
    rw [hcrew]
    exact Crew.split_updSplit_same c s.curSplit fun p => { p with wait := .none }

/-- BSPL outside a handler, its lane work done and its targets inside their sections (R48, R136). -/
theorem execBspl_inside {s : State} {c a : BitVec 4} {o : BitVec 18} (hh : s.crew.trap.handler = false)
    (hidle : s.crew.splitIdle s.curSplit = true)
    (ht : (s.targetOf o.toInt).toNat % 4 = 0 ∧ (s.targetOf o.toInt).toNat + 4 ≤ s.launch.scalarLen)
    (hl : 12 * ((s.sreg (a.setWidth 5)).toNat + 1) ≤ s.launch.laneLen) :
    exec (.bspl c a o) s = .next
      (match s.crew.bspl s.curSplit (s.crew.predMask c s.split.mask) (s.targetOf o.toInt).toNat
          (12 * (s.sreg (a.setWidth 5)).toNat) with
        | none => s.raise 0x0E 0 0 0
        | some d => s.bsplDone d) := by
  show execBspl c a o s = _
  unfold execBspl
  rw [hh, hidle]
  simp only [Bool.false_eq_true, Bool.not_true, if_false]
  rw [State.withTarget_inside ht, if_neg (Nat.not_lt.mpr hl)]
  rfl

section
variable {c : Crew} {k : Nat} {T : LaneMask} (spc lpc : Nat)

theorem Crew.bspl_fallsThrough (h : T = 0) :
    c.bspl k T spc lpc = some (c.setSplit k { c.split k with spc := (c.split k).spc + 4 }) := if_pos h

theorem Crew.bspl_goes (h : T ≠ 0) (hF : (c.split k).mask &&& ~~~T = 0) :
    c.bspl k T spc lpc = some (c.setSplit k { c.split k with spc := spc, lpc := lpc }) := by
  unfold Crew.bspl
  exact (if_neg h).trans (if_pos hF)

theorem Crew.bspl_divides (h : T ≠ 0) (hF : (c.split k).mask &&& ~~~T ≠ 0) {n : Nat} (hn : c.freeSplit = some n) :
    c.bspl k T spc lpc = some ((c.setSplit n { Split.free with
      live := true, spc := spc, lpc := lpc, fmtr := (c.split k).fmtr, members := T, mask := T
      banked := (c.split k).banked }).setSplit k { c.split k with
        spc := (c.split k).spc + 4, members := (c.split k).members &&& ~~~T, mask := (c.split k).mask &&& ~~~T }) := by
  unfold Crew.bspl
  refine (if_neg h).trans ((if_neg hF).trans ?_)
  rw [hn]

theorem Crew.bspl_stacks (h : T ≠ 0) (hF : (c.split k).mask &&& ~~~T ≠ 0) (hn : c.freeSplit = none)
    (hroom : c.stack.length < 32) :
    c.bspl k T spc lpc = some { c.setSplit k { c.split k with
      spc := (c.split k).spc + 4, mask := (c.split k).mask &&& ~~~T } with
        stack := ⟨k, T, spc, lpc, (c.split k).fmtr, (c.split k).banked, none⟩ :: c.stack } := by
  unfold Crew.bspl
  refine (if_neg h).trans ((if_neg hF).trans ?_)
  rw [hn]
  exact if_neg (Nat.not_le.mpr hroom)

theorem Crew.bspl_overflows (h : T ≠ 0) (hF : (c.split k).mask &&& ~~~T ≠ 0) (hn : c.freeSplit = none)
    (hfull : 32 ≤ c.stack.length) : c.bspl k T spc lpc = none := by
  unfold Crew.bspl
  refine (if_neg h).trans ((if_neg hF).trans ?_)
  rw [hn]
  exact if_pos hfull

end

theorem splitDivides : Claim.SplitDivides := by
  intro s c a o T F toward li p others crewIs hh hidle hmod hlen hlane hT hF
  have hmaskT : s.crew.predMask c s.split.mask = T :=
    BitVec.eq_of_getLsbD_eq fun i hi => (Crew.getLsbD_predMask _ _ _ hi).trans (hT i hi).symm
  have hmaskF : (s.crew.split s.curSplit).mask &&& ~~~T = F := by
    refine BitVec.eq_of_getLsbD_eq fun i hi => ?_
    rw [BitVec.getLsbD_and, BitVec.getLsbD_not, hT i hi, hF i hi]
    show (p.mask.getLsbD i && _) = _
    cases p.mask.getLsbD i <;> simp [hi]
  have hrun := execBspl_inside (c := c) (a := a) (o := o) hh hidle ⟨hmod, hlen⟩ hlane
  rw [hmaskT] at hrun
  change exec (.bspl c a o) s = .next (match s.crew.bspl s.curSplit T toward.toNat (12 * li) with
    | none => s.raise 0x0E 0 0 0 | some d => s.bsplDone d) at hrun
  refine ⟨fun hnone => ?_, fun hsome hall => ?_, fun n hn hsome hrest hnk hfree hlow => ?_, fun hsome hrest hlive hroom => ?_,
    fun hsome hrest hlive hfull => ?_⟩
  · rw [Crew.bspl_fallsThrough _ _ hnone] at hrun
    let d := s.crew.setSplit s.curSplit { p with spc := p.spc + 4 }
    obtain ⟨honly, hcrew, hothers, hsplit⟩ := s.bsplDone_spec d
    refine ⟨s.bsplDone d, hrun, ⟨honly, ?_, fun j hj => (hothers j hj).trans (Crew.split_setSplit_ne _ _ hj), ?_⟩, ?_⟩
    · rw [hcrew]
      rfl
    · rw [hsplit, Crew.split_setSplit_same]
    · rw [hcrew]
      rfl
  · rw [Crew.bspl_goes _ _ hsome (hmaskF.trans hall)] at hrun
    let d := s.crew.setSplit s.curSplit { p with spc := toward.toNat, lpc := 12 * li }
    obtain ⟨honly, hcrew, hothers, hsplit⟩ := s.bsplDone_spec d
    refine ⟨s.bsplDone d, hrun, ⟨honly, hcrew.trans ?_⟩,
      fun j hj _ => (hothers j hj).trans (Crew.split_setSplit_ne _ _ hj), ?_⟩
    · simp only [d, Crew.setSplit]
    · rw [hsplit, Crew.split_setSplit_same]
  · rw [Crew.bspl_divides _ _ hsome (hmaskF ▸ hrest) (Crew.freeSplit_eq_some hn hfree hlow), hmaskF] at hrun
    let new : Split := { Split.free with
      live := true, spc := toward.toNat, lpc := 12 * li, fmtr := p.fmtr, members := T, mask := T, banked := p.banked }
    let d := (s.crew.setSplit n new).setSplit s.curSplit { p with
      spc := p.spc + 4, members := p.members &&& ~~~T, mask := F }
    obtain ⟨honly, hcrew, hothers, hsplit⟩ := s.bsplDone_spec d
    refine ⟨s.bsplDone d, hrun, ⟨honly, hcrew.trans ?_⟩, fun j hj hjn => ?_, ?_, ?_⟩
    · simp only [d, Crew.setSplit]
    · rw [hothers j hj, Crew.split_setSplit_ne _ _ hj, Crew.split_setSplit_ne _ _ hjn]
    · rw [hsplit, Crew.split_setSplit_same]
    · rw [hothers n hnk, Crew.split_setSplit_ne _ _ hnk, Crew.split_setSplit_same]
  · rw [Crew.bspl_stacks _ _ hsome (hmaskF ▸ hrest) (Crew.freeSplit_eq_none hlive) hroom, hmaskF] at hrun
    let d := s.crew.setSplit s.curSplit { p with spc := p.spc + 4, mask := F }
    let e := { d with stack := ⟨s.curSplit, T, toward.toNat, 12 * li, p.fmtr, p.banked, none⟩ :: s.crew.stack }
    obtain ⟨honly, hcrew, hothers, hsplit⟩ := s.bsplDone_spec e
    refine ⟨s.bsplDone e, hrun, ⟨honly, hcrew.trans ?_⟩,
      fun j hj _ => (hothers j hj).trans (Crew.split_setSplit_ne _ _ hj), hsplit.trans ?_⟩
    · simp only [e, d, Crew.setSplit]
    · show ({ d.split s.curSplit with wait := .none } : Split) = _
      rw [Crew.split_setSplit_same]
  · rw [Crew.bspl_overflows _ _ hsome (hmaskF ▸ hrest) (Crew.freeSplit_eq_none hlive) hfull] at hrun
    exact hrun

/-! ## JOIN (R50) -/

theorem Split.meets_of_not_live {p : Split} (h : p.live = false) : p.meets = true := by
  unfold Split.meets
  rw [h]
  rfl

/-- The crew after the JOINs of the splits that stand at one with split k (R50). -/
def Crew.joined (c : Crew) (k : Nat) : Crew :=
  let r := (c.atJoin k).foldl (fun x j => ((x.1.joinStack j).1, x.2 ++ (x.1.joinStack j).2)) (c, [])
  let d := r.1.joinMerge r.2
  { d with clock := d.clock + BitVec.ofNat 64 (c.atJoin k).length }

/-- A JOIN that no live split holds back. -/
theorem execJoin_meets {s : State} (hh : s.crew.trap.handler = false)
    (hmeets : ∀ j < 4, j ≠ s.curSplit → (s.crew.split j).meets = true) :
    exec .join s = .next (if ((s.crew.joined s.curSplit).split s.curSplit).live then
      s.setCrew (s.crew.joined s.curSplit) else (s.setCrew (s.crew.joined s.curSplit)).rotate) := by
  have hall : ((List.range 4).all fun j => j == s.curSplit || (s.crew.split j).meets) = true := by
    rw [List.all_eq_true]
    intro j hj
    by_cases hk : j = s.curSplit
    · simp [hk]
    · simp [hmeets j (List.mem_range.mp hj) hk]
  show execJoin s = _
  unfold execJoin
  simp only [hh, hall, Bool.not_true, Bool.false_eq_true, if_false]
  rfl

/-- A JOIN after which the split in focus lives on. -/
theorem execJoin_live {s : State} (hh : s.crew.trap.handler = false)
    (hmeets : ∀ j < 4, j ≠ s.curSplit → (s.crew.split j).meets = true) {d : Crew}
    (hd : s.crew.joined s.curSplit = d) (hlive : (d.split s.curSplit).live = true) :
    exec .join s = .next (s.setCrew d) := by
  rw [execJoin_meets hh hmeets, hd, if_pos hlive]

theorem Crew.atJoin_alone {c : Crew} {k : Nat} (hk : k < 4) (hothers : ∀ j < 4, j ≠ k → (c.split j).live = false) :
    c.atJoin k = [k] := by
  have hpick : ∀ k < 4, ((List.range 4).filter fun j => j == k) = [k] := by decide
  unfold Crew.atJoin
  rw [← hpick k hk]
  refine List.filter_congr fun j hj => ?_
  by_cases hjk : j = k
  · simp [hjk]
  · simp [hothers j (List.mem_range.mp hj) hjk]

theorem Crew.atJoin_two {c : Crew} {j k : Nat} (hk : k < 4) (hjk : j < k) (hlive : (c.split j).live = true)
    (hwait : (c.split j).wait = .join) (hothers : ∀ i < 4, i ≠ j → i ≠ k → (c.split i).live = false) :
    c.atJoin k = [j, k] := by
  have hpick : ∀ k < 4, ∀ j < k, ((List.range 4).filter fun i => i == k || i == j) = [j, k] := by decide
  unfold Crew.atJoin
  rw [← hpick k hk j hjk]
  refine List.filter_congr fun i hi => ?_
  by_cases hik : i = k
  · simp [hik]
  by_cases hij : i = j
  · simp [hij, hlive, hwait]
  · simp [hik, hij, hothers i (List.mem_range.mp hi) hij hik]

theorem Crew.joinMerge_nil (c : Crew) : c.joinMerge [] = c := by
  unfold Crew.joinMerge
  rfl

theorem Crew.joinMerge_dead {c : Crew} {k : Nat} (h : (c.split k).live = false) (rest : List Nat) :
    c.joinMerge (k :: rest) = c.joinMerge rest := by
  rw [Crew.joinMerge, h]
  rfl

/-- A split at a JOIN that none of those behind it meets goes on. -/
theorem Crew.joinMerge_last {c : Crew} {k : Nat} (h : (c.split k).live = true) :
    c.joinMerge [k] = c.updSplit k fun p => { p with spc := p.spc + 4, wait := .none } := by
  rw [Crew.joinMerge, h, List.filter_nil]
  exact Crew.joinMerge_nil _

theorem Crew.clock_absorb (c : Crew) (k o : Nat) : (c.absorb k o).clock = c.clock := by
  simp only [Crew.absorb, Crew.setSplit, Crew.updSplit]

theorem Crew.split_absorb_gone (c : Crew) (k o : Nat) : (c.absorb k o).split o = Split.free :=
  Crew.split_setSplit_same (c.updSplit k _) o Split.free

theorem Crew.split_absorb_kept (c : Crew) {k o : Nat} (h : k ≠ o) : (c.absorb k o).split k = { c.split k with
    members := (c.split k).members ||| (c.split o).members, mask := (c.split k).mask ||| (c.split o).mask
    pendingRep := (c.split k).pendingRep.or (c.split o).pendingRep } :=
  (Crew.split_setSplit_ne (c.updSplit k _) Split.free h).trans (Crew.split_updSplit_same ..)

/-- Two splits at one JOIN become the first of them, which goes on. -/
theorem Crew.joinMerge_pair {c : Crew} {j k : Nat} (hne : k ≠ j) (hj : (c.split j).live = true)
    (hk : (c.split k).live = true) (hspc : (c.split k).spc = (c.split j).spc) (hlpc : (c.split k).lpc = (c.split j).lpc) :
    c.joinMerge [j, k] = (c.absorb j k).updSplit j fun p => { p with spc := p.spc + 4, wait := .none } := by
  have hsame : [k].filter (fun o => (c.split o).live && (c.split o).spc == (c.split j).spc &&
      (c.split o).lpc == (c.split j).lpc) = [k] := by
    simp [hk, hspc, hlpc]
  have hgone : (((c.absorb j k).updSplit j fun p => { p with spc := p.spc + 4, wait := .none }).split k).live = false := by
    rw [Crew.split_updSplit_ne _ _ hne, Crew.split_absorb_gone]
    rfl
  rw [Crew.joinMerge, hj, hsame]
  exact (Crew.joinMerge_dead hgone []).trans (Crew.joinMerge_nil _)

/-! ## The stack of a split (R50) -/

theorem find?_stackUpd {k : Nat} {f : StackEntry → Option StackEntry} {l : List StackEntry} {e e' : StackEntry}
    (h : l.find? (fun x => x.owner == k) = some e) (hf : f e = some e') (hk : e'.owner = k) :
    (stackUpd k f l).find? (fun x => x.owner == k) = some e' := by
  induction l with
  | nil => cases h
  | cons x l ih =>
    unfold stackUpd
    by_cases hx : x.owner = k
    · rw [List.find?_cons_of_pos (p := fun x : StackEntry => x.owner == k) (by simpa using hx)] at h
      rw [if_pos hx, Option.some.inj h, hf]
      exact List.find?_cons_of_pos (p := fun x : StackEntry => x.owner == k) (by simpa using hk)
    · have hneg : ¬(x.owner == k) = true := by simpa using hx
      rw [List.find?_cons_of_neg (p := fun x : StackEntry => x.owner == k) hneg] at h
      rw [if_neg hx, List.find?_cons_of_neg (p := fun x : StackEntry => x.owner == k) hneg]
      exact ih h

theorem length_stackUpd_none {k : Nat} {l : List StackEntry} {e : StackEntry}
    (h : l.find? (fun x => x.owner == k) = some e) : (stackUpd k (fun _ => none) l).length + 1 = l.length := by
  induction l with
  | nil => cases h
  | cons x l ih =>
    unfold stackUpd
    by_cases hx : x.owner = k
    · rw [if_pos hx]
      rfl
    · rw [List.find?_cons_of_neg (p := fun x : StackEntry => x.owner == k) (by simpa using hx)] at h
      rw [if_neg hx, List.length_cons, ih h, List.length_cons]

theorem State.crewAt_rotate (s : State) (n : Nat) : s.rotate.crewAt n = s.crewAt n := by
  unfold State.rotate
  dsimp only
  split <;> rfl

section
variable {c : Crew} {k : Nat} {e : StackEntry}

theorem Crew.joinStack_free (h : c.topOf k = none) : c.joinStack k = (c, [k]) := by
  unfold Crew.joinStack
  rw [h]

/-- The first part of a split at its JOIN: the entry records it and its path runs (R50). -/
theorem Crew.joinStack_records (h : c.topOf k = some e) (hj : e.join = none) : c.joinStack k =
    (Crew.runPath { c with stack := stackUpd k (fun e => some { e with
      join := some ⟨(c.split k).spc, (c.split k).lpc, (c.split k).mask, (c.split k).members, (c.split k).banked⟩ }) c.stack }
      k e, []) := by
  unfold Crew.joinStack
  simp only [h, hj]

/-- The path at the JOIN that its entry records: the parts come together (R50). -/
theorem Crew.joinStack_pops {r : JoinRec} (h : c.topOf k = some e) (hj : e.join = some r) (hspc : r.spc = (c.split k).spc)
    (hlpc : r.lpc = (c.split k).lpc) : c.joinStack k = (c.resumeJoin k e r true, []) := by
  unfold Crew.joinStack
  simp only [h, hj]
  exact if_pos ⟨hspc, hlpc⟩

end

/-- The JOIN of a split that is alone at it. -/
theorem Crew.joined_alone {c d : Crew} {k : Nat} {l : List Nat} (hjoin : c.atJoin k = [k]) (hstack : c.joinStack k = (d, l)) :
    c.joined k = { d.joinMerge l with clock := (d.joinMerge l).clock + 1 } ∧
      ∀ i, (c.joined k).split i = (d.joinMerge l).split i := by
  have hd : c.joined k = { d.joinMerge l with clock := (d.joinMerge l).clock + 1 } := by
    unfold Crew.joined
    rw [hjoin, List.foldl_cons, List.foldl_nil, hstack, List.nil_append]
    rfl
  exact ⟨hd, fun i => by rw [hd]; rfl⟩

/-- The JOINs of two splits that own no stack entries. -/
theorem Crew.joined_two {c : Crew} {j k : Nat} (hjoin : c.atJoin k = [j, k]) (hj : c.joinStack j = (c, [j]))
    (hk : c.joinStack k = (c, [k])) : (∀ i, (c.joined k).split i = (c.joinMerge [j, k]).split i) ∧
      (c.joined k).clock = (c.joinMerge [j, k]).clock + 2 := by
  have hd : c.joined k = { c.joinMerge [j, k] with clock := (c.joinMerge [j, k]).clock + 2 } := by
    unfold Crew.joined
    rw [hjoin, List.foldl_cons, List.foldl_cons, List.foldl_nil, hj]
    dsimp only
    rw [hk]
    rfl
  exact ⟨fun i => by rw [hd]; rfl, by rw [hd]⟩

theorem splitsJoin : Claim.SplitsJoin := by
  intro s k p hk hlive hh
  have halone (h : ∀ j < 4, j ≠ k → (s.crew.split j).live = false) (j : Nat) (hj : j < 4) (hjk : j ≠ k) :
      (s.crew.split j).meets = true := Split.meets_of_not_live (h j hj hjk)
  refine ⟨fun ⟨j, hj, hjk, hmeets⟩ => ⟨_, ?_, s.stay_stayed .join⟩, fun hothers htop => ?_, fun e hothers htop hfirst => ?_,
    fun e r hothers htop hrec hspc hlpc => ?_, fun j hjk hothers hjlive hwait hspc hlpc htopj htopk => ?_⟩
  · have hall : ((List.range 4).all fun j => j == s.curSplit || (s.crew.split j).meets) = false := by
      rw [List.all_eq_false]
      exact ⟨j, List.mem_range.mpr hj, by simp [hjk, hmeets, k]⟩
    show execJoin s = _
    unfold execJoin
    simp only [hh, hall, Bool.not_false, Bool.false_eq_true, if_false, if_true]
  · obtain ⟨hd, hown⟩ := Crew.joined_alone (Crew.atJoin_alone hk hothers) (Crew.joinStack_free htop)
    rw [Crew.joinMerge_last hlive] at hd hown
    refine ⟨_, execJoin_live hh (halone hothers) hd ?_, s.jump_wentTo (p.spc + 4)⟩
    rw [← hd, hown, Crew.split_updSplit_same]
    exact hlive
  · obtain ⟨hd, hown⟩ := Crew.joined_alone (Crew.atJoin_alone hk hothers) (Crew.joinStack_records htop hfirst)
    rw [Crew.joinMerge_nil] at hd hown
    have hpath := (hown k).trans (Crew.split_updSplit_same ..)
    refine ⟨_, execJoin_live hh (halone hothers) rfl (by rw [hpath]; exact hlive), s.onlyCrew_updCrew fun _ => _, ?_, ?_, ?_⟩
    · rw [s.crew_setCrew, hd]
      rfl
    · rw [s.crew_setCrew, hd]
      exact find?_stackUpd htop rfl (by simpa using List.find?_some htop)
    · show (s.setCrew (s.crew.joined k)).crew.split k = _
      rw [s.crew_setCrew, hpath]
      rfl
  · obtain ⟨hd, hown⟩ := Crew.joined_alone (Crew.atJoin_alone hk hothers) (Crew.joinStack_pops htop hrec hspc hlpc)
    rw [Crew.joinMerge_nil] at hd hown
    have hback := (hown k).trans (Crew.split_updSplit_same ..)
    rw [Crew.split_updSplit_same] at hback
    refine ⟨_, execJoin_live hh (halone hothers) rfl (by rw [hback]; exact hlive), s.onlyCrew_updCrew fun _ => _, ?_, ?_, ?_⟩
    · rw [s.crew_setCrew, hd]
      rfl
    · rw [s.crew_setCrew, hd]
      exact length_stackUpd_none htop
    · have hsplit : (s.setCrew (s.crew.joined k)).split = _ := (congrArg (Crew.split · k) (s.crew_setCrew _)).trans hback
      rw [hsplit]
      rfl
  · have hne : k ≠ j := Nat.ne_of_gt hjk
    obtain ⟨hown, hclock⟩ := Crew.joined_two (Crew.atJoin_two hk hjk hjlive hwait hothers) (Crew.joinStack_free htopj)
      (Crew.joinStack_free htopk)
    rw [Crew.joinMerge_pair hne hjlive hlive hspc.symm hlpc.symm] at hown hclock
    have hmine : (s.crew.joined k).split k = .free := by
      rw [hown, Crew.split_updSplit_ne _ _ hne, Crew.split_absorb_gone]
    have hmeets (i : Nat) (hi : i < 4) (hik : i ≠ k) : (s.crew.split i).meets = true := by
      by_cases hij : i = j
      · subst hij
        unfold Split.meets
        rw [hwait, Bool.or_true]
      · exact Split.meets_of_not_live (hothers i hi hij hik)
    have hrun := execJoin_meets hh hmeets
    rw [if_neg (by rw [hmine]; exact Bool.false_ne_true)] at hrun
    have hcrew : (s.setCrew (s.crew.joined k)).rotate.crewAt s.cur = s.crew.joined k :=
      (State.crewAt_rotate _ _).trans (s.crew_setCrew _)
    refine ⟨_, hrun, ?_, ?_, ?_⟩
    · rw [hcrew, hown, Crew.split_updSplit_same, Crew.split_absorb_kept _ hne.symm, hspc]
      rfl
    · rw [hcrew, hmine]
    · rw [hcrew, hclock]
      exact congrArg (· + 2) (Crew.clock_absorb s.crew j k)

/-! ## EXIT (R138, R211) -/

/-- An entry of a canonical map is what its key reads as. -/
theorem mapGet_of_mem {α : Type} [DecidableEq α] {d : α} {m : List (Nat × α)} {lo k : Nat} {v : α}
    (hwf : mapWfFrom d lo m = true) (h : (k, v) ∈ m) : lo ≤ k ∧ mapGet d m k = v := by
  induction m generalizing lo with
  | nil => cases h
  | cons x m ih =>
    obtain ⟨j, w⟩ := x
    simp only [mapWfFrom, Bool.and_eq_true, decide_eq_true_eq] at hwf
    obtain ⟨⟨hlo, -⟩, hrest⟩ := hwf
    rw [List.mem_cons, Prod.mk.injEq] at h
    unfold mapGet
    rcases h with ⟨rfl, rfl⟩ | hmem
    · exact ⟨hlo, if_pos rfl⟩
    · obtain ⟨hk, hget⟩ := ih hrest hmem
      exact ⟨by omega, (if_neg (by omega)).trans hget⟩

/-- Whether a split is left when split k has ended. -/
theorem Crew.liveSplits_free {c : Crew} {k : Nat} (hwf : mapWf Split.free c.splits = true) :
    (c.setSplit k Split.free).liveSplits.isEmpty = true ↔ ∀ j, j ≠ k → (c.split j).live = false := by
  unfold Crew.liveSplits
  rw [List.isEmpty_iff, List.filter_eq_nil_iff]
  refine ⟨fun h j hj => ?_, fun h x hx hlive => ?_⟩
  · by_contra hlive
    have hne : mapGet Split.free (c.setSplit k Split.free).splits j ≠ Split.free := by
      change (c.setSplit k Split.free).split j ≠ _
      rw [Crew.split_setSplit_ne _ _ hj]
      intro hfree
      rw [hfree] at hlive
      exact hlive rfl
    refine h _ (mem_of_mapGet_ne hne) ?_
    change ((c.setSplit k Split.free).split j).live = true
    rw [Crew.split_setSplit_ne _ _ hj]
    exact Bool.not_eq_false _ ▸ hlive
  · obtain ⟨j, p⟩ := x
    have hwf' : mapWf Split.free (c.setSplit k Split.free).splits = true := mapWf_mapSet Split.free c.splits k Split.free hwf
    have hget : (c.setSplit k Split.free).split j = p := (mapGet_of_mem hwf' hx).2
    have hj : j ≠ k := by
      rintro rfl
      rw [Crew.split_setSplit_same] at hget
      rw [← hget] at hlive
      exact Bool.false_ne_true hlive
    rw [Crew.split_setSplit_ne _ _ hj] at hget
    rw [← hget, h j hj] at hlive
    exact Bool.false_ne_true hlive

/-- The crew in focus as an EXIT leaves it: the first status that is not zero stays (R211). -/
def Crew.exiting (c : Crew) (v : Word) : Crew :=
  { c with status := if c.status = 0 then v &&& 0x00FFFFFF else c.status, clock := c.clock + 1 }

/-- EXIT of a split that owns no stack entry, outside a handler (R52, R138). -/
theorem State.exitSplit_ends {s : State} (hh : s.crew.trap.handler = false) (htop : s.crew.topOf s.curSplit = none)
    (v : Word) : s.exitSplit v = let c := (s.crew.exiting v).setSplit s.curSplit Split.free
      if c.liveSplits.isEmpty then (s.setCrew c).endCrew s.cur c.status false else (s.setCrew c).rotate := by
  have htop' : (s.crew.exiting v).topOf s.curSplit = none := htop
  have hh' : (s.crew.exiting v).trap.handler = false := hh
  unfold State.exitSplit
  change (if (s.crew.exiting v).trap.handler then _ else match (s.crew.exiting v).topOf s.curSplit with
    | some e => _ | none => _) = _
  rw [hh', htop']
  rfl

/-- The state in which EXIT ends its split: the window drained and the updates of a deterministic launch applied (R138). -/
def State.settled (s : State) : State := if s.drain.settings.det then s.drain.flushAt s.drain.cur else s.drain

theorem execExit_idle {s : State} (hidle : s.crew.lanesIdle = true) (a : RegNo) :
    exec (.exit a) s = .next (s.settled.exitSplit (s.sreg a)) := by
  show execExit a s = _
  unfold execExit
  rw [hidle]
  rfl

/-- What the crew in focus keeps when it settles. -/
theorem State.settled_keeps (s : State) : s.settled.cur = s.cur ∧ s.settled.curSplit = s.curSplit ∧
    s.settled.crew.splits = s.crew.splits ∧ s.settled.crew.stack = s.crew.stack ∧ s.settled.crew.trap = s.crew.trap ∧
    s.settled.crew.status = s.crew.status ∧ s.settled.crew.clock = s.crew.clock ∧ s.settled.crew.live = s.crew.live := by
  have hframe := s.drain_frame
  have hcur : s.drain.cur = s.cur := by rw [hframe]
  have hsplit : s.drain.curSplit = s.curSplit := by rw [hframe]
  unfold State.settled
  split
  · have hflush := s.drain.flushAt_frame s.drain.cur
    have hfcur : (s.drain.flushAt s.drain.cur).cur = s.drain.cur := by rw [hflush]
    have hfsplit : (s.drain.flushAt s.drain.cur).curSplit = s.drain.curSplit := by rw [hflush]
    have hcrew : s.drain.crew.Flushed (s.drain.flushAt s.drain.cur).crew := by
      unfold State.crew
      rw [hfcur]
      exact s.drain.flushed_flushAt s.drain.cur s.drain.cur
    rw [s.crew_drain] at hcrew
    refine ⟨hfcur.trans hcur, hfsplit.trans hsplit, ?_⟩
    rcases hcrew with h | ⟨-, lanes, fsum, h⟩
    · rw [h]
      exact ⟨rfl, rfl, rfl, rfl, rfl, rfl⟩
    · rw [h]
      exact ⟨rfl, rfl, rfl, rfl, rfl, rfl⟩
  · refine ⟨hcur, hsplit, ?_⟩
    rw [s.crew_drain]
    exact ⟨rfl, rfl, rfl, rfl, rfl, rfl⟩

theorem crewExits : Claim.CrewExits := by
  intro s a status hh hwf
  obtain ⟨hcur, hk, hsplits, hstack, htrap, hstatus, hclock, hlive⟩ := s.settled_keeps
  have hsplit (j : Nat) : s.settled.crew.split j = s.crew.split j := congrArg (mapGet Split.free · j) hsplits
  let d := (s.settled.crew.exiting (s.sreg a)).setSplit s.settled.curSplit Split.free
  have hdstatus : d.status = status := by
    show (if s.settled.crew.status = 0 then _ else s.settled.crew.status) = _
    rw [hstatus]
  have hends (hidle : s.crew.lanesIdle = true) (htop : s.crew.topOf s.curSplit = none) :
      exec (.exit a) s = .next (if d.liveSplits.isEmpty then (s.settled.setCrew d).endCrew s.settled.cur d.status false
        else (s.settled.setCrew d).rotate) := by
    have htop' : s.settled.crew.topOf s.settled.curSplit = none := by
      unfold Crew.topOf at htop ⊢
      rw [hstack, hk, htop]
    rw [execExit_idle hidle, State.exitSplit_ends (htrap ▸ hh) htop']
  have hleft := Crew.liveSplits_free (c := s.settled.crew.exiting (s.sreg a)) (k := s.settled.curSplit) (hsplits ▸ hwf)
  refine ⟨fun hbusy => ⟨_, ?_, s.stay_stayed .lanes⟩, fun hidle htop ⟨j, hj, hjlive⟩ => ?_, fun hidle htop hlast => ?_⟩
  · show execExit a s = _
    unfold execExit
    rw [hbusy]
    rfl
  · have hsome : ¬d.liveSplits.isEmpty = true := fun h => by
      have hdead := hleft.mp h j (hk ▸ hj)
      change (s.settled.crew.split j).live = false at hdead
      rw [hsplit j, hjlive] at hdead
      exact Bool.true_eq_false.mp hdead
    have hcrew : (s.settled.setCrew d).rotate.crewAt s.cur = d := by
      rw [State.crewAt_rotate, ← hcur]
      exact s.settled.crew_setCrew d
    refine ⟨_, (hends hidle htop).trans (congrArg _ (if_neg hsome)), ?_⟩
    beta_reduce
    rw [hcrew]
    refine ⟨?_, hdstatus, ?_, ?_⟩
    · simp only [d, Crew.setSplit, Crew.exiting]
      exact hlive
    · rw [← hk]
      exact Crew.split_setSplit_same ..
    · rw [← hclock]
      rfl
  · have hnone : d.liveSplits.isEmpty = true := hleft.mpr fun j hj => by
      change (s.settled.crew.split j).live = false
      rw [hsplit j]
      exact hlast j (hk ▸ hj)
    refine ⟨_, (hends hidle htop).trans (congrArg _ (if_pos hnone)), ?_⟩
    obtain ⟨-, ⟨hdead, hst⟩, -⟩ := (s.settled.setCrew d).endCrew_spec s.settled.cur d.status false
    rw [hcur] at hdead hst ⊢
    exact ⟨hdead, hst.trans hdstatus⟩

/-- Settles O3. -/
theorem splits : Obligations.Splits := ⟨splitDivides, splitsJoin, crewExits⟩

end Sys2Proof.Machine
end

section
/-! TTSK, CAINF, CATRN, CAMOV, XPUT and COLL issued (O14): a COLL on a cohort over several packages. In a deterministic launch
the device says whether no crew of another package comes before it (R65; log entry 18), and the state counts that choice. -/

namespace Sys2Proof.Machine

/-! ## The choices that a COLL takes -/

theorem State.choices_issueTo (s : State) (d : RegNo) (q cap : Nat) (e : QEntry) :
    (s.issueTo d q cap e).choices = s.choices := by
  unfold State.issueTo
  split
  · exact State.stay_choices ..
  · exact State.write_choices ..

theorem State.choices_nextGeneration (s : State) (launch coh b : Nat) :
    (s.nextGeneration launch coh b).2.choices = s.choices := by
  unfold State.nextGeneration State.updLaunch
  dsimp only
  split
  · rfl
  · dsimp only
    split <;> rfl

/-- COLL of a deterministic launch on a cohort over several packages, its checks met: whether it begins or waits, the device
has made one choice more (R65). -/
theorem choices_execColl {s : State} {d a : RegNo} {n : BitVec 2} {kind : BitVec 3} {i : Nat} {h : Cohort} (hkind : kind ≠ 7)
    (hslot : s.cohortOf s.crew n.toNat = some (i, h)) (hspans : h.spans = true) (hdet : s.settings.det = true)
    (hone : s.crew.divided = false) (hidle : s.crew.splitIdle s.curSplit = true)
    (haddr : (s.spadAddr s.crew.part (slotDie s.cur) (s.sreg a) 64 64).isSome = true) :
    ∃ t, exec (.coll d a n kind) s = .next t ∧ t.choices = s.choices + 1 := by
  have hdivides : s.divides = false := by
    unfold State.divides
    rw [hone, Bool.and_false]
  have hplace : (s.spadAddr s.crew.part (slotDie s.cur) (s.sreg a) 64 64).isNone = false := by
    rw [Option.isNone_eq_false_iff, haddr]
  have hbegins (p : Crew → Bool) : s.begins p h.spans = (Config.choice s.choices && s.least p, s.choose.2) := by
    unfold State.begins
    rw [hdet, hspans]
    rfl
  have hchosen : s.choose.2.choices = s.choices + 1 := rfl
  show ∃ t, execColl d a n kind s = .next t ∧ _
  unfold execColl
  simp only [hkind, hslot, hdivides, hidle, hplace, hbegins, Bool.false_eq_true, Bool.not_true, if_false]
  split
  · exact ⟨_, rfl, (State.stay_choices ..).trans hchosen⟩
  split
  · exact ⟨_, rfl, (State.stay_choices ..).trans hchosen⟩
  split
  · exact ⟨_, rfl, (State.stay_choices ..).trans hchosen⟩
  · refine ⟨_, rfl, (State.choices_issueTo ..).trans ((State.choices_nextGeneration ..).trans ?_)⟩
    rw [State.logOp_frame]
    exact hchosen

/-! ## A state with such a COLL -/

/-- A cohort of three crews on two packages. -/
def spanningCohort : Cohort :=
  { total := 3, localCrews := 1, npkg := 2, scope := 5, valid := true, spans := true, depart := 0, plist := 0, gen := 0
    arrive := 0, arrived := [], maxClock := 0, departClock := 0, doneClock := 0, collIssued := [], gone := [], contribs := [] }

/-- The one crew of block 0 of a deterministic launch whose cohort slot c0 is that cohort; s1 names a descriptor in the rows. -/
def spanningState : State :=
  ((State.reset.placeCrew.updLaunch 1 fun l =>
    { l with spec := { l.spec with det := true, cohorts := [⟨3, [0], 0⟩] }, cohorts := [(3, spanningCohort)] }).setSreg 1 0x08000100)

/-- Refutes O14: COLL of `spanningState` meets every premise of its clause, and the state after it has another count of
choices, which no completed issue changes. -/
theorem not_enginesIssued : ¬ Obligations.EnginesIssued := by
  rintro ⟨-, -, hremote⟩
  obtain ⟨hidle, hroom, haddr, hslot, hdet, hone, hmay, hready⟩ :
      spanningState.crew.splitIdle spanningState.curSplit ∧ spanningState.waiting spanningState.qk 6 < 32 ∧
      (spanningState.spadAddr spanningState.crew.part (slotDie spanningState.cur) (spanningState.sreg 1) 64 64).isSome ∧
      spanningState.cohortOf spanningState.crew (0 : BitVec 2).toNat = some (3, spanningCohort) ∧
      spanningState.settings.det = true ∧ spanningState.crew.divided = false ∧
      spanningState.mayBegin (fun x => (spanningState.launch.slots x.block).contains 3) ∧
      spanningState.replayReady (spanningState.logRecord 0x39 none false (.ofNat 64 3)) := by
    decide +kernel
  obtain ⟨-, hcoll⟩ := hremote spanningState 3 1 0 0 3 spanningCohort hidle hroom haddr
  obtain ⟨t, ht, ⟨hissued, -⟩, -⟩ := hcoll (by decide) hslot (fun _ => hone) hmay hready
  obtain ⟨u, hu, hchoices⟩ := choices_execColl (d := 3) (a := 1) (n := 0) (kind := 0) (by decide) hslot rfl hdet hone hidle haddr
  have htu : t = u := Host.Outcome.next.inj (ht.symm.trans hu)
  have hkept : t.choices = spanningState.choices := by rw [hissued]
  rw [htu, hchoices] at hkept
  exact absurd hkept (Nat.succ_ne_self _)

end Sys2Proof.Machine
end

section
/-! A step runs the instruction that its turn fetches (O59). -/

namespace Sys2Proof.Machine

/-! ## The tick (R424, R425) -/

/-- The tick where no step backwards is under way and the module is not frozen (log entry 2). -/
theorem State.tick_running {t : State} (hf : t.boot.frozen = false) (hb : t.ckpt.stepBack = none) :
    t.tick = { t with
      heat := t.heat.pass (Config.elapsed t.steps)
      boot := { t.boot with upTime := t.boot.upTime + Config.elapsed t.steps }, steps := t.steps + 1 } := by
  unfold State.tick State.endStepBack
  simp only [hf, hb, Bool.false_eq_true, if_false]

theorem State.tick_frozen {t : State} (hf : t.boot.frozen = true) (hb : t.ckpt.stepBack = none) :
    t.tick = { t with steps := t.steps + 1 } := by
  unfold State.tick State.endStepBack
  simp only [hf, hb, if_true]

theorem step_of_nextTurn {s t : State} (h : s.nextTurn = .next t) : step s = .next t.tick := by
  unfold step
  rw [h]
  rfl

theorem State.nextTurn_named {s : State} {turn : Turn} {rest : List Turn} (ha : s.agenda = turn :: rest)
    (hf : s.boot.frozen = false) : s.nextTurn = ({ s with agenda := rest } : State).turn turn := by
  unfold State.nextTurn
  rw [ha]
  simp only [hf, Bool.false_and, Bool.false_eq_true, if_false]

/-! ## The word at SPC (R95, R113, R222) -/

/-- A word that names space 7 in a CPY decodes to such a CPY. -/
theorem cpy_of_saveCopy {w : Word} {i : Instr} (hw : saveCopy w = true) (hi : decodeScalar w = .ok i) :
    ∃ d a b q e sp, i = .cpy d a b q e sp ∧ (sp = 7 ∨ e = 7) := by
  unfold saveCopy at hw
  rw [Bool.and_eq_true, Bool.or_eq_true, beq_iff_eq, beq_iff_eq, beq_iff_eq] at hw
  obtain ⟨hop, hspace⟩ := hw
  have hlow : (w.extractLsb' 0 7).extractLsb' 0 3 = w.extractLsb' 0 3 := by
    ext j hj
    simp
  have hhigh : (w.extractLsb' 0 7).extractLsb' 3 3 = w.extractLsb' 3 3 := by
    ext j hj
    simp
  have hdec : decodeScalar w = need (!(w.extractLsb' 0 7).getLsbD 6) 9 (w.extractLsb' 0 7).toNat
      (.ok (.cpy (w.extractLsb' 21 5) (w.extractLsb' 16 5) (w.extractLsb' 11 5) (w.extractLsb' 7 4)
        (w.extractLsb' 3 3) (w.extractLsb' 0 3))) := by
    unfold decodeScalar
    simp only [hop, hlow, hhigh]
    rfl
  rw [hdec] at hi
  unfold need at hi
  split at hi
  · exact ⟨_, _, _, _, _, _, (Except.ok.inj hi).symm, hspace⟩
  · cases hi

section
variable {s : State}

theorem State.runWord_past (h : s.launch.scalarLen < s.split.spc + 4) :
    s.runWord = .next (s.raise 0x01 12 0 (.ofNat 32 s.split.spc)) := if_pos h

variable (hin : s.split.spc + 4 ≤ s.launch.scalarLen)
include hin

theorem State.runWord_unprivileged (hw : saveCopy (s.launch.scalarWordAt s.split.spc) = true) (hp : s.settings.priv = false) :
    s.runWord = .next (s.raise 0x06 0 0 0x2B) := by
  unfold State.runWord
  rw [if_neg (Nat.not_lt.mpr hin), hw, hp]
  rfl

theorem State.runWord_checked (h : saveCopy (s.launch.scalarWordAt s.split.spc) = false ∨ s.settings.priv = true) :
    (∀ {i : Instr}, decodeScalar (s.launch.scalarWordAt s.split.spc) = .ok i → s.runWord = exec i s) ∧
    ∀ {r : Reject}, decodeScalar (s.launch.scalarWordAt s.split.spc) = .error r →
      s.runWord = .next (s.raise 0x01 r.field 0 (.ofNat 32 r.value)) := by
  have hboth : (saveCopy (s.launch.scalarWordAt s.split.spc) && !s.settings.priv) = false := by
    rcases h with h | h
    · rw [h, Bool.false_and]
    · rw [h, Bool.not_true, Bool.and_false]
  unfold State.runWord
  rw [if_neg (Nat.not_lt.mpr hin), if_neg (by rw [hboth]; exact Bool.false_ne_true)]
  refine ⟨fun hi => ?_, fun hr => ?_⟩
  · rw [hi]
  · rw [hr]
    rfl

/-- A word that decodes runs: of a CPY of space 7 without privilege the execution gives the trap that the fetch gives. -/
theorem State.runWord_ok {i : Instr} (hi : decodeScalar (s.launch.scalarWordAt s.split.spc) = .ok i) : s.runWord = exec i s := by
  by_cases h : saveCopy (s.launch.scalarWordAt s.split.spc) = true ∧ s.settings.priv = false
  · obtain ⟨hw, hp⟩ := h
    obtain ⟨d, a, b, q, e, sp, rfl, hspace⟩ := cpy_of_saveCopy hw hi
    rw [State.runWord_unprivileged hin hw hp]
    show _ = execCpy d a b q e sp s
    unfold execCpy
    rw [if_pos ⟨hspace, by rw [hp]; rfl⟩]
  · rw [not_and_or, Bool.not_eq_true, Bool.not_eq_false] at h
    exact (State.runWord_checked hin h).1 hi

end

/-! ## Turns (R43, R47, R51) -/

theorem Crew.launch_mergeEqual (c : Crew) (k : Nat) : (c.mergeEqual k).1.launch = c.launch := by
  have hfold (j : Nat) (l : List Nat) : (l.foldl (fun c o => c.absorb j o) c).launch = c.launch :=
    foldl_keeps (fun d : Crew => d.launch = c.launch) _ l c
      (fun d o _ h => by simpa only [Crew.absorb, Crew.setSplit, Crew.updSplit] using h) rfl
  unfold Crew.mergeEqual
  dsimp only
  split
  · rfl
  · split
    · rfl
    · exact hfold _ _

/-- The state in which a scalar turn of a split runs its word: equal splits merged, the split in focus (R51). -/
def State.merged (s : State) (slot k : Nat) : State :=
  ((s.focus slot k).setCrew ((s.crewAt slot).mergeEqual k).1).focus slot ((s.crewAt slot).mergeEqual k).2

theorem State.scalarTurn_runs {s : State} {slot k : Nat} {l : Launch} (hr : (slot, k) ∈ s.runnable)
    (hl : mapFind s.launches (s.crewAt slot).launch = some l) :
    s.scalarTurn slot k = (s.merged slot k).runWord ∧ (s.merged slot k).launch = l := by
  have hfind : mapFind (s.focus slot k).launches (s.focus slot k).crew.launch = some l := hl
  have hcrew : (s.merged slot k).crew = ((s.crewAt slot).mergeEqual k).1 := (s.focus slot k).crew_setCrew _
  refine ⟨?_, ?_⟩
  · unfold State.scalarTurn
    rw [List.contains_iff_mem.mpr hr]
    simp only [Bool.not_true, Bool.false_eq_true, if_false, hfind]
    rfl
  · unfold State.launch State.launchOf
    rw [hcrew, Crew.launch_mergeEqual]
    exact mapGet_of_mapFind hl

theorem State.laneTurn_runs {s : State} {slot : Nat} {e : LaneEntry} {q : List LaneEntry} {i : Instr}
    (hq : (s.crewAt slot).laneQ = e :: q) (hlive : (s.crewAt slot).live = true) (hfree : (s.crewAt slot).caught = false)
    (hi : decodeLane e.word = .ok i) :
    s.laneTurn slot = refocus s.cur s.curSplit (exec i (s.focus slot s.curSplit)) := by
  unfold State.laneTurn State.runHead
  simp only [hq, hlive, hfree, hi, Bool.not_false, Bool.and_self, if_true]

/-- The default turn of a split that may run, when it is the scalar words' turn (log entry 1). -/
theorem State.defaultTurn_scalar {s t : State} (hs : s.steps % 3 = 2) (ht : s.scalarTurn s.cur s.curSplit = .next t) :
    s.defaultTurn = .next t.rotate := by
  unfold State.defaultTurn
  simp [hs, ht]

/-- In a frozen module a turn other than one of the test access port and a cold reset does nothing (R425, R426). -/
theorem State.nextTurn_frozen {s : State} {turn : Turn} {rest : List Turn} (ha : s.agenda = turn :: rest)
    (hf : s.boot.frozen = true) :
    s.nextTurn = if frozenTurn turn then ({ s with agenda := rest } : State).turn turn else .next { s with agenda := rest } := by
  unfold State.nextTurn
  rw [ha]
  dsimp only
  rw [hf]
  cases frozenTurn turn
  case false => rfl
  case true => rfl

theorem State.nextTurn_default {s : State} (ha : s.agenda = []) (hf : s.boot.frozen = false) : s.nextTurn = s.defaultTurn := by
  unfold State.nextTurn
  rw [ha]
  simp only [hf, Bool.false_eq_true, if_false]

theorem frozenTurn_eq_false {turn : Turn} (h : ∀ i, turn = .event i → (∀ a b, i ≠ .tapRead a b) ∧ ∀ c, i ≠ .coldReset c) :
    frozenTurn turn = false := by
  unfold frozenTurn
  split
  next a b => exact absurd rfl ((h _ rfl).1 a b)
  next c => exact absurd rfl ((h _ rfl).2 c)
  next => rfl

/-- Settles O59: the turn that the agenda names, or the default one, fetches its instruction, and its result is ticked. -/
theorem stepRunsTheInstruction : Obligations.StepRunsTheInstruction := by
  intro s turn rest u ticks goes merged
  have hgoes {t : State} (h : s.nextTurn = .next t) : goes t := fun hf hb =>
    ⟨t.tick, State.tick_running hf hb, step_of_nextTurn h⟩
  refine ⟨fun ha hf => ⟨?scalar, ?lane, ?event⟩, fun ha hf hb => ⟨?tap, ?stopped⟩, ?default⟩
  case scalar =>
    rintro slot k l rfl hr hl x
    obtain ⟨hrun, hlaunch⟩ := State.scalarTurn_runs (s := u) hr hl
    have hnext : s.nextTurn = x.runWord := (State.nextTurn_named ha hf).trans hrun
    have hx : x.launch = l := hlaunch
    clear_value x
    subst hx
    refine ⟨fun h => hgoes (hnext.trans (State.runWord_past h)), fun hin => ⟨fun i t hi ht => ?_, fun r hr => ⟨fun h => ?_, fun hw hp => ?_⟩⟩⟩
    · exact hgoes (hnext.trans ((State.runWord_ok hin hi).trans ht))
    · exact hgoes (hnext.trans ((State.runWord_checked hin h).2 hr))
    · exact hgoes (hnext.trans (State.runWord_unprivileged hin hw hp))
  case lane =>
    rintro slot e q i t rfl hq hlive hfree hi ht
    have hlane := State.laneTurn_runs (s := u) hq hlive hfree hi
    refine hgoes ((State.nextTurn_named ha hf).trans (hlane.trans ?_))
    show refocus s.cur s.curSplit (exec i (u.focus slot s.curSplit)) = _
    rw [ht]
    rfl
  case event =>
    rintro i t rfl ht
    exact hgoes ((State.nextTurn_named ha hf).trans ht)
  case tap =>
    rintro i t rfl ⟨a, b, rfl⟩ ht htf htb
    rw [step_of_nextTurn ((State.nextTurn_frozen ha hf).trans ht), State.tick_frozen htf htb]
  case stopped =>
    intro h
    have hnext : s.nextTurn = .next u := by
      rw [State.nextTurn_frozen ha hf, frozenTurn_eq_false h]
      rfl
    rw [step_of_nextTurn hnext, State.tick_frozen (t := u) hf hb]
  case default =>
    intro ha hf hs hr l hl m x hin i t hi ht
    obtain ⟨hrun, hlaunch⟩ := State.scalarTurn_runs hr hl
    have hx : x.launch = l := hlaunch
    have hturn : s.scalarTurn s.cur s.curSplit = x.runWord := hrun
    clear_value x
    subst hx
    exact hgoes ((State.nextTurn_default ha hf).trans
      (State.defaultTurn_scalar hs (hturn.trans ((State.runWord_ok hin hi).trans ht))))

end Sys2Proof.Machine
end

section
/-! The placement of a block (O34): what the fold over the slots leaves, and a crew at its first instruction. -/

namespace Sys2Proof.Machine

/-! ## Crews put into slots -/

/-- A crew put into its slot of a core: `start` of the crew that stood there, its uid and its index in the block. -/
def State.startSlot (core : Nat) (start : Crew → Nat → Nat → Crew) (s : State) (i : Nat × Nat) : State :=
  s.setCrewAt (24 * core + i.1) (start (s.crewAt (24 * core + i.1)) (s.nextUid + i.2) i.2)

/-- The crews of a block put into their slots in index order, the first with index k. -/
def State.startSlots (core : Nat) (start : Crew → Nat → Nat → Crew) (s : State) (slots : List Nat) (k : Nat) : State :=
  (slots.zipIdx k).foldl (State.startSlot core start) s

section
variable (core : Nat) (start : Crew → Nat → Nat → Crew)

theorem State.startSlots_cons (s : State) (a : Nat) (slots : List Nat) (k : Nat) :
    s.startSlots core start (a :: slots) k = (s.startSlot core start (a, k)).startSlots core start slots (k + 1) := rfl

theorem State.startSlots_nextUid (s : State) (slots : List Nat) (k : Nat) :
    (s.startSlots core start slots k).nextUid = s.nextUid :=
  foldl_keeps (fun t : State => t.nextUid = s.nextUid) _ _ s (fun _ _ _ h => h) rfl

theorem State.startSlots_cores (s : State) (slots : List Nat) (k : Nat) :
    (s.startSlots core start slots k).cores = s.cores :=
  foldl_keeps (fun t : State => t.cores = s.cores) _ _ s (fun _ _ _ h => h) rfl

theorem State.crewAt_startSlots_ne (s : State) (slots : List Nat) (k : Nat) {j : Nat} (h : ∀ a ∈ slots, j ≠ 24 * core + a) :
    (s.startSlots core start slots k).crewAt j = s.crewAt j := by
  induction slots generalizing s k with
  | nil => rfl
  | cons a slots ih =>
    obtain ⟨ha, hslots⟩ := List.forall_mem_cons.mp h
    rw [State.startSlots_cons, ih _ _ hslots]
    exact s.crewAt_setCrewAt_ne _ ha

theorem State.crewAt_startSlots (s : State) {slots : List Nat} (hd : slots.Nodup) (k i : Nat) (hi : i < slots.length) :
    (s.startSlots core start slots k).crewAt (24 * core + slots[i]) =
      start (s.crewAt (24 * core + slots[i])) (s.nextUid + (k + i)) (k + i) := by
  induction slots generalizing s k i with
  | nil => exact absurd hi (Nat.not_lt_zero i)
  | cons a slots ih =>
    obtain ⟨ha, hd⟩ := List.nodup_cons.mp hd
    rw [State.startSlots_cons]
    cases i with
    | zero =>
      rw [List.getElem_cons_zero, State.crewAt_startSlots_ne]
      · exact s.crewAt_setCrewAt_same _ _
      · intro b hb hab
        exact ha (Nat.add_left_cancel hab ▸ hb)
    | succ i =>
      have hi : i < slots.length := Nat.lt_of_succ_lt_succ hi
      have hne : 24 * core + slots[i] ≠ 24 * core + a := fun h => ha (Nat.add_left_cancel h ▸ List.getElem_mem hi)
      rw [List.getElem_cons_succ, ih _ hd _ _ hi, show k + 1 + i = k + (i + 1) by omega, State.startSlot,
        State.crewAt_setCrewAt_ne _ _ hne]
      rfl

end

/-! ## A crew at its first instruction (R57) -/

/-- Every register of every lane is full and zero, in 96 lanes. -/
theorem startCrew_lanes (old : Crew) (uid part handle block index job under : Nat) (x : Needs) (lo : Nat) (n : Node) :
    let c := startCrew old uid part handle block index job under x lo n
    c.lanes.length = 96 ∧ ∀ l < 96, ∀ r, (c.lane l).reg r = LaneReg.zero := by
  refine ⟨?_, fun l hl r => ?_⟩
  · rw [startCrew, List.length_map, List.length_range]
  · simp [startCrew, Crew.lane, LaneState.reg, LaneState.empty, List.getD, hl]

theorem startCrew_splits (old : Crew) (uid part handle block index job under : Nat) (x : Needs) (lo : Nat) (n : Node) :
    let c := startCrew old uid part handle block index job under x lo n
    (∀ k, k ≠ 0 → (c.split k).live = false) ∧
      c.split 0 = { Split.free with live := true, spc := x.spc, lpc := x.lpc, members := allLanes, mask := allLanes } := by
  refine ⟨fun k hk => ?_, rfl⟩
  simp [startCrew, Crew.split, mapGet, hk.symm, Split.free]

/-- Every scalar register reads zero. -/
theorem startCrew_sreg (old : Crew) (uid part handle block index job under : Nat) (x : Needs) (lo : Nat) (n : Node) (r : RegNo) :
    (startCrew old uid part handle block index job under x lo n).sreg 0 r = 0 := by
  unfold Crew.sreg
  split
  · rfl
  · split <;> rfl

/-! ## The block -/

section
variable (s : State) (core : Nat) (b : Task) (n : Node) (x : Needs) (slots : List Nat) (lo : Nat)

/-- How a crew of the block starts. -/
def State.blockCrew (old : Crew) (uid index : Nat) : Crew :=
  startCrew old uid b.part b.handle b.block index (s.graph (graphKey b.part b.handle)).job
    (s.graph (graphKey b.part b.handle)).launch x lo n

/-- A block's start as the fold over its slots, on a memory that holds the image of .bdata. -/
theorem State.startBlock_slots : ∃ mem, let u := ({ s with mem } : State).startSlots core (s.blockCrew b n x lo) slots 0
    (s.startBlock core b n x slots lo).crews = u.crews ∧
      (s.startBlock core b n x slots lo).nextUid = u.nextUid + slots.length ∧
      (s.startBlock core b n x slots lo).cores = u.cores := by
  unfold State.startBlock
  dsimp only
  split
  · exact ⟨s.mem, rfl, rfl, rfl⟩
  · exact ⟨_, rfl, rfl, rfl⟩

theorem State.startBlock_nextUid : (s.startBlock core b n x slots lo).nextUid = s.nextUid + slots.length := by
  obtain ⟨mem, -, hu, -⟩ := s.startBlock_slots core b n x slots lo
  rw [hu, State.startSlots_nextUid]

theorem State.startBlock_cores : (s.startBlock core b n x slots lo).cores = s.cores := by
  obtain ⟨mem, -, -, hc⟩ := s.startBlock_slots core b n x slots lo
  rw [hc, State.startSlots_cores]

theorem State.crewAt_startBlock_ne {j : Nat} (h : j ∉ slots.map (24 * core + ·)) :
    (s.startBlock core b n x slots lo).crewAt j = s.crewAt j := by
  obtain ⟨mem, hc, -, -⟩ := s.startBlock_slots core b n x slots lo
  have hj : ∀ a ∈ slots, j ≠ 24 * core + a := fun a ha hja => h (List.mem_map.mpr ⟨a, ha, hja.symm⟩)
  exact (congrArg (mapGet Crew.empty · j) hc).trans (State.crewAt_startSlots_ne core _ _ slots 0 hj)

theorem State.crewAt_startBlock (hd : slots.Nodup) (i : Nat) (hi : i < slots.length) :
    (s.startBlock core b n x slots lo).crewAt (24 * core + slots[i]) =
      s.blockCrew b n x lo (s.crewAt (24 * core + slots[i])) (s.nextUid + i) i := by
  obtain ⟨mem, hc, -, -⟩ := s.startBlock_slots core b n x slots lo
  have h := State.crewAt_startSlots core (s.blockCrew b n x lo) { s with mem } hd 0 i hi
  rw [Nat.zero_add] at h
  exact (congrArg (mapGet Crew.empty · _) hc).trans h

end

/-- The block at the head of the prefetch buffer, once it fits (R56). -/
theorem execBlockPlacement_fits {s : State} {core : Nat} {b : Task} {rest : List Task} {n : Node} {slots : List Nat} {lo : Nat}
    (hp : (s.core core).prefetch = b :: rest) (hr : s.engineRuns (qkey b.part core) = true)
    (hn : s.node (graphKey b.part b.handle) b.node = some n)
    (hf : s.fit b.part core (s.graph (graphKey b.part b.handle)).job (s.needs (graphKey b.part b.handle) n) = some (slots, lo)) :
    execBlockPlacement core s = .next ((s.updCore core fun c => { c with prefetch := rest }).startBlock core b n
      (s.needs (graphKey b.part b.handle) n) slots lo) := by
  unfold execBlockPlacement
  simp only [hp, hr, hn, hf, Bool.not_true, Bool.false_eq_true, if_false]

/-- Settles O34: the crews that the fold over the slots leaves, each as `startCrew` makes it. -/
theorem blockPlacement : Obligations.BlockPlacement := by
  intro s core b rest n slots lo x hp hr hn hf hd
  refine ⟨_, execBlockPlacement_fits hp hr hn hf, ?_, State.startBlock_nextUid .., fun j hj => State.crewAt_startBlock_ne _ _ _ _ _ _ _ hj, ?_⟩
  · rw [State.core, State.startBlock_cores]
    exact congrArg Core.prefetch (s.core_updCore_same core _)
  · intro i hi
    rw [State.crewAt_startBlock _ _ _ _ _ _ _ hd i hi]
    obtain ⟨hlen, hregs⟩ := startCrew_lanes (s.crewAt (24 * core + slots[i])) (s.nextUid + i) b.part b.handle b.block i
      (s.graph (graphKey b.part b.handle)).job (s.graph (graphKey b.part b.handle)).launch x lo n
    obtain ⟨hdead, hsplit⟩ := startCrew_splits (s.crewAt (24 * core + slots[i])) (s.nextUid + i) b.part b.handle b.block i
      (s.graph (graphKey b.part b.handle)).job (s.graph (graphKey b.part b.handle)).launch x lo n
    exact ⟨rfl, rfl, rfl, rfl, rfl, rfl, rfl, rfl, rfl, rfl, rfl, rfl, rfl, rfl, rfl, rfl, startCrew_sreg _ _ _ _ _ _ _ _ _ _ _,
      hlen, hregs, hdead, hsplit⟩

end Sys2Proof.Machine
end

section
/-! What a reduction and a push with a later change of each lane leave of the crew (R104, R106, R187), for O27. -/

namespace Sys2Proof.Machine

/-! ## Lanes -/

theorem getD_listModify {α : Type} (f : α → α) (d : α) (l : List α) (k i : Nat) (hi : i < l.length) :
    (listModify f l k).getD i d = if i = k then f (l.getD i d) else l.getD i d := by
  induction l generalizing k i with
  | nil => exact absurd hi (Nat.not_lt_zero i)
  | cons a l ih =>
    cases k with
    | zero => cases i <;> rfl
    | succ k =>
      cases i with
      | zero => rfl
      | succ i =>
        have htail := ih k i (Nat.lt_of_succ_lt_succ hi)
        simpa [listModify] using htail

theorem Ctx.mem_lanes {x : Ctx} {i : Nat} : i ∈ x.lanes ↔ i < 96 ∧ x.exec.getLsbD i = true := by
  rw [Ctx.lanes, List.mem_filter, List.mem_range]

theorem Ctx.mem_lanes_of_exec {x : Ctx} {i : Nat} (h : x.exec.getLsbD i = true) : i ∈ x.lanes :=
  x.mem_lanes.mpr ⟨BitVec.lt_of_getLsbD h, h⟩

/-- A push reads its results in the executing lanes alone. -/
theorem Ctx.put_congr {x : Ctx} {g g' : Nat → LaneRes} (h : ∀ i ∈ x.lanes, g i = g' i) : x.put g = x.put g' := by
  have hlane : x.putLane g = x.putLane g' := by
    funext i l
    unfold Ctx.putLane
    split
    · next he => rw [h i (x.mem_lanes_of_exec he)]
    · rfl
  have hflags : x.allFlags g = x.allFlags g' :=
    List.foldl_ext _ _ _ fun fl i hi => by rw [h i hi]
  unfold Ctx.put
  rw [hlane, hflags]

/-- Results without flags raise none. -/
theorem Ctx.allFlags_zero (x : Ctx) (v : DWord) (p : Bool) : x.allFlags (fun _ => ⟨v, p, 0⟩) = 0 :=
  BitVec.eq_of_getLsbD_eq fun j _ => by
    rw [x.getLsbD_allFlags]
    simp

section
variable {s : State} {x : Ctx} {f : LaneFields} {e : LaneEntry} {op : BitVec 8} (hh : s.laneHead op f e)
  (hx : x.sh.dst = .push)
include hh hx

/-- The lane that the draws and a push leave of the crew's (R104, R106). -/
theorem Ctx.lanePushed_put (g : Nat → LaneRes) {i : Nat} (hi : i < 96) :
    x.lanePushed true g i (s.crew.lane i) ((x.put g (x.takeDraws s.crew)).lane i) ∧
      ((x.put g (x.takeDraws s.crew)).lane i).preds = (s.crew.lane i).preds := by
  obtain ⟨-, -, -, hlen⟩ := hh
  rw [x.lane_put g _ (by rwa [x.length_takeDraws, hlen]), x.lane_takeDraws _ (by rwa [hlen]), x.preds_putLane]
  have hpushed := x.lanePushed_putLane g i (s.crew.lane i)
  rw [decide_eq_true hx] at hpushed
  exact ⟨hpushed, rfl⟩

/-- A body that pushes results and then changes the lanes one by one: t is the state after it. -/
theorem Ctx.pushedThen_of_crew {t : State} {g : Nat → LaneRes} {post : Nat → LaneState → LaneState} {after : Crew → Crew}
    (honly : s.onlyCrew t) (hcrew : t.crew = (after (x.put g (x.takeDraws s.crew))).retire false)
    (hafter : ∀ c, after c = { c with lanes := (after c).lanes })
    (hlane : ∀ c i, i < c.lanes.length → (after c).lane i = post i (c.lane i)) : x.pushedThen g post s t := by
  obtain ⟨hq, -, hrep, hlen⟩ := id hh
  refine ⟨honly, ?_, fun i hi => ?_, fun j _ => ?_⟩
  · rw [hcrew, hafter, x.put_eq, x.takeDraws_eq]
    unfold Crew.retire
    dsimp only
    rw [retireHead_none hq hrep]
    rfl
  · obtain ⟨hpushed, hpreds⟩ := x.lanePushed_put hh hx g hi
    refine ⟨_, hpushed, hpreds, ?_⟩
    rw [hcrew]
    exact hlane _ i (by rwa [x.length_put, x.length_takeDraws, hlen])
  · have hsum : t.crew.fsum = s.crew.fsum ||| x.allFlags g := by
      rw [hcrew, hafter, x.takeDraws_eq]
      rfl
    rw [hsum, BitVec.getLsbD_or, x.getLsbD_allFlags]

end

/-! ## Reductions (R91, R152, R187) -/

/-- What a reduction with value v does to the crew: the push, then the ring, REDDONE, FSUM and the draws of the steps. -/
def Ctx.reduceCrew (x : Ctx) (v : DWord) (flags : Flags) (draws : Nat) (c : Crew) : Crew :=
  let poison := x.lanes.any fun i => x.poison 0 i
  let w := if poison then 0 else v
  let seq := x.e.redFirst + BitVec.ofNat 16 x.e.repAt
  let d := x.put (fun _ => ⟨w, poison, 0⟩) c
  { d with
    ring := (⟨seq, w, poison⟩ :: d.ring).take 4, redDone := seq
    fsum := if poison then d.fsum else d.fsum ||| flags
    lanes := match x.lanes with
      | [] => d.lanes
      | low :: _ => listModify (fun l => l.drew draws) d.lanes low }

theorem Ctx.reduced_eq (x : Ctx) (v : DWord) (flags : Flags) (draws : Nat) (s : State) :
    x.reduced v flags draws s = .ok (s.updCrew (x.reduceCrew v flags draws)) := rfl

/-- Beside the lanes, a reduction changes the ring, REDDONE and FSUM. -/
theorem Ctx.reduceCrew_eq (x : Ctx) (v : DWord) (flags : Flags) (draws : Nat) (c : Crew) :
    x.reduceCrew v flags draws c =
      let poison := x.lanes.any fun i => x.poison 0 i
      let w := if poison then 0 else v
      let seq := x.e.redFirst + BitVec.ofNat 16 x.e.repAt
      { c with
        lanes := (x.reduceCrew v flags draws c).lanes, ring := (⟨seq, w, poison⟩ :: c.ring).take 4, redDone := seq
        fsum := if poison then c.fsum else c.fsum ||| flags } := by
  unfold Ctx.reduceCrew Ctx.put
  have hor (fl : Flags) : fl ||| 0 = fl := BitVec.or_zero
  simp only [x.allFlags_zero, hor]

/-- The lowest executing lane takes the draws of the steps. -/
theorem Ctx.lane_reduceCrew (x : Ctx) (v : DWord) (flags : Flags) (draws : Nat) (c : Crew) {i : Nat}
    (hi : i < c.lanes.length) :
    (x.reduceCrew v flags draws c).lane i =
      let poison := x.lanes.any fun i => x.poison 0 i
      let l := (x.put (fun _ => ⟨if poison then 0 else v, poison, 0⟩) c).lane i
      if x.lanes.head? = some i then l.drew draws else l := by
  unfold Ctx.reduceCrew Crew.lane
  cases hl : x.lanes with
  | nil => rfl
  | cons low rest =>
    dsimp only
    rw [getD_listModify _ _ _ _ _ (by rwa [x.length_put])]
    simp only [List.head?_cons, Option.some.injEq, eq_comm]

/-- A body that reduces: t is the state after it. -/
theorem Ctx.reducedTo_of_crew {s t : State} {x : Ctx} {f : LaneFields} {op : BitVec 8} {v : DWord} {flags : Flags}
    {draws : Nat} (hh : s.laneHead op f x.e) (hx : x.sh.dst = .push) (honly : s.onlyCrew t)
    (hcrew : t.crew = (x.reduceCrew v flags draws (x.takeDraws s.crew)).retire false) :
    x.reducedTo v flags draws s t := by
  obtain ⟨hq, -, hrep, hlen⟩ := id hh
  have hseq : x.e.redFirst + BitVec.ofNat 16 x.e.repAt = x.e.redFirst := by
    unfold LaneEntry.repAt
    rw [hrep]
    exact BitVec.add_zero _
  refine ⟨honly, ?_, fun i hi => ?_⟩
  · rw [hcrew, x.reduceCrew_eq, hseq, x.takeDraws_eq]
    unfold Crew.retire
    dsimp only
    rw [retireHead_none hq hrep]
    rfl
  · obtain ⟨hpushed, hpreds⟩ := x.lanePushed_put hh hx
      (fun _ => ⟨if x.lanes.any fun i => x.poison 0 i then 0 else v, x.lanes.any fun i => x.poison 0 i, 0⟩) hi
    refine ⟨_, hpushed, ?_⟩
    rw [hcrew, ← hpreds]
    refine (x.lane_reduceCrew v flags draws _ (by rwa [x.length_takeDraws, hlen])).trans ?_
    dsimp only
    split <;> rfl

/-- A reduction whose body, where ok holds, gives a value with flags and draws. -/
theorem retires_reduced {mk : LaneFields → Instr} {shape : LaneFields → Shape} {body : Body} {ok : Ctx → Prop}
    {v : Ctx → DWord} {flags : Ctx → Flags} {draws : Ctx → Nat}
    (hrun : ∀ f s, exec (mk f) s = laneRun shape body f s) (hd : ∀ f, (shape f).dst = .push)
    (hb : ∀ x s, ok x → body x s = x.reduced (v x) (flags x) (draws x) s) :
    Retires mk (fun _ => shape) (fun _ x => ok x) fun x s t => x.reducedTo (v x) (flags x) (draws x) s t := by
  refine ⟨stops_of_run hrun, fun s f e hh hok hp => ⟨_, exec_of_body (shape := fun _ => shape) (hrun f s) hh hok
    ((hb _ _ hp).trans (Ctx.reduced_eq ..)), ?_⟩⟩
  rw [hd f]
  exact Ctx.reducedTo_of_crew hh (hd f) (State.onlyCrew_updCrew3 ..) (State.crew_updCrew3 ..)

/-- An instruction whose body, where ok holds, pushes results and then changes the lanes one by one. -/
theorem retires_pushedThen {mk : LaneFields → Instr} {shape : LaneFields → Shape} {body : Body} {ok : Ctx → Prop}
    {g : Ctx → Nat → LaneRes} {post : Ctx → Nat → LaneState → LaneState} {after : Ctx → Crew → Crew}
    (hrun : ∀ f s, exec (mk f) s = laneRun shape body f s) (hd : ∀ f, (shape f).dst = .push)
    (hb : ∀ x s, ok x → body x s = .ok (s.updCrew fun c => after x (x.put (g x) c)))
    (hafter : ∀ x c, ok x → after x c = { c with lanes := (after x c).lanes })
    (hlane : ∀ x c i, ok x → i < c.lanes.length → (after x c).lane i = post x i (c.lane i)) :
    Retires mk (fun _ => shape) (fun _ x => ok x) fun x s t => x.pushedThen (g x) (post x) s t := by
  refine ⟨stops_of_run hrun, fun s f e hh hok hp => ⟨_, exec_of_body (shape := fun _ => shape) (hrun f s) hh hok
    (hb _ _ hp), ?_⟩⟩
  rw [hd f]
  exact Ctx.pushedThen_of_crew hh (hd f) (State.onlyCrew_updCrew3 ..) (State.crew_updCrew3 ..) (fun c => hafter _ c hp)
    fun c i => hlane _ c i hp

end Sys2Proof.Machine
end

section
/-! Integers of a type under wrapping (R78), and the tree of R91 as a fold over the executing lanes, for O27. -/

namespace Sys2Proof.Machine

/-! ## Integers of a type (R78) -/

theorem intTy_width (n : Nat) : 0 < (intTy n).width ∧ (intTy n).width ≤ 64 := by
  unfold intTy
  split <;> decide

section
variable (t : IntTy)

theorem cast_intOf (v : Nat) : ((intOf t v : Int) : ZMod (2 ^ t.width)) = v := by
  have hpow : ((2 : Int) ^ t.width : ZMod (2 ^ t.width)) = 0 := by exact_mod_cast ZMod.natCast_self (2 ^ t.width)
  have hmod : ((v % 2 ^ t.width : Nat) : ZMod (2 ^ t.width)) = v := ZMod.natCast_mod v _
  unfold intOf
  dsimp only
  split
  · rw [Int.cast_sub, Int.cast_natCast, hmod, Int.cast_pow, hpow, sub_zero]
  · rw [Int.cast_natCast, hmod]

theorem cast_eq_iff (a b : Int) : (a : ZMod (2 ^ t.width)) = b ↔ a % 2 ^ t.width = b % 2 ^ t.width := by
  rw [ZMod.intCast_eq_intCast_iff']
  push_cast
  rfl

theorem wrapped_natCast (z : Int) : (((z % 2 ^ t.width).toNat : Nat) : Int) = z % 2 ^ t.width :=
  Int.toNat_of_nonneg (Int.emod_nonneg z (by positivity))

theorem cast_wrapped (z : Int) : (((z % 2 ^ t.width).toNat : Nat) : ZMod (2 ^ t.width)) = z := by
  rw [← Int.cast_natCast, wrapped_natCast, cast_eq_iff, Int.emod_emod_of_dvd _ dvd_rfl]

theorem cast_intOf_wrapped (z : Int) : ((intOf t (z % 2 ^ t.width).toNat : Int) : ZMod (2 ^ t.width)) = z := by
  rw [cast_intOf, cast_wrapped]

/-- Integers that are equal on the type's bits have the same bits. -/
theorem intBits_of_cast {a b : Int} (h : (a : ZMod (2 ^ t.width)) = b) : intBits t a = intBits t b := by
  unfold intBits
  rw [(cast_eq_iff t a b).mp h]

theorem toNat_natCast_emod (n : Nat) : ((n : Int) % 2 ^ t.width).toNat = n % 2 ^ t.width := by norm_cast

theorem wrapped_lt (z : Int) : (z % 2 ^ t.width).toNat < 2 ^ t.width := by
  zify
  rw [wrapped_natCast]
  exact Int.emod_lt_of_pos _ (by positivity)

theorem intBits_wrapped (z : Int) : intBits t (intOf t (z % 2 ^ t.width).toNat) = intBits t z :=
  intBits_of_cast t (cast_intOf_wrapped t z)

theorem toNat_intBits_mod (hw : t.width ≤ 64) (z : Int) :
    (intBits t z).toNat % 2 ^ t.width = (z % 2 ^ t.width).toNat := by
  have hdvd : (2 : Int) ^ t.width ∣ 2 ^ 64 := pow_dvd_pow 2 hw
  have hbits : (((intBits t z).toNat : Nat) : Int) = intOf t (z % 2 ^ t.width).toNat % 2 ^ 64 := by
    unfold intBits
    rw [BitVec.toNat_ofInt]
    exact Int.toNat_of_nonneg (Int.emod_nonneg _ (by decide))
  refine Int.ofNat_inj.mp ?_
  rw [wrapped_natCast, ← (cast_eq_iff t _ z).mp (cast_intOf_wrapped t z), ← Int.emod_emod_of_dvd _ hdvd, ← hbits]
  norm_cast

theorem intOf_bounds (hw : 0 < t.width) (v : Nat) : intMin t ≤ intOf t v ∧ intOf t v ≤ intMax t := by
  have hlt := Nat.mod_lt v (Nat.two_pow_pos t.width)
  have hhalf : 2 ^ t.width = 2 * 2 ^ (t.width - 1) := by rw [← pow_succ', Nat.sub_add_cancel hw]
  have hhalfZ : (2 : Int) ^ t.width = 2 * 2 ^ (t.width - 1) := by exact_mod_cast hhalf
  unfold intOf intMin intMax
  generalize v % 2 ^ t.width = u at *
  zify at hlt
  cases t.signed with
  | false =>
    simp only [Bool.false_and, Bool.false_eq_true, if_false]
    omega
  | true =>
    simp only [Bool.true_and, decide_eq_true_eq, if_true]
    by_cases hle : 2 ^ (t.width - 1) ≤ u
    · rw [if_pos hle]
      zify at hle
      omega
    · rw [if_neg hle]
      zify at hle
      omega

/-- A value of the type is read back from its bits. -/
theorem intOf_wrapped (hw : 0 < t.width) {z : Int} (hlo : intMin t ≤ z) (hhi : z ≤ intMax t) :
    intOf t (z % 2 ^ t.width).toNat = z := by
  have hb := intOf_bounds t hw (z % 2 ^ t.width).toNat
  have hdvd : (2 : Int) ^ t.width ∣ intOf t (z % 2 ^ t.width).toNat - z :=
    Int.dvd_of_emod_eq_zero (Int.emod_eq_emod_iff_emod_sub_eq_zero.mp ((cast_eq_iff t _ z).mp (cast_intOf_wrapped t z)))
  have hspan : intMax t - intMin t < 2 ^ t.width := by
    have hhalfZ : (2 : Int) ^ t.width = 2 * 2 ^ (t.width - 1) := by rw [← pow_succ', Nat.sub_add_cancel hw]
    unfold intMin intMax
    split <;> omega
  have hzero := Int.eq_zero_of_abs_lt_dvd hdvd (abs_lt.mpr ⟨by omega, by omega⟩)
  omega

end

/-! ## The tree (R91) -/

theorem length_treeLevel (g : Node2) (l : List (Option Nat)) (acc : TreeAcc) :
    (treeLevel g acc l).1.length = (l.length + 1) / 2 := by
  induction acc, l using treeLevel.induct (g := g) with
  | case1 acc x y rest r ih =>
    simp only [treeLevel, List.length_cons]
    rw [ih]
    omega
  | case2 acc l hl =>
    rw [treeLevel.eq_2 _ _ _ hl]
    match l, hl with
    | [], _ => rfl
    | [_], _ => simp
    | x :: y :: rest, hl => exact absurd rfl (hl x y rest)

section
variable {β : Type} {op : β → β → β} (hassoc : ∀ a b c, op (op a b) c = op a (op b c)) {g : Node2} {ψ : Option Nat → β}
  (hnode : ∀ acc x y, ψ (treeNode g acc x y).1 = op (ψ x) (ψ y))
include hassoc hnode

/-- A level keeps what an associative operation makes of its inputs in their order. -/
theorem foldl_treeLevel (l : List (Option Nat)) (acc : TreeAcc) (b : β) :
    ((treeLevel g acc l).1.map ψ).foldl op b = (l.map ψ).foldl op b := by
  induction acc, l using treeLevel.induct (g := g) generalizing b with
  | case1 acc x y rest r ih =>
    have hpair : op (op b (ψ x)) (ψ y) = op b (ψ r.1) := by rw [hassoc, hnode]
    simp only [treeLevel, List.map_cons, List.foldl_cons, hpair]
    exact ih _
  | case2 acc l hl =>
    rw [treeLevel.eq_2 _ _ _ hl]

theorem foldl_treeLevels (n : Nat) (x : List (Option Nat) × TreeAcc) (b : β) :
    ((treeLevels g n x).1.map ψ).foldl op b = (x.1.map ψ).foldl op b := by
  induction n generalizing x with
  | zero => rfl
  | succ n ih => exact (ih _).trans (foldl_treeLevel hassoc hnode _ _ _)

/-- The tree over 96 inputs gives what an associative operation makes of them in their order. -/
theorem tree_eq_foldl {l : List (Option Nat)} (hl : l.length = 96) : ψ (tree g l).1 = (l.map ψ).foldl op (ψ none) := by
  have hlen : (treeLevels g 5 (l, ⟨0, 0⟩)).1.length = 3 := by
    simp only [treeLevels, length_treeLevel, hl]
  have hfold := foldl_treeLevels hassoc hnode 5 (l, ⟨0, 0⟩) (ψ none)
  rw [← hfold]
  unfold tree
  match treeLevels g 5 (l, ⟨0, 0⟩), hlen with
  | ([b0, b1, b2], acc), _ =>
    have hid : op (ψ none) (ψ b0) = ψ b0 := (hnode acc none b0).symm
    simp only [List.map_cons, List.map_nil, List.foldl_cons, List.foldl_nil, hnode, hid]

/-- Over the inputs of the executing lanes, whatever the tree combines in ascending order of the lanes. -/
theorem tree_inputs (x : Ctx) (w : Nat) : ψ (tree g (x.inputs w)).1 =
    x.lanes.foldl (fun b i => op b (ψ (some ((x.val 0 i).toNat % 2 ^ w)))) (ψ none) := by
  have hskip (l : List Nat) (o : Option Nat) :
      ((l.map fun i => if x.exec.getLsbD i then some ((x.val 0 i).toNat % 2 ^ w) else none).map ψ).foldl op (ψ o) =
        (l.filter fun i => x.exec.getLsbD i).foldl (fun b i => op b (ψ (some ((x.val 0 i).toNat % 2 ^ w)))) (ψ o) := by
    induction l generalizing o with
    | nil => rfl
    | cons i l ih =>
      by_cases he : x.exec.getLsbD i
      · have hstep := hnode ⟨0, 0⟩ o (some ((x.val 0 i).toNat % 2 ^ w))
        simp only [List.map_cons, he, if_true, List.foldl_cons, List.filter_cons_of_pos, ← hstep]
        exact ih _
      · have hstay : op (ψ o) (ψ none) = ψ o := by
          rw [← hnode ⟨0, 0⟩ o none]
          cases o <;> rfl
        simp only [List.map_cons, he, if_false, List.foldl_cons, hstay, Bool.false_eq_true, not_false_eq_true,
          List.filter_cons_of_neg]
        exact ih _
  rw [tree_eq_foldl hassoc hnode (by simp [Ctx.inputs])]
  exact hskip _ none

end

end Sys2Proof.Machine
end

section
/-! The reductions over one table: integers, bits and counts (R187), for O27. -/

namespace Sys2Proof.Machine

/-! ## Sums, least and greatest -/

/-- The integer type of the instruction. -/
abbrev Ctx.ty (x : Ctx) : IntTy := intTy x.f.fmt.toNat

/-- Source a of a lane as an integer of the type. -/
abbrev Ctx.int (x : Ctx) (i : Nat) : Int := intOf x.ty (x.val 0 i).toNat

/-- What the tree of an integer reduction gives: the identity where no lane executes. -/
def Ctx.treeInt (x : Ctx) (g : IntTy → Int → Int → Int) (identity : Int) : Int :=
  let t := x.ty
  (tree (fun _ a b => ((intBits t (g t (intOf t a) (intOf t b))).toNat % 2 ^ t.width, 0)) (x.inputs t.width)).1.elim identity
    fun v => (v : Int)

theorem intReduce_eq (g : IntTy → Int → Int → Int) (identity : IntTy → Int) (x : Ctx) (s : State) :
    intReduce g identity x s =
      x.reduced (intBits x.ty (x.treeInt g (identity x.ty))) 0 0 s := by
  unfold intReduce Ctx.treeInt
  dsimp only
  cases (tree _ (x.inputs x.ty.width)).1 <;> rfl

/-- What an associative operation makes of the tree's integer: φ carries the steps to it, and ψ the result. -/
theorem Ctx.treeInt_image {x : Ctx} {g : IntTy → Int → Int → Int} {identity : Int} {β : Type} {op : β → β → β} {φ : Nat → β}
    {e : β} (hassoc : ∀ a b c, op (op a b) c = op a (op b c))
    (hφ : ∀ a b, φ (g x.ty (intOf x.ty a) (intOf x.ty b) % 2 ^ x.ty.width).toNat = op (φ a) (φ b))
    (hl : ∀ a, op e (φ a) = φ a) (hr : ∀ a, op (φ a) e = φ a) (he : op e e = e) {ψ : Int → β}
    (hψ : ∀ v : Nat, ψ v = φ v) (hid : ψ identity = e) :
    ψ (x.treeInt g identity) = x.lanes.foldl (fun b i => op b (φ ((x.val 0 i).toNat % 2 ^ x.ty.width))) e := by
  have hnode (acc : TreeAcc) (o p : Option Nat) :
      (treeNode (fun _ a b => ((intBits x.ty (g x.ty (intOf x.ty a) (intOf x.ty b))).toNat % 2 ^ x.ty.width, 0)) acc o p).1.elim
        e φ = op (o.elim e φ) (p.elim e φ) := by
    cases o with
    | none => cases p with
      | none => exact he.symm
      | some b => exact (hl b).symm
    | some a => cases p with
      | none => exact (hr a).symm
      | some b =>
        show φ (_ % _) = op (φ a) (φ b)
        rw [toNat_intBits_mod _ (intTy_width _).2]
        exact hφ a b
  refine Eq.trans ?_ (tree_inputs (ψ := fun o => o.elim e φ) hassoc hnode x x.ty.width)
  unfold Ctx.treeInt
  dsimp only
  cases (tree _ (x.inputs x.ty.width)).1 with
  | none => exact hid
  | some v => exact hψ v

/-- The sum, on the bits of the type, in any order of the tree (R187). -/
theorem Ctx.treeInt_add (x : Ctx) : intBits x.ty (x.treeInt (fun _ a b => a + b) 0) =
    intBits x.ty (x.lanes.foldl (fun v i => v + x.int i) 0) := by
  refine intBits_of_cast _ ?_
  rw [Ctx.treeInt_image (op := (· + ·)) (φ := fun v => (v : ZMod (2 ^ x.ty.width))) (e := 0) add_assoc
    (fun a b => by rw [cast_wrapped, Int.cast_add, cast_intOf, cast_intOf]) (fun _ => zero_add _) (fun _ => add_zero _)
    (add_zero _) (ψ := Int.cast) (fun _ => Int.cast_natCast _) Int.cast_zero, ← Int.cast_zero]
  refine List.foldl_hom _ fun v i => ?_
  rw [Int.cast_add, cast_intOf, ZMod.natCast_mod]

/-- The least or the greatest of values of the type: op keeps one of two, and the identity e is beyond them (R187). -/
theorem Ctx.treeInt_pick (x : Ctx) {op : Int → Int → Int} {e : Int} (hassoc : ∀ a b c, op (op a b) c = op a (op b c))
    (hpick : ∀ a b, op a b = a ∨ op a b = b) (hl : ∀ v, op e (intOf x.ty v) = intOf x.ty v)
    (hr : ∀ v, op (intOf x.ty v) e = intOf x.ty v) (hlo : intMin x.ty ≤ e) (hhi : e ≤ intMax x.ty) :
    intBits x.ty (x.treeInt (fun _ => op) e) = intBits x.ty (x.lanes.foldl (fun v i => op v (x.int i)) e) := by
  rw [← intBits_wrapped]
  refine congrArg _ ((Ctx.treeInt_image (g := fun _ => op) hassoc (φ := intOf x.ty)
    (ψ := fun z => intOf x.ty (z % 2 ^ x.ty.width).toNat) (fun a b => ?_) hl hr ((hpick e e).elim id id) (fun v => ?_)
    (intOf_wrapped _ (intTy_width _).1 hlo hhi)).trans ?_)
  · rcases hpick (intOf x.ty a) (intOf x.ty b) with h | h
    · rw [h, intOf_emod, intOf_mod]
    · rw [h, intOf_emod, intOf_mod]
  · rw [toNat_natCast_emod, intOf_mod]
  · simp only [intOf_mod]

theorem Ctx.treeInt_min (x : Ctx) : intBits x.ty (x.treeInt (fun _ a b => min a b) (intMax x.ty)) =
    intBits x.ty (x.lanes.foldl (fun v i => min v (x.int i)) (intMax x.ty)) := by
  have hb := intOf_bounds x.ty (intTy_width _).1
  exact x.treeInt_pick (op := min) min_assoc min_choice (fun v => min_eq_right (hb v).2) (fun v => min_eq_left (hb v).2)
    ((hb 0).1.trans (hb 0).2) le_rfl

theorem Ctx.treeInt_max (x : Ctx) : intBits x.ty (x.treeInt (fun _ a b => max a b) (intMin x.ty)) =
    intBits x.ty (x.lanes.foldl (fun v i => max v (x.int i)) (intMin x.ty)) := by
  have hb := intOf_bounds x.ty (intTy_width _).1
  exact x.treeInt_pick (op := max) max_assoc max_choice (fun v => max_eq_right (hb v).1) (fun v => max_eq_left (hb v).1)
    le_rfl ((hb 0).1.trans (hb 0).2)

/-! ## Bitwise reductions -/

theorem bitsWhere_lt (p : Nat → Bool) (n : Nat) : bitsWhere p n < 2 ^ n := by
  induction n with
  | zero => exact Nat.one_pos
  | succ n ih =>
    rw [bitsWhere, pow_succ]
    split <;> omega

theorem testBit_bitsWhere (p : Nat → Bool) (n j : Nat) : (bitsWhere p n).testBit j = (decide (j < n) && p j) := by
  induction n with
  | zero => simp [bitsWhere]
  | succ n ih =>
    have hlt := bitsWhere_lt p n
    have hor : bitsWhere p (n + 1) = 2 ^ n * (p n).toNat + bitsWhere p n := by
      rw [bitsWhere]
      cases p n <;> simp [Nat.add_comm]
    rw [hor, Nat.testBit_two_pow_mul_add _ hlt]
    rcases Nat.lt_trichotomy j n with h | rfl | h
    · rw [if_pos h, ih, decide_eq_true h, decide_eq_true (Nat.lt_succ_of_lt h)]
    · cases hp : p j <;> simp
    · rw [if_neg (by omega), decide_eq_false (by omega)]
      exact Nat.testBit_eq_false_of_lt ((p n).toNat_lt.trans_le (Nat.le_self_pow (by omega) 2))

/-- A bitwise reduction gives on each bit what op makes of the lanes' bits (R187). -/
theorem Ctx.treeInt_bits (x : Ctx) {g : Nat → Nat → Nat} {identity : Int} {op : Bool → Bool → Bool} {e : Bool}
    {p : Nat → Bool} (hassoc : ∀ a b c, op (op a b) c = op a (op b c)) (hl : ∀ a, op e a = a) (hr : ∀ a, op a e = a)
    (hg : ∀ a b j, (g a b).testBit j = op (a.testBit j) (b.testBit j))
    (hid : ∀ j < x.ty.width, (identity % 2 ^ x.ty.width).toNat.testBit j = e)
    (hp : ∀ j, p j = x.lanes.foldl (fun b i => op b ((x.val 0 i).getLsbD j)) e) :
    intBits x.ty (x.treeInt (fun t a b => (g (a % 2 ^ t.width).toNat (b % 2 ^ t.width).toNat : Nat)) identity) =
      intBits x.ty (bitsWhere p x.ty.width) := by
  have hread (j : Nat) (hj : j < x.ty.width) (n : Nat) : (n % 2 ^ x.ty.width).testBit j = n.testBit j := by
    rw [Nat.testBit_mod_two_pow, decide_eq_true hj, Bool.true_and]
  refine intBits_of_cast _ ?_
  rw [← cast_wrapped, ← cast_wrapped, toNat_natCast_emod, Nat.mod_eq_of_lt (bitsWhere_lt p _)]
  refine congrArg _ (Nat.eq_of_testBit_eq fun j => ?_)
  rw [testBit_bitsWhere]
  by_cases hj : j < x.ty.width
  · rw [decide_eq_true hj, Bool.true_and, hp]
    refine (Ctx.treeInt_image (φ := (·.testBit j)) hassoc (fun a b => ?_) (fun _ => hl _) (fun _ => hr _) (hl e)
      (ψ := fun z => (z % 2 ^ x.ty.width).toNat.testBit j) (fun v => ?_) (hid j hj)).trans
      (List.foldl_ext _ _ _ fun b i _ => ?_)
    · rw [toNat_natCast_emod, hread j hj, hg, intOf_emod, intOf_emod, hread j hj, hread j hj]
    · rw [toNat_natCast_emod, hread j hj]
    · rw [hread j hj, BitVec.testBit_toNat]
  · rw [decide_eq_false hj, Bool.false_and]
    exact Nat.testBit_eq_false_of_lt ((wrapped_lt _ _).trans_le (Nat.pow_le_pow_right (by decide) (not_lt.mp hj)))

theorem foldl_and (p : Nat → Bool) (l : List Nat) (b : Bool) : l.foldl (fun b i => b && p i) b = (b && l.all p) := by
  induction l generalizing b with
  | nil => simp
  | cons i l ih => rw [List.foldl_cons, ih, List.all_cons, Bool.and_assoc]

theorem foldl_or (p : Nat → Bool) (l : List Nat) (b : Bool) : l.foldl (fun b i => b || p i) b = (b || l.any p) := by
  induction l generalizing b with
  | nil => simp
  | cons i l ih => rw [List.foldl_cons, ih, List.any_cons, Bool.or_assoc]

theorem foldl_xor (p : Nat → Bool) (l : List Nat) (b : Bool) :
    l.foldl (fun b i => b ^^ p i) b = (b ^^ (l.filter p).length % 2 == 1) := by
  induction l generalizing b with
  | nil => simp
  | cons i l ih =>
    rw [List.foldl_cons, ih]
    cases hp : p i
    · simp [hp]
    · rw [List.filter_cons_of_pos hp, List.length_cons]
      rcases Nat.mod_two_eq_zero_or_one (l.filter p).length with h | h
      · simp [Nat.add_mod, h]
      · simp [Nat.add_mod, h]

/-- A value is not zero on the type's bits where one of them is set. -/
theorem mod_two_pow_ne_zero (v : DWord) (w : Nat) : (v.toNat % 2 ^ w != 0) = (List.range w).any v.getLsbD := by
  rw [Bool.eq_iff_iff, bne_iff_ne, List.any_eq_true, Ne, Nat.eq_iff_testBit_eq, not_forall]
  refine exists_congr fun j => ?_
  rw [Nat.zero_testBit, Nat.testBit_mod_two_pow, BitVec.testBit_toNat, List.mem_range]
  simp

end Sys2Proof.Machine
end

section
/-! RARG, SCAN and CMPX (R187 to R189), for O27. -/

namespace Sys2Proof.Machine

/-! ## The order of floating values, -0 before +0 (R187) -/

/-- An exact number as a rational. -/
def Exact.rat (a : Exact) : ℚ := a.num * 2 ^ a.exp

theorem Exact.rat_scaled (a : Exact) {q : Int} (h : q ≤ a.exp) :
    a.rat = ((a.num * 2 ^ (a.exp - q).toNat : Int) : ℚ) * 2 ^ q := by
  have hexp : a.exp = ((a.exp - q).toNat : Int) + q := by omega
  have hpow : (2 : ℚ) ^ a.exp = 2 ^ (a.exp - q).toNat * 2 ^ q := by
    conv_lhs => rw [hexp]
    rw [zpow_add₀ (by norm_num), zpow_natCast]
  unfold Exact.rat
  rw [hpow]
  push_cast
  ring

theorem cmpFinite_neg (a b : Exact) : cmpFinite a b < 0 ↔ a.rat < b.rat := by
  rw [a.rat_scaled (min_le_left a.exp b.exp), b.rat_scaled (min_le_right a.exp b.exp),
    mul_lt_mul_iff_left₀ (zpow_pos (by norm_num) _), Int.cast_lt]
  unfold cmpFinite Exact.add
  dsimp only
  rw [neg_mul]
  omega

/-- Where a value stands between the infinities. -/
def Val.place : Val → WithBot (WithTop ℚ)
  | .inf true => ⊥
  | .inf false => ⊤
  | v => ((v.exact.rat : WithTop ℚ) : WithBot (WithTop ℚ))

theorem valLt_iff (a b : Val) : valLt a b = true ↔ a.place < b.place := by
  have hfin (v w : Val) : decide (cmpFinite v.exact w.exact < 0) = true ↔
      ((v.exact.rat : WithTop ℚ) : WithBot (WithTop ℚ)) < ((w.exact.rat : WithTop ℚ) : WithBot (WithTop ℚ)) := by
    rw [decide_eq_true_iff, cmpFinite_neg, WithBot.coe_lt_coe, WithTop.coe_lt_coe]
  have hbot (v : WithTop ℚ) : (⊥ : WithBot (WithTop ℚ)) < v := WithBot.bot_lt_coe v
  have htop (v : ℚ) : ((v : WithTop ℚ) : WithBot (WithTop ℚ)) < ⊤ := WithBot.coe_lt_coe.mpr (WithTop.coe_lt_top v)
  cases a with
  | inf n => cases b with
    | inf m => cases n <;> cases m <;> simp [valLt, Val.place]
    | nan m k q => cases n <;> simp [valLt, Val.place, hbot]
    | num m k q => cases n <;> simp [valLt, Val.place, hbot]
  | nan n k q => cases b with
    | inf m => cases m <;> simp [valLt, Val.place, htop]
    | nan m k' q' => exact hfin (.nan n k q) (.nan m k' q')
    | num m k' q' => exact hfin (.nan n k q) (.num m k' q')
  | num n k q => cases b with
    | inf m => cases m <;> simp [valLt, Val.place, htop]
    | nan m k' q' => exact hfin (.num n k q) (.nan m k' q')
    | num m k' q' => exact hfin (.num n k q) (.num m k' q')

/-- The order of values in which a negative zero comes before a positive one. -/
def Val.rank (v : Val) : WithBot (WithTop ℚ) ×ₗ Bool := toLex (v.place, !v.neg)

theorem less_iff_rank (a b : Val) : (valLt a b || (valEq a b && a.neg && !b.neg)) = true ↔ a.rank < b.rank := by
  have heq : valEq a b = true ↔ a.place = b.place := by
    unfold valEq
    rw [Bool.and_eq_true, Bool.not_eq_true', Bool.not_eq_true', ← Bool.not_eq_true, ← Bool.not_eq_true, valLt_iff,
      valLt_iff, not_lt, not_lt, le_antisymm_iff, and_comm]
  unfold Val.rank
  rw [Bool.or_eq_true, Bool.and_eq_true, Bool.and_eq_true, valLt_iff, heq, Prod.Lex.toLex_lt_toLex, and_assoc]
  refine or_congr Iff.rfl (and_congr Iff.rfl ?_)
  show _ ↔ (!a.neg) < (!b.neg)
  cases a.neg <;> cases b.neg <;> decide

/-! ## RARG (R187) -/

/-- The best so far, kept unless a lane comes before it. -/
def keepBest (before : Nat → Nat → Bool) (b : Option Nat) (i : Nat) : Option Nat :=
  match b with
  | none => some i
  | some j => if before i j then some i else some j

section
variable {K : Type} [LinearOrder K] {key : Nat → K} {before : Nat → Nat → Bool}
  (hkey : ∀ i j, before i j = true ↔ key i < key j)
include hkey

/-- The best of a list is the first of those that none comes before. -/
theorem foldl_keepBest (l : List Nat) :
    (l = [] ∧ l.foldl (keepBest before) none = none) ∨
      ∃ as r bs, l = as ++ r :: bs ∧ l.foldl (keepBest before) none = some r ∧ (∀ a ∈ as, key r < key a) ∧
        ∀ b ∈ l, key r ≤ key b := by
  induction l using List.reverseRecOn with
  | nil => exact .inl ⟨rfl, rfl⟩
  | append_singleton l i ih =>
    right
    rw [List.foldl_append]
    rcases ih with ⟨rfl, hnone⟩ | ⟨as, r, bs, rfl, hbest, hfirst, hleast⟩
    · exact ⟨[], i, [], rfl, rfl, by simp, by simp⟩
    · rw [hbest, List.foldl_cons, List.foldl_nil]
      unfold keepBest
      dsimp only
      by_cases hlt : key i < key r
      · rw [if_pos ((hkey i r).mpr hlt)]
        refine ⟨_, i, [], rfl, rfl, fun a ha => hlt.trans_le (hleast a ha), fun b hb => ?_⟩
        rcases List.mem_append.mp hb with hb | hb
        · exact (hlt.trans_le (hleast b hb)).le
        · exact (congrArg key (List.mem_singleton.mp hb)).ge
      · rw [if_neg fun h => hlt ((hkey i r).mp h)]
        refine ⟨as, r, bs ++ [i], by simp, rfl, hfirst, fun b hb => ?_⟩
        rcases List.mem_append.mp hb with hb | hb
        · exact hleast b hb
        · rw [List.mem_singleton.mp hb]
          exact not_lt.mp hlt

theorem foldl_keepBest_eq_find (l : List Nat) :
    l.foldl (keepBest before) none = l.find? fun i => l.all fun j => !before j i := by
  rcases foldl_keepBest hkey l with ⟨rfl, hnone⟩ | ⟨as, r, bs, hl, hbest, hfirst, hleast⟩
  · exact hnone
  · rw [hbest]
    refine (List.find?_eq_some_iff_append.mpr ⟨?_, as, bs, hl, fun a ha => ?_⟩).symm
    · refine List.all_eq_true.mpr fun j hj => ?_
      rw [Bool.not_eq_true', ← Bool.not_eq_true, hkey]
      exact not_lt.mpr (hleast j hj)
    · rw [Bool.not_eq_true', ← Bool.not_eq_true, List.all_eq_true]
      intro hall
      have hr := hall r (by rw [hl]; simp)
      rw [Bool.not_eq_true', ← Bool.not_eq_true, hkey] at hr
      exact hr (hfirst a ha)

end

/-- Source a of a lane by the order of floating values. -/
def Ctx.rank (x : Ctx) (i : Nat) : WithBot (WithTop ℚ) ×ₗ Bool :=
  (readFloat (floatFmt x.f.fmt.toNat) (x.rounding 0 0) (x.val 0 i).toNat).rank

section
variable {x : Ctx} (i j : Nat)

theorem Ctx.argBefore_int (hk : x.sh.kind = .int) :
    x.argBefore i j = true ↔ if x.f.imm.getLsbD 0 then x.int j < x.int i else x.int i < x.int j := by
  unfold Ctx.argBefore
  simp only [hk, if_true]
  split <;> exact decide_eq_true_iff

theorem Ctx.argBefore_float (hk : x.sh.kind ≠ .int) :
    x.argBefore i j = true ↔ if x.f.imm.getLsbD 0 then x.rank j < x.rank i else x.rank i < x.rank j := by
  unfold Ctx.argBefore
  simp only [hk, if_false]
  split <;> exact less_iff_rank _ _

end

/-- The lane that RARG finds is the first that none comes before. -/
theorem Ctx.best_eq_find (x : Ctx) (l : List Nat) :
    l.foldl (keepBest x.argBefore) none = l.find? fun i => l.all fun j => !x.argBefore j i := by
  by_cases hk : x.sh.kind = .int
  · have hint (i j : Nat) := Ctx.argBefore_int i j hk
    split at hint
    · exact foldl_keepBest_eq_find (key := fun i => OrderDual.toDual (x.int i))
        (fun i j => (hint i j).trans OrderDual.toDual_lt_toDual.symm) l
    · exact foldl_keepBest_eq_find (key := x.int) hint l
  · have hrank (i j : Nat) := Ctx.argBefore_float i j hk
    split at hrank
    · exact foldl_keepBest_eq_find (key := fun i => OrderDual.toDual (x.rank i))
        (fun i j => (hrank i j).trans OrderDual.toDual_lt_toDual.symm) l
    · exact foldl_keepBest_eq_find (key := x.rank) hrank l

/-! ## SCAN (R188) -/

/-- Whether the value of lane j is part of what lane i receives. -/
def scanSees (excl : Bool) (i j : Nat) : Bool := if excl then decide (j < i) else decide (j ≤ i)

theorem scanSees_of_lt {excl : Bool} {i j : Nat} (h : j < i) : scanSees excl i j = true := by
  unfold scanSees
  cases excl
  · exact decide_eq_true h.le
  · exact decide_eq_true h

theorem scanSees_of_gt {excl : Bool} {i j : Nat} (h : i < j) : scanSees excl i j = false := by
  unfold scanSees
  cases excl
  · exact decide_eq_false h.not_ge
  · exact decide_eq_false h.asymm

theorem scanSees_self (excl : Bool) (i : Nat) : scanSees excl i i = !excl := by
  unfold scanSees
  cases excl
  · exact decide_eq_true le_rfl
  · exact decide_eq_false (lt_irrefl i)

theorem Ctx.lanes_pairwise (x : Ctx) : x.lanes.Pairwise (· < ·) := List.pairwise_lt_range.filter _

/-- A scan whose steps take no draw and raise no flag: a lane receives what the lanes that it sees have accumulated. -/
theorem scanGo_get (x : Ctx) (next : Nat → DWord → Nat) (excl : Bool) (out : Nat → DWord) {l : List Nat}
    (hl : l.Pairwise (· < ·)) (acc : Nat) (bad drew : Bool) {i : Nat} (hi : i ∈ l) :
    mapGet ⟨0, false, 0⟩ (scanGo x (fun _ _ a v => (next a v, 0)) excl out l acc bad drew) i =
      ⟨out ((l.filter (scanSees excl i)).foldl (fun a j => next a (x.val 0 j)) acc),
        bad || l.any fun j => decide (j ≤ i) && x.poison 0 j, 0⟩ := by
  induction l generalizing acc bad drew with
  | nil => exact absurd hi List.not_mem_nil
  | cons k l ih =>
    obtain ⟨hk, hl⟩ := List.pairwise_cons.mp hl
    unfold scanGo mapGet
    rcases List.mem_cons.mp hi with rfl | hi
    · have hnone : l.filter (scanSees excl i) = [] :=
        List.filter_eq_nil_iff.mpr fun j hj => by rw [scanSees_of_gt (hk j hj)]; exact Bool.false_ne_true
      have hclean : (l.any fun j => decide (j ≤ i) && x.poison 0 j) = false :=
        List.any_eq_false.mpr fun j hj => by simp [Nat.not_le.mpr (hk j hj)]
      rw [if_pos rfl, List.filter_cons, scanSees_self, hnone, List.any_cons, hclean]
      cases excl <;> simp
    · have hki := hk i hi
      rw [if_neg hki.ne, List.filter_cons_of_pos (scanSees_of_lt hki), List.any_cons, decide_eq_true hki.le, Bool.true_and,
        ← Bool.or_assoc]
      exact ih hl _ _ _ hi

/-- The operation of SCAN on integers: the sum, the least or the greatest. -/
def scanOp (op : Nat) (a b : Int) : Int := if op = 0 then a + b else if op = 1 then min a b else max a b

/-- What SCAN starts from on integers of a type. -/
def scanFrom (t : IntTy) (op : Nat) : Int := if op = 0 then 0 else if op = 1 then intMax t else intMin t

/-- Accumulating on the bits of the type gives the bits of what the integers accumulate to. -/
theorem Ctx.scan_bits (x : Ctx) (op : Nat) (l : List Nat) :
    intBits x.ty ((l.foldl (fun a j => (scanOp op (intOf x.ty a) (x.int j) % 2 ^ x.ty.width).toNat)
        (scanFrom x.ty op % 2 ^ x.ty.width).toNat : Nat) : Int) =
      intBits x.ty (l.foldl (fun v j => scanOp op v (x.int j)) (scanFrom x.ty op)) := by
  have hb := intOf_bounds x.ty (intTy_width _).1
  have hrange := (hb 0).1.trans (hb 0).2
  by_cases hop : op = 0
  · subst hop
    refine intBits_of_cast _ ?_
    rw [Int.cast_natCast]
    refine List.foldl_rel (r := fun (a : Nat) (v : Int) => (a : ZMod (2 ^ x.ty.width)) = v) (cast_wrapped _ _)
      fun j _ a v hav => ?_
    rw [cast_wrapped]
    simp only [scanOp, if_true, Int.cast_add, cast_intOf, hav]
  · have hpick (a b : Int) : scanOp op a b = a ∨ scanOp op a b = b := by
      unfold scanOp
      rw [if_neg hop]
      split
      · exact min_choice a b
      · exact max_choice a b
    have hstart : intMin x.ty ≤ scanFrom x.ty op ∧ scanFrom x.ty op ≤ intMax x.ty := by
      unfold scanFrom
      rw [if_neg hop]
      split
      · exact ⟨hrange, le_rfl⟩
      · exact ⟨le_rfl, hrange⟩
    have hread {z : Int} (hz : intMin x.ty ≤ z ∧ z ≤ intMax x.ty) := intOf_wrapped x.ty (intTy_width _).1 hz.1 hz.2
    obtain ⟨hval, -⟩ := List.foldl_rel (l := l)
      (f := fun a j => (scanOp op (intOf x.ty a) (x.int j) % 2 ^ x.ty.width).toNat) (g := fun v j => scanOp op v (x.int j))
      (r := fun (a : Nat) (v : Int) => intOf x.ty a = v ∧ intMin x.ty ≤ v ∧ v ≤ intMax x.ty)
      ⟨hread hstart, hstart⟩ fun j _ a v hav => by
        obtain ⟨rfl, hv⟩ := hav
        have hnext : intMin x.ty ≤ scanOp op (intOf x.ty a) (x.int j) ∧ scanOp op (intOf x.ty a) (x.int j) ≤ intMax x.ty := by
          rcases hpick (intOf x.ty a) (x.int j) with h | h
          · rw [h]; exact hv
          · rw [h]; exact hb _
        exact ⟨hread hnext, hnext⟩
    rw [← hval]
    exact intBits_of_cast _ (by rw [cast_intOf, Int.cast_natCast])

end Sys2Proof.Machine
end

section
/-! The reductions, SCAN and CMPX at the head of the lane queue (O27). -/

namespace Sys2Proof.Machine

theorem packSign_zero (t : FloatFmt) : packSign t false 0 = 0 := by
  unfold packSign
  simp

/-! ## Reductions over integers (R187) -/

section
variable {mk : LaneFields → Instr} {shape : LaneFields → Shape} {body : Body} {v : Ctx → Int}

/-- An instruction that reduces by the integers of the tree where its kind is integer. -/
theorem retires_intReduce {g : IntTy → Int → Int → Int} {identity : IntTy → Int}
    (hrun : ∀ f s, exec (mk f) s = laneRun shape body f s) (hd : ∀ f, (shape f).dst = .push)
    (hb : ∀ x s, x.sh.kind = .int → body x s = intReduce g identity x s)
    (hv : ∀ x, intBits x.ty (x.treeInt g (identity x.ty)) = intBits x.ty (v x)) :
    Retires mk (fun _ => shape) (fun _ x => x.sh.kind = .int) fun x s t => x.reducedTo (intBits x.ty (v x)) 0 0 s t :=
  retires_reduced (ok := fun x => x.sh.kind = .int) hrun hd fun x s hk => by rw [hb x s hk, intReduce_eq, hv]

theorem bothReduce_int (int float : Body) (x : Ctx) (s : State) (hk : x.sh.kind = .int) :
    bothReduce int float x s = int x s := congrFun (if_pos hk) s

theorem bothReduce_float (int float : Body) (x : Ctx) (s : State) (hk : x.sh.kind = .float) :
    bothReduce int float x s = float x s := by
  unfold bothReduce
  rw [if_neg (by rw [hk]; decide)]

end

theorem retires_radd_int : Retires .radd (fun _ => shReduce 0x4C) (fun _ x => x.sh.kind = .int) fun x s t =>
    x.reducedTo (intBits x.ty (x.lanes.foldl (fun v i => v + x.int i) 0)) 0 0 s t :=
  retires_intReduce (fun _ _ => rfl) (fun _ => rfl) (bothReduce_int _ _) Ctx.treeInt_add

theorem retires_rmin_int : Retires .rmin (fun _ => shReduce 0x4D) (fun _ x => x.sh.kind = .int) fun x s t =>
    x.reducedTo (intBits x.ty (x.lanes.foldl (fun v i => min v (x.int i)) (intMax x.ty))) 0 0 s t :=
  retires_intReduce (fun _ _ => rfl) (fun _ => rfl) (bothReduce_int _ _) Ctx.treeInt_min

theorem retires_rmax_int : Retires .rmax (fun _ => shReduce 0x4E) (fun _ x => x.sh.kind = .int) fun x s t =>
    x.reducedTo (intBits x.ty (x.lanes.foldl (fun v i => max v (x.int i)) (intMin x.ty))) 0 0 s t :=
  retires_intReduce (fun _ _ => rfl) (fun _ => rfl) (bothReduce_int _ _) Ctx.treeInt_max

/-- The bits of -1 on the type are all set. -/
theorem testBit_allOnes (t : IntTy) {j : Nat} (hj : j < t.width) : (((-1 : Int) % 2 ^ t.width).toNat).testBit j = true := by
  have hneg : ((-1 : Int) % 2 ^ t.width).toNat = 2 ^ t.width - 1 := by
    have hpos := Nat.two_pow_pos t.width
    have hcast : ((2 ^ t.width : Nat) : Int) = 2 ^ t.width := by push_cast; rfl
    rw [← hcast, ← Int.add_emod_right, Int.emod_eq_of_lt (by omega) (by omega)]
    omega
  rw [hneg, Nat.testBit_two_pow_sub_one, decide_eq_true hj]

theorem retires_rand : Retires .rand (fun _ _ => shInt 0x4F 1 0) (fun _ x => x.sh.kind = .int) fun x s t =>
    x.reducedTo (intBits x.ty (bitsWhere (fun j => x.lanes.all fun i => (x.val 0 i).getLsbD j) x.ty.width)) 0 0 s t :=
  retires_intReduce (fun _ _ => rfl) (fun _ => rfl) (fun _ _ _ => rfl) fun x =>
    x.treeInt_bits (op := and) (e := true) Bool.and_assoc Bool.true_and Bool.and_true (fun a b j => Nat.testBit_and a b j)
      (fun _ hj => testBit_allOnes _ hj) fun _ => ((foldl_and _ _ _).trans (Bool.true_and _)).symm

theorem retires_rior : Retires .rior (fun _ _ => shInt 0x50 1 0) (fun _ x => x.sh.kind = .int) fun x s t =>
    x.reducedTo (intBits x.ty (bitsWhere (fun j => x.lanes.any fun i => (x.val 0 i).getLsbD j) x.ty.width)) 0 0 s t :=
  retires_intReduce (fun _ _ => rfl) (fun _ => rfl) (fun _ _ _ => rfl) fun x =>
    x.treeInt_bits (op := or) (e := false) Bool.or_assoc Bool.false_or Bool.or_false (fun a b j => Nat.testBit_or a b j)
      (fun _ _ => by rw [Int.zero_emod]; exact Nat.zero_testBit _) fun _ => ((foldl_or _ _ _).trans (Bool.false_or _)).symm

theorem retires_rxor : Retires .rxor (fun _ _ => shInt 0x51 1 0) (fun _ x => x.sh.kind = .int) fun x s t =>
    x.reducedTo (intBits x.ty
      (bitsWhere (fun j => (x.lanes.filter fun i => (x.val 0 i).getLsbD j).length % 2 == 1) x.ty.width)) 0 0 s t :=
  retires_intReduce (fun _ _ => rfl) (fun _ => rfl) (fun _ _ _ => rfl) fun x =>
    x.treeInt_bits (op := xor) (e := false) Bool.xor_assoc Bool.false_xor Bool.xor_false (fun a b j => Nat.testBit_xor a b j)
      (fun _ _ => by rw [Int.zero_emod]; exact Nat.zero_testBit _) fun _ =>
      ((foldl_xor _ _ _).trans (Bool.false_xor _)).symm

theorem retires_rcnt : Retires .rcnt (fun _ _ => shInt 0x52 1 0) (fun _ _ => True) fun x s t =>
    x.reducedTo (.ofNat 64 (x.lanes.filter fun i => (List.range x.ty.width).any (x.val 0 i).getLsbD).length) 0 0 s t :=
  retires_reduced (ok := fun _ => True) (fun _ _ => rfl) (fun _ => rfl) fun x s _ => by
    simp only [mod_two_pow_ne_zero]

/-! ## Reductions over floating values and RARG (R91, R187) -/

/-- The floating tree over the executing lanes, the draws from the lowest. -/
def Ctx.treeFloat (x : Ctx) (g : FloatFmt → Rnd → Nat → Nat → Nat × Flags) : Option Nat × TreeAcc :=
  tree (fun n a b => g (floatFmt x.f.fmt.toNat) (x.rounding (x.lanes.headD 0) n) a b)
    ((x.inputs (fmtWidth x.f.fmt.toNat)).map (Option.map (cleanBits (floatFmt x.f.fmt.toNat))))

theorem Ctx.treeRnd_eq (x : Ctx) (n : Nat) : x.treeRnd n = x.rounding (x.lanes.headD 0) n := by
  unfold Ctx.treeRnd
  cases x.lanes <;> rfl

theorem floatReduce_eq (g : FloatFmt → Rnd → Nat → Nat → Nat × Flags) (identity : FloatFmt → Nat) (rounds : Bool) (x : Ctx)
    (s : State) :
    floatReduce g identity rounds x s =
      x.reduced (.ofNat 64 ((x.treeFloat g).1.getD (identity (floatFmt x.f.fmt.toNat)))) (x.treeFloat g).2.flags
        (if rounds ∧ x.mode = 5 then (x.treeFloat g).2.steps else 0) s := by
  unfold floatReduce Ctx.treeFloat
  simp only [Ctx.treeRnd_eq, Bool.and_eq_true, beq_iff_eq]
  cases (tree _ ((x.inputs (fmtWidth x.f.fmt.toNat)).map (Option.map (cleanBits (floatFmt x.f.fmt.toNat))))).1 <;> rfl

theorem retires_floatReduce {mk : LaneFields → Instr} {shape : LaneFields → Shape} {int : Body}
    {g : FloatFmt → Rnd → Nat → Nat → Nat × Flags} {identity : FloatFmt → Nat} {rounds : Bool}
    (hrun : ∀ f s, exec (mk f) s = laneRun shape (bothReduce int (floatReduce g identity rounds)) f s)
    (hd : ∀ f, (shape f).dst = .push) :
    Retires mk (fun _ => shape) (fun _ x => x.sh.kind = .float) fun x s t =>
      x.reducedTo (.ofNat 64 ((x.treeFloat g).1.getD (identity (floatFmt x.f.fmt.toNat)))) (x.treeFloat g).2.flags
        (if rounds ∧ x.mode = 5 then (x.treeFloat g).2.steps else 0) s t :=
  retires_reduced (ok := fun x => x.sh.kind = .float) hrun hd fun x s hk =>
    (bothReduce_float _ _ x s hk).trans (floatReduce_eq ..)

theorem execRadd_float (f : LaneFields) (s : State) : exec (.radd f) s = laneRun (shReduce 0x4C)
    (bothReduce (intReduce (fun _ a b => a + b) fun _ => 0) (floatReduce fAdd (fun _ => 0) true)) f s := by
  rw [← funext packSign_zero]
  rfl

theorem execRmin_float (f : LaneFields) (s : State) : exec (.rmin f) s = laneRun (shReduce 0x4D)
    (bothReduce (intReduce (fun _ a b => min a b) intMax)
      (floatReduce (fMinMax false) (fun t => infBits t false) false)) f s := rfl

theorem execRmax_float (f : LaneFields) (s : State) : exec (.rmax f) s = laneRun (shReduce 0x4E)
    (bothReduce (intReduce (fun _ a b => max a b) intMin)
      (floatReduce (fMinMax true) (fun t => infBits t true) false)) f s := rfl

/-- The lanes that RARG looks at: a NaN is ignored. -/
def Ctx.numbers (x : Ctx) : List Nat := x.lanes.filter fun i =>
  x.sh.kind = .int || !(decodeFloat (floatFmt x.f.fmt.toNat) (x.val 0 i).toNat).isNan

theorem retires_rarg : Retires .rarg (fun _ f => { shBoth 0x53 1 0 f with imm := some 1 }) (fun _ _ => True) fun x s t =>
    x.reducedTo (match x.numbers.find? fun i => x.numbers.all fun j => !x.argBefore j i with
      | some i => .ofNat 64 i | none => BitVec.allOnes 64) 0 0 s t :=
  retires_reduced (ok := fun _ => True) (fun _ _ => rfl) (fun _ => rfl) fun x s _ => by
    rw [← x.best_eq_find]
    rfl

/-! ## SCAN (R188) -/

/-- The shape of SCAN: RND is read also where no step rounds (log entry 22). -/
def shScan (f : LaneFields) : Shape := { shBoth 0x77 1 7 f with
  rnd := some (f.md.getLsbD 7 || stoOk f.fmt), bad := if f.md.toNat % 4 = 3 then some (9, f.md.toNat) else none }

theorem retires_scan_int : Retires .scan (fun _ => shScan) (fun _ x => x.sh.kind = .int) fun x s t =>
    x.pushedThen (fun i => ⟨intBits x.ty ((x.lanes.filter (scanSees (x.f.md.getLsbD 2) i)).foldl
        (fun v j => scanOp (x.f.md.toNat % 4) v (x.int j)) (scanFrom x.ty (x.f.md.toNat % 4))),
      x.lanes.any fun j => decide (j ≤ i) && x.poison 0 j, 0⟩) (fun _ l => l) s t := by
  refine retires_pushedThen (ok := fun x => x.sh.kind = .int) (after := fun _ c => c) (fun _ _ => rfl) (fun _ => rfl)
    (fun x s hk => ?_) (fun _ _ _ => rfl) fun _ _ _ _ _ => rfl
  simp only [hk, if_true, decide_true, Bool.not_true, Bool.false_and, Bool.false_eq_true, if_false]
  refine congrArg (fun p => Act.ok (s.updCrew p)) (Ctx.put_congr fun i hi => ?_)
  refine (scanGo_get x (fun a v => (scanOp (x.f.md.toNat % 4) (intOf x.ty a) (intOf x.ty v.toNat) % 2 ^ x.ty.width).toNat)
    _ (fun a => intBits x.ty a) x.lanes_pairwise _ _ _ hi).trans ?_
  rw [Bool.false_or]
  exact congrArg (LaneRes.mk · _ _) (x.scan_bits _ _)

/-- What a scan of floating values gives: a step takes the draw of the lane whose value it forms (log entry 23). -/
def Ctx.scanFloat (x : Ctx) : List (Nat × LaneRes) :=
  let op := x.f.md.toNat % 4
  let t := floatFmt x.f.fmt.toNat
  let g (r : Rnd) (a b : Nat) : Nat × Flags := if op = 0 then fAdd t r a b else fMinMax (op == 2) t r a b
  scanGo x (fun lane n a v => g (x.rounding lane n) a v.toNat) (x.f.md.getLsbD 2) (fun a => .ofNat 64 a) x.lanes
    (if op = 0 then 0 else infBits t (op == 2)) false false

theorem retires_scan_float : Retires .scan (fun _ => shScan) (fun _ x => x.sh.kind = .float) fun x s t =>
    x.pushedThen (mapGet ⟨0, false, 0⟩ x.scanFloat)
      (fun i l => if x.f.md.toNat % 4 = 0 ∧ x.mode = 5 ∧ x.exec.getLsbD i then l.drew (scanDraws x (x.f.md.getLsbD 2) i) else l)
      s t := by
  refine retires_pushedThen (ok := fun x => x.sh.kind = .float) (after := fun x c =>
    if x.f.md.toNat % 4 = 0 ∧ x.mode = 5 then x.mapExec (fun i l => l.drew (scanDraws x (x.f.md.getLsbD 2) i)) c else c)
    (fun _ _ => rfl) (fun _ => rfl) (fun x s hk => ?_) (fun x c _ => ?_) fun x c i _ hi => ?_
  · have hint : (x.sh.kind = .int) = False := by rw [hk]; simp
    simp only [hint, if_false, decide_false, Bool.not_false, Bool.true_and, packSign_zero, Bool.and_eq_true, beq_iff_eq]
    rfl
  · split
    · exact x.mapExec_eq _ c
    · rfl
  · by_cases hdraw : x.f.md.toNat % 4 = 0 ∧ x.mode = 5
    · rw [if_pos hdraw, Crew.lane_mapExec x _ c hi]
      simp only [hdraw.1, hdraw.2, true_and]
    · rw [if_neg hdraw, if_neg fun h => hdraw ⟨h.1, h.2.1⟩]

/-! ## CMPX (R189) -/

/-- The key by which CMPX orders lanes: the integer of the type, or the totalOrder key. -/
def Ctx.cmpxKey (x : Ctx) (i : Nat) : Int :=
  if x.sh.kind = .int then x.int i else totalKey (floatFmt x.f.fmt.toNat) (x.val 0 i).toNat

/-- The value of a lane as CMPX gives it on. -/
def Ctx.cmpxOut (x : Ctx) (i : Nat) : DWord :=
  if x.sh.kind = .int then intBits x.ty (x.int i)
  else .ofNat 64 (cleanBits (floatFmt x.f.fmt.toNat) ((x.val 0 i).toNat % 2 ^ fmtWidth x.f.fmt.toNat))

/-- Whether lane i keeps the lesser of its value and its partner's. -/
def Ctx.cmpxLeast (x : Ctx) (i : Nat) : Bool :=
  (Nat.land i (x.f.imm.toNat % 128) == 0) == (Nat.land i (x.f.imm.toNat / 256 % 128) == 0)

/-- What CMPX gives lane i, whose partner is j. -/
def Ctx.cmpxRes (x : Ctx) (i j : Nat) : LaneRes :=
  if 95 < j ∨ x.exec.getLsbD j = false then ⟨x.cmpxOut i, x.poison 0 i, 0⟩
  else ⟨x.cmpxOut (if x.cmpxLeast i then (if x.cmpxKey j < x.cmpxKey i then j else i)
      else (if x.cmpxKey i < x.cmpxKey j then j else i)), x.poison 0 i || x.poison 0 j, 0⟩

theorem pushes_cmpx : Pushes .cmpx (fun f => { shBoth 0x76 1 0 f with
      imm := some 0x7F7F
      bad := if isPow7 (f.imm.toNat % 128) && (f.imm.toNat / 256 % 128 == 0 || isPow7 (f.imm.toNat / 256 % 128))
        then none else some (10, f.imm.toNat) })
    fun x i => x.cmpxRes i (Nat.xor i (x.f.imm.toNat % 128)) := by
  refine pushes_of_finish (fun _ _ => rfl) (fun _ => rfl) fun x s hx => (finish_push hx _ s).trans ?_
  refine congrArg (fun g => Act.ok (s.updCrew (x.put g))) (funext fun i => ?_)
  show _ = x.cmpxRes i (i ^^^ x.f.imm.toNat % 128)
  generalize hj : i ^^^ x.f.imm.toNat % 128 = j
  unfold Ctx.cmpxRes
  by_cases halone : 95 < j ∨ x.exec.getLsbD j = false
  · rw [if_pos halone]
    exact if_pos (by simpa using halone)
  · rw [if_neg halone]
    refine (if_neg (by simpa using halone)).trans (congrArg (fun k => LaneRes.mk (x.cmpxOut k) _ _) ?_)
    show (if (if x.cmpxLeast i then decide (x.cmpxKey j < x.cmpxKey i) else decide (x.cmpxKey i < x.cmpxKey j)) then j else i) = _
    cases x.cmpxLeast i
    · simp only [Bool.false_eq_true, if_false, decide_eq_true_eq]
    · simp only [if_true, decide_eq_true_eq]

/-- Settles O27: the integer reductions by what an associative operation makes of the tree, RARG by the order of values, and
SCAN by its steps. -/
theorem laneReductions : Obligations.LaneReductions := by
  unfold Obligations.LaneReductions
  intro ty fmt int bit width gives float
  refine ⟨⟨retires_radd_int, retires_rmin_int, retires_rmax_int, retires_rand, retires_rior, retires_rxor⟩, ⟨?_, ?_, ?_⟩,
    retires_rcnt, retires_rarg, ⟨retires_scan_int, retires_scan_float⟩, pushes_cmpx⟩
  · have hradd := retires_floatReduce (rounds := decide True) execRadd_float fun _ => rfl
    exact hradd
  · have hrmin := retires_floatReduce (rounds := decide False) execRmin_float fun _ => rfl
    exact hrmin
  · have hrmax := retires_floatReduce (rounds := decide False) execRmax_float fun _ => rfl
    exact hrmax

end Sys2Proof.Machine
end

section
/-! Lane words and their instructions (O56): fields of appended words, and the tables of `decodeLane` and `laneForm` against
each other. -/

namespace Sys2Proof

/-! ## Fields of appended words

`simp` does not see the literal width of a word as the sum of its parts' widths. These rules therefore take any append of
the widths and let `simp` find that it is the usual one. -/

section
variable {n v w s l k : Nat} {app : HAppend (BitVec v) (BitVec w) (BitVec n)} {x : BitVec v} {y : BitVec w}

theorem extractLsb'_append_high (hn : n = v + w) (happ : HEq app (BitVec.instHAppendHAddNat (w := v) (v := w)))
    (h : w ≤ s) : BitVec.extractLsb' s l (x ++ y) = BitVec.extractLsb' (s - w) l x := by
  subst hn
  cases happ
  exact BitVec.extractLsb'_append_eq_of_le h

theorem extractLsb'_append_low (hn : n = v + w) (happ : HEq app (BitVec.instHAppendHAddNat (w := v) (v := w)))
    (h : s + l ≤ w) : BitVec.extractLsb' s l (x ++ y) = BitVec.extractLsb' s l y := by
  subst hn
  cases happ
  exact BitVec.extractLsb'_append_eq_of_add_le h

theorem getElem_append_high {hk : k < n} (hn : n = v + w) (happ : HEq app (BitVec.instHAppendHAddNat (w := v) (v := w)))
    (h : w ≤ k) : (x ++ y)[k] = x.getLsbD (k - w) := by
  subst hn
  cases happ
  rw [BitVec.getElem_append, dif_neg (Nat.not_lt.2 h), BitVec.getLsbD_eq_getElem]

theorem getElem_append_low {hk : k < n} (hn : n = v + w) (happ : HEq app (BitVec.instHAppendHAddNat (w := v) (v := w)))
    (h : k < w) : (x ++ y)[k] = y[k] := by
  subst hn
  cases happ
  rw [BitVec.getElem_append, dif_pos h]

theorem toNat_append_eq (hn : n = v + w) (happ : HEq app (BitVec.instHAppendHAddNat (w := v) (v := w))) :
    (x ++ y).toNat = x.toNat * 2 ^ w + y.toNat := by
  subst hn
  cases happ
  rw [BitVec.toNat_append, ← Nat.shiftLeft_add_eq_or_of_lt y.isLt, Nat.shiftLeft_eq]

end

/-! ## The fields of a lane word (R99) -/

theorem laneOpcode_laneWord (op : BitVec 8) (f : LaneFields) : laneOpcode (laneWord op f) = op := by
  simp [laneOpcode, laneWord, extractLsb'_append_high]

theorem laneFields_laneWord (op : BitVec 8) (f : LaneFields) : laneFields (laneWord op f) = f := by
  simp [laneFields, laneWord, extractLsb'_append_high, extractLsb'_append_low]

/-- A lane word is its opcode and its fields: every bit lies in one of them. -/
theorem laneWord_fields (w : BitVec 96) : laneWord (laneOpcode w) (laneFields w) = w := by
  simp only [laneFields, laneWord, laneOpcode]
  repeat rw [BitVec.extractLsb'_append_extractLsb'_eq_extractLsb' (by decide)]
  exact BitVec.extractLsb'_eq_self

/-! ## The opcode table, both ways (R111, R112) -/

/-- What an arm of `decodeLane` gives stands in the table of `laneForm` under the arm's opcode. -/
theorem laneForm_of_arm {i j : Instr} {op : BitVec 8} {f : LaneFields} {n : Nat}
    (harm : (Except.ok j : Except Reject Instr) = .ok i) (hop : op.toNat = n) (hwf : wellFormed j)
    (hform : laneForm j = some (BitVec.ofNat 8 n, f)) (hn : n ≤ 0x83) :
    (wellFormed i ∧ laneForm i = some (op, f)) ∧ op.toNat ≤ 0x83 := by
  cases harm
  rw [hform, ← hop, BitVec.ofNat_toNat, BitVec.setWidth_eq]
  exact ⟨⟨hwf, rfl⟩, hop ▸ hn⟩

/-- The arms of `decodeLane`. In those of LDA and STA, 0x70 and 0x71, the form bit says which of two instructions the word
stands for. -/
theorem laneForm_of_decodeLane {i : Instr} {w : BitVec 96} (h : decodeLane w = .ok i) :
    (wellFormed i ∧ laneForm i = some (laneOpcode w, laneFields w)) ∧ (laneOpcode w).toNat ≤ 0x83 := by
  unfold decodeLane at h
  generalize laneFields w = f at *
  split at h
  case h_133 => cases h
  case h_113 hop | h_114 hop =>
    dsimp only at h
    split at h
    case isTrue hst => exact laneForm_of_arm h hop hst rfl (by decide)
    case isFalse hst =>
      exact laneForm_of_arm h hop (beq_iff_eq.2 (Bool.eq_false_of_not_eq_true hst)) rfl (by decide)
  all_goals
    rename_i hop
    exact laneForm_of_arm h hop rfl rfl (by decide)

/-- The rows of `laneForm`. LDA, LDA.status, STA and STA.status, its 113th to 116th, are well-formed by the form bit. -/
theorem decodeLane_of_laneForm {i : Instr} {w : BitVec 96} (hwf : wellFormed i)
    (h : laneForm i = some (laneOpcode w, laneFields w)) : decodeLane w = .ok i := by
  unfold decodeLane
  generalize laneOpcode w = op at *
  generalize laneFields w = f at *
  unfold laneForm at h
  split at h
  case h_135 => cases h
  all_goals cases h
  case h_113 | h_115 =>
    have hplain : (statusForm f == false) = true := hwf
    exact congrArg Except.ok (if_neg (by simpa using hplain))
  case h_114 | h_116 => exact congrArg Except.ok (if_pos hwf)
  all_goals rfl

theorem decodeLane_eq_ok_iff (i : Instr) (w : BitVec 96) :
    decodeLane w = .ok i ↔ wellFormed i ∧ encodeLane i = some w := by
  constructor
  · intro h
    obtain ⟨⟨hwf, hform⟩, -⟩ := laneForm_of_decodeLane h
    exact ⟨hwf, by rw [encodeLane, hform, Option.map_some, laneWord_fields]⟩
  · rintro ⟨hwf, henc⟩
    obtain ⟨⟨op, f⟩, hform, rfl⟩ := Option.map_eq_some_iff.1 henc
    exact decodeLane_of_laneForm hwf (by rw [laneOpcode_laneWord, laneFields_laneWord, hform])

theorem decodeLane_of_laneOpcode_le {w : BitVec 96} (h : (laneOpcode w).toNat ≤ 0x83) : ∃ i, decodeLane w = .ok i := by
  unfold decodeLane
  generalize (laneOpcode w).toNat = n at *
  interval_cases n <;> exact ⟨_, rfl⟩

/-- Settles O56: a lane word is its opcode and its fields, and the two opcode tables agree. -/
theorem laneWordsRoundTrip : Obligations.LaneWordsRoundTrip := by
  unfold Obligations.LaneWordsRoundTrip
  exact ⟨fun i w hwf henc => (decodeLane_eq_ok_iff i w).2 ⟨hwf, henc⟩, fun i w => (decodeLane_eq_ok_iff i w).1,
    fun w => ⟨fun ⟨_, h⟩ => (laneForm_of_decodeLane h).2, decodeLane_of_laneOpcode_le⟩⟩

end Sys2Proof
end

section
/-! Scalar words and their instructions (O55), and the words written out of O60. -/

namespace Sys2Proof

/-! ## From an instruction to its word and back

The fields of a word are read off its parts. What stays for `omega` is that an FN made of fields under zero bits is below the
bound that the decoder asks of it (R94). -/

/-- The word of the instruction, where it has one, decodes to it. -/
def DecodesBack (i : Instr) : Prop := ∀ w, encodeScalar i = some w → decodeScalar w = .ok i

theorem DecodesBack.of_word {i : Instr} {x : Word} (henc : encodeScalar i = some x) (hdec : decodeScalar x = .ok i) :
    DecodesBack i := by
  rintro w hw
  obtain rfl := Option.some.inj (henc.symm.trans hw)
  exact hdec

/-- Control of flow (R134 to R139, R208). -/
theorem decodesBack_flow :
    DecodesBack .nop ∧ (∀ k n, DecodesBack (.nopHint k n)) ∧ (∀ o, DecodesBack (.br o)) ∧
      (∀ c p o, DecodesBack (.brc c p o)) ∧ (∀ c a o, DecodesBack (.bspl c a o)) ∧ DecodesBack .join ∧
      (∀ o, DecodesBack (.call o)) ∧ (∀ a, DecodesBack (.ret a)) ∧ DecodesBack .yield ∧
      (∀ a q, DecodesBack (.yieldSeq a q)) ∧ DecodesBack .yieldJn ∧ (∀ a, DecodesBack (.yieldTime a)) ∧
      (∀ a, DecodesBack (.exit a)) ∧ (∀ i, DecodesBack (.trap i)) ∧ DecodesBack .eret := by
  and_intros <;> intros <;> refine .of_word rfl ?_ <;>
    simp [decodeScalar, need, extractLsb'_append_high, extractLsb'_append_low, getElem_append_high]

/-- Arithmetic, compares and immediates (R141 to R143). -/
theorem decodesBack_arith :
    (∀ d a b, DecodesBack (.add d a b)) ∧ (∀ d a b, DecodesBack (.sub d a b)) ∧ (∀ d a b, DecodesBack (.mul d a b)) ∧
      (∀ d a b u, DecodesBack (.mulh d a b u)) ∧ (∀ d a b u, DecodesBack (.div d a b u)) ∧
      (∀ d a b, DecodesBack (.andS d a b)) ∧ (∀ d a b, DecodesBack (.orS d a b)) ∧ (∀ d a b, DecodesBack (.xorS d a b)) ∧
      (∀ d a b n u c, DecodesBack (.cmp d a b n u c)) ∧ (∀ d a b n, DecodesBack (.sel d a b n)) ∧
      (∀ d a i, DecodesBack (.addi d a i)) ∧ (∀ d i, DecodesBack (.li d i)) ∧ (∀ d i, DecodesBack (.lui d i)) := by
  and_intros <;> intros <;> refine .of_word rfl ?_ <;>
    simp [decodeScalar, need, extractLsb'_append_high, extractLsb'_append_low, toNat_append_eq]
  all_goals omega

/-- Shifts and fields (R144, R145). -/
theorem decodesBack_shift :
    (∀ d a b, DecodesBack (.shl d a b)) ∧ (∀ d a n, DecodesBack (.shlImm d a n)) ∧ (∀ d a b, DecodesBack (.shr d a b)) ∧
      (∀ d a n, DecodesBack (.shrImm d a n)) ∧ (∀ d a b, DecodesBack (.sra d a b)) ∧
      (∀ d a n, DecodesBack (.sraImm d a n)) ∧ (∀ d a b, DecodesBack (.rol d a b)) ∧
      (∀ d a n, DecodesBack (.rolImm d a n)) ∧ (∀ d a b, DecodesBack (.ror d a b)) ∧
      (∀ d a n, DecodesBack (.rorImm d a n)) ∧ (∀ d a b s, DecodesBack (.bfx d a b s)) ∧
      (∀ d a b, DecodesBack (.bfi d a b)) ∧ (∀ d a, DecodesBack (.clz d a)) ∧ (∀ d a, DecodesBack (.popc d a)) ∧
      (∀ d a, DecodesBack (.brev d a)) := by
  and_intros <;> intros <;> refine .of_word rfl ?_ <;>
    simp [decodeScalar, need, extractLsb'_append_high, extractLsb'_append_low, getElem_append_low, toNat_append_eq]
  all_goals omega

/-- Memory, the lane stream, masks and formats (R146 to R153). -/
theorem decodesBack_move :
    (∀ d a i, DecodesBack (.sld d a i)) ∧ (∀ d a i, DecodesBack (.sst d a i)) ∧
      (∀ d a b s w o, DecodesBack (.satm d a b s w o)) ∧ (∀ a n, DecodesBack (.lrun a n)) ∧ (∀ o, DecodesBack (.ljmp o)) ∧
      (∀ d b, DecodesBack (.movmRead d b)) ∧ (∀ a b, DecodesBack (.movmWrite a b)) ∧
      (∀ d n b, DecodesBack (.movmPred d n b)) ∧ (∀ d a, DecodesBack (.fmts d a)) ∧ (∀ d, DecodesBack (.fmtsRead d)) ∧
      (∀ d a, DecodesBack (.rdrd d a)) ∧ (∀ m, DecodesBack (.fxck m)) := by
  and_intros <;> intros <;> refine .of_word rfl ?_ <;>
    simp [decodeScalar, need, extractLsb'_append_high, extractLsb'_append_low, toNat_append_eq]
  all_goals omega

/-- Synchronisation (R28 to R33, R140, R154). FENCE with scope 8 would be FENCE.flush, and no scope of three bits is. -/
theorem decodesBack_sync :
    (∀ n, DecodesBack (.bar n)) ∧ (∀ a, DecodesBack (.acqX a)) ∧ (∀ a, DecodesBack (.acqS a)) ∧
      (∀ a b, DecodesBack (.acqW a b)) ∧ (∀ a, DecodesBack (.rel a)) ∧ (∀ s, DecodesBack (.fence s)) ∧
      DecodesBack .fenceFlush ∧ (∀ m, DecodesBack (.qfnc m)) ∧ DecodesBack .xfnc ∧ (∀ a q, DecodesBack (.wseq a q)) := by
  have hfence (s : BitVec 3) : BitVec.extractLsb' 0 11 (0x13800000#29 ++ s) ≠ 8#11 := fun h => by
    have h8 := congrArg BitVec.toNat h
    simp [toNat_append_eq] at h8
    omega
  and_intros <;> intros <;> refine .of_word rfl ?_ <;>
    simp [decodeScalar, need, extractLsb'_append_high, extractLsb'_append_low, toNat_append_eq, hfence]
  all_goals omega

/-- Entries of the engines and graphs (R223 to R229, R247, R279 to R281, R309 to R312). -/
theorem decodesBack_engine :
    (∀ d a b q e s, DecodesBack (.cpy d a b q e s)) ∧ (∀ d a q, DecodesBack (.tcpy d a q)) ∧
      (∀ d a q, DecodesBack (.dcpy d a q)) ∧ (∀ d a, DecodesBack (.ttsk d a)) ∧ (∀ d a, DecodesBack (.cainf d a)) ∧
      (∀ d a, DecodesBack (.cainfLive d a)) ∧ (∀ d a, DecodesBack (.catrn d a)) ∧
      (∀ d a p, DecodesBack (.camovLoad d a p)) ∧ (∀ d a p, DecodesBack (.camovStore d a p)) ∧
      (∀ d a, DecodesBack (.glch d a)) ∧ (∀ d a, DecodesBack (.spwn d a)) ∧ (∀ d, DecodesBack (.jnwt d)) ∧
      (∀ d a, DecodesBack (.gctlStatus d a)) ∧ (∀ d a, DecodesBack (.gctlLeft d a)) ∧
      (∀ d a b, DecodesBack (.gctlNode d a b)) ∧ (∀ d a, DecodesBack (.gctlFree d a)) ∧
      (∀ d a, DecodesBack (.gctlWait d a)) := by
  and_intros <;> intros <;> refine .of_word rfl ?_ <;>
    simp [decodeScalar, need, extractLsb'_append_high, extractLsb'_append_low, getElem_append_high, getElem_append_low]

/-- The fabric, the links and the heat (R344, R356 to R360, R375, R376). -/
theorem decodesBack_fabric :
    (∀ d a w, DecodesBack (.xmemLd d a w)) ∧ (∀ a b w, DecodesBack (.xmemSt a b w)) ∧
      (∀ d a b s w o, DecodesBack (.xatm d a b s w o)) ∧ (∀ d a, DecodesBack (.xput d a)) ∧
      (∀ d a n k, DecodesBack (.coll d a n k)) ∧ (∀ d a, DecodesBack (.lnkStat d a)) ∧ (∀ d a, DecodesBack (.lnkSq d a)) ∧
      (∀ d a, DecodesBack (.lnkRls d a)) ∧ (∀ d a b, DecodesBack (.lnkSlot d a b)) ∧
      (∀ d a b, DecodesBack (.lnkWait d a b)) ∧ (∀ d s, DecodesBack (.heat d s)) ∧
      (∀ d a, DecodesBack (.heatCkpt d a)) := by
  and_intros <;> intros <;> refine .of_word rfl ?_ <;>
    simp [decodeScalar, need, extractLsb'_append_high, extractLsb'_append_low, getElem_append_low, toNat_append_eq]
  all_goals omega

/-- The CSR words with a constructor of their own, but for the tails (R155, R207). -/
theorem decodesBack_csr :
    (∀ d, DecodesBack (.fsumRead d)) ∧ (∀ d a, DecodesBack (.fsumWrite d a)) ∧ (∀ d a, DecodesBack (.sppWrite d a)) ∧
      (∀ d a, DecodesBack (.asyncfWrite d a)) ∧ (∀ d a, DecodesBack (.trapspcWrite d a)) ∧
      (∀ d a, DecodesBack (.traplpcWrite d a)) := by
  and_intros <;> intros <;> refine .of_word rfl ?_ <;>
    simp [decodeScalar, need, extractLsb'_append_high, extractLsb'_append_low]

/-- The tails (R220). Their number is the lower end of the CSR number. -/
theorem decodesBack_qtailWrite (n : BitVec 2) (d a : RegNo) : DecodesBack (.qtailWrite n d a) := by
  have hword : (0x3C#6 ++ d ++ a ++ 0x2010#14 ++ n : Word) = 0x3C#6 ++ d ++ a ++ (0x2010#14 ++ n) := BitVec.append_assoc
  refine .of_word (congrArg some hword) ?_
  have hn : n = 0 ∨ n = 1 ∨ n = 2 ∨ n = 3 := by
    clear hword
    revert n
    decide
  obtain rfl | rfl | rfl | rfl := hn
  all_goals simp [decodeScalar, need, extractLsb'_append_high, extractLsb'_append_low]

/-- A plain read does not name FSUM (R155). -/
theorem decodesBack_csrRd {d : RegNo} {n : BitVec 12} (hn : csrReadPlain n) : DecodesBack (.csrRd d n) := by
  have hfsum : n ≠ 0x020#12 := by simpa [csrReadPlain] using hn
  refine .of_word rfl ?_
  simp [decodeScalar, need, extractLsb'_append_high, extractLsb'_append_low, getElem_append_high, getElem_append_low, hfsum]

/-- A plain write does not name a CSR whose write has a constructor of its own (R155, R207, R220). -/
theorem decodesBack_csrWr {d a : RegNo} {n : BitVec 12} (hn : csrWritePlain n) : DecodesBack (.csrWr d a n) := by
  simp only [csrWritePlain, Bool.and_eq_true, bne_iff_ne, ne_eq, ← BitVec.toNat_inj, BitVec.reduceToNat] at hn
  refine .of_word rfl ?_
  simp [decodeScalar, need, extractLsb'_append_high, extractLsb'_append_low, getElem_append_high, getElem_append_low]
  split
  case h_10 => rfl
  all_goals omega

/-- The constructors, a group at a time; those after the scalar words have no scalar word. -/
theorem decodesBack_of_wellFormed {i : Instr} (hwf : wellFormed i) : DecodesBack i := by
  cases i
  case csrRd => exact decodesBack_csrRd hwf
  case csrWr => exact decodesBack_csrWr hwf
  case qtailWrite n d a => exact decodesBack_qtailWrite n d a
  case nop | nopHint | br | brc | bspl | join | call | ret | yield | yieldSeq | yieldJn | yieldTime | exit | trap | eret =>
    simp only [decodesBack_flow]
  case add | sub | mul | mulh | div | andS | orS | xorS | cmp | sel | addi | li | lui => simp only [decodesBack_arith]
  case shl | shlImm | shr | shrImm | sra | sraImm | rol | rolImm | ror | rorImm | bfx | bfi | clz | popc | brev =>
    simp only [decodesBack_shift]
  case sld | sst | satm | lrun | ljmp | movmRead | movmWrite | movmPred | fmts | fmtsRead | rdrd | fxck =>
    simp only [decodesBack_move]
  case bar | acqX | acqS | acqW | rel | fence | fenceFlush | qfnc | xfnc | wseq => simp only [decodesBack_sync]
  case cpy | tcpy | dcpy | ttsk | cainf | cainfLive | catrn | camovLoad | camovStore | glch | spwn | jnwt | gctlStatus |
      gctlLeft | gctlNode | gctlFree | gctlWait =>
    simp only [decodesBack_engine]
  case xmemLd | xmemSt | xatm | xput | coll | lnkStat | lnkSq | lnkRls | lnkSlot | lnkWait | heat | heatCkpt =>
    simp only [decodesBack_fabric]
  case fsumRead | fsumWrite | sppWrite | asyncfWrite | trapspcWrite | traplpcWrite => simp only [decodesBack_csr]
  all_goals exact fun w h => nomatch h

/-! ## From a word to its instruction and back

In each arm of `decodeScalar` the opcode, the checks passed and the fields taken determine every bit of the word: as numbers,
the word is the sum of its fields. The arms are taken by the format of R93 that they read. -/

theorem need_eq_ok {ok : Bool} {field value : Nat} {k : Except Reject Instr} {i : Instr} :
    need ok field value k = .ok i ↔ ok = true ∧ k = .ok i := by
  cases ok <;> simp [need]

/-- The word is the encoding of the well-formed instruction that it decodes to. -/
def EncodesBack (w : Word) : Prop := ∀ i, decodeScalar w = .ok i → wellFormed i ∧ encodeScalar i = some w

theorem encodesBack_arm {i : Instr} {x w : Word} (hwf : wellFormed i) (henc : encodeScalar i = some x)
    (hx : x.toNat = w.toNat) : wellFormed i ∧ encodeScalar i = some w :=
  ⟨hwf, henc.trans (congrArg some (BitVec.eq_of_toNat_eq hx))⟩

/-- The opcodes whose words hold an offset, an immediate or a mask of 16 bits and more, but for CSR's 0x3C. -/
def immediateOpcodes : List Nat := [0x02, 0x03, 0x04, 0x06, 0x0A, 0x17, 0x18, 0x19, 0x1B, 0x1C, 0x1D, 0x1F, 0x20]

theorem encodesBack_immediate {w : Word} (hop : (w.extractLsb' 26 6).toNat ∈ immediateOpcodes) : EncodesBack w := by
  simp only [immediateOpcodes, List.mem_cons, List.not_mem_nil, or_false] at hop
  intro i
  rcases hop with hop | hop | hop | hop | hop | hop | hop | hop | hop | hop | hop | hop | hop
  all_goals
    simp only [decodeScalar, hop, need_eq_ok, beq_iff_eq, and_imp, Except.ok.injEq]
    intros
    subst_vars
    refine encodesBack_arm rfl rfl ?_
    simp only [toNat_append_eq, BitVec.extractLsb'_toNat, Nat.shiftRight_eq_div_pow, ← BitVec.toNat_inj, HEq.rfl, Nat.reduceAdd,
      Nat.reducePow, BitVec.reduceToNat, BitVec.ofNat_eq_ofNat] at *
    omega

/-- The words of CSR: of a write, [15] is 1 (R155). -/
theorem encodesBack_csr {d a : BitVec 5} {write : BitVec 1} {zero : BitVec 3} {n : BitVec 12} :
    EncodesBack (0x3C#6 ++ d ++ a ++ write ++ zero ++ n) := by
  intro i
  obtain rfl | rfl : write = 0 ∨ write = 1 := by
    revert write
    decide
  all_goals
    simp [decodeScalar, need_eq_ok, extractLsb'_append_high, extractLsb'_append_low, getElem_append_high, getElem_append_low]
  case inl =>
    rintro rfl rfl rfl
    split
    case isTrue h =>
      subst h
      exact encodesBack_arm rfl rfl (by simp [toNat_append_eq]; omega)
    case isFalse h => exact encodesBack_arm (bne_iff_ne.2 h) rfl (by simp [toNat_append_eq]; omega)
  case inr =>
    rintro rfl rfl
    split
    case h_10 =>
      refine encodesBack_arm ?_ rfl (by simp [toNat_append_eq]; omega)
      show csrWritePlain n
      simp only [csrWritePlain, Bool.and_eq_true, bne_iff_ne, ne_eq, ← BitVec.toNat_inj, BitVec.reduceToNat]
      and_intros <;> assumption
    all_goals
      rename_i hn
      exact encodesBack_arm rfl rfl (by simp [toNat_append_eq, hn]; omega)

/-- The other words: three registers and FN, or parts of it. -/
theorem encodesBack_register {op : BitVec 6} {d a b : BitVec 5} {fn : BitVec 11} (himm : op.toNat ∉ immediateOpcodes)
    (hcsr : op.toNat ≠ 0x3C) : EncodesBack (op ++ d ++ a ++ b ++ fn) := by
  intro i
  simp only [decodeScalar, extractLsb'_append_high, extractLsb'_append_low, BitVec.extractLsb'_eq_self, HEq.rfl, Nat.reduceLeDiff,
    Nat.reduceAdd, Nat.reduceSub, ← BitVec.testBit_toNat, Nat.testBit_eq_decide_div_mod_eq, decide_eq_true_eq, beq_iff_eq]
  split
  case h_60 hop => exact absurd hop hcsr
  case h_2 hop | h_3 hop | h_4 hop | h_6 hop | h_10 hop | h_23 hop | h_24 hop | h_25 hop | h_27 hop | h_28 hop | h_29 hop |
      h_31 hop | h_32 hop => exact absurd (by rw [hop]; decide) himm
  all_goals
    clear himm hcsr
    repeat' split
  all_goals
    simp only [need_eq_ok, and_imp, Except.ok.injEq, reduceCtorEq, false_imp_iff, imp_true_iff, beq_iff_eq, decide_eq_true_eq,
      Bool.not_eq_true', decide_eq_false_iff_not]
  all_goals
    intros
    subst_vars
    refine encodesBack_arm rfl rfl ?_
    simp only [toNat_append_eq, BitVec.extractLsb'_toNat, Nat.shiftRight_eq_div_pow, ← BitVec.toNat_inj, HEq.rfl, Nat.reduceAdd,
      Nat.reducePow, BitVec.reduceToNat, BitVec.ofNat_eq_ofNat] at *
    omega

/-- A word is its opcode, its three register fields and FN (R93). -/
theorem word_fields (w : Word) : w.extractLsb' 26 6 ++ w.extractLsb' 21 5 ++ w.extractLsb' 16 5 ++ w.extractLsb' 11 5 ++
    w.extractLsb' 0 11 = w := by
  repeat rw [BitVec.extractLsb'_append_extractLsb'_eq_extractLsb' (by decide)]
  exact BitVec.extractLsb'_eq_self

theorem csrWord_fields {w : Word} (hop : (w.extractLsb' 26 6).toNat = 0x3C) : 0x3C#6 ++ w.extractLsb' 21 5 ++
    w.extractLsb' 16 5 ++ w.extractLsb' 15 1 ++ w.extractLsb' 12 3 ++ w.extractLsb' 0 12 = w := by
  rw [show 0x3C#6 = w.extractLsb' 26 6 from BitVec.eq_of_toNat_eq hop.symm]
  repeat rw [BitVec.extractLsb'_append_extractLsb'_eq_extractLsb' (by decide)]
  exact BitVec.extractLsb'_eq_self

theorem encodesBack (w : Word) : EncodesBack w := by
  by_cases himm : (w.extractLsb' 26 6).toNat ∈ immediateOpcodes
  · exact encodesBack_immediate himm
  · by_cases hcsr : (w.extractLsb' 26 6).toNat = 0x3C
    · rw [← csrWord_fields hcsr]
      exact encodesBack_csr
    · have hparts := encodesBack_register (d := w.extractLsb' 21 5) (a := w.extractLsb' 16 5) (b := w.extractLsb' 11 5)
        (fn := w.extractLsb' 0 11) himm hcsr
      rwa [word_fields] at hparts

theorem decodeScalar_eq_ok_iff (i : Instr) (w : Word) : decodeScalar w = .ok i ↔ wellFormed i ∧ encodeScalar i = some w :=
  ⟨encodesBack w i, fun ⟨hwf, henc⟩ => decodesBack_of_wellFormed hwf w henc⟩

/-- Settles O55: an instruction's fields are read off its word, and a word's fields make it up. -/
theorem scalarWordsRoundTrip : Obligations.ScalarWordsRoundTrip := by
  unfold Obligations.ScalarWordsRoundTrip
  exact ⟨fun i w hwf henc => (decodeScalar_eq_ok_iff i w).2 ⟨hwf, henc⟩, fun i w => (decodeScalar_eq_ok_iff i w).1⟩

/-- Settles O60, by running the decoders on the words. -/
theorem decodedWords : Obligations.DecodedWords := by
  unfold Obligations.DecodedWords
  decide

end Sys2Proof
end

section
/-! The correctly rounded functions (O25), LNOP and REP (O22). -/

namespace Sys2Proof.Machine

/-! ## Correctly rounded functions (R175, R176) -/

/-- A long-latency floating function of one rounding sends each executing lane its bits and flags. -/
theorem sends_floatLane {mk : LaneFields → Instr} {shape : LaneFields → Shape}
    {g : Ctx → FloatFmt → Rnd → Nat → Nat → Nat → Nat × Flags}
    (hrun : ∀ f s, exec (mk f) s = laneRun shape (fun x => floatLane (g x) x) f s) (hd : ∀ f, (shape f).dst = .long) :
    Sends mk shape fun x i =>
      let r := g x (floatFmt x.f.fmt.toNat) (x.rounding i 0) (x.val 0 i).toNat (x.val 1 i).toNat (x.val 2 i).toNat
      ⟨.ofNat 64 r.1, x.anyPoison i, r.2⟩ :=
  sends_of_finish hrun hd fun _ s h => finish_long h _ s

theorem sends_function {mk : LaneFields → Instr} {op : BitVec 8} {uses : BitVec 3} {g : FloatFmt → Rnd → Nat → Nat → Nat × Flags}
    (hrun : ∀ f s, exec (mk f) s = laneRun (shFunction op uses) (floatLane fun t r a b _ => g t r a b) f s) :
    Sends mk (shFunction op uses) fun x i =>
      let r := g (floatFmt x.f.fmt.toNat) (x.rounding i 0) (x.val 0 i).toNat (x.val 1 i).toNat
      ⟨.ofNat 64 r.1, x.anyPoison i, r.2⟩ :=
  sends_floatLane (g := fun _ t r a b _ => g t r a b) hrun fun _ => rfl

theorem sends_fatan : Sends .fatan (fun f => { shFunction 0x3A (if f.md.getLsbD 0 then 3 else 1) f with md := 1 }) fun x i =>
    let r := fAtan (floatFmt x.f.fmt.toNat) (x.rounding i 0) (x.f.md.getLsbD 0) (x.val 0 i).toNat (x.val 1 i).toNat
    ⟨.ofNat 64 r.1, x.anyPoison i, r.2⟩ :=
  sends_floatLane (g := fun x t r a b _ => fAtan t r (x.f.md.getLsbD 0) a b) (fun _ _ => rfl) fun _ => rfl

/-- Settles O25: each function is a `floatLane` of its own shape. -/
theorem laneFunctions : Obligations.LaneFunctions := by
  unfold Obligations.LaneFunctions
  intro does
  have hdoes {mk op uses g} (hrun : ∀ f s, exec (mk f) s = laneRun (shFunction op uses) (floatLane fun t r a b _ => g t r a b) f s) :
      does mk op uses g := sends_function hrun
  clear_value does
  refine ⟨⟨hdoes ?_, hdoes ?_, hdoes ?_, hdoes ?_⟩, ⟨hdoes ?_, hdoes ?_, hdoes ?_, hdoes ?_, hdoes ?_, hdoes ?_, hdoes ?_,
    hdoes ?_, hdoes ?_, hdoes ?_, hdoes ?_⟩, sends_fatan⟩
  all_goals exact fun _ _ => rfl

/-! ## LNOP (R158) -/

/-- An instruction that uses no field draws nothing. -/
theorem takeDraws_bare (s : State) (op : BitVec 8) (e : LaneEntry) (f : LaneFields) (c : Crew) :
    (s.laneCtx (.bare op) e f).takeDraws c = c := by
  have hsrc : (s.laneCtx (.bare op) e f).randsBefore 3 = 0 := by
    simp [Ctx.randsBefore, State.laneCtx, Shape.bare]
  have hcount : (s.laneCtx (.bare op) e f).drawCount = 0 := by
    rw [Ctx.drawCount, hsrc]
    simp [State.laneCtx, Shape.bare]
  rw [Ctx.takeDraws, if_pos hcount]

theorem State.lanesTo_of_crew {s t : State} (honly : s.onlyCrew t) (hlen : s.crew.lanes.length = 96)
    (hcrew : t.crew = { s.crew with laneQ := s.crew.laneQ.tail, clock := s.crew.clock + 1 }) :
    s.lanesTo t fun _ l => l := by
  refine ⟨honly, ?_, ?_, fun i _ => ?_⟩ <;> rw [hcrew]
  · exact hlen
  · rfl

theorem retires_lnop : Retires .lnop (fun _ _ => .bare 0x00) (fun _ _ => True) fun _ s t => s.lanesTo t fun _ l => l := by
  refine ⟨stops_of_run fun _ _ => rfl, fun s f e hh hok _ =>
    ⟨_, exec_of_body (shape := fun _ _ => .bare 0x00) rfl hh hok rfl, ?_⟩⟩
  obtain ⟨hq, -, hrep, hlen⟩ := hh
  refine State.lanesTo_of_crew (State.onlyCrew_trans (State.onlyCrew_updCrew s _) (State.onlyCrew_updCrew _ _)) hlen ?_
  rw [State.crew_updCrew, State.crew_updCrew, takeDraws_bare]
  simp only [Crew.retire, retireHead_none hq hrep]
  rfl

/-! ## REP (R109, R110) -/

/-- A REP whose reserved fields are zero passes the checks of its own (R109). -/
theorem firstTrap_repReserved {f : LaneFields} (l : List (Bool × TrapInfo)) (hplain : f = { f with
      dst := 0, sa := 0, sb := 0, sc := 0, fe := 0, fmt := 0, rnd := 0, pred := 0, pneg := 0, md := 0 })
    (himm : f.imm &&& 0xFFFFC0C0#32 = 0#32) : firstTrap (repReserved f ++ l) = firstTrap l := by
  rw [hplain]
  simp [repReserved, firstTrap, himm]

/-- The instructions that may not be repeated (R110). -/
def neverRepeated : List (BitVec 8) := [0x01, 0x76, 0x77, 0x80, 0x81, 0x82, 0x83]

theorem noRepeat_eq (op : BitVec 8) : noRepeat op = decide (op ∈ neverRepeated) := by
  revert op
  decide

theorem repState_eq (f : LaneFields) :
    repState f = ⟨f.imm.toNat % 64 + 1, 2 ^ (f.imm.toNat / 2 ^ 12 % 4), f.imm.extractLsb' 8 4, 0⟩ := by
  rw [repState, BitVec.extractLsb'_toNat, Nat.shiftRight_eq_div_pow]

/-- A target that may be repeated, its stepped fields registers, passes the checks of REP. -/
theorem firstTrap_prefixBad {imm : Word} {w : BitVec 96} (hop : laneOpcode w ∉ neverRepeated)
    (hregs : let t := laneFields w
      (imm.getLsbD 8 → isReg t.dst) ∧ (imm.getLsbD 9 → isReg t.sa) ∧ (imm.getLsbD 10 → isReg t.sb) ∧
        (imm.getLsbD 11 → isReg t.sc)) :
    firstTrap (prefixBad (imm.extractLsb' 8 4) w) = none := by
  obtain ⟨hdst, hsa, hsb, hsc⟩ := hregs
  have hbad {bit : Bool} {c : BitVec 8} (h : bit → isReg c) : (bit && !isReg c) = false := by
    cases bit
    · rfl
    · rw [h rfl]
      rfl
  have hstep (k : Nat) (hk : k < 4) : (imm.extractLsb' 8 4).getLsbD k = imm.getLsbD (8 + k) := by
    simp only [BitVec.getLsbD_extractLsb', hk, decide_true, Bool.true_and]
  rw [firstTrap_eq_none]
  simp only [prefixBad, noRepeat_eq, hop, decide_false, hstep 0 (by decide), hstep 1 (by decide), hstep 2 (by decide),
    hstep 3 (by decide), hbad hdst, hbad hsa, hbad hsb, hbad hsc, Bool.or_false, List.forall_mem_cons]
  exact ⟨trivial, trivial, List.forall_mem_nil _⟩

/-- A target that may not be repeated is the first thing that the checks find. -/
theorem firstTrap_prefixBad_of_mem {step : BitVec 4} {w : BitVec 96} (hop : laneOpcode w ∈ neverRepeated) :
    firstTrap (prefixBad step w) = some (laneInfo 0x04 0 (laneOpcode w).toNat) := by
  simp only [prefixBad, noRepeat_eq, hop, decide_true, firstTrap]

section
variable {s : State} {f : LaneFields} {e : LaneEntry} {rest : List LaneEntry}

theorem State.nextOf_cons {y : LaneEntry} {more : List LaneEntry} (hy : y.owner = e.owner) :
    s.nextOf e (y :: more) = some y.word := by
  simp [State.nextOf, hy]

theorem State.nextOf_nil : s.nextOf e [] =
    if e.lpc + 24 ≤ s.launch.laneLen then some (s.launch.laneWordAt (e.lpc + 12)) else none := rfl

variable (hq : s.crew.laneQ = e :: rest) (hrep : e.rep = none)
  (hplain : f = { f with
    dst := 0, sa := 0, sb := 0, sc := 0, fe := 0, fmt := 0, rnd := 0, pred := 0, pneg := 0, md := 0 })
  (himm : f.imm &&& 0xFFFFC0C0#32 = 0#32)
include hq hrep hplain himm

/-- A well-formed REP at the head whose target is refused. -/
theorem exec_rep_trap {t : TrapInfo} (ht : firstTrap (repTarget f (s.nextOf e rest)) = some t) :
    exec (.rep f) s = .next (s.takeTrap t true false) := by
  have hhead : s.ensureHead 0x01 f = s := by simp [State.ensureHead, hq]
  show execRep f s = _
  unfold execRep
  simp only [hhead, hq, LaneEntry.prefixTrap, hrep, Option.none_or, firstTrap_repReserved _ hplain himm, ht]

/-- A well-formed REP at the head whose target is accepted. -/
theorem exec_rep_next (ht : firstTrap (repTarget f (s.nextOf e rest)) = none) :
    exec (.rep f) s = .next (s.updCrew fun c =>
      if rest.any fun y => y.owner == e.owner then { c with laneQ := giveRep e.owner (repState f) rest }
      else { c.updSplit e.owner fun p => { p with pendingRep := some (repState f) } with laneQ := rest }) := by
  have hhead : s.ensureHead 0x01 f = s := by simp [State.ensureHead, hq]
  show execRep f s = _
  unfold execRep
  simp only [hhead, hq, LaneEntry.prefixTrap, hrep, Option.none_or, firstTrap_repReserved _ hplain himm, ht]

end

/-- Settles O22: REP goes to the next entry of its split, or, where none is queued, into the split. -/
theorem laneNopAndRepeat : Obligations.LaneNopAndRepeat := by
  unfold Obligations.LaneNopAndRepeat
  refine ⟨retires_lnop, fun s f e rest => ?_⟩
  intro r plain regs may hq hrep hplain himm
  have hr : repState f = r := repState_eq f
  refine ⟨fun y more hrest hy hmay => ?_, fun hrest hmay => ?_, fun y more hrest hy hop => ?_⟩
  · subst hrest
    have ht : firstTrap (repTarget f (s.nextOf e (y :: more))) = none := by
      rw [State.nextOf_cons hy]
      exact firstTrap_prefixBad hmay.1 hmay.2
    refine ⟨_, exec_rep_next hq hrep hplain himm ht, State.onlyCrew_updCrew s _, ?_⟩
    rw [State.crew_updCrew]
    simp only [List.any_cons, hy, beq_self_eq_true, Bool.true_or, if_true, giveRep, hr]
  · subst hrest
    have ht : firstTrap (repTarget f (s.nextOf e [])) = none := by
      rw [State.nextOf_nil]
      split
      case isTrue hin => exact firstTrap_prefixBad (hmay hin).1 (hmay hin).2
      case isFalse => rfl
    refine ⟨_, exec_rep_next hq hrep hplain himm ht, State.onlyCrew_updCrew s _, ?_⟩
    rw [State.crew_updCrew]
    simp only [List.any_nil, Bool.false_eq_true, if_false, hr]
    have hother (k : Nat) (hk : k ≠ e.owner) :=
      Crew.split_updSplit_ne s.crew (fun p => { p with pendingRep := some r }) hk
    have hsame := Crew.split_updSplit_same s.crew e.owner fun p => { p with pendingRep := some r }
    exact ⟨rfl, hother, hsame⟩
  · subst hrest
    exact exec_rep_trap hq hrep hplain himm (by rw [State.nextOf_cons hy]; exact firstTrap_prefixBad_of_mem hop)

end Sys2Proof.Machine
end

section
/-! Arrivals, traps, terminations, errors of registers and memories, and the wake for a time, as events (O33). -/

namespace Sys2Proof.Machine

/-! ## Events under a guard -/

/-- An event that acts under a guard, and otherwise does nothing, completes where the guard holds. -/
theorem Completes.of_guard {i : Instr} {s t : State} {b : Bool} {p : State → Prop}
    (hexec : exec i s = .next (if b then t else s)) (hb : b = true) (hp : p t) : Completes i s p :=
  ⟨t, by rw [hexec, if_pos hb], hp⟩

/-! ## A lane of a crew changed -/

theorem getD_listModify_same {α : Type} (f : α → α) (d : α) {l : List α} {k : Nat} (h : k < l.length) :
    (listModify f l k).getD k d = f (l.getD k d) := by
  rw [getD_listModify f d l k k h, if_pos rfl]

theorem getD_listModify_ne {α : Type} (f : α → α) (d : α) (l : List α) {k i : Nat} (h : i ≠ k) :
    (listModify f l k).getD i d = l.getD i d := by
  by_cases hi : i < l.length
  · rw [getD_listModify f d l k i hi, if_neg h]
  · have hi := Nat.le_of_not_lt hi
    rw [List.getD_eq_default _ _ hi, List.getD_eq_default _ _ (by rwa [listModify_length])]

/-! ## The arrival of a value (R107) -/

theorem takeArrival_cons {lane : Nat} {y : Inflight} {rest : List Inflight} {a : Arrival}
    (ha : y.arrivals.find? (fun b => b.lane == lane) = some a) :
    takeArrival lane (y :: rest) = some (y.reg, a,
      if y.arrivals.filter (fun b => b.lane != lane) = [] then rest
      else { y with arrivals := y.arrivals.filter fun b => b.lane != lane } :: rest) := by
  unfold takeArrival
  simp only [ha, List.isEmpty_iff]

theorem Crew.lane_arrive_ne (c : Crew) (r : Nat) (a : Arrival) {i : Nat} (h : i ≠ a.lane) :
    (c.arrive r a).lane i = c.lane i := getD_listModify_ne _ _ _ h

theorem Crew.lane_arrive_same (c : Crew) (r : Nat) (a : Arrival) (h : a.lane < c.lanes.length) :
    (c.arrive r a).lane a.lane =
      { (c.lane a.lane).setReg r a.val a.poison with flags := (c.lane a.lane).flags ||| a.flags } :=
  getD_listModify_same _ _ h

/-- A value arrives from the oldest producer in flight. -/
theorem arrivalClause (s : State) (slot lane : Nat) (y : Inflight) (rest : List Inflight) (a : Arrival) :
    let c := s.crewAt slot
    c.inflight = y :: rest → y.arrivals.find? (fun b => b.lane == lane) = some a → lane < c.lanes.length →
    Completes (.longLatencyArrival slot lane) s fun t =>
      let left := y.arrivals.filter fun b => b.lane != lane
      t = { s with crews := t.crews } ∧ (∀ k, k ≠ slot → t.crewAt k = s.crewAt k) ∧
      t.crewAt slot = { c with
        lanes := (t.crewAt slot).lanes, fsum := c.fsum ||| a.flags
        inflight := if left = [] then rest else { y with arrivals := left } :: rest
        clock := if left = [] then c.clock + 1 else c.clock } ∧
      (∀ i, i ≠ lane → (t.crewAt slot).lane i = c.lane i) ∧
      (t.crewAt slot).lane lane = { c.lane lane with
        regs := ((t.crewAt slot).lane lane).regs, flags := (c.lane lane).flags ||| a.flags } ∧
      ∀ r, ((t.crewAt slot).lane lane).reg r = if r = y.reg then ⟨a.val, true, a.poison⟩ else (c.lane lane).reg r := by
  intro c hc ha hlane
  obtain rfl : a.lane = lane := by simpa using List.find?_some ha
  have hexec : exec (.longLatencyArrival slot a.lane) s = execLongLatencyArrival slot a.lane s := rfl
  have htake := takeArrival_cons (rest := rest) ha
  rw [Completes, hexec, execLongLatencyArrival, hc, htake]
  refine ⟨_, rfl, rfl, fun k hk => State.crewAt_setCrewAt_ne _ _ hk, ?_⟩
  rw [State.crewAt_setCrewAt_same]
  refine ⟨?_, fun i hi => c.lane_arrive_ne _ _ hi, ?_⟩
  · split <;> simp [Crew.arrive, c]
  · have hsame := c.lane_arrive_same y.reg a hlane
    refine ⟨hsame.trans (congrArg (fun r => { c.lane a.lane with
      regs := r, flags := (c.lane a.lane).flags ||| a.flags }) (congrArg LaneState.regs hsame).symm), fun r => ?_⟩
    exact (congrArg (LaneState.reg · r) hsame).trans (LaneState.reg_setReg _ _ _ _ _)

/-! ## Traps as events (R203, R204) -/

/-- The crew at which a trap is taken, once its waits are abandoned, its values have arrived and its window has drained. -/
def Crew.Interrupted (c d : Crew) : Prop :=
  d.laneQ = c.laneQ ∧ d.trap = c.trap ∧ d.under = c.under ∧ ∀ k, ∃ w, d.split k = { c.split k with wait := w }

theorem Crew.Interrupted.refl (c : Crew) : c.Interrupted c := ⟨rfl, rfl, rfl, fun _ => ⟨_, rfl⟩⟩

theorem Crew.Interrupted.trans {c d e : Crew} (h : c.Interrupted d) (h' : d.Interrupted e) : c.Interrupted e := by
  obtain ⟨hq, ht, hu, hs⟩ := h
  obtain ⟨hq', ht', hu', hs'⟩ := h'
  refine ⟨hq'.trans hq, ht'.trans ht, hu'.trans hu, fun k => ?_⟩
  obtain ⟨w, hw⟩ := hs k
  obtain ⟨w', hw'⟩ := hs' k
  exact ⟨w', by rw [hw', hw]⟩

theorem Crew.interrupted_arriveAll (c : Crew) : c.Interrupted c.arriveAll := by
  rw [c.arriveAll_eq]
  exact .refl c

theorem State.interrupted_abandon (s : State) (slot k : Nat) :
    (s.crewAt slot).Interrupted ((s.abandon slot k).crewAt slot) := by
  rw [s.crewAt_abandon, if_pos rfl]
  refine ⟨rfl, rfl, rfl, fun j => ?_⟩
  by_cases hj : j = k
  · subst hj
    exact ⟨_, Crew.split_updSplit_same _ _ _⟩
  · exact ⟨_, Crew.split_updSplit_ne _ _ hj⟩

theorem State.interrupted_abandonAll (s : State) (slot : Nat) :
    (s.crewAt slot).Interrupted ((s.abandonAll slot).crewAt slot) := by
  have hfold : (s.crewAt slot).Interrupted
      (((s.crewAt slot).splits.foldl (fun t p => t.abandon slot p.1) s).crewAt slot) :=
    foldl_keeps (fun t : State => (s.crewAt slot).Interrupted (t.crewAt slot)) _ _ s
      (fun t p _ h => h.trans (t.interrupted_abandon slot p.1)) (.refl _)
  unfold State.abandonAll
  dsimp only
  rw [State.crewAt_setCrewAt_same]
  exact hfold

/-- Only the crews and memory differ when every wait of a crew is abandoned. -/
theorem State.abandonAll_frame (s : State) (slot : Nat) :
    s.abandonAll slot = { s with crews := (s.abandonAll slot).crews, mem := (s.abandonAll slot).mem } := by
  have hfold : ∃ cs m, (s.crewAt slot).splits.foldl (fun t p => t.abandon slot p.1) s = { s with crews := cs, mem := m } :=
    foldl_keeps (fun t : State => ∃ cs m, t = { s with crews := cs, mem := m }) _ _ s
      (fun t p _ h => by
        obtain ⟨cs, m, rfl⟩ := h
        exact ⟨_, _, State.abandon_frame _ _ _⟩) ⟨_, _, rfl⟩
  obtain ⟨cs, m, hfold⟩ := hfold
  unfold State.abandonAll
  dsimp only
  rw [hfold]
  rfl

/-- The state in which a trap of the crew in focus is taken (R202, R204). -/
def State.interrupt (s : State) : State :=
  ((s.abandonAll s.cur).setCrewAt s.cur ((s.abandonAll s.cur).crewAt s.cur).arriveAll).drainAt s.cur

theorem State.interrupt_frame (s : State) :
    s.interrupt = { s with crews := s.interrupt.crews, mem := s.interrupt.mem } := by
  unfold State.interrupt State.drainAt
  rw [State.drainIf_frame, s.abandonAll_frame]
  rfl

theorem State.interrupted_interrupt (s : State) : s.crew.Interrupted (s.interrupt.crewAt s.cur) := by
  unfold State.interrupt State.drainAt
  rw [State.crewAt_drainIf, if_pos rfl, State.crewAt_setCrewAt_same]
  exact (s.interrupted_abandonAll s.cur).trans (Crew.interrupted_arriveAll _)

theorem State.window_interrupt (s : State) : (s.interrupt.crewAt s.cur).window = [] := by
  unfold State.interrupt State.drainAt
  rw [State.crewAt_drainIf, if_pos rfl]
  simp

theorem State.settings_interrupt (s : State) : s.interrupt.settingsOf (s.interrupt.crewAt s.cur) = s.settings := by
  obtain ⟨-, -, hunder, -⟩ := s.interrupted_interrupt
  unfold State.settings State.settingsOf
  rw [hunder, s.interrupt_frame]

/-- The queue entry that a trap names: the head for a lane trap, none for a scalar trap. -/
def State.trapEntry (s : State) (lane : Bool) : Option LaneEntry := if lane then s.crew.laneQ.head? else none

/-- The split that a trap interrupts (R203). -/
def State.trapSplit (s : State) (lane : Bool) : Nat := ((s.trapEntry lane).map LaneEntry.owner).getD s.curSplit

/-- The trap registers that a trap leaves, and the split that it moves to the handler (R201 to R206). -/
structure TrapStart (s : State) (i : TrapInfo) (lane : Bool) (tr : TrapState) (p : Split) : Prop where
  cause : tr.cause = (if lane then 0x01#8 else 0x02#8) ++ i.code ++ i.detail
  addr : tr.addr = i.addr
  opnd : tr.opnd = i.opnd
  split : tr.split = s.trapSplit lane
  held : tr.held = s.crew.laneQ
  handler : tr.handler = true
  from_spc : tr.spc = (s.crew.split (s.trapSplit lane)).spc
  vector : p.spc = s.settings.trap
  entry : ∀ e, s.trapEntry lane = some e → tr.lpc = e.lpc ∧ p.mask = e.mask

/-- The owner of a trap as the model picks it. -/
theorem State.trapSplit_eq (s : State) (lane : Bool) :
    (if lane then (match s.crew.laneQ.head? with | some e => e.owner | none => s.curSplit) else s.curSplit) =
      s.trapSplit lane := by
  unfold State.trapSplit State.trapEntry
  cases lane
  · rfl
  · cases s.crew.laneQ.head? <;> rfl

theorem State.takeTrap_eq {s : State} (i : TrapInfo) (lane : Bool) (hout : s.crew.trap.handler = false)
    (hvec : s.settings.trap ≠ 0) : ∃ tr p, TrapStart s i lane tr p ∧
      s.takeTrap i lane false = s.interrupt.setCrewAt s.cur
        { (s.interrupt.crewAt s.cur).setSplit (s.trapSplit lane) p with trap := tr, laneQ := [] } := by
  obtain ⟨hq, htrap, -, hsplit⟩ := s.interrupted_interrupt
  have hpspc (k : Nat) : ((s.interrupt.crewAt s.cur).split k).spc = (s.crew.split k).spc := by
    obtain ⟨w, hw⟩ := hsplit k
    rw [hw]
  have hset := s.settings_interrupt
  have hk := s.trapSplit_eq lane
  unfold State.takeTrap
  extract_lets slot c head k named s1 s2 u d p held oldest lpc cause tr l cls ended mask p'
  have hl : l = s.settings := hset
  have hstart : ¬(d.trap.handler || decide (l.trap = 0)) = true := by
    rw [show d.trap = s.crew.trap from htrap, hl, hout]
    simpa using hvec
  have hspc : tr.spc = p.spc := if_neg (by simp)
  have hlpc : tr.lpc = lpc := if_neg (by simp)
  rw [← hk]
  refine ⟨tr, p', ⟨rfl, rfl, rfl, hk, hq, rfl, ?_, congrArg JobSpec.trap hl, fun e he => ?_⟩, if_neg hstart⟩
  · rw [hspc, ← hk]
    exact hpspc k
  · unfold State.trapEntry at he
    cases lane with
    | false => exact absurd he (by simp)
    | true =>
      have hhead : held.head? = some e := (congrArg List.head? hq).trans he
      refine ⟨hlpc.trans ?_, ?_⟩
      · simp only [lpc, if_true, hhead]
      · simp only [p', mask, if_true, hhead]

theorem State.crew_setCrewAt_of_cur {s : State} {n : Nat} (h : s.cur = n) (c : Crew) : (s.setCrewAt n c).crew = c := by
  subst h
  exact s.crew_setCrew c

/-- The start of the handler, as the crew in focus shows it. -/
theorem State.takeTrap_starts {s : State} (i : TrapInfo) (lane : Bool) (hout : s.crew.trap.handler = false)
    (hvec : s.settings.trap ≠ 0) : let t := s.takeTrap i lane false
    TrapStart s i lane t.crew.trap (t.crew.split (s.trapSplit lane)) ∧ t.curSplit = s.curSplit ∧ t.crew.laneQ = [] ∧
      t.crew.window = [] := by
  obtain ⟨tr, p, hstart, ht⟩ := State.takeTrap_eq i lane hout hvec
  have hcur : s.interrupt.cur = s.cur := by rw [s.interrupt_frame]
  have hfocus : s.interrupt.curSplit = s.curSplit := by rw [s.interrupt_frame]
  have hwin := s.window_interrupt
  dsimp only
  rw [ht, State.setCrewAt_curSplit, State.crew_setCrewAt_of_cur hcur]
  generalize s.interrupt.crewAt s.cur = d at hwin ⊢
  have hown := d.split_setSplit_same (s.trapSplit lane) p
  exact ⟨hown.symm ▸ hstart, hfocus, rfl, hwin⟩

/-- A trap of the entry at the head of the lane queue. -/
theorem laneTrapClause (s : State) (i : TrapInfo) (e : LaneEntry) (hlive : s.crew.live)
    (he : s.crew.laneQ.head? = some e) (hout : s.crew.trap.handler = false) (hvec : s.settings.trap ≠ 0) :
    Completes (.laneTrap i) s fun t =>
      t.crew.trap.cause = 0x01#8 ++ i.code ++ i.detail ∧ t.crew.trap.addr = i.addr ∧ t.crew.trap.opnd = i.opnd ∧
      t.crew.trap.lpc = e.lpc ∧ t.crew.trap.split = e.owner ∧ t.crew.trap.held = s.crew.laneQ ∧ t.crew.trap.handler ∧
      t.crew.laneQ = [] ∧ t.crew.window = [] ∧ (t.crew.split e.owner).spc = s.settings.trap ∧
      (t.crew.split e.owner).mask = e.mask := by
  have hk : s.trapSplit true = e.owner := by
    unfold State.trapSplit State.trapEntry
    rw [if_pos rfl, he]
    rfl
  obtain ⟨hstart, -, hq, hwin⟩ := State.takeTrap_starts i true hout hvec
  rw [hk] at hstart
  obtain ⟨hlpc, hmask⟩ := hstart.entry e (by rw [State.trapEntry, if_pos rfl, he])
  have hqueued : s.crew.laneQ ≠ [] := fun h => by simp [h] at he
  exact .of_guard rfl (by simp [hlive, hqueued]) ⟨hstart.cause, hstart.addr, hstart.opnd, hlpc, hstart.split.trans hk,
    hstart.held, hstart.handler, hq, hwin, hstart.vector, hmask⟩

/-- A trap of the word of the split in focus. -/
theorem scalarTrapClause (s : State) (i : TrapInfo) (hlive : s.crew.live) (hsplit : s.split.live)
    (hout : s.crew.trap.handler = false) (hvec : s.settings.trap ≠ 0) :
    Completes (.scalarTrap i) s fun t =>
      t.crew.trap.cause = 0x02#8 ++ i.code ++ i.detail ∧ t.crew.trap.addr = i.addr ∧ t.crew.trap.opnd = i.opnd ∧
      t.crew.trap.spc = s.split.spc ∧ t.crew.trap.split = s.curSplit ∧ t.crew.trap.held = s.crew.laneQ ∧
      t.crew.trap.handler ∧ t.crew.laneQ = [] ∧ t.crew.window = [] ∧ t.split.spc = s.settings.trap := by
  obtain ⟨hstart, hfocus, hq, hwin⟩ := State.takeTrap_starts i false hout hvec
  have hvector : (s.takeTrap i false false).split.spc = s.settings.trap := by
    unfold State.split
    rw [hfocus]
    exact hstart.vector
  exact .of_guard rfl (by simp [hlive, hsplit]) ⟨hstart.cause, hstart.addr, hstart.opnd, hstart.from_spc, hstart.split,
    hstart.held, hstart.handler, hq, hwin, hvector⟩

/-! ## The termination of a crew (R210, R211) -/

/-- The crew that an end leaves: no held entry, and nothing in its window. -/
def Crew.Cleared (c : Crew) : Prop := c.laneQ = [] ∧ c.window = []

theorem Crew.Flushed.cleared {c d : Crew} (h : c.Flushed d) (hc : c.Cleared) : d.Cleared := by
  rcases h with rfl | ⟨-, l, f, rfl⟩
  · exact hc
  · exact hc

theorem State.cleared_endCrew (s : State) (slot : Nat) (status : Word) (post : Bool) :
    ((s.endCrew slot status post).crewAt slot).Cleared := by
  unfold State.endCrew
  extract_lets s1 q s2 s3 s4 c tr s5 r s6
  have h3 : (s3.crewAt slot).Cleared := by
    simp only [s3, State.drainAt, State.crewAt_drainIf, if_true]
    exact ⟨congrArg Crew.laneQ (State.crewAt_setCrewAt_same s1 slot _), by simp⟩
  clear_value s3
  have h4 : c.Cleared := by
    simp only [c, s4]
    split
    · exact (s3.flushed_flushAt slot slot).cleared h3
    · exact h3
  have h5 : (s5.crewAt slot).Cleared := by
    simp only [s5, State.crewAt_setCrewAt_same]
    exact h4
  clear_value s5
  have h6 : s6.crews = s5.crews := by
    simp only [s6]
    split
    · exact State.crews_of_crewBoard (s5.crewBoard_post _ _ _)
    · rfl
  have hc6 : s6.crewAt slot = s5.crewAt slot := congrArg (mapGet Crew.empty · slot) h6
  exact ((s6.flushed_depart c).2 slot).cleared (hc6 ▸ h5)

/-- A termination of class 0x01 where no handler is named, or of class 0x02 in the handler. -/
theorem terminationClause (s : State) (w : Word) : let cls := w.extractLsb' 24 8
    s.crew.live → (cls = 1 ∧ s.settings.trap = 0 ∨ cls = 2 ∧ s.crew.trap.handler) →
    Completes (.crewTermination w) s fun t =>
      (t.crewAt s.cur).live = false ∧ (t.crewAt s.cur).status = w ∧ (t.crewAt s.cur).laneQ = [] ∧
      (t.crewAt s.cur).window = [] := by
  intro cls hlive hcls
  obtain ⟨-, ⟨hdead, hstatus⟩, -⟩ := s.endCrew_spec s.cur w true
  obtain ⟨hq, hwin⟩ := s.cleared_endCrew s.cur w true
  exact .of_guard rfl (by simpa [hlive] using hcls) ⟨hdead, hstatus, hq, hwin⟩

/-! ## Errors of registers and memories (R213) -/

theorem LaneState.reg_poisonRow (l : LaneState) {row : Nat} (h : row < 72) (r : Nat) :
    (l.poisonRow row).reg r = if r = row then { l.reg r with poison := true } else l.reg r := by
  unfold LaneState.poisonRow
  rw [if_pos h]
  refine (mapGet_mapSet _ _ _ _ _).trans ?_
  split
  · next hr => rw [hr]
  · rfl

theorem getD_replicate_append {α : Type} (d : α) (l : List α) (n k : Nat) :
    (l ++ List.replicate n d).getD k d = l.getD k d := by
  by_cases hk : k < l.length
  · rw [List.getD_append _ _ _ _ hk]
  · have hk := Nat.le_of_not_lt hk
    rw [List.getD_append_right _ _ _ _ hk, List.getD_eq_default _ _ hk, List.getD_eq_getElem?_getD,
      List.getElem?_getD_replicate_default_eq]

theorem LaneState.queue_poisonRow (l : LaneState) {row : Nat} (h : 72 ≤ row) (k : Nat) :
    (l.poisonRow row).queue.getD k ⟨0, false⟩ =
      if k = row - 72 then { l.queue.getD k ⟨0, false⟩ with poison := true } else l.queue.getD k ⟨0, false⟩ := by
  unfold LaneState.poisonRow
  rw [if_neg (Nat.not_lt.mpr h)]
  dsimp only
  split
  · next hk =>
    subst hk
    rw [getD_listModify_same _ _ (by simp only [List.length_append, List.length_replicate]; omega), getD_replicate_append]
  · next hk => rw [getD_listModify_ne _ _ _ hk, getD_replicate_append]

/-- The lane of a register error alone changes. -/
theorem exec_registerEccError {s : State} {slot row lane : Nat} (hlive : (s.crewAt slot).live) (hrow : row < 88)
    (hlane : lane < (s.crewAt slot).lanes.length) : let c := s.crewAt slot
    Completes (.registerEccError slot row lane) s fun t =>
      t = { s with crews := t.crews } ∧ (∀ k, k ≠ slot → t.crewAt k = s.crewAt k) ∧
      t.crewAt slot = { c with lanes := (t.crewAt slot).lanes } ∧ (∀ i, i ≠ lane → (t.crewAt slot).lane i = c.lane i) ∧
      (t.crewAt slot).lane lane = (c.lane lane).poisonRow row := by
  intro c
  refine .of_guard rfl (by simp [hlive, hrow]) ⟨rfl, fun k hk => State.crewAt_setCrewAt_ne _ _ hk, ?_⟩
  rw [State.crewAt_setCrewAt_same]
  exact ⟨rfl, fun i hi => getD_listModify_ne _ _ _ hi, getD_listModify_same _ _ hlane⟩

/-- An error of a v or o register poisons it. -/
theorem registerErrorClause (s : State) (slot row lane : Nat) : let c := s.crewAt slot
    c.live → lane < c.lanes.length → row < 72 → Completes (.registerEccError slot row lane) s fun t =>
      t = { s with crews := t.crews } ∧ (∀ k, k ≠ slot → t.crewAt k = s.crewAt k) ∧
      t.crewAt slot = { c with lanes := (t.crewAt slot).lanes } ∧ (∀ i, i ≠ lane → (t.crewAt slot).lane i = c.lane i) ∧
      (t.crewAt slot).lane lane = { c.lane lane with regs := ((t.crewAt slot).lane lane).regs } ∧
      ∀ r, ((t.crewAt slot).lane lane).reg r =
        if r = row then { (c.lane lane).reg r with poison := true } else (c.lane lane).reg r := by
  intro c hlive hlane hrow
  obtain ⟨t, hexec, hframe, hothers, hcrew, hlanes, hown⟩ := exec_registerEccError hlive (hrow.trans (by decide)) hlane
  refine ⟨t, hexec, hframe, hothers, hcrew, hlanes, ?_⟩
  rw [hown]
  refine ⟨?_, LaneState.reg_poisonRow _ hrow⟩
  unfold LaneState.poisonRow
  rw [if_pos hrow]

/-- An error of a q register poisons it. -/
theorem queueErrorClause (s : State) (slot row lane : Nat) : let c := s.crewAt slot
    c.live → lane < c.lanes.length → 72 ≤ row → row < 88 → Completes (.registerEccError slot row lane) s fun t =>
      t = { s with crews := t.crews } ∧ (∀ k, k ≠ slot → t.crewAt k = s.crewAt k) ∧
      t.crewAt slot = { c with lanes := (t.crewAt slot).lanes } ∧ (∀ i, i ≠ lane → (t.crewAt slot).lane i = c.lane i) ∧
      (t.crewAt slot).lane lane = { c.lane lane with queue := ((t.crewAt slot).lane lane).queue } ∧
      ∀ k, (((t.crewAt slot).lane lane).queue.getD k ⟨0, false⟩) =
        let v := (c.lane lane).queue.getD k ⟨0, false⟩
        if k = row - 72 then { v with poison := true } else v := by
  intro c hlive hlane hlo hhi
  obtain ⟨t, hexec, hframe, hothers, hcrew, hlanes, hown⟩ := exec_registerEccError hlive hhi hlane
  refine ⟨t, hexec, hframe, hothers, hcrew, hlanes, ?_⟩
  rw [hown]
  refine ⟨?_, LaneState.queue_poisonRow _ hlo⟩
  unfold LaneState.poisonRow
  rw [if_neg (Nat.not_lt.mpr hlo)]

theorem marked_mapSet {m : List (Nat × Bool)} {g lo hi : Nat} :
    marked (mapSet false m g true) lo hi ↔ marked m lo hi ∨ lo ≤ g ∧ g ≤ hi := by
  constructor
  · rintro ⟨k, hk, hlo, hhi⟩
    rcases mem_of_mem_mapSet hk with heq | hk
    · obtain ⟨rfl, -⟩ := Prod.mk.inj heq
      exact .inr ⟨hlo, hhi⟩
    · exact .inl ⟨k, hk, hlo, hhi⟩
  · rintro (⟨k, hk, hlo, hhi⟩ | ⟨hlo, hhi⟩)
    · exact ⟨k, mem_mapSet_true (.inl hk), hlo, hhi⟩
    · exact ⟨g, mem_mapSet_true (.inr rfl), hlo, hhi⟩

theorem Mem.poison_mark (m : Mem) (spad : Bool) (g : Nat) :
    (m.mark (spOf spad) (64 * g)).poison (spOf spad) = mapSet false (m.poison (spOf spad)) g true := by
  have hset : (m.mark (spOf spad) (64 * g)).poison (spOf spad) =
      mapSet false (m.poison (spOf spad)) (64 * g / 64) true := by cases spad <;> rfl
  rw [hset, Nat.mul_div_cancel_left g (by decide)]

theorem Mem.tags_mark (m : Mem) (spad : Bool) (a : Nat) : (m.mark (spOf spad) a).tags = m.tags := by
  cases spad <;> rfl

/-- A mark poisons every location that touches its granule, and no other. -/
theorem Mem.poisoned_mark (m : Mem) (spad : Bool) (g a n : Nat) (hn : 0 < n) :
    (m.mark (spOf spad) (64 * g)).poisoned (spOf spad) a n =
      (m.poisoned (spOf spad) a n || (decide (a / 64 ≤ g) && decide (g ≤ (a + n - 1) / 64))) := by
  rw [Bool.eq_iff_iff, Bool.or_eq_true, Mem.poisoned_iff, Mem.poisoned_iff, Mem.poison_mark, Mem.tags_mark, marked_mapSet,
    Bool.and_eq_true, decide_eq_true_iff, decide_eq_true_iff]
  have hn : n ≠ 0 := Nat.pos_iff_ne_zero.mp hn
  tauto

/-- An error of a granule of block memory or the scratchpad poisons it. -/
theorem memoryErrorClause (s : State) (spad : Bool) (g : Nat) (hg : g < (if spad then 2 ^ 22 else 2 ^ 20)) :
    Completes (.memoryEccError spad g) s fun t =>
      t = { s with mem := t.mem } ∧ (∀ sp a, t.mem.byte sp a = s.mem.byte sp a) ∧ t.mem.tags = s.mem.tags ∧
      ∀ a n, 0 < n → t.mem.poisoned (spOf spad) a n =
        (s.mem.poisoned (spOf spad) a n || (decide (a / 64 ≤ g) && decide (g ≤ (a + n - 1) / 64))) := by
  have hbyte (sp : Sp) (a : Nat) : (s.mem.mark (spOf spad) (64 * g)).byte sp a = s.mem.byte sp a :=
    congrArg (memGet · a) (s.mem.space_mark _ _ _)
  have hexec : exec (.memoryEccError spad g) s = execMemoryEccError spad g s := rfl
  rw [Completes, hexec, execMemoryEccError, if_pos hg]
  exact ⟨_, rfl, rfl, hbyte, s.mem.tags_mark _ _, s.mem.poisoned_mark spad g⟩

/-! ## The wake for a time (R139) -/

/-- The crew whose split k completes the word that it waits at. -/
def Crew.woken (c : Crew) (k : Nat) : Crew :=
  { c.updSplit k fun p => { p with spc := (c.split k).spc + 4, wait := .none } with clock := c.clock + 1 }

/-- A split whose time has come completes its YIELD. -/
theorem timeWakeClause (s : State) (slot k : Nat) (w : DWord) : let c := s.crewAt slot
    c.live → c.caught = false → (c.split k).wait = .time w → w ≤ s.heat.time →
    Completes (.timeWake slot k) s fun t =>
      t = { s with crews := t.crews } ∧ (∀ j, j ≠ slot → t.crewAt j = s.crewAt j) ∧
      t.crewAt slot = { c with splits := (t.crewAt slot).splits, clock := c.clock + 1 } ∧
      (∀ j, j ≠ k → (t.crewAt slot).split j = c.split j) ∧
      (t.crewAt slot).split k = { c.split k with spc := (c.split k).spc + 4, wait := .none } := by
  intro c hlive hcaught hwait htime
  have hexec : exec (.timeWake slot k) s = execTimeWake slot k s := rfl
  have hwake : execTimeWake slot k s = .next (s.atSplit slot k State.done) := by
    have hwait : ((s.crewAt slot).split k).wait = .time w := hwait
    have hguard : (c.live && !c.caught && decide (w ≤ s.heat.time)) = true := by simp [hlive, hcaught, htime]
    unfold execTimeWake
    dsimp only
    rw [hwait]
    exact congrArg Host.Outcome.next (if_pos hguard)
  have hcrews (j : Nat) : (s.atSplit slot k State.done).crewAt j = (s.setCrewAt slot (c.woken k)).crewAt j := rfl
  refine ⟨_, hexec.trans hwake, rfl, fun j hj => ?_, ?_⟩
  · rw [hcrews, State.crewAt_setCrewAt_ne _ _ hj]
  · rw [hcrews, State.crewAt_setCrewAt_same]
    exact ⟨rfl, fun j hj => c.split_updSplit_ne (fun p => { p with spc := (c.split k).spc + 4, wait := .none }) hj,
      c.split_updSplit_same k fun p => { p with spc := (c.split k).spc + 4, wait := .none }⟩

/-! ## The statement -/

/-- Settles O33: each event by its own lemma, the two traps by the one start of the handler that they share. -/
theorem coreEventEffects : Obligations.CoreEvents := by
  unfold Obligations.CoreEvents
  exact ⟨arrivalClause, laneTrapClause, scalarTrapClause, terminationClause,
    fun s slot row lane hlive hlane =>
      ⟨registerErrorClause s slot row lane hlive hlane, queueErrorClause s slot row lane hlive hlane⟩,
    memoryErrorClause, timeWakeClause⟩

end Sys2Proof.Machine
end

section
/-! The words of the scalar arithmetic, immediate, shift and field instructions, for O1. -/

namespace Sys2Proof

/-! ## Words of one instruction (R93, R94) -/

/-- A well-formed instruction is read off its encoding alone (R93). -/
theorem encodedAs_of_encode {i : Instr} {w : Word} (hwf : wellFormed i) (henc : encodeScalar i = some w) :
    Claim.EncodedAs i w := by
  intro v
  rw [decodeScalar_eq_ok_iff, henc, Option.some_inj]
  exact ⟨fun h => h.2.symm, fun h => ⟨hwf, h.symm⟩⟩

/-- The same, where the encoding joins its fields in another way. -/
theorem encodedAs_of_toNat {i : Instr} {x w : Word} (hwf : wellFormed i) (henc : encodeScalar i = some x)
    (hx : x.toNat = w.toNat) : Claim.EncodedAs i w :=
  encodedAs_of_encode hwf (henc.trans (congrArg some (BitVec.eq_of_toNat_eq hx)))

section
variable (d a b : RegNo) (u : BitVec 1) (k : BitVec 5)

theorem encodedAs_mulh : Claim.EncodedAs (.mulh d a b u) (0x0F#6 ++ d ++ a ++ b ++ (0#10 ++ u)) :=
  encodedAs_of_toNat rfl rfl (by simp [toNat_append_eq]; omega)

theorem encodedAs_div : Claim.EncodedAs (.div d a b u) (0x10#6 ++ d ++ a ++ b ++ (0#10 ++ u)) :=
  encodedAs_of_toNat rfl rfl (by simp [toNat_append_eq]; omega)

theorem encodedAs_bfx : Claim.EncodedAs (.bfx d a b u) (0x1A#6 ++ d ++ a ++ b ++ (0#7 ++ u ++ 0#3)) :=
  encodedAs_of_toNat rfl rfl (by simp [toNat_append_eq]; omega)

theorem encodedAs_clz : Claim.EncodedAs (.clz d a) (0x1A#6 ++ d ++ a ++ 0#5 ++ 2#11) :=
  encodedAs_of_toNat rfl rfl (by simp [toNat_append_eq]; omega)

theorem encodedAs_popc : Claim.EncodedAs (.popc d a) (0x1A#6 ++ d ++ a ++ 0#5 ++ 3#11) :=
  encodedAs_of_toNat rfl rfl (by simp [toNat_append_eq]; omega)

theorem encodedAs_brev : Claim.EncodedAs (.brev d a) (0x1A#6 ++ d ++ a ++ 0#5 ++ 4#11) :=
  encodedAs_of_toNat rfl rfl (by simp [toNat_append_eq]; omega)

/-- The shifts and rotations by a register and by an immediate amount (R144). -/
theorem encodedAs_shift : ∀ p ∈ [(0, Instr.shl d a b, Instr.shlImm d a k), (1, .shr d a b, .shrImm d a k),
      (2, .sra d a b, .sraImm d a k), (3, .rol d a b, .rolImm d a k), (4, .ror d a b, .rorImm d a k)],
    Claim.EncodedAs p.2.1 (0x14#6 ++ d ++ a ++ b ++ BitVec.ofNat 11 p.1) ∧
      Claim.EncodedAs p.2.2 (0x14#6 ++ d ++ a ++ 0#5 ++ BitVec.ofNat 11 (p.1 + 8 + 16 * k.toNat)) := by
  simp only [List.forall_mem_cons, List.not_mem_nil, false_imp_iff, implies_true, and_true]
  have hk := k.isLt
  refine ⟨⟨?_, ?_⟩, ⟨?_, ?_⟩, ⟨?_, ?_⟩, ⟨?_, ?_⟩, ?_, ?_⟩
  all_goals
    refine encodedAs_of_toNat rfl rfl ?_
    simp [toNat_append_eq]
  all_goals omega

end

/-! ## Words of none (R94, R144, R145) -/

/-- A word that fails a check, or what follows it, is no instruction. -/
theorem need_rejects {ok : Bool} {field value : Nat} {e : Except Reject Instr} (he : ∃ r, e = .error r) :
    ∃ r, need ok field value e = .error r := by
  cases ok
  · exact ⟨_, rfl⟩
  · exact he

/-- FN[2:0] as FN and as the word hold it. -/
theorem fn_low (w : Word) : (w.extractLsb' 0 11).extractLsb' 0 3 = w.extractLsb' 0 3 ∧
    (w.extractLsb' 0 3).toNat = (w.extractLsb' 0 11).toNat % 8 :=
  ⟨BitVec.eq_of_toNat_eq (by simp), by simp⟩

/-- SHF with an operation of 5 to 7 (R144). -/
theorem decodeScalar_shf_rejects {w : Word} (hop : (w.extractLsb' 26 6).toNat = 0x14)
    (hfn : 5 ≤ (w.extractLsb' 0 3).toNat) : ∃ r, decodeScalar w = .error r := by
  obtain ⟨hlow, hmod⟩ := fn_low w
  simp only [decodeScalar, hop, hlow]
  split
  · refine need_rejects (need_rejects ?_)
    split
    case h_6 => exact ⟨_, rfl⟩
    all_goals omega
  · split
    case h_6 => exact ⟨_, rfl⟩
    all_goals omega

/-- BITS with an operation of 5 to 7, or with FN[3] for another than BFX (R145). -/
theorem decodeScalar_bits_rejects {w : Word} (hop : (w.extractLsb' 26 6).toNat = 0x1A)
    (hfn : 5 ≤ (w.extractLsb' 0 3).toNat ∨ (w.extractLsb' 0 3).toNat ≠ 0 ∧ w.getLsbD 3) :
    ∃ r, decodeScalar w = .error r := by
  obtain ⟨hlow, hmod⟩ := fn_low w
  have hne : (w.extractLsb' 0 3).toNat ≠ 0 ∧ 5 ≤ (w.extractLsb' 0 11).toNat := by
    rcases hfn with hbig | ⟨hne, hbit⟩
    · omega
    · have hfn3 : (w.extractLsb' 0 11).toNat.testBit 3 = true := by
        rw [BitVec.testBit_toNat]
        simpa using hbit
      exact ⟨hne, (by decide : 5 ≤ 2 ^ 3).trans (Nat.ge_two_pow_of_testBit hfn3)⟩
  obtain ⟨hne, hbig⟩ := hne
  have hnotBfx : ¬(w.extractLsb' 0 3 == 0) = true := fun h => hne (congrArg BitVec.toNat (beq_iff_eq.mp h))
  clear hfn
  simp only [decodeScalar, hop, hlow, if_neg hnotBfx]
  split
  case h_5 => exact ⟨_, rfl⟩
  all_goals omega

theorem scalarEncodings : Claim.ScalarEncodings := by
  intro d a b u i l k sr
  refine ⟨⟨encodedAs_of_encode rfl rfl, encodedAs_of_encode rfl rfl, encodedAs_of_encode rfl rfl,
      encodedAs_mulh d a b u, encodedAs_div d a b u,
      encodedAs_of_encode rfl rfl, encodedAs_of_encode rfl rfl, encodedAs_of_encode rfl rfl⟩,
    ⟨encodedAs_of_encode rfl rfl, encodedAs_of_encode rfl rfl, encodedAs_of_encode rfl rfl⟩, encodedAs_shift d a b k,
    ⟨encodedAs_bfx d a b u, encodedAs_of_encode rfl rfl, encodedAs_clz d a, encodedAs_popc d a, encodedAs_brev d a⟩, ?_⟩
  rintro w op fn (⟨hop | hop, hfn⟩ | ⟨hop, hfn⟩)
  · exact decodeScalar_shf_rejects hop hfn
  · exact decodeScalar_bits_rejects hop (.inl hfn)
  · exact decodeScalar_bits_rejects hop (.inr hfn)

end Sys2Proof
end

section
/-! The results of the scalar arithmetic, immediate and shift words, for O1. -/

namespace Sys2Proof.Machine

/-! ## Words that write a register and complete -/

/-- A word whose meaning writes register d leaves the value there and nothing else changed (R132). -/
theorem Completes.of_write {i : Instr} {s : State} {d : RegNo} {v w : Word} (hexec : exec i s = .next (s.write d v))
    (hv : v = w) : Completes i s fun t => s.wrote t d w :=
  ⟨_, hexec, hv ▸ s.write_wrote d v⟩

/-- A word is the number that it reads as. -/
theorem word_eq_ofNat {x : Word} {n : Nat} (h : x.toNat = n) : x = .ofNat 32 n := by
  rw [← h, BitVec.ofNat_toNat, BitVec.setWidth_eq]

/-! ## Arithmetic on words (R141) -/

section
variable (x y : Word)

theorem word_add_eq : x + y = .ofInt 32 (x.toInt + y.toInt) := by
  rw [BitVec.ofInt_add, BitVec.ofInt_toInt, BitVec.ofInt_toInt]

theorem word_sub_eq : x - y = .ofInt 32 (x.toInt - y.toInt) :=
  BitVec.toInt_inj.mp (BitVec.toInt_sub.trans (BitVec.toInt_ofInt _).symm)

theorem word_mul_eq : x * y = .ofNat 32 (x.toNat * y.toNat) := by
  rw [BitVec.ofNat_mul, BitVec.ofNat_toNat, BitVec.ofNat_toNat, BitVec.setWidth_eq, BitVec.setWidth_eq]

theorem mulHigh_signed : mulHigh false x y = .ofInt 32 (x.toInt * y.toInt / 2 ^ 32) := by
  have hprod : x.signExtend 64 * y.signExtend 64 = .ofInt 64 (x.toInt * y.toInt) := (BitVec.ofInt_mul _ _).symm
  rw [mulHigh, if_neg (by decide), hprod]
  refine BitVec.eq_of_toNat_eq ?_
  rw [BitVec.extractLsb'_toNat, BitVec.toNat_ofInt, BitVec.toNat_ofInt, Nat.shiftRight_eq_div_pow]
  omega

theorem mulHigh_unsigned : mulHigh true x y = .ofNat 32 (x.toNat * y.toNat / 2 ^ 32) := by
  rw [mulHigh, if_pos rfl]
  refine BitVec.eq_of_toNat_eq ?_
  rw [BitVec.extractLsb'_toNat, BitVec.toNat_mul, BitVec.toNat_setWidth_of_le (by decide),
    BitVec.toNat_setWidth_of_le (by decide), BitVec.toNat_ofNat, Nat.shiftRight_eq_div_pow]
  omega

theorem divide_signed : divide false x y = if y = 0 then 0xFFFFFFFF else .ofInt 32 (x.toInt.tdiv y.toInt) := by
  have hquot : x.sdiv y = .ofInt 32 (x.toInt.tdiv y.toInt) :=
    BitVec.toInt_inj.mp ((x.toInt_sdiv y).trans (BitVec.toInt_ofInt _).symm)
  rw [divide, if_neg (by decide : ¬false = true), hquot]

theorem divide_unsigned : divide true x y = if y = 0 then 0xFFFFFFFF else .ofNat 32 (x.toNat / y.toNat) := by
  have hquot : x / y = .ofNat 32 (x.toNat / y.toNat) := word_eq_ofNat BitVec.toNat_udiv
  rw [divide, if_pos rfl, hquot]

end

theorem scalarArithmetic : Claim.ScalarArithmetic := by
  intro s d a b x y
  exact ⟨.of_write rfl (word_add_eq x y), .of_write rfl (word_sub_eq x y), .of_write rfl (word_mul_eq x y),
    .of_write rfl (mulHigh_signed x y), .of_write rfl (mulHigh_unsigned x y), .of_write rfl (divide_signed x y),
    .of_write rfl (divide_unsigned x y), ⟨x &&& y, .of_write rfl rfl, fun _ _ => BitVec.getLsbD_and⟩,
    ⟨x ||| y, .of_write rfl rfl, fun _ _ => BitVec.getLsbD_or⟩,
    x ^^^ y, .of_write rfl rfl, fun _ _ => BitVec.getLsbD_xor⟩

/-! ## Immediates (R142) -/

theorem lui_eq (i : BitVec 16) (x : Word) :
    i ++ x.extractLsb' 0 16 = BitVec.ofNat 32 (i.toNat * 2 ^ 16 + x.toNat % 2 ^ 16) := by
  refine BitVec.eq_of_toNat_eq ?_
  simp [toNat_append_eq]
  omega

theorem scalarImmediates : Claim.ScalarImmediates := fun s _ a i _ =>
  ⟨.of_write rfl (ea_eq (s.sreg a) i), .of_write rfl rfl, .of_write rfl (lui_eq i (s.sreg _))⟩

/-! ## Shifts (R144) -/

/-- The low five bits of a register as an amount. -/
theorem shiftAmount_eq (y : Word) : (y.extractLsb' 0 5).toNat = y.toNat % 32 := by simp

theorem word_shl_eq (x : Word) (n : Nat) : x <<< n = .ofNat 32 (x.toNat * 2 ^ n) :=
  BitVec.eq_of_toNat_eq (by rw [BitVec.toNat_shiftLeft, BitVec.toNat_ofNat, Nat.shiftLeft_eq])

theorem word_shr_eq (x : Word) (n : Nat) : x >>> n = .ofNat 32 (x.toNat / 2 ^ n) :=
  word_eq_ofNat ((BitVec.toNat_ushiftRight x n).trans (Nat.shiftRight_eq_div_pow _ _))

theorem word_sra_eq (x : Word) (n : Nat) : x.sshiftRight n = .ofInt 32 (x.toInt / 2 ^ n) := by
  have hdiv := Int.shiftRight_eq_div_pow x.toInt n
  rw [Nat.cast_pow] at hdiv
  rw [BitVec.sshiftRight, hdiv]
  rfl

/-- The two parts of a rotation lie in different bits, so that they may as well be added. -/
theorem rotate_parts (v : Nat) {n m : Nat} (hnm : n + m = 32) (hv : v < 2 ^ 32) :
    v <<< n % 2 ^ 32 ||| v >>> m = v * 2 ^ n % 2 ^ 32 + v / 2 ^ m := by
  have hhigh : v * 2 ^ n % 2 ^ 32 = (v % 2 ^ m) <<< n := by
    rw [← hnm, Nat.pow_add, Nat.mul_comm (2 ^ n) (2 ^ m), Nat.mul_mod_mul_right, Nat.shiftLeft_eq]
  have hlow : v / 2 ^ m < 2 ^ n := Nat.div_lt_of_lt_mul (by rwa [← Nat.pow_add, Nat.add_comm, hnm])
  rw [Nat.shiftLeft_eq v, hhigh, Nat.shiftRight_eq_div_pow, Nat.shiftLeft_add_eq_or_of_lt hlow]

theorem word_rol_eq (x : Word) {n : Nat} (hn : n < 32) :
    x.rotateLeft n = .ofNat 32 (x.toNat * 2 ^ n % 2 ^ 32 + x.toNat / 2 ^ (32 - n)) :=
  word_eq_ofNat (by rw [BitVec.toNat_rotateLeft, Nat.mod_eq_of_lt hn, rotate_parts x.toNat (by omega) x.isLt])

theorem word_ror_eq (x : Word) {n : Nat} (hn : n < 32) :
    x.rotateRight n = .ofNat 32 (x.toNat / 2 ^ n + x.toNat * 2 ^ (32 - n) % 2 ^ 32) :=
  word_eq_ofNat (by
    rw [BitVec.toNat_rotateRight, Nat.mod_eq_of_lt hn, Nat.lor_comm, rotate_parts x.toNat (by omega) x.isLt, Nat.add_comm])

theorem scalarShifts : Claim.ScalarShifts := by
  intro s d a b k x does
  have hamount := shiftAmount_eq (s.sreg b)
  have hboth {reg imm : Instr} {f : Word → Nat → Word} {v : Nat → Word} (hreg : exec reg s = s.shiftReg d a b f)
      (himm : exec imm s = s.shiftImm d a k f) (hv : ∀ n < 32, f x n = v n) : does reg imm v :=
    ⟨.of_write hreg (by rw [hamount]; exact hv _ (Nat.mod_lt _ (by decide))), .of_write himm (hv _ k.isLt)⟩
  exact ⟨hboth rfl rfl fun n _ => word_shl_eq x n, hboth rfl rfl fun n _ => word_shr_eq x n,
    hboth rfl rfl fun n _ => word_sra_eq x n, hboth rfl rfl fun _ hn => word_rol_eq x hn,
    hboth rfl rfl fun _ hn => word_ror_eq x hn⟩

end Sys2Proof.Machine
end

section
/-! The results of the scalar field and compare words, and the scalar words together (O1). -/

namespace Sys2Proof.Machine

/-! ## Fields (R145) -/

/-- Position and length of a field, cut at bit 31. -/
theorem wordField_eq (y : Word) : wordField y = (y.toNat % 32, min (y.toNat / 256 % 64) (32 - y.toNat % 32)) := by
  simp [wordField, Nat.shiftRight_eq_div_pow]

theorem wordField_fits {y : Word} {pos len : Nat} (h : wordField y = (pos, len)) : pos < 32 ∧ pos + len ≤ 32 := by
  rw [wordField_eq, Prod.mk.injEq] at h
  omega

/-- The low n bits set. -/
theorem getLsbD_ones {n j : Nat} (hj : j < 32) : (BitVec.ofNat 32 (2 ^ n - 1)).getLsbD j = decide (j < n) := by
  rw [BitVec.getLsbD_ofNat, decide_eq_true hj, Bool.true_and, Nat.testBit_two_pow_sub_one]

section
variable {x y : Word} {pos len j : Nat} (hfield : wordField y = (pos, len))
include hfield

theorem wordExtract_unsigned : wordExtract false x y = .ofNat 32 (x.toNat / 2 ^ pos % 2 ^ len) := by
  obtain ⟨-, hend⟩ := wordField_fits hfield
  have hlen : 2 ^ len - 1 < 2 ^ 32 := by
    have := Nat.pow_le_pow_right (n := 2) (by decide) (show len ≤ 32 by omega)
    omega
  rw [wordExtract, hfield]
  refine word_eq_ofNat ?_
  show (x >>> pos &&& BitVec.ofNat 32 (2 ^ len - 1)).toNat = _
  rw [BitVec.toNat_and, BitVec.toNat_ushiftRight, BitVec.toNat_ofNat, Nat.mod_eq_of_lt hlen, Nat.and_two_pow_sub_one_eq_mod,
    Nat.shiftRight_eq_div_pow]

/-- A bit of the field, filled with its last bit where it is signed. -/
theorem wordExtract_signed (hj : j < 32) :
    (wordExtract true x y).getLsbD j = (len != 0 && x.getLsbD (pos + min j (len - 1))) := by
  obtain ⟨-, hend⟩ := wordField_fits hfield
  have hlow {i : Nat} (hi : i < 32) : (x >>> pos &&& BitVec.ofNat 32 (2 ^ len - 1)).getLsbD i =
      (x.getLsbD (pos + i) && decide (i < len)) := by
    rw [BitVec.getLsbD_and, BitVec.getLsbD_ushiftRight, getLsbD_ones hi]
  have hfill : (~~~BitVec.ofNat 32 (2 ^ len - 1)).getLsbD j = !decide (j < len) := by
    rw [BitVec.getLsbD_not, getLsbD_ones hj, decide_eq_true hj, Bool.true_and]
  rw [wordExtract, hfield]
  dsimp only
  rcases Nat.eq_zero_or_pos len with rfl | hpos
  · rw [if_neg (by simp), hlow hj]
    simp
  · rw [hlow (by omega), apply_ite (BitVec.getLsbD · j), BitVec.getLsbD_or, hfill, hlow hj]
    by_cases hin : j < len
    · rw [Nat.min_eq_left (by omega)]
      simp [hin, hpos.ne']
    · rw [Nat.min_eq_right (by omega)]
      simp [hin, hpos, hpos.ne']

/-- A bit of the word that BFI makes: of the field, or as it was. -/
theorem wordInsert_bit {old : Word} (hj : j < 32) :
    (wordInsert old x y).getLsbD j = if pos ≤ j ∧ j < pos + len then x.getLsbD (j - pos) else old.getLsbD j := by
  have hmask : (BitVec.ofNat 32 (2 ^ len - 1) <<< pos).getLsbD j = decide (pos ≤ j ∧ j < pos + len) := by
    rw [BitVec.getLsbD_shiftLeft, getLsbD_ones (by omega), decide_eq_true hj, Bool.true_and, ← decide_not,
      ← Bool.decide_and]
    exact decide_eq_decide.mpr (by omega)
  rw [wordInsert, hfield]
  dsimp only
  rw [BitVec.getLsbD_or, BitVec.getLsbD_and, BitVec.getLsbD_and, BitVec.getLsbD_not, hmask, BitVec.getLsbD_shiftLeft,
    decide_eq_true hj]
  split
  case isTrue hin => simp [hin]
  case isFalse hout => simp [hout]

end

/-- What CLZ counts: no set bit among the leading ones, and one at their end. -/
theorem countLead_spec (x : Word) (n : Nat) : countLead x n ≤ n ∧
    (∀ j < n, n - countLead x n ≤ j → x.getLsbD j = false) ∧
    (countLead x n < n → x.getLsbD (n - 1 - countLead x n) = true) := by
  induction n with
  | zero => simp [countLead]
  | succ n ih =>
    obtain ⟨hle, hzero, hone⟩ := ih
    by_cases hbit : x.getLsbD n = true
    · simp [countLead, hbit]
      omega
    · rw [countLead, if_neg hbit]
      refine ⟨by omega, fun j hj hlead => ?_, fun hlt => ?_⟩
      · rcases Nat.lt_succ_iff_lt_or_eq.mp hj with hj | rfl
        · exact hzero j hj (by omega)
        · simpa using hbit
      · have := hone (by omega)
        rwa [show n + 1 - 1 - (countLead x n + 1) = n - 1 - countLead x n by omega]

theorem countOnes_eq (x : Word) (n : Nat) : countOnes x n = ((List.range n).filter fun j => x.getLsbD j).length := by
  induction n with
  | zero => rfl
  | succ n ih =>
    rw [countOnes, ih, List.range_succ, List.filter_append, List.length_append]
    cases h : x.getLsbD n <;> simp [h]

theorem reverse_bit (x : Word) {j : Nat} (hj : j < 32) : x.reverse.getLsbD j = x.getLsbD (31 - j) := by
  rw [BitVec.getLsbD_reverse, BitVec.getMsbD, decide_eq_true hj, Bool.true_and]

theorem scalarFieldResults : Claim.ScalarFields := by
  intro s d a b x pos len
  have hfield : wordField (s.sreg b) = (pos, len) := wordField_eq _
  obtain ⟨hle, hzero, hone⟩ := countLead_spec x 32
  have hclz : (BitVec.ofNat 32 (countLead x 32)).toNat = countLead x 32 := by
    rw [BitVec.toNat_ofNat, Nat.mod_eq_of_lt (by omega)]
  refine ⟨.of_write rfl (wordExtract_unsigned hfield), ⟨_, .of_write rfl rfl, fun _ => wordExtract_signed hfield⟩,
    ⟨_, .of_write rfl rfl, fun _ => wordInsert_bit hfield⟩, ⟨_, .of_write rfl rfl, ?_⟩,
    .of_write rfl (congrArg _ (countOnes_eq x 32)), _, .of_write rfl rfl, fun _ => reverse_bit x⟩
  rw [hclz]
  exact ⟨hle, hzero, hone⟩

/-! ## Compare and select (R143) -/

/-- A scalar register as a number, without or with its sign. -/
def wordInt (u : BitVec 1) (x : Word) : Int := if u = 1 then x.toNat else x.toInt

/-- The truth of the relation of a cond code, 0 to 5, on numbers (R143). -/
def intHolds (c : BitVec 3) (x y : Int) : Bool :=
  match c.toNat with
  | 0 => decide (x = y) | 1 => decide (x ≠ y) | 2 => decide (x < y) | 3 => decide (x ≤ y) | 4 => decide (y < x)
  | _ => decide (y ≤ x)

theorem wordInt_inj {u : BitVec 1} {x y : Word} : wordInt u x = wordInt u y ↔ x = y := by
  unfold wordInt
  split
  · rw [Int.ofNat_inj, BitVec.toNat_inj]
  · exact BitVec.toInt_inj

theorem wordInt_lt (u : BitVec 1) (x y : Word) :
    (if (u == 1) = true then x.ult y else x.slt y) = decide (wordInt u x < wordInt u y) := by
  simp only [wordInt, beq_iff_eq, BitVec.ult_eq_decide, BitVec.slt_eq_decide]
  split
  · simp
  · rfl

theorem relHolds_eq (c : BitVec 3) (u : BitVec 1) (x y : Word) :
    relHolds c (u == 1) x y = intHolds c (wordInt u x) (wordInt u y) := by
  have heq : (x == y) = decide (wordInt u x = wordInt u y) := by
    rw [Bool.eq_iff_iff, beq_iff_eq, decide_eq_true_iff, wordInt_inj]
  unfold relHolds intHolds
  rw [wordInt_lt, bne, heq]
  generalize wordInt u x = m
  generalize wordInt u y = n
  dsimp only
  generalize c.toNat = k
  match k with
  | 0 | 2 => rfl
  | 1 => exact decide_not.symm
  | 3 => exact (Bool.decide_or _ _).symm.trans (decide_eq_decide.mpr le_iff_lt_or_eq.symm)
  | 4 =>
    show (!decide (m < n) && !decide (m = n)) = decide (n < m)
    rw [← decide_not, ← decide_not, ← Bool.decide_and]
    exact decide_eq_decide.mpr (by omega)
  | k + 5 => exact decide_not.symm.trans (decide_eq_decide.mpr not_lt)

/-- The scalar predicates after one is set (R143). -/
theorem Crew.sp_setSp (c : Crew) (n : BitVec 3) (v : Bool) {j : Nat} (hj : j < 8) :
    (c.setSp n v).sp.getLsbD j = if j = n.toNat then v else c.sp.getLsbD j := by
  have hn := n.isLt
  have hbit : (1#8 <<< n.toNat).getLsbD j = decide (j = n.toNat) := by
    rw [BitVec.getLsbD_shiftLeft, decide_eq_true hj, BitVec.getLsbD_one, Bool.true_and, ← decide_not]
    simp only [← Bool.decide_and]
    exact decide_eq_decide.mpr (by omega)
  unfold Crew.setSp
  cases v
  · show (c.sp &&& ~~~(1#8 <<< n.toNat)).getLsbD j = _
    rw [BitVec.getLsbD_and, BitVec.getLsbD_not, hbit, decide_eq_true hj]
    by_cases h : j = n.toNat <;> simp [h]
  · show (c.sp ||| 1#8 <<< n.toNat).getLsbD j = _
    rw [BitVec.getLsbD_or, hbit]
    by_cases h : j = n.toNat <;> simp [h]

theorem scalarCompare : Claim.ScalarCompare := by
  intro s d a b n u c x y holds
  have hrel : relHolds c (u == 1) (s.sreg a) (s.sreg b) = holds := relHolds_eq c u _ _
  have hexec : exec (.cmp d a b n u c) s = execCmp d a b n u c s := rfl
  refine ⟨fun hcond => ?_, fun hcond => ⟨_, hexec.trans (if_pos hcond)⟩, .of_write rfl rfl⟩
  have hlow : ¬6 ≤ c := Nat.not_le.mpr hcond
  rw [execCmp, if_neg hlow, hrel] at hexec
  refine ⟨_, hexec, s.updCrew fun cr => cr.setSp n holds, s.onlyCrew_updCrew _, ?_, fun j hj => ?_,
    State.write_wrote _ _ _⟩
  · rw [s.crew_updCrew]
    rfl
  · rw [s.crew_updCrew, Crew.sp_setSp _ _ _ hj]

/-- Settles O1: each word by its encoding, and by the value that it writes. -/
theorem scalarResults : Obligations.ScalarResults :=
  ⟨scalarEncodings, scalarArithmetic, scalarImmediates, scalarShifts, scalarFieldResults, scalarCompare⟩

end Sys2Proof.Machine
end

section
/-! TRAP and ERET (O5). -/

namespace Sys2Proof.Machine

/-! ## TRAP (R137, R201, R208) -/

/-- A scalar trap that resumes behind its word starts the handler as one that tries the word again does, but for
TRAPSPC, which is at the next word (R204). -/
theorem State.takeTrap_behind {s : State} (i : TrapInfo) (hout : s.crew.trap.handler = false)
    (hvec : s.settings.trap ≠ 0) : ∃ tr p, TrapStart s i false { tr with spc := s.split.spc } p ∧
      tr.spc = s.split.spc + 4 ∧ s.takeTrap i false true = s.interrupt.setCrewAt s.cur
        { (s.interrupt.crewAt s.cur).setSplit (s.trapSplit false) p with trap := tr, laneQ := [] } := by
  obtain ⟨hq, htrap, -, hsplit⟩ := s.interrupted_interrupt
  have hpspc : ((s.interrupt.crewAt s.cur).split s.curSplit).spc = s.split.spc := by
    obtain ⟨w, hw⟩ := hsplit s.curSplit
    rw [hw]
    rfl
  have hset := s.settings_interrupt
  have hk := s.trapSplit_eq false
  unfold State.takeTrap
  extract_lets slot c head k named s1 s2 u d p held oldest lpc cause tr l cls ended mask p'
  have hl : l = s.settings := hset
  have hstart : ¬(d.trap.handler || decide (l.trap = 0)) = true := by
    rw [show d.trap = s.crew.trap from htrap, hl, hout]
    simpa using hvec
  have hspc : (if !false && true then p.spc + 4 else p.spc) = s.split.spc + 4 :=
    (if_pos rfl).trans (congrArg (· + 4) hpspc)
  rw [← hk]
  exact ⟨tr, p', ⟨rfl, rfl, rfl, hk, hq, rfl, rfl, congrArg JobSpec.trap hl, fun e he => nomatch he⟩,
    hspc, if_neg hstart⟩

/-- The same, as the crew in focus shows it. -/
theorem State.takeTrap_behind_starts {s : State} (i : TrapInfo) (hout : s.crew.trap.handler = false)
    (hvec : s.settings.trap ≠ 0) : let t := s.takeTrap i false true
    ∃ tr p, TrapStart s i false { tr with spc := s.split.spc } p ∧ tr.spc = s.split.spc + 4 ∧ t.crew.trap = tr ∧
      t.split = p := by
  obtain ⟨tr, p, hstart, hspc, htaken⟩ := State.takeTrap_behind i hout hvec
  have hcur : s.interrupt.cur = s.cur := by rw [s.interrupt_frame]
  have hfocus : s.interrupt.curSplit = s.curSplit := by rw [s.interrupt_frame]
  refine ⟨tr, p, hstart, hspc, ?_⟩
  rw [htaken, State.split, State.setCrewAt_curSplit, hfocus, State.crew_setCrewAt_of_cur hcur]
  generalize s.interrupt.crewAt s.cur = d
  have hown := d.split_setSplit_same s.curSplit p
  exact ⟨rfl, hown⟩

theorem softwareTrap : Claim.SoftwareTrap := by
  intro s i hout hvec
  obtain ⟨tr, p, hstart, hspc, htrap, hsplit⟩ :=
    State.takeTrap_behind_starts (scalarInfo 0x13 0 0 (i.setWidth 32)) hout hvec
  have hexec : exec (.trap i) s = .next (s.takeTrap (scalarInfo 0x13 0 0 (i.setWidth 32)) false true) := rfl
  have hcause := hstart.cause.trans (show _ = (0x02130000 : Word) by simp [scalarInfo])
  have hopnd := hstart.opnd.trans (BitVec.ofNat_toNat 32 i).symm
  refine ⟨_, hexec, ?_⟩
  dsimp only
  rw [htrap, hsplit]
  exact ⟨hcause, hspc, hopnd, hstart.addr, hstart.handler, hstart.vector⟩

/-! ## ERET (R208) -/

/-- The split that an ERET restores (R208). -/
def TrapState.resumed (tr : TrapState) (p : Split) (lpc : Nat) : Split :=
  { p with
    mask := tr.savedMask, fmtr := tr.savedFmtr, lpc := lpc, pendingRep := tr.savedRep, spc := tr.spc, wait := .none
    lrunLeft := if tr.spc = tr.savedSpc then tr.savedLrun else none }

/-- The crew that an ERET leaves: one split restored, the queue as given, no handler and no held entry (R208). -/
def Crew.returned (c : Crew) (lpc : Nat) (q : List LaneEntry) : Crew :=
  { c.setSplit c.trap.split (c.trap.resumed (c.split c.trap.split) lpc) with
    laneQ := q, clock := c.clock + 1, trap := { c.trap with handler := false, held := [] } }

/-- The held entries that an ERET requeues and the LPC that it restores, by where TRAPLPC stands (R208). -/
theorem State.returnFromTrap_eq (s : State) : let tr := s.crew.trap
    let mine := tr.held.filter fun e => e.owner == tr.split
    let others := tr.held.filter fun e => e.owner != tr.split
    let first := mine.head?.map LaneEntry.lpc
    s.returnFromTrap = s.setCrew (
      if first = some tr.lpc then s.crew.returned tr.savedLpc (mine ++ others)
      else if first.map (· + 12) = some tr.lpc then s.crew.returned tr.savedLpc (mine.tail ++ others)
      else s.crew.returned tr.lpc others) := by
  intro tr mine others first
  unfold State.returnFromTrap
  dsimp only
  split
  · rfl
  · split <;> rfl

/-- ERET outside a handler, in a handler whose lane work goes on, and after it (R137, R208). -/
theorem State.exec_eret (s : State) : exec .eret s =
    if s.crew.trap.handler = false then .next (s.raise 0x01 0 0 0x0B)
    else if s.crew.lanesIdle = false then .next (s.stay .lanes) else .next s.returnFromTrap := by
  have hexec : exec .eret s = execEret s := rfl
  rw [hexec, execEret]
  simp only [Bool.not_eq_true']
  rfl

theorem trapReturn : Claim.TrapReturn := by
  intro s tr k p mine others first back
  have hback {q : List LaneEntry} {lpc : Nat} (hhandler : tr.handler) (hidle : s.crew.lanesIdle)
      (hto : s.returnFromTrap = s.setCrew (s.crew.returned lpc q)) : back q lpc := by
    have hreturns := (s.exec_eret.trans (if_neg (by simpa using hhandler))).trans (if_neg (by simpa using hidle))
    refine ⟨_, hreturns.trans (congrArg _ hto), s.onlyCrew_updCrew fun _ => _, ?_⟩
    rw [s.crew_setCrew]
    exact ⟨rfl, fun j hj => Crew.split_setSplit_ne _ _ hj, Crew.split_setSplit_same ..⟩
  have hto := s.returnFromTrap_eq
  refine ⟨fun hout => s.exec_eret.trans (if_pos hout), fun hhandler hbusy => ?_, fun hhandler hidle =>
    ⟨fun hagain => ?_, fun hbehind => ?_, fun hagain hbehind => ?_⟩⟩
  · exact ⟨_, (s.exec_eret.trans (if_neg (by simpa using hhandler))).trans (if_pos hbusy), s.stay_stayed .lanes⟩
  · exact hback hhandler hidle (hto.trans (congrArg s.setCrew (if_pos hagain)))
  · have hagain : first ≠ some tr.lpc := fun hagain => by
      rw [hagain, Option.map_some, Option.some_inj] at hbehind
      exact absurd hbehind (by omega)
    exact hback hhandler hidle (hto.trans (congrArg s.setCrew ((if_neg hagain).trans (if_pos hbehind))))
  · exact hback hhandler hidle (hto.trans (congrArg s.setCrew ((if_neg hagain).trans (if_neg hbehind))))

/-- Settles O5: the handler's start that TRAP shares with other traps, and the queue that ERET leaves. -/
theorem softwareTraps : Obligations.SoftwareTraps := ⟨softwareTrap, trapReturn⟩

end Sys2Proof.Machine
end
